-- ==== Sys2Proof/Word.lean ====
section
/-!
DEFINITION. The word types of the Z9 (00_scope.md R1, R6) and their plainest arithmetic. Bits are numbered from 0,
the least significant; multi-byte values in memory are little-endian, but byte order is decided in Machine/Ops.lean.
-/

namespace Sys2Proof

/-- A byte of memory. -/
abbrev Byte := BitVec 8
/-- 16 bits: a gang mask, a shape field. -/
abbrev W16 := BitVec 16
/-- 32 bits: a vector register of one lane, a code offset, a predicate over 32 lanes. -/
abbrev W32 := BitVec 32
/-- 64 bits: a scalar register, an instruction word, a control and status register. -/
abbrev W64 := BitVec 64
/-- One bit per lane of a group. -/
abbrev Mask := BitVec 32

/-- The value none of a meeting register, of TVEC and of a null row id (04 R65, 18 R297, 10 R185). -/
abbrev noneWord : W32 := 0xFFFF_FFFF#32

end Sys2Proof
end

