-- ==== Sys2Proof/Config.lean ====
section
/-!
DEFINITION. What an implementation fixes and the free values: constants with no body, so that no proof can lean on a
value the spec leaves open. Each is named in the assumption log (notes/assumptions/5.md, 9.md and 11.md).
-/

namespace Sys2Proof.Config

/-- A fresh free value for each number of the counter State.free (log 5). -/
opaque freeWord : Nat → W64
/-- DESIGN CHOICE (log 11): whether the n-th translation uses a cached entry (07 R135 leaves old or new open). -/
opaque useCached : Nat → Bool
/-- The CRC-24 of a beat's content and trailer bits 7:0; the spec gives no polynomial (19 R327, log 9). -/
opaque crc24 : List Byte → Byte → BitVec 24
/-- The i-th byte of the key stream of AES-256-GCM under a key, a salt and a counter (19 R340, log 9). -/
opaque gcmStream : BitVec 256 → W32 → W64 → Nat → Byte
/-- The tag of AES-256-GCM under a key, a salt and a counter: of the header and the ciphertext (19 R340, log 9). -/
opaque gcmTag : BitVec 256 → W32 → W64 → List Byte → List Byte → BitVec 128
/-- What a 16-byte block written under one memory key reads as under another: the two key serials, the block's
number and its bytes (21 R357: neither sees the other's plaintext; log 9). -/
opaque garble : Nat → Nat → Nat → BitVec 128 → BitVec 128
/-- The firmware's answer to an SPDM, IDE_KM or TDISP message, numbered by the free counter, given the contents of the
measurement blocks 1 to 4 (21 R356, log 9). -/
opaque spdmAnswer : Nat → List Byte → List (List Byte) → List Byte
/-- The IDE stream that an IDE_KM message keys, 0 the link stream and f that of VF f, and its key; no key where the message stops
the stream (21 R351: the spec gives no message format; log 9). -/
opaque ideKm : List Byte → Option (Nat × Option (BitVec 256))
/-- The bytes of the ROM image that measurement block 1 is taken of, and the fused part configuration of block 2 (21 R356, log
9). -/
opaque romImage : List Byte
opaque fuses : List Byte
/-- Whether some die's junction sensor stands at 95 °C or above in the n-th cc of a thermal emergency (21 R363, log 5). -/
opaque dieHot : Nat → Bool
/-- The energy in µJ that the n-th metering charges to a block (21 R362: the spec gives no figure; log 5). -/
opaque energy : Nat → Nat
/-- The device serial number, fused at manufacture (21 R354, log 5). -/
opaque serialNumber : W64
/-- The REASON and SIZE of FKIND when a retrieval instruction raises a HASH cause after acceptance (18 R301 names none; log
33). -/
opaque hashKind : Nat
/-- A free choice of a number, where the spec leaves an order or a timing among several open (08 R159; log 5). -/
opaque pick : Nat → Nat
/-- Whether a peer's port to another peer is FULL or HALF, as the firmware's fabric map shows it at the n-th look (19
R334: the map is learned from the peers; log 5). -/
opaque peerLink : Nat → Nat → Nat → Bool

/-- One core clock is 588 ps, so 1 µs is 1,700 cc at the 1.7 GHz arithmetic clock (00 R4). -/
def ccPerMicro : Nat := 1700

end Sys2Proof.Config
end

