-- ==== Sys2Proof/Syntax.lean ====
section
/-!
DEFINITION. The instructions of the Kulos architecture (02_encoding.md R18 to R37) and the other whole and indivisible
steps of the device (95_what_each_step_holds.md): one constructor of Instr for each row of spec/opcode_table.json. An
instruction word is read by its form (R27) into a record of its fields; what the fields may hold is the matter of
Decode.lean and WellFormed.lean. An event carries what the outside world or the schedule supplies to it.
-/

namespace Sys2Proof

/-- An operand, by the codes of R26. A reserved code 0xF6 to 0xFE is kept so that reading a field loses nothing. -/
inductive Opnd where
  | v (i : Fin 128)        -- v0 to v127
  | s (i : Fin 64)         -- s0 to s63
  | p (i : Fin 8)          -- p0 to p7
  | th (i : Fin 16)        -- th0 to th15
  | hf (i : Fin 8)         -- hf0 to hf7
  | ic (i : Fin 16)        -- ic0 to ic15
  | bnd | mt | gang | laneid | homelane | stage
  | reserved (i : Fin 9)   -- 0xF6 to 0xFE
  | none                   -- 0xFF
  deriving DecidableEq, Repr

/-- V form (R27, R28): fmt 15:12, rnd 11:9, nas 8:6, sub-op 5:0 of the modifier. -/
structure VForm where
  la  : BitVec 4
  g   : BitVec 4
  d   : Opnd
  a   : Opnd
  b   : Opnd
  c   : Opnd
  fmt : BitVec 4
  rnd : BitVec 3
  nas : BitVec 3
  sub : BitVec 6
  deriving DecidableEq, Repr

/-- K form (R27): a 32-bit immediate in bits 31:0. -/
structure KForm where
  la  : BitVec 4
  g   : BitVec 4
  d   : Opnd
  a   : Opnd
  imm : W32
  deriving DecidableEq, Repr

/-- J form (R27, R30): a signed count of 8-byte words in bits 31:0. -/
structure JForm where
  la  : BitVec 4
  g   : BitVec 4
  d   : Opnd
  a   : Opnd
  off : W32
  deriving DecidableEq, Repr

/-- The offset part of a memory form (R29, bit 6): register offset b with register c, or a signed 16-bit offset. -/
inductive MOff where
  | reg (b c : Opnd)
  | imm (off : W16)
  deriving DecidableEq, Repr

/-- M and MI forms (R27, R29). -/
structure MForm where
  la    : BitVec 4
  g     : BitVec 4
  d     : Opnd
  a     : Opnd
  o     : MOff
  size  : BitVec 4
  scope : BitVec 3
  order : BitVec 2
  space : BitVec 2
  hint  : BitVec 4
  deriving DecidableEq, Repr

/-- T form (R27, R31): slot 15:13, flags 12:6, sub-op 5:0, and the 16 shape fields of the four inline words. -/
structure TForm where
  la    : BitVec 4
  g     : BitVec 4
  d     : Opnd
  a     : Opnd
  b     : Opnd
  c     : Opnd
  slot  : BitVec 3
  flags : BitVec 7
  sub   : BitVec 6
  sh0   : W64
  sh1   : W64
  sh2   : W64
  sh3   : W64
  deriving DecidableEq, Repr

/-- P form (R27, R32): the queue in bits 15:8, res0 in 31:16 and 7:0. -/
structure PForm where
  la    : BitVec 4
  g     : BitVec 4
  d     : Opnd
  a     : Opnd
  resHi : W16
  queue : BitVec 8
  resLo : BitVec 8
  deriving DecidableEq, Repr

/-- S form (R27, R33): the register number in bits 27:16, res0 in 31:28 and 15:6. -/
structure SForm where
  la    : BitVec 4
  g     : BitVec 4
  d     : Opnd
  a     : Opnd
  resHi : BitVec 4
  csr   : BitVec 12
  resLo : BitVec 10
  sub   : BitVec 6
  deriving DecidableEq, Repr

/-- The header fields of a fabric data packet with its plaintext payload (19 R328). -/
structure Packet where
  seq     : W32
  type    : Nat
  kidx    : Bool
  orig    : Bool
  masked  : Bool
  sdev    : Nat
  ddev    : Nat
  len     : Nat
  oport   : Nat
  ctr     : W64
  addr    : Nat
  score   : Nat
  aop     : Nat
  b64     : Bool
  scope   : Nat
  order   : Nat
  oseq    : W32
  tag     : Nat
  payload : List Byte
  deriving DecidableEq, Repr

/-- A command entry of a submission ring (21 R353), with the function whose ring it came from. -/
structure HostCmd where
  fn    : Nat
  op    : Nat
  flags : Nat
  cid   : W32
  ctx   : Nat
  res0  : Bool     -- a reserved field was nonzero
  a0    : W64
  a1    : W64
  a2    : W64
  a3    : W64
  a4    : W64
  a5    : W64
  deriving DecidableEq, Repr

/-- The causes a lane can take (R38, R39 and the cause table of each chapter); their codes and ranks are Cause.code
and Cause.rank of Decode.lean. -/
inductive Cause where
  | badClauseHeader  -- BAD_CLAUSE_HEADER
  | clauseOverrun  -- CLAUSE_OVERRUN
  | illegalOpcode  -- ILLEGAL_OPCODE
  | illegalClauseMix  -- ILLEGAL_CLAUSE_MIX
  | illegalEncoding  -- ILLEGAL_ENCODING
  | illegalSubop  -- ILLEGAL_SUBOP
  | illegalOperand  -- ILLEGAL_OPERAND
  | lookaheadViolation  -- LOOKAHEAD_VIOLATION
  | badBranchTarget  -- BAD_BRANCH_TARGET
  | meetingDeadlock  -- MEETING_DEADLOCK
  | brpkIllegal  -- BRPK_ILLEGAL
  | brpkMismatch  -- BRPK_MISMATCH
  | misaligned  -- MISALIGNED
  | addressNoncanonical  -- ADDRESS_NONCANONICAL
  | scratchRange  -- SCRATCH_RANGE
  | bufferRange  -- BUFFER_RANGE
  | paramRange  -- PARAM_RANGE
  | paUnmapped  -- PA_UNMAPPED
  | pteMalformed  -- PTE_MALFORMED
  | translationAbort  -- TRANSLATION_ABORT
  | fetchAbort  -- FETCH_ABORT
  | barrierUninit  -- BARRIER_UNINIT
  | barrierBadCount  -- BARRIER_BAD_COUNT
  | barrierCountMismatch  -- BARRIER_COUNT_MISMATCH
  | barrierLiveReinit  -- BARRIER_LIVE_REINIT
  | barrierOverflow  -- BARRIER_OVERFLOW
  | barrierPrunable  -- BARRIER_PRUNABLE
  | rscBadCore  -- RSC_BAD_CORE
  | atomicUnsupported  -- ATOMIC_UNSUPPORTED
  | formatSlotMismatch  -- FORMAT_SLOT_MISMATCH
  | shapeInvalid  -- SHAPE_INVALID
  | handleInvalid  -- HANDLE_INVALID
  | handleType  -- HANDLE_TYPE
  | gangInvalid  -- GANG_INVALID
  | gangMismatch  -- GANG_MISMATCH
  | gangMemberExited  -- GANG_MEMBER_EXITED
  | reuseMismatch  -- REUSE_MISMATCH
  | shadowConflict  -- SHADOW_CONFLICT
  | shadowFull  -- SHADOW_FULL
  | tensorRange  -- TENSOR_RANGE
  | handleFieldOverflow  -- HANDLE_FIELD_OVERFLOW
  | regionInvalid  -- REGION_INVALID
  | notVersioned  -- NOT_VERSIONED
  | versionPlainWrite  -- VERSION_PLAIN_WRITE
  | versionRange  -- VERSION_RANGE
  | versionOrder  -- VERSION_ORDER
  | versionSealed  -- VERSION_SEALED
  | versionReclaimed  -- VERSION_RECLAIMED
  | versionPoolExhausted  -- VERSION_POOL_EXHAUSTED
  | regionLimit  -- REGION_LIMIT
  | regionBadEntry  -- REGION_BAD_ENTRY
  | cmdInvalid  -- CMD_INVALID
  | cmdMisaligned  -- CMD_MISALIGNED
  | cmdRange  -- CMD_RANGE
  | engineAbort  -- ENGINE_ABORT
  | enginePeerLost  -- ENGINE_PEER_LOST
  | hashFamilyInvalid  -- HASH_FAMILY_INVALID
  | hashParam  -- HASH_PARAM
  | hashVersionNotNext  -- HASH_VERSION_NOT_NEXT
  | hashIdRange  -- HASH_ID_RANGE
  | hashSideFull  -- HASH_SIDE_FULL
  | hashBucketFull  -- HASH_BUCKET_FULL
  | hashPoolFull  -- HASH_POOL_FULL
  | hashRehashState  -- HASH_REHASH_STATE
  | hashTableCorrupt  -- HASH_TABLE_CORRUPT
  | tasksDisabled  -- TASKS_DISABLED
  | taskBadRecord  -- TASK_BAD_RECORD
  | incumbentUnbound  -- INCUMBENT_UNBOUND
  | shieldIllegal  -- SHIELD_ILLEGAL
  | fabricPeerLost  -- FABRIC_PEER_LOST
  | fabricAccessDenied  -- FABRIC_ACCESS_DENIED
  | breakpoint  -- BREAKPOINT
  | rftOutsideTrap  -- RFT_OUTSIDE_TRAP
  | mcDataPoison  -- MC_DATA_POISON
  | mcFetchPoison  -- MC_FETCH_POISON
  | mcEnginePoison  -- MC_ENGINE_POISON
  | trap (n : BitVec 6)  -- TRAP, 0x2C0 to 0x2FF
  deriving DecidableEq, Repr

/-- Where an uncorrectable error strikes (18 R312, R313, R322). -/
inductive ErrorSite where
  | sector (pa : Nat)         -- a 32 B sector of device memory, L2 or a link
  | blockState (blk : Nat)    -- a dirty register line, scratchpad, share or handle state: MC_CONTEXT
  | cleanLine (core : Nat)    -- a clean register-file line: refilled, counts as corrected
  | image (blk : Nat)         -- a context image during a save or restoration: SAVE_FAULT
  deriving DecidableEq, Repr

/-- The instructions and events of the opcode table, in the table's order. -/
inductive Instr where
  /-- NOP (R73). Has no effect and occupies its issue cycle. -/
  | nop (x : VForm)
  /-- BRA (R73). Each guard-true lane branches to the header at off32 words from its clause header, after every target is checked. -/
  | bra (x : JForm)
  /-- BRC (R73). Branches each guard-true lane whose register a is nonzero to the J target. -/
  | brc (x : JForm)
  /-- BRI (R73). Branches each guard-true lane to the code offset held in register a. -/
  | bri (x : VForm)
  /-- CALL (R74). Writes the next clause header as the link into d and branches to the J target. -/
  | call (x : JForm)
  /-- CALLI (R74). Writes the return link into d and branches to the code offset held in a. -/
  | calli (x : VForm)
  /-- RET (R73). Returns to the code offset in register a, exactly as BRI does. -/
  | ret (x : VForm)
  /-- SETMT (R75). Sets each guard-true lane's meeting register from a J target or from a register, after checking the value. -/
  | setmt (x : JForm)
  /-- GETMT (R75). Reads the meeting register, or with .SHADOW the shadow mt kept at trap entry, into d. -/
  | getmt (x : VForm)
  /-- BRPK (R68). Sends each lane to its target or to the next clause and makes it wait at the block's repacking rendezvous. -/
  | brpk (x : JForm)
  /-- DEMOTE (R67). Makes each guard-true lane a helper whose effects outside its registers are suppressed. -/
  | demote (x : VForm)
  /-- EXIT (R76). Ends each guard-true lane. -/
  | exit (x : VForm)
  /-- YIELD (R62). Flags each guard-true lane so that it takes no part in the vote until the flags clear. -/
  | yield (x : VForm)
  /-- SLEEP (R76). Puts each guard-true lane to sleep for max(imm, 1) cc. -/
  | sleep (x : KForm)
  /-- SADD (R88). Scalar addition under the format, with wrap or saturation. -/
  | sadd (x : VForm)
  /-- SSUB (R88). Scalar subtraction under the format. -/
  | ssub (x : VForm)
  /-- SMUL (R88). Scalar multiplication giving the low or high half of the product. -/
  | smul (x : VForm)
  /-- SDIV (R90). Variable-latency scalar division or remainder with defined results for zero and overflow. -/
  | sdiv (x : VForm)
  /-- SLOG (R88). Scalar bitwise AND, OR, XOR, ANDN or NOT over 64 bits. -/
  | slog (x : VForm)
  /-- SSH (R88). Scalar shift or rotate. -/
  | ssh (x : VForm)
  /-- SMNX (R88). Scalar minimum or maximum. -/
  | smnx (x : VForm)
  /-- SCMP (R88). Scalar comparison writing 0 or 1 to an S register or all bits of a predicate. -/
  | scmp (x : VForm)
  /-- SSEL (R88). Selects a or b into d by whether c is nonzero. -/
  | ssel (x : VForm)
  /-- SMOVK (R93). Writes a sign-extended immediate, or an immediate into the high half, to a scalar register. -/
  | smovk (x : KForm)
  /-- SRDL (R93). Reads one lane of a vector register into a scalar register. -/
  | srdl (x : VForm)
  /-- SBIT (R88). Scalar population count, leading or trailing zero count, or bit reversal. -/
  | sbit (x : VForm)
  /-- SGET (R94). Reads a block, grid, group, core, clock or launch value into a scalar register. -/
  | sget (x : VForm)
  /-- VIADD (R88). Per-lane integer addition, with carry-in and carry-out forms. -/
  | viadd (x : VForm)
  /-- VISUB (R88). Per-lane integer subtraction, with borrow forms. -/
  | visub (x : VForm)
  /-- VIMUL (R88). Per-lane integer multiplication, low or high half. -/
  | vimul (x : VForm)
  /-- VIMAD (R88). Per-lane integer multiply-add. -/
  | vimad (x : VForm)
  /-- VIDIV (R90). Variable-latency per-lane integer division or remainder. -/
  | vidiv (x : VForm)
  /-- VLOG (R88). Per-lane bitwise logic on 32 bits. -/
  | vlog (x : VForm)
  /-- VSH (R88). Per-lane shift or rotate. -/
  | vsh (x : VForm)
  /-- VMNX (R88). Per-lane integer minimum or maximum. -/
  | vmnx (x : VForm)
  /-- VBIT (R88). Per-lane bit count or reversal. -/
  | vbit (x : VForm)
  /-- VBFX (R91). Extracts a bit field per lane. -/
  | vbfx (x : VForm)
  /-- VBFI (R91). Inserts a bit field per lane. -/
  | vbfi (x : VForm)
  /-- VICMP (R88). Per-lane integer comparison into a vector or predicate. -/
  | vicmp (x : VForm)
  /-- VSEL (R88). Selects a or b per lane by a predicate bit. -/
  | vsel (x : VForm)
  /-- VMOV (R88). Per-lane move with format reduction and modifiers. -/
  | vmov (x : VForm)
  /-- VMOVK (R93). Writes a 32-bit immediate to each lane written. -/
  | vmovk (x : KForm)
  /-- VLEA (R92). Forms an address offset a + b × 2^k + c per lane. -/
  | vlea (x : VForm)
  /-- VIADD64 (R91). Adds or subtracts 64-bit register pairs per lane. -/
  | viadd64 (x : VForm)
  /-- VIMUL64 (R91). Forms the exact 64-bit product of 32-bit sources per lane. -/
  | vimul64 (x : VForm)
  /-- VIEXT (R91). Widens 32 to 64 bits or narrows 64 to 32 bits per lane. -/
  | viext (x : VForm)
  /-- VPACK (R91). Packs two reduced values into halves or bytes of a register. -/
  | vpack (x : VForm)
  /-- VFADD (R114). Per-lane floating-point addition rounded once. -/
  | vfadd (x : VForm)
  /-- VFSUB (R114). Per-lane floating-point subtraction. -/
  | vfsub (x : VForm)
  /-- VFMUL (R114). Per-lane floating-point multiplication. -/
  | vfmul (x : VForm)
  /-- VFMA (R114). Per-lane fused multiply-add with one rounding. -/
  | vfma (x : VForm)
  /-- VFMNX (R115). Per-lane IEEE minimum, maximum, minimumNumber or maximumNumber. -/
  | vfmnx (x : VForm)
  /-- VFCMP (R116). Per-lane floating-point comparison into a vector or predicate. -/
  | vfcmp (x : VForm)
  /-- VFCLASS (R117). Forms a class mask of a, or tests it against b into a predicate. -/
  | vfclass (x : VForm)
  /-- VFDIV (R114). Variable-latency per-lane floating-point division. -/
  | vfdiv (x : VForm)
  /-- VFSQRT (R114). Variable-latency per-lane square root. -/
  | vfsqrt (x : VForm)
  /-- VFAPX (R119). Table-based approximate reciprocal, reciprocal square root, exp2 or log2. -/
  | vfapx (x : VForm)
  /-- VFSCL (R114). Scales a by 2^b per lane. -/
  | vfscl (x : VForm)
  /-- VFRND (R118). Rounds a to an integral value in its own format. -/
  | vfrnd (x : VForm)
  /-- VCVTF (R121). Converts between float formats into the element format of a format slot. -/
  | vcvtf (x : VForm)
  /-- VCVTFI (R122). Converts a float to an integer format. -/
  | vcvtfi (x : VForm)
  /-- VCVTIF (R123). Converts an integer to a float format. -/
  | vcvtif (x : VForm)
  /-- VQNT (R125). Quantises one scale tile held across the group into KBF8 or KBF4 elements and exponents. -/
  | vqnt (x : VForm)
  /-- VDQNT (R126). Decodes a packed block-float tile into F32 values exactly. -/
  | vdqnt (x : VForm)
  /-- VSHFL (R99). Gives each participating lane the value of a source lane chosen by index, offset or XOR. -/
  | vshfl (x : VForm)
  /-- VVOTE (R101). Forms a vote, mask or count over participating lanes. -/
  | vvote (x : VForm)
  /-- VPRFX (R98). Computes inclusive or exclusive prefix combinations through the fixed tree. -/
  | vprfx (x : VForm)
  /-- VRED (R98). Reduces participating lanes through the fixed tree. -/
  | vred (x : VForm)
  /-- VMATCH (R101). Gives each participating lane the mask of lanes whose value equals its own. -/
  | vmatch (x : VForm)
  /-- VBCST (R100). Broadcasts one lane's value to the lanes or to a scalar register. -/
  | vbcst (x : VForm)
  /-- FENCEG (R103). Waits until the participating lanes' earlier accesses are performed at group scope, then issues. -/
  | fenceg (x : VForm)
  /-- LD (R138). Per-lane global load through the Sifter. -/
  | ld (x : MForm)
  /-- ST (R139). Per-lane global store through the Sifter. -/
  | st (x : MForm)
  /-- LDS (R138). Per-lane load from the scratchpad or mirror window. -/
  | lds (x : MForm)
  /-- STS (R139). Per-lane store to the scratchpad, or a multicast to the mirror window. -/
  | sts (x : MForm)
  /-- LDU (R138). Uniform load into a scalar register. -/
  | ldu (x : MForm)
  /-- STU (R139). Uniform store from a scalar register. -/
  | stu (x : MForm)
  /-- LDA (R138). Per-lane load from the block's A share. -/
  | lda (x : MForm)
  /-- STA (R139). Per-lane store to the block's A share. -/
  | sta (x : MForm)
  /-- LDDS (R140). Copies global bytes per lane into the scratchpad, counting them on a barrier object. -/
  | ldds (x : MForm)
  /-- PREF (R141). Prefetches each lane's line into L2 under its hint. -/
  | pref (x : MForm)
  /-- CCTL (R141). Cleans, flushes or demotes each lane's L2 line. -/
  | cctl (x : MForm)
  /-- WAITC (R142). Waits until the completion counters meet the conditions its immediate enables. -/
  | waitc (x : KForm)
  /-- LDK (R138). Uniform load from the launch's argument block. -/
  | ldk (x : MForm)
  /-- STK (R139). Uniform store into the launch's argument block. -/
  | stk (x : MForm)
  /-- ATOM (R157). Per-lane read-modify-write at the home, returning the fetched value. -/
  | atom (x : MForm)
  /-- CAS (R157). Per-lane compare-and-swap at the home. -/
  | cas (x : MForm)
  /-- RED (R159). Per-lane reduction at the home without a result. -/
  | red (x : MForm)
  /-- ATOMS (R157). Uniform atomic on a scalar register. -/
  | atoms (x : MForm)
  /-- CASS (R157). Uniform compare-and-swap on scalar registers. -/
  | cass (x : MForm)
  /-- REDS (R159). Uniform reduction from a scalar register. -/
  | reds (x : MForm)
  /-- BARINIT (R165). Initialises a barrier object's phase and count. -/
  | barinit (x : MForm)
  /-- BARARR (R165). Adds the lane set's arrivals to a barrier object. -/
  | bararr (x : MForm)
  /-- BAREXP (R165). Sets a barrier object's byte quota. -/
  | barexp (x : MForm)
  /-- BARWAIT (R167). Waits until a barrier object's phase passes the named one. -/
  | barwait (x : MForm)
  /-- BARTST (R164). Reads a snapshot of a barrier object without waiting. -/
  | bartst (x : MForm)
  /-- FENCE (R172). Orders the thread's earlier and later accesses at a scope, optionally with a remote-scope owner core. -/
  | fence (x : MForm)
  /-- GANGSET (R189). Writes the group's gang mask. -/
  | gangset (x : VForm)
  /-- MMA (R193). Solo or joint matrix multiply-accumulate into the C share. -/
  | mma (x : TForm)
  /-- MMAS (R195). Matrix multiply-accumulate into a shadow of its C region. -/
  | mmas (x : TForm)
  /-- ACOMMIT (R196). Copies every open shadow region into C and closes it. -/
  | acommit (x : VForm)
  /-- ADISCARD (R196). Closes every open shadow region without copying. -/
  | adiscard (x : VForm)
  /-- ACCLD (R197). Loads accumulator words into registers, optionally clearing them. -/
  | accld (x : TForm)
  /-- ACCZ (R197). Zeroes a rectangle of accumulator words. -/
  | accz (x : TForm)
  /-- TLD (R199). Copies a selection of a tensor handle into the W or A share. -/
  | tld (x : TForm)
  /-- TST (R200). Stores A-share elements into a global tensor, compacting for sparse handles. -/
  | tst (x : TForm)
  /-- THSET (R198). Writes a tensor handle from shape words and scalar registers. -/
  | thset (x : TForm)
  /-- THGET (R198). Reads one dword of a tensor handle. -/
  | thget (x : VForm)
  /-- VNLD (R216). Loads bytes of a named version, blocking until it is published. -/
  | vnld (x : MForm)
  /-- VNST (R211). Stores bytes into a named open version of a region. -/
  | vnst (x : MForm)
  /-- VNPUB (R213). Publishes version P + 1 of a region after its writes and engines drain. -/
  | vnpub (x : VForm)
  /-- VNFLOOR (R214). Raises a region's floor and starts reclamation. -/
  | vnfloor (x : VForm)
  /-- VNWAIT (R218). Waits until a region's published version reaches v. -/
  | vnwait (x : VForm)
  /-- VNSTAT (R220). Reads one field of a region's state. -/
  | vnstat (x : VForm)
  /-- VNOPEN (R219). Creates a region at run time from a region entry in memory. -/
  | vnopen (x : VForm)
  /-- HFSET (R251). Loads and checks a hash-family register image from memory. -/
  | hfset (x : VForm)
  /-- HCODE (R252). Packs projections or raw values into codes and order words per table. -/
  | hcode (x : VForm)
  /-- HPROBE (R254). Collects row ids for each lane's codes at a version and writes them into a ROWSET handle. -/
  | hprobe (x : VForm)
  /-- HINS (R257). Appends an insert entry to the family's side list in an open version. -/
  | hins (x : VForm)
  /-- HDEL (R257). Appends a tombstone entry to the family's side list. -/
  | hdel (x : VForm)
  /-- HREHASH (R260). Inserts a range of rows into the new family of a rehash pair and advances the cursor. -/
  | hrehash (x : VForm)
  /-- HMERGE (R259). Folds the family's side list into its buckets as a new version. -/
  | hmerge (x : VForm)
  /-- HSTAT (R261). Reads or clears a family statistics counter or image dword. -/
  | hstat (x : VForm)
  /-- SPAWN (R273). Appends a task record to the block's spawn queue. -/
  | spawn (x : PForm)
  /-- BNDSET (R278). Sets or clears the thread's bound register. -/
  | bndset (x : VForm)
  /-- BNDGET (R278). Reads the bound value or configuration. -/
  | bndget (x : VForm)
  /-- ICUPD (R281). Sends the lane set's best value as an offer to an incumbent register's root. -/
  | icupd (x : VForm)
  /-- ICRD (R282). Reads a field of the core's copy of an incumbent register. -/
  | icrd (x : VForm)
  /-- SHIELD (R287). Defers cancellation of each guard-true thread for its next n instructions. -/
  | shield (x : KForm)
  /-- TQSTAT (R288). Reads a counter of the block's spawn queue. -/
  | tqstat (x : VForm)
  /-- PUSH (R229). Checks a 64-byte command and pushes it to an engine queue as a release. -/
  | push (x : PForm)
  /-- QSTAT (R230). Reads the state of an engine queue. -/
  | qstat (x : VForm)
  /-- TRAP (R304). Raises TRAP cause 0x2C0 + imm in each guard-true lane. -/
  | trap (x : KForm)
  /-- RFT (R305). Makes a handler lane wait at the rejoin with its new meeting value. -/
  | rft (x : VForm)
  /-- CSRR (R303). Reads a control and status register. -/
  | csrr (x : SForm)
  /-- CSRW (R303). Writes a control and status register under its field access rules. -/
  | csrw (x : SForm)
  /-- BKPT (R304). Raises BREAKPOINT in each guard-true lane. -/
  | bkpt (x : KForm)
  /-- ISSUE_CYCLE (R59). Each cc the quadrant picks a ready active group and votes its first and second lane sets by PC. -/
  | issueCycle (core quad : Nat)
  /-- LANE_OVERDUE (R61). A lane's skip count reaches 32 and it takes first choice. -/
  | laneOverdue (core quad : Nat)
  /-- MEETING_RELEASE (R65). Held threads with one meeting value are released together once the rest are held, exited or helpers. -/
  | meetingRelease (blk grp : Nat) (m : W32)
  /-- MEETING_DEADLOCK (R66). Every non-exited thread is held with no release possible, and the lowest-address lanes trap. -/
  | meetingDeadlock (blk grp : Nat)
  /-- REPACKING (R68). When the whole block reaches one BRPK and drains, its threads are packed into groups by target. -/
  | repacking (blk : Nat)
  /-- SLEEP_EXPIRY (R76). A sleeping lane's interval expires and it becomes runnable. -/
  | sleepExpiry (blk grp lane : Nat)
  /-- ACTIVE_SET_SWAP (R79). An eligible active group gives its slot to the longest-ready pending group. -/
  | activeSetSwap (core quad : Nat)
  /-- ACTIVE_IDLE_TIMEOUT (R79). An active group with no runnable lane for 16 cc becomes eligible to leave the active set. -/
  | activeIdleTimeout (blk grp : Nat)
  /-- RESULT_LAND (R34). A variable-latency result lands and its registers stop being pending. -/
  | resultLand (blk grp pend : Nat)
  /-- QUEUE_AGING (R80). A launch-queue head waiting 400 µs takes priority 0. -/
  | queueAging (prio : Nat)
  /-- BLOCK_ADMISSION (R81). The scheduler admits a block whole when one core can reserve all its needs. -/
  | blockAdmission
  /-- PREEMPTION_FOR_ROOM (R82). A queue head finding no room makes the scheduler save resident blocks on one core. -/
  | preemptionForRoom
  /-- IDLE_SAVE (R83). A block whose threads have all waited over 20 µs on counted waits is saved. -/
  | idleSave (blk : Nat)
  /-- BLOCK_SAVE (R319). A save stops issue, drains, waits for bytes in flight and writes the block's image. -/
  | blockSave (blk : Nat)
  /-- SAVE_TIMEOUT (R319). The 10 µs save limit passes and the block is killed. -/
  | saveTimeout (blk : Nat)
  /-- BLOCK_RESTORATION (R320). A saved block is restored on a core with its state, fault entries and withdrawn requests. -/
  | blockRestoration (blk : Nat)
  /-- BLOCK_COMPLETION (R77). A block whose threads have exited and whose counters and in-flight bytes are zero releases its resources. -/
  | blockCompletion (blk : Nat)
  /-- LAUNCH_COMPLETION (R238). A launch completes after its blocks, engine commands and regions are done. -/
  | launchCompletion (launch : Nat)
  /-- LAUNCH_KILL (R323). A whole launch is stopped, its regions reset, reported, and relaunched if allowed. -/
  | launchKill (blk grp : Nat) (code : Nat)
  /-- TRAP_ENTRY (R306). Lanes taking a cause enter the group's handler at TVEC. -/
  | trapEntry (blk grp : Nat)
  /-- RFT_REJOIN (R305). When every live TMASK lane waits at RFT, TEPC is checked and the lanes resume. -/
  | rftRejoin (blk grp : Nat)
  /-- SIFTER_ACCEPT (R143). A lane's global request enters or opens a Sifter entry, translating the line. -/
  | sifterAccept (req : Nat)
  /-- SIFTER_ENTRY_SEND (R143). A Sifter entry is sent to its line's home. -/
  | sifterEntrySend (entry : Nat)
  /-- SIFTER_WINDOW_EXPIRY (R143). An entry reaches 32 cc open and is sent. -/
  | sifterWindowExpiry (entry : Nat)
  /-- HOME_REQUEST (R145). A request is performed at its line's home slice, applying loads, stores, atomics and reductions. -/
  | homeRequest (entry : Nat)
  /-- LOAD_SECTOR_REPLY (R145). A 32 B read sector arrives and writes its lanes' destinations. -/
  | loadSectorReply (req : Nat)
  /-- STORE_ACKNOWLEDGEMENT (R145). A store's acknowledgement arrives and SC falls when every lane is performed. -/
  | storeAcknowledgement (req : Nat)
  /-- BYTES_LAND (R166). LDDS or engine bytes land in the scratchpad and are counted on a barrier object. -/
  | bytesLand (item : Nat)
  /-- BARWAIT_RESUME (R167). A lane set waiting in BARWAIT resumes after the completing update. -/
  | barwaitResume (blk grp : Nat)
  /-- MIRROR_STORE_LAND (R175). A mirror-window store lands in a cluster copy. -/
  | mirrorStoreLand (item : Nat)
  /-- VNST_APPLY (R211). A VNST line is applied to a version record at its home slice or refused. -/
  | vnstApply (entry : Nat)
  /-- VNLD_HOME (R216). A VNLD reaches its home and is answered, blocked, refused or told to retry. -/
  | vnldHome (entry : Nat)
  /-- VNLD_WAKE (R216). A blocked VNLD is answered when the slice's copy of P reaches its version. -/
  | vnldWake (entry : Nat)
  /-- VNLD_RETRY (R216). A VNLD told RETRY is sent again 256 cc later. -/
  | vnldRetry (entry : Nat)
  /-- PUBLICATION_POINT (R213). The region home sets P once engines[v] is zero and updates every slice copy. -/
  | publicationPoint (req : Nat)
  /-- RECLAMATION (R214). Slices merge and free records below the floor in the background. -/
  | reclamation (region line : Nat)
  /-- POOL_RETRY (R212). Held version lines are resent when the region home signals a reclamation or at RFT. -/
  | poolRetry (region : Nat)
  /-- REGISTRATION (R237). A VER command or update registers at the region home and raises engines[v]. -/
  | registration (req : Nat)
  /-- MATRIX_ACCEPT (R183). A matrix instruction is accepted into the engine's 16-entry queue. -/
  | matrixAccept (core : Nat)
  /-- GANG_RENDEZVOUS (R190). The rendezvous latch completes when each listed group waits, and the members issue together. -/
  | gangRendezvous (blk : Nat) (gang : W16)
  /-- GANG_MEMBER_EXITED (R190). A listed group exits while others wait at the latch, which then trap. -/
  | gangMemberExited (blk : Nat) (gang : W16)
  /-- MATRIX_RETIRE (R183). A matrix operation finishes its busy time, lands its writes and lowers MC. -/
  | matrixRetire (core : Nat)
  /-- PROBE_VERSION_WAKE (R255). A probe waiting for its version proceeds when P reaches it. -/
  | probeVersionWake (probe : Nat)
  /-- ENGINE_COMMAND_START (R235). An accepted engine command starts, after earlier commands complete when it carries FENCE. -/
  | engineCommandStart (cmd : Nat)
  /-- COPY_COMMAND (R235). An engine copies rows from source to destination. -/
  | copyCommand (cmd row lo len : Nat)
  /-- FILL (R235). An engine fills destination rows with a 64-bit pattern. -/
  | fill (cmd row lo len : Nat)
  /-- REDCOPY (R235). A bulk engine reduces source elements into the destination at their homes. -/
  | redcopy (cmd row lo len : Nat)
  /-- INSERT (R262). HX applies HINS for each listed id. -/
  | insert (cmd : Nat)
  /-- DELETE (R262). HX applies HDEL for each listed id. -/
  | delete (cmd : Nat)
  /-- MERGE (R262). HX applies HMERGE to the family. -/
  | merge (cmd : Nat)
  /-- ENGINE_COMMAND_COMPLETION (R236). Every destination byte is performed and the BAR, VER or WORD completion action is taken. -/
  | engineCommandCompletion (cmd : Nat)
  /-- ENGINE_COMMAND_STOP (R239). An accepted command stops on an abort, bad translation, region write or lost peer. -/
  | engineCommandStop (cmd : Nat)
  /-- OFFER_AT_ROOT (R281). An incumbent offer reaches the Praline root and is accepted and broadcast if it improves. -/
  | offerAtRoot (offer : Nat)
  /-- COPY_UPDATE (R283). A core's copy of an incumbent changes to a broadcast value. -/
  | copyUpdate (core ic : Nat)
  /-- RECORD_PRUNING (R284). Queued records dominated by a changed copy are removed. -/
  | recordPruning (blk : Nat)
  /-- THREAD_CANCELLATION (R285). A dominated prunable thread is cancelled at an instruction boundary. -/
  | threadCancellation (blk grp lane : Nat)
  /-- RECORD_WAIT_EXPIRY (R274). An entry set's oldest record has waited 512 cc and the set becomes ready. -/
  | recordWaitExpiry (blk : Nat) (entry : W32)
  /-- TASK_GROUP_FORMATION (R274). A ready entry set forms a task group in the lowest free slot. -/
  | taskGroupFormation (blk : Nat)
  /-- TASK_GROUP_START (R275). A formed task group issues its first lane set 16 cc after formation. -/
  | taskGroupStart (blk slot : Nat)
  /-- RING_READBACK (R269). Ring records are read back into the on-chip share, tested and malformed ones discarded. -/
  | ringReadback (blk : Nat)
  /-- BEAT_RECEIVE (R327). A 68 B beat arrives, is CRC-checked, and its STOP bit taken. -/
  | beatReceive (port : Nat) (content : List Byte) (trailer : W32)
  /-- READ (R336). A READ packet is performed at the peer's home under its fabric windows. -/
  | read (port : Nat) (p : Packet)
  /-- WRITE (R336). A WRITE packet is applied at the peer's home or refused. -/
  | write (port : Nat) (p : Packet)
  /-- ATOM_PACKET (R337). An ATOM packet is performed contiguously at the peer's home. -/
  | atomPacket (port : Nat) (p : Packet)
  /-- RDATA (R329). Read data returns from a peer to the requester. -/
  | rdata (port : Nat) (p : Packet)
  /-- ADATA (R329). Fetched atomic values return from a peer. -/
  | adata (port : Nat) (p : Packet)
  /-- DONE (R338). A write or reduction completion returns and SC falls. -/
  | doneReply (port : Nat) (p : Packet)
  /-- REFUSED (R336). A peer refuses an access and the lanes take FABRIC_ACCESS_DENIED. -/
  | refused (port : Nat) (p : Packet)
  /-- DEMAND (R332). A source's cumulative demand reaches the destination. -/
  | demand (port : Nat) (p : Packet)
  /-- GRANT (R332). A destination's cumulative grant reaches the source. -/
  | grant (port : Nat) (p : Packet)
  /-- MIRROR (R344). A mirrored incumbent value arrives and is offered to the peer's root or discarded. -/
  | mirror (port : Nat) (p : Packet)
  /-- OACK (R334). An acknowledgement of ORIG traffic arrives on the alternative route. -/
  | oack (port : Nat) (p : Packet)
  /-- ACK (R330). An ACK control beat frees acknowledged packets from the replay buffer. -/
  | ack (port : Nat) (seq : W32)
  /-- NAK (R330). A NAK starts a replay from the receiver's expected sequence. -/
  | nak (port : Nat) (seq : W32)
  /-- TRAINING (R333). A training control beat is exchanged during link training. -/
  | training (port : Nat) (good : W32)
  /-- KEY (R333). A key control beat confirms key slots during training. -/
  | key (port : Nat) (slot : Nat)
  /-- ACK_TIMER (R330). 256 cc pass with accepted packets unacknowledged and an ACK is sent. -/
  | ackTimer (port : Nat)
  /-- REPLAY_TIMEOUT (R330). 2 µs pass with no new ACK and the sender replays. -/
  | replayTimeout (port : Nat)
  /-- ORIG_REPLAY_TIMEOUT (R334). 4 µs pass with no OACK progress and ORIG traffic is replayed. -/
  | origReplayTimeout (port : Nat)
  /-- LANE_FAILURE (R333). A lane fails and both ends enter TRAINING. -/
  | laneFailure (port lane : Nat)
  /-- TRAINING_COMPLETE (R333). Training chooses a width and the port comes up, replaying unacknowledged packets. -/
  | trainingComplete (port : Nat)
  /-- RETRAINING_TIMEOUT (R333). 8 µs of retraining pass and the port goes DOWN, its traffic taking an alternative route. -/
  | retrainingTimeout (port : Nat)
  /-- PEER_LOSS_TIMEOUT (R339). No route to a peer for 10 µs and the peer is declared lost. -/
  | peerLossTimeout (dev : Nat)
  /-- FENCE_PEER_TIMEOUT (R174). A system fence waiting on a lost peer completes and sets PEER_LOST. -/
  | fencePeerTimeout (blk grp : Nat)
  /-- SQTAIL (R352). A write of SQTAIL tells the firmware that submission entries are ready. -/
  | sqtail (fn tail : Nat) (dma : List (Nat × Byte))
  /-- CQHEAD (R361). A write of CQHEAD frees completion entries and lets waiting events be written. -/
  | cqhead (fn head : Nat)
  /-- REGISTER_WRITE (R352). A write to another BAR0 register, ignored while its queue is enabled. -/
  | registerWrite (fn off : Nat) (val : W64)
  /-- IDENTIFY (R354). Returns ARCHID, SPARESTAT and the serial number. -/
  | identify (c : HostCmd)
  /-- CTX_CREATE (R354). Creates a context with its page-table root, stores, budget and table KEYID. -/
  | ctxCreate (c : HostCmd)
  /-- CTX_DESTROY (R354). Destroys a context with no incomplete launch. -/
  | ctxDestroy (c : HostCmd)
  /-- TLB_INVAL (R354). Drops every core's translations for a range. -/
  | tlbInval (c : HostCmd)
  /-- COPY (R354). Copies between host memory and device memory through the bulk engines. -/
  | copy (c : HostCmd)
  /-- LAUNCH (R57). Copies and validates a launch record, then queues the launch. -/
  | launch (c : HostCmd)
  /-- PREEMPT (R354). Requests the save of one block of a launch. -/
  | preempt (c : HostCmd)
  /-- FAULT_RESOLVE (R147). Answers a fault report with REPLAY or ABORT. -/
  | faultResolve (c : HostCmd)
  /-- ENERGY_SET (R362). Sets a context's energy budget from the next window. -/
  | energySet (c : HostCmd)
  /-- KEY_ALLOC (R357). Allocates a memory-encryption KEYID to a function. -/
  | keyAlloc (c : HostCmd)
  /-- KEY_FREE (R354). Frees a KEYID no live context names. -/
  | keyFree (c : HostCmd)
  /-- LINK_KEY (R341). Installs a key in one slot of one port direction. -/
  | linkKey (c : HostCmd)
  /-- FABRIC_WINDOW (R336). Sets one fabric window. -/
  | fabricWindow (c : HostCmd)
  /-- LINK_QUERY (R343). Writes a port's link record to host memory. -/
  | linkQuery (c : HostCmd)
  /-- PEER_LOST (R339). Declares a peer lost on the host's command. -/
  | peerLost (c : HostCmd)
  /-- MAINT (R366). Retires cores onto spares, maps spare lanes and ports, restores ports and re-admits peers. -/
  | maint (c : HostCmd)
  /-- CHECKPOINT (R367). Quiesces the device and writes memory and sealed state to flash. -/
  | checkpoint (c : HostCmd)
  /-- RESTORE (R367). Brings back memory and sealed state from the device's own checkpoint. -/
  | restore (c : HostCmd)
  /-- LOCK_INTERFACE (R355). Moves a VF to CONFIG_LOCKED. -/
  | lockInterface (fn : Nat)
  /-- START_INTERFACE (R355). Moves a VF to RUN. -/
  | startInterface (fn : Nat)
  /-- STOP_INTERFACE (R355). Kills a VF's launches, destroys its contexts and keys, and unlocks it. -/
  | stopInterface (fn : Nat)
  /-- INTERFACE_ERROR (R355). A locked-configuration change, FLR or IDE integrity failure moves a VF to ERROR. -/
  | interfaceError (fn : Nat)
  /-- SPDM_REQUEST (R356). The firmware answers an SPDM, IDE_KM or TDISP message on PF0's DOE. -/
  | spdmRequest (msg : List Byte)
  /-- ENERGY_WINDOW_START (R362). A 10 ms window starts, clearing USED and block credits. -/
  | energyWindowStart
  /-- THERMAL_EMERGENCY (R363). A die reaches 105 °C and the clock falls to 0.85 GHz. -/
  | thermalEmergency (die : Nat)
  /-- THERMAL_RECOVERY (R363). Every die stays below 95 °C for 1 ms and the clock returns to 1.7 GHz. -/
  | thermalRecovery
  /-- POWER_UP (R325). The firmware fixes the fabric number and configuration from the wiring. -/
  | powerUp (device wiring : Nat)
  /-- POWER_FAIL (R367). The board's power-fail input starts the checkpoint sequence. -/
  | powerFail
  /-- CORE_LOST (R365). A core fails in service, its blocks are killed and its number is put out of service. -/
  | coreLost (core : Nat)
  /-- UNCORRECTABLE_ERROR (R313). An uncorrectable error poisons a sector or kills a context. -/
  | uncorrectableError (site : ErrorSite)
  /-- CORRECTED_ERROR (R313). A corrected error raises ECOUNT and feeds the wear report. -/
  | correctedError (core : Nat)
  /-- MEMORY_LANE_FAILURE (R365). A lane of a memory link fails, the hardware brings the link's spare lane in at once, MEMSPARE rises and a wear event is reported. -/
  | memoryLaneFailure (link : Nat)
  /-- WEAR_THRESHOLD (R365). A core passes its wear threshold, setting COREWARN and RETIRE, reporting a wear event, and starting the retirement of a worn core by save and restoration. -/
  | wearThreshold (core : Nat)
  deriving DecidableEq, Repr

end Sys2Proof
end

