-- ==== Sys2Proof/Decode.lean ====
section
/-!
DEFINITION. Reading an instruction word and writing one (02_encoding.md R19, R24 to R37): the codes of operands, the
fields of each form, the opcode map, what each instruction admits in each field (the tables of R72, R87, R113, R136,
R155, R164, R172, R187, R215, R228, R250, R271, R302), and which encoding cause a word raises.
-/

namespace Sys2Proof

/-- The cause code of R38 and of each chapter's table. -/
def Cause.code : Cause → Nat
  | .badClauseHeader => 0x001
  | .clauseOverrun => 0x002
  | .illegalOpcode => 0x003
  | .illegalClauseMix => 0x004
  | .illegalEncoding => 0x005
  | .illegalSubop => 0x006
  | .illegalOperand => 0x007
  | .lookaheadViolation => 0x008
  | .badBranchTarget => 0x009
  | .meetingDeadlock => 0x020
  | .brpkIllegal => 0x021
  | .brpkMismatch => 0x022
  | .misaligned => 0x080
  | .addressNoncanonical => 0x081
  | .scratchRange => 0x082
  | .bufferRange => 0x083
  | .paramRange => 0x084
  | .paUnmapped => 0x085
  | .pteMalformed => 0x086
  | .translationAbort => 0x087
  | .fetchAbort => 0x088
  | .barrierUninit => 0x100
  | .barrierBadCount => 0x101
  | .barrierCountMismatch => 0x102
  | .barrierLiveReinit => 0x103
  | .barrierOverflow => 0x104
  | .barrierPrunable => 0x105
  | .rscBadCore => 0x106
  | .atomicUnsupported => 0x107
  | .formatSlotMismatch => 0x140
  | .shapeInvalid => 0x141
  | .handleInvalid => 0x142
  | .handleType => 0x143
  | .gangInvalid => 0x144
  | .gangMismatch => 0x145
  | .gangMemberExited => 0x146
  | .reuseMismatch => 0x147
  | .shadowConflict => 0x148
  | .shadowFull => 0x149
  | .tensorRange => 0x14A
  | .handleFieldOverflow => 0x14B
  | .regionInvalid => 0x180
  | .notVersioned => 0x181
  | .versionPlainWrite => 0x182
  | .versionRange => 0x183
  | .versionOrder => 0x184
  | .versionSealed => 0x185
  | .versionReclaimed => 0x186
  | .versionPoolExhausted => 0x187
  | .regionLimit => 0x188
  | .regionBadEntry => 0x189
  | .cmdInvalid => 0x240
  | .cmdMisaligned => 0x241
  | .cmdRange => 0x242
  | .engineAbort => 0x243
  | .enginePeerLost => 0x244
  | .hashFamilyInvalid => 0x1C0
  | .hashParam => 0x1C1
  | .hashVersionNotNext => 0x1C2
  | .hashIdRange => 0x1C3
  | .hashSideFull => 0x1C4
  | .hashBucketFull => 0x1C5
  | .hashPoolFull => 0x1C6
  | .hashRehashState => 0x1C7
  | .hashTableCorrupt => 0x1C8
  | .tasksDisabled => 0x200
  | .taskBadRecord => 0x201
  | .incumbentUnbound => 0x202
  | .shieldIllegal => 0x203
  | .fabricPeerLost => 0x280
  | .fabricAccessDenied => 0x281
  | .breakpoint => 0x3F0
  | .rftOutsideTrap => 0x3F1
  | .mcDataPoison => 0x300
  | .mcFetchPoison => 0x301
  | .mcEnginePoison => 0x302
  | .trap n => 0x2C0 + n.toNat

/-- The rank of R310: the lowest is taken. -/
def Cause.rank : Cause → Nat
  | .badClauseHeader => 1
  | .clauseOverrun => 2
  | .illegalOpcode => 3
  | .illegalClauseMix => 4
  | .illegalEncoding => 5
  | .illegalSubop => 6
  | .illegalOperand => 7
  | .lookaheadViolation => 8
  | .badBranchTarget => 9
  | .meetingDeadlock => 10
  | .brpkIllegal => 11
  | .brpkMismatch => 12
  | .misaligned => 13
  | .addressNoncanonical => 14
  | .scratchRange => 15
  | .bufferRange => 16
  | .paramRange => 17
  | .paUnmapped => 18
  | .pteMalformed => 19
  | .translationAbort => 20
  | .fetchAbort => 21
  | .barrierUninit => 22
  | .barrierBadCount => 23
  | .barrierCountMismatch => 24
  | .barrierLiveReinit => 25
  | .barrierOverflow => 26
  | .barrierPrunable => 27
  | .rscBadCore => 28
  | .atomicUnsupported => 29
  | .formatSlotMismatch => 30
  | .shapeInvalid => 31
  | .handleInvalid => 32
  | .handleType => 33
  | .gangInvalid => 34
  | .gangMismatch => 35
  | .gangMemberExited => 36
  | .reuseMismatch => 37
  | .shadowConflict => 38
  | .shadowFull => 39
  | .tensorRange => 40
  | .handleFieldOverflow => 41
  | .regionInvalid => 42
  | .notVersioned => 43
  | .versionPlainWrite => 44
  | .versionRange => 45
  | .versionOrder => 46
  | .versionSealed => 47
  | .versionReclaimed => 48
  | .versionPoolExhausted => 49
  | .regionLimit => 50
  | .regionBadEntry => 51
  | .cmdInvalid => 52
  | .cmdMisaligned => 53
  | .cmdRange => 54
  | .engineAbort => 55
  | .enginePeerLost => 56
  | .hashFamilyInvalid => 57
  | .hashParam => 58
  | .hashVersionNotNext => 59
  | .hashIdRange => 60
  | .hashSideFull => 61
  | .hashBucketFull => 62
  | .hashPoolFull => 63
  | .hashRehashState => 64
  | .hashTableCorrupt => 65
  | .tasksDisabled => 66
  | .taskBadRecord => 67
  | .incumbentUnbound => 68
  | .shieldIllegal => 69
  | .fabricPeerLost => 70
  | .fabricAccessDenied => 71
  | .breakpoint => 81
  | .rftOutsideTrap => 82
  | .mcDataPoison => 83
  | .mcFetchPoison => 84
  | .mcEnginePoison => 85
  | .trap _ => 80

/-! ### Operand codes (R26) -/

/-- The operand named by a code. -/
def Opnd.ofCode (c : BitVec 8) : Opnd :=
  let n := c.toNat
  if h : n < 0x80 then .v ⟨n, h⟩
  else if h : n < 0xC0 then .s ⟨n - 0x80, by omega⟩
  else if h : n < 0xC8 then .p ⟨n - 0xC0, by omega⟩
  else if h : n < 0xD8 then .th ⟨n - 0xC8, by omega⟩
  else if h : n < 0xE0 then .hf ⟨n - 0xD8, by omega⟩
  else if h : n < 0xF0 then .ic ⟨n - 0xE0, by omega⟩
  else if n = 0xF0 then .bnd
  else if n = 0xF1 then .mt
  else if n = 0xF2 then .gang
  else if n = 0xF3 then .laneid
  else if n = 0xF4 then .homelane
  else if n = 0xF5 then .stage
  else if h : n < 0xFF then .reserved ⟨n - 0xF6, by omega⟩
  else .none

/-- The code of an operand. -/
def Opnd.code : Opnd → BitVec 8
  | .v i => BitVec.ofNat 8 i
  | .s i => BitVec.ofNat 8 (0x80 + i)
  | .p i => BitVec.ofNat 8 (0xC0 + i)
  | .th i => BitVec.ofNat 8 (0xC8 + i)
  | .hf i => BitVec.ofNat 8 (0xD8 + i)
  | .ic i => BitVec.ofNat 8 (0xE0 + i)
  | .bnd => 0xF0
  | .mt => 0xF1
  | .gang => 0xF2
  | .laneid => 0xF3
  | .homelane => 0xF4
  | .stage => 0xF5
  | .reserved i => BitVec.ofNat 8 (0xF6 + i)
  | .none => 0xFF

/-! ### The fields of a word (R24, R27 to R32) -/

/-- Bits lo + n − 1 : lo of a word. -/
abbrev fld (w : W64) (lo n : Nat) : BitVec n := w.extractLsb' lo n

def opOf (w : W64) : BitVec 8 := fld w 56 8

def VForm.ofWord (w : W64) : VForm where
  la := fld w 52 4
  g := fld w 48 4
  d := .ofCode (fld w 40 8)
  a := .ofCode (fld w 32 8)
  b := .ofCode (fld w 24 8)
  c := .ofCode (fld w 16 8)
  fmt := fld w 12 4
  rnd := fld w 9 3
  nas := fld w 6 3
  sub := fld w 0 6

def VForm.word (op : BitVec 8) (x : VForm) : W64 :=
  op ++ x.la ++ x.g ++ x.d.code ++ x.a.code ++ x.b.code ++ x.c.code ++ x.fmt ++ x.rnd ++ x.nas ++ x.sub

def KForm.ofWord (w : W64) : KForm where
  la := fld w 52 4
  g := fld w 48 4
  d := .ofCode (fld w 40 8)
  a := .ofCode (fld w 32 8)
  imm := fld w 0 32

def KForm.word (op : BitVec 8) (x : KForm) : W64 :=
  op ++ x.la ++ x.g ++ x.d.code ++ x.a.code ++ x.imm

def JForm.ofWord (w : W64) : JForm where
  la := fld w 52 4
  g := fld w 48 4
  d := .ofCode (fld w 40 8)
  a := .ofCode (fld w 32 8)
  off := fld w 0 32

def JForm.word (op : BitVec 8) (x : JForm) : W64 :=
  op ++ x.la ++ x.g ++ x.d.code ++ x.a.code ++ x.off

/-- Bit 6 chooses between a register offset and offset16 (R29). -/
def MForm.ofWord (w : W64) : MForm where
  la := fld w 52 4
  g := fld w 48 4
  d := .ofCode (fld w 40 8)
  a := .ofCode (fld w 32 8)
  o := if fld w 6 1 = 1#1 then .imm (fld w 16 16) else .reg (.ofCode (fld w 24 8)) (.ofCode (fld w 16 8))
  size := fld w 12 4
  scope := fld w 9 3
  order := fld w 7 2
  space := fld w 4 2
  hint := fld w 0 4

/-- Bits 31:16 of a memory word. -/
def MOff.bits : MOff → BitVec 16
  | .reg b c => b.code ++ c.code
  | .imm off => off

/-- Bit 6 of a memory word. -/
def MOff.mode : MOff → BitVec 1
  | .reg _ _ => 0#1
  | .imm _ => 1#1

def MForm.word (op : BitVec 8) (x : MForm) : W64 :=
  op ++ x.la ++ x.g ++ x.d.code ++ x.a.code ++ x.o.bits ++ x.size ++ x.scope ++ x.order ++ x.o.mode ++ x.space ++ x.hint

def TForm.ofWords (w s0 s1 s2 s3 : W64) : TForm where
  la := fld w 52 4
  g := fld w 48 4
  d := .ofCode (fld w 40 8)
  a := .ofCode (fld w 32 8)
  b := .ofCode (fld w 24 8)
  c := .ofCode (fld w 16 8)
  slot := fld w 13 3
  flags := fld w 6 7
  sub := fld w 0 6
  sh0 := s0
  sh1 := s1
  sh2 := s2
  sh3 := s3

def TForm.word (op : BitVec 8) (x : TForm) : W64 :=
  op ++ x.la ++ x.g ++ x.d.code ++ x.a.code ++ x.b.code ++ x.c.code ++ x.slot ++ x.flags ++ x.sub

def PForm.ofWord (w : W64) : PForm where
  la := fld w 52 4
  g := fld w 48 4
  d := .ofCode (fld w 40 8)
  a := .ofCode (fld w 32 8)
  resHi := fld w 16 16
  queue := fld w 8 8
  resLo := fld w 0 8

def PForm.word (op : BitVec 8) (x : PForm) : W64 :=
  op ++ x.la ++ x.g ++ x.d.code ++ x.a.code ++ x.resHi ++ x.queue ++ x.resLo

def SForm.ofWord (w : W64) : SForm where
  la := fld w 52 4
  g := fld w 48 4
  d := .ofCode (fld w 40 8)
  a := .ofCode (fld w 32 8)
  resHi := fld w 28 4
  csr := fld w 16 12
  resLo := fld w 6 10
  sub := fld w 0 6

def SForm.word (op : BitVec 8) (x : SForm) : W64 :=
  op ++ x.la ++ x.g ++ x.d.code ++ x.a.code ++ x.resHi ++ x.csr ++ x.resLo ++ x.sub

/-- Shape field j of shape word i is field 4i + j (R31). -/
def TForm.field (x : TForm) (k : Nat) : W16 :=
  let w := if k < 4 then x.sh0 else if k < 8 then x.sh1 else if k < 12 then x.sh2 else x.sh3
  fld w (16 * (k % 4)) 16

/-! ### The opcode map (R36) -/

/-- The clause classes of R19. -/
def classOfOp (op : BitVec 8) : Nat :=
  let n := op.toNat
  if n < 0x70 then 0 else if n < 0x80 then 1 else if n < 0x90 then 2 else if n < 0xA0 then 3 else if n < 0xB0 then 4
  else if n < 0xC0 then 5 else if n < 0xD0 then 6 else if n < 0xE0 then 7 else 8

/-- A T-form word is followed by four shape words (R31). -/
def isTForm (op : BitVec 8) : Bool :=
  op.toNat = 0x91 || op.toNat = 0x92 || (0x95 ≤ op.toNat && op.toNat ≤ 0x99)

/-- The instruction of a word with the words that stand after it (read only by the T form); none for an unassigned
code. -/
def instrOfWord (w s0 s1 s2 s3 : W64) : Option Instr :=
  match (opOf w).toNat with
  | 0x00 => some (.nop (VForm.ofWord w))
  | 0x01 => some (.bra (JForm.ofWord w))
  | 0x02 => some (.brc (JForm.ofWord w))
  | 0x03 => some (.bri (VForm.ofWord w))
  | 0x04 => some (.call (JForm.ofWord w))
  | 0x05 => some (.calli (VForm.ofWord w))
  | 0x06 => some (.ret (VForm.ofWord w))
  | 0x07 => some (.setmt (JForm.ofWord w))
  | 0x08 => some (.getmt (VForm.ofWord w))
  | 0x09 => some (.brpk (JForm.ofWord w))
  | 0x0A => some (.demote (VForm.ofWord w))
  | 0x0B => some (.exit (VForm.ofWord w))
  | 0x0C => some (.yield (VForm.ofWord w))
  | 0x0D => some (.sleep (KForm.ofWord w))
  | 0x10 => some (.sadd (VForm.ofWord w))
  | 0x11 => some (.ssub (VForm.ofWord w))
  | 0x12 => some (.smul (VForm.ofWord w))
  | 0x13 => some (.sdiv (VForm.ofWord w))
  | 0x14 => some (.slog (VForm.ofWord w))
  | 0x15 => some (.ssh (VForm.ofWord w))
  | 0x16 => some (.smnx (VForm.ofWord w))
  | 0x17 => some (.scmp (VForm.ofWord w))
  | 0x18 => some (.ssel (VForm.ofWord w))
  | 0x19 => some (.smovk (KForm.ofWord w))
  | 0x1A => some (.srdl (VForm.ofWord w))
  | 0x1B => some (.sbit (VForm.ofWord w))
  | 0x1C => some (.sget (VForm.ofWord w))
  | 0x20 => some (.viadd (VForm.ofWord w))
  | 0x21 => some (.visub (VForm.ofWord w))
  | 0x22 => some (.vimul (VForm.ofWord w))
  | 0x23 => some (.vimad (VForm.ofWord w))
  | 0x24 => some (.vidiv (VForm.ofWord w))
  | 0x25 => some (.vlog (VForm.ofWord w))
  | 0x26 => some (.vsh (VForm.ofWord w))
  | 0x27 => some (.vmnx (VForm.ofWord w))
  | 0x28 => some (.vbit (VForm.ofWord w))
  | 0x29 => some (.vbfx (VForm.ofWord w))
  | 0x2A => some (.vbfi (VForm.ofWord w))
  | 0x2B => some (.vicmp (VForm.ofWord w))
  | 0x2C => some (.vsel (VForm.ofWord w))
  | 0x2D => some (.vmov (VForm.ofWord w))
  | 0x2E => some (.vmovk (KForm.ofWord w))
  | 0x2F => some (.vlea (VForm.ofWord w))
  | 0x30 => some (.viadd64 (VForm.ofWord w))
  | 0x31 => some (.vimul64 (VForm.ofWord w))
  | 0x32 => some (.viext (VForm.ofWord w))
  | 0x33 => some (.vpack (VForm.ofWord w))
  | 0x40 => some (.vfadd (VForm.ofWord w))
  | 0x41 => some (.vfsub (VForm.ofWord w))
  | 0x42 => some (.vfmul (VForm.ofWord w))
  | 0x43 => some (.vfma (VForm.ofWord w))
  | 0x44 => some (.vfmnx (VForm.ofWord w))
  | 0x45 => some (.vfcmp (VForm.ofWord w))
  | 0x46 => some (.vfclass (VForm.ofWord w))
  | 0x47 => some (.vfdiv (VForm.ofWord w))
  | 0x48 => some (.vfsqrt (VForm.ofWord w))
  | 0x49 => some (.vfapx (VForm.ofWord w))
  | 0x4A => some (.vfscl (VForm.ofWord w))
  | 0x4B => some (.vfrnd (VForm.ofWord w))
  | 0x50 => some (.vcvtf (VForm.ofWord w))
  | 0x51 => some (.vcvtfi (VForm.ofWord w))
  | 0x52 => some (.vcvtif (VForm.ofWord w))
  | 0x53 => some (.vqnt (VForm.ofWord w))
  | 0x54 => some (.vdqnt (VForm.ofWord w))
  | 0x60 => some (.vshfl (VForm.ofWord w))
  | 0x61 => some (.vvote (VForm.ofWord w))
  | 0x62 => some (.vprfx (VForm.ofWord w))
  | 0x63 => some (.vred (VForm.ofWord w))
  | 0x64 => some (.vmatch (VForm.ofWord w))
  | 0x65 => some (.vbcst (VForm.ofWord w))
  | 0x66 => some (.fenceg (VForm.ofWord w))
  | 0x70 => some (.ld (MForm.ofWord w))
  | 0x71 => some (.st (MForm.ofWord w))
  | 0x72 => some (.lds (MForm.ofWord w))
  | 0x73 => some (.sts (MForm.ofWord w))
  | 0x74 => some (.ldu (MForm.ofWord w))
  | 0x75 => some (.stu (MForm.ofWord w))
  | 0x76 => some (.lda (MForm.ofWord w))
  | 0x77 => some (.sta (MForm.ofWord w))
  | 0x78 => some (.ldds (MForm.ofWord w))
  | 0x79 => some (.pref (MForm.ofWord w))
  | 0x7A => some (.cctl (MForm.ofWord w))
  | 0x7B => some (.waitc (KForm.ofWord w))
  | 0x7C => some (.ldk (MForm.ofWord w))
  | 0x7D => some (.stk (MForm.ofWord w))
  | 0x80 => some (.atom (MForm.ofWord w))
  | 0x81 => some (.cas (MForm.ofWord w))
  | 0x82 => some (.red (MForm.ofWord w))
  | 0x83 => some (.atoms (MForm.ofWord w))
  | 0x84 => some (.cass (MForm.ofWord w))
  | 0x85 => some (.reds (MForm.ofWord w))
  | 0x86 => some (.barinit (MForm.ofWord w))
  | 0x87 => some (.bararr (MForm.ofWord w))
  | 0x88 => some (.barexp (MForm.ofWord w))
  | 0x89 => some (.barwait (MForm.ofWord w))
  | 0x8A => some (.bartst (MForm.ofWord w))
  | 0x8B => some (.fence (MForm.ofWord w))
  | 0x90 => some (.gangset (VForm.ofWord w))
  | 0x91 => some (.mma (TForm.ofWords w s0 s1 s2 s3))
  | 0x92 => some (.mmas (TForm.ofWords w s0 s1 s2 s3))
  | 0x93 => some (.acommit (VForm.ofWord w))
  | 0x94 => some (.adiscard (VForm.ofWord w))
  | 0x95 => some (.accld (TForm.ofWords w s0 s1 s2 s3))
  | 0x96 => some (.accz (TForm.ofWords w s0 s1 s2 s3))
  | 0x97 => some (.tld (TForm.ofWords w s0 s1 s2 s3))
  | 0x98 => some (.tst (TForm.ofWords w s0 s1 s2 s3))
  | 0x99 => some (.thset (TForm.ofWords w s0 s1 s2 s3))
  | 0x9A => some (.thget (VForm.ofWord w))
  | 0xA0 => some (.vnld (MForm.ofWord w))
  | 0xA1 => some (.vnst (MForm.ofWord w))
  | 0xA2 => some (.vnpub (VForm.ofWord w))
  | 0xA3 => some (.vnfloor (VForm.ofWord w))
  | 0xA4 => some (.vnwait (VForm.ofWord w))
  | 0xA5 => some (.vnstat (VForm.ofWord w))
  | 0xA6 => some (.vnopen (VForm.ofWord w))
  | 0xB0 => some (.hfset (VForm.ofWord w))
  | 0xB1 => some (.hcode (VForm.ofWord w))
  | 0xB2 => some (.hprobe (VForm.ofWord w))
  | 0xB3 => some (.hins (VForm.ofWord w))
  | 0xB4 => some (.hdel (VForm.ofWord w))
  | 0xB5 => some (.hrehash (VForm.ofWord w))
  | 0xB6 => some (.hmerge (VForm.ofWord w))
  | 0xB7 => some (.hstat (VForm.ofWord w))
  | 0xC0 => some (.spawn (PForm.ofWord w))
  | 0xC1 => some (.bndset (VForm.ofWord w))
  | 0xC2 => some (.bndget (VForm.ofWord w))
  | 0xC3 => some (.icupd (VForm.ofWord w))
  | 0xC4 => some (.icrd (VForm.ofWord w))
  | 0xC5 => some (.shield (KForm.ofWord w))
  | 0xC6 => some (.tqstat (VForm.ofWord w))
  | 0xD0 => some (.push (PForm.ofWord w))
  | 0xD1 => some (.qstat (VForm.ofWord w))
  | 0xE0 => some (.trap (KForm.ofWord w))
  | 0xE1 => some (.rft (VForm.ofWord w))
  | 0xE2 => some (.csrr (SForm.ofWord w))
  | 0xE3 => some (.csrw (SForm.ofWord w))
  | 0xE4 => some (.bkpt (KForm.ofWord w))
  | _ => none

/-- The major opcode of an instruction; none for an event, which has no word. -/
def opcode : Instr → Option (BitVec 8)
  | .nop _ => some 0x00
  | .bra _ => some 0x01
  | .brc _ => some 0x02
  | .bri _ => some 0x03
  | .call _ => some 0x04
  | .calli _ => some 0x05
  | .ret _ => some 0x06
  | .setmt _ => some 0x07
  | .getmt _ => some 0x08
  | .brpk _ => some 0x09
  | .demote _ => some 0x0A
  | .exit _ => some 0x0B
  | .yield _ => some 0x0C
  | .sleep _ => some 0x0D
  | .sadd _ => some 0x10
  | .ssub _ => some 0x11
  | .smul _ => some 0x12
  | .sdiv _ => some 0x13
  | .slog _ => some 0x14
  | .ssh _ => some 0x15
  | .smnx _ => some 0x16
  | .scmp _ => some 0x17
  | .ssel _ => some 0x18
  | .smovk _ => some 0x19
  | .srdl _ => some 0x1A
  | .sbit _ => some 0x1B
  | .sget _ => some 0x1C
  | .viadd _ => some 0x20
  | .visub _ => some 0x21
  | .vimul _ => some 0x22
  | .vimad _ => some 0x23
  | .vidiv _ => some 0x24
  | .vlog _ => some 0x25
  | .vsh _ => some 0x26
  | .vmnx _ => some 0x27
  | .vbit _ => some 0x28
  | .vbfx _ => some 0x29
  | .vbfi _ => some 0x2A
  | .vicmp _ => some 0x2B
  | .vsel _ => some 0x2C
  | .vmov _ => some 0x2D
  | .vmovk _ => some 0x2E
  | .vlea _ => some 0x2F
  | .viadd64 _ => some 0x30
  | .vimul64 _ => some 0x31
  | .viext _ => some 0x32
  | .vpack _ => some 0x33
  | .vfadd _ => some 0x40
  | .vfsub _ => some 0x41
  | .vfmul _ => some 0x42
  | .vfma _ => some 0x43
  | .vfmnx _ => some 0x44
  | .vfcmp _ => some 0x45
  | .vfclass _ => some 0x46
  | .vfdiv _ => some 0x47
  | .vfsqrt _ => some 0x48
  | .vfapx _ => some 0x49
  | .vfscl _ => some 0x4A
  | .vfrnd _ => some 0x4B
  | .vcvtf _ => some 0x50
  | .vcvtfi _ => some 0x51
  | .vcvtif _ => some 0x52
  | .vqnt _ => some 0x53
  | .vdqnt _ => some 0x54
  | .vshfl _ => some 0x60
  | .vvote _ => some 0x61
  | .vprfx _ => some 0x62
  | .vred _ => some 0x63
  | .vmatch _ => some 0x64
  | .vbcst _ => some 0x65
  | .fenceg _ => some 0x66
  | .ld _ => some 0x70
  | .st _ => some 0x71
  | .lds _ => some 0x72
  | .sts _ => some 0x73
  | .ldu _ => some 0x74
  | .stu _ => some 0x75
  | .lda _ => some 0x76
  | .sta _ => some 0x77
  | .ldds _ => some 0x78
  | .pref _ => some 0x79
  | .cctl _ => some 0x7A
  | .waitc _ => some 0x7B
  | .ldk _ => some 0x7C
  | .stk _ => some 0x7D
  | .atom _ => some 0x80
  | .cas _ => some 0x81
  | .red _ => some 0x82
  | .atoms _ => some 0x83
  | .cass _ => some 0x84
  | .reds _ => some 0x85
  | .barinit _ => some 0x86
  | .bararr _ => some 0x87
  | .barexp _ => some 0x88
  | .barwait _ => some 0x89
  | .bartst _ => some 0x8A
  | .fence _ => some 0x8B
  | .gangset _ => some 0x90
  | .mma _ => some 0x91
  | .mmas _ => some 0x92
  | .acommit _ => some 0x93
  | .adiscard _ => some 0x94
  | .accld _ => some 0x95
  | .accz _ => some 0x96
  | .tld _ => some 0x97
  | .tst _ => some 0x98
  | .thset _ => some 0x99
  | .thget _ => some 0x9A
  | .vnld _ => some 0xA0
  | .vnst _ => some 0xA1
  | .vnpub _ => some 0xA2
  | .vnfloor _ => some 0xA3
  | .vnwait _ => some 0xA4
  | .vnstat _ => some 0xA5
  | .vnopen _ => some 0xA6
  | .hfset _ => some 0xB0
  | .hcode _ => some 0xB1
  | .hprobe _ => some 0xB2
  | .hins _ => some 0xB3
  | .hdel _ => some 0xB4
  | .hrehash _ => some 0xB5
  | .hmerge _ => some 0xB6
  | .hstat _ => some 0xB7
  | .spawn _ => some 0xC0
  | .bndset _ => some 0xC1
  | .bndget _ => some 0xC2
  | .icupd _ => some 0xC3
  | .icrd _ => some 0xC4
  | .shield _ => some 0xC5
  | .tqstat _ => some 0xC6
  | .push _ => some 0xD0
  | .qstat _ => some 0xD1
  | .trap _ => some 0xE0
  | .rft _ => some 0xE1
  | .csrr _ => some 0xE2
  | .csrw _ => some 0xE3
  | .bkpt _ => some 0xE4
  | _ => none

/-! ### What each instruction admits -/

/-- The operand kinds of R85, R136 and R155, as one field admits them. -/
inductive Kind where
  | v        -- v0 to v127
  | v2       -- an even vector register, naming a pair
  | v4       -- a run of four starting at a multiple of 4
  | s        -- s0 to s63
  | s56      -- s0 to s56, the first of 8
  | s60      -- s0 to s60, the first of 4
  | s62      -- s0 to s62, the first of 2
  | p | th | hf | ic | bnd | mt | gang
  | x        -- laneid, homelane, stage
  | stage
  | none
  deriving DecidableEq, Repr

/-- Whether an operand is of a kind. -/
def Kind.admits : Kind → Opnd → Bool
  | .v, .v _ => true
  | .v2, .v i => i.val % 2 = 0
  | .v4, .v i => i.val % 4 = 0
  | .s, .s _ => true
  | .s56, .s i => i.val ≤ 56
  | .s60, .s i => i.val ≤ 60
  | .s62, .s i => i.val ≤ 62
  | .p, .p _ => true
  | .th, .th _ => true
  | .hf, .hf _ => true
  | .ic, .ic _ => true
  | .bnd, .bnd => true
  | .mt, .mt => true
  | .gang, .gang => true
  | .x, .laneid => true
  | .x, .homelane => true
  | .x, .stage => true
  | .stage, .stage => true
  | .none, .none => true
  | _, _ => false

/-- An operand field: the empty list stands for a field the instruction does not use, which must hold none (R26). -/
abbrev Kinds := List Kind

/-- An unused field holding anything but 0xFF (R26). -/
def unusedBad (ks : Kinds) (o : Opnd) : Bool := ks.isEmpty && decide (o ≠ .none)

/-- A used field holding a kind the instruction does not admit, or a reserved code (R26). -/
def operandBad (ks : Kinds) (o : Opnd) : Bool := !ks.isEmpty && !ks.any (·.admits o)

/-- The first failing check decides; the checks stand in the order of R39's ranks. -/
def firstCause : List (Bool × Cause) → Option Cause
  | [] => none
  | (true, c) :: _ => some c
  | (false, _) :: r => firstCause r

/-- What a V-form instruction admits. -/
structure VSpec where
  fmts : List Nat := [0]
  subs : List Nat := [0]
  la   : Bool := false
  ftz  : Bool := false
  mode : Bool := false
  neg  : Bool := false
  abs  : Bool := false
  sat  : Bool := false
  d    : Kinds := []
  a    : Kinds := []
  b    : Kinds := []
  c    : Kinds := []

def vCheck (x : VForm) (p : VSpec) : Option Cause :=
  firstCause [
    (decide (x.la ≠ 0) && !p.la, .illegalEncoding),
    (!p.fmts.contains x.fmt.toNat, .illegalEncoding),
    (x.rnd.getLsbD 2 && !p.ftz, .illegalEncoding),
    (decide (x.rnd.extractLsb' 0 2 ≠ 0) && !p.mode, .illegalEncoding),
    (x.nas.getLsbD 2 && !p.neg, .illegalEncoding),
    (x.nas.getLsbD 1 && !p.abs, .illegalEncoding),
    (x.nas.getLsbD 0 && !p.sat, .illegalEncoding),
    (unusedBad p.d x.d || unusedBad p.a x.a || unusedBad p.b x.b || unusedBad p.c x.c, .illegalEncoding),
    (!p.subs.contains x.sub.toNat, .illegalSubop),
    (operandBad p.d x.d || operandBad p.a x.a || operandBad p.b x.b || operandBad p.c x.c, .illegalOperand)]

/-- The fields d and a of a K, J, P or S form, with a check of the form's own bits. -/
def daCheck (la : BitVec 4) (d a : Opnd) (dk ak : Kinds) (enc : Bool) (sub : Bool := false) (opnd : Bool := false) :
    Option Cause :=
  firstCause [
    (decide (la ≠ 0), .illegalEncoding),
    (unusedBad dk d || unusedBad ak a || enc, .illegalEncoding),
    (sub, .illegalSubop),
    (operandBad dk d || operandBad ak a || opnd, .illegalOperand)]

/-- What a memory instruction admits (R29, R136, R155, R164, R215). -/
structure MSpec where
  sizes  : List Nat
  spaces : List Nat := [0]
  orders : List Nat := [0]
  mi     : Bool := true
  la     : Bool := false
  hints  : Option (List Nat) := none     -- a hint outside this list raises ILLEGAL_ENCODING
  subs   : Option (List Nat) := none     -- an atomic sub-op outside this list raises ILLEGAL_SUBOP
  d      : Kinds := []
  a      : Kinds := []
  b      : Kinds := []
  c      : Kinds := []

/-- With order none the scope is 0; else group to system for global memory, group to block for the scratchpad, group to
device for the mirror window (R136, R155). -/
def scopeOk (x : MForm) : Bool :=
  if x.order = 0 then decide (x.scope = 0)
  else decide (1 ≤ x.scope.toNat) &&
    decide (x.scope.toNat ≤ (if x.space = 0 then 5 else if x.space = 1 then 2 else if x.space = 2 then 4 else 0))

def mCheck (x : MForm) (p : MSpec) : Option Cause :=
  let unused := match x.o with
    | .reg b c => unusedBad p.b b || unusedBad p.c c
    | .imm _ => !p.mi
  let bad := match x.o with
    | .reg b c => operandBad p.b b || operandBad p.c c
    | .imm _ => false
  firstCause [
    (decide (x.la ≠ 0) && !p.la, .illegalEncoding),
    (!p.sizes.contains x.size.toNat, .illegalEncoding),
    (!p.spaces.contains x.space.toNat, .illegalEncoding),
    (!p.orders.contains x.order.toNat, .illegalEncoding),
    (!scopeOk x, .illegalEncoding),
    (match p.hints with | some l => !l.contains x.hint.toNat | none => false, .illegalEncoding),
    (unusedBad p.d x.d || unusedBad p.a x.a || unused, .illegalEncoding),
    (match p.subs with | some l => !l.contains x.hint.toNat | none => false, .illegalSubop),
    (operandBad p.d x.d || operandBad p.a x.a || bad, .illegalOperand)]

/-- Formats of R87 and R113. -/
def fmtS : List Nat := [0, 1, 2, 3]
def fmtV : List Nat := [0, 1, 4, 5, 6, 7]
def fmtF : List Nat := [8, 10, 11]
def fmtFF : List Nat := [8, 9, 10, 11]

/-- A scalar source also admits stage (R85). -/
def kSS : Kinds := [.s, .stage]
/-- V, S or X. -/
def kVSX : Kinds := [.v, .s, .x]
/-- A destination of a float format: a pair in F64 (R113). -/
def kVf (x : VForm) : Kinds := if x.fmt = 9 then [.v2] else [.v]
/-- A float source: Vf or Sf (R113). -/
def kVfSf (x : VForm) : Kinds := if x.fmt = 9 then [.v2, .s] else [.v, .s]
/-- The registers of one lane's access of a size code (R136). -/
def kVd (x : MForm) : Kinds := if x.size = 4 then [.v4] else if x.size = 3 then [.v2] else [.v]

def sSpec (subs : List Nat) (neg abs sat : Bool) : VSpec :=
  { fmts := fmtS, subs := subs, neg := neg, abs := abs, sat := sat, d := [.s], a := kSS, b := kSS }

def viSpec (subs : List Nat) (neg abs sat : Bool) : VSpec :=
  { fmts := fmtV, subs := subs, neg := neg, abs := abs, sat := sat, d := [.v], a := kVSX, b := kVSX }

/-- VIADD and VISUB: CI, CO and CIO admit only N32 and no nas bit (R87). -/
def carrySpec (x : VForm) : VSpec :=
  let plain := x.sub.toNat = 0 || 3 < x.sub.toNat
  { fmts := if plain then fmtV else [1], subs := [0, 1, 2, 3], neg := plain, abs := plain, sat := plain,
    d := if x.sub.toNat = 2 || x.sub.toNat = 3 then [.p] else [.v], a := kVSX, b := kVSX,
    c := if x.sub.toNat = 0 || x.sub.toNat = 2 then [] else [.p] }

def vfSpec (x : VForm) (subs : List Nat) (mode sat : Bool) (b c : Bool) (la : Bool := false) : VSpec :=
  { fmts := fmtFF, subs := subs, la := la, ftz := true, mode := mode, neg := true, abs := true, sat := sat, d := kVf x,
    a := kVfSf x, b := if b then kVfSf x else [], c := if c then kVfSf x else [] }

/-- The sub-ops of VPRFX and VRED: the bitwise ones only in an integer format (R87). -/
def treeSubs (x : VForm) (exclusive : Bool) : List Nat :=
  let fl := fmtF.contains x.fmt.toNat
  (if fl then [0, 1, 2] else [0, 1, 2, 3, 4, 5]) ++
    (if exclusive then (if fl then [8, 9, 10] else [8, 9, 10, 11, 12, 13]) else [])

def treeSpec (x : VForm) (exclusive : Bool) : VSpec :=
  let fl := fmtF.contains x.fmt.toNat
  let add := x.sub.toNat = 0 || x.sub.toNat = 8
  { fmts := fmtV ++ fmtF, subs := treeSubs x exclusive, ftz := fl, mode := fl, sat := !fl && add,
    d := if exclusive then [.v] else [.v, .s], a := [.v] }

def shiftSpec (base : VSpec) (x : VForm) : VSpec :=
  { base with subs := [0, 1, 2, 3], neg := false, abs := false, sat := decide (x.sub = 0) }

/-- A store or load of a Vd operand at a global address. -/
def globalSpec (x : MForm) (load : Bool) : MSpec :=
  { sizes := [0, 1, 2, 3, 4], orders := if load then [0, 1] else [0, 2], la := load, d := kVd x, a := [.s, .v2, .none],
    b := [.v, .s, .none] }

def localSpec (x : MForm) (load : Bool) (spaces : List Nat) (orders : List Nat) : MSpec :=
  { sizes := [0, 1, 2, 3, 4], spaces := spaces, orders := orders, la := load, d := kVd x, a := [.s, .v, .none],
    b := [.v, .s, .none] }

def uniformSpec (load : Bool) (spaces : List Nat) (orders : List Nat) (a : Kinds) : MSpec :=
  { sizes := [0, 1, 2, 3], spaces := spaces, orders := orders, la := load, d := [.s], a := a, b := [.s, .none] }

/-- c names an owner core only for an acquire at device scope in global memory (R155, R172). -/
def rscKinds (x : MForm) : Kinds :=
  if (x.order = 1 ∨ x.order = 3) ∧ x.scope = 4 ∧ x.space = 0 then [.s, .none] else []

def atomSpec (x : MForm) (d : Kinds) (subs : List Nat) : MSpec :=
  { sizes := [2, 3], spaces := [0, 1], orders := [0, 1, 2, 3], la := true, subs := some subs, d := d,
    a := if x.space = 0 then [.s, .v2, .none] else [.s, .v, .none], b := [.v, .s, .none], c := rscKinds x }

def atomsSpec (x : MForm) (d : Kinds) (subs : List Nat) : MSpec :=
  { sizes := [2, 3], spaces := [0, 1], orders := [0, 1, 2, 3], la := true, subs := some subs, d := d,
    a := [.s, .none], b := [.s, .none], c := rscKinds x }

/-- The atomic sub-ops of R155 and R156. -/
def atomSubs : List Nat := [0, 1, 2, 3, 4, 5, 6, 7, 8, 9, 10, 11, 12]
def redSubs : List Nat := [0, 1, 2, 3, 4, 5, 6, 7, 8, 10, 11, 12]

/-- The barrier instructions: size B128, scratchpad, order none, hint 0 (R164). -/
def barSpec : MSpec :=
  { sizes := [4], spaces := [1], hints := some [0], d := [.s], a := [.s, .none], b := [.s, .none] }

/-- A shape field of 0xFF40 to 0xFFFF (R31). -/
def shapeBad (x : TForm) : Bool := (List.range 16).any fun k => decide (0xFF40 ≤ (x.field k).toNat)

structure TSpec where
  la    : Bool := false
  slot  : Bool := false       -- the slot field names a format slot; else it must be 0
  flags : Nat                 -- the flag bits that may be set
  enc   : Bool := false
  d     : Kinds := []
  a     : Kinds := []
  b     : Kinds := []

def tCheck (x : TForm) (p : TSpec) : Option Cause :=
  firstCause [
    (decide (x.la ≠ 0) && !p.la, .illegalEncoding),
    (decide (x.slot ≠ 0) && !p.slot, .illegalEncoding),
    (decide (x.flags &&& ~~~(BitVec.ofNat 7 p.flags) ≠ 0), .illegalEncoding),
    (shapeBad x || p.enc, .illegalEncoding),
    (unusedBad p.d x.d || unusedBad p.a x.a || unusedBad p.b x.b || unusedBad [] x.c, .illegalEncoding),
    (decide (x.sub ≠ 0), .illegalSubop),
    (operandBad p.d x.d || operandBad p.a x.a || operandBad p.b x.b, .illegalOperand)]

/-- MMA and MMAS: REUSE, ZERO and the B slot, which is zero when b names a handle (R187). -/
def mmaSpec (x : TForm) : TSpec :=
  { slot := true, flags := 0b0011111, a := [.v], b := [.th, .none],
    enc := (match x.b with | .th _ => decide (x.flags.extractLsb' 2 3 ≠ 0) | _ => false) }

/-- The registers of R297 that a CSRR may name, and those that a CSRW may name. -/
def csrNumbers : List Nat :=
  [0x000, 0x010, 0x011, 0x012, 0x013, 0x014, 0x015, 0x018, 0x019, 0x01A, 0x020, 0x030, 0x031, 0x040, 0x041]
def csrWritable : List Nat := [0x011, 0x012, 0x015, 0x020]

/-- The fields of an instruction together with what they may hold. -/
inductive Check where
  | v (x : VForm) (p : VSpec)
  | da (la : BitVec 4) (d a : Opnd) (dk ak : Kinds) (enc : Bool) (sub : Bool := false) (opnd : Bool := false)
  | m (x : MForm) (p : MSpec)
  | t (x : TForm) (p : TSpec)
  | event

/-- The encoding cause that the fields raise, if any. -/
def Check.cause : Check → Option Cause
  | .v x p => vCheck x p
  | .da la d a dk ak enc sub opnd => daCheck la d a dk ak enc sub opnd
  | .m x p => mCheck x p
  | .t x p => tCheck x p
  | .event => none

/-- What each instruction admits in its fields (R26 to R37 and the encoding rule of each chapter). A modifier that only some
sub-ops admit is refused with an undefined sub-op as the row's other sub-ops stand: the shifts, VPRFX and VRED, which name
the sub-op that admits sat, raise ILLEGAL_ENCODING, and the rows that name the one which does not raise ILLEGAL_SUBOP
(DESIGN CHOICE, log 33: the spec does not say whether an undefined sub-op admits it). For the same reason an undefined RFT
sub-op is taken to use no operand a: another a than 0xFF raises ILLEGAL_ENCODING (DESIGN CHOICE, log 33). -/
def checkOf : Instr → Check
  | .nop x | .demote x | .exit x | .yield x => Check.v x {}
  | .bra x | .brpk x => Check.da x.la x.d x.a [] [] false
  | .brc x => Check.da x.la x.d x.a [] kVSX false
  | .bri x | .ret x => Check.v x { a := [.v, .s] }
  | .call x => Check.da x.la x.d x.a [.v] [] false
  | .calli x => Check.v x { d := [.v], a := [.v, .s] }
  | .setmt x => Check.da x.la x.d x.a [.mt] [.v, .s, .none] (decide (x.a ≠ .none) && decide (x.off ≠ 0))
  | .getmt x => Check.v x { subs := [0, 1], d := [.v], a := [.mt] }
  | .sleep x => Check.da x.la x.d x.a [] [] false
  | .sadd x | .ssub x => Check.v x (sSpec [0] true true true)
  | .smul x => Check.v x (sSpec [0, 1] true true (decide (x.sub ≠ 1)))
  | .sdiv x => Check.v x { sSpec [0, 1] true true true with la := true }
  | .slog x => Check.v x { sSpec [0, 1, 2, 3, 4] false false false with fmts := [3], b := if x.sub = 4 then [] else kSS }
  | .ssh x => Check.v x (shiftSpec (sSpec [] false false false) x)
  | .smnx x => Check.v x (sSpec [0, 1] true true false)
  | .scmp x => Check.v x { sSpec [0, 1, 2, 3, 4, 5] true true false with d := [.s, .p] }
  | .ssel x => Check.v x { sSpec [0] false false false with fmts := [3], c := kSS }
  | .smovk x => Check.da x.la x.d x.a [.s] [.s, .none] false false (decide (x.a ≠ .none) && decide (x.a ≠ x.d))
  | .srdl x => Check.v x { fmts := [0, 1], d := [.s], a := [.v], b := [.s, .stage, .none] }
  | .sbit x => Check.v x { sSpec [0, 1, 2, 3] false false false with b := [] }
  | .sget x => Check.v x { fmts := [3], subs := List.range 14, d := [.s] }
  | .viadd x | .visub x => Check.v x (carrySpec x)
  | .vimul x => Check.v x (viSpec [0, 1] true true (decide (x.sub ≠ 1)))
  | .vimad x => Check.v x { viSpec [0] true true true with c := kVSX }
  | .vidiv x => Check.v x { viSpec [0, 1] true true true with la := true }
  | .vlog x => Check.v x { viSpec [0, 1, 2, 3, 4] false false false with fmts := [1], b := if x.sub = 4 then [] else kVSX }
  | .vsh x => Check.v x (shiftSpec (viSpec [] false false false) x)
  | .vmnx x => Check.v x (viSpec [0, 1] true true false)
  | .vbit x => Check.v x { viSpec [0, 1, 2, 3] false false false with b := [] }
  | .vbfx x => Check.v x { viSpec [0] false false false with fmts := [0, 1] }
  | .vbfi x => Check.v x { viSpec [0] false false false with fmts := [1], c := kVSX }
  | .vicmp x => Check.v x { viSpec [0, 1, 2, 3, 4, 5] true true false with d := [.v, .p] }
  | .vsel x => Check.v x { viSpec [0] false false false with fmts := [1], c := [.p] }
  | .vmov x => Check.v x { viSpec [0] true true true with b := [] }
  | .vmovk x => Check.da x.la x.d x.a [.v] [] false
  | .vlea x => Check.v x { viSpec (List.range 8) false false true with fmts := [0, 1], c := [.v, .s, .x, .none] }
  | .viadd64 x => Check.v x { fmts := [2, 3], subs := [0, 1], sat := true, d := [.v2], a := [.v2, .s], b := [.v2, .s] }
  | .vimul64 x => Check.v x { fmts := [0, 1], d := [.v2], a := kVSX, b := kVSX }
  | .viext x => Check.v x {
      fmts := [0, 1], subs := [0, 1], sat := decide (x.sub ≠ 0),
      d := if x.sub = 0 then [.v2] else [.v], a := if x.sub = 0 then kVSX else [.v2] }
  | .vpack x => Check.v x {
      fmts := if x.sub = 0 then [4, 5] else if x.sub.toNat ≤ 2 then [6, 7] else [4, 5, 6, 7],
      subs := [0, 1, 2], sat := true, d := [.v], a := kVSX, b := kVSX }
  | .vfadd x | .vfsub x | .vfmul x => Check.v x (vfSpec x [0] true true true false)
  | .vfma x => Check.v x (vfSpec x [0] true true true true)
  | .vfmnx x => Check.v x (vfSpec x [0, 1, 2, 3] false false true false)
  | .vfcmp x => Check.v x { vfSpec x (List.range 8) false false true false with d := [.v, .p] }
  | .vfclass x => Check.v x {
      fmts := fmtFF, neg := true, abs := true, d := [.v, .p], a := kVfSf x,
      b := match x.d with | .p _ => [.v, .s] | _ => [] }
  | .vfdiv x => Check.v x (vfSpec x [0] true true true false true)
  | .vfsqrt x => Check.v x (vfSpec x [0] true true false false true)
  | .vfapx x => Check.v x { vfSpec x [0, 1, 2, 3] true true false false true with fmts := fmtF }
  | .vfscl x => Check.v x { vfSpec x [0] true true false false with b := [.v, .s] }
  | .vfrnd x => Check.v x (vfSpec x [0, 1] true false false false)
  | .vcvtf x => Check.v x {
      fmts := List.range 8, subs := [8, 9, 10, 11], ftz := true, neg := true, abs := true,
      d := [.v], a := if x.sub = 9 then [.v2, .s] else [.v, .s] }
  | .vcvtfi x => Check.v x { vfSpec x (List.range 8) true false false false with
      d := if x.sub = 2 ∨ x.sub = 3 then [.v2] else [.v] }
  | .vcvtif x => Check.v x {
      fmts := fmtFF, subs := List.range 8, mode := true, neg := true, abs := true, d := kVf x,
      a := if x.sub = 2 ∨ x.sub = 3 then [.v2, .s] else [.v, .s] }
  | .vqnt x | .vdqnt x => Check.v x { fmts := List.range 8, d := [.v], a := [.v] }
  | .vshfl x => Check.v x { fmts := [1], subs := [0, 1, 2, 3], d := [.v], a := [.v], b := [.v, .s] }
  | .vvote x => Check.v x {
      fmts := [1], subs := List.range 6,
      d := if x.sub = 1 ∨ x.sub = 4 then [.s, .v] else [.p, .s, .v], a := [.p, .v] }
  | .vprfx x => Check.v x (treeSpec x true)
  | .vred x => Check.v x (treeSpec x false)
  | .vmatch x => Check.v x { fmts := fmtV, d := [.v], a := [.v] }
  | .vbcst x => Check.v x { fmts := [1], d := [.v, .s], a := [.v], b := [.s, .none] }
  | .fenceg x => Check.v x {}
  | .ld x => Check.m x (globalSpec x true)
  | .st x => Check.m x (globalSpec x false)
  | .lds x => Check.m x (localSpec x true [1, 2] [0, 1])
  | .sts x => Check.m x (localSpec x false [1, 2] [0, 2])
  | .ldu x => Check.m x (uniformSpec true [0, 1] [0, 1] [.s, .none])
  | .stu x => Check.m x (uniformSpec false [0, 1] [0, 2] [.s, .none])
  | .lda x => Check.m x (localSpec x true [0] [0])
  | .sta x => Check.m x (localSpec x false [0] [0])
  | .ldds x => Check.m x { sizes := [2, 3, 4], mi := false, d := [.v, .s], a := [.s, .v2, .none], b := [.v, .s, .none], c := [.s] }
  | .pref x | .cctl x => Check.m x { sizes := [0], a := [.s, .v2, .none], b := [.v, .s, .none] }
  | .waitc x => Check.da x.la x.d x.a [] [] (decide (x.imm.extractLsb' 28 4 ≠ 0))
  | .ldk x => Check.m x (uniformSpec true [0] [0] [])
  | .stk x => Check.m x (uniformSpec false [0] [0] [])
  | .atom x => Check.m x (atomSpec x (if x.size = 3 then [.v2] else [.v]) atomSubs)
  | .cas x => Check.m x (atomSpec x (if x.size = 3 then [.v4] else [.v2]) [0])
  | .red x => Check.m x { atomSpec x (if x.size = 3 then [.v2] else [.v]) redSubs with la := false, orders := [0, 2], c := [] }
  | .atoms x => Check.m x (atomsSpec x [.s] atomSubs)
  | .cass x => Check.m x (atomsSpec x [.s62] [0])
  | .reds x => Check.m x { atomsSpec x [.s] redSubs with la := false, orders := [0, 2], c := [] }
  | .barinit x | .bararr x | .barexp x | .barwait x | .bartst x => Check.m x barSpec
  | .fence x => Check.m x { sizes := [0], orders := [1, 2, 3], mi := false, hints := some [0], c := rscKinds x }
  | .gangset x => Check.v x { d := [.gang], a := [.s, .none] }
  | .mma x | .mmas x => Check.t x (mmaSpec x)
  | .acommit x | .adiscard x => Check.v x {}
  | .accld x => Check.t x { la := true, flags := 1, d := [.v] }
  | .accz x => Check.t x { flags := 0 }
  | .tld x => Check.t x { flags := 1, a := [.th], b := [.s, .none] }
  | .tst x => Check.t x { flags := 0, a := [.th], b := [.s, .none] }
  | .thset x => Check.t x { flags := 0, d := [.th], a := [.s60] }
  | .thget x => Check.v x { subs := List.range 8, d := [.s], a := [.th] }
  | .vnld x => Check.m x { globalSpec x true with orders := [0], mi := false, c := [.s] }
  | .vnst x => Check.m x { globalSpec x false with orders := [0], mi := false, c := [.s] }
  | .vnpub x | .vnfloor x | .vnwait x => Check.v x { a := [.s], b := [.s] }
  | .vnstat x => Check.v x { subs := List.range 7, d := [.s], a := [.s] }
  | .vnopen x => Check.v x { d := [.s], a := [.s] }
  | .hfset x => Check.v x { d := [.hf], a := [.s] }
  | .hcode x => Check.v x { la := true, d := [.v], a := [.v], b := [.hf], c := [.s, .none] }
  | .hprobe x => Check.v x { la := true, subs := [0, 1], d := if x.sub = 1 then [.v2] else [.v], a := [.v], b := [.hf], c := [.s] }
  | .hins x => Check.v x { d := [.v], a := [.v], b := [.hf], c := [.s] }
  | .hdel x => Check.v x { a := [.v], b := [.hf], c := [.s] }
  | .hrehash x => Check.v x { d := [.s], a := [.s], b := [.hf], c := [.s] }
  | .hmerge x => Check.v x { d := [.s], b := [.hf], c := [.s] }
  | .hstat x => Check.v x { subs := List.range 9 ++ List.range' 16 8 ++ List.range' 32 9, d := [.s], b := [.hf] }
  | .spawn x => Check.da x.la x.d x.a [.p] [.s56] (decide (x.resHi ≠ 0) || decide (x.resLo ≠ 0) || decide (x.queue ≠ 0))
  | .bndset x => Check.v x {
      subs := [0, 1], d := [.bnd], a := if x.sub = 1 then [] else [.v2, .s],
      b := if x.sub = 1 then [] else [.ic] }
  | .bndget x => Check.v x { subs := [0, 1], d := if x.sub = 1 then [.v] else [.v2], a := [.bnd] }
  | .icupd x => Check.v x { d := [.ic], a := [.v2, .s] }
  | .icrd x => Check.v x { subs := [0, 1, 2], d := [.s], a := [.ic] }
  | .shield x => Check.da x.la x.d x.a [] [] (decide (x.imm = 0) || decide (15 < x.imm.toNat))
  | .tqstat x => Check.v x { subs := List.range 9, d := [.s] }
  | .push x => Check.da x.la x.d x.a [.p] [.s56] (decide (x.resHi ≠ 0) || decide (x.resLo ≠ 0) || decide (5 < x.queue.toNat))
  | .qstat x => Check.v x { subs := List.range 6, d := [.s] }
  | .trap x | .bkpt x => Check.da x.la x.d x.a [] [] false
  | .rft x => Check.v x { subs := [0, 1], a := if x.sub = 1 then [.v] else [] }
  | .csrr x => Check.da x.la x.d x.a [.s] [] (decide (x.resHi ≠ 0) || decide (x.resLo ≠ 0)) (decide (x.sub ≠ 0))
      (!csrNumbers.contains x.csr.toNat)
  | .csrw x => Check.da x.la x.d x.a [] [.s] (decide (x.resHi ≠ 0) || decide (x.resLo ≠ 0)) (decide (x.sub ≠ 0))
      (!csrWritable.contains x.csr.toNat)
  | _ => .event

/-- The encoding cause of ranks 5 to 7 that a word of this instruction raises, if any (R37, R39). -/
def encodingCause (i : Instr) : Option Cause := (checkOf i).cause

/-! ### Decoding and encoding -/

/-- Decode the instruction whose words these are (the shape words are read only by the T form), or answer the encoding
cause it raises: ILLEGAL_OPCODE, ILLEGAL_ENCODING, ILLEGAL_SUBOP or ILLEGAL_OPERAND (R37, R39). -/
def decode (w s0 s1 s2 s3 : W64) : Except Cause Instr :=
  match instrOfWord w s0 s1 s2 s3 with
  | none => .error .illegalOpcode
  | some i =>
    match encodingCause i with
    | some c => .error c
    | none => .ok i

/-- The words of an instruction: one, or five for the T form (R31); none for an event. -/
def encode : Instr → List W64
  | .nop x => [x.word 0x00]
  | .bra x => [x.word 0x01]
  | .brc x => [x.word 0x02]
  | .bri x => [x.word 0x03]
  | .call x => [x.word 0x04]
  | .calli x => [x.word 0x05]
  | .ret x => [x.word 0x06]
  | .setmt x => [x.word 0x07]
  | .getmt x => [x.word 0x08]
  | .brpk x => [x.word 0x09]
  | .demote x => [x.word 0x0A]
  | .exit x => [x.word 0x0B]
  | .yield x => [x.word 0x0C]
  | .sleep x => [x.word 0x0D]
  | .sadd x => [x.word 0x10]
  | .ssub x => [x.word 0x11]
  | .smul x => [x.word 0x12]
  | .sdiv x => [x.word 0x13]
  | .slog x => [x.word 0x14]
  | .ssh x => [x.word 0x15]
  | .smnx x => [x.word 0x16]
  | .scmp x => [x.word 0x17]
  | .ssel x => [x.word 0x18]
  | .smovk x => [x.word 0x19]
  | .srdl x => [x.word 0x1A]
  | .sbit x => [x.word 0x1B]
  | .sget x => [x.word 0x1C]
  | .viadd x => [x.word 0x20]
  | .visub x => [x.word 0x21]
  | .vimul x => [x.word 0x22]
  | .vimad x => [x.word 0x23]
  | .vidiv x => [x.word 0x24]
  | .vlog x => [x.word 0x25]
  | .vsh x => [x.word 0x26]
  | .vmnx x => [x.word 0x27]
  | .vbit x => [x.word 0x28]
  | .vbfx x => [x.word 0x29]
  | .vbfi x => [x.word 0x2A]
  | .vicmp x => [x.word 0x2B]
  | .vsel x => [x.word 0x2C]
  | .vmov x => [x.word 0x2D]
  | .vmovk x => [x.word 0x2E]
  | .vlea x => [x.word 0x2F]
  | .viadd64 x => [x.word 0x30]
  | .vimul64 x => [x.word 0x31]
  | .viext x => [x.word 0x32]
  | .vpack x => [x.word 0x33]
  | .vfadd x => [x.word 0x40]
  | .vfsub x => [x.word 0x41]
  | .vfmul x => [x.word 0x42]
  | .vfma x => [x.word 0x43]
  | .vfmnx x => [x.word 0x44]
  | .vfcmp x => [x.word 0x45]
  | .vfclass x => [x.word 0x46]
  | .vfdiv x => [x.word 0x47]
  | .vfsqrt x => [x.word 0x48]
  | .vfapx x => [x.word 0x49]
  | .vfscl x => [x.word 0x4A]
  | .vfrnd x => [x.word 0x4B]
  | .vcvtf x => [x.word 0x50]
  | .vcvtfi x => [x.word 0x51]
  | .vcvtif x => [x.word 0x52]
  | .vqnt x => [x.word 0x53]
  | .vdqnt x => [x.word 0x54]
  | .vshfl x => [x.word 0x60]
  | .vvote x => [x.word 0x61]
  | .vprfx x => [x.word 0x62]
  | .vred x => [x.word 0x63]
  | .vmatch x => [x.word 0x64]
  | .vbcst x => [x.word 0x65]
  | .fenceg x => [x.word 0x66]
  | .ld x => [x.word 0x70]
  | .st x => [x.word 0x71]
  | .lds x => [x.word 0x72]
  | .sts x => [x.word 0x73]
  | .ldu x => [x.word 0x74]
  | .stu x => [x.word 0x75]
  | .lda x => [x.word 0x76]
  | .sta x => [x.word 0x77]
  | .ldds x => [x.word 0x78]
  | .pref x => [x.word 0x79]
  | .cctl x => [x.word 0x7A]
  | .waitc x => [x.word 0x7B]
  | .ldk x => [x.word 0x7C]
  | .stk x => [x.word 0x7D]
  | .atom x => [x.word 0x80]
  | .cas x => [x.word 0x81]
  | .red x => [x.word 0x82]
  | .atoms x => [x.word 0x83]
  | .cass x => [x.word 0x84]
  | .reds x => [x.word 0x85]
  | .barinit x => [x.word 0x86]
  | .bararr x => [x.word 0x87]
  | .barexp x => [x.word 0x88]
  | .barwait x => [x.word 0x89]
  | .bartst x => [x.word 0x8A]
  | .fence x => [x.word 0x8B]
  | .gangset x => [x.word 0x90]
  | .mma x => [x.word 0x91, x.sh0, x.sh1, x.sh2, x.sh3]
  | .mmas x => [x.word 0x92, x.sh0, x.sh1, x.sh2, x.sh3]
  | .acommit x => [x.word 0x93]
  | .adiscard x => [x.word 0x94]
  | .accld x => [x.word 0x95, x.sh0, x.sh1, x.sh2, x.sh3]
  | .accz x => [x.word 0x96, x.sh0, x.sh1, x.sh2, x.sh3]
  | .tld x => [x.word 0x97, x.sh0, x.sh1, x.sh2, x.sh3]
  | .tst x => [x.word 0x98, x.sh0, x.sh1, x.sh2, x.sh3]
  | .thset x => [x.word 0x99, x.sh0, x.sh1, x.sh2, x.sh3]
  | .thget x => [x.word 0x9A]
  | .vnld x => [x.word 0xA0]
  | .vnst x => [x.word 0xA1]
  | .vnpub x => [x.word 0xA2]
  | .vnfloor x => [x.word 0xA3]
  | .vnwait x => [x.word 0xA4]
  | .vnstat x => [x.word 0xA5]
  | .vnopen x => [x.word 0xA6]
  | .hfset x => [x.word 0xB0]
  | .hcode x => [x.word 0xB1]
  | .hprobe x => [x.word 0xB2]
  | .hins x => [x.word 0xB3]
  | .hdel x => [x.word 0xB4]
  | .hrehash x => [x.word 0xB5]
  | .hmerge x => [x.word 0xB6]
  | .hstat x => [x.word 0xB7]
  | .spawn x => [x.word 0xC0]
  | .bndset x => [x.word 0xC1]
  | .bndget x => [x.word 0xC2]
  | .icupd x => [x.word 0xC3]
  | .icrd x => [x.word 0xC4]
  | .shield x => [x.word 0xC5]
  | .tqstat x => [x.word 0xC6]
  | .push x => [x.word 0xD0]
  | .qstat x => [x.word 0xD1]
  | .trap x => [x.word 0xE0]
  | .rft x => [x.word 0xE1]
  | .csrr x => [x.word 0xE2]
  | .csrw x => [x.word 0xE3]
  | .bkpt x => [x.word 0xE4]
  | _ => []

/-- The instruction a stream of words begins with; words past the end of the stream read as zero. -/
def decodeWords (ws : List W64) : Except Cause Instr :=
  decode (ws.getD 0 0) (ws.getD 1 0) (ws.getD 2 0) (ws.getD 3 0) (ws.getD 4 0)

/-- The instruction the decoder reads from the bits w of an opcode-table row of nbits bits: bit 0 is the least
significant bit of the first word, and bits above nbits are zero. -/
def decodeTableWord (nbits w : Nat) : Option Instr :=
  let n := w % 2 ^ nbits
  match decodeWords ((List.range 5).map fun k => BitVec.ofNat 64 (n >>> (64 * k))) with
  | .ok i => some i
  | .error _ => none

end Sys2Proof
end

