-- ==== Sys2Proof/Machine/State.lean ====
section
/-!
DEFINITION. The state of the Z9: everything the spec gives the device, as plain data (INVENTORY.md lists each piece
with its rule and its reset value). A register held per thread, per group or per block exists while its block is
admitted. The fields cur, agenda, free and nextId are the model's own (notes/assumptions/2.md and 5.md).
-/

namespace Sys2Proof.Machine

/-- Bytes of one memory in canonical form: addresses strictly rising, no entry equal to what an unlisted address
reads as, which is 0 (DESIGN CHOICE, log 1). -/
abbrev Memory := List Host.Cell

/-- What an unlisted address of any memory reads as (DESIGN CHOICE, unsafe: log 1). -/
def unlisted : Byte := 0

/-- The canonical form of a memory: addresses strictly rising and no listed byte equal to the unlisted one. -/
def Memory.wf : Memory → Bool
  | [] => true
  | [c] => c.2 != unlisted
  | c :: d :: m => c.2 != unlisted && decide (c.1 < d.1) && Memory.wf (d :: m)

/-- The state of a thread at an issue opportunity (R58). A thread that waits for a counter, a pending register or the
answer of another agent is run here: whether its next instruction can issue is computed from the rest of the state. -/
inductive LaneSt where
  | run
  | held                                -- at its meeting address (R65)
  | sleeping (wake : Nat)               -- until the cycle count reaches wake (R76)
  | exited (cancelled : Bool)           -- by EXIT, or by cancellation (R76, R78)
  | brpk (target : W32)                 -- at the BRPK at its PC, with the target it has chosen (R68)
  | rejoin (newmt : W32)                -- at the RFT at its PC, with the meeting value it will take (R305)
  | barwait (off : Nat) (phase : W32) (passed : Bool)  -- in the BARWAIT at its PC; passed: the phase it waits for has passed (R167)
  | latch                               -- at the rendezvous latch, before its MMA or MMAS (R190)
  | trapHeld                            -- before the instruction at its PC until the handler ends (R308)
  deriving DecidableEq, Repr

/-- One thread: a lane of a group (R58, R316). homelane is bits 27:23 of the tag (R272). -/
structure Lane where
  pc      : W32                 -- N32 code offset (R58)
  mt      : W32                 -- meeting register (R65)
  smt     : W32                 -- shadow mt (R306)
  hdr     : Option W32          -- header of the clause the thread is inside; none when it stands at a header (R22)
  v       : Vector W32 128      -- v0 to v127
  st      : LaneSt
  helper  : Bool                -- R67
  inTrap  : Bool                -- in the handler (R316): the lane's bit of TMASK
  yielded : Bool                -- R62
  skip    : Nat                 -- R61
  shield  : Nat                 -- instructions of the SHIELD window left (R287)
  tag     : W32                 -- R272
  bnd     : W64                 -- bound VALUE (R278)
  bndIc   : BitVec 4            -- bound IC
  ben     : Bool                -- bound BEN: the thread is prunable
  wins    : List (Nat × Nat)    -- open lookahead windows: instruction number, instructions left (R35)
  dom     : Nat                 -- the cc for which it has been dominated without being cancelled (R283)
  deriving DecidableEq, Repr

/-- The counter an instruction's completion lowers (R21). -/
inductive Ctr where
  | none | lc | sc | mc
  deriving DecidableEq, Repr

/-- A register's place: a vector register of one lane, or a scalar register. -/
inductive Dest where
  | v (reg lane : Nat)
  | s (reg : Nat)
  deriving DecidableEq, Repr

/-- An instruction that has issued and is not complete: its registers are pending until it lands (R34, R35). -/
structure Insn where
  id     : Nat
  ctr    : Ctr
  fpc    : W32                    -- the instruction's code offset, for FPC (R147)
  lanes  : Mask                   -- the lanes it acts for
  vregs  : List Nat               -- vector registers pending
  sregs  : List Nat               -- scalar registers pending
  writes : List (Dest × W64)      -- a result computed at issue, written when it lands (RESULT_LAND)
  timed  : Bool                   -- lands by RESULT_LAND rather than by its requests
  deriving DecidableEq, Repr

/-- A cause that waits in its group until the group's next issue (R209, R308). -/
structure After where
  insn  : Nat         -- the instruction, for the order of age
  cause : Cause
  lanes : Mask
  fault : Bool        -- it sets FADDR, FKIND and FPC
  faddr : W64
  fkind : W64
  fpc   : W32
  deriving DecidableEq, Repr

/-- The reuse latch of a group (R194): the run and slot it was read from, and the row of each lane. -/
structure Reuse where
  a    : Nat
  slot : Nat
  k    : Nat
  rows : Vector (List W32) 32
  deriving DecidableEq, Repr

/-- A group of 32 threads in one slot of its block (R10, R297). -/
structure Group where
  lanes    : Vector Lane 32
  p        : Vector W32 8           -- p0 is never read: it reads as all ones (R25)
  s        : Vector W64 64
  gang     : W16                    -- R189
  lc       : Nat                    -- completion counters, 0 to 255 (R21)
  sc       : Nat
  mc       : Nat
  ec       : Nat
  cause    : W64                    -- control and status registers held per group (R297)
  tvec     : W64
  tepc     : W64
  tmask    : W64
  tstat    : W64
  tscratch : W64
  fstat    : W64
  newFlags : W64                    -- the flags set in the current cc (R112)
  faddr    : W64
  fkind    : W64
  fpc      : W64
  reuse    : Option Reuse
  insns    : List Insn              -- issued and not complete, oldest first
  after    : List After             -- causes waiting after acceptance, oldest first
  trapChk  : Bool                   -- the handler's first fetch has not yet checked the word at TVEC (R306)
  poolPark : Bool                   -- parked from the handler's RFT until held lines land (R212)
  quad     : Nat                    -- quadrant 0 to 3
  active   : Option Nat             -- active slot 0 to 7, or pending (R79)
  mayIssue : Nat                    -- the first cycle in which it may issue
  readyAt  : Nat                    -- when it last became ready (R79)
  idleAt   : Nat                    -- when it last had a runnable lane (R79)
  idleOut  : Bool                   -- it has had no runnable lane for 16 cc and may leave the active set (R79)
  task     : Bool                   -- a task group (R275)
  forming  : Bool                   -- a task group that has been formed and has not started (R275)
  epoch    : BitVec 23              -- of the slot (R272)
  deriving DecidableEq, Repr

/-- An open shadow of a C region (R195): its words row by row. -/
structure Shadow where
  coff   : Nat
  cpitch : Nat
  n      : Nat
  rows   : Nat
  data   : List W32
  deriving DecidableEq, Repr

/-- A task record in the on-chip share: its dwords, its index in the queue and when it was appended (R269, R270). -/
structure TaskRec where
  dws   : Vector W64 8
  index : Nat
  time  : Nat
  deriving DecidableEq, Repr

/-- The spawn queue of a TASKS block (R269, R288). Records past the share lie in the ring segment in memory. -/
structure TaskQ where
  share     : List TaskRec          -- oldest first, at most 128
  ring      : List (Nat × Nat)      -- index and time of the records in the ring, oldest first
  tail      : Nat                   -- index of the next record
  spawned   : W64
  groups    : W64
  tasks     : W64
  pruned    : W64
  orphaned  : W64
  cancelled : W64
  discarded : W64
  refill    : Bool                  -- restored, and the share not yet read back (R289)
  due       : List Nat              -- indexes of records that have waited 512 cc as the oldest of their set (R274)
  doomed    : List (Nat × Nat)      -- records that a change of the core's copy is to prune: index, and when it changed (R284)
  pledged   : List (Nat × Nat)      -- records that leave with the parent that the same change cancels, likewise (R292)
  formed    : Option Nat            -- the cc in which it last formed a group: one in each cc (R274)
  deriving DecidableEq, Repr

/-- Whether a block is on a core, saved in its image, or being saved. -/
inductive BlockSt where
  | resident
  | saving (since : Nat) (idle : Bool)   -- since: when its third step began (R319); idle: for R83, to be queued when what
                                         -- it waits for has come
  | saved
  deriving DecidableEq, Repr

/-- A block of a launch, admitted and not complete (R10, R81, R314). -/
structure Block where
  id        : Nat
  launch    : Nat
  lin       : Nat                   -- linear index in the admission order of R80
  x         : Nat
  y         : Nat
  z         : Nat
  stage     : Nat
  core      : Nat                   -- the logical core it is on, or was last on
  core0     : Nat                   -- CORE: where it was first admitted (R94)
  st        : BlockSt
  since     : Nat                   -- admission or last restoration (R82)
  residence : Nat                   -- residence time before that
  idleAt    : Nat                   -- when it last had a thread not in a counted wait (R83)
  imageAt   : Nat                   -- its image's place in the context's image store (R314)
  groups    : List Group
  scratch   : Memory                -- scratchpad bytes by block-relative offset
  mirror    : Memory                -- the block's own mirror copy
  w         : Memory                -- W share
  a         : Memory                -- A share
  c         : Memory                -- C share
  shadows   : List Shadow
  th        : Vector (Vector W64 8) 16
  hf        : Vector (Vector W64 8) 8
  hfc       : Vector (Vector W64 9) 8      -- statistics counters (R261)
  btvec     : W64                   -- block TVEC (R297)
  q         : TaskQ
  credit    : Nat                   -- energy credit in µJ (R362)
  savers    : List (Nat × W32)      -- PREEMPT commands awaiting the save: function and cid (R321)
  deriving DecidableEq, Repr

/-- One lane set chosen in the current issue cycle and not yet executed (the model's own, log 2). -/
structure Issue where
  blk   : Nat
  grp   : Nat
  lanes : Mask
  pc    : W32
  hdr   : W32
  cls   : Nat                 -- the clause's class (R19)
  cnt   : Nat                 -- the clause's cnt field
  old   : Option Group        -- for a second choice: the group at the start of the cycle, which it reads (R60)
  deriving DecidableEq, Repr

/-- The kind of a memory request (R143, R157, R216). -/
inductive ReqKind where
  | load | store | ldds | pref | cctl
  | atomic (op : Nat) (cas : Bool) (fetch : Bool)
  | vnld (v : Nat) | vnst (v : Nat)
  | fence                        -- the arrival of a remote-scope FENCE at its owner core (R177)
  | code                         -- a fetch of code from a peer's memory (R131)
  deriving DecidableEq, Repr

/-- The space a request acts on (R129). -/
inductive Space where
  | global | scratch | mirror | abuf
  deriving DecidableEq, Repr

/-- Where a request stands between its issue and its completion (R143 to R148, R212, R216). -/
inductive ReqPhase where
  | issued                       -- not yet accepted
  | accepted (entry : Nat)       -- in a Sifter entry, or at its bank
  | parked (fault : Nat)         -- in a fault-buffer entry (R146)
  | held (entry : Nat)           -- a VNST line for which no record is free (R212)
  | blocked (entry : Nat)        -- a VNLD in a slice's wait list (R216)
  | retry (entry time : Nat)     -- a VNLD told RETRY (R216)
  | remote (entry tag : Nat)     -- sent to a peer
  | done                         -- performed; the reply or acknowledgement is on its way
  | fill                         -- a reply held in its instruction's fault-buffer entry (R146, R149)
  deriving DecidableEq, Repr

/-- One lane's part of a request: its operand bytes, and for a CAS the compare bytes; then what it fetched. -/
structure Part where
  lane : Nat
  data : List Byte
  cmp  : List Byte
  res  : List Byte
  deriving DecidableEq, Repr

/-- A memory request: the access of one lane, of the lanes of one address, or of a whole lane set (R130, R138, R158). -/
structure Req where
  id     : Nat
  insn   : Nat
  core   : Nat
  blk    : Nat
  grp    : Nat
  threads : Mask            -- the threads whose access this is: all of the set for a uniform access (R138, R157)
  takers : Mask             -- the lanes it is made for, which take its causes (R147, R148)
  ordered : Mask            -- the guard-true lanes of its lane set: no other thread gets an ordering from it (R171)
  helper : Bool             -- made only for helper lanes (R67)
  kind   : ReqKind
  space  : Space
  addr   : Nat
  size   : Nat
  order  : Nat              -- R29
  scope  : Nat
  owner  : Option Nat       -- owner core of a remote-scope acquire (R177)
  parts  : List Part
  dst    : Option Nat       -- first destination vector register
  sdst   : Option Nat       -- destination scalar register of a uniform access
  bdst   : Nat              -- LDDS: scratchpad destination
  bar    : Nat              -- LDDS: barrier object
  unit   : Bool             -- made by the matrix engine or the retrieval unit
  kept   : Bool             -- it has stood in the fault buffer: a store so is performed even if its thread is cancelled (R148)
  acks   : List Nat         -- mirror store: blocks of the cluster in whose copies it has not landed (R175); remote-scope
                            -- acquire: the requests that must be performed at device scope first (R177)
  phase  : ReqPhase
  deriving DecidableEq, Repr

/-- The outcome of a translation (R134, R135). -/
inductive Xlat where
  | ok (pa key : Nat) (w x : Bool)
  | invalid
  | malformed
  | unmapped
  deriving DecidableEq, Repr

/-- The kind of a Sifter entry (R143, R216). -/
inductive EntryKind where
  | read | write | single | vnld (v : Nat) | vnst (v : Nat) | bank
  deriving DecidableEq, Repr

/-- A Sifter entry, or a request at a bank: one line and one kind (R143). -/
structure Entry where
  id     : Nat
  core   : Nat
  ctx    : Nat
  line   : Nat              -- virtual line number, or the request number at a bank
  kind   : EntryKind
  pa     : Nat              -- physical address of the line
  key    : Nat              -- KEYID
  opened : Nat
  closed : Bool
  sent   : Bool             -- holds an entry of the outstanding-transaction table (R144)
  members : List Nat        -- the requests that have entered it, in order of arrival (R143)
  deriving DecidableEq, Repr

/-- A fault-buffer entry (R146): the parked lines of one instruction of one group, or a parked fetch. -/
structure FaultEntry where
  id    : Nat
  core  : Nat
  blk   : Nat
  grp   : Nat
  insn  : Nat
  fetch : Option (W32 × Mask)    -- a parked code fetch: its target and its lanes
  pages : List Nat               -- 64 KiB blocks it waits on
  deriving DecidableEq, Repr

/-- A read that a lane set has begun before its instruction issues: a family image, a rehash array or a region entry (R251,
R260, R219), or a line of code in a peer's memory (R131). Its requests carry its number as their instruction. -/
structure PreRead where
  id    : Nat
  blk   : Nat
  grp   : Nat
  lanes : Mask                   -- the guard-true lanes, or for code those that wait for it
  pc    : W32                    -- the instruction, or the word of code
  code  : Bool
  addr  : Nat
  size  : Nat
  got   : List (Nat × List Byte) -- what has returned, by address
  fail  : Option (Cause × Nat × Nat)  -- why it has failed: the cause, the failing address and FKIND.REASON
  hf    : Option Nat             -- of an HFSET, the register that it sets: such a read goes on when its lanes are cancelled (R265)
  deriving DecidableEq, Repr

/-- A line of code fetched from a peer's memory, which a core may go on using (R57: each later fetch may give the old
value; R131). -/
structure CodeLine where
  core  : Nat
  ctx   : Nat
  line  : Nat                    -- virtual line number
  bytes : List Byte
  deriving DecidableEq, Repr

/-- A fault report to system software (R146, R358). -/
structure Report where
  id    : Nat
  ctx   : Nat
  core  : Nat
  page  : Nat
  cmd   : Option Nat             -- the engine command, when an engine's line is parked
  deriving DecidableEq, Repr

/-- A cached translation of one core (R135): the context, the 64 KiB block and what the walk gave. -/
structure TlbEntry where
  core : Nat
  ctx  : Nat
  page : Nat
  xl   : Xlat
  deriving DecidableEq, Repr

/-- A version record (R210). -/
structure VRec where
  line : Nat
  ver  : Nat
  data : Vector Byte 128
  mask : BitVec 128
  deriving DecidableEq, Repr

/-- A live versioned region (R206). -/
structure Region where
  launch  : Nat
  ctx     : Nat
  num     : Nat
  base    : Nat
  size    : Nat
  depth   : Nat
  pool    : Nat
  free    : Nat
  pub     : Nat                  -- P
  floor   : Nat                  -- F
  copies  : Vector (Nat × Nat) 48  -- the copies of P and F at the 48 slices
  engines : List (Nat × Nat)     -- engines[v], only versions with a nonzero count
  recs    : List VRec
  signal  : Bool                 -- reclamation has freed records since held lines were last retried (R212)
  opened  : Bool                 -- made by VNOPEN
  deriving DecidableEq, Repr

/-- A hash-family image: its eight dwords (R246). -/
abbrev FamImg := Vector W64 8

/-- What a lane set has asked of a region home (R213, R214, R237, R256): a publication, a new floor, the registration of a
PUSH with its command or of an HINS or HDEL with its families, or the registration and the work of an HMERGE or HREHASH with
its rows; or of an engine queue, which holds a PUSH with its command until it can be accepted (R229). -/
inductive HomeOp where
  | publish
  | floor
  | push (w : Vector W64 8)
  | queued (w : Vector W64 8)
  | side (fam : Vector FamImg 2)
  | merge (f : FamImg)
  | rehash (old new : FamImg) (rows : List (List Nat))
  deriving DecidableEq, Repr

/-- What an HMERGE or HREHASH has come to (R259, R260): d, its cause with the failing address, and what it adds to the counts
of evictions and refusals; or the cause that its lane set raises before it issues, with no effect (R260, R266). -/
structure Merged where
  precise : Option Cause
  d       : Nat
  cause   : Option (Cause × Nat)
  evicted : Nat
  refused : Nat
  deriving DecidableEq, Repr

/-- A request of a lane set to a region home (R213, R214, R224, R237). -/
structure HomeReq where
  id      : Nat
  blk     : Nat
  grp     : Nat
  lanes   : Mask                 -- the lane set
  takers  : Mask                 -- its guard-true lanes
  pc      : W32
  hdr     : W32                  -- the header of its clause, and its count of words
  cnt     : Nat
  region  : Nat                  -- number in the launch
  launch  : Nat
  ver     : Nat
  op      : HomeOp
  dst     : Option Nat           -- the scalar register that a merge or rehash writes
  hf      : Nat                  -- and the family register whose counters it raises
  waits   : List Nat             -- VNPUB: the VNSTs that its core had accepted when the lane set reached it
  done    : Bool                 -- the publication point has passed, F has been set, or the registration stands
  ans     : Option Merged        -- a merge or rehash that has been carried out
  deriving DecidableEq, Repr

/-- Bytes of an engine command that are held for want of a version record (R237): of a REDCOPY they are its source elements,
which are applied when the line lands, in one step at its home (R235). -/
structure HeldLine where
  va    : Nat
  ver   : Nat
  pa    : Nat
  key   : Nat
  bytes : List Byte
  deriving DecidableEq, Repr

/-- What an engine command may send to a peer that its bytes are bound for (R347). -/
structure PeerPart where
  dev   : Nat
  win   : Nat                    -- bytes that may still go within the device's unsolicited window
  base  : Nat                    -- the device's cumulative demand before it asked
  under : Nat                    -- bytes sent under grants
  deriving DecidableEq, Repr

/-- An accepted engine command (R227 to R241). -/
structure Cmd where
  id      : Nat
  queue   : Nat                  -- 0 CE, 1 to 4 XE0 to XE3, 5 HX
  core    : Nat
  blk     : Nat
  grp     : Nat
  launch  : Nat
  ctx     : Nat
  threads : Mask
  fpc     : W32
  dws     : Vector W64 8
  started : Bool
  todo    : List (Nat × Nat × Nat)   -- row, first byte, length: destination bytes not yet performed
  flight  : List (Nat × Nat × Nat × Nat × List Byte)  -- sent to a peer and not answered: transaction tag, row, first byte, length; and a read reply held
  regs    : List (Nat × Nat)     -- registrations: region number and version (R237)
  parked  : Option (Nat × Nat × Nat)  -- a parked line: its address, access and reason
  heldAt  : List HeldLine        -- lines held for want of a record (R237)
  hf      : Vector (Vector W64 8) 2    -- HX: the family and its partner, copied at acceptance
  next    : Nat                  -- HX: the next id
  buf     : List (Nat × List Byte)  -- HX: what peers have answered of its ids and codes, by address
  stalled : Bool                 -- HX: no record was free, and it waits for a reclamation (R237)
  far     : List PeerPart        -- the peers that its bytes are bound for (R347)
  epoch   : BitVec 23            -- of the group slot when it was pushed, which tells a task group from its successors (R239)
  wordWait : Bool                -- the WORD store has been sent to a peer
  fail    : Option (Cause × Nat × W64)  -- why it is to stop: the cause, the failing address and FKIND (R239)
  kept    : Option (Memory × Memory)    -- the scratchpad and A share of its block, when that has been killed (R240)
  deriving DecidableEq, Repr

/-- A retrieval instruction that has issued and is not complete. -/
inductive RetKind where
  | probe (pack : Bool) | hins | hdel
  deriving DecidableEq, Repr

/-- An HPROBE that waits for its version or runs, or a registered HINS or HDEL (R253 to R257). -/
structure Probe where
  id     : Nat                   -- the instruction's number
  blk    : Nat
  grp    : Nat
  lanes  : Mask
  kind   : RetKind
  d      : Nat
  hf     : Nat
  par    : W64                   -- the parameter or version register
  rows   : List (Nat × Nat × List W32)  -- lane, row id of an update, code words
  fam    : Vector (Vector W64 8) 2      -- the family and its partner as they were at issue
  ready  : Bool                  -- its version is published
  ran    : Bool                  -- it has run, and its slots are being written
  stats  : List Nat              -- what it adds to the statistics counters when it completes (R261)
  deriving DecidableEq, Repr

/-- A format slot of a launch record (03 R53). -/
structure FmtSlot where
  elem   : Nat
  tile   : Nat
  layout : Nat
  rnd    : Nat
  sat    : Bool
  scales : Nat
  deriving DecidableEq, Repr

/-- A tensor handle: its eight dwords (R184). -/
abbrev Handle := Vector W64 8

/-- An operation in a core's matrix queue (R183). -/
inductive MtxKind where
  | mma (shadow : Bool) | acommit | adiscard | accld | accz | tld | tst
  deriving DecidableEq, Repr

/-- A matrix operation accepted and not retired (R183): everything it took with it at acceptance, and what it still has
to write when it retires (R192 to R200). -/
structure MtxOp where
  id      : Nat
  core    : Nat
  blk     : Nat
  kind    : MtxKind
  insns   : List (Nat × Nat)         -- group and instruction number
  lanes   : List (Nat × Mask)        -- group and the lanes that take its causes
  fpc     : W32
  flags   : Nat                      -- the flags of its T form
  slotA   : FmtSlot                  -- the A slot of an MMA
  slotB   : FmtSlot                  -- the B slot of an MMA, or the slot of the handle
  sh      : List Nat                 -- the shape fields after substitution
  first   : Nat                      -- TLD and TST: the first row
  d       : Nat                      -- ACCLD: the first destination register
  handle  : Option Nat
  h       : Handle                   -- the handle as it was at acceptance
  rows    : List (Nat × List W32)    -- MMA: C row and the registers of its A row; ACCLD: the lanes
  clear   : Mask                     -- ACCLD: the lanes whose words it sets to 0
  latches : List (Nat × Option Reuse) -- MMA: the reuse latch that it leaves in each group
  started : Bool                     -- its effect on W and C has been applied
  asked   : List Nat                 -- TLD: source sectors it has sent for
  got     : List (Nat × List Byte)   -- TLD: source sectors that have returned
  newTh   : Option W64               -- TST: dword 2 of the handle when it retires
  aBytes  : List (Nat × List Byte)   -- TLD with DEST: runs of bytes to land in the A share
  writes  : List (Nat × List Byte)   -- TST: global writes
  raises  : List Cause               -- causes taken after acceptance
  deriving DecidableEq, Repr

/-- One incumbent register, the master or a core's copy (R279). -/
structure Incumbent where
  value : W64
  cfg   : Byte
  seq   : W64
  deriving DecidableEq, Repr

/-- An offer on its way to the Praline root (R281), or a mirrored value (R344). -/
structure Offer where
  id     : Nat
  ic     : Nat
  value  : W64
  core   : Nat
  mirror : Bool
  since  : Nat                   -- when its ICUPD issued, or its mirrored value arrived (R283)
  deriving DecidableEq, Repr

/-- What one core holds of its own (R8, R79, R297, R365). -/
structure CoreSt where
  ecount  : W64
  outSvc  : Bool
  worn    : Bool
  slot    : Vector Nat 4         -- the active slot each quadrant served last
  ic      : Vector Incumbent 16  -- the core's copies
  pending : List (Nat × Incumbent × Nat)  -- broadcasts on the way to the copies, and when each ICUPD issued (R283)
  phys    : Nat                  -- the physical core of its die that it is mapped to, 0 to 39 (R8)
  deriving DecidableEq, Repr

/-- A key slot of one direction of a port (R340). -/
structure KeySlot where
  key   : BitVec 256
  salt  : W32
  ctr   : W64
  valid : Bool
  deriving DecidableEq, Repr

/-- A beat on a link (R327): 64 bytes of content and the trailer. -/
structure Beat where
  content : List Byte
  trailer : W32
  deriving DecidableEq, Repr

/-- A fabric port (R325 to R343). -/
structure Port where
  state    : Nat                 -- R333
  peer     : Option (Nat × Nat)  -- device and port
  failed   : BitVec 18           -- lanes failed
  spare    : List Nat            -- failed lanes replaced by lanes 16 and 17 at a maintenance point
  txseq    : W32
  unacked  : W32
  rxseq    : W32
  replayB  : List Packet         -- unacknowledged packets, oldest first
  owed     : List Packet         -- of these, what a replay has still to send again, which goes before anything new (R330)
  owedNew  : Bool                -- that replay has not begun to send (R349)
  unackRx  : Nat                 -- packets accepted since the last ACK
  sinceAck : Nat                 -- when the last ACK arrived or the oldest packet was sent
  rxAt     : Nat                 -- when the first packet not yet acknowledged was accepted
  nakAt    : Option Nat          -- when the last NAK was sent
  stopIn   : Bool                -- STOP seen from the far end
  inbox    : List Packet         -- accepted packets in the receive buffer, oldest first
  stopOut  : Bool                -- STOP sent
  beats    : List Byte           -- content of the packet being received
  frame    : Nat                 -- 0 in frame, 1 the packet being received is broken, 2 out of frame (log 22)
  send     : Vector KeySlot 2
  recv     : Vector KeySlot 2
  slot     : Nat                 -- sending slot
  recvNew  : Option Nat          -- the receiving slot of a new key under which no packet has been accepted yet (R341)
  keysOk   : Bool                -- key slots confirmed in training
  since    : Nat                 -- when the state was entered
  retrain  : Bool                -- TRAINING after service
  replays  : W32                 -- counters of the link record (R343)
  replayed : W32
  retrains : W32
  crcErrs  : W32
  authErrs : W32
  dups     : W32
  authAt   : List Nat            -- times of recent authentication failures
  origUn   : Nat                 -- ORIG packets accepted and not acknowledged
  origAt   : Nat                 -- when the last OACK progressed
  origRxAt : Nat                 -- when the first ORIG packet not yet acknowledged was accepted
  origVia  : Nat                 -- the port on which ORIG packets of its space arrive
  detour   : Bool                -- its traffic takes an alternative route until a maintenance point
  relay    : Option Nat          -- the relay device while DOWN
  txq      : List Packet         -- packets waiting to be sent
  wire     : List Beat           -- what it has sent, oldest first; of equal idle beats in a row it keeps one
  deriving DecidableEq, Repr

/-- Pacing toward and from one peer device (R332, R347, R348). -/
structure Pace where
  unsol     : Nat                -- unsolicited bytes in flight
  demand    : Nat                -- cumulative, sent
  grantIn   : Nat                -- cumulative, received
  covered   : Nat                -- bytes sent under grants
  came      : Nat                -- cumulative bytes of that source that came under grants and have left the ingress buffer
  demandIn  : Nat                -- cumulative, received
  grantOut  : Nat                -- cumulative, sent
  performed : Nat                -- cumulative bytes of that source performed here
  queue     : List (Packet × Nat)  -- WRITE and ATOM packets that wait for a grant, in the order asked, each with the demand
                                 -- that covers it
  deriving DecidableEq, Repr

/-- A fabric window (R336). -/
structure Window where
  on    : Bool
  src   : Nat
  w     : Bool
  key   : Nat
  base  : Nat
  limit : Nat
  deriving DecidableEq, Repr

/-- What awaits a reply from a peer (R328, R329). -/
inductive Waiter where
  | entry (id : Nat)             -- a Sifter entry
  | cmdRead (id row lo len : Nat)
  | cmdWrite (id row lo len : Nat)
  | copy (id len : Nat)          -- a host COPY (R354)
  | line (job dev line : Nat)    -- a line of a peer's memory that the validation of a LAUNCH needs (R57, R131)
  deriving DecidableEq, Repr

/-- A transaction with a peer that awaits its reply. -/
structure Txn where
  tag   : Nat
  dev   : Nat
  bytes : Nat                    -- payload that the pacing window holds
  addr  : Nat                    -- the first byte asked for, in the peer's memory
  room  : Nat                    -- bytes of the ingress buffer reserved for the reply to a READ
  unsol : Bool                   -- it was sent within the window
  waiter : Waiter
  deriving DecidableEq, Repr

/-- The fabric's state (R325 to R350). -/
structure Fabric where
  device  : Nat                  -- the fabric number (R298)
  wiring  : Nat                  -- 0 alone, 8 or 16 devices (R325)
  ports   : Vector Port 16
  pace    : Vector Pace 16
  windows : Vector Window 64
  lost    : List Nat             -- peers declared lost (R339)
  lostAt  : List (Nat × Nat)     -- and when each was
  noRoute : List (Nat × Nat)     -- peers without a route, and since when
  txns    : List Txn
  rr      : Nat                  -- the source granted last (R332)
  deriving DecidableEq, Repr

/-- A context (R354, R362). -/
structure Context where
  id       : Nat
  fn       : Nat
  root     : Nat
  vstore   : Nat
  vrecs    : Nat                 -- version records of the store
  image    : Nat
  imageLen : Nat
  budget   : Nat
  nextBud  : Option Nat          -- from the next window (ENERGY_SET)
  used     : Nat
  key      : Nat                 -- table KEYID
  deriving DecidableEq, Repr

/-- A stage entry and a launch record as the firmware keeps them (03 R53). -/
structure Stage where
  entry  : W32
  energy : Nat
  deriving DecidableEq, Repr

structure LRec where
  idem     : Bool
  grouped  : Bool
  tasks    : Bool
  codeBase : Nat
  codeSize : Nat
  stages   : Nat
  groups   : Nat
  cluster  : Nat
  prio     : Nat
  gridX    : Nat
  gridY    : Nat
  gridZ    : Nat
  vregs    : Nat
  sregs    : Nat
  retries  : Nat
  gangMax  : Nat
  scratch  : Nat
  mirror   : Nat
  parSize  : Nat
  parBase  : Nat
  stage    : List Stage
  slots    : Vector FmtSlot 8
  tiles    : List (Nat × Nat)    -- GROUPED: group and tile of each x
  tqBase   : Nat
  tqRecs   : Nat
  icbind   : Vector Byte 16
  images   : List (Vector W64 8) -- hash-family images
  regions  : List (Nat × Nat × Nat × Nat)  -- base, size, depth, pool of each table entry
  deriving DecidableEq, Repr

/-- A completion or event entry (R353): cid, status, detail, E0 to E5. -/
structure CEntry where
  cid    : W32
  status : Nat
  detail : Nat
  e      : List W64
  deriving DecidableEq, Repr

/-- A launch that is not complete (R57, R80, R323). -/
structure Launch where
  id      : Nat
  fn      : Nat
  cid     : W32
  ctx     : Nat
  lr      : LRec
  next    : Nat                  -- linear index of the next block to take in
  left    : Nat                  -- blocks not yet complete
  used    : Nat                  -- retries used
  queued  : Bool
  killed  : Option Nat           -- the code of a kill after which it is not relaunched
  engErr  : Option Nat           -- an error of R239 whose group had exited
  preempts : List (Nat × W32 × Nat)   -- PREEMPT commands for blocks not yet admitted
  stopping : Option (CEntry × Nat)    -- the report and the code of a kill whose engine commands still run (R323)
  deriving DecidableEq, Repr

/-- An item of a priority queue (R80, R82): a launch, or a saved block to restore. -/
inductive QItem where
  | launch (id : Nat)
  | block (id : Nat)
  deriving DecidableEq, Repr

/-- A host function: its BAR0 registers and the firmware's view of its rings (R352, R353, R355, R361). -/
structure Fn where
  sqbase : W64
  sqcfg  : W64
  cqbase : W64
  cqcfg  : W64
  cqhead : W64
  irq    : W64
  sqtail : W64                   -- WO: the last tail written
  tdisp  : Nat                   -- R355
  failed : Bool
  sqhead : Nat                   -- submission index the firmware will read next
  cqtail : Nat                   -- completion index it will write next
  phase  : Bool
  events : List CEntry           -- waiting for room
  irqs   : Nat                   -- interrupts raised
  deriving DecidableEq, Repr

/-- An allocated memory key (R357): its function, and a serial number that stands for the key itself (log 9). -/
structure Key where
  id     : Nat
  fn     : Nat
  serial : Nat
  deriving DecidableEq, Repr

/-- Local device memory: its bytes as last written, the key serial under which each 16-byte block was last written
(unlisted blocks: serial 0, the device key) and the poisoned 32 B sectors (R313, R357). -/
structure Store where
  cells  : Memory
  keys   : List (Nat × Nat)
  poison : List Nat
  deriving DecidableEq, Repr

/-- A command that has started and goes on over several steps (R354): a COPY with the bytes already performed and whether
it waits for a peer's reply, a TLB_INVAL behind a COPY, or a MAINT. -/
structure HostJob where
  id   : Nat
  cmd  : HostCmd
  done : Nat
  wait : Bool
  raw  : Option (List Byte)      -- LAUNCH: the firmware's copy of the record (R57)
  deriving DecidableEq, Repr

/-- The ROM firmware's state (R351 to R367). -/
structure Firmware where
  contexts : List Context
  keys     : List Key
  launches : List Launch
  queues   : Vector (List QItem) 4
  heads    : Vector (Option (QItem × Nat)) 4   -- each queue's head, and when it came to stand there
  aged     : List QItem          -- heads that have taken priority 0 (R80)
  fns      : Vector Fn 65
  rr       : Nat                 -- the function served last
  jobs     : List HostJob        -- commands that have started and are not complete, oldest first
  created  : Bool                -- a context has been created since power-up (R367)
  window   : Nat                 -- when the energy window began
  thermal  : Option (List Nat × Nat)  -- dies that have reached 105 °C, and since when every die has been below 95 °C
  memspare : List Nat            -- memory links running on their spare lane
  l2ways   : Nat
  flash    : Nat
  spares   : Vector (List Nat) 4 -- the physical cores of each die that are held as spares (R8)
  warn     : BitVec 4            -- COREWARN
  lanewarn : BitVec 16           -- LANEWARN
  quiesce  : Bool                -- a checkpoint runs
  ckptBy   : Option (Nat × W32)  -- the CHECKPOINT command to answer
  powered  : Bool                -- false after the power-fail input
  answers  : List (List Byte)    -- DOE answers
  lines    : List (Nat × Nat × Option (List Byte))  -- lines of peers' memory read for the launch being validated: the device, the
                                 -- line's number, and its bytes, none where the read failed
  ide      : Vector (Option (BitVec 256)) 65        -- the keys of the IDE streams: 0 the link stream, f that of VF f (R351)
  spareMap : Nat                 -- SPARESTAT at the last maintenance point or power-up (R356)
  deriving DecidableEq, Repr

/-- A checkpoint in the safe tier (R367): memory, and the sealed state. -/
structure Ckpt where
  mem      : Store
  contexts : List Context
  keys     : List Key
  launches : List Launch
  queues   : Vector (List QItem) 4
  blocks   : List Block
  regions  : List Region
  ics      : Vector Incumbent 16
  reports  : List Report
  faults   : List FaultEntry
  reqs     : List Req
  entries  : List Entry
  probes   : List Probe
  home     : List HomeReq
  cmds     : List Cmd
  deriving DecidableEq, Repr

/-- The whole machine. -/
structure State where
  cur     : List Issue           -- lane sets chosen in the current issue cycle, in order of choice (log 2)
  agenda  : List Instr           -- events that other agents have scheduled (log 2)
  free    : Nat                  -- numbers the free values (log 5)
  nextId  : Nat                  -- numbers requests, instructions, commands and reports
  cc      : Nat                  -- the device-wide cycle count (CLOCK, R94)
  time    : Nat                  -- the time that has passed, in cycles of the full clock: 1,700 in 1 µs (R363)
  served  : List (Nat × Nat)     -- core and quadrant that have had their issue slot in this cc
  blocks  : List Block
  mem     : Store
  host    : Memory               -- host memory (R131)
  reqs    : List Req             -- in order of issue
  entries : List Entry           -- in the order they opened
  faults  : List FaultEntry
  reports : List Report
  tlb     : List TlbEntry
  regions : List Region
  home    : List HomeReq
  cmds    : List Cmd             -- in the order of acceptance
  probes  : List Probe
  pres    : List PreRead
  codebuf : List CodeLine
  mtxq    : List MtxOp           -- in the order of acceptance
  ics     : Vector Incumbent 16  -- the masters at the Praline root
  offers  : List Offer
  cores   : Vector CoreSt 144
  fab     : Fabric
  fw      : Firmware
  ckpt    : Option Ckpt          -- the safe tier
  deriving DecidableEq, Repr

/-- No fault stops this machine: every cause is a trap or a kill, which are next states (notes/assumptions/3.md). -/
inductive Fault where
  /-- Raised by no meaning of this model; kept because the interface asks for a closed type of faults. Safe. -/
  | unused
  deriving DecidableEq, Repr

/-- Why a meaning is missing. -/
inductive Refusal where
  /-- Raised by Dispatch.lean for an instruction that has no meaning yet. Safe. -/
  | notModelled (mnemonic : String)
  deriving DecidableEq, Repr

/-- A thread before anything has set it: the values of R317. -/
def Lane.zero : Lane where
  pc := 0
  mt := noneWord
  smt := noneWord
  hdr := none
  v := Vector.replicate 128 0
  st := .run
  helper := false
  inTrap := false
  yielded := false
  skip := 0
  shield := 0
  tag := 0
  bnd := 0
  bndIc := 0
  ben := false
  wins := []
  dom := 0

/-- A group as R317 leaves it at admission, before its threads' entries and tags. -/
def Group.zero : Group where
  lanes := Vector.replicate 32 Lane.zero
  p := Vector.replicate 8 0
  s := Vector.replicate 64 0
  gang := 0
  lc := 0
  sc := 0
  mc := 0
  ec := 0
  cause := 0
  tvec := 0x0000_0000_FFFF_FFFF
  tepc := 0
  tmask := 0
  tstat := 0
  tscratch := 0
  fstat := 0
  newFlags := 0
  faddr := 0
  fkind := 0
  fpc := 0
  reuse := none
  insns := []
  after := []
  trapChk := false
  poolPark := false
  quad := 0
  active := none
  mayIssue := 0
  readyAt := 0
  idleAt := 0
  idleOut := false
  task := false
  forming := false
  epoch := 0

/-- An empty spawn queue. -/
def TaskQ.zero : TaskQ where
  share := []
  ring := []
  tail := 0
  spawned := 0
  groups := 0
  tasks := 0
  pruned := 0
  orphaned := 0
  cancelled := 0
  discarded := 0
  refill := false
  due := []
  doomed := []
  pledged := []
  formed := none

/-- A block as R317 leaves it at admission, before its place is filled in. -/
def Block.zero : Block where
  id := 0
  launch := 0
  lin := 0
  x := 0
  y := 0
  z := 0
  stage := 0
  core := 0
  core0 := 0
  st := .resident
  since := 0
  residence := 0
  idleAt := 0
  imageAt := 0
  groups := []
  scratch := []
  mirror := []
  w := []
  a := []
  c := []
  shadows := []
  th := Vector.replicate 16 (Vector.replicate 8 0)
  hf := Vector.replicate 8 (Vector.replicate 8 0)
  hfc := Vector.replicate 8 (Vector.replicate 9 0)
  btvec := 0x0000_0000_FFFF_FFFF
  q := TaskQ.zero
  credit := 0
  savers := []

/-- An incumbent register after power-up: unbound; VALUE has no reset value in the spec (DESIGN CHOICE 0, log 4). -/
def Incumbent.zero : Incumbent where
  value := 0
  cfg := 0
  seq := 0

/-- A core after power-up. -/
def CoreSt.zero : CoreSt where
  ecount := 0
  outSvc := false
  worn := false
  slot := Vector.replicate 4 7
  ic := Vector.replicate 16 Incumbent.zero
  pending := []
  phys := 0

/-- Logical core n after power-up: it is mapped to the physical core of its own index (DESIGN CHOICE, log 4; R8). -/
def CoreSt.first (n : Nat) : CoreSt := { CoreSt.zero with phys := n % 36 }

/-- A key slot that no key has been installed in. -/
def KeySlot.zero : KeySlot where
  key := 0
  salt := 0
  ctr := 0
  valid := false

/-- A port after power-up: OFF (R333), its sequence spaces and counters 0. -/
def Port.zero : Port where
  state := 0
  peer := none
  failed := 0
  spare := []
  txseq := 0
  unacked := 0
  rxseq := 0
  replayB := []
  owed := []
  owedNew := false
  unackRx := 0
  sinceAck := 0
  rxAt := 0
  nakAt := none
  stopIn := false
  inbox := []
  stopOut := false
  beats := []
  frame := 0
  send := Vector.replicate 2 KeySlot.zero
  recv := Vector.replicate 2 KeySlot.zero
  slot := 0
  recvNew := none
  keysOk := false
  since := 0
  retrain := false
  replays := 0
  replayed := 0
  retrains := 0
  crcErrs := 0
  authErrs := 0
  dups := 0
  authAt := []
  origUn := 0
  origAt := 0
  origRxAt := 0
  origVia := 0
  detour := false
  relay := none
  txq := []
  wire := []

/-- Pacing counts after power-up (R332). -/
def Pace.zero : Pace where
  unsol := 0
  demand := 0
  grantIn := 0
  covered := 0
  demandIn := 0
  grantOut := 0
  performed := 0
  came := 0
  queue := []

/-- A fabric window that no command has set: disabled (DESIGN CHOICE, log 4). -/
def Window.zero : Window where
  on := false
  src := 0
  w := false
  key := 0
  base := 0
  limit := 0

/-- A function after power-up: registers 0 (R352), CONFIG_UNLOCKED. -/
def Fn.zero : Fn where
  sqbase := 0
  sqcfg := 0
  cqbase := 0
  cqcfg := 0
  cqhead := 0
  irq := 0
  sqtail := 0
  tdisp := 0
  failed := false
  sqhead := 0
  cqtail := 0
  phase := true
  events := []
  irqs := 0

/-- The firmware's state after power-up: no context exists (R354); PF0 is in RUN (R355); 4 spare cores a die (R365). -/
def Firmware.zero : Firmware where
  contexts := []
  keys := []
  launches := []
  queues := Vector.replicate 4 []
  heads := Vector.replicate 4 none
  aged := []
  fns := (Vector.replicate 65 Fn.zero).set 0 { Fn.zero with tdisp := 2 }
  rr := 0
  jobs := []
  created := false
  window := 0
  thermal := none
  memspare := []
  l2ways := 0
  flash := 0
  spares := Vector.replicate 4 [36, 37, 38, 39]
  warn := 0
  lanewarn := 0
  quiesce := false
  ckptBy := none
  powered := true
  answers := []
  lines := []
  ide := Vector.replicate 65 none
  spareMap := 0x924

/-- The fabric after power-up and before the firmware has read the wiring (R325; DEVICE is DESIGN CHOICE 0, log 4). -/
def Fabric.zero : Fabric where
  device := 0
  wiring := 0
  ports := Vector.replicate 16 Port.zero
  pace := Vector.replicate 16 Pace.zero
  windows := Vector.replicate 64 Window.zero
  lost := []
  lostAt := []
  noRoute := []
  txns := []
  rr := 0

/-- The machine right after power-up: no context, no launch, no block, no memory listed. -/
def State.reset : State where
  cur := []
  agenda := []
  free := 0
  nextId := 0
  cc := 0
  time := 0
  served := []
  blocks := []
  mem := ⟨[], [], []⟩
  host := []
  reqs := []
  entries := []
  faults := []
  reports := []
  tlb := []
  regions := []
  home := []
  cmds := []
  probes := []
  pres := []
  codebuf := []
  mtxq := []
  ics := Vector.replicate 16 Incumbent.zero
  offers := []
  cores := ⟨⟨(List.range 144).map CoreSt.first⟩, by simp⟩
  fab := Fabric.zero
  fw := Firmware.zero
  ckpt := none

end Sys2Proof.Machine
end

