-- ==== Sys2Proof/Machine/Ops.lean ====
section
/-!
DEFINITION. The named operations over the state that every meaning is written in: byte order, the memories, finding and
replacing blocks and groups, the completion rings of the host functions, killing a launch, taking a trap and returning
from one, and the common course of an instruction that issues.
-/

namespace Sys2Proof.Machine

/-! ### Words, tables and masks -/

/-- A vector of n entries given entry by entry. -/
def tab {α : Type} (n : Nat) (f : Nat → α) : Vector α n := ⟨⟨(List.range n).map f⟩, by simp⟩

/-- The n low bytes of a number, little-endian (R1). -/
def leBytes (n x : Nat) : List Byte := (List.range n).map fun i => BitVec.ofNat 8 (x >>> (8 * i))

/-- The number that a list of bytes holds, little-endian (R1). -/
def ofLe : List Byte → Nat
  | [] => 0
  | b :: bs => b.toNat + 256 * ofLe bs

/-- Bits hi:lo of a number. -/
def bitsOf (x hi lo : Nat) : Nat := (x >>> lo) % 2 ^ (hi + 1 - lo)

/-- Bit i of a number. -/
def bitOf (x i : Nat) : Bool := x.testBit i

/-- The mask of the lanes for which f holds. -/
def maskOf (f : Nat → Bool) : Mask :=
  (List.range 32).foldr (fun l m => if f l then m ||| BitVec.ofNat 32 (2 ^ l) else m) 0#32

/-- The lanes of a mask, in ascending order. -/
def lanesOf (m : Mask) : List Nat := (List.range 32).filter fun l => m.getLsbD l

/-- Whether a lane is in a mask. -/
def inMask (m : Mask) (l : Nat) : Bool := m.getLsbD l

/-- The number of elements of a list, at most one per distinct value. -/
def distinct : List Nat → List Nat
  | [] => []
  | x :: xs => x :: (distinct xs).filter (· != x)

/-- The least element of a list under a key, the first on a tie. -/
def leastBy {α : Type} (key : α → Nat) : List α → Option α
  | [] => none
  | x :: xs =>
    match leastBy key xs with
    | none => some x
    | some y => if key y < key x then some y else some x

/-- Insert x before the first element with a greater key. -/
def insertBy {α : Type} (key : α → Nat) (x : α) : List α → List α
  | [] => [x]
  | y :: ys => if key x < key y then x :: y :: ys else y :: insertBy key x ys

/-- A list in ascending order of a key; equal keys keep their order. -/
def sortBy {α : Type} (key : α → Nat) : List α → List α
  | [] => []
  | x :: xs => (sortBy key xs) |> fun ys => insertFirst x ys
where
  /-- Insert x before the first element whose key is not less. -/
  insertFirst (x : α) : List α → List α
    | [] => [x]
    | y :: ys => if key x ≤ key y then x :: y :: ys else y :: insertFirst x ys

/-! ### Memories -/

/-- The byte at an address. -/
def Memory.get : Memory → Nat → Byte
  | [], _ => unlisted
  | c :: m, a => if c.1 = a then c.2 else if a < c.1 then unlisted else Memory.get m a

/-- Write one byte, keeping the canonical form. -/
def Memory.put : Memory → Nat → Byte → Memory
  | [], a, v => if v = unlisted then [] else [(a, v)]
  | c :: m, a, v =>
    if a < c.1 then (if v = unlisted then c :: m else (a, v) :: c :: m)
    else if a = c.1 then (if v = unlisted then m else (a, v) :: m)
    else c :: Memory.put m a v

/-- n bytes from an address upward. -/
def Memory.read (m : Memory) (a n : Nat) : List Byte := (List.range n).map fun i => m.get (a + i)

/-- The memory that holds a list of bytes from address 0 upward. -/
def Memory.ofBytes (bs : List Byte) : Memory :=
  (bs.zipIdx.filter fun p => decide (p.1 ≠ unlisted)).map fun p => (p.2, p.1)

/-- Write bytes from an address upward. -/
def Memory.write : Memory → Nat → List Byte → Memory
  | m, _, [] => m
  | m, a, b :: bs => Memory.write (m.put a b) (a + 1) bs

/-- An association list of numbers in rising order with no entry of value 0: what is stored under a key. -/
def assocGet : List (Nat × Nat) → Nat → Nat
  | [], _ => 0
  | c :: m, a => if c.1 = a then c.2 else if a < c.1 then 0 else assocGet m a

/-- Store a number under a key; 0 removes the entry. -/
def assocPut : List (Nat × Nat) → Nat → Nat → List (Nat × Nat)
  | [], a, v => if v = 0 then [] else [(a, v)]
  | c :: m, a, v =>
    if a < c.1 then (if v = 0 then c :: m else (a, v) :: c :: m)
    else if a = c.1 then (if v = 0 then m else (a, v) :: m)
    else c :: assocPut m a v

/-- The canonical form of such a list. -/
def assocWf : List (Nat × Nat) → Bool
  | [] => true
  | [c] => c.2 != 0
  | c :: d :: m => c.2 != 0 && decide (c.1 < d.1) && assocWf (d :: m)

/-- The canonical form of device memory: its bytes and its keys are listed in rising order and no entry is idle. -/
def Store.wf (m : Store) : Bool := Memory.wf m.cells && assocWf m.keys

/-- What the 16 bytes of a block read as under a key: themselves under the key they were last written with, else
unrelated bytes (R357, log 9). -/
def Store.block (m : Store) (key blk : Nat) : List Byte :=
  if assocGet m.keys blk = key then m.cells.read (16 * blk) 16
  else leBytes 16 (Config.garble (assocGet m.keys blk) key blk (BitVec.ofNat 128 (ofLe (m.cells.read (16 * blk) 16)))).toNat

/-- One byte of local device memory under a key. -/
def Store.get (m : Store) (key pa : Nat) : Byte :=
  if assocGet m.keys (pa / 16) = key then m.cells.get pa else (m.block key (pa / 16)).getD (pa % 16) 0

/-- n bytes of local device memory under a key. -/
def Store.read (m : Store) (key pa n : Nat) : List Byte := (List.range n).map fun i => m.get key (pa + i)

/-- Write one byte under a key: the rest of its 16-byte block is read and written again under that key. -/
def Store.put (m : Store) (key pa : Nat) (v : Byte) : Store :=
  if assocGet m.keys (pa / 16) = key then { m with cells := m.cells.put pa v }
  else
    { m with
      cells := (m.cells.write (16 * (pa / 16)) (m.block key (pa / 16))).put pa v
      keys := assocPut m.keys (pa / 16) key }

/-- Write bytes under a key. -/
def Store.write : Store → Nat → Nat → List Byte → Store
  | m, _, _, [] => m
  | m, key, pa, b :: bs => Store.write (m.put key pa b) key (pa + 1) bs

/-- The address of a poisoned 32 B sector that a range meets. -/
def Store.poisonAt (m : Store) (pa n : Nat) : Option Nat :=
  (m.poison.find? fun q => decide (pa / 32 ≤ q ∧ q ≤ (pa + n - 1) / 32)).map (32 * ·)

/-- Whether any byte of a range lies in a poisoned 32 B sector (R313). -/
def Store.poisoned (m : Store) (pa n : Nat) : Bool := m.poison.any fun q => decide (pa / 32 ≤ q ∧ q ≤ (pa + n - 1) / 32)

/-- The poison left after a store: one that writes a whole sector clears it (R313). -/
def Store.unpoison (m : Store) (pa n : Nat) : Store :=
  { m with poison := m.poison.filter fun q => !decide (pa ≤ 32 * q ∧ 32 * q + 32 ≤ pa + n) }

/-! ### Blocks, groups, launches and contexts -/

def State.block? (s : State) (id : Nat) : Option Block := s.blocks.find? fun b => b.id == id

/-- Replace the block of the same number. -/
def State.setBlock (s : State) (b : Block) : State :=
  { s with blocks := s.blocks.map fun x => if x.id = b.id then b else x }

/-- Replace a block by a function of it. -/
def State.modBlock (s : State) (id : Nat) (f : Block → Block) : State :=
  { s with blocks := s.blocks.map fun x => if x.id = id then f x else x }

def Block.group (b : Block) (i : Nat) : Group := b.groups.getD i Group.zero

/-- Replace one group of a block. -/
def Block.setGroup (b : Block) (i : Nat) (g : Group) : Block := { b with groups := b.groups.set i g }

/-- Replace a group by a function of it. -/
def State.modGroup (s : State) (id i : Nat) (f : Group → Group) : State :=
  s.modBlock id fun b => { b with groups := b.groups.modify i f }

def State.group? (s : State) (id i : Nat) : Option Group := (s.block? id).bind fun b => b.groups[i]?

def Group.lane (g : Group) (l : Nat) : Lane := g.lanes[l]?.getD Lane.zero

/-- Change the lanes of a mask. -/
def Group.modLanes (g : Group) (m : Mask) (f : Nat → Lane → Lane) : Group :=
  { g with lanes := tab 32 fun l => if inMask m l then f l (g.lane l) else g.lane l }

def Lane.vreg (x : Lane) (r : Nat) : W32 := x.v[r]?.getD 0

def Lane.setV (x : Lane) (r : Nat) (w : W32) : Lane := { x with v := x.v.setIfInBounds r w }

def Group.sreg (g : Group) (r : Nat) : W64 := g.s[r]?.getD 0

def Group.setS (g : Group) (r : Nat) (w : W64) : Group := { g with s := g.s.setIfInBounds r w }

/-- A predicate register: p0 reads as all ones (R25). -/
def Group.preg (g : Group) (r : Nat) : W32 := if r = 0 then 0xFFFF_FFFF#32 else g.p[r]?.getD 0

/-- Write a predicate register: a write to p0 is discarded (R26). -/
def Group.setP (g : Group) (r : Nat) (w : W32) : Group := if r = 0 then g else { g with p := g.p.setIfInBounds r w }

/-- homelane (R272): bits 27:23 of the tag. -/
def Lane.homelane (x : Lane) : BitVec 5 := x.tag.extractLsb' 23 5

def Lane.exited (x : Lane) : Bool := match x.st with | .exited _ => true | _ => false

def Lane.isRun (x : Lane) : Bool := match x.st with | .run => true | _ => false

def Group.live (g : Group) : Mask := maskOf fun l => !(g.lane l).exited

def Group.inTrap (g : Group) : Bool := g.tstat.getLsbD 0

def Group.tmaskLanes (g : Group) : Mask := g.tmask.extractLsb' 0 32

/-- Set bits of FSTAT (R111, R112). -/
def Group.flag (g : Group) (bits : W64) : Group :=
  { g with
    fstat := g.fstat ||| bits
    newFlags := g.newFlags ||| bits }

def State.launch? (s : State) (id : Nat) : Option Launch := s.fw.launches.find? fun l => l.id == id

def State.modLaunch (s : State) (id : Nat) (f : Launch → Launch) : State :=
  { s with fw := { s.fw with launches := s.fw.launches.map fun l => if l.id = id then f l else l } }

def State.context? (s : State) (id : Nat) : Option Context := s.fw.contexts.find? fun c => c.id == id

def State.modContext (s : State) (id : Nat) (f : Context → Context) : State :=
  { s with fw := { s.fw with contexts := s.fw.contexts.map fun c => if c.id = id then f c else c } }

/-- A time in µs, as State.time counts it (R4, R363). -/
def micros (us : Nat) : Nat := us * Config.ccPerMicro

/-- What a cc lasts: in a thermal emergency the clock is half as fast (R363). -/
def State.ccTime (s : State) : Nat := if s.fw.thermal.isSome then 2 else 1

/-- top(F) of R206 for a floor. -/
def Region.topOf (r : Region) (floor : Nat) : Nat := min (floor + r.depth - 1) 0xFFFF_FFFF

def Region.top (r : Region) : Nat := r.topOf r.floor

def Region.holds (r : Region) (va : Nat) : Bool := decide (r.base ≤ va ∧ va < r.base + r.size)

/-- The home slice of a local line (R12). -/
def sliceOf (pa : Nat) : Nat :=
  let link := pa / 2 ^ 12 % 32 ^^^ pa / 2 ^ 21 % 32
  12 * (link / 8) + pa / 128 % 12

/-- The P and F that the home slice of a local line sees (R206). -/
def Region.copyAt (r : Region) (pa : Nat) : Nat × Nat := r.copies[sliceOf pa]?.getD (r.pub, r.floor)

/-- Every slice has acknowledged the home's P and F (R213, R214). -/
def Region.sync (r : Region) : Region := { r with copies := Vector.replicate 48 (r.pub, r.floor) }

/-- One slice's copy takes the home's P and F. -/
def Region.syncAt (r : Region) (pa : Nat) : Region :=
  { r with copies := r.copies.setIfInBounds (sliceOf pa) (r.pub, r.floor) }

/-- The live region of a context that holds a virtual address. -/
def State.regionAt (s : State) (ctx va : Nat) : Option Region := s.regions.find? fun r => r.ctx == ctx && r.holds va

/-- The region of a launch by number. -/
def State.region? (s : State) (launch num : Nat) : Option Region :=
  s.regions.find? fun r => r.launch == launch && r.num == num

def State.modRegion (s : State) (launch num : Nat) (f : Region → Region) : State :=
  { s with regions := s.regions.map fun r => if r.launch = launch ∧ r.num = num then f r else r }

/-- The device memory of a Z9 ends at 3 TiB (R131). -/
def memTop : Nat := 0x0300_0000_0000

/-- Whether a physical range is local device memory (R131). -/
def isLocal (pa n : Nat) : Bool := decide (pa + n ≤ memTop)

/-- The code offset's virtual address in a launch. -/
def Launch.codeVa (l : Launch) (off : Nat) : Nat := l.lr.codeBase + off

/-- FKIND (R301). -/
def fkindOf (access reason size : Nat) : W64 := BitVec.ofNat 64 (access % 16 + reason % 16 * 16 + size % 256 * 256)

/-- FKIND of a retrieval instruction's own causes, for which R301 names no REASON and no size (log 33). -/
def hashFkind (access : Nat) : W64 := BitVec.ofNat 64 (access % 16 + Config.hashKind % 2 ^ 12 * 16)

/-! ### Completion rings and events -/

def State.fn (s : State) (f : Nat) : Fn := s.fw.fns[f]?.getD Fn.zero

def State.setFn (s : State) (f : Nat) (x : Fn) : State :=
  { s with fw := { s.fw with fns := s.fw.fns.setIfInBounds f x } }

/-- The entries of a ring of configuration cfg: n in bits 4:0, enable in bit 5 (R352). -/
def ringLen (cfg : W64) : Nat := 2 ^ (cfg.extractLsb' 0 5).toNat

def ringOn (cfg : W64) : Bool := cfg.getLsbD 5

/-- Whether the completion ring has room: the entry at CQHEAD is never overwritten (R353; DEDUCED, log 12: one entry
of the ring stays empty). -/
def Fn.room (x : Fn) : Bool :=
  ringOn x.cqcfg && decide ((x.cqtail + 1) % ringLen x.cqcfg ≠ (x.cqhead.extractLsb' 0 16).toNat % ringLen x.cqcfg)

/-- The 64 bytes of a completion entry (R353). -/
def CEntry.bytes (e : CEntry) (sqhead : Nat) (phase : Bool) : List Byte :=
  leBytes 4 e.cid.toNat ++ leBytes 2 e.status ++ leBytes 2 e.detail
    ++ ((List.range 6).map fun i => leBytes 8 (e.e.getD i 0).toNat).flatten
    ++ leBytes 4 sqhead ++ leBytes 4 (if phase then 1 else 0)

/-- A host address: the host link carries 46 bits (R131). -/
def hostAddr (a : Nat) : Nat := a % 2 ^ 46

/-- Write one completion entry into a ring that has room (R353). -/
def State.ringWrite (s : State) (f : Nat) (e : CEntry) : State :=
  let x := s.fn f
  let tail := (x.cqtail + 1) % ringLen x.cqcfg
  let x' := { x with
    cqtail := tail
    phase := if tail = 0 then !x.phase else x.phase
    irqs := if x.irq.getLsbD 0 then x.irqs + 1 else x.irqs }
  { s with host := s.host.write (hostAddr (x.cqbase.toNat / 4096 * 4096 + 64 * x.cqtail)) (e.bytes x.sqhead x.phase) }.setFn f x'

/-- Post a completion or event entry: when the ring is full it waits, up to 4,096, and past that it is dropped and
FAILED is set (R361). -/
def State.post (s : State) (f : Nat) (e : CEntry) : State :=
  let x := s.fn f
  if x.events.isEmpty && x.room then s.ringWrite f e
  else if x.events.length < 4096 then s.setFn f { x with events := x.events ++ [e] }
  else s.setFn f { x with failed := true }

/-- Write the waiting entries for which there is room, in order. -/
def State.drainEvents (s : State) (f : Nat) : Nat → State
  | 0 => s
  | n + 1 =>
    match (s.fn f).events with
    | [] => s
    | e :: es =>
      if (s.fn f).room then State.drainEvents ((s.setFn f { s.fn f with events := es }).ringWrite f e) f n else s

/-- An event entry (R358 to R361). -/
def event (status detail : Nat) (e : List W64) : CEntry := ⟨0xFFFF_FFFF#32, status, detail, e⟩

/-! ### The dwords of an engine command (R231 to R233) -/

abbrev Dws := Vector W64 8

def Dws.n (w : Dws) (i : Nat) : Nat := (w[i]?.getD 0).toNat
def Dws.op (w : Dws) : Nat := bitsOf (w.n 0) 7 0
def Dws.mode (w : Dws) : Nat := bitsOf (w.n 0) 10 8
def Dws.track (w : Dws) : Bool := bitOf (w.n 0) 11
def Dws.sspace (w : Dws) : Nat := bitsOf (w.n 0) 13 12
def Dws.dspace (w : Dws) : Nat := bitsOf (w.n 0) 16 14
def Dws.wscope (w : Dws) : Nat := bitsOf (w.n 0) 19 17
def Dws.rfmt (w : Dws) : Nat := bitsOf (w.n 0) 23 20
def Dws.rop (w : Dws) : Nat := bitsOf (w.n 0) 25 24
def Dws.fence (w : Dws) : Bool := bitOf (w.n 0) 26
def Dws.wspace (w : Dws) : Nat := bitsOf (w.n 0) 27 27
def Dws.rows (w : Dws) : Nat := bitsOf (w.n 0) 63 32
def Dws.src (w : Dws) : Nat := w.n 1
def Dws.dst (w : Dws) : Nat := w.n 2
def Dws.rowlen (w : Dws) : Nat := bitsOf (w.n 3) 31 0
def Dws.spitch (w : Dws) : Nat := bitsOf (w.n 4) 31 0
def Dws.dpitch (w : Dws) : Nat := bitsOf (w.n 4) 63 32
def Dws.ctarget (w : Dws) : Nat := w.n 5
def Dws.ver (w : Dws) : Nat := bitsOf (w.n 5) 63 32
def Dws.tag (w : Dws) : Nat := bitsOf (w.n 7) 31 0
def Dws.hf (w : Dws) : Nat := bitsOf (w.n 3) 2 0

/-- The dwords of an accepted command. -/
def Cmd.w (k : Cmd) : Dws := k.dws

def opCopy : Nat := 0x01
def opFill : Nat := 0x02
def opRedcopy : Nat := 0x03
def opInsert : Nat := 0x10
def opDelete : Nat := 0x11
def opMerge : Nat := 0x12

def modeBar : Nat := 1
def modeVer : Nat := 2
def modeWord : Nat := 3

/-! ### Killing a launch (R323) -/

/-- The codes of R312 after which a launch may be relaunched. -/
def relaunchCode (code : Nat) : Bool := decide (0x303 ≤ code ∧ code ≤ 0x306)

/-- The number of blocks of a launch's grid (R53, R55). -/
def LRec.blocks (r : LRec) : Nat :=
  (if r.grouped then r.tiles.length else r.gridX) * r.gridY * r.gridZ * r.stages

/-- The value an incumbent binding resets its register to: the least favourable of its kind and direction (R54). -/
def leastFavourable (cfg : Byte) : W64 :=
  let max := cfg.getLsbD 3
  match (cfg.extractLsb' 1 2).toNat with
  | 0 => if max then 0x8000_0000_0000_0000 else 0x7FFF_FFFF_FFFF_FFFF
  | 1 => if max then 0 else 0xFFFF_FFFF_FFFF_FFFF
  | _ => if max then 0xFFF0_0000_0000_0000 else 0x7FF0_0000_0000_0000

/-- Bind the incumbents of a launch, at the root and in every copy, and reset those that ask for it (R54, R279). CFG
holds byte 0 of the binding; the reset bit is not part of the register's state but is kept as the entry gives it. -/
def State.bindIcs (s : State) (r : LRec) : State :=
  let upd := fun (i : Nat) (c : Incumbent) =>
    let cfg := r.icbind[i]?.getD 0
    if cfg.getLsbD 0 then
      (if cfg.getLsbD 6 then ⟨leastFavourable cfg, cfg, 0⟩ else { c with cfg := cfg })
    else c
  let all := fun (v : Vector Incumbent 16) => tab 16 fun i => upd i (v[i]?.getD Incumbent.zero)
  { s with
    ics := all s.ics
    cores := tab 144 fun k =>
      let c := s.cores[k]?.getD CoreSt.zero
      { c with
        ic := all c.ic
        pending := c.pending.filter fun q => !(r.icbind[q.1]?.getD 0).getLsbD 6 } }

/-- Whether a request has been accepted (R143, R148). -/
def Req.accepted (r : Req) : Bool := match r.phase with | .issued => false | _ => true

/-- Whether a request writes memory, so that once accepted it takes full effect (R148, R162). -/
def Req.writes (r : Req) : Bool :=
  match r.kind with
  | .store | .cctl | .atomic .. | .vnst _ => true
  | _ => false

/-- The Sifter or bank entry that a request is in. -/
def Req.entry? (r : Req) : Option Nat :=
  match r.phase with
  | .accepted e | .held e | .blocked e | .retry e _ | .remote e _ => some e
  | _ => none

def Req.isHeld (r : Req) : Bool := match r.phase with | .held _ => true | _ => false
def Req.isBlocked (r : Req) : Bool := match r.phase with | .blocked _ => true | _ => false
def Req.isParked (r : Req) : Bool := match r.phase with | .parked _ => true | _ => false
def Req.isVnst (r : Req) : Bool := match r.kind with | .vnst _ => true | _ => false

/-- Whether a request is of a block. -/
def Req.ofBlock (r : Req) (b : Nat) : Bool := r.blk == b

/-- Whether a request goes on when its block is stopped: an accepted store or atomic of the global space takes full effect
(R323). A versioned store is dropped with the rest, since the reset of its region frees what it would have written. -/
def Req.survives (r : Req) : Bool :=
  r.writes && r.accepted && !r.isParked && !r.isHeld && !r.isVnst && decide (r.space = .global)

/-- Stop every block of a launch: nothing is saved, accepted stores and atomics go on, everything else is dropped, with what its
engine commands hold for want of a version record. -/
def State.stopBlocks (s : State) (launch : Nat) : State :=
  let gone := fun (b : Nat) => s.blocks.any fun x => x.id == b && x.launch == launch
  let reqs := s.reqs.filter fun r => !gone r.blk || r.survives
  { s with
    blocks := s.blocks.filter fun b => b.launch != launch
    reqs := reqs
    entries := s.entries.filter fun e => reqs.any fun r => decide (r.entry? = some e.id)
    faults := s.faults.filter fun f => !gone f.blk
    home := s.home.filter fun h => !gone h.blk
    probes := s.probes.filter fun p => !gone p.blk
    pres := s.pres.filter fun p => !gone p.blk
    mtxq := s.mtxq.filter fun o => !gone o.blk
    cmds := s.cmds.map fun k =>
      let k := if k.launch = launch then { k with heldAt := [], stalled := false } else k
      match s.blocks.find? fun b => b.id == k.blk && b.launch == launch with
      | some b => { k with kept := some (b.scratch, b.a) }
      | none => k
    fw := { s.fw with
      queues := tab 4 fun i => (s.fw.queues[i]?.getD []).filter fun q =>
        match q with | .block b => !gone b | .launch _ => true
      aged := s.fw.aged.filter fun q => match q with | .block b => !gone b | .launch _ => true } }

/-- Reset the regions of a launch: records freed without write-back, P and F 0, regions made by VNOPEN released (R207). -/
def State.resetRegions (s : State) (launch : Nat) : State :=
  { s with regions := (s.regions.filter fun r => !(r.launch == launch && r.opened)).map fun r =>
      if r.launch = launch then
        { r with
          free := r.pool
          pub := 0
          floor := 0
          copies := Vector.replicate 48 (0, 0)
          recs := []
          signal := false
          engines := [] }
      else r }

/-- Return what the blocks of a launch still hold of their energy credit (R362). -/
def State.releaseCredit (s : State) (launch ctx : Nat) : State :=
  let sum := ((s.blocks.filter fun b => b.launch == launch && decide (b.st ≠ .saved)).map (·.credit)).foldl (· + ·) 0
  s.modContext ctx fun c => { c with used := c.used - sum }

/-- Whether bytes are in flight toward a block's scratchpad: lanes of an LDDS, and commands or completion words aimed there
(R166, R240). -/
def State.bytesInFlight (s : State) (blk : Nat) : Bool :=
  (s.reqs.any fun r => r.blk == blk && decide (r.kind = .ldds))
    || s.cmds.any fun k => k.blk == blk && decide (k.queue ≠ 5 ∧ k.w.dspace = 1 ∨ k.w.mode = modeWord ∧ k.w.wspace = 1)

/-- Whether a block meets R77, with R277: every thread has exited, the counters are zero, no bytes are in flight toward its
scratchpad and its queue holds no live record. -/
def State.complete (s : State) (b : Block) : Bool :=
  (b.groups.all fun g => g.live == 0 && g.lc == 0 && g.sc == 0 && g.mc == 0 && g.ec == 0)
    && !s.bytesInFlight b.id && b.q.share.isEmpty && b.q.ring.isEmpty

/-- Whether a killed launch is relaunched (R323). -/
def Launch.relaunches (l : Launch) (code : Nat) : Bool := relaunchCode code && l.lr.idem && decide (l.used < l.lr.retries)

/-- Take a launch out of the queues. -/
def State.unqueue (s : State) (launch : Nat) : State :=
  { s with fw := { s.fw with
      queues := tab 4 fun i => (s.fw.queues[i]?.getD []).filter fun x => decide (x ≠ .launch launch)
      aged := s.fw.aged.filter fun x => decide (x ≠ .launch launch) } }

/-- The end of a kill, once the launch's accepted engine commands have run to completion: its regions are reset, the report is
made, and the launch goes to the tail of its queue or stays killed, for LAUNCH_COMPLETION to report (R323, steps 2 to 5). -/
def State.endKill (s : State) (launch : Nat) : State :=
  match s.launch? launch with
  | none => s
  | some l =>
    match l.stopping with
    | none => s
    | some (e, code) =>
      if s.cmds.any fun k => k.launch == launch then s
      else
        let t := ((s.resetRegions launch).modLaunch launch fun l => { l with stopping := none }).post l.fn e
        if l.relaunches code then
          let t := (t.modLaunch launch fun l =>
            { l with left := l.lr.blocks, used := l.used + 1, queued := true, killed := none }).bindIcs l.lr
          { t with fw := { t.fw with queues := tab 4 fun i =>
              let q := t.fw.queues[i]?.getD []
              if i = l.lr.prio then q ++ [.launch launch] else q } }
        else t.modLaunch launch fun l => { l with killed := some code }

/-- Kill a whole launch (R323): stop its blocks, and end the kill when its engine commands are done. What these hold for want of
a version record lands nowhere, since the reset discards it (R207). blk and grp name the block and group of the report, more
what a SAVE_FAULT report adds (R359). A completion in the same cycle wins: of a block, whose requests to save are told so, and
of the launch, when all that is left of it meets R77. -/
def State.kill (s : State) (launch blk grp code : Nat) (more : List W64 := []) : State :=
  match s.launch? launch with
  | none => s
  | some l =>
    let b := (s.block? blk).getD Block.zero
    let g := b.group grp
    let bs := s.blocks.filter fun b => b.launch == launch
    let answers := (bs.map fun b => b.savers.map fun p => (p.1, p.2, s.complete b)).flatten
      ++ l.preempts.map fun p => (p.1, p.2.1, false)
    if l.left ≠ 0 ∧ l.left = bs.length ∧ bs.all s.complete = true then s else
    let s1 := (s.releaseCredit launch l.ctx).stopBlocks launch
    let s2 := answers.foldl (fun t a => t.post a.1 (if a.2.2 then ⟨a.2.1, 5, 0, []⟩ else ⟨a.2.1, 3, code, []⟩)) s1
    let e := event 3 code
      ([BitVec.ofNat 64 (l.id % 2 ^ 32 + b.stage * 2 ^ 32 + grp * 2 ^ 40 + l.used * 2 ^ 44),
       BitVec.ofNat 64 (b.x % 2 ^ 32 + b.y * 2 ^ 32 + b.z * 2 ^ 48), g.tepc, g.cause] ++ more)
    ((s2.modLaunch launch fun l =>
      { l with next := 0, queued := false, preempts := [], stopping := some (e, code) }).unqueue launch).endKill launch

/-! ### Taking a trap (R306 to R310) and returning from one (R305) -/

/-- The 64 bits of CAUSE (R299). -/
def causeWord (c : Cause) (arg : W32) : W64 :=
  BitVec.ofNat 64 (c.code + c.rank * 2 ^ 16 + arg.toNat * 2 ^ 32)

/-- The cause of lowest rank among those raised, and every lane that raised it (R310). -/
def pickCause (rs : List (Cause × Mask)) : Option (Cause × Mask) :=
  match leastBy (fun r : Cause × Mask => r.1.rank) (rs.filter fun r => r.2 ≠ 0) with
  | none => none
  | some r => some (r.1, (rs.filter fun q => decide (q.1 = r.1)).foldl (fun m q => m ||| q.2) 0#32)

/-- What a trap needs to know: the causes raised and by which lanes, the return point and the header of its clause
(R306), whether TEPC holds the instruction after the cause, CAUSE.ARG, the fault registers of a cause that sets them, and
the lanes of the set that would have issued, all of which wait when a handler runs (R308). -/
structure Raise where
  causes : List (Cause × Mask)
  set    : Mask := 0
  tepc   : W32
  hdr    : W32
  after  : Bool := false
  arg    : W32 := 0
  fault  : Option (W64 × W64 × W32) := none

/-- Whether a code offset is a multiple of 8 below code_size (the part of R64 that is checked at trap entry). -/
def Launch.offsetOk (l : Launch) (t : Nat) : Bool := decide (t % 8 = 0 ∧ t < l.lr.codeSize)

/-- The report codes of R309. -/
def codeDoubleFault : Nat := 0x3F2
def codeUnhandled : Nat := 0x3F3

/-- Enter the group's handler with the lanes m (R306). -/
def Group.enter (g : Group) (c : Cause) (m : Mask) (r : Raise) : Group :=
  let g := { g with
    cause := causeWord c r.arg
    tmask := m.setWidth 64
    tepc := BitVec.ofNat 64 (r.tepc.toNat + r.hdr.toNat * 2 ^ 32)
    tstat := if r.after then 3#64 else 1#64
    trapChk := true }
  let g := match r.fault with
    | none => g
    | some f => { g with faddr := f.1, fkind := f.2.1, fpc := f.2.2.setWidth 64 }
  g.modLanes m fun _ x =>
    { x with
      smt := x.mt
      mt := noneWord
      wins := []
      shield := 0
      yielded := false
      inTrap := true
      pc := g.tvec.extractLsb' 0 32
      hdr := none
      st := .run }

/-- Take a trap: the one operation that every cause of a lane goes through. While a handler runs, a cause of its own
lanes is a double fault, and the lane set of other lanes waits as a whole before the instruction, with HELD = 1 (R308,
R309). -/
def State.trap (s : State) (blk grp : Nat) (r : Raise) : State :=
  match s.block? blk, pickCause r.causes with
  | some b, some (c, m) =>
    let g := b.group grp
    if g.inTrap then
      if m &&& g.tmaskLanes ≠ 0 then s.kill b.launch blk grp codeDoubleFault
      else s.setBlock (b.setGroup grp (g.modLanes (m ||| r.set) fun _ x => { x with st := .trapHeld }))
    else
      match s.launch? b.launch with
      | none => s
      | some l =>
        let g' := g.enter c m r
        if (g.tvec.extractLsb' 0 32 ≠ noneWord) && l.offsetOk (g.tvec.extractLsb' 0 32).toNat then
          s.setBlock (b.setGroup grp g')
        else (s.setBlock (b.setGroup grp g')).kill b.launch blk grp codeUnhandled
  | _, _ => s

/-- Whether a trap's lanes have all reached their RFT: every lane of TMASK that has not exited waits at the rejoin. -/
def Group.rejoined (g : Group) : Bool :=
  g.inTrap && (List.range 32).all fun l =>
    !inMask g.tmaskLanes l || match (g.lane l).st with | .exited _ => true | .rejoin _ => true | _ => false

/-- A thread that stands at a header equal to its meeting value arrives there and is held (R65). -/
def Lane.arrive (x : Lane) : Lane :=
  if x.hdr = none ∧ x.pc = x.mt ∧ x.isRun then { x with st := .held } else x

/-- End the handler: the lanes at the rejoin resume at T inside the clause of H with their new meeting values, the
registers of R305 clear, and lanes that waited under R308 may issue again. -/
def Group.leave (g : Group) : Group :=
  let t := g.tepc.extractLsb' 0 32
  let h := g.tepc.extractLsb' 32 32
  let g' := g.modLanes (maskOf fun _ => true) fun _ x =>
    match x.st with
    | .rejoin m => { x with st := .run, pc := t, mt := m, smt := noneWord, inTrap := false,
                            hdr := if t = h then none else some h }.arrive
    | .trapHeld => { x with st := .run }.arrive
    | _ => { x with inTrap := false }
  { g' with cause := 0, tmask := 0, tstat := 0, trapChk := false }

/-! ### Instructions in flight -/

/-- Lower a completion counter by one (R21). -/
def Group.lower (g : Group) : Ctr → Group
  | .none => g
  | .lc => { g with lc := g.lc - 1 }
  | .sc => { g with sc := g.sc - 1 }
  | .mc => { g with mc := g.mc - 1 }

/-- Raise a completion counter by one (R21). -/
def Group.raise (g : Group) : Ctr → Group
  | .none => g
  | .lc => { g with lc := g.lc + 1 }
  | .sc => { g with sc := g.sc + 1 }
  | .mc => { g with mc := g.mc + 1 }

def Group.counter (g : Group) : Ctr → Nat
  | .none => 0
  | .lc => g.lc
  | .sc => g.sc
  | .mc => g.mc

def Lane.cancelled (x : Lane) : Bool := match x.st with | .exited c => c | _ => false

/-- Write one result place; the write of a cancelled lane is discarded (R96). -/
def Group.land (g : Group) (w : Dest × W64) : Group :=
  match w.1 with
  | .v r l => if (g.lane l).cancelled then g else g.modLanes (maskOf (· == l)) fun _ x => x.setV r (w.2.setWidth 32)
  | .s r => g.setS r w.2

/-- An issued instruction completes: its computed results land, its registers stop being pending and its counter
falls (R34, R145). -/
def Group.complete (g : Group) (id : Nat) : Group :=
  match g.insns.find? fun i => i.id == id with
  | none => g
  | some i => { (i.writes.foldl Group.land g).lower i.ctr with insns := g.insns.filter fun j => j.id != id }

/-- A cause taken after acceptance waits in its group until the group's next issue (R209); lanes that have exited and
helpers take none (R67). Causes of one instruction and one code are one, with the lowest failing address (R147). -/
def Group.addAfter (g : Group) (a : After) : Group :=
  let m := a.lanes &&& maskOf fun l => !(g.lane l).exited && !(g.lane l).helper
  if m = 0 then g
  else match g.after.find? fun b => b.insn == a.insn && decide (b.cause = a.cause) with
    | none => { g with after := g.after ++ [{ a with lanes := m }] }
    | some _ =>
      { g with after := g.after.map fun b =>
          if b.insn = a.insn ∧ b.cause = a.cause then
            (if a.faddr < b.faddr then { a with lanes := m ||| b.lanes } else { b with lanes := m ||| b.lanes })
          else b }

/-- Whether a vector register of a lane is pending (R35, R145). -/
def Group.pendV (g : Group) (r l : Nat) : Bool := g.insns.any fun i => i.vregs.contains r && inMask i.lanes l

/-- Whether a scalar register is pending. -/
def Group.pendS (g : Group) (r : Nat) : Bool := g.insns.any fun i => i.sregs.contains r

/-- Whether any register of the group is pending. -/
def Group.anyPending (g : Group) : Bool := g.insns.any fun i => !i.vregs.isEmpty || !i.sregs.isEmpty

/-- A fresh number. -/
def State.fresh (s : State) : State := { s with nextId := s.nextId + 1 }

/-- A fresh free value (log 5). -/
def State.freeVal (s : State) : W64 × State := (Config.freeWord s.free, { s with free := s.free + 1 })

/-! ### The course of an instruction that issues -/

/-- What an issuing instruction acts on: the lane set, its block, group and launch, and the group as it stood at the
start of the cycle, which it reads (R60). -/
structure Ctx where
  iss : Issue
  b   : Block
  g   : Group
  r   : Group
  l   : Launch

/-- The lane set at the head of the issue list with its surroundings. -/
def State.ctx? (s : State) : Option Ctx :=
  match s.cur with
  | [] => none
  | i :: _ =>
    match s.block? i.blk with
    | none => none
    | some b =>
      match b.groups[i.grp]?, s.launch? b.launch with
      | some g, some l => some ⟨i, b, g, i.old.getD g, l⟩
      | _, _ => none

/-- What an instruction does when it issues: it takes effect, and for the lanes own it has set the PC itself; or it
raises causes; or it waits before issue. -/
inductive Res where
  | done (s : State) (own : Mask)
  | raise (causes : List (Cause × Mask)) (arg : W32) (after : Bool)
  | fail (causes : List (Cause × Mask)) (fault : W64 × W64 × W32)
  | wait (s : State)

/-- HELD (R300): a cause of a lane set outside TMASK waits under R308. -/
def Group.held (g : Group) : Bool :=
  g.inTrap && ((List.range 32).any (fun l => decide ((g.lane l).st = .trapHeld))
    || g.after.any fun a => a.lanes &&& g.live &&& ~~~g.tmaskLanes != 0)

/-- TSTAT as it reads: HELD is 1 while a cause waits (R300). -/
def Group.tstatNow (g : Group) : W64 := g.tstat ||| (if g.held then 4 else 0)

/-- Raise one cause in some lanes. -/
def Res.cause (c : Cause) (m : Mask) : Res := .raise [(c, m)] 0 false

/-- The offset after the clause's last word: the next clause header (R18). -/
def Issue.nextHdr (i : Issue) : W32 := i.hdr + BitVec.ofNat 32 (8 * (i.cnt + 2))

/-- Move a lane past the instruction of n words: inside the clause, or to the next header, where it may arrive (R65). -/
def Lane.pass (x : Lane) (i : Issue) (n : Nat) : Lane :=
  let pc := i.pc + BitVec.ofNat 32 (8 * n)
  { x with pc := pc, hdr := if pc = i.nextHdr then none else some i.hdr }.arrive

/-- One more instruction of the thread has issued: its windows and its SHIELD count go down, its skip count returns to
0 (R35, R61, R287). -/
def Lane.tick (x : Lane) : Lane :=
  { x with
    wins := (x.wins.map fun w => (w.1, w.2 - 1)).filter fun w => decide (w.2 ≠ 0)
    shield := x.shield - 1
    skip := 0 }

/-- Send a lane to a clause header (R22, R65). -/
def Lane.goto (x : Lane) (t : W32) : Lane := { x with pc := t, hdr := none }.arrive

/-- Whether a set is one of the handler's (R307). -/
def Ctx.handler (c : Ctx) : Bool := c.iss.lanes &&& c.g.tmaskLanes != 0

/-- After an instruction of n words has taken effect: the lanes of its set move on, but for those that it has placed
itself, and it leaves the issue list. The word at TVEC has been checked once a set of the handler has issued (R306). -/
def State.finish (s : State) (c : Ctx) (n : Nat) (own : Mask) : State :=
  let s := s.modGroup c.iss.blk c.iss.grp fun g =>
    { g with trapChk := g.trapChk && !c.handler }.modLanes c.iss.lanes fun l x =>
      if inMask own l then x else x.pass c.iss n
  { s with cur := s.cur.tail }

/-- The lanes of the set begin an instruction: they stand inside its clause, and their windows and counts tick before it
acts, so that windows it opens itself are not shortened. -/
def State.begin_ (s : State) (c : Ctx) : State :=
  s.modGroup c.iss.blk c.iss.grp fun g => g.modLanes c.iss.lanes fun _ x =>
    { x.tick with pc := c.iss.pc, hdr := some c.iss.hdr }

/-- The lanes of a set that wait stay where they stood: before the first instruction of a clause they are at its header,
whose conditions are checked again when it does issue (R21). Their windows and counts are as they were before it was
tried. -/
def Ctx.stayOf (c : Ctx) (m : Mask) (g : Group) : Group :=
  g.modLanes m fun l x =>
    { x with
      pc := (c.g.lane l).pc
      hdr := (c.g.lane l).hdr
      wins := (c.g.lane l).wins
      shield := (c.g.lane l).shield
      skip := (c.g.lane l).skip }

/-- A set of which every lane waits. -/
def Ctx.stay (c : Ctx) (g : Group) : Group := c.stayOf c.iss.lanes g

/-- A set that waits leaves the issue list and stays before its instruction. -/
def State.hold (t : State) (c : Ctx) : State :=
  let t := t.modGroup c.iss.blk c.iss.grp c.stay
  { t with cur := t.cur.tail }

/-- The number of words of an instruction with its inline words (R27). -/
def words (t : Bool) : Nat := if t then 5 else 1

/-- The return point after an instruction: the next word of its clause, or the next header (R304). -/
def Issue.after (i : Issue) (n : Nat) : W32 := i.pc + BitVec.ofNat 32 (8 * n)

/-- Lower engines[v] of a region by one (R206, R236). -/
def State.unregister (s : State) (launch num v : Nat) : State :=
  s.modRegion launch num fun r => { r with engines := assocPut r.engines v (assocGet r.engines v - 1) }

/-- Whether a request at a region home is a registration (R237, R256). -/
def HomeReq.reg (h : HomeReq) : Bool := match h.op with | .publish | .floor | .queued _ => false | _ => true

/-- Whether the home has answered DONE: what the instruction is for has been done, and it has only to issue (R224). -/
def HomeReq.answered (h : HomeReq) : Bool :=
  match h.op with
  | .publish | .floor => h.done
  | .push _ | .queued _ | .side _ => false
  | .merge _ | .rehash .. => h.ans.any fun a => a.precise.isNone

/-- Take back a request at a region home that has not been answered, with its registration (R224, R237). -/
def State.withdrawHome (s : State) (h : HomeReq) : State :=
  let t := { s with home := s.home.filter fun x => x.id != h.id }
  if h.reg && h.done && h.ans.isNone then t.unregister h.launch h.region h.ver else t

/-- Add to the statistics counters of register i (R261). -/
def Block.addStats (b : Block) (i : Nat) (xs : List Nat) : Block :=
  let old := b.hfc[i]?.getD (Vector.replicate 9 0)
  { b with hfc := b.hfc.setIfInBounds i (tab 9 fun n => (old[n]?.getD 0) + BitVec.ofNat 64 (xs.getD n 0)) }

/-- What an answered request does when its instruction issues: every slice's copy of P and F has been acknowledged (R213,
R214), or a merge or rehash writes d, adds to the counters and leaves its cause (R259, R260). -/
def State.homeEffect (s : State) (h : HomeReq) : State :=
  let t : State := { s with home := s.home.filter fun x => x.id != h.id }
  match h.op, h.ans with
  | .publish, _ | .floor, _ => t.modRegion h.launch h.region Region.sync
  | _, none => t
  | _, some a =>
    if a.precise.isSome then t else
    (t.modBlock h.blk fun b => b.addStats h.hf [0, 0, 0, 0, 0, 0, a.evicted, a.refused, 0]).modGroup h.blk h.grp fun g =>
      let g := match h.dst with
        | some d => g.setS d (BitVec.ofNat 64 a.d)
        | none => g
      match a.cause with
      | none => g
      | some k =>
        let kind := if k.1 = .mcDataPoison then fkindOf 8 6 4 else hashFkind 9
        g.addAfter ⟨h.id, k.1, h.takers, true, BitVec.ofNat 64 k.2, kind, h.pc⟩

/-- Clear the flags of YIELD (R62). -/
def Group.unflag (g : Group) : Group := g.modLanes (maskOf fun _ => true) fun _ y => { y with yielded := false }

/-- The lane set of an answered request issues its instruction outside an issue cycle: those of its lanes that still stand before
it move on, and with no flagged lane among them the group's flags clear (R62). -/
def State.homeIssue (s : State) (h : HomeReq) : State :=
  (s.homeEffect h).modGroup h.blk h.grp fun g =>
    let m := maskOf fun l => inMask h.lanes l && (g.lane l).isRun
      && ((g.lane l).pc == h.pc || ((g.lane l).hdr.isNone && (g.lane l).pc + 8 == h.pc))
    (if m ≠ 0 ∧ !(lanesOf m).any fun l => (g.lane l).yielded then g.unflag else g).modLanes m fun _ x =>
      x.tick.pass ⟨h.blk, h.grp, h.lanes, h.pc, h.hdr, 0, h.cnt, none⟩ 1

/-- A lane set that takes a trap before its instruction issues gives up what it had begun there: its request at a region
home, its fence's mark at an owner core, its reads, and the group's fetches that have failed. -/
def State.abandon (s : State) (i : Issue) : State :=
  let t := (s.home.filter fun h => h.blk == i.blk && h.grp == i.grp && h.pc == i.pc && (h.takers &&& i.lanes) != 0
    && !h.answered).foldl State.withdrawHome s
  let gone := (t.pres.filter fun p => p.blk == i.blk && p.grp == i.grp
    && (if p.code then p.fail.isSome else p.pc == i.pc && (p.lanes &&& i.lanes) != 0)).map (·.id)
  { t with
    pres := t.pres.filter fun p => !gone.contains p.id
    faults := t.faults.filter fun f => f.fetch.isSome || !gone.contains f.insn
    reqs := t.reqs.filter fun r => !gone.contains r.insn
      && !(decide (r.kind = .fence) && r.blk == i.blk && r.grp == i.grp && (r.threads &&& i.lanes) != 0) }

/-- Whether a lane's guard is true (R25). -/
def Ctx.guard (c : Ctx) (g : BitVec 4) (l : Nat) : Bool :=
  ((c.r.preg (g.extractLsb' 0 3).toNat).getLsbD l) ^^ (g.getLsbD 3)

/-- The lanes of the set whose guard is true. -/
def Ctx.on (c : Ctx) (g : BitVec 4) : Mask := maskOf fun l => inMask c.iss.lanes l && c.guard g l

/-- The lanes of the set that are guard-true and not helpers (R67). -/
def Ctx.real (c : Ctx) (g : BitVec 4) : Mask :=
  maskOf fun l => inMask c.iss.lanes l && c.guard g l && !(c.r.lane l).helper

/-- The shielded lanes among those of a mask (R287). -/
def Ctx.shielded (c : Ctx) (m : Mask) : Mask := maskOf fun l => inMask m l && decide ((c.g.lane l).shield ≠ 0)

/-- Issue the lane set at the head of the list with the meaning f of an instruction of n words. Without a lane set the
state is unchanged but for the issue list. SHIELD_ILLEGAL joins the causes of an instruction that a shielded window
forbids, in the shielded ones among the lanes of forbidden (R287). A set that waits leaves the issue list and stays
where it stood. -/
def State.issueN (s : State) (n : Nat) (forbidden : Ctx → Mask) (f : Ctx → State → Res) : Host.Outcome State Fault Refusal :=
  match s.ctx? with
  | none => .next { s with cur := s.cur.tail }
  | some c =>
    let sh : Mask := c.shielded (forbidden c)
    let trapWith := fun (u : State) (cs : List (Cause × Mask)) (arg : W32) (after : Bool) =>
      let t := if after then c.iss.after n else c.iss.pc
      u.trap c.iss.blk c.iss.grp
        { causes := cs, set := c.iss.lanes, tepc := t, hdr := if t = c.iss.nextHdr then t else c.iss.hdr
          after := after, arg := arg }
    match f c (s.begin_ c) with
    | .raise cs arg after =>
      let m := cs.foldl (fun (m : Mask) r => m ||| r.2) 0
      let t := if after && !c.g.inTrap then (s.begin_ c).finish c n m else { s.abandon c.iss with cur := s.cur.tail }
      .next (trapWith t (if sh = 0 then cs else (Cause.shieldIllegal, sh) :: cs) arg after)
    | .fail cs f =>
      .next ({ s.abandon c.iss with cur := s.cur.tail }.trap c.iss.blk c.iss.grp
        { causes := if sh = 0 then cs else (Cause.shieldIllegal, sh) :: cs, set := c.iss.lanes, tepc := c.iss.pc
          hdr := c.iss.hdr, fault := some f })
    | .wait t =>
      if sh ≠ 0 then .next (trapWith { s with cur := s.cur.tail } [(.shieldIllegal, sh)] 0 false) else .next (t.hold c)
    | .done t own =>
      if sh ≠ 0 then .next (trapWith { s with cur := s.cur.tail } [(.shieldIllegal, sh)] 0 false) else .next (t.finish c n own)

/-- Issue an instruction of one word. -/
def State.issue (s : State) (f : Ctx → State → Res) : Host.Outcome State Fault Refusal := s.issueN 1 (fun _ => 0) f

/-- The instruction takes effect on the group alone. -/
def Ctx.doneG (c : Ctx) (s : State) (f : Group → Group) : Res := .done (s.modGroup c.iss.blk c.iss.grp f) 0

end Sys2Proof.Machine
end

