-- ==== Sys2Proof/Machine/Operands.lean ====
section
/-!
DEFINITION. The operand forms: what each operand code supplies to a lane or to a lane set, and what a write to it does
(02_encoding.md R25, R26; 05_integer_crosslane.md R85; 06_float_formats.md R113; 07_memory.md R130, R132).
-/

namespace Sys2Proof

/-- The number of a vector register operand. -/
def Opnd.vnum : Opnd → Nat
  | .v r => r
  | _ => 0

/-- The number of a scalar register operand. -/
def Opnd.snum : Opnd → Nat
  | .s r => r
  | _ => 0

/-- The scalar register that an operand field names, if it names one. -/
def Opnd.sdst? : Opnd → Option Nat
  | .s r => some r
  | _ => Option.none

def Opnd.isV : Opnd → Bool
  | .v _ => true
  | _ => false

def Opnd.isS : Opnd → Bool
  | .s _ => true
  | _ => false

/-- The c operand of a memory word: none in the MI form (R29). -/
def MOff.c : MOff → Opnd
  | .reg _ c => c
  | .imm _ => .none

/-- The access size in bytes of a size code (R29). -/
def MForm.bytes (x : MForm) : Nat := 2 ^ x.size.toNat

/-- The sat modifier of a V form (R28). -/
def VForm.sat (x : VForm) : Bool := x.nas.getLsbD 0

end Sys2Proof

namespace Sys2Proof.Machine

/-- What an operand supplies to a lane of a vector instruction: a scalar source gives its bits 31:0 (R85). -/
def Ctx.val (c : Ctx) (o : Opnd) (l : Nat) : W32 :=
  match o with
  | .v r => (c.r.lane l).vreg r
  | .s r => (c.r.sreg r).setWidth 32
  | .p r => if (c.r.preg r).getLsbD l then 1 else 0
  | .laneid => BitVec.ofNat 32 l
  | .homelane => (c.r.lane l).homelane.setWidth 32
  | .stage => BitVec.ofNat 32 c.b.stage
  | .mt => (c.r.lane l).mt
  | _ => 0

/-- The 64 bits of a pair of vector registers, or of a scalar register (R85: V2; S). -/
def Ctx.val64 (c : Ctx) (o : Opnd) (l : Nat) : W64 :=
  match o with
  | .v r => (c.r.lane l).vreg (r.val + 1) ++ (c.r.lane l).vreg r
  | .s r => c.r.sreg r
  | _ => 0

/-- What an operand supplies to a scalar or uniform instruction (R85, R26: none reads as zero). -/
def Ctx.sval (c : Ctx) (o : Opnd) : W64 :=
  match o with
  | .s r => c.r.sreg r
  | .stage => BitVec.ofNat 64 c.b.stage
  | _ => 0

/-- Scalar register r, by number. -/
def Ctx.sreg (c : Ctx) (r : Nat) : W64 := c.r.sreg r

/-- Write a 32-bit value to vector register d in the lanes of a mask. -/
def Group.putV (g : Group) (m : Mask) (d : Nat) (f : Nat → W32) : Group := g.modLanes m fun l x => x.setV d (f l)

/-- Write a 64-bit value to the pair d, d + 1 in the lanes of a mask. -/
def Group.putV2 (g : Group) (m : Mask) (d : Nat) (f : Nat → W64) : Group :=
  g.modLanes m fun l x => (x.setV d ((f l).setWidth 32)).setV (d + 1) ((f l).extractLsb' 32 32)

/-- Write one bit per lane of a mask to a predicate register; the other bits keep their values (R88, R116). -/
def Group.putP (g : Group) (m : Mask) (d : Nat) (f : Nat → Bool) : Group :=
  g.setP d ((g.preg d &&& ~~~m) ||| maskOf fun l => inMask m l && f l)

/-- Write the result of a vector instruction to a V or P destination in the lanes of a mask: a P destination receives
the low bit. -/
def Group.putO (g : Group) (m : Mask) (d : Opnd) (f : Nat → W32) : Group :=
  match d with
  | .v r => g.putV m r f
  | .p r => g.putP m r fun l => (f l).getLsbD 0
  | _ => g

/-- Write the result of a scalar instruction once, to an S register, or its low bit to all bits of a predicate (R88). -/
def Group.putS (g : Group) (d : Opnd) (w : W64) : Group :=
  match d with
  | .s r => g.setS r w
  | .p r => g.setP r (if w.getLsbD 0 then 0xFFFF_FFFF#32 else 0)
  | _ => g

/-- A vector instruction: write f l to d in every active, guard-true lane (R25). -/
def Ctx.vec (c : Ctx) (s : State) (g : BitVec 4) (d : Opnd) (f : Nat → W32) : Res :=
  c.doneG s fun gr => gr.putO (c.on g) d f

/-- A vector instruction with a pair as its destination. -/
def Ctx.vec2 (c : Ctx) (s : State) (g : BitVec 4) (d : Opnd) (f : Nat → W64) : Res :=
  c.doneG s fun gr => gr.putV2 (c.on g) d.vnum f

/-- A scalar instruction: write once if the guard is true in at least one lane of the set (R25). -/
def Ctx.scal (c : Ctx) (s : State) (g : BitVec 4) (d : Opnd) (w : W64) : Res :=
  if c.on g = 0 then .done s 0 else c.doneG s fun gr => gr.putS d w

/-- The byte offset part of an address: register offset b, or the signed 16-bit offset times the size (R130). -/
def Ctx.off (c : Ctx) (o : MOff) (bytes l : Nat) : Int :=
  match o with
  | .imm w => w.toInt * bytes
  | .reg (.s r) _ => (c.r.sreg r).toInt
  | .reg (.v r) _ => ((c.r.lane l).vreg r).toInt
  | .reg _ _ => 0

/-- ea_global of a lane (R130). -/
def Ctx.eaGlobal (c : Ctx) (a : Opnd) (o : MOff) (bytes l : Nat) : Nat :=
  let base : Int := match a with
    | .none => 0
    | a => (c.val64 a l).toNat
  ((base + c.off o bytes l) % 2 ^ 64).toNat

/-- ea_local of a lane (R132): it may be negative. -/
def Ctx.eaLocal (c : Ctx) (a : Opnd) (o : MOff) (bytes l : Nat) : Int :=
  let base : Int := match a with
    | .none => 0
    | a => (c.val a l).toNat
  base + c.off o bytes l

end Sys2Proof.Machine
end

