-- ==== Sys2Proof/Machine/Flags.lean ====
section
/-!
DEFINITION. The integer formats and how an exact result is reduced to one (05_integer_crosslane.md R86), and the names
of the sticky flags of FSTAT (06_float_formats.md R111). Integer instructions set no flag (R90).
-/

namespace Sys2Proof.Machine

/-- The width of an integer format code (R28). -/
def fmtW (fmt : Nat) : Nat :=
  match fmt / 2 with
  | 0 => 32
  | 1 => 64
  | 2 => 16
  | _ => 8

/-- I formats are signed, N formats unsigned: the even and the odd codes (R28). -/
def fmtSigned (fmt : Nat) : Bool := fmt % 2 == 0

def fmtMin (fmt : Nat) : Int := if fmtSigned fmt then -(2 ^ (fmtW fmt - 1)) else 0

def fmtMax (fmt : Nat) : Int := if fmtSigned fmt then 2 ^ (fmtW fmt - 1) - 1 else 2 ^ fmtW fmt - 1

/-- A mathematical integer wrapped modulo 2^w, read under the format's signedness. -/
def wrapInt (fmt : Nat) (x : Int) : Int :=
  let m := x % 2 ^ fmtW fmt
  if fmtSigned fmt && decide (m ≥ 2 ^ (fmtW fmt - 1)) then m - 2 ^ fmtW fmt else m

/-- The low w bits of a source, under the format's signedness (R86, step 1). -/
def readInt (fmt : Nat) (x : W64) : Int := wrapInt fmt x.toNat

/-- Clamp to the range of the format (R86, step 4, with sat). -/
def clampInt (fmt : Nat) (x : Int) : Int := if x < fmtMin fmt then fmtMin fmt else if fmtMax fmt < x then fmtMax fmt else x

/-- Reduce an exact result to the format and extend it to 64 bits, by sign for I formats and by zero for N formats
(R86, steps 4 and 5). -/
def reduceInt (fmt : Nat) (sat : Bool) (x : Int) : W64 :=
  BitVec.ofInt 64 (if sat then clampInt fmt x else wrapInt fmt x)

/-- The modifiers of source a: abs, then neg, exactly (R86, step 2). -/
def nasInt (nas : BitVec 3) (x : Int) : Int :=
  let y := if nas.getLsbD 1 then (x.natAbs : Int) else x
  if nas.getLsbD 2 then -y else y

/-- Quotient truncated toward zero and its remainder (R90). -/
def divInt (fmt : Nat) (rem : Bool) (x y : Int) : Int :=
  if y = 0 then (if rem then x else 2 ^ fmtW fmt - 1)
  else if rem then x.tmod y else x.tdiv y

/-- The result of SDIV and VIDIV: a quotient by zero is w one bits with or without sat; the remainder by zero is x,
which R86 reduces as any exact result (R90, R86; DEDUCED, log 26). -/
def divResult (fmt : Nat) (sat rem : Bool) (x y : Int) : W64 :=
  reduceInt fmt (sat && (rem || !decide (y = 0))) (divInt fmt rem x y)

/-- The multiply's low or high half: bits 2w − 1 : w of the exact product (R88). -/
def mulInt (fmt : Nat) (hi : Bool) (x y : Int) : Int := if hi then (x * y) / 2 ^ fmtW fmt else x * y

/-- The shifts and rotations (R88): n is y read unsigned. -/
def shiftInt (fmt sub : Nat) (x : Int) (n : Nat) : Int :=
  let w := fmtW fmt
  let u := (x % 2 ^ w).toNat
  let r := n % w
  match sub with
  | 0 => if n ≥ w then 0 else x * 2 ^ n
  | 1 => if n ≥ w then (if x < 0 then -1 else 0) else x / 2 ^ n
  | 2 => ((u * 2 ^ r) % 2 ^ w + u / 2 ^ (w - r) : Nat)
  | _ => (u / 2 ^ r + (u * 2 ^ (w - r)) % 2 ^ w : Nat)

/-- The reduced result of a shift: the exact value of SHL with n ≥ w is 0, which needs no clamp (R88; DEDUCED, log 13). -/
def shiftResult (fmt sub : Nat) (sat : Bool) (x : Int) (n : Nat) : W64 := reduceInt fmt sat (shiftInt fmt sub x n)

/-- Relations by sub-op: EQ, NE, LT, LE, GT, GE (R87). -/
def relInt (sub : Nat) (x y : Int) : Bool :=
  match sub with
  | 0 => decide (x = y)
  | 1 => decide (x ≠ y)
  | 2 => decide (x < y)
  | 3 => decide (x ≤ y)
  | 4 => decide (y < x)
  | _ => decide (y ≤ x)

/-- The number of one bits among the low w of x. -/
def popCount (w x : Nat) : Nat := ((List.range w).filter fun i => x.testBit i).length

/-- Leading zeros of the low w bits; w for zero. -/
def clz (w x : Nat) : Nat := match (List.range w).find? fun i => x.testBit (w - 1 - i) with | some i => i | none => w

/-- Trailing zeros of the low w bits; w for zero. -/
def ctz (w x : Nat) : Nat := match (List.range w).find? fun i => x.testBit i with | some i => i | none => w

/-- The low w bits reversed. -/
def brev (w x : Nat) : Nat := (List.range w).foldl (fun a i => 2 * a + (if x.testBit i then 1 else 0)) 0

/-- SBIT and VBIT: POPC, CLZ, CTZ, BREV (R88). -/
def bitInt (fmt sub x : Nat) : Int :=
  let w := fmtW fmt
  match sub with
  | 0 => popCount w x
  | 1 => clz w x
  | 2 => ctz w x
  | _ => brev w x

/-- AND, OR, XOR, ANDN, NOT on whole registers (R88). -/
def logic {w : Nat} (sub : Nat) (x y : BitVec w) : BitVec w :=
  match sub with
  | 0 => x &&& y
  | 1 => x ||| y
  | 2 => x ^^^ y
  | 3 => x &&& ~~~y
  | _ => ~~~x

/-! ### The sticky flags of FSTAT (R111) -/

def flagNV : Nat := 1
def flagDZ : Nat := 2
def flagOF : Nat := 4
def flagUF : Nat := 8
def flagNX : Nat := 16
def flagQntNonfinite : Nat := 32
def flagQntSaturated : Nat := 64
def flagPeerLost : Nat := 2 ^ 16

/-- Set flags given as a number of FSTAT bits. -/
def Group.flags (g : Group) (n : Nat) : Group := g.flag (BitVec.ofNat 64 n)

/-- The union of the flags that the lanes of a mask raise: any one lane sets the flag for the whole group (R112). -/
def orFlags (m : Mask) (f : Nat → Nat) : Nat := (lanesOf m).foldl (fun a l => a ||| f l) 0

end Sys2Proof.Machine
end

