-- ==== Sys2Proof/Machine/Float.lean ====
section
/-!
DEFINITION. The floating-point and block-float formats and their arithmetic (06_float_formats.md R105 to R126), in exact
integer arithmetic: a finite value is ±m × 2^e, an operation is computed exactly and rounded once.
-/

namespace Sys2Proof.Machine

/-- A floating-point format: exponent bits and fraction bits (R105). -/
structure FloatFmt where
  ebits : Nat
  fbits : Nat
  deriving DecidableEq, Repr

def f64 : FloatFmt := ⟨11, 52⟩
def f32 : FloatFmt := ⟨8, 23⟩
def f16 : FloatFmt := ⟨5, 10⟩
def bf16 : FloatFmt := ⟨8, 7⟩

/-- The format of a fmt code (R28). -/
def fmtOf (fmt : Nat) : FloatFmt :=
  match fmt with
  | 9 => f64
  | 10 => f16
  | 11 => bf16
  | _ => f32

def FloatFmt.width (f : FloatFmt) : Nat := 1 + f.ebits + f.fbits
def FloatFmt.bias (f : FloatFmt) : Nat := 2 ^ (f.ebits - 1) - 1
/-- The exponent of the smallest normal value. -/
def FloatFmt.emin (f : FloatFmt) : Int := 1 - f.bias
def FloatFmt.signBit (f : FloatFmt) (neg : Bool) : Nat := if neg then 2 ^ (f.ebits + f.fbits) else 0
def FloatFmt.inf (f : FloatFmt) (neg : Bool) : Nat := f.signBit neg + (2 ^ f.ebits - 1) * 2 ^ f.fbits
def FloatFmt.maxFinite (f : FloatFmt) (neg : Bool) : Nat := f.inf neg - 1
/-- The canonical NaN: sign 0, quiet bit set, the rest of the fraction zero (R105). -/
def FloatFmt.nan (f : FloatFmt) : Nat := f.inf false + 2 ^ (f.fbits - 1)
def FloatFmt.zero (f : FloatFmt) (neg : Bool) : Nat := f.signBit neg

/-- A floating-point datum: a NaN, an infinity, or ±m × 2^e. -/
inductive FVal where
  | nan (signalling : Bool)
  | inf (neg : Bool)
  | fin (neg : Bool) (m : Nat) (e : Int)
  deriving DecidableEq, Repr

/-- Read the bits of a format. -/
def FloatFmt.decode (f : FloatFmt) (x : Nat) : FVal :=
  let neg := x.testBit (f.ebits + f.fbits)
  let ex := (x >>> f.fbits) % 2 ^ f.ebits
  let fr := x % 2 ^ f.fbits
  if ex = 2 ^ f.ebits - 1 then (if fr = 0 then .inf neg else .nan (!fr.testBit (f.fbits - 1)))
  else if ex = 0 then .fin neg fr (f.emin - f.fbits)
  else .fin neg (2 ^ f.fbits + fr) ((ex : Int) - f.bias - f.fbits)

/-- Whether a pattern is subnormal. -/
def FloatFmt.subnormal (f : FloatFmt) (x : Nat) : Bool :=
  (x >>> f.fbits) % 2 ^ f.ebits == 0 && x % 2 ^ f.fbits != 0

/-- The rounding of an instruction: mode RNE 0, RTZ 1, RUP 2, RDN 3, flush-to-zero, saturation (R28, R108 to R110). -/
structure Rnd where
  mode : Nat
  ftz  : Bool
  sat  : Bool
  deriving DecidableEq, Repr

/-- Round m / 2^k to an integer under a mode, for a value of the given sign; and whether it was inexact. -/
def roundShift (mode : Nat) (neg : Bool) (m k : Nat) : Nat × Bool :=
  let q := m / 2 ^ k
  let r := m % 2 ^ k
  let up := match mode with
    | 0 => decide (2 * r > 2 ^ k) || (decide (2 * r = 2 ^ k) && q % 2 == 1)
    | 1 => false
    | 2 => !neg && r != 0
    | _ => neg && r != 0
  (if up then q + 1 else q, r != 0)

/-- The number of bits of a positive number. -/
def bitLen (m : Nat) : Nat := if m = 0 then 0 else Nat.log2 m + 1

/-- Round ±m × 2^e to the quantum 2^q: the multiple of it, and whether inexact. -/
def roundTo (mode : Nat) (neg : Bool) (m : Nat) (e q : Int) : Nat × Bool :=
  if q ≤ e then (m * 2 ^ (e - q).toNat, false) else roundShift mode neg m (q - e).toNat

/-- What an overflow gives (R110, IEEE 754). -/
def FloatFmt.overflow (f : FloatFmt) (r : Rnd) (neg : Bool) : Nat :=
  if r.sat then f.maxFinite neg
  else match r.mode with
    | 0 => f.inf neg
    | 1 => f.maxFinite neg
    | 2 => if neg then f.maxFinite neg else f.inf neg
    | _ => if neg then f.inf neg else f.maxFinite neg

/-- Round an exact nonzero value ±m × 2^e to the format: its bits and the flags it raises (R108 to R110). -/
def FloatFmt.round (f : FloatFmt) (r : Rnd) (neg : Bool) (m : Nat) (e : Int) : Nat × Nat :=
  if m = 0 then (f.zero neg, 0) else
  let p : Int := f.fbits
  let top : Int := e + bitLen m - 1
  let q0 := top - p
  let q := max q0 (f.emin - p)
  let (n, inex) := roundTo r.mode neg m e q
  let (n0, _) := roundTo r.mode neg m e q0
  -- tiny: rounded as though the exponent range were unbounded, below the smallest normal
  let tiny := decide (top < f.emin) && !(decide (top = f.emin - 1) && decide (n0 = 2 ^ (f.fbits + 1)))
  let emax : Int := f.bias
  let big := decide (top > emax) || (decide (q = emax - p) && decide (n ≥ 2 ^ (f.fbits + 1)))
  if big then (f.overflow r neg, flagOF + flagNX)
  else if tiny && r.ftz then (f.zero neg, flagUF + flagNX)
  else
    -- n × 2^q with n at most 2^(p+1): the hidden bit of n adds to the exponent field below it
    let bits := f.signBit neg + (q - (f.emin - p)).toNat * 2 ^ f.fbits + n
    (bits, (if tiny && inex then flagUF else 0) + (if inex then flagNX else 0))

/-- The operand after flush-to-zero: a subnormal reads as zero of its own sign and sets no flag (R109). -/
def FVal.flush (sub ftz : Bool) : FVal → FVal
  | .fin neg m e => if sub && ftz then .fin neg 0 e else .fin neg m e
  | x => x

def FVal.neg : FVal → FVal
  | .nan s => .nan s
  | .inf n => .inf (!n)
  | .fin n m e => .fin (!n) m e

def FVal.isNan : FVal → Bool
  | .nan _ => true
  | _ => false

def FVal.isSnan : FVal → Bool
  | .nan s => s
  | _ => false

def FVal.isNeg : FVal → Bool
  | .nan _ => false
  | .inf n => n
  | .fin n _ _ => n

def FVal.isZero : FVal → Bool
  | .fin _ m _ => m == 0
  | _ => false

/-- Abs and neg on the bits of source a, abs first, exact even on a NaN (R110). -/
def FloatFmt.nas (f : FloatFmt) (nas : BitVec 3) (x : Nat) : Nat :=
  let s := 2 ^ (f.ebits + f.fbits)
  let y := if nas.getLsbD 1 then x % s else x % (2 * s)
  if nas.getLsbD 2 then (if y ≥ s then y - s else y + s) else y

/-- Read an operand for an operation under FTZ. -/
def FloatFmt.operand (f : FloatFmt) (r : Rnd) (x : Nat) : FVal := (f.decode x).flush (f.subnormal x) r.ftz

/-- The flag a signalling operand sets (R110). -/
def snanFlag (xs : List FVal) : Nat := if xs.any FVal.isSnan then flagNV else 0

/-- ±m × 2^e as an integer over 2^k, for a k at most e. -/
def scaled (neg : Bool) (m : Nat) (e k : Int) : Int :=
  let x : Int := (m * 2 ^ (e - k).toNat : Nat)
  if neg then -x else x

/-- x + y rounded once; an exact zero sum of opposite signs is +0, under RDN −0 (R108, R114). -/
def FloatFmt.addV (f : FloatFmt) (r : Rnd) (x y : FVal) : Nat × Nat :=
  match x, y with
  | .nan _, _ => (f.nan, snanFlag [x, y])
  | _, .nan _ => (f.nan, snanFlag [x, y])
  | .inf a, .inf b => if a = b then (f.inf a, 0) else (f.nan, flagNV)
  | .inf a, _ => (f.inf a, 0)
  | _, .inf b => (f.inf b, 0)
  | .fin a m e, .fin b n g =>
    let k := min e g
    let t := scaled a m e k + scaled b n g k
    if t = 0 then (f.zero (if a = b then a else decide (r.mode = 3)), 0)
    else f.round r (decide (t < 0)) t.natAbs k

def FloatFmt.mulV (f : FloatFmt) (r : Rnd) (x y : FVal) : Nat × Nat :=
  match x, y with
  | .nan _, _ => (f.nan, snanFlag [x, y])
  | _, .nan _ => (f.nan, snanFlag [x, y])
  | .inf a, y => if y.isZero then (f.nan, flagNV) else (f.inf (a ^^ y.isNeg), 0)
  | x, .inf b => if x.isZero then (f.nan, flagNV) else (f.inf (x.isNeg ^^ b), 0)
  | .fin a m e, .fin b n g => f.round r (a ^^ b) (m * n) (e + g)

/-- x × y + z with one rounding; 0 × ∞ sets NV even when z is a quiet NaN (R114). -/
def FloatFmt.fmaV (f : FloatFmt) (r : Rnd) (x y z : FVal) : Nat × Nat :=
  let bad := match x, y with
    | .inf _, y => y.isZero
    | x, .inf _ => x.isZero
    | _, _ => false
  if x.isNan || y.isNan || z.isNan || bad then
    (f.nan, snanFlag [x, y, z] ||| (if bad then flagNV else 0))
  else match x, y with
    | .fin a m e, .fin b n g =>
      match z with
      | .inf c => (f.inf c, 0)
      | _ => f.addV r (.fin (a ^^ b) (m * n) (e + g)) z
    | x, y => f.addV r (.inf (x.isNeg ^^ y.isNeg)) z

/-- x ÷ y: the quotient to enough bits, with a last bit that is set when it is not exact (R114). -/
def FloatFmt.divV (f : FloatFmt) (r : Rnd) (x y : FVal) : Nat × Nat :=
  match x, y with
  | .nan _, _ => (f.nan, snanFlag [x, y])
  | _, .nan _ => (f.nan, snanFlag [x, y])
  | .inf a, .inf _ => (f.nan, if a then flagNV else flagNV)
  | .inf a, y => (f.inf (a ^^ y.isNeg), 0)
  | x, .inf b => (f.zero (x.isNeg ^^ b), 0)
  | .fin a m e, .fin b n g =>
    if n = 0 then (if m = 0 then (f.nan, flagNV) else (f.inf (a ^^ b), flagDZ))
    else if m = 0 then (f.zero (a ^^ b), 0)
    else
      let k := f.fbits + 4 + bitLen n
      let q := (m * 2 ^ k) / n
      let s := if (m * 2 ^ k) % n = 0 then 0 else 1
      f.round r (a ^^ b) (2 * q + s) (e - g - k - 1)

/-- The integer square root, by fuel: the greatest s with s² ≤ n, searched bit by bit. -/
def isqrtFrom (n : Nat) : Nat → Nat → Nat
  | 0, s => s
  | b + 1, s => isqrtFrom n b (if (s + 2 ^ b) * (s + 2 ^ b) ≤ n then s + 2 ^ b else s)

/-- ⌊√n⌋. -/
def isqrt (n : Nat) : Nat := isqrtFrom n (bitLen n / 2 + 1) 0

def FloatFmt.sqrtV (f : FloatFmt) (r : Rnd) (x : FVal) : Nat × Nat :=
  match x with
  | .nan s => (f.nan, if s then flagNV else 0)
  | .inf true => (f.nan, flagNV)
  | .inf false => (f.inf false, 0)
  | .fin neg m e =>
    if m = 0 then (f.zero neg, 0)
    else if neg then (f.nan, flagNV)
    else
      let k := 2 * (f.fbits + 4) + (if e % 2 = 0 then 0 else 1)
      let n := m * 2 ^ k
      let q := isqrt n
      f.round r false (2 * q + (if q * q = n then 0 else 1)) ((e - k) / 2 - 1)

/-- a × 2^n (R114). -/
def FloatFmt.sclV (f : FloatFmt) (r : Rnd) (x : FVal) (n : Int) : Nat × Nat :=
  match x with
  | .nan s => (f.nan, if s then flagNV else 0)
  | .inf neg => (f.inf neg, 0)
  | .fin neg m e => if m = 0 then (f.zero neg, 0) else f.round r neg m (e + (if n > 8192 then 8192 else if n < -8192 then -8192 else n))

/-- Order of two data that are not NaN: −1, 0 or 1; −0 equals +0. -/
def FVal.cmp (x y : FVal) : Int :=
  match x, y with
  | .inf a, .inf b => if a = b then 0 else if a then -1 else 1
  | .inf a, _ => if a then -1 else 1
  | _, .inf b => if b then 1 else -1
  | .fin a m e, .fin b n g =>
    let k := min e g
    let s := scaled a m e k
    let t := scaled b n g k
    if s < t then -1 else if s = t then 0 else 1
  | _, _ => 0

/-- Relations by sub-op: EQ, NE, LT, LE, GT, GE, UN, ORD, with the flags of R116. -/
def relF (sub : Nat) (x y : FVal) : Bool × Nat :=
  let un := x.isNan || y.isNan
  let c := x.cmp y
  let v := match sub with
    | 0 => !un && decide (c = 0)
    | 1 => un || decide (c ≠ 0)
    | 2 => !un && decide (c < 0)
    | 3 => !un && decide (c ≤ 0)
    | 4 => !un && decide (c > 0)
    | 5 => !un && decide (c ≥ 0)
    | 6 => un
    | _ => !un
  let nv := if 2 ≤ sub ∧ sub ≤ 5 then un else x.isSnan || y.isSnan
  (v, if nv then flagNV else 0)

/-- Minimum and maximum with −0 below +0 (R115): sub-ops MIN, MAX, MINNUM, MAXNUM. The bits given are those of the
operands as read, so that a selected operand keeps its bits. -/
def FloatFmt.minmax (f : FloatFmt) (sub : Nat) (xb yb : Nat) : Nat × Nat :=
  let x := f.decode xb
  let y := f.decode yb
  let fl := snanFlag [x, y]
  let num := decide (sub ≥ 2)
  if x.isNan && y.isNan then (f.nan, fl)
  else if x.isNan then ((if num then yb else f.nan), fl)
  else if y.isNan then ((if num then xb else f.nan), fl)
  else
    let c := x.cmp y
    let less := decide (c < 0) || (decide (c = 0) && xb.testBit (f.ebits + f.fbits) && !yb.testBit (f.ebits + f.fbits))
    ((if sub % 2 = 0 then (if less then xb else yb) else (if less then yb else xb)), fl)

/-- The bits of an operand after FTZ: a subnormal becomes zero of its own sign (R109, R115). -/
def FloatFmt.flushBits (f : FloatFmt) (ftz : Bool) (x : Nat) : Nat :=
  if ftz && f.subnormal x then f.zero (x.testBit (f.ebits + f.fbits)) else x

/-- The 10-bit class mask of R117. -/
def FloatFmt.classMask (f : FloatFmt) (x : Nat) : Nat :=
  match f.decode x with
  | .nan s => if s then 2 ^ 8 else 2 ^ 9
  | .inf neg => if neg then 1 else 2 ^ 7
  | .fin neg m _ =>
    if m = 0 then (if neg then 2 ^ 3 else 2 ^ 4)
    else if f.subnormal x then (if neg then 2 ^ 2 else 2 ^ 5)
    else if neg then 2 else 2 ^ 6

/-- Round to an integral value of the own format (R118). -/
def FloatFmt.rnd (f : FloatFmt) (r : Rnd) (intx : Bool) (x : Nat) : Nat × Nat :=
  match f.operand r x with
  | .nan s => (f.nan, if s then flagNV else 0)
  | .inf neg => (f.inf neg, 0)
  | .fin neg m e =>
    let (n, inex) := roundTo r.mode neg m e 0
    if n = 0 then (f.zero neg, if intx && inex then flagNX else 0)
    else ((f.round ⟨0, false, false⟩ neg n 0).1, if intx && inex then flagNX else 0)

/-- Convert a datum to a format, rounding once; a NaN becomes the canonical NaN (R110, R121). -/
def FloatFmt.convert (f : FloatFmt) (r : Rnd) (x : FVal) : Nat × Nat :=
  match x with
  | .nan s => (f.nan, if s then flagNV else 0)
  | .inf neg => (f.inf neg, 0)
  | .fin neg m e => if m = 0 then (f.zero neg, 0) else f.round r neg m e

/-- To an integer format: a NaN gives 0 and NV, a value out of range the nearest bound and NV (R122). -/
def toIntF (fmt mode : Nat) (x : FVal) : Int × Nat :=
  match x with
  | .nan _ => (0, flagNV)
  | .inf neg => (if neg then fmtMin fmt else fmtMax fmt, flagNV)
  | .fin neg m e =>
    let (n, inex) := roundTo mode neg m e 0
    let v : Int := if neg then -(n : Int) else n
    if v < fmtMin fmt then (fmtMin fmt, flagNV)
    else if fmtMax fmt < v then (fmtMax fmt, flagNV)
    else (v, if inex then flagNX else 0)

/-- From a mathematical integer (R123). -/
def FloatFmt.ofInt (f : FloatFmt) (mode : Nat) (x : Int) : Nat × Nat :=
  if x = 0 then (f.zero false, 0) else f.round ⟨mode, false, false⟩ (decide (x < 0)) x.natAbs 0

/-! ### The approximation instructions (R119, R120) -/

/-- ⌊2^192 × ln 2⌋, the constant that the tables of EXP2 and LOG2 are built from. -/
def ln2Scaled : Nat := 0xB17217F7D1CF79ABC9E3B39803F2F6AF40F343267298B62D

/-- ⌊(2^k × 2^(n / 256))⌋: eight square roots of 2^(256 k + n). -/
def root256 (k n : Nat) : Nat := isqrt (isqrt (isqrt (isqrt (isqrt (isqrt (isqrt (isqrt (2 ^ (256 * k + n)))))))))

/-- Bits of log₂ x for x in 1 to 2, held as a fixed-point number of 256 fraction bits: n bits from the top. -/
def log2Bits (x : Nat) : Nat → Nat → Nat
  | 0, acc => acc
  | n + 1, acc =>
    let y := (x * x) / 2 ^ 256
    if y ≥ 2 ^ 257 then log2Bits (y / 2) n (2 * acc + 1) else log2Bits y n (2 * acc)

/-- The constants A and B of one table entry (R119). -/
def apxConst (sub q k : Nat) : Int × Int :=
  match sub with
  | 0 => ((2 * 2 ^ 40 / q + 1) / 2, -((2 * 2 ^ 48 / (q * q) + 1) / 2 : Nat))
  | 1 => ((isqrt (2 ^ (73 - k) / q) + 1) / 2, -((isqrt (2 ^ (85 - 3 * k) / (q * q * q)) + 1) / 2 : Nat))
  | 2 => ((root256 33 q + 1) / 2, ((ln2Scaled * root256 160 q / 2 ^ (192 + 160 - 33) + 1) / 2 : Nat))
  | _ => ((log2Bits (q * 2 ^ 248) 33 0 + 1) / 2, ((2 ^ (192 + 33) * 256 / (q * ln2Scaled) + 1) / 2 : Nat))

/-- y := A + ((B × δ) >> 23), an arithmetic shift (R119). -/
def apxLine (ab : Int × Int) (delta : Int) : Int := ab.1 + (ab.2 * delta) / 2 ^ 23

/-- The value of VFAPX before rounding for a finite nonzero ±s × 2^e with fraction f: sign and m × 2^e′ (R119). -/
def apxValue (sub : Nat) (neg : Bool) (e : Int) (f : Nat) : Int × Int :=
  match sub with
  | 0 =>
    if f = 0 then (if neg then -1 else 1, -e)
    else
      let q := 257 + 2 * (f / 2 ^ 16)
      let y := apxLine (apxConst 0 q 0) (((2 ^ 23 + f : Nat) : Int) - ((2 ^ 15 * q : Nat) : Int))
      (if neg then -y else y, -32 - e)
  | 1 =>
    let k := (e % 2).toNat
    if f = 0 ∧ k = 0 then (1, -(e / 2))
    else
      let q := 129 + 2 * (f / 2 ^ 17)
      let y := apxLine (apxConst 1 q k) ((((2 ^ 23 + f) * 2 ^ k : Nat) : Int) - ((q * 2 ^ (16 + k) : Nat) : Int))
      (y, -32 - (e - k) / 2)
  | 2 =>
    -- |a| = (2^23 + f) × 2^(e − 23); n is its floor, with the sign, and u the next 23 bits
    let a : Int := if neg then -((2 ^ 23 + f : Nat) : Int) else ((2 ^ 23 + f : Nat) : Int)
    let fix : Int := if e ≥ 0 then a * 2 ^ e.toNat else a / 2 ^ (-e).toNat      -- ⌊a × 2^23⌋
    let n : Int := fix / 2 ^ 23
    let u : Nat := (fix % 2 ^ 23).toNat
    let q : Nat := 2 * (u / 2 ^ 16) + 1
    if u = 0 then (1, n)
    else (apxLine (apxConst 2 q 0) ((u : Int) - ((2 ^ 15 * q : Nat) : Int)), n - 32)
  | _ =>
    if f = 0 then (e, 0)
    else
      let q := 257 + 2 * (f / 2 ^ 16)
      let y := apxLine (apxConst 3 q 0) (((2 ^ 23 + f : Nat) : Int) - ((2 ^ 15 * q : Nat) : Int))
      (e * 2 ^ 32 + y, -32)

/-- VFAPX: RCP, RSQ, EXP2, LOG2 with the special results of R120. An F16 or BF16 operand widens to F32 exactly. -/
def FloatFmt.apx (f : FloatFmt) (r : Rnd) (sub : Nat) (x : Nat) : Nat × Nat :=
  match f.operand r x with
  | .nan s => (f.nan, if s then flagNV else 0)
  | .inf neg =>
    match sub, neg with
    | 0, _ => (f.zero neg, 0)
    | 1, true => (f.nan, flagNV)
    | 1, false => (f.zero false, 0)
    | 2, true => (f.zero false, 0)
    | 2, false => (f.inf false, 0)
    | _, true => (f.nan, flagNV)
    | _, false => (f.inf false, 0)
  | .fin neg m e =>
    if m = 0 then
      match sub with
      | 0 => (f.inf neg, flagDZ)
      | 1 => (f.inf neg, flagDZ)
      | 2 => f.round ⟨0, false, false⟩ false 1 0
      | _ => (f.inf true, flagDZ)
    else if neg && (sub == 1 || sub == 3) then (f.nan, flagNV)
    else
      let len := bitLen m
      let ex : Int := e + len - 1
      let fr := if len ≤ 24 then m * 2 ^ (24 - len) - 2 ^ 23 else 0
      let ex' := if sub = 2 ∧ ex > 12 then 12 else ex
      let v := apxValue sub neg ex' fr
      if v.1 = 0 then (f.zero false, 0)
      else f.round r (decide (v.1 < 0)) v.1.natAbs v.2

/-! ### Block float (R106, R124 to R126) -/

/-- The magnitude scale, the greatest magnitude and g of KBF8 and KBF4 (R106, R125). -/
structure Kbf where
  sc   : Nat
  mmax : Nat
  g    : Nat
  bits : Nat
  deriving DecidableEq, Repr

def kbf8 : Kbf := ⟨32, 63, 3, 8⟩
def kbf4 : Kbf := ⟨2, 3, 1, 4⟩

/-- Decode a block-float element with the two exponents of its tile; a non-finite tile gives NaN (R106). -/
def Kbf.decode (k : Kbf) (elo ehi x : Nat) : FVal :=
  if elo = 0xFF ∨ ehi = 0xFF then .nan false
  else
    let e := if x.testBit (k.bits - 1) then ehi else elo
    .fin (x.testBit (k.bits - 2)) (x % 2 ^ (k.bits - 2)) ((e : Int) - 127 - Nat.log2 k.sc)

/-- Whether the nonnegative value m × 2^e is at most p / q × 2^x. -/
def leScaled (m : Nat) (e : Int) (p q : Nat) (x : Int) : Bool :=
  let k := min e x
  decide (m * q * 2 ^ (e - k).toNat ≤ p * 2 ^ (x - k).toNat)

/-- fit(v): the least exponent in 1 to 254 whose greatest value is not below v, or 254; 0 for v = 0 (R125). -/
def Kbf.fit (k : Kbf) (m : Nat) (e : Int) : Nat :=
  if m = 0 then 0
  else match (List.range 254).find? fun (i : Nat) => leScaled m e k.mmax k.sc ((i : Int) + 1 - 127) with
    | some i => i + 1
    | none => 254

/-- The greater of two nonnegative values. -/
def maxScaled (x y : Nat × Int) : Nat × Int := if leScaled x.1 x.2 y.1 1 y.2 then y else x

/-- Quantise the elements of one tile: E_hi, E_lo, the elements and the flags (R110, R125). -/
def Kbf.quantise (k : Kbf) (xs : List FVal) : Nat × Nat × List Nat × Nat :=
  if xs.any fun x => match x with | .fin .. => false | _ => true then
    (0xFF, 0, xs.map fun _ => 0, flagQntNonfinite ||| snanFlag xs)
  else
    let mag := fun (x : FVal) => match x with | .fin _ m e => (m, e) | _ => (0, 0)
    let top := (xs.map mag).foldl maxScaled (0, 0)
    let ehi := k.fit top.1 top.2
    let hi := fun (x : FVal) =>
      decide (ehi ≠ 0) && leScaled 1 ((ehi : Int) - 127 - k.g) (mag x).1 1 (mag x).2
    let low := ((xs.filter fun x => !hi x).map mag).foldl maxScaled (0, 0)
    let elo := k.fit low.1 low.2
    let one := fun (x : FVal) =>
      let e := if hi x then ehi else elo
      let (m, ex) := mag x
      let (r, inex) := roundTo 0 false (m * k.sc) (ex + 127 - e) 0
      let big := decide (r > k.mmax)
      let q := if big then k.mmax else r
      let el := if q = 0 then 0
        else q + (if x.isNeg then 2 ^ (k.bits - 2) else 0) + (if hi x then 2 ^ (k.bits - 1) else 0)
      (el, (if big then flagQntSaturated + flagNX else 0) ||| (if inex then flagNX else 0))
    let rs := xs.map one
    (ehi, elo, rs.map (·.1), rs.foldl (fun a r => a ||| r.2) 0)

/-- The F32 bits of a decoded block-float element: exact (R126). -/
def kbfToF32 (x : FVal) : Nat := (f32.convert ⟨0, false, false⟩ x).1

end Sys2Proof.Machine
end

