-- ==== Sys2Proof/Machine/Translate.lean ====
section
/-!
DEFINITION. Translation (07_memory.md R131, R134, R135; 21_host.md R357), the value of a byte at its home (07 R145,
11_versions.md R208, R210) and the fetch of code (02_encoding.md R20).
-/

namespace Sys2Proof.Machine

/-- The devices of the fabric configuration (R135). -/
def Fabric.present (f : Fabric) (dev : Nat) : Bool :=
  if f.wiring = 16 then decide (dev < 16) else if f.wiring = 8 then decide (dev < 8) else dev == f.device

/-- What a physical address names (R131). -/
inductive Target where
  | mem (pa : Nat)              -- local device memory
  | peer (dev off : Nat)        -- the peer aperture, the device itself included
  | host (addr : Nat)
  deriving DecidableEq, Repr

def targetOf (pa : Nat) : Target :=
  match pa / 2 ^ 46 % 4 with
  | 0 => .mem pa
  | 1 => .peer (pa / 2 ^ 42 % 16) (pa % 2 ^ 42)
  | _ => .host (pa % 2 ^ 46)

/-- Whether a leaf's physical address names a target (R131, R135). -/
def Fabric.mapped (f : Fabric) (pa : Nat) : Bool :=
  match pa / 2 ^ 46 % 4 with
  | 0 => decide (pa < memTop)
  | 1 => decide (pa % 2 ^ 42 < memTop) && f.present (pa / 2 ^ 42 % 16)
  | 2 => true
  | _ => false

/-- Whether a KEYID is allocated to a function (R357). -/
def State.keyOf (s : State) (key fn : Nat) : Bool := s.fw.keys.any fun k => k.id == key && k.fn == fn

/-- The number that stands for the key of a KEYID: 0 the device key, 1 the zeroed key of an identifier that no one
holds (R355), else the allocation's own (log 9). -/
def State.keySerial (s : State) (key : Nat) : Nat :=
  if key = 0 then 0 else ((s.fw.keys.find? fun k => k.id == key).map (·.serial)).getD 1

/-- A leaf entry at a level whose page has sh address bits (R134, R135, R357). -/
def State.leaf (s : State) (c : Context) (pte sh va : Nat) : Xlat :=
  let pa := bitsOf pte 47 16 * 2 ^ 16
  let key := bitsOf pte 57 48
  let loc := pa / 2 ^ 46 % 4 == 0
  if bitOf pte 4 || bitsOf pte 11 7 != 0 || bitsOf pte 15 12 != 0 || bitsOf pte 63 58 != 0
      || bitsOf pte 6 5 == 3 || pa % 2 ^ sh != 0 || (!loc && key != 0)
      || (loc && c.fn != 0 && !s.keyOf key c.fn) then .malformed
  else if !s.fab.mapped pa then .unmapped
  else .ok (pa + va % 2 ^ sh / 2 ^ 16 * 2 ^ 16) key (bitOf pte 2) (bitOf pte 3)

/-- The walk from the table at t with n levels left (R135). -/
def State.walkFrom (s : State) (c : Context) (va : Nat) : Nat → Nat → Xlat
  | 0, _ => .malformed
  | n + 1, t =>
    let sh := 16 + 9 * n
    let pte := ofLe (s.mem.read (s.keySerial c.key) (t + 8 * (va / 2 ^ sh % 512)) 8)
    if !bitOf pte 0 then .invalid
    else if bitOf pte 1 then (if n = 3 then .malformed else s.leaf c pte sh va)
    else
      let t' := bitsOf pte 47 12 * 2 ^ 12
      if n = 0 || bitsOf pte 11 2 != 0 || bitsOf pte 63 48 != 0 || !isLocal t' 4096 then .malformed
      else State.walkFrom s c va n t'

/-- Walk the four-level table of a context for the 64 KiB block that holds an address (R135). -/
def State.walk (s : State) (c : Context) (va : Nat) : Xlat := s.walkFrom c va 4 c.root

/-- Translate for a core: a translation the core has cached may be used in place of the table's present answer
(R135; which, is a free choice: log 11). -/
def State.translate (s : State) (core : Nat) (c : Context) (va : Nat) : Xlat × State :=
  let page := va / 2 ^ 16
  let now := s.walk c va
  let keep := fun (x : Xlat) (t : State) => match x with
    | .ok .. => { t with tlb := ⟨core, c.id, page, x⟩ :: t.tlb.filter fun e => !(e.core == core && e.ctx == c.id && e.page == page) }
    | _ => t
  match s.tlb.find? fun e => e.core == core && e.ctx == c.id && e.page == page with
  | none => (now, keep now s)
  | some e =>
    if e.xl = now then (now, s)
    else if Config.useCached s.free then (e.xl, { s with free := s.free + 1 })
    else (now, keep now { s with free := s.free + 1 })

/-- The physical address of a byte of the block a translation names. -/
def Xlat.addr (pageBase va : Nat) : Nat := pageBase + va % 2 ^ 16

/-- The window of the device that admits an access by a source device (R336). -/
def Fabric.admits (f : Fabric) (src off n : Nat) (write : Bool) : Option Window :=
  f.windows.toList.find? fun w =>
    w.on && w.src == src && decide (w.base ≤ off ∧ off + n ≤ w.limit) && (!write || w.w)

/-- Bytes that the outside supplies and the spec cannot know: free values (log 5). -/
def freeBytes (seed n : Nat) : List Byte := (List.range n).map fun i => (Config.freeWord (seed + i)).setWidth 8

/-- The value of one byte of a line at version v: the newest record not above v that holds it, else memory (R210). -/
def Region.byteAt (r : Region) (va v : Nat) (m : Byte) : Byte :=
  match leastBy (fun (x : VRec) => 0xFFFF_FFFF - x.ver)
      (r.recs.filter fun x => x.line == va / 128 && decide (x.ver ≤ v) && x.mask.getLsbD (va % 128)) with
  | none => m
  | some x => x.data[va % 128]?.getD 0

/-- Bytes at an address of a live region at version v (R208, R210). -/
def Region.valueAt (r : Region) (va v : Nat) (bytes : List Byte) : List Byte :=
  (List.range bytes.length).map fun i => r.byteAt (va + i) v (bytes.getD i 0)

/-- What an access to global memory meets at its home. -/
inductive Home where
  | bytes (bs : List Byte)
  | poisoned
  | denied                 -- no fabric window admits the device's own access (R131, R336)
  | remote (dev off : Nat)
  deriving DecidableEq, Repr

/-- Read bytes of one line at their home, as a plain load does: in a live region the version that the slice's copy of P
gives (R208). -/
def State.readHome (s : State) (ctx va pa key n : Nat) : Home :=
  match targetOf pa with
  | .host a => .bytes (s.host.read a n)
  | .peer d off =>
    if d = s.fab.device then
      match s.fab.admits d off n false with
      | none => .denied
      | some w => if s.mem.poisoned off n then .poisoned else .bytes (s.mem.read (s.keySerial w.key) off n)
    else .remote d off
  | .mem pa =>
    if s.mem.poisoned pa n then .poisoned
    else
      let bs := s.mem.read (s.keySerial key) pa n
      match s.regionAt ctx va with
      | none => .bytes bs
      | some r => .bytes (r.valueAt va (r.copyAt pa).1 bs)

/-- An access reaches the home slice of a line of a live region: where the slice has yet to acknowledge the home's P and F,
it may have done so by now (R213, R214; free choice, log 5). -/
def State.reachSlice (s : State) (ctx va pa : Nat) : State :=
  match targetOf pa, s.regionAt ctx va with
  | .mem a, some r =>
    if r.copyAt a = (r.pub, r.floor) then s
    else
      let t : State := { s with free := s.free + 1 }
      if Config.pick s.free % 2 = 0 then t else t.modRegion r.launch r.num fun r => r.syncAt a
  | _, _ => s

/-- Write bytes of one line at their home. A partial write leaves a poisoned sector poisoned (R313). -/
def State.writeHome (s : State) (pa key : Nat) (bs : List Byte) : State :=
  match targetOf pa with
  | .host a => { s with host := s.host.write a bs }
  | .peer d off =>
    if d = s.fab.device then
      match s.fab.admits d off bs.length true with
      | none => s
      | some w => { s with mem := (s.mem.write (s.keySerial w.key) off bs).unpoison off bs.length }
    else s
  | .mem pa => { s with mem := (s.mem.write (s.keySerial key) pa bs).unpoison pa bs.length }

/-- Report a faulting page to its function, once while anything waits on it (R146, R358). tag is an engine command's
tag, or 0. -/
def State.report (s : State) (ctx core va : Nat) (kind : W64) (cmd : Option Nat) (tag : Nat) : State :=
  if s.reports.any fun r => r.ctx == ctx && r.page == va / 2 ^ 16 then s
  else
    let id := s.nextId
    let fn := ((s.context? ctx).map (·.fn)).getD 0
    { s.fresh with reports := s.reports ++ [(⟨id, ctx, core, va / 2 ^ 16, cmd⟩ : Report)] }.post fn
      (event 0 0x10 [BitVec.ofNat 64 (ctx % 2 ^ 16 + core % 2 ^ 16 * 2 ^ 16 + id % 2 ^ 32 * 2 ^ 32),
        BitVec.ofNat 64 (va / 2 ^ 16 * 2 ^ 16), kind, BitVec.ofNat 64 tag, BitVec.ofNat 64 va])

/-- What a code fetch gives (R20, R146, R147, R312). -/
inductive Fetched where
  | word (w : W64)
  | park (reason : Nat)
  | cause (c : Cause)
  | peer                   -- in a peer's memory, and its line has not been fetched
  deriving DecidableEq, Repr

/-- Fetch the 8-byte word at a code offset for a core: through the context's tables, from a page with X. A word in a
peer's memory is that of the line which the core has fetched from it. A store to code that has been performed is seen by
every later fetch, one of the two answers that R57 allows (DESIGN CHOICE, log 30); a line of a peer's memory keeps the old
value until a TLB_INVAL. -/
def State.fetch (s : State) (core : Nat) (l : Launch) (off : Nat) : Fetched × State :=
  match s.context? l.ctx with
  | none => (.cause .paUnmapped, s)
  | some c =>
    let va := l.codeVa off
    let (x, s) := s.translate core c va
    match x with
    | .invalid => (.park 0, s)
    | .malformed => (.cause .pteMalformed, s)
    | .unmapped => (.cause .paUnmapped, s)
    | .ok pa key _ xb =>
      if !xb then (.park 2, s)
      else match s.readHome c.id va (Xlat.addr pa va) key 8 with
        | .bytes bs => (.word (BitVec.ofNat 64 (ofLe bs)), s)
        | .poisoned => (.cause .mcFetchPoison, s)
        | .denied => (.cause .fabricAccessDenied, s)
        | .remote _ _ =>
          match s.codebuf.find? fun k => k.core == core && k.ctx == c.id && k.line == va / 128 with
          | some k => (.word (BitVec.ofNat 64 (ofLe ((k.bytes.drop (va % 128)).take 8))), s)
          | none => (.peer, s)

/-- The word at a code offset as a core would fetch it, or none when it cannot be read: for the checks of R64. -/
def State.peekCode (s : State) (core : Nat) (l : Launch) (off : Nat) : Option W64 :=
  match (s.fetch core l off).1 with
  | .word w => some w
  | _ => none

/-! ### Clause headers (R19, R20) -/

def hdrTag (w : W64) : Nat := (w.extractLsb' 56 8).toNat
def hdrCls (w : W64) : Nat := (w.extractLsb' 52 4).toNat
def hdrCnt (w : W64) : Nat := (w.extractLsb' 48 4).toNat
def hdrMask (w : W64) : Nat := (w.extractLsb' 40 8).toNat
def hdrWlc (w : W64) : Nat := (w.extractLsb' 32 8).toNat
def hdrWsc (w : W64) : Nat := (w.extractLsb' 24 8).toNat
def hdrWmc (w : W64) : Nat := (w.extractLsb' 16 8).toNat

/-- The cause that a word standing as a header at an offset raises, if any (R20). -/
def headerCause (w : W64) (off codeSize : Nat) : Option Cause :=
  if hdrTag w ≠ 0xFF ∨ hdrCls w ≥ 9 ∨ hdrMask w ≥ 16 ∨ (w.extractLsb' 0 16) ≠ 0 ∨ off ≥ codeSize then
    some .badClauseHeader
  else if off + 8 * (hdrCnt w + 2) > codeSize then some .clauseOverrun
  else none

/-- Whether a target passes R64: a multiple of 8 below code_size naming a word that passes R20. A header that would raise
CLAUSE_OVERRUN fails R20 too, so that the transfer raises BAD_BRANCH_TARGET (DESIGN CHOICE, log 30). A word that cannot be
read now is left to the fetch at the target (R30: fetch faults at the target are memory causes). -/
def State.targetOk (s : State) (core : Nat) (l : Launch) (t : Nat) : Bool :=
  l.offsetOk t && match s.peekCode core l t with
    | none => true
    | some w => (headerCause w t l.lr.codeSize).isNone

end Sys2Proof.Machine
end

