-- ==== Sys2Proof/Machine/Control.lean ====
section
/-!
DEFINITION. The control instructions (04_control.md R58 to R78): 0x00 to 0x0D.
-/

namespace Sys2Proof.Machine

/-- The header a J-form target names: off32 words from the header of the instruction's clause (R30). -/
def Ctx.jTarget (c : Ctx) (off : W32) : W32 := c.iss.hdr + 8#32 * off

/-- Whether a lane's target passes R64. A target read from a scalar register must have bits 63:32 zero. -/
def Ctx.okTarget (c : Ctx) (s : State) (a : Opnd) (t : W32) : Bool :=
  (!a.isS || (c.sval a).extractLsb' 32 32 == 0) && s.targetOk c.b.core c.l t.toNat

/-- Send the lanes of m to their targets; every target is checked before any PC changes, and the lanes whose targets
fail take BAD_BRANCH_TARGET (R30, R64). f changes the group before the lanes move. -/
def Ctx.jump (c : Ctx) (s : State) (m : Mask) (a : Opnd) (t : Nat → W32) (f : Group → Group) : Res :=
  let bad := maskOf fun l => inMask m l && !c.okTarget s a (t l)
  if bad ≠ 0 then .cause .badBranchTarget bad
  else .done (s.modGroup c.iss.blk c.iss.grp fun g => (f g).modLanes m fun l x => x.goto (t l)) m

/-- The header of the next clause, which a call writes as its link (R74). -/
def Ctx.link (c : Ctx) : W32 := c.iss.nextHdr

/-- NOP has no effect and takes its issue cycle (R73). -/
def execNop (_ : VForm) (s : State) : Host.Outcome State Fault Refusal := s.issue fun _ s => .done s 0

/-- BRA (R73). -/
def execBra (x : JForm) (s : State) : Host.Outcome State Fault Refusal :=
  s.issue fun c s => c.jump s (c.on x.g) .none (fun _ => c.jTarget x.off) id

/-- The truth of BRC's register: a scalar on all 64 bits, a vector on its 32 (R73). -/
def Ctx.nonzero (c : Ctx) (a : Opnd) (l : Nat) : Bool := if a.isS then c.sval a != 0 else c.val a l != 0

/-- BRC (R73). -/
def execBrc (x : JForm) (s : State) : Host.Outcome State Fault Refusal :=
  s.issue fun c s =>
    c.jump s (maskOf fun l => inMask (c.on x.g) l && c.nonzero x.a l) .none (fun _ => c.jTarget x.off) id

/-- BRI (R73). -/
def execBri (x : VForm) (s : State) : Host.Outcome State Fault Refusal :=
  s.issue fun c s => c.jump s (c.on x.g) x.a (fun l => c.val x.a l) id

/-- CALL (R74). -/
def execCall (x : JForm) (s : State) : Host.Outcome State Fault Refusal :=
  s.issue fun c s =>
    c.jump s (c.on x.g) .none (fun _ => c.jTarget x.off) fun g => g.putO (c.on x.g) x.d fun _ => c.link

/-- CALLI (R74): d is written after a is read, so d may equal a. -/
def execCalli (x : VForm) (s : State) : Host.Outcome State Fault Refusal :=
  s.issue fun c s =>
    c.jump s (c.on x.g) x.a (fun l => c.val x.a l) fun g => g.putO (c.on x.g) x.d fun _ => c.link

/-- RET has exactly the effect of BRI (R73). -/
def execRet (x : VForm) (s : State) : Host.Outcome State Fault Refusal :=
  s.issue fun c s => c.jump s (c.on x.g) x.a (fun l => c.val x.a l) id

/-- SETMT (R75): none needs no check. -/
def execSetmt (x : JForm) (s : State) : Host.Outcome State Fault Refusal :=
  s.issue fun c s =>
    let m := c.on x.g
    let v := fun l => if x.a = .none then c.jTarget x.off else c.val x.a l
    let bad := maskOf fun l => inMask m l && v l != noneWord && !c.okTarget s x.a (v l)
    if bad ≠ 0 then .cause .badBranchTarget bad
    else c.doneG s fun g => g.modLanes m fun l y => { y with mt := v l }

/-- GETMT, or the shadow mt of the handler's lanes with .SHADOW (R75). -/
def execGetmt (x : VForm) (s : State) : Host.Outcome State Fault Refusal :=
  s.issue fun c s => c.vec s x.g x.d fun l =>
    let y := c.r.lane l
    if x.sub = 0 then y.mt else if y.inTrap then y.smt else noneWord

/-- BRPK (R68, R69): guard-true lanes take the J target and the others the next clause; all wait at the rendezvous. A
prunable thread, a thread of a task group and a handler lane raise BRPK_ILLEGAL (R307). It moves the guard-false lanes too, so each
shielded lane of the set takes SHIELD_ILLEGAL (DEDUCED, log 44). -/
def execBrpk (x : JForm) (s : State) : Host.Outcome State Fault Refusal :=
  s.issueN 1 (·.iss.lanes) fun c s =>
    let m := c.on x.g
    let t := c.jTarget x.off
    let bad := if c.okTarget s .none t then 0 else m
    let ill := maskOf fun l => inMask c.iss.lanes l && ((c.r.lane l).ben || c.g.task || (c.r.lane l).inTrap)
    if bad ≠ 0 ∨ ill ≠ 0 then .raise [(.badBranchTarget, bad), (.brpkIllegal, ill)] 0 false
    else .done (s.modGroup c.iss.blk c.iss.grp fun g => g.modLanes c.iss.lanes fun l y =>
      { y with st := .brpk (if inMask m l then t else c.iss.nextHdr) }) c.iss.lanes

/-- DEMOTE (R67). -/
def execDemote (x : VForm) (s : State) : Host.Outcome State Fault Refusal :=
  s.issue fun c s => c.doneG s fun g => g.modLanes (c.on x.g) fun _ y => { y with helper := true }

/-- EXIT (R76). -/
def execExit (x : VForm) (s : State) : Host.Outcome State Fault Refusal :=
  s.issue fun c s => .done (s.modGroup c.iss.blk c.iss.grp fun g => g.modLanes (c.on x.g) fun _ y =>
    { y with st := .exited false, wins := [], shield := 0, yielded := false }) (c.on x.g)

/-- YIELD flags the lanes (R62). -/
def execYield (x : VForm) (s : State) : Host.Outcome State Fault Refusal :=
  s.issue fun c s => c.doneG s fun g => g.modLanes (c.on x.g) fun _ y => { y with yielded := true }

/-- SLEEP for max(imm, 1) cc from its issue (R76). -/
def execSleep (x : KForm) (s : State) : Host.Outcome State Fault Refusal :=
  s.issueN 1 (·.on x.g) fun c s => c.doneG s fun g => g.modLanes (c.on x.g) fun _ y =>
    { y with st := .sleeping (s.cc + max x.imm.toNat 1) }

end Sys2Proof.Machine
end

