-- ==== Sys2Proof/Machine/Integer.lean ====
section
/-!
DEFINITION. Scalar and vector integer instructions (05_integer_crosslane.md R85 to R96): 0x10 to 0x33.
-/

namespace Sys2Proof.Machine

/-- Open a lookahead window of la instructions over the instruction id for the lanes of m (R35). -/
def Group.window (g : Group) (m : Mask) (id : Nat) (la : BitVec 4) : Group :=
  if la = 0 then g else g.modLanes m fun _ y => { y with wins := y.wins ++ [(id, la.toNat)] }

/-- The lanes in which an instruction opens its window: of a scalar result, which is pending for every thread, those of the
whole set that issues it; else those it acts for, the others having nothing pending from it (R35; DEDUCED, log 44). -/
def Ctx.windowLanes (c : Ctx) (m : Mask) (sregs : List Nat) : Mask := if sregs.isEmpty then m else c.iss.lanes

/-- A variable-latency instruction whose result is computed at issue: its registers are pending until RESULT_LAND
writes it (R34). -/
def Ctx.later (c : Ctx) (s : State) (la : BitVec 4) (m : Mask) (vregs sregs : List Nat) (writes : List (Dest × W64))
    (f : Group → Group) : Res :=
  if m = 0 then .done s 0
  else
    let i : Insn := ⟨s.nextId, .none, c.iss.pc, m, vregs, sregs, writes, true⟩
    .done (s.fresh.modGroup c.iss.blk c.iss.grp fun g =>
      { f g with insns := g.insns ++ [i] }.window (c.windowLanes m sregs) s.nextId la) 0

/-- Source a of a scalar instruction with its modifiers, and a plain source (R86). -/
def Ctx.sa (c : Ctx) (x : VForm) : Int := nasInt x.nas (readInt x.fmt.toNat (c.sval x.a))
def Ctx.sb (c : Ctx) (x : VForm) : Int := readInt x.fmt.toNat (c.sval x.b)

/-- Sources of a vector instruction in lane l (R86). -/
def Ctx.vi (c : Ctx) (fmt : BitVec 4) (o : Opnd) (l : Nat) : Int := readInt fmt.toNat ((c.val o l).setWidth 64)
def Ctx.va (c : Ctx) (x : VForm) (l : Nat) : Int := nasInt x.nas (c.vi x.fmt x.a l)
def Ctx.vb (c : Ctx) (x : VForm) (l : Nat) : Int := c.vi x.fmt x.b l
def Ctx.vc (c : Ctx) (x : VForm) (l : Nat) : Int := c.vi x.fmt x.c l

/-- A scalar result reduced to the format (R86). -/
def Ctx.sres (c : Ctx) (s : State) (x : VForm) (r : Int) : Res := c.scal s x.g x.d (reduceInt x.fmt.toNat x.sat r)

/-- A vector result reduced to the format (R86). -/
def Ctx.vres (c : Ctx) (s : State) (x : VForm) (r : Nat → Int) : Res :=
  c.vec s x.g x.d fun l => (reduceInt x.fmt.toNat x.sat (r l)).setWidth 32

def subN (x : VForm) : Nat := x.sub.toNat

/-- SADD: x + y (R88). -/
def execSadd (x : VForm) (s : State) : Host.Outcome State Fault Refusal :=
  s.issue fun c s => c.sres s x (c.sa x + c.sb x)

/-- SSUB: x − y (R88). -/
def execSsub (x : VForm) (s : State) : Host.Outcome State Fault Refusal :=
  s.issue fun c s => c.sres s x (c.sa x - c.sb x)

/-- SMUL: the low or high half of the product (R88). -/
def execSmul (x : VForm) (s : State) : Host.Outcome State Fault Refusal :=
  s.issue fun c s => c.sres s x (mulInt x.fmt.toNat (subN x == 1) (c.sa x) (c.sb x))

/-- SDIV (R90): its destination is pending for every thread of the group. -/
def execSdiv (x : VForm) (s : State) : Host.Outcome State Fault Refusal :=
  s.issue fun c s =>
    c.later s x.la (c.on x.g) [] [x.d.snum]
      [(.s x.d.snum, divResult x.fmt.toNat x.sat (subN x == 1) (c.sa x) (c.sb x))] id

/-- SLOG acts on the whole register (R88). -/
def execSlog (x : VForm) (s : State) : Host.Outcome State Fault Refusal :=
  s.issue fun c s => c.scal s x.g x.d (logic (subN x) (c.sval x.a) (c.sval x.b))

/-- The count of a shift: y read unsigned (R88). -/
def countOf (fmt : BitVec 4) (y : Int) : Nat := (y % 2 ^ fmtW fmt.toNat).toNat

/-- SSH (R88). -/
def execSsh (x : VForm) (s : State) : Host.Outcome State Fault Refusal :=
  s.issue fun c s =>
    c.scal s x.g x.d (shiftResult x.fmt.toNat (subN x) x.sat (c.sa x) (countOf x.fmt (c.sb x)))

/-- SMNX (R88). -/
def execSmnx (x : VForm) (s : State) : Host.Outcome State Fault Refusal :=
  s.issue fun c s => c.sres s x (if subN x = 0 then min (c.sa x) (c.sb x) else max (c.sa x) (c.sb x))

/-- SCMP: 0 or 1 to an S register, or all 32 bits of a predicate (R88). -/
def execScmp (x : VForm) (s : State) : Host.Outcome State Fault Refusal :=
  s.issue fun c s => c.scal s x.g x.d (if relInt (subN x) (c.sa x) (c.sb x) then 1 else 0)

/-- SSEL: a if c ≠ 0, else b, on all 64 bits (R88). -/
def execSsel (x : VForm) (s : State) : Host.Outcome State Fault Refusal :=
  s.issue fun c s => c.scal s x.g x.d (if c.sval x.c ≠ 0 then c.sval x.a else c.sval x.b)

/-- SMOVK: a sign-extended immediate, or an immediate into the high half (R93). -/
def execSmovk (x : KForm) (s : State) : Host.Outcome State Fault Refusal :=
  s.issue fun c s =>
    c.scal s x.g x.d (if x.a = .none then x.imm.signExtend 64 else x.imm ++ (c.sval x.a).extractLsb' 0 32)

/-- A lane's register as another lane reads it: a lane outside the handler's mask supplies zero to handler lanes
(R307). -/
def Ctx.inactive (c : Ctx) (l : Nat) : Bool :=
  c.g.inTrap && (lanesOf c.iss.lanes).any (fun k => (c.r.lane k).inTrap) && !(c.r.lane l).inTrap

/-- The lowest lane of a mask. -/
def lowest (m : Mask) : Nat := (lanesOf m).headD 0

/-- The lane that SRDL and VBCST read: b mod 32, or the lowest guard-true lane (R93, R100). -/
def Ctx.lane1 (c : Ctx) (g : BitVec 4) (b : Opnd) : Nat :=
  if b = .none then lowest (c.on g) else (c.sval b).toNat % 32

/-- SRDL reads lane L's register as it stands, whatever that thread's state (R93). -/
def execSrdl (x : VForm) (s : State) : Host.Outcome State Fault Refusal :=
  s.issue fun c s =>
    let k := c.lane1 x.g x.b
    let w : W32 := if c.inactive k then 0 else (c.r.lane k).vreg x.a.vnum
    c.scal s x.g x.d (if x.fmt = 0 then w.signExtend 64 else w.setWidth 64)

/-- SBIT (R88). -/
def execSbit (x : VForm) (s : State) : Host.Outcome State Fault Refusal :=
  s.issue fun c s => c.sres s x (bitInt x.fmt.toNat (subN x) (c.sval x.a).toNat)

/-- The block's tile of a grouped launch: group and tile (R55, R201). -/
def Ctx.tile (c : Ctx) : Nat × Nat :=
  if c.l.lr.grouped then c.l.lr.tiles.getD c.b.x (0, 0) else (0, c.b.x)

/-- The grid's extent along x (R55). -/
def LRec.extentX (r : LRec) : Nat := if r.grouped then r.tiles.length else r.gridX

/-- The value that SGET reads (R94). -/
def Ctx.sget (c : Ctx) (s : State) (sub : Nat) : Nat :=
  match sub with
  | 0 => c.b.x
  | 1 => c.b.y
  | 2 => c.b.z
  | 3 => c.l.lr.extentX
  | 4 => c.l.lr.gridY
  | 5 => c.l.lr.gridZ
  | 6 => c.iss.grp
  | 7 => c.l.lr.groups
  | 8 => c.b.core0
  | 9 => s.cc
  | 10 => c.l.lr.parBase
  | 11 => c.b.x % c.l.lr.cluster
  | 12 => c.tile.1
  | _ => c.tile.2

/-- SGET (R94). -/
def execSget (x : VForm) (s : State) : Host.Outcome State Fault Refusal :=
  s.issue fun c s => c.scal s x.g x.d (BitVec.ofNat 64 (c.sget s (subN x)))

/-- The exact sum or difference of the carry forms, with the carry or borrow in (R89). -/
def Ctx.carrySum (c : Ctx) (x : VForm) (sub : Bool) (l : Nat) : Int :=
  let a : Int := (c.val x.a l).toNat
  let b : Int := (c.val x.b l).toNat
  let cin : Int := if subN x = 1 ∨ subN x = 3 then (c.val x.c l).toNat else 0
  if sub then a - b - cin else a + b + cin

/-- VIADD and VISUB: the plain sum, or the carry forms: CI gives the 32-bit word, CO and CIO bit 32 (R88, R89). -/
def Ctx.addSub (c : Ctx) (s : State) (x : VForm) (sub : Bool) : Res :=
  match subN x with
  | 0 => c.vres s x fun l => if sub then c.va x l - c.vb x l else c.va x l + c.vb x l
  | 1 => c.vec s x.g x.d fun l => BitVec.ofInt 32 (c.carrySum x sub l)
  | _ => c.vec s x.g x.d fun l => if c.carrySum x sub l < 0 ∨ c.carrySum x sub l ≥ 2 ^ 32 then 1 else 0

/-- VIADD (R88, R89). -/
def execViadd (x : VForm) (s : State) : Host.Outcome State Fault Refusal := s.issue fun c s => c.addSub s x false

/-- VISUB (R88, R89). -/
def execVisub (x : VForm) (s : State) : Host.Outcome State Fault Refusal := s.issue fun c s => c.addSub s x true

/-- VIMUL (R88). -/
def execVimul (x : VForm) (s : State) : Host.Outcome State Fault Refusal :=
  s.issue fun c s => c.vres s x fun l => mulInt x.fmt.toNat (subN x == 1) (c.va x l) (c.vb x l)

/-- VIMAD: x × y + z (R88). -/
def execVimad (x : VForm) (s : State) : Host.Outcome State Fault Refusal :=
  s.issue fun c s => c.vres s x fun l => c.va x l * c.vb x l + c.vc x l

/-- VIDIV (R90). -/
def execVidiv (x : VForm) (s : State) : Host.Outcome State Fault Refusal :=
  s.issue fun c s =>
    c.later s x.la (c.on x.g) [x.d.vnum] []
      ((lanesOf (c.on x.g)).map fun l =>
        (.v x.d.vnum l, divResult x.fmt.toNat x.sat (subN x == 1) (c.va x l) (c.vb x l))) id

/-- VLOG acts on the whole register (R88). -/
def execVlog (x : VForm) (s : State) : Host.Outcome State Fault Refusal :=
  s.issue fun c s => c.vec s x.g x.d fun l => logic (subN x) (c.val x.a l) (c.val x.b l)

/-- VSH (R88). -/
def execVsh (x : VForm) (s : State) : Host.Outcome State Fault Refusal :=
  s.issue fun c s => c.vec s x.g x.d fun l =>
    (shiftResult x.fmt.toNat (subN x) x.sat (c.va x l) (countOf x.fmt (c.vb x l))).setWidth 32

/-- VMNX (R88). -/
def execVmnx (x : VForm) (s : State) : Host.Outcome State Fault Refusal :=
  s.issue fun c s => c.vres s x fun l => if subN x = 0 then min (c.va x l) (c.vb x l) else max (c.va x l) (c.vb x l)

/-- VBIT (R88). -/
def execVbit (x : VForm) (s : State) : Host.Outcome State Fault Refusal :=
  s.issue fun c s => c.vres s x fun l => bitInt x.fmt.toNat (subN x) (c.val x.a l).toNat

/-- The field of VBFX and VBFI: position, and length clipped to the word; none when nothing is selected (R91). -/
def fieldOf (w : W32) : Option (Nat × Nat) :=
  let pos := (w.extractLsb' 0 8).toNat
  let len := (w.extractLsb' 8 8).toNat
  if pos ≥ 32 ∨ len = 0 then none else some (pos, min len (32 - pos))

/-- VBFX (R91). -/
def execVbfx (x : VForm) (s : State) : Host.Outcome State Fault Refusal :=
  s.issue fun c s => c.vec s x.g x.d fun l =>
    match fieldOf (c.val x.b l) with
    | none => 0
    | some (pos, len) =>
      let f := (c.val x.a l).toNat / 2 ^ pos % 2 ^ len
      if x.fmt = 0 ∧ f ≥ 2 ^ (len - 1) then BitVec.ofInt 32 ((f : Int) - 2 ^ len) else BitVec.ofNat 32 f

/-- VBFI (R91). -/
def execVbfi (x : VForm) (s : State) : Host.Outcome State Fault Refusal :=
  s.issue fun c s => c.vec s x.g x.d fun l =>
    match fieldOf (c.val x.c l) with
    | none => c.val x.a l
    | some (pos, len) =>
      let mask : W32 := BitVec.ofNat 32 ((2 ^ len - 1) * 2 ^ pos)
      (c.val x.a l &&& ~~~mask) ||| ((c.val x.b l <<< pos) &&& mask)

/-- VICMP: 0 or 1, or the bit of each lane it writes (R88). -/
def execVicmp (x : VForm) (s : State) : Host.Outcome State Fault Refusal :=
  s.issue fun c s => c.vec s x.g x.d fun l => if relInt (subN x) (c.va x l) (c.vb x l) then 1 else 0

/-- VSEL: a if bit lane of c is 1, else b (R88). -/
def execVsel (x : VForm) (s : State) : Host.Outcome State Fault Refusal :=
  s.issue fun c s => c.vec s x.g x.d fun l => if c.val x.c l ≠ 0 then c.val x.a l else c.val x.b l

/-- VMOV (R88). -/
def execVmov (x : VForm) (s : State) : Host.Outcome State Fault Refusal :=
  s.issue fun c s => c.vres s x fun l => c.va x l

/-- VMOVK (R93). -/
def execVmovk (x : KForm) (s : State) : Host.Outcome State Fault Refusal :=
  s.issue fun c s => c.vec s x.g x.d fun _ => x.imm

/-- VLEA.SHk: a + y × 2^k + z (R92). -/
def execVlea (x : VForm) (s : State) : Host.Outcome State Fault Refusal :=
  s.issue fun c s => c.vres s x fun l => c.va x l + c.vb x l * 2 ^ subN x + (if x.c = .none then 0 else c.vc x l)

/-- VIADD64: a ± b over 64 bits (R91). -/
def execViadd64 (x : VForm) (s : State) : Host.Outcome State Fault Refusal :=
  s.issue fun c s => c.vec2 s x.g x.d fun l =>
    let a := readInt x.fmt.toNat (c.val64 x.a l)
    let b := readInt x.fmt.toNat (c.val64 x.b l)
    reduceInt x.fmt.toNat x.sat (if subN x = 0 then a + b else a - b)

/-- VIMUL64: the exact 64-bit product (R91). -/
def execVimul64 (x : VForm) (s : State) : Host.Outcome State Fault Refusal :=
  s.issue fun c s => c.vec2 s x.g x.d fun l => BitVec.ofInt 64 (c.vi x.fmt x.a l * c.vi x.fmt x.b l)

/-- VIEXT.WID and VIEXT.NAR (R91). -/
def execViext (x : VForm) (s : State) : Host.Outcome State Fault Refusal :=
  s.issue fun c s =>
    if subN x = 0 then c.vec2 s x.g x.d fun l => BitVec.ofInt 64 (c.vi x.fmt x.a l)
    else c.vec s x.g x.d fun l =>
      (reduceInt x.fmt.toNat x.sat (readInt (x.fmt.toNat + 2) (c.val64 x.a l))).setWidth 32

/-- A full 32-bit source reduced to the narrow format of VPACK (R91). -/
def Ctx.narrow (c : Ctx) (x : VForm) (o : Opnd) (l : Nat) : Nat :=
  let v := readInt (x.fmt.toNat % 2) ((c.val o l).setWidth 64)
  (reduceInt x.fmt.toNat x.sat v).toNat % 2 ^ fmtW x.fmt.toNat

/-- VPACK (R91). -/
def execVpack (x : VForm) (s : State) : Host.Outcome State Fault Refusal :=
  s.issue fun c s => c.vec s x.g x.d fun l =>
    let w := fmtW x.fmt.toNat
    let p := c.narrow x x.a l + c.narrow x x.b l * 2 ^ w
    let old := (c.val x.d l).toNat
    BitVec.ofNat 32 (match subN x with
      | 0 => p
      | 1 => old / 2 ^ 16 * 2 ^ 16 + p
      | _ => old % 2 ^ 16 + p * 2 ^ 16)

end Sys2Proof.Machine
end

