-- ==== Sys2Proof/Machine/Order.lean ====
section
/-!
DEFINITION. When an access is performed at a scope and what one thread's accesses must wait for (08_sync.md R170 to R177,
07_memory.md R143, R152, 05_integer_crosslane.md R103).
-/

namespace Sys2Proof.Machine

def Req.isDone (r : Req) : Bool := match r.phase with | .done => true | _ => false

def Req.isStore (r : Req) : Bool := match r.kind with | .store => true | .vnst _ => true | _ => false

def Req.isLoad (r : Req) : Bool := match r.kind with | .load => true | .vnld _ => true | _ => false

def Req.isAtomic (r : Req) : Bool := match r.kind with | .atomic .. => true | _ => false

def Req.isLdds (r : Req) : Bool := match r.kind with | .ldds => true | _ => false

/-- Whether a request is performed at a scope (R170): a global store on acceptance up to core scope, a mirror store at
its own copy up to block scope, a lane of an LDDS when its bytes are written and counted, so never while it stands here,
everything else when its home has performed it. -/
def Req.performedAt (r : Req) (scope : Nat) : Bool :=
  if r.kind = .fence then true else if r.isLdds then false else
  match r.space with
  | .mirror => r.isDone && (decide (scope ≤ 2) || r.acks.isEmpty)
  | .global => r.isDone || (r.isStore && decide (scope ≤ 3) && r.accepted)
  | _ => r.isDone

/-- Whether a request needs a page with W (R146). -/
def Req.needsW (r : Req) : Bool := match r.kind with | .store | .atomic .. | .vnst _ => true | _ => false

/-- Whether a request is an access of a thread of the group in a mask. -/
def Req.ofThreads (r : Req) (blk grp : Nat) (m : Mask) : Bool :=
  r.blk == blk && r.grp == grp && (r.threads &&& m) != 0

/-- A global request that the matrix engine or the retrieval unit makes, or that is made before its instruction issues,
for the threads of m. -/
def unitReq (id insn core blk grp : Nat) (m : Mask) (kind : ReqKind) (addr size : Nat) : Req where
  id := id
  insn := insn
  core := core
  blk := blk
  grp := grp
  threads := m
  takers := m
  ordered := m
  helper := false
  kind := kind
  space := .global
  addr := addr
  size := size
  order := 0
  scope := 0
  owner := none
  parts := [⟨lowest m, [], [], []⟩]
  dst := none
  sdst := none
  bdst := 0
  bar := 0
  unit := true
  kept := false
  acks := []
  phase := .issued

/-! ### Reads made before an instruction issues (R251, R260, R219) -/

/-- A range cut at 32 B sectors: addresses and lengths. -/
def cutSectors (va n : Nat) : List (Nat × Nat) :=
  (List.range ((va + n - 1) / 32 - va / 32 + 1)).map fun i =>
    let q := va / 32 + i
    (max va (32 * q), min (va + n) (32 * q + 32) - max va (32 * q))

/-- Whether the lanes that a read was begun for have all been cancelled. -/
def State.unread (s : State) (p : PreRead) : Bool :=
  ((s.group? p.blk p.grp).map fun g => (lanesOf p.lanes).all fun l => (g.lane l).cancelled).getD true

/-- Forget such a read and its requests. -/
def State.dropPre (s : State) (id : Nat) : State :=
  { s with
    pres := s.pres.filter fun p => p.id != id
    reqs := s.reqs.filter fun r => r.insn != id
    faults := s.faults.filter fun f => f.fetch.isSome || f.insn != id }

/-- Begin such a read: its requests go by sectors, with its number as their instruction. Those of code order nothing. -/
def State.beginPre (s : State) (p : PreRead) (core : Nat) (m : Mask) : State :=
  let rs := (cutSectors p.addr p.size).zipIdx.map fun (q : (Nat × Nat) × Nat) =>
    let r := unitReq (s.nextId + 1 + q.2) s.nextId core p.blk p.grp m (if p.code then .code else .load) q.1.1 q.1.2
    if p.code then { r with threads := 0 } else r
  { s with
    nextId := s.nextId + 1 + rs.length
    reqs := s.reqs ++ rs
    pres := s.pres ++ [{ p with id := s.nextId }] }

/-- The fetch of a line of code for a group from a peer's memory that is under way, or has failed. -/
def State.codePre (s : State) (blk grp line : Nat) : Option PreRead :=
  s.pres.find? fun p => p.blk == blk && p.grp == grp && p.code && p.addr == 128 * line

/-- Fetch the line that holds a code offset from a peer's memory, for the lanes m of a group that wait for it (R131). -/
def State.askCode (s : State) (b : Block) (l : Launch) (grp : Nat) (m : Mask) (off : Nat) : State :=
  let line := l.codeVa off / 128
  if (s.codePre b.id grp line).isSome then s
  else s.beginPre ⟨0, b.id, grp, m, BitVec.ofNat 32 off, true, 128 * line, 128, [], none, none⟩ b.core m

/-- The bytes of such a read, when all have returned. -/
def PreRead.bytes? (p : PreRead) : Option (List Byte) :=
  (cutSectors p.addr p.size).foldl (fun (a : Option (List Byte)) q =>
    match a, p.got.find? fun g => g.1 == q.1 with
    | some bs, some g => some (bs ++ g.2.take q.2)
    | _, _ => none) (some [])

/-- The read that a lane set has begun before the instruction at its PC issues. -/
def State.preAt (s : State) (c : Ctx) : Option PreRead :=
  s.pres.find? fun p => p.blk == c.iss.blk && p.grp == c.iss.grp && p.pc == c.iss.pc && !p.code
    && (p.lanes &&& c.iss.lanes) != 0

/-- Begin to read n bytes of global memory at va before the instruction issues, as a plain load of the threads of m. -/
def Ctx.beginRead (c : Ctx) (s : State) (m : Mask) (va n : Nat) (hf : Option Nat) : Res :=
  .wait (s.beginPre ⟨0, c.iss.blk, c.iss.grp, m, c.iss.pc, false, va, n, [], none, hf⟩ c.b.core m)

/-- Go on with the bytes of a read when all have come. A failure other than a fault that parks is raised by the instruction
itself, precisely (R251), under the name that the instruction gives it. -/
def Ctx.goOnRead (c : Ctx) (s : State) (m : Mask) (p : PreRead) (access : Nat) (name : Cause → Cause)
    (f : List Byte → State → Res) : Res :=
  match p.fail, p.bytes? with
  | some k, _ => .fail [(name k.1, m)] (BitVec.ofNat 64 k.2.1, fkindOf access k.2.2 (min p.size 128), c.iss.pc)
  | none, some bs => f bs (s.dropPre p.id)
  | none, none => .wait s

/-- Read n bytes of global memory at va before the instruction issues, and go on with them. A read of other bytes, which
the set's registers named before, is given up. -/
def Ctx.reading (c : Ctx) (s : State) (m : Mask) (va n access : Nat) (name : Cause → Cause) (f : List Byte → State → Res) :
    Res :=
  match s.preAt c with
  | none => c.beginRead s m va n none
  | some p => if p.addr ≠ va ∨ p.size ≠ n then .wait (s.dropPre p.id) else c.goOnRead s m p access name f

/-- Whether a matrix operation acts for threads of m in an instruction issued before number n. -/
def MtxOp.ofThreads (o : MtxOp) (blk grp : Nat) (m : Mask) (n : Nat) : Bool :=
  o.blk == blk && (o.insns.any fun i => i.1 == grp && decide (i.2 < n))
    && o.lanes.any fun p => p.1 == grp && (p.2 &&& m) != 0

/-- Whether an HPROBE, HINS or HDEL of threads of m, issued before number n, has not come to its end. -/
def Probe.ofThreads (p : Probe) (blk grp : Nat) (m : Mask) (n : Nat) : Bool :=
  p.blk == blk && p.grp == grp && decide (p.id < n) && (p.lanes &&& m) != 0

/-- Whether the matrix and retrieval operations issued before number n for threads of m have made their accesses: a TLD has
read its source and its bytes have landed in the A buffer, a TST and a probe have handed their stores on (R183, R199, R200,
R255). -/
def State.unitsQuiet (s : State) (blk grp : Nat) (m : Mask) (n : Nat) : Bool :=
  (s.mtxq.all fun o => !(o.ofThreads blk grp m n && match o.kind with
      | .tst => !o.started
      | .tld => !o.started || bitOf o.flags 0
      | _ => false))
    && s.probes.all fun p => !p.ofThreads blk grp m n

/-- Whether every earlier access of some threads is performed at a scope (R171, R172, R229). -/
def State.quiet (s : State) (blk grp : Nat) (m : Mask) (scope : Nat) : Bool :=
  (s.reqs.all fun r => !r.ofThreads blk grp m || r.performedAt scope) && s.unitsQuiet blk grp m s.nextId

/-- Whether every earlier load and atomic of some threads is performed (R172, .ACQ); the source of an LDDS is a plain load
(11_versions.md R208), and so are the reads of a TLD (R199) and of a probe. -/
def State.loadsQuiet (s : State) (blk grp : Nat) (m : Mask) : Bool :=
  (s.reqs.all fun r => !r.ofThreads blk grp m || !(r.isLoad || r.isAtomic || r.isLdds) || r.performedAt 1)
    && (s.mtxq.all fun o => !(o.ofThreads blk grp m s.nextId && decide (o.kind = .tld) && !o.started))
    && s.probes.all fun p => !p.ofThreads blk grp m s.nextId

/-- Whether two accesses overlap in one space (R152). -/
def Req.overlaps (r q : Req) : Bool :=
  decide (r.space = q.space) && decide (r.addr < q.addr + q.size ∧ q.addr < r.addr + r.size)

/-- Whether scratchpad bytes meet those that an LDDS is to write, which it has not written while it stands here (R140,
R152). -/
def Req.awaits (q : Req) (a n : Nat) : Bool := q.isLdds && decide (a < q.bdst + q.size ∧ q.bdst < a + n)

def Req.isRelease (r : Req) : Bool := (r.order == 2 || r.order == 3)
/-- An access with order acq or acq_rel (R171). -/
def Req.isAcquire (r : Req) : Bool := r.order == 1 || r.order == 3

/-- The requests accepted at a core and not yet performed at device scope (R177). -/
def State.acceptedAt (s : State) (core : Nat) : List Nat :=
  (s.reqs.filter fun r => r.owner.getD r.core == core && r.accepted && !r.performedAt 4).map (·.id)

/-- Whether every request of a list is performed at device scope, or has left. -/
def State.allPerformed (s : State) (ids : List Nat) : Bool :=
  s.reqs.all fun r => !ids.contains r.id || r.performedAt 4

/-- Whether request q precedes request r in the program order of a thread that makes both: instruction numbers give it. -/
def Req.before (q r : Req) : Bool :=
  (decide (q.insn < r.insn) || (q.insn == r.insn && decide (q.id < r.id))) && q.blk == r.blk && q.grp == r.grp
    && (q.threads &&& r.threads) != 0

/-- Whether an access orders a thread that it shares with another: a lane whose guard is false gets no ordering (R171). -/
def Req.orders (r q : Req) : Bool := (r.threads &&& r.ordered &&& q.threads) != 0

/-- Whether an acquire is not performed, or at a remote scope has not been answered (R171, R177). -/
def State.acquiring (s : State) (q : Req) : Bool :=
  q.isAcquire && (!q.isDone || (q.owner.isSome && !s.allPerformed q.acks))

/-- Whether request q holds back the later access r of its thread: an acquire holds back every access (R171); a VNLD, which
becomes an acquire when it returns its version, holds back loads only, so that an atomic issued behind a blocked VNLD is
performed (R221, R295, R296; DEDUCED, log 25). -/
def State.holds (s : State) (q r : Req) : Bool :=
  (s.acquiring q && q.orders r)
    || (!q.isDone && match q.kind with
      | .vnld _ => r.isLoad || r.isLdds
      | _ => false)

/-- Whether an HPROBE of threads of m, issued before number n, has not taken its result, which is an acquire (R263). -/
def State.probing (s : State) (blk grp : Nat) (m : Mask) (n : Nat) : Bool :=
  s.probes.any fun p => p.ofThreads blk grp m n && match p.kind with
    | .probe _ => true
    | _ => false

/-- Whether an earlier HPROBE of its threads holds a request back. -/
def State.probeHolds (s : State) (r : Req) : Bool := s.probing r.blk r.grp r.threads r.insn

/-- Whether an acquire of its threads that is not performed holds a request back (R171, R263). -/
def State.heldBack (s : State) (r : Req) : Bool :=
  s.probeHolds r || s.reqs.any fun q => q.before r && s.holds q r

/-- Whether request q must be performed before request r (R152, R171): the same thread's overlapping access, everything
before a release at its scope, everything after an acquire. -/
def State.mustFollow (s : State) (r q : Req) : Bool :=
  q.before r
    && ((r.overlaps q && !q.isDone)
      || (decide (r.space = .scratch) && q.awaits r.addr r.size)
      || (r.isRelease && r.orders q && !q.performedAt r.scope)
      || s.holds q r)

/-- Whether the bytes of an LDDS lane may land: its threads' earlier accesses to the scratchpad bytes that it writes have
been performed (R152). -/
def State.mayLand (s : State) (r : Req) : Bool :=
  s.reqs.all fun q => !(q.before r
    && (q.awaits r.bdst r.size
      || (decide (q.space = .scratch) && !q.isDone && decide (q.addr < r.bdst + r.size ∧ r.bdst < q.addr + q.size))))

/-- Whether a write must wait for a TLD of its threads, issued earlier, to have read its source, or one of the A buffer for a
TST (R152, R199, R200). -/
def State.tldReads (s : State) (r : Req) : Bool :=
  (r.isStore || r.isAtomic) && s.mtxq.any fun o =>
    decide (o.kind = .tld ∨ (o.kind = .tst ∧ r.space = .abuf)) && !o.started && o.ofThreads r.blk r.grp r.threads r.insn

/-- Whether what an earlier matrix or retrieval instruction of its threads has still to do keeps a request from being
performed: a release waits for all of it. -/
def State.unitsHold (s : State) (r : Req) : Bool :=
  s.tldReads r || (r.isRelease && !s.unitsQuiet r.blk r.grp (r.threads &&& r.ordered) r.insn)

/-- Whether a request may be performed now, apart from the requests in the list with, which are performed with it. -/
def State.mayPerform (s : State) (r : Req) (with_ : List Nat) : Bool :=
  (s.reqs.all fun q => with_.contains q.id || !s.mustFollow r q) && !s.probeHolds r && !s.unitsHold r

/-- Whether a lane set's FENCEG may issue: the participants' earlier accesses are performed at group scope (R103). -/
def State.groupQuiet (s : State) (blk grp : Nat) (m : Mask) : Bool :=
  s.quiet blk grp m 1

end Sys2Proof.Machine
end

