-- ==== Sys2Proof/Machine/Cross.lean ====
section
/-!
DEFINITION. Cross-lane instructions (05_integer_crosslane.md R97 to R103): 0x60 to 0x66.
-/

namespace Sys2Proof.Machine

/-- What a lane supplies to a VSHFL or VBCST: zero when it has exited, or to handler lanes from outside the handler
(R97, R307). -/
def Ctx.supply (c : Ctx) (r l : Nat) : W32 :=
  if (c.r.lane l).exited || c.inactive l then 0 else (c.r.lane l).vreg r

/-- The source lane of VSHFL: IDX, UP, DOWN, XOR (R99). An UP or DOWN outside 0 to 31 gives the lane its own value. -/
def shflSource (sub l n : Nat) : Nat :=
  match sub with
  | 0 => n % 32
  | 1 => if n ≤ l then l - n else l
  | 2 => if l + n < 32 then l + n else l
  | _ => (l ^^^ (n % 32)) % 32

/-- VSHFL (R99). -/
def execVshfl (x : VForm) (s : State) : Host.Outcome State Fault Refusal :=
  s.issue fun c s => c.vec s x.g x.d fun l => c.supply x.a.vnum (shflSource (subN x) l (c.val x.b l).toNat)

/-- The input of VVOTE in a lane: its predicate bit, or for a V source a ≠ 0 (R101). -/
def Ctx.voteBit (c : Ctx) (a : Opnd) (l : Nat) : Bool := c.val a l != 0

/-- The result of VVOTE: EVERY, MASK, SOME, SAME, COUNT, NONE (R101). -/
def voteResult (sub : Nat) (m t : Mask) : Nat :=
  let every := decide (t = m)
  let none_ := decide (t = 0)
  let bit := fun (b : Bool) => if b then 1 else 0
  match sub with
  | 0 => bit every
  | 1 => t.toNat
  | 2 => bit (!none_)
  | 3 => bit (every || none_)
  | 4 => (lanesOf t).length
  | _ => bit none_

/-- VVOTE (R101). -/
def execVvote (x : VForm) (s : State) : Host.Outcome State Fault Refusal :=
  s.issue fun c s =>
    let m := c.on x.g
    let t := maskOf fun l => inMask m l && c.voteBit x.a l
    let r := voteResult (subN x) m t
    if m = 0 then .done s 0
    else match x.d with
      | .s _ => c.scal s x.g x.d (BitVec.ofNat 64 r)
      | _ => c.vec s x.g x.d fun _ => BitVec.ofNat 32 r

/-- A node of the cross-lane tree: empty, or a value with the flags raised on the way to it (R98). -/
abbrev Node := Option (W32 × Nat)

/-- Combine two nodes, skipping empties (R98). -/
def Node.join (op : W32 → W32 → W32 × Nat) : Node → Node → Node
  | none, y => y
  | x, none => x
  | some (x, f), some (y, g) => let r := op x y; some (r.1, f ||| g ||| r.2)

/-- The next level of the tree: neighbours in pairs. -/
def treeLevel (op : W32 → W32 → W32 × Nat) : List Node → List Node
  | x :: y :: r => Node.join op x y :: treeLevel op r
  | r => r

/-- T(i, j) for all i, at level j (R98). -/
def treeAt (op : W32 → W32 → W32 × Nat) (leaves : List Node) : Nat → List Node
  | 0 => leaves
  | j + 1 => treeLevel op (treeAt op leaves j)

/-- The inclusive prefix P(l) as a fold over the aligned segments of l + 1 lanes: n lanes from lane i upward, taken in
powers of two from 2^j down (R98). -/
def prefixFold (op : W32 → W32 → W32 × Nat) (levels : List (List Node)) (n : Nat) : Nat → Nat → Node → Node
  | 0, i, acc => if n % 2 = 1 then Node.join op acc ((levels.getD 0 []).getD i none) else acc
  | j + 1, i, acc =>
    if n.testBit (j + 1) then
      prefixFold op levels n j (i + 2 ^ (j + 1)) (Node.join op acc ((levels.getD (j + 1) []).getD (i / 2 ^ (j + 1)) none))
    else prefixFold op levels n j i acc

/-- The fold over lanes 0 to n − 1. -/
def prefixOf (op : W32 → W32 → W32 × Nat) (leaves : List Node) (n : Nat) : Node :=
  prefixFold op ((List.range 6).map (treeAt op leaves)) n 5 0 none

/-- The identity of a reduction (R98). -/
def identity (fmt op : Nat) : W32 :=
  let ext := fun (x : Int) => (BitVec.ofInt 32 x : W32)
  if fmt ≥ 8 then
    match op with
    | 0 => 0
    | 1 => BitVec.ofNat 32 ((fmtOf fmt).inf false)
    | _ => BitVec.ofNat 32 ((fmtOf fmt).inf true)
  else match op with
    | 0 => 0
    | 1 => ext (fmtMax fmt)
    | 2 => ext (fmtMin fmt)
    | 3 => ext (wrapInt fmt (2 ^ fmtW fmt - 1))
    | _ => 0

/-- The rounding of a V form: FTZ in rnd bit 2, mode in 1:0, and the sat modifier (R28). -/
def rndOf (x : VForm) : Rnd := ⟨(x.rnd.extractLsb' 0 2).toNat, x.rnd.getLsbD 2, x.sat⟩

/-- One ⊕ of VRED and VPRFX: ADD, MIN, MAX, AND, OR, XOR in the format (R98). -/
def combine (fmt op : Nat) (sat : Bool) (r : Rnd) (x y : W32) : W32 × Nat :=
  if fmt ≥ 8 then
    let f := fmtOf fmt
    let q := match op with
      | 0 => f.addV r (f.operand r x.toNat) (f.operand r y.toNat)
      | 1 => f.minmax 2 (f.flushBits r.ftz x.toNat) (f.flushBits r.ftz y.toNat)
      | _ => f.minmax 3 (f.flushBits r.ftz x.toNat) (f.flushBits r.ftz y.toNat)
    (BitVec.ofNat 32 q.1, q.2)
  else
    let a := readInt fmt (x.setWidth 64)
    let b := readInt fmt (y.setWidth 64)
    let v : W64 := match op with
      | 0 => reduceInt fmt sat (a + b)
      | 1 => reduceInt fmt false (min a b)
      | 2 => reduceInt fmt false (max a b)
      | o => reduceInt fmt false (wrapInt fmt (logic (o - 3) x y).toNat)
    (v.setWidth 32, 0)

/-- The leaves of the tree: the participating lanes' values in the format, others empty (R98). -/
def Ctx.leaves (c : Ctx) (x : VForm) : List Node :=
  let m := c.on x.g
  (List.range 32).map fun l =>
    if inMask m l then
      let w := c.val x.a l
      some (if x.fmt.toNat ≥ 10 then w &&& 0xFFFF#32
        else if x.fmt.toNat ≥ 8 then w else (reduceInt x.fmt.toNat false (readInt x.fmt.toNat (w.setWidth 64))).setWidth 32, 0)
    else none

/-- The value of a node, or the identity of an empty one. -/
def Node.value (n : Node) (id_ : W32) : W32 := match n with | none => id_ | some q => q.1

/-- The flags raised on the way to a node. -/
def Node.flags (n : Node) : Nat := match n with | none => 0 | some q => q.2

/-- VPRFX: inclusive and exclusive prefixes in the fixed tree (R98). -/
def execVprfx (x : VForm) (s : State) : Host.Outcome State Fault Refusal :=
  s.issue fun c s =>
    let op := subN x % 8
    let f := combine x.fmt.toNat op x.sat (rndOf x)
    let leaves := c.leaves x
    let at_ := fun l => prefixOf f leaves (if subN x ≥ 8 then l else l + 1)
    let m := c.on x.g
    c.doneG s fun g =>
      (g.putO m x.d fun l => Node.value (at_ l) (identity x.fmt.toNat op)).flags
        (orFlags m fun l => Node.flags (at_ l))

/-- VRED: T(0, 5), in each participating lane or once in an S register (R98). Bits 63:32 of
an S destination in a float format are written as zero (DEDUCED, log 13: R86 extends the I and N formats only). -/
def execVred (x : VForm) (s : State) : Host.Outcome State Fault Refusal :=
  s.issue fun c s =>
    let f := combine x.fmt.toNat (subN x) x.sat (rndOf x)
    let t := (treeAt f (c.leaves x) 5).getD 0 none
    let w := Node.value t (identity x.fmt.toNat (subN x))
    let m := c.on x.g
    if m = 0 then .done s 0
    else c.doneG s fun g =>
      (match x.d with
        | .s r => g.setS r (if x.fmt.toNat < 8 ∧ fmtSigned x.fmt.toNat then w.signExtend 64 else w.setWidth 64)
        | d => g.putO m d fun _ => w).flags (Node.flags t)

/-- VMATCH: the participating lanes whose a agrees in the low w bits (R101). -/
def execVmatch (x : VForm) (s : State) : Host.Outcome State Fault Refusal :=
  s.issue fun c s =>
    let m := c.on x.g
    let low := fun l => (c.val x.a l).toNat % 2 ^ fmtW x.fmt.toNat
    c.vec s x.g x.d fun l => maskOf fun k => inMask m k && low k == low l

/-- VBCST (R100). -/
def execVbcst (x : VForm) (s : State) : Host.Outcome State Fault Refusal :=
  s.issue fun c s =>
    let w := c.supply x.a.vnum (c.lane1 x.g x.b)
    match x.d with
    | .s _ => c.scal s x.g x.d (w.setWidth 64)
    | _ => c.vec s x.g x.d fun _ => w

/-- FENCEG waits until the participating lanes' earlier accesses are performed at group scope, and has no other effect
(R103). -/
def execFenceg (x : VForm) (s : State) : Host.Outcome State Fault Refusal :=
  s.issue fun c s =>
    if c.on x.g = 0 ∨ s.groupQuiet c.iss.blk c.iss.grp (c.on x.g) then .done s 0 else .wait s

end Sys2Proof.Machine
end

