-- ==== Sys2Proof/Machine/Floating.lean ====
section
/-!
DEFINITION. Floating-point, conversion and block-float instructions (06_float_formats.md R113 to R128): 0x40 to 0x54.
-/

namespace Sys2Proof.Machine

/-- The bits of a floating-point source in lane l: a pair or 64 scalar bits in F64, bits 15:0 in F16 and BF16 (R113). -/
def Ctx.fbits (c : Ctx) (fmt : Nat) (o : Opnd) (l : Nat) : Nat :=
  match fmt with
  | 9 => (c.val64 o l).toNat
  | 8 => (c.val o l).toNat
  | _ => (c.val o l).toNat % 2 ^ 16

/-- Source a with abs and neg (R110). -/
def Ctx.fa (c : Ctx) (x : VForm) (l : Nat) : Nat := (fmtOf x.fmt.toNat).nas x.nas (c.fbits x.fmt.toNat x.a l)

/-- An operand read under FTZ (R109). -/
def Ctx.fin (x : VForm) (bits : Nat) : FVal := (fmtOf x.fmt.toNat).operand (rndOf x) bits

/-- Write the bits of a result in the lanes of m: a pair in F64, else one register with the upper bits zero (R113). -/
def Group.putF (g : Group) (fmt : Nat) (m : Mask) (d : Opnd) (f : Nat → Nat) : Group :=
  if fmt = 9 then g.putV2 m d.vnum fun l => BitVec.ofNat 64 (f l) else g.putO m d fun l => BitVec.ofNat 32 (f l)

/-- A per-lane floating-point instruction: result bits and flags of each guard-true lane; the flags go to FSTAT
(R111, R112). -/
def Ctx.flt (c : Ctx) (s : State) (x : VForm) (f : Nat → Nat × Nat) : Res :=
  let m := c.on x.g
  c.doneG s fun g => (g.putF x.fmt.toNat m x.d fun l => (f l).1).flags (orFlags m fun l => (f l).2)

/-- VFADD: a + b (R114). -/
def execVfadd (x : VForm) (s : State) : Host.Outcome State Fault Refusal :=
  s.issue fun c s => c.flt s x fun l =>
    (fmtOf x.fmt.toNat).addV (rndOf x) (Ctx.fin x (c.fa x l)) (Ctx.fin x (c.fbits x.fmt.toNat x.b l))

/-- VFSUB: a − b (R114). -/
def execVfsub (x : VForm) (s : State) : Host.Outcome State Fault Refusal :=
  s.issue fun c s => c.flt s x fun l =>
    (fmtOf x.fmt.toNat).addV (rndOf x) (Ctx.fin x (c.fa x l)) (Ctx.fin x (c.fbits x.fmt.toNat x.b l)).neg

/-- VFMUL: a × b (R114). -/
def execVfmul (x : VForm) (s : State) : Host.Outcome State Fault Refusal :=
  s.issue fun c s => c.flt s x fun l =>
    (fmtOf x.fmt.toNat).mulV (rndOf x) (Ctx.fin x (c.fa x l)) (Ctx.fin x (c.fbits x.fmt.toNat x.b l))

/-- VFMA: a × b + c with one rounding (R114). -/
def execVfma (x : VForm) (s : State) : Host.Outcome State Fault Refusal :=
  s.issue fun c s => c.flt s x fun l =>
    (fmtOf x.fmt.toNat).fmaV (rndOf x) (Ctx.fin x (c.fa x l)) (Ctx.fin x (c.fbits x.fmt.toNat x.b l))
      (Ctx.fin x (c.fbits x.fmt.toNat x.c l))

/-- VFMNX (R115): it never rounds; under FTZ operands are compared and returned as zeros of their own sign. -/
def execVfmnx (x : VForm) (s : State) : Host.Outcome State Fault Refusal :=
  s.issue fun c s => c.flt s x fun l =>
    let f := fmtOf x.fmt.toNat
    f.minmax (subN x) (f.flushBits (rndOf x).ftz (c.fa x l)) (f.flushBits (rndOf x).ftz (c.fbits x.fmt.toNat x.b l))

/-- VFCMP (R116). -/
def execVfcmp (x : VForm) (s : State) : Host.Outcome State Fault Refusal :=
  s.issue fun c s =>
    let m := c.on x.g
    let r := fun l => relF (subN x) (Ctx.fin x (c.fa x l)) (Ctx.fin x (c.fbits x.fmt.toNat x.b l))
    c.doneG s fun g => (g.putO m x.d fun l => if (r l).1 then 1 else 0).flags (orFlags m fun l => (r l).2)

/-- VFCLASS: the class mask, or the bit (mask AND b) ≠ 0 (R117). -/
def execVfclass (x : VForm) (s : State) : Host.Outcome State Fault Refusal :=
  s.issue fun c s => c.vec s x.g x.d fun l =>
    let k := (fmtOf x.fmt.toNat).classMask (c.fa x l)
    match x.d with
    | .p _ => if k &&& (c.val x.b l).toNat ≠ 0 then 1 else 0
    | _ => BitVec.ofNat 32 k

/-- The result places of a floating-point result in a lane. -/
def floatDests (fmt d l n : Nat) : List (Dest × W64) :=
  if fmt = 9 then [(.v d l, BitVec.ofNat 64 (n % 2 ^ 32)), (.v (d + 1) l, BitVec.ofNat 64 (n / 2 ^ 32))]
  else [(.v d l, BitVec.ofNat 64 n)]

/-- A variable-latency floating-point instruction: its flags are raised at issue, its result lands later (R34, R128). -/
def Ctx.fltLater (c : Ctx) (s : State) (x : VForm) (f : Nat → Nat × Nat) : Res :=
  let m := c.on x.g
  c.later s x.la m (if x.fmt = 9 then [x.d.vnum, x.d.vnum + 1] else [x.d.vnum]) []
    ((lanesOf m).map fun l => floatDests x.fmt.toNat x.d.vnum l (f l).1).flatten
    fun g => g.flags (orFlags m fun l => (f l).2)

/-- VFDIV: a ÷ b (R114). -/
def execVfdiv (x : VForm) (s : State) : Host.Outcome State Fault Refusal :=
  s.issue fun c s => c.fltLater s x fun l =>
    (fmtOf x.fmt.toNat).divV (rndOf x) (Ctx.fin x (c.fa x l)) (Ctx.fin x (c.fbits x.fmt.toNat x.b l))

/-- VFSQRT: √a (R114). -/
def execVfsqrt (x : VForm) (s : State) : Host.Outcome State Fault Refusal :=
  s.issue fun c s => c.fltLater s x fun l => (fmtOf x.fmt.toNat).sqrtV (rndOf x) (Ctx.fin x (c.fa x l))

/-- VFAPX (R119, R120). -/
def execVfapx (x : VForm) (s : State) : Host.Outcome State Fault Refusal :=
  s.issue fun c s => c.fltLater s x fun l => (fmtOf x.fmt.toNat).apx (rndOf x) (subN x) (c.fa x l)

/-- VFSCL: a × 2^n, n read as I32 (R114). -/
def execVfscl (x : VForm) (s : State) : Host.Outcome State Fault Refusal :=
  s.issue fun c s => c.flt s x fun l =>
    (fmtOf x.fmt.toNat).sclV (rndOf x) (Ctx.fin x (c.fa x l)) (c.val x.b l).toInt

/-- VFRND (R118). -/
def execVfrnd (x : VForm) (s : State) : Host.Outcome State Fault Refusal :=
  s.issue fun c s => c.flt s x fun l => (fmtOf x.fmt.toNat).rnd (rndOf x) (subN x == 1) (c.fa x l)

/-! ### Conversions (R121 to R126) -/

/-- The format slot that fmt bits 14:12 name (R28, R53). -/
def Ctx.slot (c : Ctx) (i : Nat) : FmtSlot := c.l.lr.slots[i]?.getD ⟨0, 0, 0, 0, false, 0⟩

/-- The floating-point format code of a slot's elem 1 to 4: F64, F32, F16, BF16 (R53). -/
def elemFmt (elem : Nat) : Nat :=
  match elem with
  | 1 => 9
  | 2 => 8
  | 3 => 10
  | _ => 11

/-- VCVTF (R121): rounding mode and saturation are the slot's, flush-to-zero the word's own; a source format code is
the sub-op. An F64 slot needs an even pair as its destination. -/
def execVcvtf (x : VForm) (s : State) : Host.Outcome State Fault Refusal :=
  s.issue fun c s =>
    let m := c.on x.g
    let sl := c.slot (x.fmt.toNat % 8)
    if sl.elem = 1 ∧ x.d.vnum % 2 = 1 then .cause .illegalOperand c.iss.lanes
    else if m = 0 then .done s 0
    else if sl.elem = 0 ∨ sl.elem > 4 then .cause .formatSlotMismatch m
    else
      let src := fmtOf (subN x)
      let dst := elemFmt sl.elem
      let r : Rnd := ⟨sl.rnd, x.rnd.getLsbD 2, sl.sat⟩
      let v := fun l =>
        let b := src.nas x.nas (c.fbits (subN x) x.a l)
        (fmtOf dst).convert r (src.operand r b)
      c.doneG s fun g => (g.putF dst m x.d fun l => (v l).1).flags (orFlags m fun l => (v l).2)

/-- VCVTFI (R122): sub-op the integer format; a 64-bit result fills a pair. -/
def execVcvtfi (x : VForm) (s : State) : Host.Outcome State Fault Refusal :=
  s.issue fun c s =>
    let m := c.on x.g
    let v := fun l => toIntF (subN x) (rndOf x).mode (Ctx.fin x (c.fa x l))
    c.doneG s fun g =>
      (if fmtW (subN x) = 64 then g.putV2 m x.d.vnum fun l => BitVec.ofInt 64 (v l).1
        else g.putO m x.d fun l => BitVec.ofInt 32 (v l).1).flags (orFlags m fun l => (v l).2)

/-- VCVTIF (R123): sub-op the integer format of a, read with abs and neg. -/
def execVcvtif (x : VForm) (s : State) : Host.Outcome State Fault Refusal :=
  s.issue fun c s => c.flt s x fun l =>
    let w := if fmtW (subN x) = 64 then c.val64 x.a l else (c.val x.a l).setWidth 64
    (fmtOf x.fmt.toNat).ofInt (rndOf x).mode (nasInt x.nas (readInt (subN x) w))

/-- The packed layout of a scale tile (R124): tile side, element kind, data registers per lane, elements per lane. -/
structure TileLayout where
  t32 : Bool
  k   : Kbf
  nd  : Nat
  deriving DecidableEq, Repr

def tileLayout (sl : FmtSlot) : Option TileLayout :=
  match sl.elem, sl.tile with
  | 5, 1 => some ⟨false, kbf8, 2⟩
  | 6, 1 => some ⟨false, kbf4, 1⟩
  | 5, 2 => some ⟨true, kbf8, 8⟩
  | 6, 2 => some ⟨true, kbf4, 4⟩
  | _, _ => none

/-- Elements of the tile that one lane holds: 8 in a T16 tile, 32 in a T32 tile (R124). -/
def TileLayout.per (t : TileLayout) : Nat := if t.t32 then 32 else 8

/-- Pack the elements of one lane into nd registers, the first in the low bits (R124). -/
def TileLayout.pack (t : TileLayout) (els : List Nat) (j : Nat) : W32 :=
  let n := 32 / t.k.bits
  BitVec.ofNat 32 ((List.range n).foldl (fun a i => a + els.getD (j * n + i) 0 * 2 ^ (t.k.bits * i)) 0)

/-- Element e of one lane's packed run from register a (R124). -/
def Ctx.packed (c : Ctx) (t : TileLayout) (a l e : Nat) : Nat :=
  let n := 32 / t.k.bits
  ((c.r.lane l).vreg (a + e / n)).toNat / 2 ^ (t.k.bits * (e % n)) % 2 ^ t.k.bits

/-- VQNT (R124, R125): the whole source run is read before anything is written; non-participating lanes read as +0. -/
def execVqnt (x : VForm) (s : State) : Host.Outcome State Fault Refusal :=
  s.issue fun c s =>
    match tileLayout (c.slot (x.fmt.toNat % 8)) with
    | none => if c.on x.g = 0 then .done s 0 else .cause .formatSlotMismatch (c.on x.g)
    | some t =>
      let d := x.d.vnum
      let a := x.a.vnum
      if d + t.nd > 127 ∨ a + t.per > 128 then .cause .illegalOperand c.iss.lanes
      else if c.on x.g = 0 then .done s 0
      else
        let m := c.on x.g
        let els := ((List.range 32).map fun l => (List.range t.per).map fun e =>
          if inMask m l then f32.decode ((c.r.lane l).vreg (a + e)).toNat else FVal.fin false 0 0).flatten
        let (ehi, elo, qs, fl) := t.k.quantise els
        let lane := fun l => (qs.drop (l * t.per)).take t.per
        c.doneG s fun g => (g.modLanes m fun l y =>
          ((List.range t.nd).foldl (fun y j => y.setV (d + j) (t.pack (lane l) j)) y).setV (d + t.nd)
            (BitVec.ofNat 32 (ehi * 256 + elo))).flags fl

/-- VDQNT (R126): exact; it sets no flag. -/
def execVdqnt (x : VForm) (s : State) : Host.Outcome State Fault Refusal :=
  s.issue fun c s =>
    match tileLayout (c.slot (x.fmt.toNat % 8)) with
    | none => if c.on x.g = 0 then .done s 0 else .cause .formatSlotMismatch (c.on x.g)
    | some t =>
      let d := x.d.vnum
      let a := x.a.vnum
      if a + t.nd > 127 ∨ d + t.per > 128 then .cause .illegalOperand c.iss.lanes
      else c.doneG s fun g => g.modLanes (c.on x.g) fun l y =>
        let ex := ((c.r.lane l).vreg (a + t.nd)).toNat
        (List.range t.per).foldl (fun y e =>
          y.setV (d + e) (BitVec.ofNat 32 (kbfToF32 (t.k.decode (ex % 256) (ex / 256 % 256) (c.packed t a l e))))) y

end Sys2Proof.Machine
end

