-- ==== Sys2Proof/Machine/Memory.lean ====
section
/-!
DEFINITION. The memory instructions (07_memory.md R129 to R142): 0x70 to 0x7D. An instruction checks its addresses and
posts one request for each lane, or one for its whole lane set; Pipeline.lean carries the requests to their homes.
-/

namespace Sys2Proof.Machine

/-- Bytes of the block's extents (R129, R133, R182): the buffer shares exist in a matrix block only. -/
def LRec.matrix (r : LRec) : Bool := decide (2 ≤ r.gangMax)
def LRec.wExtent (r : LRec) : Nat := if 2 ≤ r.gangMax then 0x2_0000 else 0
def LRec.aExtent (r : LRec) : Nat := if 2 ≤ r.gangMax then 0x1_0000 else 0
def LRec.cExtent (r : LRec) : Nat := if 2 ≤ r.gangMax then 0x8000 else 0

/-- The causes of global addresses, by lane (R130, R138). -/
def globalCauses (m : Mask) (size : Nat) (ea : Nat → Nat) : List (Cause × Mask) :=
  [(.misaligned, maskOf fun l => inMask m l && ea l % size != 0),
   (.addressNoncanonical, maskOf fun l => inMask m l && decide (ea l ≥ 2 ^ 52))]

/-- The causes of local offsets, by lane (R132). -/
def localCauses (range : Cause) (extent : Nat) (m : Mask) (size : Nat) (ea : Nat → Int) : List (Cause × Mask) :=
  [(.misaligned, maskOf fun l => inMask m l && ea l % size != 0),
   (range, maskOf fun l => inMask m l && !decide (0 ≤ ea l ∧ ea l + size ≤ extent))]

def anyCause (cs : List (Cause × Mask)) : Bool := cs.any fun c => c.2 != 0

/-- The number of vector registers that an access of a size fills (R136). -/
def runLen (size : Nat) : Nat := if size ≤ 4 then 1 else size / 4

/-- The bytes of a store's data run in lane l (R138, R139). -/
def Ctx.storeData (c : Ctx) (d size l : Nat) : List Byte :=
  (((List.range (runLen size)).map fun k => leBytes 4 ((c.r.lane l).vreg (d + k)).toNat).flatten).take size

/-- A request with the fields that most share. -/
def Ctx.req (c : Ctx) (x : MForm) (kind : ReqKind) (space : Space) : Req where
  id := 0
  insn := 0
  core := c.b.core
  blk := c.iss.blk
  grp := c.iss.grp
  threads := 0
  takers := 0
  ordered := c.on x.g
  helper := false
  kind := kind
  space := space
  addr := 0
  size := x.bytes
  order := x.order.toNat
  scope := x.scope.toNat
  owner := none
  parts := []
  dst := none
  sdst := none
  bdst := 0
  bar := 0
  unit := false
  kept := false
  acks := []
  phase := .issued

/-- The request of one lane. -/
def Req.lane (r : Req) (l : Nat) : Req :=
  { r with threads := maskOf (· == l), takers := maskOf (· == l), parts := [⟨l, [], [], []⟩] }

/-- The one request of a uniform access, made for the lanes m: an access of each thread of the issuing lane set (R138,
R157; for STU and STK DEDUCED, log 25). -/
def Ctx.uniformReq (c : Ctx) (x : MForm) (kind : ReqKind) (space : Space) (m : Mask) : Req :=
  { c.req x kind space with threads := c.iss.lanes, takers := m, parts := [⟨lowest m, [], [], []⟩] }

/-- Post the requests of one instruction: they get numbers after the instruction's own, requests to a bank are accepted
there at once, the instruction's registers become pending and its counter rises (R21, R34, R143). -/
def Ctx.post (c : Ctx) (s : State) (la : BitVec 4) (i : Insn) (rs : List Req) : Res :=
  let n := s.nextId
  let rs := rs.zipIdx.map fun (p : Req × Nat) =>
    let r : Req := { p.1 with id := n + 1 + p.2, insn := n }
    if r.space = .global then r else { r with phase := .accepted r.id }
  let banks := (rs.filter fun r => decide (r.space ≠ .global)).map fun r =>
    (⟨r.id, r.core, c.l.ctx, r.id, .bank, 0, 0, s.cc, true, false, [r.id]⟩ : Entry)
  let s := { s with nextId := n + 1 + rs.length, reqs := s.reqs ++ rs, entries := s.entries ++ banks }
  .done (s.modGroup c.iss.blk c.iss.grp fun g =>
    ({ g with insns := g.insns ++ [{ i with id := n }] }.raise i.ctr).window (c.windowLanes i.lanes i.sregs) n la) 0

/-- An instruction record with the fields that most share. -/
def Ctx.insn (c : Ctx) (ctr : Ctr) (m : Mask) (vregs sregs : List Nat) : Insn :=
  ⟨0, ctr, c.iss.pc, m, vregs, sregs, [], false⟩

/-- Registers d, d + 1, … of a run. -/
def run (d n : Nat) : List Nat := (List.range n).map (d + ·)

/-- A counter at 255 holds the instruction that would raise it (R21). -/
def Ctx.full (c : Ctx) (k : Ctr) : Bool := decide (c.g.counter k ≥ 255)

/-- A per-lane load (R138): causes first, for every guard-true lane; then one request a lane. -/
def Ctx.loadV (c : Ctx) (s : State) (x : MForm) (space : Space) (causes : List (Cause × Mask)) (ea : Nat → Nat) : Res :=
  let m := c.on x.g
  if anyCause causes then .raise causes 0 false
  else if m = 0 then .done s 0
  else if c.full .lc then .wait s
  else c.post s x.la (c.insn .lc m (run x.d.vnum (runLen x.bytes)) [])
    ((lanesOf m).map fun l =>
      { (c.req x .load space).lane l with
        helper := (c.r.lane l).helper, addr := ea l, dst := some x.d.vnum })

/-- A per-lane store (R139): a helper's store does not happen (R67). -/
def Ctx.storeV (c : Ctx) (s : State) (x : MForm) (space : Space) (causes : List (Cause × Mask)) (ea : Nat → Nat) : Res :=
  let m := c.real x.g
  if anyCause causes then .raise causes 0 false
  else if m = 0 then .done s 0
  else if c.full .sc then .wait s
  else c.post s x.la (c.insn .sc m [] [])
    ((lanesOf m).map fun l =>
      { (c.req x .store space).lane l with
        addr := ea l, parts := [⟨l, c.storeData x.d.vnum x.bytes l, [], []⟩] })

/-- A uniform load (R138): one access. -/
def Ctx.loadS (c : Ctx) (s : State) (x : MForm) (space : Space) (causes : List (Cause × Mask)) (ea : Nat) : Res :=
  let m := c.on x.g
  if m = 0 then .done s 0
  else if anyCause causes then .raise causes 0 false
  else if c.full .lc then .wait s
  else c.post s x.la (c.insn .lc m [] [x.d.snum])
    [{ c.uniformReq x .load space m with
       helper := c.real x.g == 0, addr := ea, sdst := some x.d.snum }]

/-- A uniform store (R139). -/
def Ctx.storeS (c : Ctx) (s : State) (x : MForm) (space : Space) (causes : List (Cause × Mask)) (ea : Nat) : Res :=
  let m := c.on x.g
  if m = 0 then .done s 0
  else if anyCause causes then .raise causes 0 false
  else if c.real x.g = 0 then .done s 0
  else if c.full .sc then .wait s
  else c.post s x.la (c.insn .sc (c.real x.g) [] [])
    [{ c.uniformReq x .store space (c.real x.g) with
       addr := ea, parts := [⟨lowest m, leBytes x.bytes (c.sval x.d).toNat, [], []⟩] }]

def Ctx.eaG (c : Ctx) (x : MForm) (l : Nat) : Nat := c.eaGlobal x.a x.o x.bytes l
def Ctx.eaL (c : Ctx) (x : MForm) (l : Nat) : Int := c.eaLocal x.a x.o x.bytes l

/-- The space and extent that a scratchpad or mirror access names (R129). -/
def Ctx.localSpace (c : Ctx) (x : MForm) : Space × Nat :=
  if x.space = 2 then (.mirror, c.l.lr.mirror) else (.scratch, c.l.lr.scratch)

/-- LD (R138). -/
def execLd (x : MForm) (s : State) : Host.Outcome State Fault Refusal :=
  s.issue fun c s => c.loadV s x .global (globalCauses (c.on x.g) x.bytes (c.eaG x)) (c.eaG x)

/-- ST (R139). -/
def execSt (x : MForm) (s : State) : Host.Outcome State Fault Refusal :=
  s.issue fun c s => c.storeV s x .global (globalCauses (c.on x.g) x.bytes (c.eaG x)) (c.eaG x)

/-- LDS from the scratchpad or the block's own mirror copy (R132, R138). -/
def execLds (x : MForm) (s : State) : Host.Outcome State Fault Refusal :=
  s.issue fun c s =>
    let sp := c.localSpace x
    c.loadV s x sp.1 (localCauses .scratchRange sp.2 (c.on x.g) x.bytes (c.eaL x)) fun l => (c.eaL x l).toNat

/-- STS to the scratchpad, or to every mirror copy of the cluster (R132, R139). -/
def execSts (x : MForm) (s : State) : Host.Outcome State Fault Refusal :=
  s.issue fun c s =>
    let sp := c.localSpace x
    c.storeV s x sp.1 (localCauses .scratchRange sp.2 (c.on x.g) x.bytes (c.eaL x)) fun l => (c.eaL x l).toNat

/-- The space, causes and address of a uniform access (R130, R132, R138). -/
def Ctx.uniform (c : Ctx) (x : MForm) : Space × List (Cause × Mask) × Nat :=
  if x.space = 0 then (.global, globalCauses (c.on x.g) x.bytes (c.eaG x), c.eaG x 0)
  else (.scratch, localCauses .scratchRange c.l.lr.scratch (c.on x.g) x.bytes (c.eaL x), (c.eaL x 0).toNat)

/-- LDU (R138). -/
def execLdu (x : MForm) (s : State) : Host.Outcome State Fault Refusal :=
  s.issue fun c s => c.loadS s x (c.uniform x).1 (c.uniform x).2.1 (c.uniform x).2.2

/-- STU (R139). -/
def execStu (x : MForm) (s : State) : Host.Outcome State Fault Refusal :=
  s.issue fun c s => c.storeS s x (c.uniform x).1 (c.uniform x).2.1 (c.uniform x).2.2

/-- LDA (R132, R138). -/
def execLda (x : MForm) (s : State) : Host.Outcome State Fault Refusal :=
  s.issue fun c s =>
    c.loadV s x .abuf (localCauses .bufferRange c.l.lr.aExtent (c.on x.g) x.bytes (c.eaL x)) fun l => (c.eaL x l).toNat

/-- STA (R132, R139). -/
def execSta (x : MForm) (s : State) : Host.Outcome State Fault Refusal :=
  s.issue fun c s =>
    c.storeV s x .abuf (localCauses .bufferRange c.l.lr.aExtent (c.on x.g) x.bytes (c.eaL x)) fun l => (c.eaL x l).toNat

/-- LDDS's scratchpad destination of a lane (R140; DEDUCED, log 14: an S register gives its bits 31:0). -/
def Ctx.lddsDest (c : Ctx) (x : MForm) (l : Nat) : Int :=
  if x.d.isS then (((c.sval x.d).toNat % 2 ^ 32 + x.bytes * l : Nat) : Int) else ((c.val x.d l).toNat : Int)

/-- LDDS: global memory into the scratchpad, counted on the barrier object that c names (R140). -/
def execLdds (x : MForm) (s : State) : Host.Outcome State Fault Refusal :=
  s.issue fun c s =>
    let m := c.on x.g
    let bar : Nat := (c.sval x.o.c).toNat % 2 ^ 32
    let cs := globalCauses m x.bytes (c.eaG x)
      ++ localCauses .scratchRange c.l.lr.scratch m x.bytes (c.lddsDest x)
      ++ localCauses .scratchRange c.l.lr.scratch m 16 (fun _ => (bar : Int))
    let r := c.real x.g
    if anyCause cs then .raise cs 0 false
    else if r = 0 then .done s 0
    else c.post s 0 (c.insn .none r [] [])
      ((lanesOf r).map fun l =>
        { (c.req x .ldds .global).lane l with
          addr := c.eaG x l, bdst := (c.lddsDest x l).toNat, bar := bar })

/-- PREF: a prefetch, which changes no value (R137, R141). -/
def execPref (x : MForm) (s : State) : Host.Outcome State Fault Refusal :=
  s.issue fun c s =>
    let m := c.on x.g
    let cs := globalCauses m x.bytes (c.eaG x)
    if anyCause cs then .raise cs 0 false
    else if m = 0 then .done s 0
    else c.post s 0 (c.insn .none m [] [])
      ((lanesOf m).map fun l =>
        { (c.req x .pref .global).lane l with addr := c.eaG x l })

/-- CCTL: raises SC until its line's write-back is performed (R141). -/
def execCctl (x : MForm) (s : State) : Host.Outcome State Fault Refusal :=
  s.issue fun c s =>
    let m := c.real x.g
    let cs := globalCauses (c.on x.g) x.bytes (c.eaG x)
    if anyCause cs then .raise cs 0 false
    else if m = 0 then .done s 0
    else if c.full .sc then .wait s
    else c.post s 0 (c.insn .sc m [] [])
      ((lanesOf m).map fun l =>
        { (c.req x .cctl .global).lane l with addr := c.eaG x l })

/-- Whether the conditions of a WAITC hold (R142). -/
def Group.waitc (g : Group) (imm : W32) : Bool :=
  let n := imm.toNat
  (!bitOf n 24 || decide (g.lc ≤ bitsOf n 7 0)) && (!bitOf n 25 || decide (g.sc ≤ bitsOf n 15 8))
    && (!bitOf n 26 || decide (g.mc ≤ bitsOf n 23 16)) && (!bitOf n 27 || g.ec == 0)

/-- WAITC (R142). Guarded off in every lane it has no effect (R25). -/
def execWaitc (x : KForm) (s : State) : Host.Outcome State Fault Refusal :=
  s.issueN 1 (fun c => if x.imm.getLsbD 27 then c.on x.g else 0) fun c s =>
    if c.on x.g = 0 ∨ c.g.waitc x.imm then .done s 0 else .wait s

/-- The address of LDK and STK in the argument block, and their causes (R130, R138). -/
def Ctx.param (c : Ctx) (x : MForm) : Nat × List (Cause × Mask) :=
  let off := c.off x.o x.bytes 0
  let m := c.on x.g
  let ea := (((c.l.lr.parBase : Int) + off) % 2 ^ 64).toNat
  (ea, globalCauses m x.bytes (fun _ => ea)
    ++ [(.paramRange, if 0 ≤ off ∧ off + x.bytes ≤ c.l.lr.parSize then 0 else m)])

/-- LDK reads the launch's argument block (R138). -/
def execLdk (x : MForm) (s : State) : Host.Outcome State Fault Refusal :=
  s.issue fun c s => c.loadS s x .global (c.param x).2 (c.param x).1

/-- STK writes the argument block (R139). -/
def execStk (x : MForm) (s : State) : Host.Outcome State Fault Refusal :=
  s.issue fun c s => c.storeS s x .global (c.param x).2 (c.param x).1

end Sys2Proof.Machine
end

