-- ==== Sys2Proof/Machine/Sync.lean ====
section
/-!
DEFINITION. Atomics, barrier objects and fences (08_sync.md R155 to R177): 0x80 to 0x8B.
-/

namespace Sys2Proof.Machine

/-! ### Atomics -/

/-- The new value of an atomic sub-op on w-bit values, and the flags it raises (R156). -/
def atomicOp (op w x y : Nat) : Nat × Nat :=
  let f := if w = 64 then f64 else f32
  let sg := fun (n : Nat) => if n ≥ 2 ^ (w - 1) then (n : Int) - 2 ^ w else (n : Int)
  match op with
  | 0 => ((x + y) % 2 ^ w, 0)
  | 1 => ((x + 2 ^ w - y) % 2 ^ w, 0)
  | 2 => (x &&& y, 0)
  | 3 => (x ||| y, 0)
  | 4 => (x ^^^ y, 0)
  | 5 => (if sg x ≤ sg y then x else y, 0)
  | 6 => (if sg x ≤ sg y then y else x, 0)
  | 7 => (min x y, 0)
  | 8 => (max x y, 0)
  | 9 => (y, 0)
  | 10 => f.addV ⟨0, false, false⟩ (f.decode x) (f.decode y)
  | 11 => f.minmax 2 x y
  | _ => f.minmax 3 x y

/-- The owner core of a remote-scope acquire, when c names one (R177). -/
def Ctx.owner (c : Ctx) (o : Opnd) : Option Nat := if o = .none then none else some ((c.sval o).toNat % 2 ^ 32)

def badOwner (o : Option Nat) (m : Mask) : List (Cause × Mask) :=
  match o with
  | some k => if k ≥ 144 then [(.rscBadCore, m)] else []
  | none => []

/-- The space, address and causes of an atomic in each lane (R130, R132, R155). -/
def Ctx.atomEa (c : Ctx) (x : MForm) (l : Nat) : Nat := if x.space = 0 then c.eaG x l else (c.eaL x l).toNat

def Ctx.atomCauses (c : Ctx) (x : MForm) : List (Cause × Mask) :=
  (if x.space = 0 then globalCauses (c.on x.g) x.bytes (c.eaG x)
    else localCauses .scratchRange c.l.lr.scratch (c.on x.g) x.bytes (c.eaL x))
  ++ badOwner (c.owner x.o.c) (c.on x.g)

/-- The registers from d that an atomic's lane reads: its operand, or compare and new values for CAS (R155). -/
def Ctx.atomPart (c : Ctx) (x : MForm) (cas : Bool) (l : Nat) : Part :=
  let n := runLen x.bytes
  if cas then ⟨l, c.storeData (x.d.vnum + n) x.bytes l, c.storeData x.d.vnum x.bytes l, []⟩
  else ⟨l, c.storeData x.d.vnum x.bytes l, [], []⟩

/-- A per-lane atomic (R157, R158): one request for each distinct address, carrying its lanes in ascending order.
Helpers take no part and receive zero. -/
def Ctx.atomV (c : Ctx) (s : State) (x : MForm) (cas fetch : Bool) : Res :=
  let on := c.on x.g
  let m := c.real x.g
  let n := runLen x.bytes
  let ctr : Ctr := if fetch then .lc else .sc
  let helpers := maskOf fun l => inMask on l && !inMask m l
  let zeros : Group → Group := fun g =>
    if fetch then g.modLanes helpers fun _ y => (run x.d.vnum n).foldl (fun y r => y.setV r 0) y else g
  if anyCause (c.atomCauses x) then .raise (c.atomCauses x) 0 false
  else if m = 0 then c.doneG s zeros
  else if c.full ctr then .wait s
  else
    let zs := if fetch then ((lanesOf helpers).map fun l => (run x.d.vnum n).map fun r => (Dest.v r l, (0 : W64))).flatten else []
    let i := { c.insn ctr on (if fetch then run x.d.vnum n else []) [] with writes := zs }
    c.post s x.la i
      ((distinct ((lanesOf m).map (c.atomEa x))).map fun a =>
        let ls := (lanesOf m).filter fun l => c.atomEa x l == a
        { c.req x (.atomic x.hint.toNat cas fetch) (if x.space = 0 then .global else .scratch) with
          threads := maskOf fun l => ls.contains l, takers := maskOf fun l => ls.contains l, addr := a, owner := c.owner x.o.c,
          parts := ls.map (c.atomPart x cas), dst := if fetch then some x.d.vnum else none })

/-- A uniform atomic (R157): one access with a single lane. -/
def Ctx.atomS (c : Ctx) (s : State) (x : MForm) (cas fetch : Bool) : Res :=
  let on := c.on x.g
  let m := c.real x.g
  let d := x.d.snum
  let ctr : Ctr := if fetch then .lc else .sc
  if on = 0 then .done s 0
  else if anyCause (c.atomCauses x) then .raise (c.atomCauses x) 0 false
  else if m = 0 then c.doneG s fun g => if fetch then g.setS d 0 else g
  else if c.full ctr then .wait s
  else
    let p : Part :=
      if cas then ⟨lowest m, leBytes x.bytes (c.sreg (d + 1)).toNat, leBytes x.bytes (c.sreg d).toNat, []⟩
      else ⟨lowest m, leBytes x.bytes (c.sreg d).toNat, [], []⟩
    c.post s x.la (c.insn ctr m [] (if fetch then [d] else []))
      [{ c.uniformReq x (.atomic x.hint.toNat cas fetch) (if x.space = 0 then .global else .scratch) m with
         addr := c.atomEa x 0, owner := c.owner x.o.c, parts := [p],
         sdst := if fetch then some d else none }]

/-- ATOM (R157). -/
def execAtom (x : MForm) (s : State) : Host.Outcome State Fault Refusal := s.issue fun c s => c.atomV s x false true

/-- CAS (R157). -/
def execCas (x : MForm) (s : State) : Host.Outcome State Fault Refusal := s.issue fun c s => c.atomV s x true true

/-- RED (R157). -/
def execRed (x : MForm) (s : State) : Host.Outcome State Fault Refusal := s.issue fun c s => c.atomV s x false false

/-- ATOMS (R157). -/
def execAtoms (x : MForm) (s : State) : Host.Outcome State Fault Refusal := s.issue fun c s => c.atomS s x false true

/-- CASS (R157). -/
def execCass (x : MForm) (s : State) : Host.Outcome State Fault Refusal := s.issue fun c s => c.atomS s x true true

/-- REDS (R157). -/
def execReds (x : MForm) (s : State) : Host.Outcome State Fault Refusal := s.issue fun c s => c.atomS s x false false

/-! ### Barrier objects (R163 to R168) -/

/-- The fields of the 16 bytes of a barrier object (R163). -/
structure BarObj where
  phase   : Nat
  count   : Nat        -- the 16-bit count field as stored: VALID in bit 15
  arrived : Nat
  quota   : Nat
  landed  : Nat
  deriving DecidableEq, Repr

def BarObj.valid (o : BarObj) : Bool := bitOf o.count 15
/-- Bits 9:0 of the count field: the participants. -/
def BarObj.n (o : BarObj) : Nat := o.count % 1024

def barRead (m : Memory) (off : Nat) : BarObj where
  phase := ofLe (m.read off 4)
  count := ofLe (m.read (off + 4) 2)
  arrived := ofLe (m.read (off + 6) 2)
  quota := ofLe (m.read (off + 8) 4)
  landed := ofLe (m.read (off + 12) 4)

def barWrite (m : Memory) (off : Nat) (o : BarObj) : Memory :=
  m.write off (leBytes 4 o.phase ++ leBytes 2 o.count ++ leBytes 2 o.arrived ++ leBytes 4 o.quota ++ leBytes 4 o.landed)

/-- The completion check (R165): a phase completes when arrived = count and landed ≥ quota. -/
def BarObj.check (o : BarObj) : BarObj :=
  if o.valid && decide (1 ≤ o.n ∧ o.n ≤ 512) && o.arrived == o.n && decide (o.quota ≤ o.landed) then
    { o with phase := (o.phase + 1) % 2 ^ 32, arrived := 0, landed := o.landed - o.quota }
  else o

/-- Apply an update to an object, followed by the completion check. -/
def barUpdate (m : Memory) (off : Nat) (f : BarObj → BarObj) : Memory := barWrite m off (f (barRead m off)).check

/-- The completion check of every object whose bytes a store or an atomic has touched (R165). -/
def barTouched (m : Memory) (a n : Nat) : Memory :=
  (List.range ((a + n - 1) / 16 - a / 16 + 1)).foldl (fun m i =>
    let off := 16 * (a / 16 + i)
    if (barRead m off).check = barRead m off then m else barUpdate m off id) m

/-- Bytes that have landed are counted on an object, whatever its VALID bit holds (R140, R166). -/
def barLand (m : Memory) (off n : Nat) : Memory :=
  barUpdate m off fun o => { o with landed := (o.landed + n) % 2 ^ 32 }

/-- Whether BARWAIT's phase has passed: (phase − d) mod 2^32 lies in 1 to 2^31 (R167). -/
def barPassed (phase : Nat) (d : W32) : Bool :=
  let k := (phase + 2 ^ 32 - d.toNat) % 2 ^ 32
  decide (1 ≤ k ∧ k ≤ 2 ^ 31)

/-- A lane that waits for a phase which has passed may go on, whatever becomes of the object afterwards (R167). -/
def Lane.wakeBar (m : Memory) (x : Lane) : Lane :=
  match x.st with
  | .barwait off d p => { x with st := .barwait off d (p || barPassed (barRead m off).phase d) }
  | _ => x

/-- A block's scratchpad after an update, at which every waiting BARWAIT is evaluated (R167). -/
def Block.setScratch (b : Block) (m : Memory) : Block :=
  { b with
    scratch := m
    groups := b.groups.map fun g => g.modLanes (maskOf fun _ => true) fun _ x => x.wakeBar m }

def Ctx.barOff (c : Ctx) (x : MForm) : Int := c.eaLocal x.a x.o 16 0

/-- The causes of the object's offset (R164). -/
def Ctx.barCauses (c : Ctx) (x : MForm) : List (Cause × Mask) :=
  localCauses .scratchRange c.l.lr.scratch (c.on x.g) 16 fun _ => c.barOff x

/-- Whether the threads' own earlier accesses to the object's bytes have been performed (R152), and their earlier acquires
(R171, R263). -/
def State.barFree (s : State) (c : Ctx) (off : Nat) : Bool :=
  (s.reqs.all fun r => !r.ofThreads c.iss.blk c.iss.grp c.iss.lanes
    || !(r.awaits off 16 || (s.acquiring r && (r.threads &&& r.ordered &&& c.iss.lanes) != 0)
      || (decide (r.space = .scratch) && decide (r.addr < off + 16 ∧ off < r.addr + r.size) && !r.isDone)))
    && !s.probing c.iss.blk c.iss.grp c.iss.lanes s.nextId

/-- A barrier instruction (R164): its offset is checked, then it is performed at the bank, indivisibly. -/
def Ctx.barrier (c : Ctx) (s : State) (x : MForm) (f : Nat → BarObj → Res) : Res :=
  if c.on x.g = 0 then .done s 0
  else if anyCause (c.barCauses x) then .raise (c.barCauses x) 0 false
  else if !s.barFree c (c.barOff x).toNat then .wait s
  else f (c.barOff x).toNat (barRead c.b.scratch (c.barOff x).toNat)

/-- Put an updated object back. -/
def Ctx.barPut (c : Ctx) (s : State) (off : Nat) (o : BarObj) : Res :=
  .done (s.modBlock c.iss.blk fun b => b.setScratch (barWrite b.scratch off o.check)) 0

/-- BARINIT (R165). -/
def execBarinit (x : MForm) (s : State) : Host.Outcome State Fault Refusal :=
  s.issue fun c s => c.barrier s x fun off o =>
    let d := (c.sval x.d).toNat
    if c.real x.g = 0 then .done s 0
    else if d % 2 ^ 16 = 0 ∨ d % 2 ^ 16 > 512 then .cause .barrierBadCount (c.on x.g)
    else if o.valid && (o.arrived != 0 || o.landed != 0) then .cause .barrierLiveReinit (c.on x.g)
    else c.barPut s off ⟨d / 2 ^ 32, 2 ^ 15 + d % 2 ^ 16, 0, 0, 0⟩

/-- BARARR: n threads arrive, a release at block scope by each (R165, R168). -/
def execBararr (x : MForm) (s : State) : Host.Outcome State Fault Refusal :=
  s.issue fun c s => c.barrier s x fun off o =>
    let n := (lanesOf (c.real x.g)).length
    if n = 0 then .done s 0
    else if !o.valid then .cause .barrierUninit (c.on x.g)
    else if (c.sval x.d).toNat % 2 ^ 16 ≠ o.n then .cause .barrierCountMismatch (c.on x.g)
    else if o.arrived + n > o.n then .cause .barrierOverflow (c.on x.g)
    else if !s.quiet c.iss.blk c.iss.grp (c.real x.g) 2 then .wait s
    else c.barPut s off { o with arrived := o.arrived + n }

/-- BAREXP sets the standing byte quota (R165, R166). -/
def execBarexp (x : MForm) (s : State) : Host.Outcome State Fault Refusal :=
  s.issue fun c s => c.barrier s x fun off o =>
    let q := (c.sval x.d).toNat % 2 ^ 32
    if c.real x.g = 0 then .done s 0
    else if !o.valid then .cause .barrierUninit (c.on x.g)
    else if q ≥ 2 ^ 31 then .cause .barrierOverflow (c.on x.g)
    else c.barPut s off { o with quota := q }

/-- BARWAIT (R167): the lanes pass, or wait in it until the phase has passed. A prunable thread may not wait. -/
def execBarwait (x : MForm) (s : State) : Host.Outcome State Fault Refusal :=
  s.issueN 1 (·.on x.g) fun c s => c.barrier s x fun off o =>
    let d := (c.sval x.d).setWidth 32
    let prunable := maskOf fun l => inMask (c.on x.g) l && (c.r.lane l).ben
    if !o.valid then .raise [(.barrierUninit, c.on x.g), (.barrierPrunable, prunable)] 0 false
    else if prunable ≠ 0 then .cause .barrierPrunable prunable
    else if barPassed o.phase d then .done s 0
    else .done (s.modGroup c.iss.blk c.iss.grp fun g =>
      g.modLanes c.iss.lanes fun _ y => { y with st := .barwait off d false }) c.iss.lanes

/-- BARTST: a snapshot, without waiting (R164, R167). -/
def execBartst (x : MForm) (s : State) : Host.Outcome State Fault Refusal :=
  s.issue fun c s => c.barrier s x fun _ o =>
    if !o.valid then .cause .barrierUninit (c.on x.g)
    else c.scal s x.g x.d (BitVec.ofNat 64 (o.count * 2 ^ 48 + o.arrived * 2 ^ 32 + o.phase))

/-! ### Fences (R172 to R174, R177) -/

/-- The mark that a remote-scope FENCE has arrived at its owner core. -/
def State.fenceMark (s : State) (c : Ctx) : Option Req :=
  s.reqs.find? fun r => decide (r.kind = .fence) && r.ofThreads c.iss.blk c.iss.grp c.iss.lanes

/-- Whether the fence's own condition holds: .ACQ waits for loads and atomics, .REL and .ACQREL for every access at
the scope (R172). -/
def Ctx.fenceOk (c : Ctx) (s : State) (x : MForm) : Bool :=
  let m := c.on x.g
  if x.order = 1 then s.loadsQuiet c.iss.blk c.iss.grp m else s.quiet c.iss.blk c.iss.grp m x.scope.toNat

/-- FENCE (R172). A remote-scope fence sends its request when its threads' earlier loads and atomics are performed, so that it
covers what such a load has read from a release of the owner core; it completes when every access that the core had accepted
when the request arrived is performed at device scope (R177; that it waits for the loads first is DEDUCED, log 25). -/
def execFence (x : MForm) (s : State) : Host.Outcome State Fault Refusal :=
  s.issue fun c s =>
    let m := c.on x.g
    let own := c.owner x.o.c
    let clear := fun (s : State) =>
      { s with reqs := s.reqs.filter fun r => !(decide (r.kind = .fence) && r.ofThreads c.iss.blk c.iss.grp c.iss.lanes) }
    if m = 0 then .done s 0
    else if anyCause (badOwner own m) then .raise (badOwner own m) 0 false
    else match own with
      | none => if c.fenceOk s x then .done s 0 else .wait s
      | some k =>
        match s.fenceMark c with
        | none =>
          if !s.loadsQuiet c.iss.blk c.iss.grp m then .wait s
          else if c.fenceOk s x && (s.acceptedAt k).isEmpty then .done s 0
          else .wait { s.fresh with reqs := s.reqs ++
            [{ c.req x .fence .global with
               id := s.nextId, threads := c.iss.lanes, takers := m, size := 0, order := 0, owner := own, acks := s.acceptedAt k }] }
        | some r => if c.fenceOk s x && s.allPerformed r.acks then .done (clear s) 0 else .wait s

end Sys2Proof.Machine
end

