-- ==== Sys2Proof/Machine/System.lean ====
section
/-!
DEFINITION. The system instructions and the control and status registers (18_system.md R297 to R305): 0xE0 to 0xE4.
-/

namespace Sys2Proof.Machine

/-- LINKSTAT: the state code of port p in bits 4p + 3 : 4p (19 R342). -/
def Fabric.linkstat (f : Fabric) : Nat :=
  (List.range 16).foldl (fun a p => a + (f.ports[p]?.getD Port.zero).state % 16 * 2 ^ (4 * p)) 0

/-- SPARESTAT (21 R365). -/
def State.sparestat (s : State) : Nat :=
  let out := (s.cores.toList.filter (·.outSvc)).length
  (List.range 4).foldl (fun a d => a + min 7 (s.fw.spares[d]?.getD []).length * 2 ^ (3 * d)) 0
    + s.fw.warn.toNat * 2 ^ 12 + s.fw.lanewarn.toNat * 2 ^ 16 + min 255 s.fw.memspare.length * 2 ^ 32
    + min 255 s.fw.l2ways * 2 ^ 40 + min 255 s.fw.flash * 2 ^ 48
    + (if s.cores.toList.any (·.worn) then 2 ^ 56 else 0) + min 63 out * 2 ^ 57

/-- ARCHID (R298). -/
def State.archid (s : State) : Nat := 0x90_0101 + s.fab.device % 16 * 2 ^ 24

/-- EBUDGET of a context: USED saturates at 0xFFFF_FFFF (21 R362). -/
def Context.ebudget (c : Context) : Nat := c.budget % 2 ^ 32 + min c.used 0xFFFF_FFFF * 2 ^ 32

/-- The value of a control and status register (R297). -/
def Ctx.csr (c : Ctx) (s : State) (n : Nat) : W64 :=
  match n with
  | 0x000 => BitVec.ofNat 64 s.archid
  | 0x010 => c.g.cause
  | 0x011 => c.g.tvec
  | 0x012 => c.g.tepc
  | 0x013 => c.g.tmask
  | 0x014 => c.g.tstatNow
  | 0x015 => c.g.tscratch
  | 0x018 => c.g.faddr
  | 0x019 => c.g.fkind
  | 0x01A => c.g.fpc
  | 0x020 => c.g.fstat
  | 0x030 => (s.cores[c.b.core]?.getD CoreSt.zero).ecount
  | 0x031 => BitVec.ofNat 64 (((s.context? c.l.ctx).map (·.ebudget)).getD 0)
  | 0x040 => BitVec.ofNat 64 s.fab.linkstat
  | 0x041 => BitVec.ofNat 64 s.sparestat
  | _ => 0

/-- The bits of FSTAT that clear when a 1 is written (06 R111): 6:0, 16 and 47:32. -/
def fstatW1c : W64 := 0x0000_FFFF_0001_007F

/-- A group's register after CSRW, under each field's access (R297, R303). A flag set in the same cycle stays set (06
R112). -/
def Group.csrWrite (g : Group) (n : Nat) (w : W64) : Group :=
  match n with
  | 0x011 => { g with tvec := (g.tvec &&& 0xFFFF_FFFF_0000_0000#64) ||| (w &&& 0x0000_0000_FFFF_FFFF#64) }
  | 0x012 => { g with tepc := w }
  | 0x015 => { g with tscratch := w }
  | 0x020 => { g with fstat := g.fstat &&& ~~~(w &&& fstatW1c &&& ~~~g.newFlags) }
  | _ => g

/-- Whether a request acts at a peer, or may turn out to when it is translated (R131). -/
def State.mayGoToPeer (s : State) (r : Req) : Bool :=
  match r.entry? with
  | none => true
  | some e => s.entries.any fun x => x.id == e && match targetOf x.pa with
    | .peer _ _ => true
    | _ => false

/-- Whether some of n bytes of a context lie at a peer, or may when they are translated. -/
def State.mayReachPeer (s : State) (c : Context) (va n : Nat) : Bool :=
  (List.range (n / 2 ^ 16 + 2)).any fun i => match s.walk c (va + 2 ^ 16 * i) with
    | .ok pa _ _ _ => match targetOf (Xlat.addr pa va) with
      | .peer _ _ => true
      | _ => false
    | _ => true

/-- Whether the slots of a probe that has not run may lie at a peer: they stand in the id list of its handle (13 R255). -/
def State.slotsMayGoToPeer (s : State) (p : Probe) : Bool :=
  match s.block? p.blk with
  | none => false
  | some b => match (s.launch? b.launch).bind fun l => s.context? l.ctx with
    | none => false
    | some c =>
      let h := b.th[bitsOf p.par.toNat 51 48]?.getD (Vector.replicate 8 0)
      s.mayReachPeer c h[5].toNat (4 * bitsOf h[1].toNat 63 32)

/-- Whether an earlier instruction of the group can still set a flag of FSTAT (06 R112): a floating-point atomic, a store or
an atomic that may be reported lost at a peer (19 R339), a TST or a probe that has such stores still to make, or an MMA that
the matrix engine has not performed (10 R193). -/
def State.flagsPending (s : State) (blk grp : Nat) : Bool :=
  (s.probes.any fun p => p.blk == blk && p.grp == grp && !p.ran
    && (match p.kind with | .probe _ => true | _ => false) && s.slotsMayGoToPeer p)
  || (s.reqs.any fun r => r.blk == blk && r.grp == grp && !r.isDone && match r.kind with
    | .atomic op .. => decide (10 ≤ op) || (decide (r.space = .global) && s.mayGoToPeer r)
    | .store => decide (r.space = .global) && s.mayGoToPeer r
    | _ => false)
  || s.mtxq.any fun o => o.blk == blk && !o.started && (match o.kind with | .mma _ | .tst => true | _ => false)
    && o.insns.any fun i => i.1 == grp

/-- TRAP raises cause 0x2C0 + imm[5:0] in each guard-true lane (R304). -/
def execTrap (x : KForm) (s : State) : Host.Outcome State Fault Refusal :=
  s.issue fun c s =>
    if c.on x.g = 0 then .done s 0 else .raise [(.trap (x.imm.extractLsb' 0 6), c.on x.g)] x.imm true

/-- RFT: guard-true handler lanes wait at the rejoin with their new meeting value (R305). -/
def execRft (x : VForm) (s : State) : Host.Outcome State Fault Refusal :=
  s.issue fun c s =>
    let m := c.on x.g
    if m = 0 then .done s 0
    else if !c.g.inTrap || decide (c.iss.lanes &&& c.g.tmaskLanes = 0) then .cause .rftOutsideTrap m
    else .done (s.modGroup c.iss.blk c.iss.grp fun g => g.modLanes m fun l y =>
      { y with st := .rejoin (if x.sub = 1 then c.val x.a l else y.smt) }) m

/-- CSRR (R303). FSTAT is read only when no earlier access can still set a flag (06 R112). -/
def execCsrr (x : SForm) (s : State) : Host.Outcome State Fault Refusal :=
  s.issue fun c s =>
    if c.on x.g = 0 then .done s 0
    else if x.csr = 0x020 && s.flagsPending c.iss.blk c.iss.grp then .wait s
    else c.doneG s fun g => g.putS x.d (c.csr s x.csr.toNat)

/-- CSRW (R303). A write of TVEC by a group admitted with its block writes the block TVEC too (R297), which lies outside a
helper's own registers (04 R67); the registers held once for the group are taken as a helper's own (DEDUCED, log 45). -/
def execCsrw (x : SForm) (s : State) : Host.Outcome State Fault Refusal :=
  s.issue fun c s =>
    if c.on x.g = 0 then .done s 0
    else
      let w := c.sval x.a
      let t := s.modGroup c.iss.blk c.iss.grp fun g => g.csrWrite x.csr.toNat w
      .done (if x.csr = 0x011 && !c.g.task && c.real x.g != 0 then
        t.modBlock c.iss.blk fun b => { b with btvec := (c.g.csrWrite 0x011 w).tvec } else t) 0

/-- BKPT raises BREAKPOINT in each guard-true lane (R304). -/
def execBkpt (x : KForm) (s : State) : Host.Outcome State Fault Refusal :=
  s.issue fun c s => if c.on x.g = 0 then .done s 0 else .raise [(.breakpoint, c.on x.g)] x.imm true

end Sys2Proof.Machine
end

