-- ==== Sys2Proof/Machine/Versions.lean ====
section
/-!
DEFINITION. Versioned regions (11_versions.md R205 to R220) and the version instructions: 0xA0 to 0xA6. VNLD and VNST
post requests that Pipeline.lean carries to their homes; VNPUB and VNFLOOR send a request to the region home and issue when
every slice has acknowledged the new P or F.
-/

namespace Sys2Proof.Machine

/-! ### Region entries (R205) -/

/-- The REASON of FKIND for a page that a region may not hold, if any (R205, R301). -/
def State.pageReason (s : State) (c : Context) (va : Nat) : Option Nat :=
  if 2 ^ 52 ≤ va then some 4
  else match s.walk c va with
    | .invalid => some 0
    | .malformed => some 3
    | .unmapped => some 4
    | .ok pa _ w _ => if !w then some 1 else if pa / 2 ^ 46 ≠ 0 then some 4 else none

/-- The first page from va, of n, that a region may not hold, with its reason. -/
def State.badPage (s : State) (c : Context) (va : Nat) : Nat → Option (Nat × Nat)
  | 0 => none
  | n + 1 =>
    match s.pageReason c va with
    | some r => some (r, va)
    | none => State.badPage s c (va + 2 ^ 16) n

/-- The fields of a 32-byte region entry (03 R56). -/
structure RegionEntry where
  base  : Nat
  size  : Nat
  depth : Nat
  pool  : Nat
  res0  : Bool
  deriving DecidableEq, Repr

def RegionEntry.ofBytes (bs : List Byte) : RegionEntry where
  base := ofLe (bs.take 8)
  size := ofLe ((bs.drop 8).take 8)
  depth := ofLe ((bs.drop 16).take 1)
  pool := ofLe ((bs.drop 20).take 4)
  res0 := ofLe ((bs.drop 17).take 3) != 0 || ofLe ((bs.drop 24).take 8) != 0

/-- Whether the fields of an entry are in range (R205). -/
def RegionEntry.fieldsOk (e : RegionEntry) : Bool :=
  decide (e.base % 2 ^ 16 = 0 ∧ e.size ≠ 0 ∧ e.size % 128 = 0 ∧ 2 ≤ e.depth ∧ e.depth ≤ 64 ∧ 1 ≤ e.pool ∧ e.pool ≤ 2 ^ 24)
    && !e.res0

/-- What breaks R205 in an entry, as an FKIND reason and an address: a field (7, refused by a region rule), a page, or
an overlap with a live region of the context (5). -/
def State.entryReason (s : State) (c : Context) (e : RegionEntry) : Option (Nat × Nat) :=
  if !e.fieldsOk then some (7, e.base)
  else match s.badPage c e.base ((e.size + 0xFFFF) / 2 ^ 16) with
    | some r => some r
    | none =>
      match s.regions.find? fun r => r.ctx == c.id && decide (r.base < e.base + e.size ∧ e.base < r.base + r.size) with
      | some r => some (5, max r.base e.base)
      | none => none

/-- The version records of a context's store that no live region has (R205). -/
def State.freeRecords (s : State) (c : Context) : Nat :=
  c.vrecs - ((s.regions.filter fun r => r.ctx == c.id).map (·.pool)).foldl (· + ·) 0

/-- Whether one more region of a pool would pass a limit (R205, R219). -/
def State.regionFull (s : State) (c : Context) (launch pool : Nat) : Bool :=
  decide (256 ≤ (s.regions.filter fun r => r.launch == launch).length)
    || decide (256 ≤ (s.regions.filter fun r => r.ctx == c.id).length) || decide (s.freeRecords c < pool)

/-- A new region: P = F = 0, every record free (R206). -/
def RegionEntry.region (e : RegionEntry) (launch ctx num : Nat) (opened : Bool) : Region :=
  ⟨launch, ctx, num, e.base, e.size, e.depth, e.pool, e.pool, 0, 0, Vector.replicate 48 (0, 0), [], [], false, opened⟩

/-- The lowest region number that a launch does not use. -/
def State.freeNumber (s : State) (launch : Nat) : Nat :=
  ((List.range 256).find? fun n => (s.region? launch n).isNone).getD 0

/-! ### VNLD and VNST (R216) -/

/-- The version register of VNLD and VNST with its cause. -/
def Ctx.verCauses (c : Ctx) (x : MForm) : List (Cause × Mask) :=
  [(.versionRange, if (c.sval x.o.c).toNat < 2 ^ 32 then 0 else c.on x.g)]

/-- VNLD: one request a lane, blocking at its home until its version is published (R216). -/
def execVnld (x : MForm) (s : State) : Host.Outcome State Fault Refusal :=
  s.issueN 1 (·.on x.g) fun c s =>
    let m := c.on x.g
    let cs := globalCauses m x.bytes (c.eaG x) ++ c.verCauses x
    if anyCause cs then .raise cs 0 false
    else if m = 0 then .done s 0
    else if c.full .lc then .wait s
    else c.post s x.la (c.insn .lc m (run x.d.vnum (runLen x.bytes)) [])
      ((lanesOf m).map fun l =>
        { (c.req x (.vnld (c.sval x.o.c).toNat) .global).lane l with
          helper := (c.r.lane l).helper
          addr := c.eaG x l
          dst := some x.d.vnum })

/-- VNST: one request for each lane that is not a helper (R211, R216). -/
def execVnst (x : MForm) (s : State) : Host.Outcome State Fault Refusal :=
  s.issue fun c s =>
    let m := c.real x.g
    let cs := globalCauses (c.on x.g) x.bytes (c.eaG x) ++ c.verCauses x
    if anyCause cs then .raise cs 0 false
    else if m = 0 then .done s 0
    else if c.full .sc then .wait s
    else c.post s x.la (c.insn .sc m [] [])
      ((lanesOf m).map fun l =>
        { (c.req x (.vnst (c.sval x.o.c).toNat) .global).lane l with
          addr := c.eaG x l
          parts := [⟨l, c.storeData x.d.vnum x.bytes l, [], []⟩] })

/-! ### The uniform instructions (R217) -/

/-- The live region of the launch that a register names: its bits 63:8 are zero. -/
def Ctx.region (c : Ctx) (s : State) (a : Opnd) : Option Region :=
  if (c.sval a).toNat < 256 then s.region? c.b.launch (c.sval a).toNat else none

/-- A uniform version instruction on a region: nothing for helpers alone, then REGION_INVALID. -/
def Ctx.onRegion (c : Ctx) (s : State) (g : BitVec 4) (a : Opnd) (f : Region → Res) : Res :=
  if c.real g = 0 then .done s 0
  else match c.region s a with
    | none => .cause .regionInvalid (c.on g)
    | some r => f r

/-- The VNSTs that a core's Sifter has accepted and that have not been applied or refused (R213, step 1). -/
def State.vnstsAt (s : State) (core : Nat) : List Nat :=
  (s.reqs.filter fun r => r.core == core && r.isVnst && r.accepted && !r.isDone).map (·.id)

/-- Whether the requests of a list have been performed, or are gone. -/
def State.allDone (s : State) (ids : List Nat) : Bool := s.reqs.all fun r => !ids.contains r.id || r.isDone

def Region.enginesOf (r : Region) (v : Nat) : Nat := assocGet r.engines v

/-- The publication point (R213, step 3): the home sets P, which the slices' copies show later. -/
def State.publish (s : State) (launch num v : Nat) : State := s.modRegion launch num fun r => { r with pub := v }

/-- The request that a lane set has at a region home from the instruction at its PC. -/
def State.homeReq (s : State) (c : Ctx) : Option HomeReq :=
  s.home.find? fun h => h.blk == c.iss.blk && h.grp == c.iss.grp && h.pc == c.iss.pc && (h.takers &&& c.iss.lanes) != 0

/-- The lanes of a set for which a request stands: a lane that has come to the instruction since takes no part (DEDUCED, log
37). -/
def Ctx.asked (c : Ctx) (h : HomeReq) : Mask := h.lanes &&& c.iss.lanes

/-- The guard-true lanes for which a request stands. -/
def Ctx.askedOn (c : Ctx) (h : HomeReq) : Mask := h.takers &&& c.iss.lanes

/-- An instruction issues for the lanes of its request; any other lane of the set stays before it. -/
def Ctx.issuesFor (c : Ctx) (h : HomeReq) (k : Res) : Res :=
  match k with
  | .done t own =>
    let late := c.iss.lanes &&& ~~~h.lanes
    .done (t.modGroup c.iss.blk c.iss.grp (c.stayOf late)) (own ||| late)
  | k => k

/-- An instruction that has sent a request goes on with it, whatever its registers and guards hold by now: once it is answered
it issues with the answer's effect, and until then `go` says how it stands. One that has sent none does `k` (R217, R224,
R229, R256). -/
def Ctx.answerOr (c : Ctx) (s : State) (go : HomeReq → Res) (k : Res) : Res :=
  match s.homeReq c with
  | some h => c.issuesFor h (if h.answered then .done (s.homeEffect h) 0 else go h)
  | none => k

def State.dropHome (s : State) (id : Nat) : State := { s with home := s.home.filter fun h => h.id != id }

/-- Send a request to the home of a region of the launch for the lane set, whose guard-true lanes are those of m. -/
def Ctx.askHome (c : Ctx) (s : State) (m : Mask) (region ver : Nat) (op : HomeOp) (done : Bool := false)
    (waits : List Nat := []) (dst : Option Nat := none) (hf : Nat := 0) : State :=
  let h : HomeReq := {
    id := s.nextId, blk := c.iss.blk, grp := c.iss.grp, lanes := c.iss.lanes, takers := m, pc := c.iss.pc, hdr := c.iss.hdr
    cnt := c.iss.cnt, region := region, launch := c.b.launch, ver := ver, op := op, dst := dst, hf := hf, waits := waits
    done := done, ans := none }
  { s.fresh with home := s.home ++ [h] }

/-- Whether what a request of a lane set has to wait for before it goes to its home is over, so that it has been sent: a
VNPUB waits for its threads' accesses and for its core's VNSTs; the others go at once, but for a registration of PUSH, HINS
or HDEL, which is given up with its lane set (R213, R225, R241, R265). -/
def State.homeSent (s : State) (h : HomeReq) : Bool :=
  match h.op with
  | .publish => h.done || (s.quiet h.blk h.grp h.takers 4 && s.allDone h.waits)
  | .push _ | .queued _ | .side _ => false
  | _ => true

/-- Store one byte in a version of a region, taking a record of its line and version when there is none (R211). The pool
is not counted here. -/
def Region.store1 (r : Region) (va v : Nat) (b : Byte) : Region :=
  let put := fun (x : VRec) =>
    { x with
      data := x.data.setIfInBounds (va % 128) b
      mask := x.mask ||| BitVec.ofNat 128 (2 ^ (va % 128)) }
  if r.recs.any fun x => x.line == va / 128 && x.ver == v then
    { r with recs := r.recs.map fun x => if x.line = va / 128 ∧ x.ver = v then put x else x }
  else { r with recs := put ⟨va / 128, v, Vector.replicate 128 0, 0⟩ :: r.recs }

/-- Store bytes in a version of a region. -/
def Region.store (r : Region) (va v : Nat) (bs : List Byte) : Region :=
  bs.zipIdx.foldl (fun r (p : Byte × Nat) => r.store1 (va + p.2) v p.1) r

/-- Count the records that an operation on a region has taken from its pool; none when the pool cannot supply them
(R212). -/
def Region.charge (r old : Region) : Option Region :=
  let n := r.recs.length - old.recs.length
  if old.free < n then none else some { r with free := old.free - n }

/-- A publication that its home has not passed: it waits, or the home's checks turn it away (R213). -/
def Ctx.publishing (c : Ctx) (s : State) (h : HomeReq) : Res :=
  let m := c.askedOn h
  match s.region? h.launch h.region with
  | none => .cause .regionInvalid m
  | some r =>
    if !s.homeSent h then .wait s
    else if h.ver ≠ r.pub + 1 ∨ h.ver > r.top then
      .raise [(.versionOrder, if h.ver ≠ r.pub + 1 then m else 0), (.versionRange, if h.ver > r.top then m else 0)] 0 false
    else .wait s

/-- VNPUB (R213). When the lane set reaches it, the VNSTs that its core has accepted are noted; when those have been applied
and its threads' accesses performed, the region home checks v and waits for its PUBLICATION_POINT; the instruction issues
when every slice has acknowledged the new P. -/
def execVnpub (x : VForm) (s : State) : Host.Outcome State Fault Refusal :=
  s.issueN 1 (·.on x.g) fun c s => c.answerOr s (c.publishing s) <| c.onRegion s x.g x.a fun r =>
    let m := c.on x.g
    let v := (c.sval x.b).toNat
    if v ≥ 2 ^ 32 then .cause .versionRange m
    else .wait (c.askHome s m r.num v .publish false (s.vnstsAt c.b.core))

/-- VNFLOOR (R214): the home sets F, and the instruction issues when every slice has acknowledged it. -/
def execVnfloor (x : VForm) (s : State) : Host.Outcome State Fault Refusal :=
  s.issueN 1 (·.on x.g) fun c s => c.answerOr s (fun _ => .wait s) <| c.onRegion s x.g x.a fun r =>
    let m := c.on x.g
    let f := (c.sval x.b).toNat
    if f ≥ 2 ^ 32 then .cause .versionRange m
    else if f ≤ r.floor then .done s 0
    else if f > r.pub then .cause .versionRange m
    else .wait ((c.askHome s m r.num f .floor true).modRegion r.launch r.num fun q => { q with floor := f })

/-- VNWAIT waits until P ≥ v (R218). -/
def execVnwait (x : VForm) (s : State) : Host.Outcome State Fault Refusal :=
  s.issueN 1 (·.on x.g) fun c s => c.onRegion s x.g x.a fun r =>
    if (c.sval x.b).toNat ≥ 2 ^ 32 then .cause .versionRange (c.on x.g)
    else if (c.sval x.b).toNat ≤ r.pub then .done s 0
    else .wait s

/-- One field of a region's state (R220). -/
def Region.stat (r : Region) (sub : Nat) : Nat :=
  match sub with
  | 0 => r.pub
  | 1 => r.floor
  | 2 => r.depth
  | 3 => r.free
  | 4 => r.pool
  | 5 => r.base
  | _ => r.size

/-- VNSTAT (R220). -/
def execVnstat (x : VForm) (s : State) : Host.Outcome State Fault Refusal :=
  s.issueN 1 (·.on x.g) fun c s => c.onRegion s x.g x.a fun r => c.scal s x.g x.d (BitVec.ofNat 64 (r.stat (subN x)))

/-- The bytes of a peer's memory that the firmware has read for the launch that it validates; none where a read has failed. -/
def State.farBytes (s : State) (dev off n : Nat) : Option (List Byte) :=
  (List.range n).mapM fun i =>
    ((s.fw.lines.find? fun l => l.1 == dev && l.2.1 == (off + i) / 128).bind (·.2.2)).map fun bs => bs.getD ((off + i) % 128) 0

/-- The bytes of global memory that the firmware reads for a launch, or the FKIND reason why it cannot; those of a peer's memory
stand in the lines that it has answered, and none of a lost peer's can be read (R57, R131, R339). A range that lies in a live
versioned region reads as version P, by the copy of P at the slice of its first line (DEDUCED, log 23). -/
def State.readVa (s : State) (c : Context) (va n : Nat) : Except Nat (List Byte) :=
  match s.walk c va with
  | .invalid => .error 0
  | .malformed => .error 3
  | .unmapped => .error 4
  | .ok pa key _ _ =>
    match s.readHome c.id va (Xlat.addr pa va) key n with
    | .bytes bs => .ok bs
    | .poisoned => .error 6
    | .denied => .error 4
    | .remote d off =>
      if s.fab.lost.contains d then .error 4
      else match s.farBytes d off n with
        | some bs => .ok bs
        | none => .error 4

/-- The FKIND reason why a translation fails, if it does. -/
def Xlat.reason? : Xlat → Option Nat
  | .ok .. => none
  | .invalid => some 0
  | .malformed => some 3
  | .unmapped => some 4

/-- The cause under which VNOPEN raises what its read of the entry meets (DEDUCED, log 32). -/
def entryCause (c : Cause) : Cause := if c = .fabricPeerLost ∨ c = .translationAbort then c else .regionBadEntry

/-- VNOPEN creates a region from an entry in memory, read before it issues (R219). -/
def execVnopen (x : VForm) (s : State) : Host.Outcome State Fault Refusal :=
  s.issueN 1 (·.on x.g) fun c s =>
    let a := (c.sval x.a).toNat
    let m := c.on x.g
    let bad := fun (r va : Nat) =>
      Res.fail [(.regionBadEntry, m)] (BitVec.ofNat 64 va, fkindOf 10 r 32, c.iss.pc)
    let cs := globalCauses m 32 fun _ => a
    match s.context? c.l.ctx with
    | none => .done s 0
    | some k =>
      if c.real x.g = 0 then .done s 0
      else if anyCause cs then .raise cs 0 false
      else if !s.quiet c.iss.blk c.iss.grp (c.on x.g) 4 then .wait s
      else match (s.walk k a).reason? with
        | some r => bad r a
        | none => c.reading s m a 32 10 entryCause fun bs s =>
          let e := RegionEntry.ofBytes bs
          if s.regionFull k c.b.launch e.pool then .cause .regionLimit m
          else match s.entryReason k e with
            | some (r, va) => bad r va
            | none =>
              let n := s.freeNumber c.b.launch
              c.scal { s with regions := s.regions ++ [e.region c.b.launch k.id n true] } x.g x.d (BitVec.ofNat 64 n)

end Sys2Proof.Machine
end

