-- ==== Sys2Proof/Machine/Matrix.lean ====
section
/-!
DEFINITION. The matrix engine, its buffers, the tensor handles and the matrix instructions (10_matrix.md R182 to R203):
0x90 to 0x9A. An instruction is accepted in the step in which it issues, with everything it reads from registers and
handles; its effect on the W, A and C shares follows in acceptance order, at once unless it waits behind a TLD of its
block whose source is still being read.
-/

namespace Sys2Proof.Machine

/-! ### Tensor handles (R184 to R186) -/

def Handle.dw (h : Handle) (i : Nat) : Nat := (h[i]?.getD 0).toNat
def Handle.type (h : Handle) : Nat := bitsOf (h.dw 0) 3 0
def Handle.slot (h : Handle) : Nat := bitsOf (h.dw 0) 6 4
def Handle.space (h : Handle) : Nat := bitsOf (h.dw 0) 8 7
def Handle.rows (h : Handle) : Nat := bitsOf (h.dw 0) 47 16
def Handle.cols (h : Handle) : Nat := bitsOf (h.dw 0) 63 48
def Handle.stride (h : Handle) : Nat := bitsOf (h.dw 1) 31 0
def Handle.capacity (h : Handle) : Nat := bitsOf (h.dw 1) 63 32
def Handle.count (h : Handle) : Nat := bitsOf (h.dw 2) 31 0
def Handle.base (h : Handle) : Nat := h.dw 4
def Handle.aux0 (h : Handle) : Nat := h.dw 5
def Handle.aux1 (h : Handle) : Nat := h.dw 6
def Handle.scaleoff (h : Handle) : Nat := bitsOf (h.dw 7) 31 0

/-- A handle is unset when its rows or cols field is zero (R185). -/
def Handle.unset (h : Handle) : Bool := h.rows == 0 || h.cols == 0

/-- Dword 2 of a handle. -/
def handleDw2 (count stoprow : Nat) (ovf : Bool) : W64 :=
  BitVec.ofNat 64 (count % 2 ^ 32 + stoprow % 2 ^ 31 * 2 ^ 32 + (if ovf then 2 ^ 63 else 0))

def Block.handle (b : Block) (i : Nat) : Handle := b.th[i]?.getD (Vector.replicate 8 0)

/-- Bits of an element of a slot's format (R185). -/
def FmtSlot.bits (f : FmtSlot) : Nat :=
  match f.elem with
  | 1 => 64
  | 2 => 32
  | 3 | 4 => 16
  | 6 => 4
  | _ => 8

/-- The side T of a block-float slot's scale tile; 0 for another format (R106). -/
def FmtSlot.tileT (f : FmtSlot) : Nat := if f.elem = 5 ∨ f.elem = 6 then (if f.tile = 2 then 32 else 16) else 0

def FmtSlot.kbf (f : FmtSlot) : Kbf := if f.elem = 6 then kbf4 else kbf8

def ceilDiv (a b : Nat) : Nat := (a + b - 1) / b

/-- Shape field k after substitution (R31). -/
def Ctx.shape (c : Ctx) (x : TForm) (k : Nat) : Nat :=
  let v := (x.field k).toNat
  if 0xFF00 ≤ v then (c.sreg (v - 0xFF00)).toNat % 2 ^ 16 else v

def Ctx.shapes (c : Ctx) (x : TForm) : List Nat := (List.range 16).map (c.shape x)

/-- Whether a shape field outside those an instruction uses is not zero (R187). -/
def shapeUnused (sh : List Nat) (used : List Nat) : Bool := (List.range 16).any fun k => !used.contains k && sh.getD k 0 != 0

/-- Checks as causes of one mask. -/
def causesOf (m : Mask) (cs : List (Bool × Cause)) : List (Cause × Mask) := cs.map fun c => (c.2, if c.1 then m else 0)

/-! ### Elements -/

/-- Element e of b bits of a row of 32-bit words (R185). -/
def elemOf (b : Nat) (ws : List W32) (e : Nat) : Nat := (ws.getD (e * b / 32) 0).toNat / 2 ^ (e * b % 32) % 2 ^ b

/-- The value of an element of a float or block-float format, with its tile's pair E_lo, E_hi (R105, R106). -/
def FmtSlot.value (f : FmtSlot) (pair : Nat × Nat) (x : Nat) : FVal :=
  match f.elem with
  | 3 => f16.decode x
  | 4 => bf16.decode x
  | _ => f.kbf.decode pair.1 pair.2 x

/-- The value of an I8 or N8 element. -/
def FmtSlot.int (f : FmtSlot) (x : Nat) : Int := if f.elem = 7 ∧ 128 ≤ x then (x : Int) - 256 else x

/-- 32-bit words of a run of bytes. -/
def wordsOf (bs : List Byte) : List W32 :=
  (List.range (ceilDiv bs.length 4)).map fun i => BitVec.ofNat 32 (ofLe ((bs.drop (4 * i)).take 4))

/-- A row of an operand: its element words and the pairs of its column tiles. -/
structure MRow where
  ws    : List W32
  pairs : List (Nat × Nat)
  deriving DecidableEq, Repr

/-- The pair of a column. -/
def MRow.pair (r : MRow) (t e : Nat) : Nat × Nat := if t = 0 then (0, 0) else r.pairs.getD (e / t) (0, 0)

/-- The A row of a lane: K elements, then an exponent register for each column tile, E_hi in bits 15:8 (R191). -/
def aRow (f : FmtSlot) (k : Nat) (ws : List W32) : MRow :=
  let na := k * f.bits / 32
  ⟨ws.take na, (ws.drop na).map fun w => (w.toNat % 256, w.toNat / 256 % 256)⟩

/-- Registers of an A run: K elements and the exponents of K ÷ T tiles (R191). -/
def aRegs (f : FmtSlot) (k : Nat) : Nat := k * f.bits / 32 + (if f.tileT = 0 then 0 else k / f.tileT)

/-! ### The product (R193) -/

/-- One product and the flag it raises. -/
def prodV (x y : FVal) : FVal × Nat :=
  match x, y with
  | .nan _, _ => (.nan false, snanFlag [x, y])
  | _, .nan _ => (.nan false, snanFlag [x, y])
  | .inf a, y => if y.isZero then (.nan false, flagNV) else (.inf (a ^^ y.isNeg), 0)
  | x, .inf b => if x.isZero then (.nan false, flagNV) else (.inf (x.isNeg ^^ b), 0)
  | .fin a m e, .fin b n g => (.fin (a ^^ b) (m * n) (e + g), 0)

/-- The exact sum of two values; an exact zero sum is +0. The NV of infinities of both signs is groupSum's, for no order of
the columns may hide it (DEDUCED, log 31). -/
def sumV (x y : FVal) : FVal :=
  match x, y with
  | .nan _, _ => .nan false
  | _, .nan _ => .nan false
  | .inf a, .inf b => if a = b then .inf a else .nan false
  | .inf a, _ => .inf a
  | _, .inf b => .inf b
  | .fin a m e, .fin b n g =>
    let k := min e g
    let t := scaled a m e k + scaled b n g k
    .fin (decide (t < 0)) t.natAbs k

/-- The exact sum of the products of one group of G columns, with its flags. The sum is one operation, so that infinities
of both signs among its products set NV wherever they stand and whatever else it meets (DEDUCED, log 31). -/
def groupSum (fa fb : FmtSlot) (ra rb : MRow) (lo n : Nat) : FVal × Nat :=
  let ps := (List.range n).map fun i =>
    let e := lo + i
    prodV (fa.value (ra.pair fa.tileT e) (elemOf fa.bits ra.ws e)) (fb.value (rb.pair fb.tileT e) (elemOf fb.bits rb.ws e))
  let both := (ps.any fun p => decide (p.1 = .inf false)) && ps.any fun p => decide (p.1 = .inf true)
  ((ps.map (·.1)).foldl sumV (.fin false 0 0),
   ps.foldl (fun f p => f ||| p.2) (if both then flagNV else 0))

/-- RNE, with no flush to zero. -/
def rne : Rnd := ⟨0, false, false⟩

/-- One element of C after a float product: each group's sum is rounded, then added and rounded (R193). -/
def dotF (fa fb : FmtSlot) (g k : Nat) (ra rb : MRow) (acc : Nat) : Nat × Nat :=
  (List.range (k / g)).foldl (fun (a : Nat × Nat) q =>
    let s := groupSum fa fb ra rb (q * g) g
    let r := f32.convert rne s.1
    let t := f32.addV rne (f32.decode a.1) (f32.decode r.1)
    (t.1, a.2 ||| s.2 ||| r.2 ||| t.2)) (acc, 0)

/-- One element of C after an integer product, wrapping (R193). -/
def dotI (fa fb : FmtSlot) (k : Nat) (ra rb : MRow) (acc : Nat) : Nat :=
  (((List.range k).foldl (fun (a : Int) e => a + fa.int (elemOf fa.bits ra.ws e) * fb.int (elemOf fb.bits rb.ws e))
    (acc : Int)) % 2 ^ 32).toNat

/-- Whether a slot's format is an integer one. -/
def FmtSlot.integer (f : FmtSlot) : Bool := f.elem == 7 || f.elem == 8

/-- The format pairs of MMA: group size and K limit (R191). -/
def mmaPair (a b : Nat) : Option (Nat × Nat) :=
  if (a = 3 ∨ a = 4) ∧ 3 ≤ b ∧ b ≤ 6 then some (16, 128)
  else if a = 5 ∧ (b = 5 ∨ b = 6) then some (32, 256)
  else if a = 6 ∧ b = 6 then some (64, 512)
  else if (a = 7 ∨ a = 8) ∧ (b = 7 ∨ b = 8) then some (32, 256)
  else none

/-! ### Checks of MMA and MMAS (R182, R190 to R195) -/

/-- The bytes of row i of a C region, and whether two regions share a byte (R195). -/
def regionsMeet (coff cpitch n rows coff' cpitch' n' rows' : Nat) : Bool :=
  (List.range rows).any fun i => (List.range rows').any fun j =>
    decide (coff + i * cpitch < coff' + j * cpitch' + 4 * n' ∧ coff' + j * cpitch' < coff + i * cpitch + 4 * n)

def Shadow.is (s : Shadow) (coff cpitch n rows : Nat) : Bool :=
  s.coff == coff && s.cpitch == cpitch && s.n == n && s.rows == rows

/-- Whether a C region overlaps an open shadow region, other than itself where same is set. -/
def Block.shadowMeets (b : Block) (coff cpitch n rows : Nat) (same : Bool) : Bool :=
  b.shadows.any fun s => regionsMeet coff cpitch n rows s.coff s.cpitch s.n s.rows && !(same && s.is coff cpitch n rows)

/-- Whether opening one more region would pass the limits of R195. -/
def Block.shadowFull (b : Block) (coff cpitch n rows : Nat) : Bool :=
  !(b.shadows.any fun s => s.is coff cpitch n rows)
    && (decide (4 ≤ b.shadows.length)
      || decide (8192 < (b.shadows.map fun s => 4 * s.n * s.rows).foldl (· + ·) 0 + 4 * n * rows))

/-- What an MMA or MMAS checks of its handle or dense B operand, K elements wide and N rows deep (R192). Of an unset handle
only the shape fields beside it are checked (DEDUCED, log 31). -/
def mmaB (r : LRec) (fb : FmtSlot) (h : Option Handle) (sh : List Nat) : List (Bool × Cause) :=
  let n := sh.getD 0 0
  let k := sh.getD 1 0
  let kb := ceilDiv (k * fb.bits) 8
  let tc := fun (cols : Nat) => if fb.tileT = 0 then 0 else ceilDiv cols fb.tileT
  match h with
  | none =>
    [(sh.getD 5 0 % 32 != 0 || decide (sh.getD 5 0 < kb) || (sh.getD 6 0 != 0 && fb.tileT == 0), .shapeInvalid),
     (decide (r.wExtent < sh.getD 4 0 * 32 + (n - 1) * sh.getD 5 0 + kb)
       || (fb.tileT != 0 && decide (r.wExtent < sh.getD 6 0 * 32 + 2 * n * tc k)), .bufferRange)]
  | some h =>
    let fields := (sh.getD 4 0 != 0 || sh.getD 5 0 != 0 || sh.getD 6 0 != 0, Cause.shapeInvalid)
    if h.unset then [fields] else
    let rowBad := fun (i : Nat) => decide (r.wExtent < h.base + i * h.stride + kb)
      || decide (fb.tileT ≠ 0 ∧ r.wExtent < h.scaleoff + 2 * (i * tc h.cols + tc k))
    [fields, (decide (h.cols < k), .shapeInvalid),
     (h.space != 1 || h.type == 2 || decide (3 < h.type), .handleType),
     (h.type != 1 && decide (h.rows < n), .tensorRange),
     (h.space == 1 && h.type == 0 && (List.range n).any rowBad, .bufferRange),
     (h.space == 1 && h.type == 1 && decide (r.wExtent < h.aux0 + 4 * min n h.count), .bufferRange),
     (h.space == 1 && h.type == 3 && decide (r.wExtent < h.aux0 + 4 * (ceilDiv n 16 + 1)), .bufferRange)]

/-- The causes of an MMA or MMAS that all members of a joint operation share (R190 to R195). A K of 0 is no shape: the
sum of R193 runs over at least one group (DEDUCED, log 28). An unset handle names no B format: of the pair's checks only
A's own format is checked beside it (DEDUCED, log 31). -/
def mmaCauses (b : Block) (r : LRec) (shadow : Bool) (fa fb : FmtSlot) (h : Option Handle) (sh : List Nat) (members : Nat) :
    List (Bool × Cause) :=
  let n := sh.getD 0 0
  let k := sh.getD 1 0
  let coff := sh.getD 2 0
  let cp := sh.getD 3 0
  let rows := 32 * members
  let unset := match h with | some h => h.unset | none => false
  let base := [(n % 16 != 0 || decide (n < 16) || decide (256 < n) || coff % 64 != 0 || cp % 64 != 0 || decide (cp < 4 * n)
      || shapeUnused sh [0, 1, 2, 3, 4, 5, 6], Cause.shapeInvalid),
    (decide (r.cExtent < coff + (rows - 1) * cp + 4 * n), .bufferRange), (unset, .handleInvalid)]
  let t := max fa.tileT fb.tileT
  base ++ (if unset then [((mmaPair fa.elem fa.elem).isNone, .formatSlotMismatch)]
      else match mmaPair fa.elem fb.elem with
        | none => [(true, .formatSlotMismatch)]
        | some (g, lim) => [(k == 0 || k % g != 0 || decide (lim < k) || (t != 0 && k % t != 0), .shapeInvalid)])
    ++ mmaB r fb h sh
    ++ [(b.shadowMeets coff cp n rows shadow, .shadowConflict), (shadow && b.shadowFull coff cp n rows, .shadowFull)]

/-- Whether the A run of a matrix format passes v127 (R191), whether or not a latched row is read in its place. -/
def aPast (a : Nat) (fa : FmtSlot) (k : Nat) : Bool :=
  (mmaPair fa.elem fa.elem).isSome && decide (128 < a + aRegs fa k)

/-- What one group's own reuse latch raises (R194). -/
def Group.aCauses (g : Group) (a slot k : Nat) : List (Bool × Cause) :=
  match g.reuse with
  | none => []
  | some u => [(u.a != a || u.slot != slot || u.k != k, .reuseMismatch)]

/-- The A registers that lane l supplies: from the reuse latch when it holds a row, else from the registers (R194). -/
def Group.aWords (g : Group) (a n l : Nat) : List W32 :=
  match g.reuse with
  | none => (List.range n).map fun i => (g.lane l).vreg (a + i)
  | some u => u.rows[l]?.getD []

/-- The reuse latch after the instruction (R194). It holds what each of the 32 lanes would have supplied, those that took no
part or whose guard was false included (DEDUCED, log 31). -/
def Group.latch (g : Group) (reuse : Bool) (a slot k n : Nat) : Option Reuse :=
  if reuse then some ⟨a, slot, k, tab 32 fun l => g.aWords a n l⟩ else none

/-! ### Performing an operation on the shares -/

/-- A B row of the W share (R186, R192). -/
def bRow (w : Memory) (fb : FmtSlot) (k off scale : Nat) : MRow :=
  ⟨wordsOf (w.read off (ceilDiv (k * fb.bits) 8)),
   if fb.tileT = 0 then [] else (List.range (ceilDiv k fb.tileT)).map fun j =>
     ((w.get (scale + 2 * j)).toNat, (w.get (scale + 2 * j + 1)).toNat)⟩

/-- Row n of an expanded TILECSR tensor in the W share, or BUFFER_RANGE when it names bytes outside it (R185, R192; that
these bytes, known once W is read, raise BUFFER_RANGE after acceptance and without effect is DESIGN CHOICE, log 31). -/
def tileRow (w : Memory) (ext : Nat) (fb : FmtSlot) (h : Handle) (k n : Nat) : Except Cause MRow :=
  let word := fun (a : Nat) => ofLe (w.read a 4)
  let lo := word (h.aux0 + 4 * (n / 16))
  let hi := word (h.aux0 + 4 * (n / 16) + 4)
  let bytes := 2 * fb.bits
  if decide (lo < hi) && (decide (ext < h.aux1 + 4 * hi) || decide (ext < h.base + hi * 32 * fb.bits)
      || (fb.tileT != 0 && decide (ext < h.scaleoff + 2 * hi))) then .error .bufferRange
  else
    let put := fun (m : Memory × List (Nat × (Nat × Nat))) (t : Nat) =>
      let col := word (h.aux1 + 4 * t)
      if 16 * col < k then
        (m.1.write (col * bytes) (w.read (h.base + t * 32 * fb.bits + n % 16 * bytes) bytes),
         (col, (w.get (h.scaleoff + 2 * t)).toNat, (w.get (h.scaleoff + 2 * t + 1)).toNat) :: m.2)
      else m
    let m := ((List.range (hi - lo)).map (lo + ·)).foldl put ([], [])
    .ok ⟨wordsOf (m.1.read 0 (ceilDiv (k * fb.bits) 8)),
      if fb.tileT = 0 then [] else (List.range (ceilDiv k 16)).map fun j =>
        ((m.2.find? fun p => p.1 == j).map (·.2)).getD (0, 0)⟩

/-- Whether a ROWSET id names bytes outside the W share. -/
def rowOutside (ext : Nat) (fb : FmtSlot) (h : Handle) (k id : Nat) : Bool :=
  decide (ext < h.base + id * h.stride + ceilDiv (k * fb.bits) 8)
    || (fb.tileT != 0 && decide (ext < h.scaleoff + 2 * (id * ceilDiv h.cols fb.tileT + ceilDiv k fb.tileT)))

/-- The N rows of the B operand; none stands for a null row (R192). A ROWSET id that names bytes outside the
share raises BUFFER_RANGE after acceptance and without effect, as TENSOR_RANGE does (DESIGN CHOICE, log 31). -/
def MtxOp.bRows (o : MtxOp) (w : Memory) (ext : Nat) : Except Cause (List (Option MRow)) :=
  let n := o.sh.getD 0 0
  let k := o.sh.getD 1 0
  let fb := o.slotB
  match o.handle with
  | none => .ok ((List.range n).map fun i => some (bRow w fb k (o.sh.getD 4 0 * 32 + i * o.sh.getD 5 0)
      (o.sh.getD 6 0 * 32 + 2 * i * (if fb.tileT = 0 then 0 else ceilDiv k fb.tileT))))
  | some _ =>
    let h : Handle := o.h
    let at_ := fun (id : Nat) => bRow w fb k (h.base + id * h.stride)
      (h.scaleoff + 2 * id * (if fb.tileT = 0 then 0 else ceilDiv h.cols fb.tileT))
    match h.type with
    | 0 => .ok ((List.range n).map fun i => some (at_ i))
    | 1 =>
      let ids := (List.range n).map fun i => if h.count ≤ i then 0xFFFF_FFFF else ofLe (w.read (h.aux0 + 4 * i) 4)
      let real := ids.filter (· != 0xFFFF_FFFF)
      if real.any fun id => decide (h.rows ≤ id) then .error .tensorRange
      else if real.any (rowOutside ext fb h k) then .error .bufferRange
      else .ok (ids.map fun id => if id = 0xFFFF_FFFF then none else some (at_ id))
    | _ => (List.range n).foldr (fun i (acc : Except Cause (List (Option MRow))) =>
        match tileRow w ext fb h k i, acc with
        | .ok r, .ok rs => .ok (some r :: rs)
        | .error c, _ => .error c
        | _, .error c => .error c) (.ok [])

/-- One element of the result, with its flags; a null row gives B = 0. -/
def MtxOp.element (o : MtxOp) (ra : MRow) (rb : Option MRow) (acc : Nat) : Nat × Nat :=
  let k := o.sh.getD 1 0
  let g := ((mmaPair o.slotA.elem o.slotB.elem).map (·.1)).getD 16
  let rb' := rb.getD ⟨[], []⟩
  if o.slotA.integer then (dotI o.slotA o.slotB k ra rb' acc, 0) else dotF o.slotA o.slotB g k ra rb' acc

/-- The words of C, or of a shadow, of one row after MMA. -/
def MtxOp.rowResult (o : MtxOp) (bs : List (Option MRow)) (ws : List W32) (old : Nat → Nat) : List (Nat × Nat) :=
  let ra := aRow o.slotA (o.sh.getD 1 0) ws
  bs.zipIdx.map fun (p : Option MRow × Nat) => o.element ra p.1 (if bitOf o.flags 1 then 0 else old p.2)

/-- An MMA on C: the block and the flags for every participating group. -/
def MtxOp.mmaC (o : MtxOp) (b : Block) (bs : List (Option MRow)) : Block × Nat :=
  o.rows.foldl (fun (st : Block × Nat) r =>
    let a := o.sh.getD 2 0 + r.1 * o.sh.getD 3 0
    let res := o.rowResult bs r.2 fun n => ofLe (st.1.c.read (a + 4 * n) 4)
    ({ st.1 with c := st.1.c.write a (res.map fun x => leBytes 4 x.1).flatten },
     res.foldl (fun f x => f ||| x.2) st.2)) (b, 0)

/-- The words of a C region, row by row. -/
def Block.regionWords (b : Block) (coff cpitch n rows : Nat) : List W32 :=
  ((List.range rows).map fun i => (List.range n).map fun j =>
    BitVec.ofNat 32 (ofLe (b.c.read (coff + i * cpitch + 4 * j) 4))).flatten

/-- An MMAS on the shadow of its region; the first one opens it and fills it from C, or from zero (R195). One to which no
lane supplies a row has no effect, and opens none (R25, R67). -/
def MtxOp.mmaShadow (o : MtxOp) (b : Block) (bs : List (Option MRow)) : Block × Nat :=
  let n := o.sh.getD 0 0
  let coff := o.sh.getD 2 0
  let cp := o.sh.getD 3 0
  let nr := 32 * o.insns.length
  let open_ := b.shadows.find? fun s => s.is coff cp n nr
  let data := match open_ with
    | some s => s.data
    | none => if bitOf o.flags 1 then List.replicate (n * nr) 0 else b.regionWords coff cp n nr
  let res := o.rows.foldl (fun (st : List W32 × Nat) r =>
    let out := o.rowResult bs r.2 fun j => (st.1.getD (r.1 * n + j) 0).toNat
    (st.1.take (r.1 * n) ++ out.map (fun x => BitVec.ofNat 32 x.1) ++ st.1.drop ((r.1 + 1) * n),
     out.foldl (fun f x => f ||| x.2) st.2)) (data, 0)
  let shadows := match open_ with
    | some _ => b.shadows.map fun s => if s.is coff cp n nr then { s with data := res.1 } else s
    | none => if o.rows.isEmpty then b.shadows else b.shadows ++ [⟨coff, cp, n, nr, res.1⟩]
  ({ b with shadows := shadows }, res.2)

/-- ACOMMIT copies each open region into C and closes it (R196). -/
def Block.commit (b : Block) : Block :=
  { b with
    shadows := []
    c := b.shadows.foldl (fun c s => (List.range s.rows).foldl (fun c i =>
      c.write (s.coff + i * s.cpitch) (((s.data.drop (i * s.n)).take s.n).map fun w => leBytes 4 w.toNat).flatten) c) b.c }

/-! ### TLD (R199) -/

/-- The 32 B sectors of a range of bytes. -/
def sectorsOf (a n : Nat) : List Nat := if n = 0 then [] else (List.range ((a + n - 1) / 32 - a / 32 + 1)).map (a / 32 + ·)

/-- A byte of the sectors that have returned. -/
def MtxOp.srcByte (o : MtxOp) (a : Nat) : Byte :=
  match o.got.find? fun p => p.1 == a / 32 with
  | some p => p.2.getD (a % 32) 0
  | none => 0

def MtxOp.srcRead (o : MtxOp) (a n : Nat) : List Byte := (List.range n).map fun i => o.srcByte (a + i)
def MtxOp.srcWord (o : MtxOp) (a : Nat) : Nat := ofLe (o.srcRead a 4)

/-- Whether every sector of a list has returned. -/
def MtxOp.have_ (o : MtxOp) (ss : List Nat) : Bool := ss.all fun q => o.got.any fun p => p.1 == q

/-- The source row of each destination row: none for a null row (R185, R199). -/
def MtxOp.srcRows (o : MtxOp) : List (Option Nat) :=
  (List.range (o.sh.getD 0 0)).map fun i =>
    let e := o.first + i
    if o.h.type = 1 then
      (if o.h.count ≤ e then none
       else if o.srcWord (o.h.aux0 + 4 * e) = 0xFFFF_FFFF then none else some (o.srcWord (o.h.aux0 + 4 * e)))
    else some e

/-- Sectors of the id list, row pointers or tile-row pointers. -/
def MtxOp.stage1 (o : MtxOp) : List Nat :=
  let n := o.sh.getD 0 0
  match o.h.type with
  | 0 => []
  | 1 => sectorsOf (o.h.aux0 + 4 * o.first) (4 * (min n (o.h.count - o.first)))
  | 2 => sectorsOf (o.h.aux0 + 4 * o.first) (4 * (n + 1))
  | _ => sectorsOf (o.h.aux0 + 4 * (o.first / 16)) (4 * ((o.first + n - 1) / 16 - o.first / 16 + 2))

/-- The entries of a CSR row, or the tiles of the tile-row of a row. -/
def MtxOp.span (o : MtxOp) (row : Nat) : List Nat :=
  let i := if o.h.type = 2 then row else row / 16
  let lo := o.srcWord (o.h.aux0 + 4 * i)
  (List.range (o.srcWord (o.h.aux0 + 4 * i + 4) - lo)).map (lo + ·)

/-- The address of the scale pair of a row's column tile in a global DENSE or ROWSET tensor (R107, R186). -/
def MtxOp.pairAt (o : MtxOp) (row tc : Nat) : Nat :=
  let t := o.slotB.tileT
  let tr := ceilDiv o.h.rows t
  let n := ceilDiv o.h.cols t
  o.slotB.scales + (if o.slotB.layout = 0 then 2 * (row / t * n + tc) else 2 * (tc * tr + row / t))

/-- Sectors of the column indices of CSR entries or tiles. -/
def MtxOp.stage2 (o : MtxOp) : List Nat :=
  if o.h.type < 2 then []
  else (o.srcRows.map fun r => match r with
    | none => []
    | some r => ((o.span r).map fun k => sectorsOf (o.h.aux1 + 4 * k) 4).flatten).flatten

/-- Sectors of the elements and scale pairs. -/
def MtxOp.stage3 (o : MtxOp) : List Nat :=
  let b := o.slotB.bits
  let t := o.slotB.tileT
  let col0 := o.sh.getD 1 0
  let n := o.sh.getD 2 0
  (o.srcRows.map fun r => match r with
    | none => []
    | some r =>
      match o.h.type with
      | 2 => ((o.span r).map fun k => sectorsOf (o.h.base + k * (b / 8)) (b / 8)).flatten
      | 3 => ((o.span r).map fun k =>
          sectorsOf (o.h.base + k * 32 * b + r % 16 * 2 * b) (2 * b)
            ++ (if t = 0 then [] else sectorsOf (o.slotB.scales + 2 * k) 2)).flatten
      | _ => sectorsOf (o.h.base + r * o.h.stride + col0 * b / 8) (n * b / 8)
          ++ (if t = 0 then [] else ((List.range (n / t)).map fun j => sectorsOf (o.pairAt r (col0 / t + j)) 2).flatten)).flatten

/-- The bytes of one destination row (R199). -/
def MtxOp.rowBytes (o : MtxOp) (r : Option Nat) : List Byte :=
  let b := o.slotB.bits
  let col0 := o.sh.getD 1 0
  let n := o.sh.getD 2 0
  let len := n * b / 8
  match r with
  | none => List.replicate len 0
  | some r =>
    match o.h.type with
    | 2 =>
      let m := (o.span r).foldl (fun (m : Memory) k =>
        let col := o.srcWord (o.h.aux1 + 4 * k)
        if col0 ≤ col ∧ col < col0 + n then m.write ((col - col0) * (b / 8)) (o.srcRead (o.h.base + k * (b / 8)) (b / 8))
        else m) []
      m.read 0 len
    | 3 =>
      let m := (o.span r).foldl (fun (m : Memory) k =>
        m.write (o.srcWord (o.h.aux1 + 4 * k) * 2 * b) (o.srcRead (o.h.base + k * 32 * b + r % 16 * 2 * b) (2 * b))) []
      m.read (col0 * b / 8) len
    | _ => o.srcRead (o.h.base + r * o.h.stride + col0 * b / 8) len

/-- The scale pairs of one destination row, E_lo first (R186, R199). -/
def MtxOp.rowPairs (o : MtxOp) (r : Option Nat) : List Byte :=
  let t := o.slotB.tileT
  let col0 := o.sh.getD 1 0
  if t = 0 then []
  else ((List.range (o.sh.getD 2 0 / t)).map fun j =>
    match r with
    | none => [0, 0]
    | some r =>
      if o.h.type = 3 then
        match (o.span r).find? fun k => o.srcWord (o.h.aux1 + 4 * k) == col0 / t + j with
        | some k => o.srcRead (o.slotB.scales + 2 * k) 2
        | none => [0, 0]
      else o.srcRead (o.pairAt r (col0 / t + j)) 2).flatten

/-- The runs of bytes that a TLD writes into its share. -/
def MtxOp.tldRuns (o : MtxOp) : List (Nat × List Byte) :=
  let t := o.slotB.tileT
  (o.srcRows.zipIdx.map fun (p : Option Nat × Nat) =>
    [(o.sh.getD 4 0 * 32 + p.2 * o.sh.getD 3 0, o.rowBytes p.1)]
      ++ (if t = 0 then [] else [(o.sh.getD 5 0 * 32 + 2 * (p.2 * (o.sh.getD 2 0 / t)), o.rowPairs p.1)])).flatten

/-! ### TST (R200) -/

/-- Whether an element is not ±0. -/
def FmtSlot.nonzero (f : FmtSlot) (x : Nat) : Bool := if f.elem ≤ 4 then x % 2 ^ (f.bits - 1) != 0 else x != 0

/-- The bytes of element (i, e) of a TST's source in the A share. -/
def MtxOp.tstElem (o : MtxOp) (a : Memory) (i e : Nat) : List Byte :=
  a.read (o.sh.getD 4 0 * 32 + i * o.sh.getD 3 0 + e * (o.slotB.bits / 8)) (o.slotB.bits / 8)

/-- A compaction under way: the global writes, the count p, and the row at which it stopped. -/
structure Compact where
  writes : List (Nat × List Byte)
  p      : Nat
  stop   : Option Nat
  deriving DecidableEq, Repr

/-- One row of a CSR compaction, or one tile-row of a TILECSR one. Where a tile-row stops the compaction, stoprow is its
first row, first + 16·i (DESIGN CHOICE, log 31: R200 writes first + i and counts i in tile-rows). -/
def MtxOp.compactRow (o : MtxOp) (a : Memory) (st : Compact) (i : Nat) : Compact :=
  let b := o.slotB.bits / 8
  let n := o.sh.getD 2 0
  if st.stop.isSome then st
  else if o.h.type = 2 then
    let nz := (List.range n).filter fun e => o.slotB.nonzero (ofLe (o.tstElem a i e))
    if o.h.capacity < st.p + nz.length then { st with stop := some (o.first + i) }
    else
      let out := nz.zipIdx.map fun (q : Nat × Nat) =>
        [(o.h.base + (st.p + q.2) * b, o.tstElem a i q.1), (o.h.aux1 + 4 * (st.p + q.2), leBytes 4 q.1)]
      let p := st.p + nz.length
      ⟨st.writes ++ out.flatten ++ [(o.h.aux0 + 4 * (o.first + i + 1), leBytes 4 p)], p, none⟩
  else
    let tile := fun (t : Nat) => ((List.range 16).map fun r => (List.range 16).map fun e =>
      if 16 * t + e < n then o.tstElem a (16 * i + r) (16 * t + e) else leBytes b 0).flatten
    let nz := (List.range (ceilDiv n 16)).filter fun t => (tile t).any fun x => o.slotB.nonzero (ofLe x)
    if o.h.capacity < st.p + nz.length then { st with stop := some (o.first + 16 * i) }
    else
      let out := nz.zipIdx.map fun (q : Nat × Nat) =>
        [(o.h.base + (st.p + q.2) * 256 * b, (tile q.1).flatten), (o.h.aux1 + 4 * (st.p + q.2), leBytes 4 q.1)]
      let p := st.p + nz.length
      ⟨st.writes ++ out.flatten ++ [(o.h.aux0 + 4 * (o.first / 16 + i + 1), leBytes 4 p)], p, none⟩

/-- What a TST writes, dword 2 of its handle when it retires, and its cause. -/
def MtxOp.tstPlan (o : MtxOp) (a : Memory) : List (Nat × List Byte) × Option W64 × List Cause :=
  let n := o.sh.getD 0 0
  if o.h.type = 0 then
    ((List.range n).map fun i =>
      (o.h.base + (o.first + i) * o.h.stride + o.sh.getD 1 0 * (o.slotB.bits / 8),
       a.read (o.sh.getD 4 0 * 32 + i * o.sh.getD 3 0) (o.sh.getD 2 0 * (o.slotB.bits / 8))), none, [])
  else
    let start := if o.h.type = 2 then o.first else o.first / 16
    let st := (List.range (if o.h.type = 2 then n else n / 16)).foldl (o.compactRow a)
      ⟨[(o.h.aux0 + 4 * start, leBytes 4 o.h.count)], o.h.count, none⟩
    match st.stop with
    | some r => (st.writes, some (handleDw2 st.p r true), [.handleFieldOverflow])
    | none =>
      let old := o.h.dw 2
      (st.writes, some (handleDw2 st.p (bitsOf old 62 32) (bitOf old 63)), [])

/-- The bytes that a TST may write: its rows, or its pointers, and what is left of its capacity. -/
def MtxOp.tstRanges (o : MtxOp) : List (Nat × Nat) :=
  let b := o.slotB.bits / 8
  let n := o.sh.getD 0 0
  if o.h.type = 0 then
    (List.range n).map fun i => (o.h.base + (o.first + i) * o.h.stride + o.sh.getD 1 0 * b, o.sh.getD 2 0 * b)
  else
    let unit := if o.h.type = 2 then b else 256 * b
    let start := if o.h.type = 2 then o.first else o.first / 16
    let rows := if o.h.type = 2 then n else n / 16
    let left := o.h.capacity - o.h.count
    [(o.h.aux0 + 4 * start, 4 * (rows + 1)), (o.h.base + o.h.count * unit, left * unit), (o.h.aux1 + 4 * o.h.count, 4 * left)]

/-- Cut a run of bytes at the lines of 128 B. -/
def cutLines : Nat → Nat → List Byte → List (Nat × List Byte)
  | 0, _, _ => []
  | n + 1, a, bs =>
    let k := 128 - a % 128
    if bs.isEmpty then [] else (a, bs.take k) :: cutLines n (a + k) (bs.drop k)

/-- The store requests of a TST, which act for the threads of its lane set (R183). -/
def State.tstStores (s : State) (o : MtxOp) : State :=
  match o.insns.head?, o.lanes.head? with
  | some (grp, insn), some (_, m) =>
    let ps := (o.writes.map fun w => cutLines (w.2.length / 128 + 2) w.1 w.2).flatten
    let rs := ps.zipIdx.map fun (q : (Nat × List Byte) × Nat) =>
      { unitReq s.nextId insn o.core o.blk grp m .store q.1.1 q.1.2.length with
        id := s.nextId + q.2, parts := [⟨lowest m, q.1.2, [], []⟩] }
    { s with
      nextId := s.nextId + ps.length
      reqs := s.reqs ++ rs }
  | _, _ => s

/-! ### Performing operations in engine order (R183) -/

/-- Apply an operation's effect on the shares. Its flags go to every participating group. -/
def State.mtxPerform (s : State) (o : MtxOp) : State :=
  match s.block? o.blk with
  | none => s
  | some b =>
    let wext := ((s.launch? b.launch).map (·.lr.wExtent)).getD 0
    let keep := fun (t : State) (o' : MtxOp) =>
      { t with mtxq := t.mtxq.map fun q => if q.id = o.id then { o' with started := true } else q }
    let flags := fun (t : State) (fl : Nat) =>
      o.insns.foldl (fun t i => t.modGroup o.blk i.1 fun g => g.flags fl) t
    let latch := fun (t : State) =>
      o.latches.foldl (fun t p => t.modGroup o.blk p.1 fun g => { g with reuse := p.2 }) t
    let write := fun (m : Memory) (runs : List (Nat × List Byte)) => runs.foldl (fun m r => m.write r.1 r.2) m
    match o.kind with
    | .mma shadow =>
      match o.bRows b.w wext with
      | .error c => keep s { o with raises := [c] }
      | .ok bs =>
        let r := if shadow then o.mmaShadow b bs else o.mmaC b bs
        keep (latch (flags (s.setBlock r.1) r.2)) o
    | .acommit => keep (s.setBlock b.commit) o
    | .adiscard => keep (s.setBlock { b with shadows := [] }) o
    | .accz =>
      keep (s.setBlock { b with c := (List.range (o.sh.getD 8 0)).foldl (fun c r =>
        c.write (o.sh.getD 2 0 + r * o.sh.getD 3 0) (List.replicate (4 * o.sh.getD 0 0) 0)) b.c }) o
    | .accld =>
      let word := fun (l k : Nat) => o.sh.getD 2 0 + (o.sh.getD 8 0 + l) * o.sh.getD 3 0 + 4 * k
      let ks := List.range (o.sh.getD 0 0)
      let ws := (o.rows.map fun r => ks.map fun k =>
        (Dest.v (o.d + k) r.1, BitVec.ofNat 64 (ofLe (b.c.read (word r.1 k) 4)))).flatten
      let c := (lanesOf o.clear).foldl (fun c l => c.write (word l 0) (List.replicate (4 * o.sh.getD 0 0) 0)) b.c
      keep (o.insns.foldl (fun t i => t.modGroup o.blk i.1 fun g =>
        { g with insns := g.insns.map fun n => if n.id = i.2 then { n with writes := ws, timed := true } else n })
        (s.setBlock { b with c := c })) o
    | .tld =>
      if o.srcRows.any fun r => match r with | some r => decide (o.h.rows ≤ r) | none => false then
        keep s { o with raises := [.tensorRange] }
      else if bitOf o.flags 0 then keep s { o with aBytes := o.tldRuns }
      else keep (s.setBlock { b with w := write b.w o.tldRuns }) o
    | .tst =>
      let p := o.tstPlan b.a
      let o := { o with writes := p.1, newTh := p.2.1, raises := p.2.2 }
      keep (s.tstStores o) o

/-- Whether an operation may be performed: every earlier one of its block has been; a TST also waits for the landing of
earlier TLDs into the A share, and a TLD for its source. -/
def MtxOp.mayStart (o : MtxOp) (q : List MtxOp) : Bool :=
  (q.all fun e => !(e.blk == o.blk && decide (e.id < o.id)) ||
    (e.started && !(decide (o.kind = .tst) && decide (e.kind = .tld) && bitOf e.flags 0)))
  && (decide (o.kind ≠ .tld) || (o.have_ o.stage1 && o.have_ o.stage2 && o.have_ o.stage3))

/-- Perform every operation of a block that may be performed, in order, at most n of them; a TLD is performed by
MATRIX_ACCEPT only. -/
def State.mtxAdvance (s : State) (blk : Nat) : Nat → State
  | 0 => s
  | n + 1 =>
    match s.mtxq.find? fun o => o.blk == blk && !o.started && decide (o.kind ≠ .tld) && o.mayStart s.mtxq with
    | none => s
    | some o => State.mtxAdvance (s.mtxPerform o) blk n

/-- Accept an operation: into the queue, and on to the shares when its turn has come (R183). -/
def State.mtxAccept (s : State) (o : MtxOp) : State :=
  ({ s with mtxq := s.mtxq ++ [o] }).mtxAdvance o.blk (s.mtxq.length + 1)

/-- Whether the queue of a core is full (R183). -/
def State.mtxFull (s : State) (core : Nat) : Bool := decide (16 ≤ (s.mtxq.filter fun o => o.core == core).length)

/-- Whether the earlier LDA and STA of a group have been performed (R183). -/
def State.abufQuiet (s : State) (blk grp : Nat) : Bool :=
  s.reqs.all fun r => !(r.blk == blk && r.grp == grp && decide (r.space = .abuf)) || r.isDone

/-- Whether an MMA of a group has still to be performed: what its reuse latch holds is not known before (R194). -/
def State.latchBusy (s : State) (blk grp : Nat) : Bool :=
  s.mtxq.any fun o => o.blk == blk && !o.started && !o.latches.isEmpty && o.insns.any fun i => i.1 == grp

/-- Whether an operation of the block that opens or closes shadow regions has still to be performed: what is open is not
known before. -/
def State.shadowBusy (s : State) (blk : Nat) : Bool :=
  s.mtxq.any fun o => o.blk == blk && !o.started && match o.kind with
    | .mma true | .acommit | .adiscard => true
    | _ => false

/-- An operation with the fields that most share. -/
def Ctx.mtx (c : Ctx) (s : State) (kind : MtxKind) (m : Mask) (insns : List (Nat × Nat)) : MtxOp where
  id := s.nextId
  core := c.b.core
  blk := c.iss.blk
  kind := kind
  insns := insns
  lanes := [(c.iss.grp, m)]
  fpc := c.iss.pc
  flags := 0
  slotA := ⟨0, 0, 0, 0, false, 0⟩
  slotB := ⟨0, 0, 0, 0, false, 0⟩
  sh := []
  first := 0
  d := 0
  handle := none
  h := Vector.replicate 8 0
  rows := []
  clear := 0
  latches := []
  started := false
  asked := []
  got := []
  newTh := none
  aBytes := []
  writes := []
  raises := []

/-- Issue a matrix instruction of this lane set once the engine accepts it: its number is recorded in its group with
the registers it leaves pending, its counter rises, and its operation enters the queue. -/
def Ctx.accept (c : Ctx) (s : State) (i : Insn) (la : BitVec 4) (o : MtxOp) (f : Group → Group) : Res :=
  if s.mtxFull c.b.core || !s.abufQuiet c.iss.blk c.iss.grp || (decide (i.ctr ≠ .none) && c.full i.ctr) then .wait s
  else
    let n := s.nextId
    let t := s.fresh.modGroup c.iss.blk c.iss.grp fun g =>
      f (if i.ctr = .none then g else ({ g with insns := g.insns ++ [{ i with id := n }] }.raise i.ctr).window i.lanes n la)
    .done (t.mtxAccept o) 0

/-! ### The instructions -/

/-- GANGSET (R189). The gang, held once for the group, is taken as a helper's own register too: GANGSET with helpers alone
guard-true sets it (DEDUCED, log 45). -/
def execGangset (x : VForm) (s : State) : Host.Outcome State Fault Refusal :=
  s.issue fun c s =>
    let v := if x.a = .none then 0 else (c.sval x.a).toNat
    let n := popCount 16 v
    let bad := decide (2 ^ 16 ≤ v) || (v != 0 && (decide (n < 2) || decide (c.l.lr.gangMax < n)
      || !bitOf v c.iss.grp || decide (2 ^ c.l.lr.groups ≤ v)))
    if c.on x.g = 0 then .done s 0
    else if bad then .cause .gangInvalid (c.on x.g)
    else c.doneG s fun g => { g with gang := BitVec.ofNat 16 v }

/-- The B slot of an MMA: the handle's, or the flags' (R187). -/
def LRec.slot (r : LRec) (i : Nat) : FmtSlot := r.slots[i]?.getD ⟨0, 0, 0, 0, false, 0⟩

def mmaHandle (b : Block) (x : TForm) : Option Handle :=
  match x.b with
  | .th i => some (b.handle i)
  | _ => none

def mmaSlotB (b : Block) (r : LRec) (x : TForm) : FmtSlot :=
  match mmaHandle b x with
  | some h => r.slot h.slot
  | none => r.slot (x.flags.extractLsb' 2 3).toNat

/-- One member of an MMA: its group, its lane set and the lanes whose guard is true. -/
structure Member where
  grp   : Nat
  lanes : Mask
  on    : Mask
  pc    : W32
  x     : TForm

/-- The lanes of a member that supply rows: guard-true and no helpers (R67, R193). -/
def Member.supply (m : Member) (b : Block) : List Nat := (lanesOf m.on).filter fun l => !((b.group m.grp).lane l).helper

/-- Issue an MMA or MMAS of one or several groups, in rank order, whose checks have passed: the rows of the guard-true
lanes that are not helpers are taken now (R190, R193). The latch of a group changes when the operation is performed, if
a lane of it supplies a row (R194; DEDUCED, log 31), and for MMAS the region is opened then (R195): an operation that a
ROWSET id refuses leaves neither (R192). -/
def State.mmaIssue (s : State) (b : Block) (r : LRec) (shadow : Bool) (x : TForm) (sh : List Nat) (ms : List Member) : State :=
  let fa := r.slot x.slot.toNat
  let k := sh.getD 1 0
  let n := aRegs fa k
  let a := x.a.vnum
  let rows := (ms.zipIdx.map fun (p : Member × Nat) => (p.1.supply b).map fun l =>
      (32 * p.2 + l, (b.group p.1.grp).aWords p.1.x.a.vnum n l)).flatten
  let latches := (ms.filter fun m => !(m.supply b).isEmpty).map fun m =>
    (m.grp, (b.group m.grp).latch (m.x.flags.getLsbD 0) m.x.a.vnum x.slot.toNat k n)
  let id := s.nextId
  let insns := ms.zipIdx.map fun (p : Member × Nat) => (p.1.grp, id + 1 + p.2)
  let o : MtxOp := {
    id := id, core := b.core, blk := b.id, kind := .mma shadow, insns := insns
    lanes := ms.map fun m => (m.grp, if m.on = 0 then m.lanes else m.on)
    fpc := (ms.head?.map (·.pc)).getD 0, flags := x.flags.toNat, slotA := fa, slotB := mmaSlotB b r x, sh := sh, first := 0
    d := a, handle := match x.b with | .th i => some i.val | _ => none
    h := (mmaHandle b x).getD (Vector.replicate 8 0), rows := rows, clear := 0, latches := latches, started := false
    asked := [], got := [], newTh := none, aBytes := [], writes := [], raises := [] }
  let t := { s with nextId := id + 1 + ms.length }
  let t := (ms.zip insns).foldl (fun t p => t.modGroup b.id p.1.grp fun g =>
    Group.raise { g with insns := g.insns ++ [⟨p.2.2, .mc, p.1.pc, if p.1.on = 0 then p.1.lanes else p.1.on, [], [], [], false⟩] } .mc) t
  t.mtxAccept o

/-- The lanes of a group that wait at the rendezvous latch. -/
def Group.atLatch (g : Group) : Mask := maskOf fun l => decide ((g.lane l).st = .latch)

/-- MMA and MMAS: solo with gang = 0; else the lane set waits at the rendezvous latch, or, behind the lane set of its group
that waits there, for the next rendezvous (R190). An A run that passes v127 is an operand check, of the whole set (R25,
R26, R191). -/
def Ctx.mma (c : Ctx) (s : State) (x : TForm) (shadow : Bool) : Res :=
  let m := c.on x.g
  let sh := c.shapes x
  let fa := c.l.lr.slot x.slot.toNat
  if aPast x.a.vnum fa (sh.getD 1 0) then .cause .illegalOperand c.iss.lanes
  else if c.g.gang ≠ 0 then
    if c.g.atLatch ≠ 0 then .wait s
    else .wait (s.modGroup c.iss.blk c.iss.grp fun g => g.modLanes c.iss.lanes fun _ y => { y with st := .latch })
  else if m = 0 then .done s 0
  else if s.shadowBusy c.iss.blk || s.latchBusy c.iss.blk c.iss.grp then .wait s
  else
    let cs := causesOf m (mmaCauses c.b c.l.lr shadow fa (mmaSlotB c.b c.l.lr x) (mmaHandle c.b x) sh 1
      ++ c.g.aCauses x.a.vnum x.slot.toNat (sh.getD 1 0))
    if anyCause cs then .raise cs 0 false
    else if s.mtxFull c.b.core || !s.abufQuiet c.iss.blk c.iss.grp || c.full .mc then .wait s
    else .done (s.mmaIssue c.b c.l.lr shadow x sh [⟨c.iss.grp, c.iss.lanes, m, c.iss.pc, x⟩]) 0

/-- MMA (R193). -/
def execMma (x : TForm) (s : State) : Host.Outcome State Fault Refusal := s.issueN 5 (·.on x.g) fun c s => c.mma s x false

/-- MMAS (R195). -/
def execMmas (x : TForm) (s : State) : Host.Outcome State Fault Refusal := s.issueN 5 (·.on x.g) fun c s => c.mma s x true

/-- ACOMMIT (R196). -/
def execAcommit (x : VForm) (s : State) : Host.Outcome State Fault Refusal :=
  s.issue fun c s =>
    if c.real x.g = 0 then .done s 0
    else c.accept s (c.insn .none 0 [] []) 0 (c.mtx s .acommit (c.on x.g) []) id

/-- ADISCARD (R196). -/
def execAdiscard (x : VForm) (s : State) : Host.Outcome State Fault Refusal :=
  s.issue fun c s =>
    if c.real x.g = 0 then .done s 0
    else c.accept s (c.insn .none 0 [] []) 0 (c.mtx s .adiscard (c.on x.g) []) id

/-- The checks that ACCLD and ACCZ share: coff and cpitch, and the unused fields (R197). -/
def accShape (sh : List Nat) : Bool := sh.getD 2 0 % 4 != 0 || sh.getD 3 0 % 4 != 0 || shapeUnused sh [0, 2, 3, 8]

/-- ACCLD (R197). With CLEAR a helper's words are read but kept, as they lie outside its registers (R67). A run that passes
v127 is an operand check, of the whole set (R25, R26). -/
def execAccld (x : TForm) (s : State) : Host.Outcome State Fault Refusal :=
  s.issueN 5 (fun _ => 0) fun c s =>
    let m := c.on x.g
    let sh := c.shapes x
    let nc := sh.getD 0 0
    let row := fun (l : Nat) => sh.getD 2 0 + (sh.getD 8 0 + l) * sh.getD 3 0
    let clear := x.flags.getLsbD 0
    let meets := (lanesOf m).any fun l => c.b.shadowMeets (row l) 0 nc 1 false
    let cs := causesOf m [
        (accShape sh || decide (nc = 0) || decide (64 < nc) || decide (191 < sh.getD 8 0), .shapeInvalid),
        (clear && meets, .shadowConflict)]
      ++ [(.bufferRange, maskOf fun l => inMask m l && decide (c.l.lr.cExtent < row l + 4 * nc))]
    if 128 < x.d.vnum + nc then .cause .illegalOperand c.iss.lanes
    else if m = 0 then .done s 0
    else if clear && s.shadowBusy c.iss.blk then .wait s
    else if anyCause cs then .raise cs 0 false
    else
      let n := s.nextId
      c.accept s (c.insn .lc m (run x.d.vnum nc) []) x.la
        { c.mtx s .accld m [(c.iss.grp, n)] with
          clear := if clear then c.real x.g else 0
          sh := sh
          d := x.d.vnum
          rows := (lanesOf m).map fun l => (l, []) } id

/-- ACCZ (R197). -/
def execAccz (x : TForm) (s : State) : Host.Outcome State Fault Refusal :=
  s.issueN 5 (fun _ => 0) fun c s =>
    let m := c.on x.g
    let sh := c.shapes x
    let nc := sh.getD 0 0
    let nr := sh.getD 8 0
    let cs := causesOf m [
      (accShape sh || decide (nc = 0) || decide (2048 < nc) || decide (nr = 0) || decide (192 < nr), .shapeInvalid),
      (decide (c.l.lr.cExtent < sh.getD 2 0 + (nr - 1) * sh.getD 3 0 + 4 * nc), .bufferRange),
      (decide (nr ≤ 192) && c.b.shadowMeets (sh.getD 2 0) (sh.getD 3 0) nc nr false, .shadowConflict)]
    if m = 0 then .done s 0
    else if s.shadowBusy c.iss.blk then .wait s
    else if anyCause cs then .raise cs 0 false
    else if c.real x.g = 0 then .done s 0
    else c.accept s (c.insn .mc m [] []) 0 { c.mtx s .accz m [(c.iss.grp, s.nextId)] with sh := sh } id

/-- The handle operand a of TLD, TST and THGET. -/
def Ctx.handleA (c : Ctx) (a : Opnd) : Handle :=
  match a with
  | .th i => c.b.handle i
  | _ => Vector.replicate 8 0

def Opnd.thnum : Opnd → Nat
  | .th i => i
  | _ => 0

/-- TLD (R199). No columns are no shape (DEDUCED, log 28). With an unset handle the columns are still
checked against the element width of the format slot that its fields name, and SHAPE_INVALID outranks HANDLE_INVALID (DESIGN
CHOICE, log 31). -/
def execTld (x : TForm) (s : State) : Host.Outcome State Fault Refusal :=
  s.issueN 5 (fun _ => 0) fun c s =>
    let m := c.on x.g
    let sh := c.shapes x
    let h := c.handleA x.a
    let f := c.l.lr.slot h.slot
    let t := f.tileT
    let n := sh.getD 0 0
    let col0 := sh.getD 1 0
    let nc := sh.getD 2 0
    let first := (c.sval x.b).toNat % 2 ^ 32
    let ext := if x.flags.getLsbD 0 then c.l.lr.aExtent else c.l.lr.wExtent
    let cs := causesOf m [
      (h.unset, .handleInvalid),
      (!h.unset && (decide (3 < h.type) || h.space != 0 || f.elem == 0), .handleType),
      (decide (n = 0) || decide (4096 < n) || nc == 0 || col0 * f.bits % 32 != 0 || (t != 0 && col0 % t != 0) || nc * f.bits % 256 != 0
        || sh.getD 3 0 % 32 != 0 || (t == 0 && sh.getD 5 0 != 0) || shapeUnused sh [0, 1, 2, 3, 4, 5]
        || (!h.unset && decide (h.cols < col0 + nc)), .shapeInvalid),
      (decide (ext < sh.getD 4 0 * 32 + (n - 1) * sh.getD 3 0 + nc * f.bits / 8)
        || (t != 0 && decide (ext < sh.getD 5 0 * 32 + 2 * n * (nc / t))), .bufferRange),
      (!h.unset && h.type != 1 && decide (h.rows < first + n), .tensorRange)]
    if m = 0 then .done s 0
    else if anyCause cs then .raise cs 0 false
    else if c.real x.g = 0 then .done s 0
    else c.accept s (c.insn .mc m [] []) 0
      { c.mtx s .tld m [(c.iss.grp, s.nextId)] with
        flags := x.flags.toNat
        slotB := f
        sh := sh
        first := first
        handle := some (Opnd.thnum x.a)
        h := h } id

/-- TST (R200). No rows and no columns are no shape, as for TLD (DEDUCED, log 28); a tile-row is beyond a TILECSR tensor's
rows when all of it is (DEDUCED, log 31). Columns past a DENSE handle's cols raise SHAPE_INVALID, as any other column range
that does not fit (DESIGN CHOICE, log 31: R200 names no cause). An unset handle is
checked with the element width of the slot that its fields name, as for TLD (DESIGN CHOICE, log 31). -/
def execTst (x : TForm) (s : State) : Host.Outcome State Fault Refusal :=
  s.issueN 5 (fun _ => 0) fun c s =>
    let m := c.on x.g
    let sh := c.shapes x
    let h := c.handleA x.a
    let f := c.l.lr.slot h.slot
    let n := sh.getD 0 0
    let nc := sh.getD 2 0
    let first := (c.sval x.b).toNat % 2 ^ 32
    let cs := causesOf m [
      (h.unset, .handleInvalid),
      (!h.unset && (h.type == 1 || decide (3 < h.type) || h.space != 0 || f.elem == 0 || f.tileT != 0), .handleType),
      (shapeUnused sh [0, 1, 2, 3, 4] || n == 0 || nc == 0 || (!h.unset && (decide (h.cols < sh.getD 1 0 + nc)
        || (h.type != 0 && (sh.getD 1 0 != 0 || nc != h.cols)) || (h.type == 3 && (first % 16 != 0 || n % 16 != 0)))), .shapeInvalid),
      (decide (c.l.lr.aExtent < sh.getD 4 0 * 32 + (n - 1) * sh.getD 3 0 + nc * f.bits / 8), .bufferRange),
      (!h.unset && decide ((if h.type = 3 then 16 * ceilDiv h.rows 16 else h.rows) < first + n), .tensorRange)]
    if m = 0 then .done s 0
    else if anyCause cs then .raise cs 0 false
    else if c.real x.g = 0 then .done s 0
    else c.accept s (c.insn .sc (c.real x.g) [] []) 0
      { c.mtx s .tst (c.real x.g) [(c.iss.grp, s.nextId)] with
        slotB := f
        sh := sh
        first := first
        handle := some (Opnd.thnum x.a)
        h := h } id

/-- Whether a TST or a probe that names a handle of the block has still to retire (R198, R253). -/
def State.handleBusy (s : State) (blk i : Nat) : Bool :=
  (s.mtxq.any fun o => o.blk == blk && decide (o.kind = .tst) && decide (o.handle = some i))
    || s.probes.any fun p => p.blk == blk && (match p.kind with | .probe _ => true | _ => false)
      && bitsOf p.par.toNat 51 48 == i

/-- Whether a value is a legal handle (R198). -/
def Handle.ok (h : Handle) (f : FmtSlot) : Bool :=
  decide (h.type ≤ 3) && h.space != 3 && bitsOf (h.dw 0) 15 9 == 0 && h.dw 3 == 0 && bitsOf (h.dw 7) 63 32 == 0
    && !h.unset && !(decide (h.type ≤ 1) && h.stride % 32 != 0) && !(h.type == 2 && f.tileT != 0)
    && !(h.type == 3 && f.tileT != 0 && f.tileT != 16)
    && (if h.space = 0 then h.scaleoff == 0 else h.scaleoff % 32 == 0)

/-- THSET (R198). -/
def execThset (x : TForm) (s : State) : Host.Outcome State Fault Refusal :=
  s.issueN 5 (fun _ => 0) fun c s =>
    let sh := c.shapes x
    let i := Opnd.thnum x.d
    let h : Handle := tab 8 fun k =>
      if k < 4 then BitVec.ofNat 64 ((List.range 4).foldl (fun a j => a + sh.getD (4 * k + j) 0 * 2 ^ (16 * j)) 0)
      else c.sreg (x.a.snum + (k - 4))
    if c.real x.g = 0 then .done s 0
    else if s.handleBusy c.iss.blk i then .wait s
    else if !h.ok (c.l.lr.slot h.slot) then .cause .handleInvalid (c.on x.g)
    else .done (s.modBlock c.iss.blk fun b => { b with th := b.th.setIfInBounds i h }) 0

/-- THGET (R198). Reading a dword of an unset handle is taken as no use of it that raises HANDLE_INVALID (DESIGN CHOICE,
log 31). -/
def execThget (x : VForm) (s : State) : Host.Outcome State Fault Refusal :=
  s.issue fun c s =>
    if c.on x.g = 0 then .done s 0
    else if s.handleBusy c.iss.blk (Opnd.thnum x.a) then .wait s
    else c.scal s x.g x.d (BitVec.ofNat 64 ((c.handleA x.a).dw (subN x)))

end Sys2Proof.Machine
end

