-- ==== Sys2Proof/Machine/Retrieval.lean ====
section
/-!
DEFINITION. Hash families and the retrieval instructions (13_retrieval.md R245 to R266): 0xB0 to 0xB7. A probe, an insert
and a delete leave a record behind when they issue, which runs when their result lands; a merge and a rehash step act in
the step in which they issue. An update that needs more version records than are free waits as a whole (log 16).
-/

namespace Sys2Proof.Machine

/-! ### Family images (R246) -/

def FamImg.dw (f : FamImg) (i : Nat) : Nat := (f[i]?.getD 0).toNat
def FamImg.kind (f : FamImg) : Nat := bitsOf (f.dw 0) 1 0
def FamImg.tables (f : FamImg) : Nat := bitsOf (f.dw 0) 6 2
def FamImg.k (f : FamImg) : Nat := bitsOf (f.dw 0) 11 7
def FamImg.policy (f : FamImg) : Nat := bitsOf (f.dw 0) 13 12
def FamImg.pair (f : FamImg) : Bool := bitOf (f.dw 0) 14
def FamImg.bucket (f : FamImg) : Nat := if bitOf (f.dw 0) 15 then 128 else 64
def FamImg.slots (f : FamImg) : Nat := f.bucket / 4 - 2
def FamImg.region (f : FamImg) : Nat := bitsOf (f.dw 0) 31 24
def FamImg.hbase (f : FamImg) : Nat := f.dw 1
def FamImg.tbase (f : FamImg) : Nat := f.dw 2
def FamImg.sbase (f : FamImg) : Nat := f.dw 3
def FamImg.pbase (f : FamImg) : Nat := f.dw 4
def FamImg.pcap (f : FamImg) : Nat := bitsOf (f.dw 5) 31 0
def FamImg.scap (f : FamImg) : Nat := bitsOf (f.dw 5) 63 32
def FamImg.maxid (f : FamImg) : Nat := bitsOf (f.dw 6) 31 0
def FamImg.unset (f : FamImg) : Bool := f.tables == 0

/-- The bytes of a family's tables. -/
def FamImg.tableBytes (f : FamImg) : Nat := f.tables * 2 ^ f.k * f.bucket

/-- The address of bucket q of table i. -/
def FamImg.bucketAt (f : FamImg) (i q : Nat) : Nat := f.tbase + (i * 2 ^ f.k + q) * f.bucket

/-- The header, tables, side list and pool; an empty pool has no extent. -/
def FamImg.extents (f : FamImg) : List (Nat × Nat) :=
  [(f.hbase, 128), (f.tbase, f.tableBytes), (f.sbase, 128 * f.scap), (f.pbase, f.pcap * f.bucket)].filter fun e => e.2 != 0

/-- Whether no two ranges of a list meet. -/
def disjoint : List (Nat × Nat) → Bool
  | [] => true
  | e :: es => (es.all fun f => !decide (e.1 < f.1 + f.2 ∧ f.1 < e.1 + e.2)) && disjoint es

/-- Whether an image may be loaded into register n (R251). -/
def FamImg.ok (f : FamImg) (n : Nat) (region : Option Region) : Bool :=
  decide (f.kind ≤ 1) && f.policy != 3 && bitsOf (f.dw 0) 23 16 == 0 && bitsOf (f.dw 0) 63 32 == 0
    && bitsOf (f.dw 6) 63 32 == 0 && f.dw 7 == 0
    && decide (1 ≤ f.tables ∧ f.tables ≤ 16) && decide (1 ≤ f.k ∧ f.k ≤ 24) && decide (f.pcap ≤ 2 ^ 24)
    && decide (1 ≤ f.scap ∧ f.scap ≤ 2 ^ 24) && f.maxid != 0
    && f.hbase % 128 == 0 && f.tbase % 4096 == 0 && f.sbase % 128 == 0 && f.pbase % f.bucket == 0
    && !(f.pair && n % 2 == 1)
    && match region with
      | none => false
      | some r => (f.extents.all fun e => decide (r.base ≤ e.1 ∧ e.1 + e.2 ≤ r.base + r.size)) && disjoint f.extents

def Block.fam (b : Block) (i : Nat) : FamImg := b.hf[i]?.getD (Vector.replicate 8 0)

/-- The families that an instruction names through register i: one, or the old and the new one of a pair (R249); none
when the register or its partner is unset, or the two do not go together (DEDUCED, log 17). -/
def famsOf (f partner : FamImg) : Option (List FamImg) :=
  if f.unset then none
  else if !f.pair then some [f]
  else if partner.unset || f.region != partner.region
      || !disjoint [(f.tbase, f.tableBytes), (partner.tbase, partner.tableBytes)] then none
  else some [f, partner]

def Block.fams (b : Block) (i : Nat) : Option (List FamImg) := famsOf (b.fam i) (b.fam (i + 1))

/-- The number of a hash-family operand. -/
def Opnd.hfnum : Opnd → Nat
  | .hf i => i
  | _ => 0

/-! ### A family's lines at a version (R210, R247, R248) -/

/-- Bytes of a live region's memory, which is version 0 (R206). Its pages are pinned, so the walk succeeds; were it not
to, the bytes are free values (log 5). -/
def State.regionMem (s : State) (r : Region) (va n : Nat) : List Byte :=
  match s.context? r.ctx with
  | none => freeBytes s.free n
  | some c =>
    match s.walk c va with
    | .ok pa key _ _ => s.mem.read (s.keySerial key) (Xlat.addr pa va) n
    | _ => freeBytes s.free n

/-- Whether a range of a live region's memory is poisoned. -/
def State.regionPoison (s : State) (r : Region) (va n : Nat) : Bool :=
  match s.context? r.ctx with
  | none => false
  | some c =>
    match s.walk c va with
    | .ok pa _ _ _ => s.mem.poisoned (Xlat.addr pa va) n
    | _ => false

/-- The lines of a region as the retrieval unit sees them at a version, with the changes of the operation under way. -/
structure Lines where
  s : State
  r : Region
  v : Nat

def Lines.read (w : Lines) (va n : Nat) : List Byte := w.r.valueAt va w.v (w.s.regionMem w.r va n)
def Lines.word (w : Lines) (va : Nat) : Nat := ofLe (w.read va 4)
def Lines.half (w : Lines) (va : Nat) : Nat := ofLe (w.read va 2)
def Lines.put (w : Lines) (va : Nat) (bs : List Byte) : Lines := { w with r := w.r.store va w.v bs }
def Lines.putWord (w : Lines) (va x : Nat) : Lines := w.put va (leBytes 4 x)

def Lines.scount (w : Lines) (f : FamImg) : Nat := w.word f.hbase
def Lines.pused (w : Lines) (f : FamImg) : Nat := w.word (f.hbase + 4)
def Lines.cursor (w : Lines) (f : FamImg) : Nat := w.word (f.hbase + 8)

/-- Whether a header breaks R247. -/
def Lines.badHeader (w : Lines) (f : FamImg) : Bool :=
  decide (f.scap < w.scount f) || decide (f.pcap < w.pused f)

/-- A bucket or overflow node: its address and its ids, oldest first. -/
structure HNode where
  va  : Nat
  ids : List Nat
  deriving DecidableEq, Repr

/-- A bucket with the nodes along its links, at most n of them in all; none where it breaks R247. -/
def Lines.chain (w : Lines) (f : FamImg) : Nat → Nat → Option (List HNode)
  | 0, _ => none
  | m + 1, va =>
    let n := w.half va
    let link := w.word (va + 4)
    let node : HNode := ⟨va, (List.range n).map fun i => w.word (va + 8 + 4 * i)⟩
    if f.slots < n then none
    else if link = 0 then some [node]
    else if w.pused f < link ∨ f.pcap < link then none
    else (Lines.chain w f m (f.pbase + (link - 1) * f.bucket)).map fun ns => node :: ns

/-- The chain of bucket q of table i: at most pcap nodes after it. -/
def Lines.bucket (w : Lines) (f : FamImg) (i q : Nat) : Option (List HNode) := w.chain f (f.pcap + 1) (f.bucketAt i q)

/-- A side-list entry (R248). -/
structure Side where
  id    : Nat
  tomb  : Bool
  codes : List Nat
  deriving DecidableEq, Repr

def Lines.side (w : Lines) (f : FamImg) (i : Nat) : Side :=
  let a := f.sbase + 128 * i
  ⟨w.word a, w.word (a + 4) % 2 == 1, (List.range f.tables).map fun t => w.word (a + 8 + 4 * t) % 2 ^ 24⟩

/-- Write side-list entry i: an insert writes its codes, a tombstone none. -/
def Lines.putSide (w : Lines) (f : FamImg) (i : Nat) (e : Side) : Lines :=
  w.put (f.sbase + 128 * i) (leBytes 4 e.id ++ leBytes 4 (if e.tomb then 1 else 0)
    ++ if e.tomb then [] else (e.codes.map fun c => leBytes 4 c).flatten)

/-- Whether an id is deleted: the last entry that names it is a tombstone (R248). -/
def deletedIn (es : List Side) (id : Nat) : Bool :=
  match (es.filter fun e => e.id == id).getLast? with
  | some e => e.tomb
  | none => false

/-! ### One lane's probe (R254) -/

/-- The buckets of one table that a lane reads, from its code word and its order word. -/
def probeSet (k t : Nat) (code ord : W32) : List Nat :=
  let q := code.toNat % 2 ^ k
  let js := ((List.range (t - 1)).map fun i => bitsOf ord.toNat (5 * i + 4) (5 * i)).takeWhile fun j => decide (j < k)
  js.foldl (fun qs j => if qs.contains (q ^^^ 2 ^ j) then qs else qs ++ [q ^^^ 2 ^ j]) [q]

/-- What a lane has gathered in one family: buckets and nodes read, candidates, and the header or bucket that breaks R247. -/
structure Gather where
  nodes : Nat
  ids   : List Nat
  bad   : Option Nat
  deriving DecidableEq, Repr

def Lines.gather (w : Lines) (f : FamImg) (qs : List (List Nat)) : Gather :=
  qs.zipIdx.foldl (fun (g : Gather) (p : List Nat × Nat) => p.1.foldl (fun (g : Gather) q =>
    if g.bad.isSome then g
    else match w.bucket f p.2 q with
      | none => { g with bad := some (f.bucketAt p.2 q) }
      | some ns => ⟨g.nodes + ns.length, g.ids ++ (ns.map (·.ids)).flatten, none⟩) g)
    ⟨0, [], if w.badHeader f then some f.hbase else none⟩

/-- A probe's outcome: its ids, none where it meets HASH_TABLE_CORRUPT at the address bad, and the work it counts (R261). -/
structure Probed where
  ids     : Option (List Nat)
  bad     : Option Nat
  buckets : Nat
  cands   : Nat
  tombs   : Nat
  dups    : Nat
  deriving DecidableEq, Repr

/-- One lane's probe of one family with its words for it: the ids kept, with the work. -/
def Lines.probeFam (w : Lines) (f : FamImg) (ws : List W32) (t : Nat) (keep : Nat → Bool) : Probed :=
  let qs := (List.range f.tables).map fun i => probeSet f.k t (ws.getD (2 * i) 0) (ws.getD (2 * i + 1) 0)
  let g := w.gather f qs
  let es := if g.bad.isNone then (List.range (w.scount f)).map (w.side f) else []
  let hit := fun (e : Side) => !e.tomb && (e.codes.zip qs).any fun p => p.2.contains p.1
  let cs := g.ids ++ (es.filter hit).map (·.id)
  let live := cs.filter fun id => !deletedIn es id
  ⟨if g.bad.isNone then some (live.filter keep) else none, g.bad, g.nodes, cs.length, cs.length - live.length, 0⟩

/-- One lane's probe (R254). -/
def Lines.probe (w : Lines) (fs : List FamImg) (ws : List W32) (t : Nat) : Probed :=
  match fs with
  | [a, b] =>
    let c := w.cursor a
    let x := w.probeFam a ws t fun id => decide (c ≤ id)
    let y := w.probeFam b (ws.drop (2 * a.tables)) t fun id => decide (id < c)
    let out := match x.ids, y.ids with
      | some p, some q => some (p ++ q)
      | _, _ => none
    let n := ((out.map (·.length)).getD 0) - ((out.map fun l => (distinct l).length).getD 0)
    ⟨out.map distinct, x.bad <|> y.bad, x.buckets + y.buckets, x.cands + y.cands, x.tombs + y.tombs, n⟩
  | a :: _ =>
    let x := w.probeFam a ws t fun _ => true
    let n := ((x.ids.map (·.length)).getD 0) - ((x.ids.map fun l => (distinct l).length).getD 0)
    { x with ids := x.ids.map distinct, dups := n }
  | [] => ⟨some [], none, 0, 0, 0, 0⟩

/-! ### Poisoned lines (R312, R313) -/

/-- The first poisoned sector of a range, as an address. -/
def Lines.poisonIn (w : Lines) (va n : Nat) : Option Nat :=
  ((cutSectors va n).find? fun q => w.s.regionPoison w.r q.1 q.2).map (·.1)

/-- The first poisoned sector of a bucket and the nodes along its links. -/
def Lines.chainPoison (w : Lines) (f : FamImg) : Nat → Nat → Option Nat
  | 0, _ => none
  | m + 1, va =>
    match w.poisonIn va f.bucket with
    | some a => some a
    | none =>
      let link := w.word (va + 4)
      if link = 0 ∨ w.pused f < link ∨ f.pcap < link then none else Lines.chainPoison w f m (f.pbase + (link - 1) * f.bucket)

/-- The first poisoned sector of some buckets of a family, each a table and its place in it. -/
def Lines.bucketsPoison (w : Lines) (f : FamImg) (qs : List (Nat × Nat)) : Option Nat :=
  qs.findSome? fun q => w.chainPoison f (f.pcap + 1) (f.bucketAt q.1 q.2)

def Lines.headPoison (w : Lines) (f : FamImg) : Option Nat := w.poisonIn f.hbase 12

/-- The first poisoned sector of a family's side list. -/
def Lines.sidePoison (w : Lines) (f : FamImg) : Option Nat :=
  (List.range (min f.scap (w.scount f))).findSome? fun i => w.poisonIn (f.sbase + 128 * i) (8 + 4 * f.tables)

/-- The first poisoned sector that a lane's probe reads. -/
def Lines.probePoison (w : Lines) (fs : List FamImg) (ws : List W32) (t : Nat) : Option Nat :=
  let one := fun (f : FamImg) (ws : List W32) =>
    w.headPoison f <|> w.sidePoison f <|> w.bucketsPoison f ((List.range f.tables).map fun i =>
      (probeSet f.k t (ws.getD (2 * i) 0) (ws.getD (2 * i + 1) 0)).map fun q => (i, q)).flatten
  match fs with
  | [a, b] => one a ws <|> one b (ws.drop (2 * a.tables))
  | a :: _ => one a ws
  | [] => none

/-- The buckets that the insertion of an id with its codes reads. -/
def FamImg.codeBuckets (f : FamImg) (codes : List Nat) : List (Nat × Nat) :=
  (List.range f.tables).map fun i => (i, codes.getD i 0 % 2 ^ f.k)

/-- The first poisoned sector that a merge reads: a tombstone goes through every bucket. -/
def Lines.mergePoison (w : Lines) (f : FamImg) : Option Nat :=
  w.headPoison f <|> w.sidePoison f <|> ((List.range (min f.scap (w.scount f))).map (w.side f)).findSome? fun e =>
    w.bucketsPoison f (if e.tomb then ((List.range f.tables).map fun i => (List.range (2 ^ f.k)).map fun q => (i, q)).flatten
      else f.codeBuckets e.codes)

/-- The first poisoned sector that a rehash step reads. -/
def Lines.rehashPoison (w : Lines) (old new : FamImg) (rows : List (List Nat)) : Option Nat :=
  w.headPoison old <|> w.headPoison new <|> rows.findSome? fun r =>
    if bitOf (r.getD 0 0) 31 then none else w.bucketsPoison new (new.codeBuckets r)

/-! ### Inserting and removing (R258) -/

/-- What insertion of an id does in one table. -/
inductive Place where
  | nothing
  | append (va n : Nat)
  | evict (va : Nat) (ids : List Nat)
  | node (last : Nat)
  | refused (c : Cause) (va : Nat)
  deriving DecidableEq, Repr

/-- What insertion of r does in a chain whose family has used a number of nodes. -/
def place (f : FamImg) (r used : Nat) (ns : List HNode) : Place :=
  let at_ := if f.policy = 1 then ns.head? else ns.getLast?
  if ns.any fun n => n.ids.contains r then .nothing
  else match at_ with
    | none => .nothing
    | some n =>
      if n.ids.length < f.slots then .append n.va n.ids.length
      else if f.policy = 1 then .evict n.va n.ids
      else if f.policy = 2 then .refused .hashBucketFull n.va
      else if used < f.pcap then .node n.va
      else .refused .hashPoolFull n.va

/-- A merge or rehash step under way: the lines, the ids evicted, and whether a chain has broken R247. -/
structure Work where
  w       : Lines
  evicted : Nat
  ok      : Bool

/-- The places of r in each table, in order; each new node counts against the pool. -/
def Lines.places (w : Lines) (f : FamImg) (r : Nat) (codes : List Nat) : Option (List Place) :=
  ((List.range f.tables).foldl (fun (st : Option (List Place × Nat)) i =>
    match st with
    | none => none
    | some (ps, used) =>
      (w.bucket f i (codes.getD i 0 % 2 ^ f.k)).map fun ns =>
        let p := place f r used ns
        (ps ++ [p], match p with | .node _ => used + 1 | _ => used)) (some ([], w.pused f))).map (·.1)

/-- Carry out one place. -/
def Work.doPlace (k : Work) (f : FamImg) (r : Nat) (p : Place) : Work :=
  match p with
  | .append va n => { k with w := (k.w.putWord (va + 8 + 4 * n) r).put va (leBytes 2 (n + 1)) }
  | .evict va ids =>
    { k with w := k.w.put (va + 8) ((ids.drop 1 ++ [r]).map fun x => leBytes 4 x).flatten, evicted := k.evicted + 1 }
  | .node last =>
    let n := k.w.pused f
    let va := f.pbase + n * f.bucket
    let w := ((k.w.put va (leBytes 2 1)).putWord (va + 4) 0).putWord (va + 8) r
    { k with w := (w.putWord (last + 4) (n + 1)).putWord (f.hbase + 4) (n + 1) }
  | _ => k

/-- Insert r, all or none; the cause where a table refuses, with the bucket or node that is full (R258). -/
def Work.insert (k : Work) (f : FamImg) (r : Nat) (codes : List Nat) : Work × Option (Cause × Nat) :=
  match k.w.places f r codes with
  | none => ({ k with ok := false }, none)
  | some ps =>
    match ps.findSome? fun p => match p with | .refused c va => some (c, va) | _ => none with
    | some c => (k, some c)
    | none => (ps.foldl (fun k p => k.doPlace f r p) k, none)

/-- Remove an id from every bucket and node of every table (R258). -/
def Work.remove (k : Work) (f : FamImg) (r : Nat) : Work :=
  (List.range f.tables).foldl (fun k i => (List.range (2 ^ f.k)).foldl (fun (k : Work) q =>
    match k.w.bucket f i q with
    | none => { k with ok := false }
    | some ns => ns.foldl (fun (k : Work) n =>
        if n.ids.contains r then
          let ids := n.ids.filter (· != r)
          { k with w := (k.w.put n.va (leBytes 2 ids.length)).put (n.va + 8) (ids.map fun x => leBytes 4 x).flatten }
        else k) k) k) k

/-- A merge (R259): the lines after it, the number of entries applied, the causes of the refused ones, and the ids
evicted; none when it meets HASH_TABLE_CORRUPT. -/
def Lines.merge (w : Lines) (f : FamImg) : Option (Lines × Nat × List (Cause × Nat) × Nat) :=
  if w.badHeader f then none
  else
    let es := (List.range (w.scount f)).map (w.side f)
    let out := es.foldl (fun (st : Work × List (Side × Cause × Nat)) e =>
      if e.tomb then (st.1.remove f e.id, st.2)
      else match st.1.insert f e.id e.codes with
        | (k, none) => (k, st.2)
        | (k, some c) => (k, st.2 ++ [(e, c)])) (⟨w, 0, true⟩, [])
    let kept := out.2.zipIdx.foldl (fun (w : Lines) (p : (Side × Cause × Nat) × Nat) => w.putSide f p.2 p.1.1) out.1.w
    if out.1.ok then
      some (kept.putWord f.hbase out.2.length, es.length - out.2.length, out.2.map (·.2), out.1.evicted)
    else none

/-- A rehash step (R260) on the rows from c0: the lines, the rows done and the refusal if any, and the ids evicted. -/
def Lines.rehash (w : Lines) (old new : FamImg) (rows : List (List Nat)) :
    Option (Lines × Nat × Option (Cause × Nat) × Nat) :=
  if w.badHeader old || w.badHeader new then none
  else
    let c0 := w.cursor old
    let out := rows.zipIdx.foldl (fun (st : Work × Option (Nat × Cause × Nat)) (p : List Nat × Nat) =>
      match st.2 with
      | some _ => st
      | none =>
        if bitOf (p.1.getD 0 0) 31 then st
        else match st.1.insert new (c0 + p.2) p.1 with
          | (k, none) => (k, none)
          | (k, some c) => (k, some (p.2, c))) (⟨w, 0, true⟩, none)
    let n := (out.2.map (·.1)).getD rows.length
    if out.1.ok then some (out.1.w.putWord (old.hbase + 8) (c0 + n), n, out.2.map (·.2), out.1.evicted) else none

/-- Reserve and write one entry in each side list (R257): all or none, with the cause and the header at fault. The words of
an insert are those of its codes, or none for a delete. -/
def Lines.reserve (w : Lines) (fs : List FamImg) (id : Nat) (codes : Option (List Nat)) : Except (Cause × Nat) Lines :=
  match fs.findSome? w.headPoison, fs.find? w.badHeader, fs.find? fun f => decide (f.scap ≤ w.scount f) with
  | some a, _, _ => .error (.mcDataPoison, a)
  | _, some f, _ => .error (.hashTableCorrupt, f.hbase)
  | _, _, some f => .error (.hashSideFull, f.hbase)
  | _, _, _ => .ok (fs.foldl (fun (st : Lines × Nat) f =>
    let n := st.1.scount f
    let e : Side := ⟨id, codes.isNone, ((codes.getD []).drop st.2).take f.tables⟩
    ((st.1.putSide f n e).putWord f.hbase (n + 1), st.2 + f.tables)) (w, 0)).1

/-! ### Statistics (R261) -/

/-- Whether a core's fault buffer has no room (R146). What belongs to a saved block has moved into its image (R149). -/
def State.faultsFull (s : State) (core : Nat) : Bool :=
  let here := fun (blk : Nat) => !s.blocks.any fun b => b.id == blk && decide (b.st = .saved)
  let held := s.reqs.filter fun r => r.core == core && r.isHeld && here r.blk
  decide (128 ≤ (s.faults.filter fun f => f.core == core && here f.blk).length + (distinct (held.map (·.insn))).length)

/-! ### The instructions -/

/-- Set register n of a block to the image in some bytes; none when the image breaks R251. -/
def State.setFamily (s : State) (blk launch n : Nat) (bs : List Byte) : Option State :=
  let f : FamImg := tab 8 fun i => BitVec.ofNat 64 (ofLe ((bs.drop (8 * i)).take 8))
  if f.ok n (s.region? launch f.region) then
    some (s.modBlock blk fun b => { b with hf := b.hf.setIfInBounds n f })
  else none

/-- The bytes of an HFSET's image have come: the instruction issues and writes d whole, or raises HASH_FAMILY_INVALID. -/
def Ctx.hfLoaded (c : Ctx) (m : Mask) (n : Nat) (bs : List Byte) (s : State) : Res :=
  match s.setFamily c.iss.blk c.b.launch n bs with
  | some t => .done t 0
  | none => .cause .hashFamilyInvalid m

/-- HFSET (R251). Its read goes on once it has begun, whatever the set's registers and guards hold by now. -/
def execHfset (x : VForm) (s : State) : Host.Outcome State Fault Refusal :=
  s.issueN 1 (·.on x.g) fun c s =>
    let m := c.on x.g
    let a := (c.sval x.a).toNat
    let n := Opnd.hfnum x.d
    match s.preAt c with
    | some p =>
      let m := p.lanes &&& c.iss.lanes
      c.goOnRead s m p 8 id (c.hfLoaded m n)
    | none =>
      if c.real x.g = 0 then .done s 0
      else if a % 64 ≠ 0 then .cause .hashFamilyInvalid m
      else if a ≥ 2 ^ 52 then .cause .addressNoncanonical m
      else c.beginRead s m a 64 (some n)

/-- The code and order words of one table from a lane's k projections (SRP), R252. -/
def srpWords (ps : List W32) : W32 × W32 :=
  let nan := fun (p : W32) => decide (0x7F80_0000 < p.toNat % 2 ^ 31)
  let bit := fun (p : W32) => !nan p && !(p.getLsbD 31 && p.toNat % 2 ^ 31 != 0)
  let mg := fun (p : W32) => if nan p then 0x7F80_0000 else p.toNat % 2 ^ 31
  let code := ps.zipIdx.foldl (fun (a : Nat) (p : W32 × Nat) => if bit p.1 then a + 2 ^ p.2 else a) 0
  let order := (sortBy (fun (p : Nat × Nat) => p.1) (ps.zipIdx.map fun (p : W32 × Nat) => (mg p.1, p.2))).map (·.2)
  (BitVec.ofNat 32 code,
   BitVec.ofNat 32 ((List.range 6).foldl (fun a f => a + (order.getD f 31) * 2 ^ (5 * f)) 0))

/-- The code and order words of one table from a lane's RAW code: every margin is 0, so the order is 0, 1, … -/
def rawWords (k : Nat) (w : W32) : W32 × W32 :=
  (BitVec.ofNat 32 (w.toNat % 2 ^ k),
   BitVec.ofNat 32 ((List.range 6).foldl (fun a f => a + (if f < k then f else 31) * 2 ^ (5 * f)) 0))

/-- The first table and the number of tables that HCODE packs. -/
def Ctx.hcodeTables (c : Ctx) (x : VForm) (f : FamImg) : Nat × Nat :=
  if x.c = .none then (0, f.tables)
  else (bitsOf (c.sval x.c).toNat 3 0, bitsOf (c.sval x.c).toNat 8 4)

/-- HCODE (R252). -/
def execHcode (x : VForm) (s : State) : Host.Outcome State Fault Refusal :=
  s.issue fun c s =>
    let m := c.on x.g
    let f := c.b.fam (Opnd.hfnum x.b)
    let (t0, nt) := c.hcodeTables x f
    let src := if f.kind = 0 then nt * f.k else nt
    let a := x.a.vnum
    let d := x.d.vnum
    let words := fun (l i : Nat) =>
      if f.kind = 0 then srpWords ((List.range f.k).map fun j => (c.r.lane l).vreg (a + i * f.k + j))
      else rawWords f.k ((c.r.lane l).vreg (a + i))
    if m = 0 then .done s 0
    else if f.unset then .cause .hashFamilyInvalid m
    else if nt = 0 ∨ f.tables < t0 + nt ∨ (x.c ≠ .none ∧ 2 ^ 9 ≤ (c.sval x.c).toNat) ∨ 128 < a + src ∨ 128 < d + 2 * nt then
      .cause .hashParam m
    else c.later s x.la m (run d (2 * nt)) []
      ((lanesOf m).map fun l => ((List.range nt).map fun i =>
        [(Dest.v (d + 2 * i) l, (words l i).1.setWidth 64), (Dest.v (d + 2 * i + 1) l, (words l i).2.setWidth 64)]).flatten).flatten
      id

/-- The version, M, T and handle of HPROBE's parameter register. -/
def probeV (p : W64) : Nat := bitsOf p.toNat 31 0
def probeM (p : W64) : Nat := bitsOf p.toNat 41 32
def probeT (p : W64) : Nat := bitsOf p.toNat 44 42
def probeTh (p : W64) : Nat := bitsOf p.toNat 51 48

/-- The number of words that a list of families takes. -/
def famWords (fs : List FamImg) : Nat := (fs.map fun f => 2 * f.tables).foldl (· + ·) 0

/-- A record for a retrieval instruction that issues now. -/
def Ctx.probe (c : Ctx) (s : State) (x : VForm) (kind : RetKind) (m : Mask) (rows : List (Nat × Nat × List W32))
    (ready : Bool) : Probe :=
  ⟨s.nextId, c.iss.blk, c.iss.grp, m, kind, x.d.vnum, Opnd.hfnum x.b, c.sval x.c, rows,
   tab 2 fun i => c.b.fam (Opnd.hfnum x.b + i), ready, false, []⟩

/-- Issue a retrieval instruction that leaves a record. -/
def Ctx.leave (c : Ctx) (s : State) (i : Insn) (la : BitVec 4) (p : Probe) : Res :=
  .done ({ s.fresh with probes := s.probes ++ [p] }.modGroup c.iss.blk c.iss.grp fun g =>
    (Group.raise { g with insns := g.insns ++ [{ i with id := s.nextId }] } i.ctr).window i.lanes s.nextId la) 0

/-- HPROBE (R253 to R255). -/
def execHprobe (x : VForm) (s : State) : Host.Outcome State Fault Refusal :=
  s.issueN 1 (·.on x.g) fun c s =>
    let m := c.on x.g
    let p := c.sval x.c
    let fs := c.b.fams (Opnd.hfnum x.b)
    let n := famWords (fs.getD [])
    let h := c.b.handle (probeTh p)
    let r := s.region? c.b.launch (c.b.fam (Opnd.hfnum x.b)).region
    let cs := causesOf m [
      (fs.isNone, .hashFamilyInvalid), (fs.isSome && r.isNone, .regionInvalid),
      (bitsOf p.toNat 47 45 != 0 || bitsOf p.toNat 63 52 != 0 || probeM p == 0 || decide (512 < probeM p) || probeT p == 0
        || decide (128 < x.a.vnum + n), .hashParam),
      (h.unset, .handleInvalid), (!h.unset && (h.type != 1 || h.space != 0), .handleType)]
    if c.real x.g = 0 then .done s 0
    else if anyCause cs then .raise cs 0 false
    else if s.handleBusy c.iss.blk (probeTh p) || c.full .lc then .wait s
    else c.leave s (c.insn .lc (c.real x.g) (if x.sub = 1 then run x.d.vnum 2 else [x.d.vnum]) []) x.la
      (c.probe s x (.probe (decide (x.sub = 1))) (c.real x.g)
        ((lanesOf (c.real x.g)).map fun l => (l, 0, (List.range n).map fun i => (c.r.lane l).vreg (x.a.vnum + i)))
        ((r.map fun r => decide (probeV p ≤ r.pub)).getD false))

/-! ### Updates (R256) -/

/-- The home's checks of an update at a version, in their order, with the causes `late` that stand between them (R256). -/
def Ctx.updateCauses (s : State) (c : Ctx) (m : Mask) (num v : Nat) (high : Bool) (late : List (Cause × Mask)) :
    List (Cause × Mask) :=
  match s.region? c.b.launch num with
  | none => [(.regionInvalid, m)]
  | some r =>
    if v ≤ r.pub then [(.versionSealed, m)]
    else if r.top < v ∨ high then [(.versionRange, m)]
    else late ++ [(.hashVersionNotNext, if v = r.pub + 1 then 0 else m)]

/-- An update that has sent nothing: the lane set waits until its accesses are performed at device scope, and sends its
registration to the region home if the home's checks will pass it. -/
def Ctx.update (c : Ctx) (s : State) (x : VForm) (v : Nat) (high : Bool) (f : FamImg) (late : List (Cause × Mask))
    (send : State → Res) : Res :=
  let cs := Ctx.updateCauses s c (c.on x.g) f.region v high late
  if (s.region? c.b.launch f.region).isNone then .raise cs 0 false
  else if !s.quiet c.iss.blk c.iss.grp (c.on x.g) 4 then .wait s
  else if anyCause cs then .raise cs 0 false
  else send s

/-- An update whose registration is on its way: the home's checks may still turn it away (R256). -/
def Ctx.updating (c : Ctx) (s : State) (h : HomeReq) : Res :=
  let cs := Ctx.updateCauses s c (c.askedOn h) h.region h.ver false []
  if !h.done && anyCause cs then .raise cs 0 false else .wait s

/-- HMERGE and HREHASH that have sent their registration: the home carries them out, and the instruction issues with what came of
it; a cause that leaves it without effect it raises itself (R260, R266). -/
def Ctx.merging (c : Ctx) (s : State) (h : HomeReq) : Res :=
  match h.ans.bind (·.precise) with
  | some k => .cause k (c.askedOn h)
  | none => c.updating s h

/-- The changed region of an update that lands: its records are charged to the pool and its registration ends. -/
def State.landUpdate (s : State) (old : Region) (w : Lines) (v : Nat) : Option State :=
  (w.r.charge old).map fun r =>
    (s.modRegion old.launch old.num fun q => { q with recs := r.recs, free := r.free }).unregister old.launch old.num v

/-- The number of registers that an HINS reads from d. -/
def sideRun (kind : RetKind) (fs : List FamImg) : Nat := if kind = .hins then famWords fs else 0

/-- The id that a lane names in an HINS or HDEL. -/
def Ctx.sideId (c : Ctx) (x : VForm) (l : Nat) : Nat := ((c.r.lane l).vreg x.a.vnum).toNat

/-- The causes of an HINS or HDEL in its lanes m, of which rl are no helpers (R250, R257). -/
def Ctx.sideCauses (c : Ctx) (x : VForm) (kind : RetKind) (fs : List FamImg) (m rl : Mask) : List (Cause × Mask) :=
  [(.hashParam, if 128 < x.d.vnum + sideRun kind fs then m else 0),
   (.hashIdRange, maskOf fun l => inMask rl l && fs.any fun f => decide (f.maxid ≤ c.sideId x l))]

/-- HINS and HDEL at issue (R257): the record takes the families, the ids and the code words with it. -/
def Ctx.sideIssue (c : Ctx) (s : State) (x : VForm) (kind : RetKind) (fam : Vector FamImg 2) (h : HomeReq) : Res :=
  let fs := (famsOf fam[0] fam[1]).getD []
  let m := c.askedOn h
  let rl := maskOf fun l => inMask m l && !(c.r.lane l).helper
  let cs := c.sideCauses x kind fs m rl
  if anyCause cs then .raise cs 0 false
  else if c.full .sc then .wait s
  else
    let p := c.probe s x kind rl ((lanesOf rl).map fun l =>
      (l, c.sideId x l, (List.range (sideRun kind fs / 2)).map fun i => (c.r.lane l).vreg (x.d.vnum + 2 * i))) true
    c.leave (s.dropHome h.id) (c.insn .sc rl [] []) 0 { p with fam := fam, par := BitVec.ofNat 64 h.ver }

/-- HINS and HDEL (R257). -/
def Ctx.sideUpdate (c : Ctx) (s : State) (x : VForm) (kind : RetKind) : Res :=
  let m := c.on x.g
  let p := c.sval x.c
  let rl := c.real x.g
  let i := Opnd.hfnum x.b
  let going := fun (h : HomeReq) => match h.op with
    | .side fam => if h.done then c.sideIssue s x kind fam h else c.updating s h
    | _ => .wait s
  c.answerOr s going <| match c.b.fams i with
  | none => if rl = 0 then .done s 0 else .cause .hashFamilyInvalid m
  | some fs =>
    let f := fs.head?.getD (Vector.replicate 8 0)
    let v := bitsOf p.toNat 31 0
    if rl = 0 then .done s 0
    else if c.full .sc then .wait s
    else c.update s x v (decide (2 ^ 32 ≤ p.toNat)) f (c.sideCauses x kind fs m rl) fun s =>
      .wait (c.askHome s m f.region v (.side (tab 2 fun n => c.b.fam (i + n))))

/-- HINS (R257). -/
def execHins (x : VForm) (s : State) : Host.Outcome State Fault Refusal :=
  s.issueN 1 (·.on x.g) fun c s => c.sideUpdate s x .hins

/-- HDEL (R257). -/
def execHdel (x : VForm) (s : State) : Host.Outcome State Fault Refusal :=
  s.issueN 1 (·.on x.g) fun c s => c.sideUpdate s x .hdel

/-- HREHASH (R260): its array is read before the registration is sent, with the rows, to the home (DEDUCED, log 33). -/
def execHrehash (x : VForm) (s : State) : Host.Outcome State Fault Refusal :=
  s.issueN 1 (·.on x.g) fun c s =>
    let m := c.on x.g
    let p := (c.sval x.c).toNat
    let v := bitsOf p 31 0
    let n := bitsOf p 47 32
    let i := Opnd.hfnum x.b
    let a := (c.sval x.a).toNat
    c.answerOr s (c.merging s) <|
    if c.real x.g = 0 then .done s 0
    else if (c.b.fam i).unset then .cause .hashFamilyInvalid m
    else if i % 2 = 1 ∨ !(c.b.fam i).pair then .cause .hashRehashState m
    else match c.b.fams i with
      | some [old, new] =>
        let bytes := 4 * n * new.tables
        let past := match s.region? c.b.launch old.region with
          | none => false
          | some r => decide (old.maxid < Lines.cursor ⟨s, r, v⟩ old + n)
        let late : List (Cause × Mask) := causesOf m
          [(bitsOf p 63 48 != 0 || n == 0 || decide (4096 < n), .hashParam), (past, .hashRehashState),
           (a % 4 != 0, .misaligned), (decide (2 ^ 52 < a + bytes), .addressNoncanonical)]
        c.update s x v false old late fun s =>
          c.reading s m a bytes 8 id fun bs t =>
            let word := fun (k : Nat) => ofLe ((bs.drop (4 * k)).take 4)
            let rows := (List.range n).map fun q => (List.range new.tables).map fun j => word (q * new.tables + j)
            .wait (c.askHome t m old.region v (.rehash old new rows) false [] x.d.sdst? i)
      | _ => .cause .hashFamilyInvalid m

/-- HMERGE (R259). -/
def execHmerge (x : VForm) (s : State) : Host.Outcome State Fault Refusal :=
  s.issueN 1 (·.on x.g) fun c s =>
    let m := c.on x.g
    let p := (c.sval x.c).toNat
    let v := bitsOf p 31 0
    let f := c.b.fam (Opnd.hfnum x.b)
    c.answerOr s (c.merging s) <|
    if c.real x.g = 0 then .done s 0
    else if f.unset then .cause .hashFamilyInvalid m
    else c.update s x v (decide (2 ^ 32 ≤ p)) f [] fun s =>
      .wait (c.askHome s m f.region v (.merge f) false [] x.d.sdst? (Opnd.hfnum x.b))

/-- HSTAT (R261). -/
def execHstat (x : VForm) (s : State) : Host.Outcome State Fault Refusal :=
  s.issue fun c s =>
    let i := Opnd.hfnum x.b
    let n := subN x
    let cnt := c.b.hfc[i]?.getD (Vector.replicate 9 0)
    if c.on x.g = 0 then .done s 0
    else if n < 9 then c.scal s x.g x.d (cnt[n]?.getD 0)
    else if n < 32 then c.scal s x.g x.d (BitVec.ofNat 64 ((c.b.fam i).dw (n - 16)))
    else c.scal (if c.real x.g = 0 then s else s.modBlock c.iss.blk fun b =>
        { b with hfc := b.hfc.setIfInBounds i (cnt.setIfInBounds (n - 32) 0) }) x.g x.d (cnt[n - 32]?.getD 0)

/-! ### When a record runs and completes -/

/-- The slots a probe fills, lane by lane (R255). -/
structure Fill where
  writes : List (Nat × Nat × List Nat)     -- lane, first entry, ids
  d      : List (Nat × Nat × Nat)          -- lane, d, d + 1
  p      : Nat
  hi     : Option Nat
  stop   : Option Nat
  ret    : Nat
  drop   : Nat
  deriving DecidableEq, Repr

/-- One lane's share. -/
def Fill.lane (st : Fill) (pack : Bool) (m cap l : Nat) (ids : Option (List Nat)) : Fill :=
  let zero := { st with d := st.d ++ [(l, 0, 0)] }
  if st.stop.isSome then zero
  else match ids with
    | none => zero
    | some ids =>
      let k := min ids.length m
      if (if pack then st.p + k else (l + 1) * m) > cap then { zero with stop := some l }
      else if pack then
        { st with
          writes := st.writes ++ [(l, st.p, ids.take m)]
          d := st.d ++ [(l, ids.length, st.p)]
          p := st.p + k
          ret := st.ret + k
          drop := st.drop + (ids.length - k) }
      else
        { st with
          writes := st.writes ++ [(l, l * m, ids.take m ++ List.replicate (m - k) 0xFFFF_FFFF)]
          d := st.d ++ [(l, ids.length, 0)]
          hi := some l
          ret := st.ret + k
          drop := st.drop + (ids.length - k) }

/-- A probe whose version is published runs (R254, R255): its slots become store requests, its handle's count is set and
its results wait in its instruction for the last of those stores. -/
def State.runProbe (s : State) (p : Probe) (pack : Bool) (r : Region) : State :=
  match s.block? p.blk, famsOf (p.fam[0]?.getD (Vector.replicate 8 0)) (p.fam[1]?.getD (Vector.replicate 8 0)) with
  | some b, some fs =>
    let g := b.group p.grp
    let v := probeV p.par
    let h := b.handle (probeTh p.par)
    let rows := p.rows.filter fun q => !(g.lane q.1).cancelled
    let f0 : FamImg := p.fam[0]?.getD (Vector.replicate 8 0)
    let fpc := ((g.insns.find? fun i => i.id == p.id).map (·.fpc)).getD 0
    let mk := fun (ls : List Nat) => maskOf fun l => ls.contains l
    let res := rows.map fun q => (q.1, Lines.probe ⟨s, r, v⟩ fs q.2.2 (probeT p.par))
    let bad := rows.filterMap fun q => (Lines.probePoison ⟨s, r, v⟩ fs q.2.2 (probeT p.par)).map fun a => (q.1, a)
    let isBad := fun (l : Nat) => bad.any fun q => q.1 == l
    let corrupt := res.filterMap fun q => if isBad q.1 then none else q.2.bad.map fun a => (q.1, a)
    let st : Fill := res.foldl (fun (st : Fill) q =>
        st.lane pack (probeM p.par) h.capacity q.1 (if isBad q.1 then none else q.2.ids))
      ⟨[], [], h.count, none, none, 0, 0⟩
    let sealed := v < r.floor
    let none_ := rows.map fun q => (q.1, 0, 0)
    let out := if sealed then none_ else st.d
    let writes := (out.map fun q => if pack then
        [(Dest.v p.d q.1, BitVec.ofNat 64 q.2.1), (Dest.v (p.d + 1) q.1, BitVec.ofNat 64 q.2.2)]
      else [(Dest.v p.d q.1, BitVec.ofNat 64 q.2.1)]).flatten
    let count := match pack, st.stop, st.hi with
      | true, _, _ => (st.p, 0)
      | false, some l, _ => (probeM p.par * l, 0)
      | false, none, some l => (probeM p.par * (l + 1), 0)
      | false, none, none => ((Config.freeWord s.free).toNat % 2 ^ 32, 1)
    let old := h.dw 2
    let dw2 := match st.stop with
      | some l => handleDw2 count.1 l true
      | none => handleDw2 count.1 (bitsOf old 62 32) (bitOf old 63)
    let reqs := (st.writes.map fun q => q.2.2.zipIdx.map fun (e : Nat × Nat) =>
      { unitReq 0 p.id b.core p.blk p.grp (maskOf (· == q.1)) .store (h.aux0 + 4 * (q.2.1 + e.2)) 4 with
        parts := [⟨q.1, leBytes 4 e.1, [], []⟩] }).flatten
    let reqs := reqs.zipIdx.map fun (q : Req × Nat) => { q.1 with id := s.nextId + q.2 }
    let sum := fun (f : Probed → Nat) => (res.map fun q => f q.2).foldl (· + ·) 0
    let stats := [rows.length, sum (·.buckets), sum (·.cands), st.ret, st.drop, sum (·.tombs), 0, 0, sum (·.dups)]
    let late := fun (g : Group) =>
      if sealed then g.addAfter ⟨p.id, .versionReclaimed, mk (rows.map (·.1)), true, BitVec.ofNat 64 f0.hbase, fkindOf 8 7 4, fpc⟩
      else
        let each := fun (cause : Cause) (kind : W64) (qs : List (Nat × Nat)) (g : Group) => qs.foldl (fun (g : Group) q =>
          g.addAfter ⟨p.id, cause, maskOf (· == q.1), true, BitVec.ofNat 64 q.2, kind, fpc⟩) g
        let g := each .hashTableCorrupt (hashFkind 8) corrupt (each .mcDataPoison (fkindOf 8 6 4) bad g)
        match st.stop with
        | some l => g.addAfter ⟨p.id, .handleFieldOverflow, mk ((rows.map (·.1)).filter (l ≤ ·)), false, 0, 0, fpc⟩
        | none => g
    let t := s.modGroup p.blk p.grp fun g =>
      late { g with insns := g.insns.map fun i => if i.id = p.id then { i with writes := writes } else i }
    let t := if sealed then t else
      { t.modBlock p.blk fun b => { b with th := b.th.setIfInBounds (probeTh p.par) (h.set 2 dw2) } with
        reqs := t.reqs ++ reqs
        nextId := t.nextId + reqs.length
        free := t.free + count.2 }
    { t with probes := t.probes.map fun q => if q.id = p.id then
        { q with ran := true, ready := true, stats := if sealed then [rows.length] else stats } else q }
  | _, _ => s

/-- An HINS or HDEL reserves and writes its entries, lane by lane (R257); none while its records cannot be had. -/
def State.runSide (s : State) (p : Probe) (r : Region) : Option State :=
  match famsOf (p.fam[0]?.getD (Vector.replicate 8 0)) (p.fam[1]?.getD (Vector.replicate 8 0)) with
  | none => some s
  | some fs =>
    let v := bitsOf p.par.toNat 31 0
    let out := p.rows.foldl (fun (st : Lines × List (Nat × Cause × Nat)) q =>
      match st.1.reserve fs q.2.1 (if p.kind = .hins then some (q.2.2.map (·.toNat)) else none) with
      | .ok w => (w, st.2)
      | .error c => (st.1, st.2 ++ [(q.1, c)])) (⟨s, r, v⟩, [])
    let fpc := (((s.group? p.blk p.grp).bind fun g => g.insns.find? fun i => i.id == p.id).map (·.fpc)).getD 0
    let refused := (out.2.filter fun q => decide (q.2.1 = .hashSideFull)).length
    (s.landUpdate r out.1 v).map fun t =>
      let t := out.2.foldl (fun (t : State) q => t.modGroup p.blk p.grp fun g =>
        let kind := if q.2.1 = .mcDataPoison then fkindOf 8 6 4 else hashFkind 9
        g.addAfter ⟨p.id, q.2.1, maskOf (· == q.1), true, BitVec.ofNat 64 q.2.2, kind, fpc⟩) t
      { t with probes := t.probes.map fun q => if q.id = p.id then
          { q with ran := true, stats := [0, 0, 0, 0, 0, 0, 0, refused, 0] } else q }

/-- Whether something of an instruction is still to be done: a request, a matrix operation or a record that has not
run. -/
def State.insnBusy (s : State) (blk grp id : Nat) : Bool :=
  (s.reqs.any fun r => r.insn == id && !(r.kind == .fence))
    || (s.mtxq.any fun o => o.blk == blk && o.insns.contains (grp, id))
    || s.probes.any fun p => p.id == id && !p.ran

/-- Complete an instruction of which nothing is left to do (R34, R145, R255). -/
def State.settle (s : State) (blk grp id : Nat) : State :=
  if s.insnBusy blk grp id then s
  else
    let t := match s.probes.find? fun p => p.id == id with
      | none => s
      | some p =>
        { s.modBlock blk fun b => b.addStats p.hf p.stats with probes := s.probes.filter fun q => q.id != id }
    t.modGroup blk grp fun g => g.complete id

/-- RESULT_LAND of an instruction: a computed result lands, or a record runs (R34, R255, R257). -/
def execResultLand (blk grp pend : Nat) (s : State) : Host.Outcome State Fault Refusal :=
  match s.group? blk grp, s.probes.find? fun p => p.id == pend && p.blk == blk && p.grp == grp with
  | some _, some p =>
    let img : FamImg := p.fam[0]?.getD (Vector.replicate 8 0)
    let launch := ((s.block? blk).map (·.launch)).getD 0
    match s.region? launch img.region with
    | none => .next s
    | some r =>
      if p.ran then .next (s.settle blk grp pend)
      else match p.kind with
        | .probe pack => if p.ready then .next ((s.runProbe p pack r).settle blk grp pend) else .next s
        | _ => .next (((s.runSide p r).map fun t => t.settle blk grp pend).getD s)
  | some g, none =>
    match g.insns.find? fun i => i.id == pend with
    | some i => if i.timed && !s.insnBusy blk grp pend then .next (s.modGroup blk grp fun g => g.complete pend) else .next s
    | none => .next s
  | none, _ => .next s

/-- Whether the version that a probe reads is published. -/
def State.published (s : State) (p : Probe) : Bool :=
  let img : FamImg := p.fam[0]?.getD (Vector.replicate 8 0)
  match s.region? (((s.block? p.blk).map (·.launch)).getD 0) img.region with
  | none => false
  | some r => decide (probeV p.par ≤ r.pub)

/-- PROBE_VERSION_WAKE: a probe goes on when P reaches its version (R255). One whose block is saved is withdrawn, and goes on
after its restoration (R265). -/
def execProbeVersionWake (probe : Nat) (s : State) : Host.Outcome State Fault Refusal :=
  match s.probes.find? fun p => p.id == probe with
  | none => .next s
  | some p =>
    if s.published p && (s.block? p.blk).any fun b => decide (b.st ≠ .saved) then
      .next { s with probes := s.probes.map fun q => if q.id = probe then { q with ready := true } else q }
    else .next s

def State.modHome (s : State) (id : Nat) (f : HomeReq → HomeReq) : State :=
  { s with home := s.home.map fun h => if h.id = id then f h else h }

/-- What the home makes of a registered HMERGE or HREHASH: the family's lines after it, and its outcome (R259, R260). One
that meets a poisoned sector changes nothing (R312; DEDUCED, log 33). The cursor is that of the step itself, which an earlier
step of the pair may have moved. -/
def HomeReq.work (h : HomeReq) (w : Lines) : Lines × Merged :=
  let lost := fun (a : Nat) => (w, Merged.mk none 0 (some (.mcDataPoison, a)) 0 0)
  let refused := fun (c : Cause) => (w, Merged.mk (some c) 0 none 0 0)
  match h.op with
  | .merge f => match w.mergePoison f, w.merge f with
    | some a, _ => lost a
    | none, none => refused .hashTableCorrupt
    | none, some (w, d, why, ev) => (w, ⟨none, d, why.head?, ev, why.length⟩)
  | .rehash old new rows =>
    match w.headPoison old with
    | some a => lost a
    | none =>
      if old.maxid < w.cursor old + rows.length then refused .hashRehashState
      else match w.rehashPoison old new rows, w.rehash old new rows with
        | some a, _ => lost a
        | none, none => refused .hashTableCorrupt
        | none, some (w, d, why, ev) => (w, ⟨none, d, why, ev, if why.isSome then 1 else 0⟩)
  | _ => (w, ⟨none, 0, none, 0, 0⟩)

/-- Whether nobody waits any more for the answer to a request: its lane set's guard-true lanes have exited. -/
def State.unawaited (s : State) (h : HomeReq) : Bool :=
  ((s.group? h.blk h.grp).map fun g => h.takers &&& g.live == 0).getD true

/-- A request has been answered; with nobody to wait for it, its instruction is done with at once (R225, R265). -/
def State.answered (s : State) (h : HomeReq) : State :=
  if s.unawaited h then s.homeIssue h else s.modHome h.id fun _ => h

/-- REGISTRATION: the region home passes a registration that its checks take in, and raises engines[v] (R237, R256). At
65,535 it holds it. Where the registration is that of a merge or a rehash, the home next carries it out, and the
registration ends; while the pool cannot supply its records it stays as it is. -/
def execRegistration (req : Nat) (s : State) : Host.Outcome State Fault Refusal :=
  match s.home.find? fun h => h.id == req && h.reg && h.ans.isNone with
  | none => .next s
  | some h =>
    match s.region? h.launch h.region with
    | none => .next s
    | some r =>
      if h.done then
        match h.op with
        | .merge _ | .rehash .. =>
          let out := h.work ⟨s, r, h.ver⟩
          .next (((s.landUpdate r out.1 h.ver).map fun t => t.answered { h with ans := some out.2 }).getD s)
        | _ => .next s
      else if r.pub < h.ver ∧ h.ver ≤ r.top ∧ r.enginesOf h.ver < 65535 then
        .next ((s.modRegion h.launch h.region fun r =>
          { r with engines := assocPut r.engines h.ver (r.enginesOf h.ver + 1) }).modHome req fun h => { h with done := true })
      else if s.unawaited h then .next (s.dropHome req)
      else .next s

/-- PUBLICATION_POINT: the region home sets P when engines[v] is 0 (R213). The copies of the slices follow, and the VNPUB
issues when all of them have acknowledged. A publication that its home's checks turn away, with nobody to take the cause, is
gone. -/
def execPublicationPoint (req : Nat) (s : State) : Host.Outcome State Fault Refusal :=
  match s.home.find? fun h => h.id == req && decide (h.op = .publish) && !h.done with
  | none => .next s
  | some h =>
    match s.region? h.launch h.region with
    | none => .next s
    | some r =>
      if !s.homeSent h then .next s
      else if h.ver = r.pub + 1 ∧ h.ver ≤ r.top then
        (if r.enginesOf h.ver = 0 then .next ((s.publish r.launch r.num h.ver).answered { h with done := true }) else .next s)
      else if s.unawaited h then .next (s.dropHome req)
      else .next s

end Sys2Proof.Machine
end

