-- ==== Sys2Proof/Machine/Tasks.lean ====
section
/-!
DEFINITION. Tasks, bounds and incumbents (15_tasks.md R269 to R291): 0xC0 to 0xC6, the spawn queue of a block and the
comparison of incumbent values. Events.lean files carry the queue, the Praline root and cancellation on.
-/

namespace Sys2Proof.Machine

/-! ### Incumbents (R54, R279, R280) -/

def Incumbent.bound (c : Incumbent) : Bool := c.cfg.getLsbD 0
def Incumbent.kind (c : Incumbent) : Nat := (c.cfg.extractLsb' 1 2).toNat
def Incumbent.max (c : Incumbent) : Bool := c.cfg.getLsbD 3
def Incumbent.prune (c : Incumbent) : Bool := c.cfg.getLsbD 4
def Incumbent.mirror (c : Incumbent) : Bool := c.cfg.getLsbD 5

/-- The key by which values are compared (R280). -/
def icKey (kind : Nat) (x : W64) : Int :=
  match kind with
  | 0 => x.toInt
  | 1 => x.toNat
  | _ => if x.getLsbD 63 then (x ^^^ 0x7FFF_FFFF_FFFF_FFFF#64).toInt else x.toInt

/-- Whether y improves z. -/
def Incumbent.improves (c : Incumbent) (y z : W64) : Bool :=
  if c.max then decide (icKey c.kind z < icKey c.kind y) else decide (icKey c.kind y < icKey c.kind z)

/-- Whether a bound is dominated by the register's value; an unbound register dominates nothing. -/
def Incumbent.dominates (c : Incumbent) (b : W64) : Bool :=
  c.bound && (c.improves c.value b || (c.prune && decide (icKey c.kind c.value = icKey c.kind b)))

/-- A core's copy of incumbent i. -/
def State.icCopy (s : State) (core i : Nat) : Incumbent :=
  (s.cores[core]?.getD CoreSt.zero).ic[i]?.getD Incumbent.zero

/-- The number of an incumbent operand. -/
def Opnd.icnum : Opnd → Nat
  | .ic i => i
  | _ => 0

/-! ### The spawn queue (R269, R270) -/

/-- The largest power of two not above n. -/
def powerBelow (n : Nat) : Nat := if n = 0 then 0 else 2 ^ Nat.log2 n

/-- S: the records of a block's segment. -/
def LRec.segment (r : LRec) : Nat := powerBelow (r.tqRecs / r.blocks)

/-- The virtual address of record i of a block's queue in its segment. -/
def LRec.recordAt (r : LRec) (lin i : Nat) : Nat :=
  r.tqBase + 64 * r.segment * lin + 64 * (i % r.segment)

def TaskRec.dw (t : TaskRec) (i : Nat) : Nat := (t.dws[i]?.getD 0).toNat
def TaskRec.entry (t : TaskRec) : W32 := BitVec.ofNat 32 (t.dw 0)
def TaskRec.ic (t : TaskRec) : Nat := bitsOf (t.dw 0) 35 32
def TaskRec.ben (t : TaskRec) : Bool := bitOf (t.dw 0) 36
def TaskRec.bound (t : TaskRec) : W64 := t.dws[1]?.getD 0
def TaskRec.parent (t : TaskRec) : W32 := BitVec.ofNat 32 (t.dw 7)
def TaskRec.dead (t : TaskRec) : Bool := bitOf (t.dw 7) 32

/-- Whether dword 0 has a legal entry and zero res0 bits. -/
def entryOk (codeSize dw0 : Nat) : Bool := bitsOf dw0 63 37 == 0 && dw0 % 8 == 0 && decide (bitsOf dw0 31 0 < codeSize)

/-- Whether a record read back from the ring is whole (R269). -/
def TaskRec.whole (t : TaskRec) (codeSize : Nat) : Bool := entryOk codeSize (t.dw 0) && bitsOf (t.dw 7) 63 32 == 0

/-- The live records: those on chip and those in the ring. -/
def TaskQ.live (q : TaskQ) : Nat := q.share.length + q.ring.length

/-- The bytes at an address of a launch's ring, whose pages are pinned; were the walk to fail they are free values. -/
def State.ringRead (s : State) (l : Launch) (va n : Nat) : List Byte :=
  match s.context? l.ctx with
  | none => freeBytes s.free n
  | some c => match s.readVa c va n with
    | .ok bs => bs
    | .error _ => freeBytes s.free n

/-- Write bytes into a launch's ring. -/
def State.ringStore (s : State) (l : Launch) (va : Nat) (bs : List Byte) : State :=
  match s.context? l.ctx with
  | none => s
  | some c => match s.walk c va with
    | .ok pa key _ _ => s.writeHome (Xlat.addr pa va) key bs
    | _ => s

/-- A record of the ring as memory holds it. -/
def State.ringRec (s : State) (b : Block) (l : Launch) (e : Nat × Nat) : TaskRec :=
  let bs := s.ringRead l (l.lr.recordAt b.lin e.1) 64
  ⟨tab 8 fun i => BitVec.ofNat 64 (ofLe ((bs.drop (8 * i)).take 8)), e.1, e.2⟩

/-- The bytes of a record. -/
def TaskRec.bytes (t : TaskRec) : List Byte := (t.dws.toList.map fun d => leBytes 8 d.toNat).flatten

/-- Append a record at the tail: to the share while nothing lies in the ring and it has room, else to the ring. -/
def State.appendTask (s : State) (b : Block) (l : Launch) (dws : Vector W64 8) : State :=
  let q := b.q
  let t : TaskRec := ⟨dws, q.tail, s.cc⟩
  let put := fun (s : State) (q : TaskQ) => s.modBlock b.id fun b => { b with q := q }
  let q := { q with tail := q.tail + 1, spawned := q.spawned + 1 }
  if q.ring.isEmpty && decide (q.share.length < 128) then put s { q with share := q.share ++ [t] }
  else
    put (s.ringStore l (l.lr.recordAt b.lin t.index) t.bytes) { q with ring := q.ring ++ [(t.index, t.time)] }

/-! ### The instructions -/

/-- SPAWN (R273). -/
def execSpawn (x : PForm) (s : State) : Host.Outcome State Fault Refusal :=
  s.issueN 1 (fun c => if x.d = .p 0 then c.on x.g else 0) fun c s =>
    let m := c.on x.g
    let rl := c.real x.g
    let dws : Vector W64 8 := tab 8 fun k => c.sreg (x.a.snum + k)
    let dw0 := (c.sreg x.a.snum).toNat
    let p := lowest rl
    if rl = 0 then .done s 0
    else if !c.l.lr.tasks then .cause .tasksDisabled m
    else if !s.quiet c.iss.blk c.iss.grp (maskOf (· == p)) 3 then .wait s
    else
      let cs := causesOf m [
        (!entryOk c.l.lr.codeSize dw0 || c.sreg (x.a.snum + 7) != 0, .taskBadRecord),
        (bitOf dw0 36 && !(s.icCopy c.b.core (bitsOf dw0 35 32)).bound, .incumbentUnbound)]
      if anyCause cs then .raise cs 0 false
      else if c.l.lr.segment ≤ c.b.q.live then
        (if x.d = .p 0 then .wait s else c.doneG s fun g => g.putS x.d 1)
      else
        .done ((s.appendTask c.b c.l (dws.set 7 ((c.r.lane p).tag.setWidth 64))).modGroup c.iss.blk c.iss.grp fun g =>
          g.putS x.d 0) 0

/-- BNDSET (R278). -/
def execBndset (x : VForm) (s : State) : Host.Outcome State Fault Refusal :=
  s.issue fun c s =>
    let m := c.on x.g
    let i := Opnd.icnum x.b
    if x.sub = 1 then c.doneG s fun g => g.modLanes m fun _ y => { y with ben := false }
    else if m = 0 then .done s 0
    else if !(s.icCopy c.b.core i).bound then .cause .incumbentUnbound m
    else c.doneG s fun g => g.modLanes m fun l y => { y with bnd := c.val64 x.a l, bndIc := BitVec.ofNat 4 i, ben := true }

/-- The config part of a thread's bound (R278). -/
def Lane.bndCfg (y : Lane) : Nat := y.bndIc.toNat + (if y.ben then 16 else 0)

/-- BNDGET (R278). -/
def execBndget (x : VForm) (s : State) : Host.Outcome State Fault Refusal :=
  s.issue fun c s =>
    if x.sub = 1 then c.vec s x.g x.d fun l => BitVec.ofNat 32 (c.r.lane l).bndCfg
    else c.vec2 s x.g x.d fun l => (c.r.lane l).bnd

/-- The best value of an offer: the first that no later one improves upon, lane by lane (R281). -/
def bestOffer (c : Incumbent) : List W64 → Option W64
  | [] => none
  | y :: ys => some (ys.foldl (fun b y => if c.improves y b then y else b) y)

/-- ICUPD (R281). -/
def execIcupd (x : VForm) (s : State) : Host.Outcome State Fault Refusal :=
  s.issue fun c s =>
    let i := Opnd.icnum x.d
    let ic := s.icCopy c.b.core i
    if c.on x.g = 0 then .done s 0
    else if !ic.bound then .cause .incumbentUnbound (c.on x.g)
    else match bestOffer ic ((lanesOf (c.real x.g)).map (c.val64 x.a)) with
      | none => .done s 0
      | some y => .done { s.fresh with offers := s.offers ++ [⟨s.nextId, i, y, c.b.core, false, s.cc⟩] } 0

/-- ICRD (R282). -/
def execIcrd (x : VForm) (s : State) : Host.Outcome State Fault Refusal :=
  s.issue fun c s =>
    let ic := s.icCopy c.b.core (Opnd.icnum x.a)
    c.scal s x.g x.d (match subN x with | 0 => ic.value | 1 => ic.cfg.setWidth 64 | _ => ic.seq)

/-- SHIELD (R287). -/
def execShield (x : KForm) (s : State) : Host.Outcome State Fault Refusal :=
  s.issueN 1 (·.on x.g) fun c s =>
    c.doneG s fun g => g.modLanes (c.on x.g) fun _ y => { y with shield := x.imm.toNat }

/-- One counter of a block's queue (R288). -/
def Block.tqstat (b : Block) (r : LRec) (sub : Nat) : W64 :=
  if !r.tasks then 0
  else match sub with
    | 0 => BitVec.ofNat 64 b.q.live
    | 1 => b.q.spawned
    | 2 => b.q.groups
    | 3 => b.q.tasks
    | 4 => b.q.pruned
    | 5 => b.q.orphaned
    | 6 => b.q.cancelled
    | 7 => b.q.discarded
    | _ => BitVec.ofNat 64 (r.segment - b.q.live)

/-- TQSTAT (R288). -/
def execTqstat (x : VForm) (s : State) : Host.Outcome State Fault Refusal :=
  s.issue fun c s => c.scal s x.g x.d (c.b.tqstat c.l.lr (subN x))

end Sys2Proof.Machine
end

