-- ==== Sys2Proof/Machine/Due.lean ====
section
/-!
DEFINITION. What the device's agents owe by now (15_tasks.md R274, R275, R283, R284; 04_control.md R76; 21_host.md R362): a cc does
not end while a copy, a cancellation, a pruning, a formation, an awakening or an energy window that it was to bring is still to come.
-/

namespace Sys2Proof.Machine

/-- A block whose threads may issue. -/
def Block.running (b : Block) : Bool := decide (b.st = .resident)

/-- Whether a record's bound is dominated by its core's copy of its incumbent. -/
def State.recordDominated (s : State) (core : Nat) (t : TaskRec) : Bool := t.ben && (s.icCopy core t.ic).dominates t.bound

/-- Whether a thread is prunable and its core's copy dominates its bound. -/
def State.threadDominated (s : State) (b : Block) (x : Lane) : Bool :=
  x.ben && !x.exited && (s.icCopy b.core x.bndIc.toNat).dominates x.bnd

/-- Whether a thread is to be cancelled: prunable, dominated, and outside a SHIELD window (R283, R287). -/
def State.toCancel (s : State) (b : Block) (x : Lane) : Bool := x.shield == 0 && s.threadDominated b x

/-- Whether a record's parent stands in its block, tied to the incumbent that the record is tied to, and has a property. -/
def TaskRec.parentIs (t : TaskRec) (b : Block) (p : Lane → Bool) : Bool :=
  b.groups.any fun g => (List.range 32).any fun l =>
    let x := g.lane l
    x.tag == t.parent && x.bndIc.toNat == t.ic && p x

/-- Whether a record's parent is to be cancelled through the incumbent that the record is tied to. -/
def State.parentCancels (s : State) (b : Block) (t : TaskRec) : Bool := t.parentIs b (s.toCancel b)

/-- Whether a SHIELD window defers the cancellation of a record's parent (R287). -/
def State.parentDefers (s : State) (b : Block) (t : TaskRec) : Bool :=
  t.parentIs b fun x => x.shield != 0 && s.threadDominated b x

/-- Whether a record leaves with its parent, which the change of the copy that dominated the record is about to cancel
(R292). -/
def State.leaves (s : State) (b : Block) (t : TaskRec) : Bool :=
  (b.q.pledged.any fun d => d.1 == t.index) && s.parentCancels b t

/-! ### Sets of records (R274) -/

/-- The live records of a block, oldest first. -/
def State.liveRecords (s : State) (b : Block) (l : Launch) : List TaskRec := b.q.share ++ b.q.ring.map (s.ringRec b l)

/-- The records with one entry value among some. -/
def entrySet (ts : List TaskRec) (e : W32) : List TaskRec := ts.filter fun t => t.entry == e

/-- Whether a record that is the oldest of its set has waited 512 cc. -/
def TaskRec.waited (t : TaskRec) (now : Nat) : Bool := decide (t.time + 512 ≤ now)

/-- The oldest records of the sets that have waited 512 cc and are not yet noted as ready. -/
def State.unnoted (s : State) (b : Block) (l : Launch) : List TaskRec :=
  let ts := s.liveRecords b l
  ts.filter fun t => ((entrySet ts t.entry).head?).any (fun o => o.index == t.index) && t.waited s.cc && !b.q.due.contains t.index

/-- The ready set whose oldest record was appended first. -/
def readySet (q : TaskQ) (ts : List TaskRec) : Option (List TaskRec) :=
  (ts.find? fun t =>
    let e := entrySet ts t.entry
    decide (32 ≤ e.length) || ((e.head?).map fun o => q.due.contains o.index).getD false).map fun t => entrySet ts t.entry

/-- Whether a slot may take a task group: its threads have exited and its counters are zero. -/
def Group.isFree (g : Group) : Bool := g.live == 0 && g.lc == 0 && g.sc == 0 && g.mc == 0 && g.ec == 0

/-- The lowest free slot of a block and the ready set that is to fill it, unless the queue has formed a group in this cc. -/
def State.forming (s : State) (b : Block) (l : Launch) : Option (Nat × List TaskRec) :=
  if !b.running || b.q.refill || !l.lr.tasks || decide (b.q.formed = some s.cc) || !(s.unnoted b l).isEmpty then none
  else match (List.range b.groups.length).find? fun i => (b.group i).isFree, readySet b.q (s.liveRecords b l) with
    | some slot, some ts => some (slot, ts)
    | _, _ => none

/-! ### Saves (R319) -/

/-- Whether a save takes a request along or withdraws it: a parked line and the fills held with it, a held VNST line, a blocked
VNLD, a fence's mark, or a read made before an instruction issues for which a lane waits (R149, R224). -/
def State.travels (s : State) (r : Req) : Bool :=
  r.isParked || r.isHeld || decide (r.phase = .fill ∨ r.kind = .fence) || (s.pres.any fun p => p.id == r.insn && !s.unread p)
    || match r.kind, r.phase with
      | .vnld _, .blocked _ | .vnld _, .retry _ _ => true
      | _, _ => false

/-- Whether an engine command has an operand or a completion word in its block's own stores (R240). -/
def Cmd.isLocal (k : Cmd) : Bool :=
  k.queue != 5 && (k.w.sspace != 0 || k.w.dspace != 0) || (k.w.mode == modeWord && k.w.wspace == 1)

/-- Whether a request moves bytes that step 3 of a save waits for: LDDS bytes and mirror stores (R84, R319). -/
def Req.inStep3 (r : Req) : Bool := r.isLdds || decide (r.space = .mirror)

/-- Whether a block has drained, so that its save may go on to its third step (R319). -/
def State.drained (s : State) (b : Block) : Bool :=
  (s.reqs.all fun r => r.blk != b.id || s.travels r || r.inStep3)
    && (b.groups.zipIdx.all fun (p : Group × Nat) => p.1.insns.all fun i =>
      !i.timed || s.insnBusy b.id p.2 i.id)
    && (s.mtxq.all fun o => o.blk != b.id)
    && s.probes.all fun p => p.blk != b.id || (!p.ready && decide (p.kind ≠ .hins ∧ p.kind ≠ .hdel))

/-- Whether bytes are in flight toward the stores of a block, so that its image may not be written (R240, R319). -/
def State.inFlight (s : State) (b : Block) : Bool :=
  (s.reqs.any fun r => r.blk == b.id && r.inStep3 && !s.travels r) || s.cmds.any fun k => k.blk == b.id && k.isLocal

/-- The other blocks of a block's cluster (R80, R175). -/
def State.clusterOf (s : State) (b : Block) : List Nat :=
  let n := ((s.launch? b.launch).map (·.lr.cluster)).getD 1
  (s.blocks.filter fun q => q.launch == b.launch && q.id != b.id && q.y == b.y && q.z == b.z && q.stage == b.stage
    && q.x / n == b.x / n).map (·.id)

/-- A block with the members of its cluster that have not completed. -/
def State.members (s : State) (b : Block) : List Block := s.blocks.filter fun q => q.id == b.id || (s.clusterOf b).contains q.id

/-- Whether a mirror store of a block has still to land in a copy (R84). -/
def State.mirrorsOut (s : State) (b : Block) : Bool := s.reqs.any fun r => r.blk == b.id && decide (r.space = .mirror)

/-- Whether a block has drained and nothing is in flight to it or, for mirror stores, to its cluster (R84, R319). -/
def State.savable (s : State) (b : Block) : Bool :=
  s.drained b && !(s.members b).any s.mirrorsOut && !s.inFlight b

/-- The limit of a save's third step. -/
def saveLimit : Nat := micros 10

/-- Whether a save must come to its end in this cc: its bytes have landed and the limit would pass with the cc, or the limit
has passed (R319). -/
def State.saveDue (s : State) (b : Block) : Bool :=
  match b.st with
  | .saving since _ =>
    if s.savable b then decide (since + saveLimit ≤ s.time + s.ccTime) else s.drained b && decide (since + saveLimit ≤ s.time)
  | _ => false

/-- The third step of a save counts its 10 µs from the cc in which the block has drained. -/
def State.countSave (s : State) (b : Block) : Block :=
  match b.st with
  | .saving since idle => { b with st := .saving (if s.drained b then since else s.time + s.ccTime) idle }
  | _ => b

/-! ### What is due -/

/-- The bounds of R283 and R284, in cc: a copy holds an accepted value after 192, the root has taken an offer after 96, a
dominated thread is cancelled after 4, and a dominated record is removed after 8. -/
def copyBound : Nat := 192
def rootBound : Nat := 96
def stopBound : Nat := 4
def pruneBound : Nat := 8

/-- Whether a record of a block's on-chip share is to be removed by now (R284). -/
def State.pruneDue (s : State) (b : Block) : Bool :=
  b.q.doomed.any fun d => (b.q.share.any fun t => t.index == d.1) && decide (d.2 + pruneBound ≤ s.cc)

/-- A request that still waits at a lost peer, and that peer. -/
def State.lostWait (s : State) (r : Req) : Option (Req × Nat) :=
  match r.phase, (r.entry?).bind fun e => s.entries.find? fun f => f.id == e with
  | .accepted _, some e | .remote _ _, some e => match targetOf e.pa with
    | .peer d _ => if s.fab.lost.contains d && e.sent then some (r, d) else none
    | _ => none
  | _, _ => none

/-- The lost peers that requests of a group still wait on. -/
def State.lostWaits (s : State) (blk grp : Nat) : List (Req × Nat) :=
  (s.reqs.filter fun r => r.blk == blk && r.grp == grp).filterMap s.lostWait

/-- Whether what a lost peer has left open must be resolved by now, 50 µs after its declaration: a request that waits there, or
an engine command that is to stop (R339). -/
def State.lossDue (s : State) : Bool :=
  s.fab.lostAt.any fun p => decide (p.2 + micros 50 ≤ s.time)
    && ((s.reqs.any fun r => (s.lostWait r).any fun w => w.2 == p.1 && s.blocks.any fun b => b.id == r.blk)
      || s.cmds.any fun k => k.fail.any fun f => decide (f.1 = .enginePeerLost))

/-- Whether one of a block's events is due: it concerns a group that wakes or starts, a thread to cancel or a group to form. -/
def State.blockDue (s : State) (b : Block) : Bool :=
  (b.groups.any fun g => (g.forming && decide (g.mayIssue ≤ s.cc)) || (List.range 32).any fun l =>
      let x := g.lane l
      (match x.st with | .sleeping n => decide (n ≤ s.cc) | _ => false) || (s.toCancel b x && decide (stopBound ≤ x.dom)))
    || match s.launch? b.launch with
      | none => false
      | some l => l.lr.tasks && (!(s.unnoted b l).isEmpty || (s.forming b l).isSome)

/-- Whether the cc may not end yet. -/
def State.due (s : State) : Bool :=
  (s.offers.any fun o => decide (o.since + rootBound ≤ s.cc))
    || (s.cores.toList.any fun k => k.pending.any fun q => decide (q.2.2 + copyBound ≤ s.cc))
    || decide (s.fw.window + micros 10000 ≤ s.time)
    || s.lossDue
    || s.blocks.any fun b => (b.running && s.blockDue b) || s.pruneDue b || s.saveDue b

/-- Count for each thread the cc for which it has been dominated without being cancelled. -/
def State.countDominated (s : State) (b : Block) : Block :=
  if !b.running then b
  else { b with groups := b.groups.map fun g => g.modLanes (maskOf fun l => (g.lane l).ben) fun _ x =>
    { x with dom := if s.toCancel b x then x.dom + 1 else 0 } }

/-- At the end of a cc, a record that was to leave with its parent is to be pruned instead when the parent is not going to be
cancelled after all: it has exited, changed its bound or gone into a SHIELD window (R284, R292). One in the ring is pruned when
it is read back, and counts as pruned before that only under a parent in such a window. -/
def State.lapse (s : State) (b : Block) : Block :=
  match s.launch? b.launch with
  | none => b
  | some l =>
    if b.q.pledged.isEmpty then b
    else
      let freed := (s.liveRecords b l).filter fun t => !s.parentCancels b t
      let isFreed := fun (d : Nat × Nat) => freed.any fun t => t.index == d.1
      let toPrune := fun (d : Nat × Nat) => freed.any fun t =>
        t.index == d.1 && (b.q.share.contains t || s.parentDefers b t)
      { b with q := { b.q with
          pledged := b.q.pledged.filter fun d => !isFreed d
          doomed := b.q.doomed ++ b.q.pledged.filter toPrune } }

end Sys2Proof.Machine
end

