-- ==== Sys2Proof/Machine/Engines.lean ====
section
/-!
DEFINITION. Engine queues and commands (12_engines.md R227 to R242): PUSH and QSTAT, 0xD0 and 0xD1. An accepted command
is carried on by Commands.lean.
-/

namespace Sys2Proof.Machine

/-! ### Command formats (R231 to R233) -/

/-- The element size of a REDCOPY format; 0 for a code that REDCOPY does not take in. -/
def redBytes (rfmt : Nat) : Nat :=
  match rfmt with
  | 0 | 1 | 8 => 4
  | 2 | 3 | 9 => 8
  | 10 | 11 => 2
  | _ => 0

/-- Whether a queue admits an operation (R227). -/
def admits (queue op : Nat) : Bool :=
  if queue = 5 then op == opInsert || op == opDelete || op == opMerge
  else op == opCopy || op == opFill || (op == opRedcopy && queue != 0)

/-- Whether a queue admits the spaces of a command (R227). -/
def spacesOk (queue ss ds : Nat) : Bool :=
  match queue with
  | 0 => decide (ss ≤ 2) && decide (ds ≤ 3)
  | _ => ss == 0 && ds == 0

/-- One element of a reduction (R235). -/
def redElem (rfmt rop x y : Nat) : Nat :=
  let f := match rfmt with | 8 => f32 | 9 => f64 | 10 => f16 | _ => bf16
  match rfmt with
  | 0 => (atomicOp (match rop with | 0 => 0 | 1 => 5 | _ => 6) 32 x y).1
  | 1 => (atomicOp (match rop with | 0 => 0 | 1 => 7 | _ => 8) 32 x y).1
  | 2 => (atomicOp (match rop with | 0 => 0 | 1 => 5 | _ => 6) 64 x y).1
  | 3 => (atomicOp (match rop with | 0 => 0 | 1 => 7 | _ => 8) 64 x y).1
  | _ => match rop with
    | 0 => (f.addV ⟨0, false, false⟩ (f.decode x) (f.decode y)).1
    | 1 => (f.minmax 2 x y).1
    | _ => (f.minmax 3 x y).1

/-- Reduce bytes into bytes, element by element. -/
def redBytesInto (rfmt rop : Nat) (old new : List Byte) : List Byte :=
  let n := redBytes rfmt
  ((List.range (new.length / n)).map fun i =>
    leBytes n (redElem rfmt rop (ofLe ((old.drop (n * i)).take n)) (ofLe ((new.drop (n * i)).take n)))).flatten

/-! ### The checks of R234 -/

/-- CMD_INVALID. -/
def Dws.invalid (w : Dws) (queue : Nat) : Bool :=
  !admits queue w.op || !(decide (1 ≤ w.mode ∧ w.mode ≤ 3)) || !spacesOk queue w.sspace w.dspace || w.rop == 3
    || bitsOf (w.n 0) 31 28 != 0 || w.rows == 0 || bitsOf (w.n 7) 63 32 != 0
    || (w.op != opRedcopy && (w.rfmt != 0 || w.rop != 0)) || (w.op == opRedcopy && redBytes w.rfmt == 0)
    || (w.mode != modeWord && (w.wscope != 0 || w.wspace != 0))
    || (w.mode == modeWord && !decide (1 ≤ w.wscope ∧ w.wscope ≤ 5))
    || (w.mode == modeBar && bitsOf (w.n 5) 63 32 != 0) || (w.mode == modeVer && bitsOf (w.n 5) 31 8 != 0)
    || (w.mode == modeWord && w.wspace == 1 && bitsOf (w.n 5) 63 32 != 0)
    || (if queue = 5 then
        w.mode == modeBar || bitsOf (w.n 3) 63 3 != 0 || w.n 4 != 0
          || (w.op != opMerge && (decide (65536 < w.rows) || w.src == 0)) || (w.op == opInsert && w.dst == 0)
          || (w.op == opMerge && (w.rows != 1 || w.src != 0 || w.dst != 0))
      else
        (w.mode == modeBar && w.dspace != 1) || (w.mode == modeVer && w.dspace != 0) || bitsOf (w.n 3) 63 32 != 0
          || w.rowlen == 0 || (w.rows == 1 && (w.spitch != 0 || w.dpitch != 0))
          || (w.op == opFill && (w.spitch != 0 || w.sspace != 0))
          || (w.op != opFill && w.sspace != 0 && bitsOf (w.n 1) 63 32 != 0) || (w.dspace != 0 && bitsOf (w.n 2) 63 32 != 0))

/-- CMD_MISALIGNED (DEDUCED, log 18: REDCOPY needs multiples of 4 and of its element size). -/
def Dws.misaligned (w : Dws) : Bool :=
  let u := if w.dspace = 3 then 32 else if w.op = opRedcopy then max 4 (redBytes w.rfmt) else 4
  (if w.op = opInsert ∨ w.op = opDelete ∨ w.op = opMerge then
      (w.op != opMerge && w.src % 4 != 0) || (w.op == opInsert && w.dst % 8 != 0)
    else
      w.dst % u != 0 || w.rowlen % u != 0 || w.dpitch % u != 0
        || (w.op != opFill && (w.src % u != 0 || w.spitch % u != 0)))
    || (w.mode == modeWord && w.ctarget % 8 != 0) || (w.mode == modeBar && w.ctarget % 16 != 0)

/-- The bytes of a block's local space 1 scratchpad, 2 A, 3 W. -/
def LRec.share (r : LRec) (space : Nat) : Nat :=
  match space with
  | 1 => r.scratch
  | 2 => r.aExtent
  | _ => r.wExtent

/-- Whether rows leave the address space or their share. -/
def rowsOut (r : LRec) (space base pitch rows len : Nat) : Bool :=
  if space = 0 then decide (2 ^ 52 < base + (rows - 1) * pitch + len)
  else decide (r.share space < base + (rows - 1) * pitch + len)

/-- Whether a source row and a destination row of one space meet. -/
def Dws.overlaps (w : Dws) : Bool :=
  w.op != opFill && w.sspace == w.dspace && (List.range w.rows).any fun i => (List.range w.rows).any fun j =>
    decide (w.src + i * w.spitch < w.dst + j * w.dpitch + w.rowlen ∧ w.dst + j * w.dpitch < w.src + i * w.spitch + w.rowlen)

/-- CMD_RANGE; words is the number of code words a row of an INSERT has. -/
def Dws.outOfRange (w : Dws) (r : LRec) (words : Nat) : Bool :=
  (if w.op = opInsert ∨ w.op = opDelete ∨ w.op = opMerge then
      (w.op != opMerge && decide (2 ^ 52 < w.src + 4 * w.rows))
        || (w.op == opInsert && decide (2 ^ 52 < w.dst + 8 * w.rows * words))
    else
      rowsOut r w.dspace w.dst w.dpitch w.rows w.rowlen
        || (w.op != opFill && rowsOut r w.sspace w.src w.spitch w.rows w.rowlen)
        || decide (2 ^ 36 < w.rows * w.rowlen) || (w.mode == modeBar && decide (2 ^ 31 ≤ w.rows * w.rowlen)) || w.overlaps)
    || (w.mode == modeBar && decide (r.scratch < w.ctarget + 16))
    || (w.mode == modeWord && (if w.wspace = 1 then decide (r.scratch < w.ctarget + 8) else decide (2 ^ 52 ≤ w.ctarget)))

/-- The first failed check of R234, then an unset family of an HX command, or an unset partner where both families are
named: MERGE names one (R245, R259, R262). -/
def Ctx.cmdCause (c : Ctx) (queue : Nat) (w : Dws) : Option Cause :=
  let fs := c.b.fams w.hf
  let words := ((fs.getD []).map FamImg.tables).foldl (· + ·) 0
  if w.invalid queue then some .cmdInvalid
  else if w.misaligned then some .cmdMisaligned
  else if w.outOfRange c.l.lr words then some .cmdRange
  else if queue = 5 ∧ (if w.op = opMerge then (c.b.fam w.hf).unset else fs.isNone) = true then some .hashFamilyInvalid
  else none

/-! ### Queues -/

/-- The die of a logical core (R8). -/
def dieOf (core : Nat) : Nat := core / 36

def queueDepth (queue : Nat) : Nat := if queue = 0 then 32 else if queue = 5 then 16 else 64

/-- Whether a command lies in the queue that a core sees under a number: CE and HX are the core's, XE the die's. -/
def Cmd.inQueue (k : Cmd) (core queue : Nat) : Bool :=
  k.queue == queue && (if queue = 0 ∨ queue = 5 then k.core == core else dieOf k.core == dieOf core)

def State.queueUsed (s : State) (core queue : Nat) : Nat := (s.cmds.filter fun k => k.inQueue core queue).length

/-- Whether every destination row lies in a region. -/
def Dws.rowsIn (w : Dws) (r : Region) : Bool :=
  decide (r.base ≤ w.dst ∧ w.dst + (w.rows - 1) * w.dpitch + w.rowlen ≤ r.base + r.size)

/-- The checks of a VER registration, in their order (R237; R262 for HX). -/
def Ctx.regCause (c : Ctx) (s : State) (queue : Nat) (w : Dws) : Option Cause :=
  match s.region? c.b.launch (w.ctarget % 256) with
  | none => some .regionInvalid
  | some r =>
    if (if queue = 5 then decide ((c.b.fam w.hf).region ≠ r.num) else !w.rowsIn r) then some .notVersioned
    else if w.ver ≤ r.pub then some .versionSealed
    else if r.top < w.ver then some .versionRange
    else if queue = 5 ∧ w.ver ≠ r.pub + 1 then some .hashVersionNotNext
    else none

/-- The pieces of an accepted command that are still to do: its rows, or the ids of an HX command. -/
def Dws.pieces (w : Dws) (queue : Nat) : List (Nat × Nat × Nat) :=
  if queue = 5 then [] else (List.range w.rows).map fun r => (r, 0, w.rowlen)

/-- Accept a command for its threads: d := 0, and EC rises with TRACK (R229). -/
def Ctx.acceptCmd (c : Ctx) (s : State) (x : PForm) (threads : Mask) (w : Dws) (regs : List (Nat × Nat)) : Res :=
  let q := x.queue.toNat
  let k : Cmd := {
    id := s.nextId, queue := q, core := c.b.core, blk := c.iss.blk, grp := c.iss.grp, launch := c.b.launch
    ctx := c.l.ctx, threads := threads, fpc := c.iss.pc, dws := w, started := false, todo := w.pieces q
    flight := [], regs := regs, parked := none, heldAt := []
    hf := tab 2 fun i => c.b.fam (w.hf + i), next := 0, buf := [], stalled := false, far := []
    epoch := c.g.epoch, wordWait := false, fail := none, kept := none }
  .done ({ s.fresh with cmds := s.cmds ++ [k] }.modGroup c.iss.blk c.iss.grp fun g =>
    { g.putS x.d 0 with ec := if w.track then g.ec + 1 else g.ec }) 0

/-- Hand a command that has passed its checks to its queue (R229, steps 5 and 6): `s` is the state with its request gone, and
`hold` what is left of it while it waits for an entry, or for the home of its region. An HX command in WORD mode is registered
as it is accepted (R262). -/
def Ctx.enqueue (c : Ctx) (s : State) (x : PForm) (m threads : Mask) (w : Dws) (regs : List (Nat × Nat)) (away : State)
    (hold : State) : Res :=
  let q := x.queue.toNat
  if w.track && decide (255 ≤ c.g.ec) then .wait hold
  else if queueDepth q ≤ s.queueUsed c.b.core q then
    (if x.d = .p 0 then .wait hold else .done (away.modGroup c.iss.blk c.iss.grp fun g => g.putS x.d 1) 0)
  else if q ≠ 5 ∨ w.mode = modeVer then c.acceptCmd s x threads w regs
  else
    let num := (c.b.fam w.hf).region
    match s.region? c.b.launch num with
    | none => .cause .regionInvalid m
    | some r =>
      let v := r.pub + 1
      if r.top < v then .cause .versionRange m
      else if 65535 ≤ r.enginesOf v then .wait hold
      else c.acceptCmd (s.modRegion c.b.launch num fun r =>
        { r with engines := assocPut r.engines v (r.enginesOf v + 1) }) x threads w [(num, v)]

/-- A PUSH that has sent its registration, or that its queue holds, goes on with the command that it has read (R229, R237). -/
def Ctx.pushing (c : Ctx) (s : State) (x : PForm) (h : HomeReq) : Res :=
  let m := c.askedOn h
  let threads := maskOf fun l => inMask h.takers l && !(c.g.lane l).helper
  match h.op with
  | .push w =>
    if h.done then c.enqueue (s.dropHome h.id) x m threads w [(h.region, h.ver)] (s.withdrawHome h) s
    else match c.regCause s x.queue.toNat w with
      | some k => .cause k m
      | none => .wait s
  | .queued w => c.enqueue (s.dropHome h.id) x m threads w [] (s.dropHome h.id) s
  | _ => .wait s

/-- PUSH (R229). The command is read once, at step 3. -/
def execPush (x : PForm) (s : State) : Host.Outcome State Fault Refusal :=
  s.issueN 1 (fun c => if x.d = .p 0 then c.on x.g else 0) fun c s => c.answerOr s (c.pushing s x) <|
    let m := c.on x.g
    let w : Dws := tab 8 fun k => c.sreg (x.a.snum + k)
    if c.real x.g = 0 then .done s 0
    else if w.track && decide (255 ≤ c.g.ec) then .wait s
    else if !s.quiet c.iss.blk c.iss.grp (c.on x.g) 4 then .wait s
    else match c.cmdCause x.queue.toNat w with
      | some k => .cause k m
      | none =>
        if w.mode = modeVer then
          match c.regCause s x.queue.toNat w with
          | some k => .cause k m
          | none => .wait (c.askHome s m (w.ctarget % 256) w.ver (.push w))
        else c.enqueue s x m (c.real x.g) w [] s (c.askHome s m 0 0 (.queued w))

/-- QSTAT (R230). -/
def execQstat (x : VForm) (s : State) : Host.Outcome State Fault Refusal :=
  s.issue fun c s =>
    let q := subN x
    let mine := (s.cmds.filter fun k => k.inQueue c.b.core q && k.blk == c.iss.blk).length
    c.scal s x.g x.d (BitVec.ofNat 64 (queueDepth q - s.queueUsed c.b.core q + queueDepth q * 2 ^ 16 + mine * 2 ^ 32))

end Sys2Proof.Machine
end

