-- ==== Sys2Proof/WellFormed.lean ====
section
/-!
DEFINITION. Which instructions are well formed: a word of the instruction set raises no encoding cause (02_encoding.md R26
to R39), and an event names units that the device has (01_machine.md R8 to R10).
-/

namespace Sys2Proof

/-- A host command's fields: the function that gave it is one of the 65 (21 R351). -/
def HostCmd.ok (c : HostCmd) : Bool := decide (c.fn < 65)

/-- The units that an event names exist. -/
def eventRanges : Instr → Bool
  | .issueCycle core quad | .laneOverdue core quad | .activeSetSwap core quad => decide (core < 144 ∧ quad < 4)
  | .meetingRelease _ grp _ => decide (grp < 16)
  | .meetingDeadlock _ grp | .activeIdleTimeout _ grp | .resultLand _ grp _ | .launchKill _ grp _ | .trapEntry _ grp
  | .rftRejoin _ grp | .barwaitResume _ grp | .fencePeerTimeout _ grp => decide (grp < 16)
  | .sleepExpiry _ grp lane | .threadCancellation _ grp lane => decide (grp < 16 ∧ lane < 32)
  | .queueAging prio => decide (prio < 4)
  | .matrixAccept core | .matrixRetire core | .coreLost core | .correctedError core | .wearThreshold core => decide (core < 144)
  | .copyUpdate core ic => decide (core < 144 ∧ ic < 16)
  | .taskGroupStart _ slot => decide (slot < 16)
  | .beatReceive port content _ => decide (port < 16 ∧ content.length = 64)
  | .read port _ | .write port _ | .atomPacket port _ | .rdata port _ | .adata port _ | .doneReply port _ | .refused port _
  | .demand port _ | .grant port _ | .mirror port _ | .oack port _ | .ack port _ | .nak port _ | .training port _
  | .ackTimer port | .replayTimeout port | .origReplayTimeout port | .trainingComplete port | .retrainingTimeout port =>
    decide (port < 16)
  | .key port slot => decide (port < 16 ∧ slot < 2)
  | .laneFailure port lane => decide (port < 16 ∧ lane < 32)
  | .peerLossTimeout dev => decide (dev < 16)
  | .sqtail fn tail _ => decide (fn < 65 ∧ tail < 2 ^ 16)
  | .cqhead fn head => decide (fn < 65 ∧ head < 2 ^ 16)
  | .registerWrite fn _ _ | .lockInterface fn | .startInterface fn | .stopInterface fn | .interfaceError fn => decide (fn < 65)
  | .identify c | .ctxCreate c | .ctxDestroy c | .tlbInval c | .copy c | .launch c | .preempt c | .faultResolve c
  | .energySet c | .keyAlloc c | .keyFree c | .linkKey c | .fabricWindow c | .linkQuery c | .peerLost c | .maint c
  | .checkpoint c | .restore c => c.ok
  | .thermalEmergency die => decide (die < 4)
  | .powerUp device wiring => decide (device < 16) && (wiring == 0 || wiring == 8 || wiring == 16)
  | .memoryLaneFailure link => decide (link < 32)
  | _ => true

/-- Well formed: no encoding cause, and the units it names exist. -/
def WellFormed (i : Instr) : Bool := (encodingCause i).isNone && eventRanges i

end Sys2Proof
end

