-- ==== Sys2Proof/Machine/Uses.lean ====
section
/-!
DEFINITION. The registers that an instruction reads or writes (02_encoding.md R35): what its operand fields take in says how
wide each is; runs whose length a slot, a shape field, a family or a register sets are added.
-/

namespace Sys2Proof.Machine

/-- Registers of an instruction: vector registers of its own lanes, scalar registers, and the vector registers that a lane
reads in another lane: the lane, the lane read, and the register. -/
structure Uses where
  v     : List Nat := []
  s     : List Nat := []
  cross : List (Nat × Nat × Nat) := []
  deriving DecidableEq, Repr

def Uses.add (x y : Uses) : Uses := ⟨x.v ++ y.v, x.s ++ y.s, x.cross ++ y.cross⟩

/-- Vector registers that an operand of these kinds spans. -/
def kindsV (ks : Kinds) : Nat := if ks.contains .v then 1 else if ks.contains .v4 then 4 else 2

/-- Scalar registers that an operand of these kinds spans. -/
def kindsS (ks : Kinds) : Nat :=
  if ks.contains .s56 then 8 else if ks.contains .s60 then 4 else if ks.contains .s62 then 2 else 1

/-- The registers of one operand field. -/
def fieldUses (ks : Kinds) (o : Opnd) : Uses :=
  match o with
  | .v r => { v := run r (kindsV ks) }
  | .s r => { s := run r (kindsS ks) }
  | _ => {}

/-- The registers of the operand fields (R85, R113, R130, R155). -/
def Check.uses : Check → Uses
  | .v x p => (fieldUses p.d x.d).add ((fieldUses p.a x.a).add ((fieldUses p.b x.b).add (fieldUses p.c x.c)))
  | .da _ d a dk ak _ _ _ => (fieldUses dk d).add (fieldUses ak a)
  | .m x p =>
    let o := match x.o with
      | .reg b c => (fieldUses p.b b).add (fieldUses p.c c)
      | .imm _ => {}
    (fieldUses p.d x.d).add ((fieldUses p.a x.a).add o)
  | .t x p => (fieldUses p.d x.d).add ((fieldUses p.a x.a).add (fieldUses p.b x.b))
  | .event => {}

/-- The scalar register that a shape field names, if it names one (R31). -/
def shapeReg (x : TForm) (k : Nat) : Option Nat :=
  let n := (x.field k).toNat
  if 0xFF00 ≤ n ∧ n < 0xFF40 then some (n - 0xFF00) else none

/-- The scalar registers that the shape fields name. -/
def shapeUses (x : TForm) : Uses := { s := (List.range 16).filterMap (shapeReg x) }

/-- The registers of a cross-lane instruction whose guard-true lane l reads register a of lane src l (R93, R99, R100). -/
def Ctx.crossUses (c : Ctx) (g : BitVec 4) (d a b : Opnd) (src : Nat → Nat) : Uses :=
  { (fieldUses [.v] d).add (fieldUses [.v] b) with cross := (lanesOf (c.on g)).map fun l => (l, src l, a.vnum) }

/-- Whether a shape field names a register that is still pending, so that its value is not known yet. -/
def Ctx.shapePending (c : Ctx) (x : TForm) (k : Nat) : Bool := (shapeReg x k).any c.r.pendS

/-- Whether an operand run of an instruction, whose length a slot or a shape field sets, passes the end of the register file
or starts at a register that its pair does not admit (R26, R39). A length in a register that is still pending is not known yet. -/
def Ctx.runsPast (c : Ctx) (i : Instr) : Bool :=
  match i with
  | .vqnt x => match tileLayout (c.slot (x.fmt.toNat % 8)) with
    | some t => decide (x.d.vnum + t.nd > 127 ∨ x.a.vnum + t.per > 128)
    | none => false
  | .vdqnt x => match tileLayout (c.slot (x.fmt.toNat % 8)) with
    | some t => decide (x.a.vnum + t.nd > 127 ∨ x.d.vnum + t.per > 128)
    | none => false
  | .vcvtf x => decide ((c.slot (x.fmt.toNat % 8)).elem = 1 ∧ x.d.vnum % 2 = 1)
  | .mma x | .mmas x => !c.shapePending x 1 && aPast x.a.vnum (c.l.lr.slot x.slot.toNat) (c.shape x 1)
  | .accld x => !c.shapePending x 0 && decide (128 < x.d.vnum + c.shape x 0)
  | _ => false

/-- The registers that an instruction of this lane set reads or writes. An MMA reads its A operand from the reuse latch
where that holds a row, or may come to (R194). -/
def Ctx.uses (c : Ctx) (s : State) (i : Instr) : Uses :=
  let base := Check.uses (checkOf i)
  match i with
  | .vqnt x | .vdqnt x =>
    match tileLayout (c.slot (x.fmt.toNat % 8)) with
    | none => base
    | some t =>
      let packed := run (if i = .vqnt x then x.d.vnum else x.a.vnum) (t.nd + 1)
      let plain := run (if i = .vqnt x then x.a.vnum else x.d.vnum) t.per
      { base with v := packed ++ plain }
  | .vcvtf x => if (c.slot (x.fmt.toNat % 8)).elem = 1 then { base with v := (x.d.vnum + 1) :: base.v } else base
  | .vshfl x => c.crossUses x.g x.d x.a x.b fun l => shflSource (subN x) l (c.val x.b l).toNat
  | .vbcst x => c.crossUses x.g x.d x.a x.b fun _ => c.lane1 x.g x.b
  | .srdl x => c.crossUses x.g x.d x.a x.b fun _ => c.lane1 x.g x.b
  | .hcode x =>
    let f := c.b.fam (Opnd.hfnum x.b)
    let nt := (c.hcodeTables x f).2
    { base with v := run x.a.vnum (if f.kind = 0 then nt * f.k else nt) ++ run x.d.vnum (2 * nt) }
  | .hprobe x =>
    { base with v := base.v ++ run x.a.vnum (famWords ((c.b.fams (Opnd.hfnum x.b)).getD [])) }
  | .hins x =>
    { base with v := base.v ++ run x.d.vnum (famWords ((c.b.fams (Opnd.hfnum x.b)).getD [])) }
  | .mma x | .mmas x =>
    let n := aRegs (c.l.lr.slot x.slot.toNat) (c.shape x 1)
    { base with
      v := if c.g.reuse.isSome || s.latchBusy c.iss.blk c.iss.grp then [] else run x.a.vnum n }.add (shapeUses x)
  | .accld x => { base with v := run x.d.vnum (c.shape x 0) }.add (shapeUses x)
  | .accz x | .tld x | .tst x | .thset x => base.add (shapeUses x)
  | _ => base

/-- Whether lane l uses a pending register of j: a scalar one, one of its own, or one of a lane that it reads (R145). -/
def Uses.meets (u : Uses) (j : Insn) (l : Nat) : Bool :=
  (j.sregs.any u.s.contains) || (inMask j.lanes l && j.vregs.any u.v.contains)
    || u.cross.any fun q => q.1 == l && inMask j.lanes q.2.1 && j.vregs.contains q.2.2

/-- The lanes of a set that use a register still pending from an instruction in whose window they stand (R35). -/
def Group.violating (g : Group) (u : Uses) (m : Mask) : Mask :=
  maskOf fun l => inMask m l && g.insns.any fun j => u.meets j l && (g.lane l).wins.any fun w => w.1 == j.id

/-- Whether a set must wait for a register pending outside its windows. -/
def Group.awaits (g : Group) (u : Uses) (m : Mask) : Bool :=
  (lanesOf m).any fun l => g.insns.any fun j => u.meets j l && !((g.lane l).wins.any fun w => w.1 == j.id)

end Sys2Proof.Machine
end

