-- ==== Sys2Proof/Machine/Fetch.lean ====
section
/-!
DEFINITION. Fetching and decoding the instruction of the lane set at the head of the issue list (02_encoding.md R18 to R23,
R31, R35, R39; 07_memory.md R146, R147).
-/

namespace Sys2Proof.Machine

/-- What comes of fetching one instruction. -/
inductive Fetch where
  | run (i : Instr)
  | park (off reason : Nat)             -- the fetch at a code offset is parked
  | late (off : Nat) (c : Cause)        -- a failed translation: taken at the group's next issue (R147)
  | cause (c : Cause) (tepc : W32)
  | ask (off : Nat)                     -- it is in a peer's memory: its line has to be fetched
  | wait                                -- that fetch is under way

/-- Turn a fetch that gave no word into its outcome. -/
def Fetched.failed (x : Fetched) (off : Nat) : Fetch :=
  match x with
  | .word _ => .park off 0
  | .park r => .park off r
  | .cause .mcFetchPoison => .cause .mcFetchPoison (BitVec.ofNat 32 off)
  | .cause c => .late off c
  | .peer => .ask off

/-- How a fetch from a peer's memory stands: asked for already, or failed. -/
def State.settleFetch (s : State) (blk grp : Nat) (l : Launch) (f : Fetch) : Fetch :=
  match f with
  | .ask off => match s.codePre blk grp (l.codeVa off / 128) with
    | none => .ask off
    | some p => match p.fail with
      | none => .wait
      | some (.mcDataPoison, _, _) => .cause .mcFetchPoison (BitVec.ofNat 32 off)
      | some (c, _, _) => .late off c
  | f => f

/-- Fetch n further words from an offset. -/
def State.fetchWords (s : State) (core : Nat) (l : Launch) : Nat → Nat → Except Fetch (List W64) × State
  | _, 0 => (.ok [], s)
  | off, n + 1 =>
    match s.fetch core l off with
    | (.word w, t) =>
      match State.fetchWords t core l (off + 8) n with
      | (.ok ws, u) => (.ok (w :: ws), u)
      | (.error f, u) => (.error f, u)
    | (x, t) => (.error (x.failed off), t)

/-- The cause that a decoded or undecodable word raises in a clause, by rank: ILLEGAL_OPCODE, ILLEGAL_CLAUSE_MIX, then
those of the fields (R23, R37, R39). -/
def wordCause (w s0 s1 s2 s3 : W64) (cls : Nat) : Except Cause Instr :=
  let k := classOfOp (w.extractLsb' 56 8)
  match decode w s0 s1 s2 s3 with
  | .error .illegalOpcode => .error .illegalOpcode
  | x => if k ≠ 0 ∧ k ≠ cls then .error .illegalClauseMix else x

/-- Fetch and decode the instruction of a lane set. A T form whose inline words run past its clause raises
CLAUSE_OVERRUN, with TEPC at the header (R31, R306). No word at or above code_size is fetched (R20): a store to code may
have moved the end of a clause past it, and that is CLAUSE_OVERRUN too (DEDUCED, log 30). -/
def State.fetchInstr (s : State) (core : Nat) (l : Launch) (i : Issue) : Fetch × State :=
  let off := i.pc.toNat
  if l.lr.codeSize < max (i.hdr.toNat + 8 * (i.cnt + 2)) (off + 8) then (.cause .clauseOverrun i.hdr, s)
  else match s.fetch core l off with
  | (.word w, t) =>
    if isTForm (w.extractLsb' 56 8) then
      if i.hdr.toNat + 8 * (i.cnt + 2) < off + 40 then (.cause .clauseOverrun i.hdr, t)
      else match t.fetchWords core l (off + 8) 4 with
        | (.ok [a, b, c, d], u) =>
          match wordCause w a b c d i.cls with
          | .ok x => (.run x, u)
          | .error k => (.cause k i.pc, u)
        | (.error f, u) => (f, u)
        | (_, u) => (.cause .illegalOpcode i.pc, u)
    else match wordCause w 0 0 0 0 i.cls with
      | .ok x => (.run x, t)
      | .error k => (.cause k i.pc, t)
  | (x, t) => (x.failed off, t)

/-- Park a code fetch: the lane set waits at its target, and the page is reported (R146). -/
def State.parkFetch (s : State) (b : Block) (l : Launch) (grp : Nat) (m : Mask) (off reason : Nat) : State :=
  if s.faultsFull b.core then s
  else
    let va := l.codeVa off
    { s.fresh with faults := s.faults ++
      [(⟨s.nextId, b.core, b.id, grp, 0, some (BitVec.ofNat 32 off, m), [va / 2 ^ 16]⟩ : FaultEntry)] }.report
        l.ctx b.core va (fkindOf 3 reason 8) none 0

/-- Make a failed fetch wait as a cause of its lanes (R147, R209). -/
def State.lateFetch (s : State) (blk grp : Nat) (l : Launch) (m : Mask) (off : Nat) (c : Cause) : State :=
  let reason := if c = .pteMalformed then 3 else 4
  let s := match s.codePre blk grp (l.codeVa off / 128) with
    | none => s
    | some p => s.dropPre p.id
  s.fresh.modGroup blk grp fun g =>
    g.addAfter ⟨s.nextId, c, m, true, BitVec.ofNat 64 (l.codeVa off), fkindOf 3 reason 8, BitVec.ofNat 32 off⟩

/-- The code offsets whose words an instruction of this lane set checks as targets before it moves a lane or sets a meeting value
(R30, R64, R75). -/
def Ctx.targets (c : Ctx) (i : Instr) : List Nat :=
  let one := fun (m : Mask) (t : W32) => if m = 0 then [] else [t.toNat]
  let each := fun (g : BitVec 4) (a : Opnd) => (lanesOf (c.on g)).map fun l => (c.val a l).toNat
  match i with
  | .bra x | .call x => one (c.on x.g) (c.jTarget x.off)
  | .brc x => one (maskOf fun l => inMask (c.on x.g) l && c.nonzero x.a l) (c.jTarget x.off)
  | .brpk x => one (c.on x.g) (c.jTarget x.off)
  | .bri x | .calli x | .ret x => each x.g x.a
  | .setmt x => if x.a = .none then one (c.on x.g) (c.jTarget x.off) else each x.g x.a
  | _ => []

/-- The first of some code offsets whose word stands in a peer's memory and has still to be fetched from there: its fetch has
neither brought the line nor failed. Such a word is fetched before it is checked. -/
def State.unread? (s : State) (b : Block) (l : Launch) (grp : Nat) (offs : List Nat) : Option Nat :=
  offs.find? fun o => l.offsetOk o && decide ((s.fetch b.core l o).1 = .peer)
    && !((s.codePre b.id grp (l.codeVa o / 128)).bind (·.fail)).isSome

/-- Ask for the first of some words of code that a core has still to fetch from a peer's memory; none when there is none. -/
def State.askFirst (s : State) (b : Block) (l : Launch) (grp : Nat) (m : Mask) (offs : List Nat) : Option State :=
  (s.unread? b l grp offs).map fun o => s.askCode b l grp m o

/-- Fetch the instruction at the head of the issue list: the instruction to execute, or none when the set does not
execute one. Its causes are raised in every lane of the set. Pending registers are those of the start of the cycle, so
that a second choice does not wait for what the first has just issued (R60). An operand run past the end of its file
ranks ahead of LOOKAHEAD_VIOLATION (R39), and its meaning raises it. A target in a peer's memory is fetched before the
instruction that names it checks it. -/
def State.fetchHead (s : State) : Option Instr × State :=
  let drop := fun (t : State) => { t with cur := s.cur.tail }
  match s.ctx? with
  | none => (none, drop s)
  | some c =>
    let m := c.iss.lanes
    let trap := fun (t : State) (k : Cause) (ls : Mask) (tepc : W32) =>
      (none, (drop (t.abandon c.iss)).trap c.iss.blk c.iss.grp
        { causes := [(k, ls)], set := m, tepc := tepc, hdr := c.iss.hdr })
    let f := s.fetchInstr c.b.core c.l c.iss
    match s.settleFetch c.iss.blk c.iss.grp c.l f.1, f.2 with
    | .run i, t =>
      let u := c.uses s i
      let bad := c.r.violating u m
      if c.runsPast i then (some i, t)
      else if bad ≠ 0 then trap t .lookaheadViolation bad c.iss.pc
      else if c.r.awaits u m then (none, drop t)
      else match t.askFirst c.b c.l c.iss.grp m (c.targets i) with
        | some v => (none, drop v)
        | none => (some i, t)
    | .park off r, t => (none, (drop t).parkFetch c.b c.l c.iss.grp m off r)
    | .late off k, t => (none, (drop t).lateFetch c.iss.blk c.iss.grp c.l m off k)
    | .ask off, t => (none, (drop t).askCode c.b c.l c.iss.grp m off)
    | .wait, t => (none, drop t)
    | .cause k tepc, t => trap t k m tepc

end Sys2Proof.Machine
end

