-- ==== Sys2Proof/Machine/Issue.lean ====
section
/-!
DEFINITION. The vote and the issue slot (04_control.md R58 to R62, R79; 02_encoding.md R20 to R22; 11_versions.md R209):
ISSUE_CYCLE and LANE_OVERDUE. Which lanes are runnable is computed: a set waits when its header's conditions, a pending
register or its instruction's own meaning keeps it before the instruction.
-/

namespace Sys2Proof.Machine

/-! ### Lane sets -/

/-- Lanes of a group at one PC, in or out of the handler (R59, R307). Its clause is the one in which its lowest lane stands:
lanes that clauses which overlap have led to one PC go on in that one (DESIGN CHOICE, log 19). -/
structure LaneSet where
  lanes  : Mask
  pc     : W32
  hdr    : Option W32
  inTrap : Bool
  deriving DecidableEq, Repr

/-- Whether two lanes belong to one lane set: lanes with equal PCs always do (R59), but a handler's with none outside it. -/
def Lane.together (x y : Lane) : Bool := x.pc == y.pc && x.inTrap == y.inTrap

/-- The lane sets among the lanes of a mask, lowest PC first. -/
def Group.laneSets (g : Group) (m : Mask) : List LaneSet :=
  let ls := lanesOf m
  let first := ls.filter fun l => !(ls.any fun k => decide (k < l) && (g.lane k).together (g.lane l))
  sortBy (fun (x : LaneSet) => x.pc.toNat) (first.map fun l =>
    let y := g.lane l
    ⟨maskOf fun k => inMask m k && (g.lane k).together y, y.pc, y.hdr, y.inTrap⟩)

/-- The lanes that are not held, sleeping, exited or in a wait of their own. -/
def Group.runLanes (g : Group) : Mask := maskOf fun l => (g.lane l).isRun

/-! ### Whether an instruction would wait -/

/-- The meanings that may wait before issue. An instruction with no arm here never waits. -/
def dryRun (i : Instr) (s : State) : Option (Host.Outcome State Fault Refusal) :=
  match i with
  | .ld x => some (execLd x s)
  | .st x => some (execSt x s)
  | .lds x => some (execLds x s)
  | .sts x => some (execSts x s)
  | .ldu x => some (execLdu x s)
  | .stu x => some (execStu x s)
  | .lda x => some (execLda x s)
  | .sta x => some (execSta x s)
  | .cctl x => some (execCctl x s)
  | .waitc x => some (execWaitc x s)
  | .ldk x => some (execLdk x s)
  | .stk x => some (execStk x s)
  | .fenceg x => some (execFenceg x s)
  | .atom x => some (execAtom x s)
  | .cas x => some (execCas x s)
  | .red x => some (execRed x s)
  | .atoms x => some (execAtoms x s)
  | .cass x => some (execCass x s)
  | .reds x => some (execReds x s)
  | .barinit x => some (execBarinit x s)
  | .bararr x => some (execBararr x s)
  | .barexp x => some (execBarexp x s)
  | .barwait x => some (execBarwait x s)
  | .bartst x => some (execBartst x s)
  | .fence x => some (execFence x s)
  | .mma x => some (execMma x s)
  | .mmas x => some (execMmas x s)
  | .acommit x => some (execAcommit x s)
  | .adiscard x => some (execAdiscard x s)
  | .accld x => some (execAccld x s)
  | .accz x => some (execAccz x s)
  | .tld x => some (execTld x s)
  | .tst x => some (execTst x s)
  | .thset x => some (execThset x s)
  | .thget x => some (execThget x s)
  | .vnld x => some (execVnld x s)
  | .vnst x => some (execVnst x s)
  | .vnpub x => some (execVnpub x s)
  | .vnwait x => some (execVnwait x s)
  | .vnopen x => some (execVnopen x s)
  | .hfset x => some (execHfset x s)
  | .hprobe x => some (execHprobe x s)
  | .hins x => some (execHins x s)
  | .hdel x => some (execHdel x s)
  | .hrehash x => some (execHrehash x s)
  | .hmerge x => some (execHmerge x s)
  | .spawn x => some (execSpawn x s)
  | .push x => some (execPush x s)
  | .csrr x => some (execCsrr x s)
  | _ => none

/-- Whether a set that runs an instruction stays before it and asks for nothing: every lane stands as it stood. -/
def State.stays (s : State) (i : Issue) (x : Instr) : Bool :=
  match dryRun x { s with cur := [i] } with
  | some (.next t) =>
    t.nextId == s.nextId && match s.group? i.blk i.grp, t.group? i.blk i.grp with
      | some g, some h => (lanesOf i.lanes).all fun l =>
          (g.lane l).together (h.lane l) && decide ((g.lane l).st = (h.lane l).st)
      | _, _ => false
  | _ => false

/-- Whether a wait before an instruction counts under R83. -/
def Ctx.countedWait (c : Ctx) (s : State) (i : Instr) : Bool :=
  let quiet := fun (g : BitVec 4) (scope : Nat) => s.quiet c.iss.blk c.iss.grp (c.real g) scope
  match i with
  | .vnpub _ => (s.homeReq c).any s.homeSent
  | .vnopen x => quiet x.g 4
  | .vnfloor _ | .vnwait _ | .vnstat _ | .qstat _ => true
  | .hins _ | .hdel _ | .hrehash _ | .hmerge _ => (s.homeReq c).isSome
  | .push x => quiet x.g 4
  | .spawn x => s.quiet c.iss.blk c.iss.grp (maskOf (· == lowest (c.real x.g))) 3
  | .mma _ | .mmas _ => c.g.gang != 0 || s.mtxFull c.b.core
  | .acommit _ | .adiscard _ | .accld _ | .accz _ | .tld _ | .tst _ => s.mtxFull c.b.core
  | .waitc x => c.g.waitc (x.imm &&& ~~~0x0800_0000#32)
  | _ => false

/-- Whether a request is a VNLD that a save has withdrawn and whose version is still not published (R224). -/
def State.withdrawn (s : State) (r : Req) : Bool :=
  match r.kind, s.block? r.blk with
  | .vnld v, some b => decide (r.phase = .issued ∧ b.st = .saved) && match (s.launch? b.launch).bind fun l => s.regionAt l.ctx r.addr with
    | some g => decide (g.pub < v)
    | none => false
  | _, _ => false

/-- Whether an instruction in flight waits for a version: a VNLD blocked at its home, or an HPROBE (R83). -/
def State.awaitsVersion (s : State) (id : Nat) : Bool :=
  (s.reqs.any fun r => r.insn == id && (r.isBlocked || s.withdrawn r))
    || s.probes.any fun p => p.id == id && !p.ready && !s.published p

/-! ### How a lane set stands -/

/-- How a lane set stands at an issue opportunity. -/
inductive Stand where
  | wait (counted : Bool)
  | trap (c : Cause) (m : Mask)          -- at its header
  | unhandled                            -- the word at TVEC fails R20 (R306)
  | stop (f : Fetch)                     -- the fetch of its header gives no word
  | go (i : Issue) (x : Option Instr)    -- it issues; the instruction when it decodes

/-- Whether a header's wait conditions hold, and whether EC alone keeps them from holding (R21). -/
def Group.headerOk (g : Group) (w : W64) : Bool × Bool :=
  let m := hdrMask w
  let rest := (!bitOf m 0 || decide (g.lc ≤ hdrWlc w)) && (!bitOf m 1 || decide (g.sc ≤ hdrWsc w))
    && (!bitOf m 2 || decide (g.mc ≤ hdrWmc w))
  (rest && (!bitOf m 3 || g.ec == 0), rest)

/-- How a set stands before the instruction of an issue. -/
def State.standAt (s : State) (i : Issue) : Stand :=
  match ({ s with cur := [i] } : State).ctx? with
  | none => .wait false
  | some c =>
    match s.settleFetch i.blk i.grp c.l (s.fetchInstr c.b.core c.l i).1 with
    | .run x =>
      let u := c.uses s x
      if c.runsPast x || c.g.violating u i.lanes != 0 then .go i (some x)
      else if c.g.awaits u i.lanes then
        .wait (c.g.insns.all fun j => !((lanesOf i.lanes).any (u.meets j)) || s.awaitsVersion j.id)
      else match s.unread? c.b c.l i.grp (c.targets x) with
        | some off => match s.settleFetch i.blk i.grp c.l (.ask off) with
          | .wait => .wait false
          | f => .stop f
        | none => if s.stays i x then .wait (c.countedWait s x) else .go i (some x)
    | .park off r => if s.faultsFull c.b.core then .wait false else .stop (.park off r)
    | .late off k => .stop (.late off k)
    | .ask off => .stop (.ask off)
    | .wait => .wait false
    | .cause _ _ => .go i none

/-- How a lane set of a group stands (R20, R21, R306). No word at or above code_size is fetched, and a header there is no
header; the header's conditions are checked in the cycle in which its first instruction issues. -/
def State.stand (s : State) (b : Block) (l : Launch) (grp : Nat) (x : LaneSet) : Stand :=
  let g := b.group grp
  let h := x.hdr.getD x.pc
  let bad := fun (c : Cause) => if g.trapChk && x.inTrap then Stand.unhandled else .trap c x.lanes
  if l.lr.codeSize ≤ h.toNat then bad .badClauseHeader
  else match (s.fetch b.core l h.toNat).1 with
  | .word w =>
    match x.hdr with
    | some h => s.standAt ⟨b.id, grp, x.lanes, x.pc, h, hdrCls w, hdrCnt w, none⟩
    | none =>
      let shielded := maskOf fun l => inMask x.lanes l && decide ((g.lane l).shield ≠ 0)
      match headerCause w x.pc.toNat l.lr.codeSize with
      | some c => bad c
      | none =>
        if bitOf (hdrMask w) 3 && shielded != 0 then .trap .shieldIllegal shielded
        else if !(g.headerOk w).1 then .wait (g.headerOk w).2
        else s.standAt ⟨b.id, grp, x.lanes, x.pc + 8, x.pc, hdrCls w, hdrCnt w, none⟩
  | .park r => if s.faultsFull b.core then .wait false else .stop (.park h.toNat r)
  | f => match s.settleFetch b.id grp l (f.failed h.toNat) with
    | .wait => .wait false
    | .cause c _ => .stop (.cause c x.pc)
    | f => .stop f

def Stand.runnable : Stand → Bool
  | .wait _ => false
  | _ => true

/-! ### Readiness -/

/-- Whether parked lines or fetches hold a group, or a line that a full fault buffer keeps in the Sifter (R146), or held
version lines after its handler (R212). -/
def State.parked (s : State) (b : Block) (grp : Nat) : Bool :=
  (b.group grp).poolPark || (s.faults.any fun f => f.blk == b.id && f.grp == grp)
    || (s.faultsFull b.core && s.reqs.any fun r => r.blk == b.id && r.grp == grp && !r.accepted && decide (r.space = .global ∧ r.kind ≠ .fence)
      && match s.launch? b.launch with
        | none => false
        | some l => match s.context? l.ctx with
          | none => false
          | some c => match s.walk c r.addr with
            | .invalid => true
            | .ok _ _ w _ => r.needsW && !w
            | _ => false)

/-- The cause after acceptance that a group takes at its next issue, outside a handler: the lowest rank, then the oldest
instruction (R209). -/
def Group.nextAfter (g : Group) : Option After :=
  let live := (g.after.map fun a => { a with lanes := a.lanes &&& g.live }).filter fun a => a.lanes ≠ 0
  match leastBy (fun (a : After) => a.cause.rank) live with
  | none => none
  | some a => leastBy (fun (a : After) => a.insn) (live.filter fun b => b.cause.rank == a.cause.rank)

/-- Whether a cause after acceptance of a handler lane waits: a double fault (R309). -/
def Group.afterInTrap (g : Group) : Bool := g.after.any fun a => (a.lanes &&& g.tmaskLanes &&& g.live) != 0

/-- Whether a group has a cause to take. -/
def Group.hasAfter (g : Group) : Bool := if g.inTrap then g.afterInTrap else g.nextAfter.isSome

/-- The lane sets of a group with how they stand: of its unflagged and of its flagged lanes. -/
def State.stands (s : State) (b : Block) (l : Launch) (grp : Nat) (m : Mask) : List (LaneSet × Stand) :=
  ((b.group grp).laneSets m).map fun x => (x, s.stand b l grp x)

/-- Whether a group is ready: it has a runnable lane, or a cause to take (R79). -/
def State.ready (s : State) (b : Block) (grp : Nat) : Bool :=
  match s.launch? b.launch with
  | none => false
  | some l =>
    b.running && !(b.group grp).forming && !s.parked b grp
      && ((b.group grp).hasAfter || (s.stands b l grp (b.group grp).runLanes).any fun x => x.2.runnable)

/-- The lanes of a group in a wait that counts under R83. -/
def State.countedLanes (s : State) (b : Block) (grp : Nat) : Mask :=
  let g := b.group grp
  let runs : Mask := match s.launch? b.launch with
    | none => 0
    | some l => (s.stands b l grp g.runLanes).foldl (fun (m : Mask) x =>
        match x.2 with | .wait true => m ||| x.1.lanes | _ => m) 0
  if g.poolPark then g.live
  else if s.parked b grp || g.hasAfter then 0
  else runs ||| maskOf fun l => match (g.lane l).st with
    | .brpk _ | .barwait _ _ _ | .latch => true
    | _ => false

/-! ### One issue cycle of a quadrant -/

/-- The groups of a quadrant: block and slot. -/
def State.quadGroups (s : State) (core quad : Nat) : List (Block × Nat) :=
  ((s.blocks.filter fun b => b.core == core && b.running).map fun b =>
    ((List.range b.groups.length).filter fun i => (b.group i).quad == quad).map fun i => (b, i)).flatten

/-- Bring the times of a quadrant's groups and blocks up to date (R79, R83). -/
def State.clockGroups (s : State) (core quad : Nat) : State :=
  (s.quadGroups core quad).foldl (fun (t : State) (p : Block × Nat) =>
    let g := p.1.group p.2
    let ready := s.ready p.1 p.2
    let busy := (g.live &&& ~~~(s.countedLanes p.1 p.2)) != 0
    let t := if ready then t.modGroup p.1.id p.2 fun g =>
        { g with
          readyAt := if g.idleAt + 1 < s.cc then s.cc else g.readyAt
          idleAt := s.cc
          idleOut := false }
      else t
    if busy then t.modBlock p.1.id fun b => { b with idleAt := s.time } else t) s

/-- The group that the issue slot serves: the first ready active group after the one it served last (R79). -/
def State.served? (s : State) (core quad : Nat) : Option (Block × Nat) :=
  let last := (s.cores[core]?.getD CoreSt.zero).slot[quad]?.getD 7
  let may := (s.quadGroups core quad).filter fun p =>
    (p.1.group p.2).active.isSome && decide ((p.1.group p.2).mayIssue ≤ s.cc) && s.ready p.1 p.2
  leastBy (fun (p : Block × Nat) => (((p.1.group p.2).active.getD 0) + 8 - (last + 1) % 8) % 8) may

/-- Deliver the causes after acceptance of a group (R209, R308, R309): the lanes that stand where the lowest of them
stands take the first cause, the rest of that cause waits, and every other one is dropped. -/
def State.deliver (s : State) (b : Block) (grp : Nat) : State :=
  let g := b.group grp
  if g.inTrap then s.kill b.launch b.id grp codeDoubleFault
  else match g.nextAfter with
    | none => s
    | some a =>
      let y := g.lane (lowest a.lanes)
      let m := maskOf fun l => inMask a.lanes l && (g.lane l).together y
      let rest := a.lanes &&& ~~~m
      let s := s.abandon ⟨b.id, grp, m, y.pc, y.hdr.getD y.pc, 0, 0, none⟩
      (s.modGroup b.id grp fun g => { g with after := if rest = 0 then [] else [{ a with lanes := rest }] }).trap b.id grp
        { causes := [(a.cause, m)], tepc := y.pc, hdr := y.hdr.getD y.pc, after := true
          fault := if a.fault then some (a.faddr, a.fkind, a.fpc) else none }

/-- Whether an instruction may issue with another of its cycle: class GEN and not scalar (R60). -/
def pairs (x : Option Instr) : Bool :=
  match x.bind opcode with
  | none => false
  | some op => classOfOp op == 0 && !decide (0x10 ≤ op.toNat ∧ op.toNat ≤ 0x1C)

/-- The sets in the order of choice: lowest PC first; with an overdue lane, the set of the highest skip count first
(R59, R61). -/
def Group.order (g : Group) (xs : List (LaneSet × Stand)) : List (LaneSet × Stand) :=
  let skip := fun (x : LaneSet) => ((lanesOf x.lanes).map fun l => (g.lane l).skip).foldl max 0
  let top := (xs.map fun x => skip x.1).foldl max 0
  if top < 32 then xs
  else match xs.find? fun x => skip x.1 == top with
    | none => xs
    | some x => x :: xs.filter fun y => decide (y.1 ≠ x.1)

/-- Let a chosen set go: it joins the issue list, or takes at once what its header gives. -/
def State.letGo (s : State) (b : Block) (l : Launch) (grp : Nat) (x : LaneSet × Stand) (old : Option Group) : State :=
  let trap := fun (t : State) (c : Cause) (m : Mask) => t.trap b.id grp
    { causes := [(c, m)], set := x.1.lanes, tepc := x.1.pc, hdr := x.1.hdr.getD x.1.pc }
  match x.2 with
  | .wait _ => s
  | .trap c m => trap s c m
  | .unhandled => s.kill b.launch b.id grp codeUnhandled
  | .stop (.park off r) => s.parkFetch b l grp x.1.lanes off r
  | .stop (.late off c) => s.lateFetch b.id grp l x.1.lanes off c
  | .stop (.cause c _) => trap (s.abandon ⟨b.id, grp, x.1.lanes, x.1.pc, x.1.hdr.getD x.1.pc, 0, 0, none⟩) c x.1.lanes
  | .stop (.ask off) => s.askCode b l grp x.1.lanes off
  | .stop _ => s
  | .go i _ => { s with cur := s.cur ++ [{ i with old := old }] }

/-- The vote of a ready group (R59 to R62). Of two sets of one cycle that write the same scalar or predicate register, the second
choice's write stays (DESIGN CHOICE, log 44). -/
def State.vote (s : State) (b : Block) (l : Launch) (grp : Nat) : State :=
  let g := b.group grp
  let flagged := maskOf fun k => (g.lane k).yielded
  let open_ := (s.stands b l grp (g.runLanes &&& ~~~flagged)).filter fun x => x.2.runnable
  let sets := if open_.isEmpty then (s.stands b l grp g.runLanes).filter fun x => x.2.runnable else open_
  match g.order sets with
  | [] => s
  | first :: more =>
    let op := fun (x : LaneSet × Stand) => match x.2 with | .go _ i => i | _ => none
    let second := match more with
      | y :: _ => if pairs (op first) && pairs (op y) then some y else none
      | [] => none
    let issued := first.1.lanes ||| (match second with | some y => y.1.lanes | none => 0)
    let waiting := (sets.foldl (fun (m : Mask) x => m ||| x.1.lanes) 0) &&& ~~~issued
    let s1 := s.modGroup b.id grp fun g =>
      g.unflag.modLanes waiting fun _ y => { y with skip := y.skip + 1 }
    let start := ((s1.group? b.id grp).getD g)
    let s2 := s1.letGo b l grp first none
    match second with
    | none => s2
    | some y => s2.letGo b l grp y (some start)

/-- The quadrants that hold a group, over the device. -/
def State.quads (s : State) : List (Nat × Nat) :=
  ((s.blocks.filter Block.running).map fun b => b.groups.map fun g => (b.core, g.quad)).flatten

/-- Charge the energy that each block's operations spent in a cc: first to its credit, then to its context's account
(21 R362; how much is a free value, log 5). -/
def State.meter (s : State) : State :=
  (s.blocks.filter fun b => decide (b.st ≠ .saved)).foldl (fun (t : State) b =>
    let e := Config.energy t.free
    let ctx := ((t.launch? b.launch).map (·.ctx)).getD 0
    (({ t with free := t.free + 1 } : State).modBlock b.id fun b => { b with credit := b.credit - e }).modContext ctx fun c =>
      { c with used := c.used + (e - b.credit) }) s

/-- Read the dies' sensors in a thermal emergency: while some die stands at 95 °C or above, which is a free value, the time for
which all have been below counts from now (R363). -/
def State.sense (s : State) : State :=
  match s.fw.thermal with
  | none => s
  | some (ds, _) =>
    if Config.dieHot s.free then { s with free := s.free + 1, fw := { s.fw with thermal := some (ds, s.time + s.ccTime) } }
    else { s with free := s.free + 1 }

/-- The next cc begins. -/
def State.nextCc (s : State) : State :=
  let t := s.sense.meter
  { t with
    blocks := t.blocks.map fun b =>
      let b := s.countSave (s.countDominated (s.lapse b))
      { b with groups := b.groups.map fun g => { g with newFlags := 0 } }
    served := []
    cc := s.cc + 1
    time := s.time + s.ccTime }

/-- Whether every quadrant with a group has been served in this cc. -/
def State.allServed (s : State) (served : List (Nat × Nat)) : Bool := s.quads.all served.contains

/-- Count the quadrant as served in this cc. -/
def State.tickQuad (s : State) (core quad : Nat) : State := { s with served := (core, quad) :: s.served }

/-- One issue cycle of a quadrant (R59, R79). -/
def State.issueCycle (s : State) (core quad : Nat) : State :=
  let s1 := s.clockGroups core quad
  let s2 := match s1.served? core quad with
    | none => s1
    | some (b, grp) =>
      let k := s1.cores[core]?.getD CoreSt.zero
      let slot := k.slot.setIfInBounds quad ((b.group grp).active.getD 0)
      let s2 := { s1 with cores := s1.cores.setIfInBounds core { k with slot := slot } }
      match s2.launch? b.launch with
      | none => s2
      | some l => if (b.group grp).hasAfter then { s2 with agenda := .trapEntry b.id grp :: s2.agenda } else s2.vote b l grp
  s2.tickQuad core quad

/-- ISSUE_CYCLE: once for each quadrant in a cc; with none left to serve, the next cc begins, unless this one still owes an
event that was to come in it. -/
def execIssueCycle (core quad : Nat) (s : State) : Host.Outcome State Fault Refusal :=
  if !s.cur.isEmpty then .next s
  else if s.allServed s.served then .next (if s.due then s else s.nextCc)
  else if decide (core < 144 ∧ quad < 4) && !s.served.contains (core, quad) then .next (s.issueCycle core quad)
  else .next s

/-- Whether the group that a quadrant serves next holds an overdue lane (R61). -/
def State.overdue (s : State) (core quad : Nat) : Bool :=
  match s.served? core quad with
  | none => false
  | some (b, grp) => (lanesOf (b.group grp).runLanes).any fun l => decide (32 ≤ ((b.group grp).lane l).skip)

/-- LANE_OVERDUE: the issue cycle in which an overdue lane takes first choice (R61). -/
def execLaneOverdue (core quad : Nat) (s : State) : Host.Outcome State Fault Refusal :=
  if s.cur.isEmpty && decide (core < 144 ∧ quad < 4) && !s.served.contains (core, quad) && s.overdue core quad then
    .next (s.issueCycle core quad)
  else .next s

end Sys2Proof.Machine
end

