-- ==== Sys2Proof/Machine/Groups.lean ====
section
/-!
DEFINITION. The events of groups and blocks at rest (04_control.md R65 to R70, R76, R79; 08_sync.md R167; 18_system.md R306 to
R309): meetings, repacking, sleep, the active set, trap entry for causes after acceptance, and BARWAIT.
-/

namespace Sys2Proof.Machine

/-! ### Meetings (R65, R66, R307) -/

/-- Whether a lane is held at a meeting value. -/
def Lane.heldAt (x : Lane) (m : W32) : Bool := decide (x.st = .held) && x.mt == m

/-- Whether a lane keeps threads held at m waiting: its meeting value, or its shadow value in the handler, is m, and it
is neither held there, exited nor a helper. -/
def Lane.awaited (x : Lane) (m : W32) : Bool :=
  (x.mt == m || (x.inTrap && x.smt == m)) && !x.heldAt m && !x.exited && !x.helper

/-- Whether the threads held at m are released (R65). -/
def Group.releases (g : Group) (m : W32) : Bool :=
  ((List.range 32).any fun l => (g.lane l).heldAt m) && !(List.range 32).any fun l => (g.lane l).awaited m

/-- Release the threads held at m: mt becomes none, and they go on at m. -/
def Group.release (g : Group) (m : W32) : Group :=
  g.modLanes (maskOf fun l => (g.lane l).heldAt m) fun _ x => { x with st := .run, mt := noneWord }

/-- MEETING_RELEASE (R65): of a resident block; threads of a saved one are released when it is restored. -/
def execMeetingRelease (blk grp : Nat) (m : W32) (s : State) : Host.Outcome State Fault Refusal :=
  match s.block? blk with
  | none => .next s
  | some b =>
    if b.running && (b.group grp).releases m then .next (s.modGroup blk grp fun g => g.release m) else .next s

/-- The meeting values at which lanes are held. -/
def Group.meetings (g : Group) : List W32 :=
  ((List.range 32).filter fun l => decide ((g.lane l).st = .held)).map fun l => (g.lane l).mt

/-- Whether every non-exited thread is held with no release possible (R66). -/
def Group.deadlocked (g : Group) : Bool :=
  g.live != 0 && ((lanesOf g.live).all fun l => decide ((g.lane l).st = .held)) && !g.meetings.any g.releases

/-- MEETING_DEADLOCK: the lanes held at the lowest meeting address trap there (R66). -/
def execMeetingDeadlock (blk grp : Nat) (s : State) : Host.Outcome State Fault Refusal :=
  match s.block? blk with
  | none => .next s
  | some b =>
    let g := b.group grp
    match leastBy (fun (m : W32) => m.toNat) g.meetings with
    | none => .next s
    | some m =>
      if b.running && g.deadlocked then
        .next (s.trap blk grp { causes := [(.meetingDeadlock, maskOf fun l => (g.lane l).heldAt m)], tepc := m, hdr := m })
      else .next s

/-! ### Repacking (R68 to R70) -/

/-- A thread that waits at a BRPK: its group, its lane and the target it has chosen. -/
structure Packed where
  grp    : Nat
  lane   : Nat
  target : W32
  x      : Lane
  preds  : List Bool      -- its bits of p1 to p7
  deriving DecidableEq, Repr

/-- The slots whose groups take part in a rendezvous: all but the task groups (R70). -/
def Block.packSlots (b : Block) : List Nat := (List.range b.groups.length).filter fun i => !(b.group i).task

/-- The waiting threads of a block, in ascending order of target, then of group, then of lane (R68). -/
def Block.waiters (b : Block) : List Packed :=
  sortBy (fun (p : Packed) => p.target.toNat) ((b.packSlots.map fun i =>
    ((List.range 32).map fun l =>
      match ((b.group i).lane l).st with
      | .brpk t => [(⟨i, l, t, (b.group i).lane l, (List.range 8).map fun r => ((b.group i).preg r).getLsbD l⟩ : Packed)]
      | _ => []).flatten).flatten)

/-- Whether every non-exited thread that counts is at a BRPK, and some thread is. -/
def Block.allAtBrpk (b : Block) : Bool :=
  !b.waiters.isEmpty && b.packSlots.all fun i => (lanesOf (b.group i).live).all fun l =>
    match ((b.group i).lane l).st with | .brpk _ => true | _ => false

/-- The lowest BRPK address at which threads wait, where they wait at more than one (R69). -/
def Block.mismatch (b : Block) : Option W32 :=
  match leastBy (fun (a : W32) => a.toNat) (b.waiters.map (·.x.pc)) with
  | none => none
  | some a => if b.waiters.all fun p => p.x.pc == a then none else some a

/-- Whether the groups that take part have drained: counters zero, nothing pending, no cause waiting, no probe or update and
no parked line under way (R68, R146). -/
def State.packDrained (s : State) (b : Block) : Bool :=
  b.packSlots.all fun i =>
    let g := b.group i
    g.lc == 0 && g.sc == 0 && g.mc == 0 && g.ec == 0 && !g.anyPending && !g.hasAfter
      && !(s.probes.any fun p => p.blk == b.id && p.grp == i) && !s.faults.any fun f => f.blk == b.id && f.grp == i

/-- A lane that no thread occupies. -/
def Lane.empty : Lane := { Lane.zero with st := .exited false }

/-- The thread that a position receives. -/
def Packed.arrive (p : Packed) : Lane :=
  Lane.arrive { p.x with
    pc := p.target
    hdr := none
    st := .run
    yielded := false
    skip := 0
    wins := [] }

/-- The slots that receive the threads (R68, R70): in a TASKS block only those of the groups with a waiting thread. -/
def Block.packInto (b : Block) (tasks : Bool) : List Nat :=
  if tasks then b.packSlots.filter fun i => b.waiters.any fun p => p.grp == i else b.packSlots

/-- Where the thread of a lane goes: position i of the order goes to lane i mod 32 of the (i / 32)-th of the slots. -/
def Block.packPlace (b : Block) (tasks : Bool) (grp lane : Nat) : Option (Nat × Nat) :=
  (b.waiters.findIdx? fun p => p.grp == grp && p.lane == lane).map fun i => ((b.packInto tasks).getD (i / 32) 0, i % 32)

/-- Pack the threads (R68, R70). -/
def Block.repack (b : Block) (tasks : Bool) (now : Nat) : Block :=
  let ws := b.waiters
  let slots := b.packInto tasks
  let wait := 16 + 2 * b.groups.length
  { b with groups := b.groups.zipIdx.map fun (q : Group × Nat) =>
      if !slots.contains q.2 then q.1
      else
        let k := (slots.findIdx fun i => i == q.2) * 32
        { q.1 with
          lanes := tab 32 fun l => ((ws[k + l]?).map Packed.arrive).getD Lane.empty
          p := tab 8 fun r => maskOf fun l => ((ws[k + l]?).map fun p => p.preds.getD r false).getD false
          mayIssue := now + wait } }

/-- A request that is still under way when its block repacks, an LDDS lane or a prefetch, goes with its thread, so that the
thread's program order holds for it (R152); one whose thread has exited orders nothing more. -/
def Req.repack (r : Req) (b : Block) (tasks : Bool) : Req :=
  if r.blk ≠ b.id ∨ r.threads = 0 ∨ !(b.packInto tasks).contains r.grp then r
  else match b.packPlace tasks r.grp (lowest r.threads) with
    | none => { r with threads := 0, takers := 0 }
    | some q =>
      let m := maskOf (· == q.2)
      { r with grp := q.1, threads := m, takers := m, ordered := m, parts := r.parts.map fun p => { p with lane := q.2 } }

/-- The records of the instructions that such requests belong to go with them. -/
def Block.repackInsns (b : Block) (tasks : Bool) (rs : List Req) : Block :=
  let slots := b.packInto tasks
  let old := (b.groups.map (·.insns)).flatten
  { b with groups := b.groups.zipIdx.map fun (q : Group × Nat) =>
      let mine := rs.filter fun r => r.blk == b.id && r.grp == q.2
      if !slots.contains q.2 then q.1
      else { q.1 with insns := (distinct (mine.map (·.insn))).filterMap fun n => (old.find? fun i => i.id == n).map fun i =>
          { i with lanes := maskOf fun l => mine.any fun r => r.insn == n && inMask r.takers l } } }

/-- REPACKING (R68); threads that wait at different BRPKs take BRPK_MISMATCH instead (R69). -/
def execRepacking (blk : Nat) (s : State) : Host.Outcome State Fault Refusal :=
  match s.block? blk with
  | none => .next s
  | some b =>
    if !b.allAtBrpk || !b.running then .next s
    else match b.mismatch with
      | some a =>
        .next (b.packSlots.foldl (fun (t : State) i =>
          let m := maskOf fun l => b.waiters.any fun p => p.grp == i && p.lane == l && p.x.pc == a
          let h := (((b.group i).lane (lowest m)).hdr).getD a
          if m = 0 then t else t.trap blk i { causes := [(.brpkMismatch, m)], tepc := a, hdr := h }) s)
      | none =>
        let tasks := match s.launch? b.launch with
          | none => false
          | some l => l.lr.tasks
        let rs := s.reqs.map fun r => r.repack b tasks
        if s.packDrained b then
          .next ({ s with reqs := rs }.setBlock ((b.repackInsns tasks rs).repack tasks s.cc))
        else .next s

/-! ### Sleep (R76) -/

/-- SLEEP_EXPIRY: the lane becomes runnable, and with it every lane of the group whose interval ends at the same cc, since
all of them count from one issue; a lane at its meeting point arrives (R65, R76). -/
def execSleepExpiry (blk grp lane : Nat) (s : State) : Host.Outcome State Fault Refusal :=
  match s.block? blk with
  | none => .next s
  | some b =>
    match ((b.group grp).lane lane).st with
    | .sleeping wake =>
      if b.running && decide (wake ≤ s.cc) then
        .next (s.modGroup blk grp fun g =>
          g.modLanes (maskOf fun l => decide ((g.lane l).st = .sleeping wake)) fun _ x => { x with st := .run }.arrive)
      else .next s
    | _ => .next s

/-! ### The active set (R79) -/

/-- Whether every non-exited lane sleeps with more than 64 cc left. -/
def Group.deepSleep (g : Group) (now : Nat) : Bool :=
  (lanesOf g.live).all fun l => match (g.lane l).st with | .sleeping w => decide (now + 64 < w) | _ => false

/-- Whether an active group may leave the active set. -/
def State.mayLeave (s : State) (b : Block) (grp : Nat) : Bool :=
  let g := b.group grp
  g.active.isSome && !s.ready b grp
    && (g.idleOut || (g.live &&& ~~~(s.countedLanes b grp)) == 0 || g.deepSleep s.cc)

/-- ACTIVE_SET_SWAP: the longest-ready pending group takes an empty active slot, or that of the eligible group that has
had no runnable lane for the longest time; it may issue 2 cc later. -/
def execActiveSetSwap (core quad : Nat) (s : State) : Host.Outcome State Fault Refusal :=
  let gs := s.quadGroups core quad
  let pending := gs.filter fun p => (p.1.group p.2).active.isNone && s.ready p.1 p.2
  match leastBy (fun (p : Block × Nat) => (p.1.group p.2).readyAt) pending with
  | none => .next s
  | some p =>
    let enter := fun (t : State) (k : Nat) =>
      t.modGroup p.1.id p.2 fun g => { g with active := some k, mayIssue := max g.mayIssue (s.cc + 2) }
    match (List.range 8).find? fun k => !gs.any fun q => decide ((q.1.group q.2).active = some k) with
    | some k => .next (enter s k)
    | none =>
      match leastBy (fun (q : Block × Nat) => (q.1.group q.2).idleAt) (gs.filter fun q => s.mayLeave q.1 q.2) with
      | none => .next s
      | some q =>
        .next (enter (s.modGroup q.1.id q.2 fun g => { g with active := none, idleOut := false })
          (((q.1.group q.2).active).getD 0))

/-- ACTIVE_IDLE_TIMEOUT: an active group that has had no runnable lane for 16 cc may leave the active set. -/
def execActiveIdleTimeout (blk grp : Nat) (s : State) : Host.Outcome State Fault Refusal :=
  match s.block? blk with
  | none => .next s
  | some b =>
    if (b.group grp).active.isSome && !s.ready b grp && decide ((b.group grp).idleAt + 16 ≤ s.cc) then
      .next (s.modGroup blk grp fun g => { g with idleOut := true })
    else .next s

/-! ### Trap entry (R209, R306), and lanes that have waited in an instruction -/

/-- TRAP_ENTRY: at its next issue a group takes the cause after acceptance that waits in it. -/
def execTrapEntry (blk grp : Nat) (s : State) : Host.Outcome State Fault Refusal :=
  match s.block? blk with
  | none => .next s
  | some b =>
    if s.cur.isEmpty && b.running && (b.group grp).active.isSome && !s.parked b grp && (b.group grp).hasAfter then .next (s.deliver b grp) else .next s

/-- The cnt field of the header at a code offset, for lanes that leave an instruction at which they waited; a header that
cannot be read now gives a free value (log 5). -/
def State.cntAt (s : State) (core : Nat) (l : Launch) (h : Nat) : Nat × State :=
  match s.peekCode core l h with
  | some w => (hdrCnt w, s)
  | none => ((Config.freeWord s.free).toNat % 16, { s with free := s.free + 1 })

/-- The header of the clause that a lane stands in, or is about to begin, and its instruction. -/
def Lane.place (x : Lane) : W32 × W32 :=
  match x.hdr with
  | some h => (h, x.pc)
  | none => (x.pc, x.pc + 8)

/-- Move lanes that waited in an instruction of n words past it (R18, R65). -/
def State.passLanes (s : State) (b : Block) (l : Launch) (grp : Nat) (m : Mask) (n : Nat) : State :=
  (lanesOf m).foldl (fun (t : State) k =>
    let p := ((b.group grp).lane k).place
    let (cnt, t) := t.cntAt b.core l p.1.toNat
    t.modGroup b.id grp fun g => g.modLanes (maskOf (· == k)) fun _ y =>
      Lane.pass { y with st := .run } ⟨b.id, grp, m, p.2, p.1, 0, cnt, none⟩ n) s

/-! ### BARWAIT (R167) -/

/-- The lanes of a group in a BARWAIT whose phase has passed. -/
def Block.barPassedLanes (b : Block) (grp : Nat) : Mask :=
  maskOf fun l => match ((b.group grp).lane l).st with
    | .barwait off d p => p || barPassed (barRead b.scratch off).phase d
    | _ => false

/-- BARWAIT_RESUME. -/
def execBarwaitResume (blk grp : Nat) (s : State) : Host.Outcome State Fault Refusal :=
  match s.block? blk with
  | none => .next s
  | some b =>
    match s.launch? b.launch with
    | none => .next s
    | some l =>
      let m := b.barPassedLanes grp
      if !b.running then .next s
      else match s.askFirst b l grp m ((lanesOf m).map fun k => ((b.group grp).lane k).place.1.toNat) with
      | some t => .next t
      | none => .next (s.passLanes b l grp m 1)

end Sys2Proof.Machine
end

