-- ==== Sys2Proof/Machine/Link.lean ====
section
/-!
DEFINITION. The sending side of the Stobuvin fabric (19_fabric.md R325 to R345; 20_prog_remotecopy.md R347 to R349): routes,
packet headers, encryption, the replay buffer, detours and pacing. Fabric.lean holds what arrives.
-/

namespace Sys2Proof

open Machine

/-! ### Packet headers and sizes (R328, R334) -/

/-- The 32 bytes of a header. -/
def Packet.header (p : Packet) : List Byte :=
  let b := fun (x : Bool) => if x then 1 else 0
  leBytes 4 p.seq.toNat
    ++ leBytes 4 (p.type % 32 + b p.kidx * 2 ^ 5 + b p.orig * 2 ^ 6 + b p.masked * 2 ^ 7 + p.sdev % 16 * 2 ^ 8
      + p.ddev % 16 * 2 ^ 12 + p.len % 4096 * 2 ^ 16 + p.oport % 16 * 2 ^ 28)
    ++ leBytes 8 p.ctr.toNat
    ++ leBytes 8 (p.addr % 2 ^ 42 + p.score % 256 * 2 ^ 42 + p.aop % 16 * 2 ^ 50 + b p.b64 * 2 ^ 54 + p.scope % 8 * 2 ^ 55
      + p.order % 4 * 2 ^ 58)
    ++ leBytes 4 p.oseq.toNat ++ leBytes 4 (p.tag % 2 ^ 16)

/-- The header that 32 bytes hold, with no payload. -/
def Packet.ofHeader (bs : List Byte) : Packet :=
  let a := ofLe (bs.take 8)
  let c := ofLe ((bs.drop 16).take 8)
  let d := ofLe ((bs.drop 24).take 8)
  { seq := BitVec.ofNat 32 a
    type := bitsOf a 36 32
    kidx := bitOf a 37
    orig := bitOf a 38
    masked := bitOf a 39
    sdev := bitsOf a 43 40
    ddev := bitsOf a 47 44
    len := bitsOf a 59 48
    oport := bitsOf a 63 60
    ctr := BitVec.ofNat 64 (ofLe ((bs.drop 8).take 8))
    addr := bitsOf c 41 0
    score := bitsOf c 49 42
    aop := bitsOf c 53 50
    b64 := bitOf c 54
    scope := bitsOf c 57 55
    order := bitsOf c 59 58
    oseq := BitVec.ofNat 32 d
    tag := bitsOf d 47 32
    payload := [] }

/-- The bytes that a packet fills on the link. -/
def Packet.bytes (p : Packet) : Nat := (48 + p.payload.length + 63) / 64 * 64

/-- A packet of a DOWN port's space as the alternative route carries it (R334). -/
def Packet.lend (p : Packet) (port : Nat) : Packet := { p with orig := true, oport := port, oseq := p.seq }

end Sys2Proof

namespace Sys2Proof.Machine

/-! ### Ports and routes (R325, R333, R334) -/

def State.port (s : State) (p : Nat) : Port := s.fab.ports[p]?.getD Port.zero

def State.modPort (s : State) (p : Nat) (f : Port → Port) : State :=
  { s with fab := { s.fab with ports := s.fab.ports.setIfInBounds p (f (s.port p)) } }

def State.pace (s : State) (d : Nat) : Pace := s.fab.pace[d]?.getD Pace.zero

def State.modPace (s : State) (d : Nat) (f : Pace → Pace) : State :=
  { s with fab := { s.fab with pace := s.fab.pace.setIfInBounds d (f (s.pace d)) } }

/-- FULL, HALF_LO or HALF_HI. -/
def Port.up (p : Port) : Bool := decide (2 ≤ p.state ∧ p.state ≤ 4)

/-- The port and the peer that the wiring gives a device's port p; none for a spare or unwired port. -/
def wiredPeer (wiring device p : Nat) : Option (Nat × Nat) :=
  if wiring = 16 then (if 1 ≤ p ∧ p < 16 then some (device ^^^ p, p) else none)
  else if wiring = 8 then (if p % 8 ≠ 0 ∧ p < 16 then some (device ^^^ (p % 8), p) else none)
  else none

/-- The port for an address of a peer: the wired one, else the spare that stands in for it, that of its own half first, else
the other port of its pair. -/
def State.route (s : State) (dev addr : Nat) : Option Nat :=
  let q := (s.fab.device ^^^ dev) % 16
  let p := if s.fab.wiring = 8 then (if bitOf addr 7 then q % 8 + 8 else q % 8) else q
  let leads := fun (n : Nat) => match (s.port n).peer with | some x => x.1 == dev | none => false
  (p :: p / 8 * 8 :: [0, 8] ++ List.range 16).find? leads

/-- The direct port to a device that is up, if any. -/
def State.upTo (s : State) (dev : Nat) : Option Nat :=
  (List.range 16).find? fun n => (s.port n).up && match (s.port n).peer with | some x => x.1 == dev | none => false

/-- The relay for a peer: the lowest-numbered device whose ports to both ends are up, as the firmware's map shows it. -/
def State.relayFor (s : State) (dev : Nat) : Option Nat :=
  (List.range 16).find? fun r =>
    r != dev && r != s.fab.device && !s.fab.lost.contains r && (s.upTo r).isSome && Config.peerLink s.free r dev

/-- Whether the other port of a DOWN port's pair leads to its peer and is in service or in training: it is then the
alternative route, on which traffic waits while the port trains (R334). -/
def State.pairPort (s : State) (p : Nat) : Option Nat :=
  let other := (p + 8) % 16
  if s.fab.wiring = 8 ∧ 1 ≤ (s.port other).state ∧ (s.port other).state ≤ 4
    ∧ (s.port other).peer.map (·.1) = (s.port p).peer.map (·.1) then some other else none

/-- The alternative route of a port that is DOWN (R334): the other port of its pair, or the port to its relay. -/
def State.altPort (s : State) (p : Nat) : Option Nat :=
  match s.pairPort p with
  | some other => some other
  | none => (s.port p).relay.bind s.upTo

/-! ### Packets (R328, R340) -/

def typeRead : Nat := 0
def typeWrite : Nat := 1
def typeAtom : Nat := 2
def typeRdata : Nat := 3
def typeAdata : Nat := 4
def typeDone : Nat := 5
def typeRefused : Nat := 6
def typeDemand : Nat := 7
def typeGrant : Nat := 8
def typeMirror : Nat := 9
def typeOack : Nat := 10

/-- A packet of this device with the fields that most share. -/
def State.packet (s : State) (type dev addr : Nat) (payload : List Byte) : Packet where
  seq := 0
  type := type
  kidx := false
  orig := false
  masked := false
  sdev := s.fab.device
  ddev := dev
  len := payload.length
  oport := 0
  ctr := 0
  addr := addr
  score := 0xFF
  aop := 0
  b64 := false
  scope := 0
  order := 0
  oseq := 0
  tag := 0
  payload := payload

def replayRoom : Nat := 256 * 1024

def Port.replayBytes (p : Port) : Nat := (p.replayB.map Packet.bytes).foldl (· + ·) 0

def Port.sendKey (p : Port) (k : Nat) : KeySlot := p.send[k]?.getD KeySlot.zero

/-- The slot to send under: the present one, or the other when its counter is used up; none when neither can be used. -/
def Port.pickSlot (p : Port) : Option Nat :=
  let ok := fun (k : Nat) => (p.sendKey k).valid && decide ((p.sendKey k).ctr.toNat < 2 ^ 48)
  if ok p.slot then some p.slot else if ok (1 - p.slot) then some (1 - p.slot) else none

/-- A beat of a kind with its content, STOP and the CRC over it (R327, R331). -/
def beatOf (kind : Nat) (stop : Bool) (content : List Byte) : Beat :=
  let low := BitVec.ofNat 8 (kind + if stop then 4 else 0)
  ⟨content, Config.crc24 content low ++ low⟩

/-- The bytes of a packet cut into data beats, the last one padded with zeros (R328). -/
def dataBeats (stop : Bool) (bs : List Byte) : List Beat :=
  (List.range ((bs.length + 63) / 64)).map fun i => beatOf 1 stop (((bs.drop (64 * i)).take 64 ++ List.replicate 64 0).take 64)

/-- Bytes under the key stream of AES-256-GCM: it takes a plaintext to its ciphertext and back. -/
def gcmMask (key : BitVec 256) (salt : W32) (ctr : W64) (bs : List Byte) : List Byte :=
  bs.zipIdx.map fun (q : Byte × Nat) => q.1 ^^^ Config.gcmStream key salt ctr q.2

/-- AES-256-GCM sealing: the ciphertext, and the tag over the header and the ciphertext (R340). -/
def gcmSeal (key : BitVec 256) (salt : W32) (ctr : W64) (header plain : List Byte) : List Byte × BitVec 128 :=
  let cipher := gcmMask key salt ctr plain
  (cipher, Config.gcmTag key salt ctr header cipher)

/-- AES-256-GCM opening: the plaintext, or none when the tag does not authenticate the header and the ciphertext (R340). -/
def gcmOpen (key : BitVec 256) (salt : W32) (ctr : W64) (header cipher : List Byte) (tag : BitVec 128) : Option (List Byte) :=
  if tag = Config.gcmTag key salt ctr header cipher then some (gcmMask key salt ctr cipher) else none

/-- Put a packet on the link under a slot: it takes the slot's counter, which then rises by 1. The link carries the header,
the ciphertext and the tag. -/
def Port.transmit (x : Port) (k : Nat) (p : Packet) : Port :=
  let ks := x.sendKey k
  let q := { p with kidx := k == 1, ctr := ks.ctr }
  let (cipher, tag) := gcmSeal ks.key ks.salt ks.ctr q.header q.payload
  { x with
    slot := k
    send := x.send.setIfInBounds k { ks with ctr := ks.ctr + 1 }
    wire := x.wire ++ dataBeats x.stopOut (q.header ++ cipher ++ leBytes 16 tag.toNat) }

/-- An idle beat, which a link sends whenever it has nothing else to send (R327). -/
def Port.idle (x : Port) : Port :=
  let b := beatOf 0 x.stopOut (List.replicate 64 0)
  if x.wire.getLast? = some b then x else { x with wire := x.wire ++ [b] }

/-- A link event (R360). -/
def State.linkEvent (s : State) (port state reason : Nat) : State :=
  s.post 0 (event 0 0x20 [BitVec.ofNat 64 port, BitVec.ofNat 64 state, BitVec.ofNat 64 reason])

/-- Report a change of SPARESTAT from what it was (R360). -/
def State.wearEvent (s : State) (old : Nat) : State :=
  if s.sparestat = old then s else s.post 0 (event 0 0x22 [BitVec.ofNat 64 s.sparestat])

/-- Note when a peer came to have no route, and forget it when it has one: a port to it that is neither DOWN nor LOST, or a
detour (R339). -/
def State.noteRoutes (s : State) : State :=
  let routed := fun (d : Nat) => ((List.range 16).any fun n =>
    decide ((s.port n).peer.map (·.1) = some d ∧ (s.port n).state ≠ 5 ∧ (s.port n).state ≠ 6)) || (s.relayFor d).isSome
  let out := (List.range 16).filter fun d => s.fab.present d && d != s.fab.device && !s.fab.lost.contains d && !routed d
  { s with fab := { s.fab with noRoute := out.map fun d =>
      (d, ((s.fab.noRoute.find? fun q => q.1 == d).map (·.2)).getD s.time) } }

/-! ### Going DOWN, and the alternative route (R334) -/

/-- The peer of a port. -/
def State.peerDev (s : State) (p : Nat) : Nat := ((s.port p).peer.map (·.1)).getD s.fab.device

/-- Owe a replay of everything that is not acknowledged. -/
def Port.owe (x : Port) : Port := { x with owed := x.replayB, owedNew := true }

/-- Choose the relay of a DOWN port: none where its pair's other port serves, the one it has while that can be reached, else
another, to which it replays. -/
def State.reroute (s : State) (p : Nat) : State :=
  let x := s.port p
  if (s.pairPort p).isSome then s.modPort p fun x => { x with relay := none }
  else if x.relay.any fun r => (s.upTo r).isSome && !s.fab.lost.contains r then s
  else
    let r := s.relayFor (s.peerDev p)
    if r = x.relay then s else s.modPort p fun x => { x.owe with relay := r, origAt := s.time }

/-- Whether a packet is carried for another space: lent by another port, or relayed for another device. -/
def State.foreign (s : State) (q : Packet) : Bool := q.orig || q.sdev != s.fab.device

/-- What a DOWN port's space still has to carry: its own packets keep their numbers. A packet of another space that it was
carrying is replayed by its source, and its place in this space is taken by a repetition of the cumulative demand, which has
no effect (DESIGN CHOICE, log 40). -/
def State.ownSpace (s : State) (p : Nat) (q : Packet) : Packet :=
  if !s.foreign q then q
  else { s.packet typeDemand (s.peerDev p) 0 (leBytes 8 (s.pace (s.peerDev p)).demand) with seq := q.seq }

/-- Take a port DOWN: its traffic takes the alternative route, first the replay of what is not acknowledged (R334). What other
spaces had lent it is dropped, and replayed by its sources. -/
def State.goDown (s : State) (p reason : Nat) : State :=
  let t := s.modPort p fun x => Port.owe
    { x with
      state := 5
      since := s.time
      detour := true
      origAt := s.time
      beats := []
      frame := 0
      keysOk := false
      relay := none
      replayB := x.replayB.map (s.ownSpace p)
      txq := x.txq.filter fun q => !s.foreign q }
  ((t.reroute p).linkEvent p 5 reason).noteRoutes

/-! ### Sending (R330, R331, R334, R344) -/

/-- Whether a port may start a data packet. -/
def Port.canSend (x : Port) : Bool := x.up && !x.stopIn

def Port.hasRoom (x : Port) (q : Packet) : Bool := decide (x.replayBytes + q.bytes ≤ replayRoom)

/-- One packet of an owed replay has been sent: it counts, and the first counts the replay (R343, R349). -/
def Port.replayed1 (x : Port) : Port :=
  { x with
    owed := x.owed.drop 1
    owedNew := false
    replays := if x.owedNew then x.replays + 1 else x.replays
    replayed := x.replayed + 1 }

/-- A packet that is new on a port is sent: it takes the port's next number and stays in the replay buffer. -/
def State.sendNew (s : State) (a k : Nat) (q : Packet) : State :=
  let q := { q with seq := (s.port a).txseq }
  s.modPort a fun x =>
    { x.transmit k q with
      txseq := x.txseq + 1
      sinceAck := if x.replayB.isEmpty then s.time else x.sinceAck
      replayB := x.replayB ++ [q] }

/-- The DOWN ports whose alternative route is a port. -/
def State.lenders (s : State) (a : Nat) : List Nat :=
  (List.range 16).filter fun p => decide ((s.port p).state = 5 ∧ s.altPort p = some a)

/-- The next new packet that a port sends, and the port whose packet it is: a MIRROR first, its own before those of the ports
that lend it theirs (R334, R344). -/
def State.nextNew (s : State) (a : Nat) : Option (Nat × Packet) :=
  let heads := (a :: s.lenders a).filterMap fun p => (s.port p).txq.head?.map fun q => (p, q)
  match heads.find? fun h => h.2.type == typeMirror with
  | some h => some h
  | none => heads.head?

/-- One packet that a port can send now: of its owed replay, of one that a DOWN port owes, or a new one; none when there is
none, or the replay buffer has no room for it. k is the sending slot. -/
def State.send1 (s : State) (a k : Nat) : Option State :=
  let x := s.port a
  match x.owed with
  | q :: _ => some (s.modPort a fun x => { (x.transmit k q).replayed1 with sinceAck := s.time })
  | [] =>
    match (s.lenders a).find? fun p => !(s.port p).owed.isEmpty with
    | some p =>
      match (s.port p).owed with
      | q :: _ =>
        if x.hasRoom q then some ((s.sendNew a k (q.lend p)).modPort p fun y => { y.replayed1 with origAt := s.time }) else none
      | [] => none
    | none =>
      match s.nextNew a with
      | none => none
      | some (p, q) =>
        if !x.hasRoom q || !(s.port p).hasRoom q then none
        else if p = a then some ((s.modPort a fun x => { x with txq := x.txq.drop 1 }).sendNew a k q)
        else
          let q := { q with seq := (s.port p).txseq }
          some ((s.modPort p fun y =>
            { y with
              txq := y.txq.drop 1
              txseq := y.txseq + 1
              origAt := if y.replayB.isEmpty then s.time else y.origAt
              replayB := y.replayB ++ [q] }).sendNew a k (q.lend p))

/-- Send what a port can send, at most n packets; with no key left it goes DOWN (R340). -/
def State.flush (s : State) (a : Nat) : Nat → State
  | 0 => s
  | n + 1 =>
    if !(s.port a).canSend || (s.send1 a 0).isNone then s
    else match (s.port a).pickSlot with
      | none => s.goDown a 2
      | some k => match s.send1 a k with
        | none => s
        | some t => State.flush t a n

/-- Send what waits at every port; where nothing more can be sent the link idles (R327). -/
def State.flushAll (s : State) : State :=
  let s := (List.range 16).foldl (fun (t : State) p => if (t.port p).state = 5 then t.reroute p else t) s
  let n := ((List.range 16).map fun p => (s.port p).txq.length + (s.port p).owed.length).foldl (· + ·) 1
  (List.range 16).foldl (fun (t : State) a =>
    let t := t.flush a n
    if (t.port a).up then t.modPort a Port.idle else t) s

/-- Put a packet into a port's queue: a MIRROR goes ahead of every other new packet (R344). -/
def State.enqueue (s : State) (p : Nat) (q : Packet) : State :=
  s.modPort p fun x =>
    if x.state = 5 ∧ s.foreign q = true then x
    else { x with txq :=
        if q.type = typeMirror then
          x.txq.takeWhile (fun y => y.type == typeMirror) ++ q :: x.txq.dropWhile (fun y => y.type == typeMirror)
        else x.txq ++ [q] }

/-- Send a packet to its destination; nothing is sent to a lost peer (R339). -/
def State.send (s : State) (q : Packet) : State :=
  if s.fab.lost.contains q.ddev then s
  else match s.route q.ddev q.addr with
    | none => s
    | some p => (s.enqueue p q).flushAll

/-! ### Pacing (R332, R347, R348) -/

def unsolWindow : Nat := 16 * 1024

/-- The fabric ingress buffer. -/
def ingressRoom : Nat := 2 * 1024 * 1024

/-- What the buffer has beside the 16 KiB reserved for each other device. -/
def State.grantPool (s : State) : Nat :=
  ingressRoom - 16 * 1024 * ((List.range 16).filter fun d => s.fab.present d && d != s.fab.device).length

/-- The part of it that grants hold: granted bytes that have not come here and left the buffer again. -/
def State.granted (s : State) : Nat := ((List.range 16).map fun d => (s.pace d).grantOut - (s.pace d).came).foldl (· + ·) 0

/-- The part that is reserved for replies to READs. -/
def State.reserved (s : State) : Nat := (s.fab.txns.map (·.room)).foldl (· + ·) 0

/-- Whether the ingress buffer can reserve room for a reply of n bytes (R332). -/
def State.replyRoom (s : State) (n : Nat) : Bool := decide (s.granted + s.reserved + n ≤ s.grantPool)

/-- Whether a peer's unsolicited window holds n more bytes. -/
def State.inWindow (s : State) (dev n : Nat) : Bool := decide ((s.pace dev).unsol + n ≤ unsolWindow)

def State.useWindow (s : State) (dev n : Nat) : State := s.modPace dev fun c => { c with unsol := c.unsol + n }

/-- n bytes go under a grant. -/
def State.useGrant (s : State) (dev n : Nat) : State := s.modPace dev fun c => { c with covered := c.covered + n }

/-- Raise the cumulative demand toward a peer and tell it. -/
def State.demandMore (s : State) (dev n : Nat) : State :=
  let d := (s.pace dev).demand + n
  let t := s.modPace dev fun c => { c with demand := d }
  t.send (t.packet typeDemand dev 0 (leBytes 8 d))

/-- Send the packets toward a peer that its grant covers, in the order asked, at most n of them. -/
def State.drain (s : State) (dev : Nat) : Nat → State
  | 0 => s
  | n + 1 =>
    match (s.pace dev).queue with
    | [] => s
    | q :: rest =>
      if (s.pace dev).grantIn < q.2 then s
      else State.drain (((s.useGrant dev q.1.payload.length).modPace dev fun c => { c with queue := rest }).send q.1) dev n

/-- A transaction tag that no transaction holds, if one is free. -/
def State.freeTag (s : State) : Option Nat :=
  (List.range (min 65536 (s.fab.txns.length + 1))).find? fun t => !s.fab.txns.any fun x => x.tag == t

/-- A transaction begins. -/
def State.addTxn (s : State) (x : Txn) : State := { s with fab := { s.fab with txns := s.fab.txns ++ [x] } }

/-- Send a request whose answer a waiter awaits. A WRITE or an ATOM goes within the unsolicited window, or demands what the
window does not hold and waits until the cumulative grant covers it. -/
def State.ask (s : State) (q : Packet) (tag : Nat) (w : Waiter) : State :=
  let q := { q with tag := tag }
  let n := q.payload.length
  if q.type = typeRead then (s.addTxn ⟨tag, q.ddev, 0, q.addr, q.len, false, w⟩).send q
  else if s.inWindow q.ddev n then ((s.useWindow q.ddev n).addTxn ⟨tag, q.ddev, n, q.addr, 0, true, w⟩).send q
  else
    let at_ := (s.pace q.ddev).demand + n
    ((s.addTxn ⟨tag, q.ddev, n, q.addr, 0, false, w⟩).modPace q.ddev fun c => { c with queue := c.queue ++ [(q, at_)] }).demandMore
      q.ddev n

/-! ### Pacing at the destination (R332, R348) -/

/-- Whether a checkpoint holds inbound traffic and grants nothing: every block is saved, and nothing that was sent awaits an
answer (R367, its second step). -/
def State.holdsInbound (s : State) : Bool := s.fw.quiesce && (s.blocks.all fun b => decide (b.st = .saved)) && s.fab.txns.isEmpty

def grantUnit : Nat := 4096

/-- The grantable part of the ingress buffer that neither grants nor replies hold. -/
def State.grantable (s : State) : Nat := s.grantPool - s.granted - s.reserved

/-- The most that may be granted to a source. -/
def Pace.grantLimit (c : Pace) : Nat := min c.demandIn (c.performed + 131072)

/-- The unit to grant next to a source that has been granted g: 4 KiB, or what its demand still asks for when that is less
(log 40); none past its limit. -/
def Pace.unit? (c : Pace) (g : Nat) : Option Nat :=
  let u := min grantUnit (c.demandIn - g)
  if 0 < u ∧ g + u ≤ c.grantLimit then some u else none

/-- Hand out units of grantable space in turn, from a device on; at most n units. -/
def grantUnits (unit? : Nat → Nat → Option Nat) : Nat → Nat → Nat → (Nat → Nat) → Nat × (Nat → Nat)
  | 0, last, _, g => (last, g)
  | n + 1, last, free, g =>
    match ((List.range 16).map fun i => (last + 1 + i) % 16).findSome? fun d => (unit? d (g d)).map fun u => (d, u) with
    | none => (last, g)
    | some (d, u) =>
      if free < u then (last, g) else grantUnits unit? n d (free - u) fun k => if k = d then g d + u else g k

/-- Raise the grants that can rise, and send each that has risen by 16 KiB or reaches its demand. -/
def State.regrant (s : State) : State :=
  if s.holdsInbound then s
  else
    let (last, g) := grantUnits (fun d => (s.pace d).unit?) 512 s.fab.rr s.grantable fun d => (s.pace d).grantOut
    let t := { s with fab := { s.fab with rr := last } }
    (List.range 16).foldl (fun (t : State) d =>
      let c := t.pace d
      if c.grantOut < g d ∧ (c.grantOut + 16384 ≤ g d ∨ g d = c.demandIn) then
        let t := t.modPace d fun c => { c with grantOut := g d }
        t.send (t.packet typeGrant d 0 (leBytes 8 (g d)))
      else t) t

/-- A payload leaves the ingress buffer. No header says whether it came under a grant or in the space reserved for its source:
which is a free value, within what has been granted (log 40). -/
def State.payloadLeaves (s : State) (dev n : Nat) : State :=
  ({ s with free := s.free + 1 } : State).modPace dev fun c =>
    if Config.pick s.free % 2 = 1 ∧ c.came + n ≤ c.grantOut then { c with came := c.came + n } else c

/-- The payload of a source has been performed at its home: its room is free again. -/
def State.ingressDone (s : State) (dev n : Nat) : State :=
  ((s.payloadLeaves dev n).modPace dev fun c => { c with performed := c.performed + n }).regrant

/-- The payload of a source has been refused: its room is free again, and nothing has been performed (R348). -/
def State.ingressFreed (s : State) (dev n : Nat) : State := (s.payloadLeaves dev n).regrant

/-- A transaction ends: what its payload held of the window is free again, and so is what was reserved for its reply, which may
let a grant rise (R348). -/
def State.endTxn (s : State) (x : Txn) : State :=
  let t := { s with fab := { s.fab with txns := s.fab.txns.filter fun y => y.tag != x.tag } }
  let t := if x.unsol then t.modPace x.dev fun c => { c with unsol := c.unsol - x.bytes } else t
  if x.room = 0 then t else t.regrant

end Sys2Proof.Machine
end

