-- ==== Sys2Proof/Machine/Requests.lean ====
section
/-!
DEFINITION. Requests on their way (07_memory.md R143 to R149; 08_sync.md R156 to R162; 11_versions.md R208, R209): acceptance,
parking, refusal, replies, and what an atomic does to the bytes it meets. Pipeline.lean holds the events.
-/

namespace Sys2Proof.Machine

/-! ### Small parts -/

def State.req? (s : State) (id : Nat) : Option Req := s.reqs.find? fun r => r.id == id

def State.modReq (s : State) (id : Nat) (f : Req → Req) : State :=
  { s with reqs := s.reqs.map fun r => if r.id = id then f r else r }

def State.setPhase (s : State) (id : Nat) (p : ReqPhase) : State := s.modReq id fun r => { r with phase := p }

/-- A request enters the fault buffer. -/
def State.parkIn (s : State) (id f : Nat) : State := s.modReq id fun r => { r with phase := .parked f, kept := true }

def State.modEntry (s : State) (id : Nat) (f : Entry → Entry) : State :=
  { s with entries := s.entries.map fun e => if e.id = id then f e else e }

/-- Whether a request has entered an entry and its reply or acknowledgement is not back. -/
def Entry.awaits (e : Entry) (r : Req) : Bool := decide (r.entry? = some e.id) || (r.isDone && e.members.contains r.id)

/-- Forget the entries whose requests have all been answered. -/
def State.pruneEntries (s : State) : State :=
  { s with entries := s.entries.filter fun e => s.reqs.any e.awaits }

/-- The requests of an entry that are not performed, in the order in which they entered (R143). -/
def State.inEntry (s : State) (e : Nat) : List Req :=
  match s.entries.find? fun x => x.id == e with
  | none => []
  | some x => x.members.filterMap fun i => s.reqs.find? fun r => r.id == i && decide (r.entry? = some e)

/-- Whether a request brings something back. -/
def Req.fetches (r : Req) : Bool :=
  match r.kind with
  | .load | .ldds | .pref | .code | .vnld _ => true
  | .atomic _ _ f => f
  | _ => false

/-- The code offset of the instruction of a request. -/
def State.fpcOf (s : State) (r : Req) : W32 :=
  (((s.group? r.blk r.grp).bind fun g => g.insns.find? fun i => i.id == r.insn).map (·.fpc)).getD 0

/-- The read before issue that a request is part of. -/
def State.preOf (s : State) (r : Req) : Option PreRead := s.pres.find? fun p => p.id == r.insn

/-- The ACCESS code of FKIND (R301). -/
def State.accessOf (s : State) (r : Req) : Nat :=
  if s.probes.any fun p => p.id == r.insn then 9
  else if (s.preOf r).isSome && decide (r.kind = .load) then 8
  else match r.kind with
    | .store => 1
    | .atomic .. => 2
    | .vnld _ => 6
    | .vnst _ => 7
    | .code => 3
    | _ => 0

/-- The kind of Sifter entry that a request joins (R143, R216); the stores of a TST or a probe go by themselves. -/
def Req.entryKind (r : Req) : EntryKind :=
  match r.kind with
  | .vnld v => .vnld v
  | .vnst v => .vnst v
  | .store => if r.order = 0 && !r.unit then .write else .single
  | .load | .ldds | .pref => if r.order = 0 then .read else .single
  | _ => .single

/-! ### Replies (R138, R140, R145, R157) -/

/-- What becomes of a read of which no lane waits any more: an HFSET whose image has come sets its register, one that has sent
its requests goes on, and any other is given up, as is one that parks or fails (R265; DEDUCED, log 37). -/
def State.orphanPre (s : State) (p : PreRead) : State :=
  let stuck := p.fail.isSome || s.reqs.any fun r => r.insn == p.id && r.isParked
  match p.hf, p.bytes?, s.block? p.blk with
  | some n, some bs, some b => ((s.setFamily p.blk b.launch n bs).getD s).dropPre p.id
  | some _, none, some _ => if stuck then s.dropPre p.id else s
  | _, _, _ => s.dropPre p.id

/-- What becomes of a read after one of its requests has been answered, has failed or has parked. -/
def State.tidyPre (s : State) (id : Nat) : State :=
  match s.pres.find? fun p => p.id == id with
  | some p => if s.unread p then s.orphanPre p else s
  | none => s

/-- Bytes return to a read made before issue; a whole line of code goes into the core's buffer. -/
def State.landPre (s : State) (p : PreRead) (r : Req) : State :=
  let p := { p with got := p.got ++ r.parts.map fun (q : Part) => (r.addr, q.res) }
  match p.code, p.bytes?, (s.block? p.blk).bind fun b => s.launch? b.launch with
  | true, some bs, some l =>
    { s with
      pres := s.pres.filter fun q => q.id != p.id
      codebuf := ⟨r.core, l.ctx, p.addr / 128, bs⟩
        :: s.codebuf.filter fun k => !(k.core == r.core && k.ctx == l.ctx && k.line == p.addr / 128) }
  | _, _, _ => ({ s with pres := s.pres.map fun q => if q.id = p.id then p else q } : State).tidyPre p.id

/-- Write what a request has fetched to its destinations; the write of a cancelled lane is discarded, and the scalar result
of one whose lanes have all been cancelled (R148, R162). LDDS bytes that land over a barrier object's own bytes run no
completion check on it (DEDUCED, log 14: R165 names a store or an atomic, and R162 calls the landing neither). -/
def State.landRead (s : State) (r : Req) : State :=
  let put := fun (g : Group) (p : Part) => match r.dst with
    | none => g
    | some d => (List.range (runLen r.size)).foldl (fun g k =>
        g.land (.v (d + k) p.lane, BitVec.ofNat 64 (ofLe ((p.res.drop (4 * k)).take 4)))) g
  if r.unit then
    match s.preOf r with
    | some p => s.landPre p r
    | none => { s with mtxq := s.mtxq.map fun o =>
        if o.insns.contains (r.grp, r.insn) && o.blk == r.blk then
          { o with got := o.got ++ r.parts.map fun p => (r.addr / 32, p.res) }
        else o }
  else match r.kind with
    | .pref => s
    | .ldds => s.modBlock r.blk fun (b : Block) =>
        b.setScratch (barLand (b.scratch.write r.bdst ((r.parts.head?.map (·.res)).getD [])) r.bar r.size)
    | _ => s.modGroup r.blk r.grp fun g =>
        match r.sdst with
        | some d => if r.isAtomic && decide (r.takers = 0) then g else g.setS d (BitVec.ofNat 64 (ofLe ((r.parts.head?.map (·.res)).getD [])))
        | none => r.parts.foldl put g

/-- A request leaves; its instruction completes when it was the last (R145). -/
def State.leaveReq (s : State) (r : Req) : State :=
  ({ s with reqs := s.reqs.filter fun q => q.id != r.id } : State).pruneEntries.settle r.blk r.grp r.insn

/-- A request ends with zero as what it fetched; of an LDDS lane those zeros are written and counted (DEDUCED, log 14). -/
def State.endZero (s : State) (r : Req) : State :=
  let r := { r with parts := r.parts.map fun (p : Part) => { p with res := List.replicate r.size 0 } }
  (if r.fetches then s.landRead r else s).leaveReq r

/-- A request of a read made before issue fails: the instruction raises the cause itself, at the lowest address (R251). -/
def State.failPre (s : State) (p : PreRead) (r : Req) (c : Cause) (reason : Nat) : State :=
  let f := match p.fail with
    | some k => if k.2.1 ≤ r.addr then k else (c, r.addr, reason)
    | none => (c, r.addr, reason)
  ({ s with
    pres := s.pres.map fun (q : PreRead) => if q.id = p.id then { q with fail := some f } else q
    reqs := s.reqs.filter fun q => q.id != r.id } : State).pruneEntries.tidyPre p.id

/-- A request is refused after acceptance, or its translation fails: loads receive zero, stores have no effect, and the
lanes it is made for take the cause at the group's next issue (R147, R209). Nothing is raised for helpers, or for a prefetch
(R67, R141). -/
def State.lateRefuse (s : State) (r : Req) (c : Cause) (reason : Nat) : State :=
  match s.preOf r with
  | some p => s.failPre p r c reason
  | none =>
    if r.helper || decide (r.kind = .pref ∨ r.takers = 0) then s.endZero r
    else
      let a : After := ⟨r.insn, c, r.takers, true, BitVec.ofNat 64 r.addr, fkindOf (s.accessOf r) reason r.size, s.fpcOf r⟩
      (s.modGroup r.blk r.grp fun g => g.addAfter a).endZero r

/-! ### Parking (R146) -/

/-- The fault-buffer entry of an instruction. -/
def State.faultOf (s : State) (r : Req) : Option FaultEntry :=
  s.faults.find? fun f => f.blk == r.blk && f.grp == r.grp && f.insn == r.insn && f.fetch.isNone

/-- Park a request: its line joins its instruction's entry, or a new one while the buffer has room, and its page is
reported with the lowest address at which the instruction faults in it. Helpers' accesses and prefetches are never parked;
a fetch of code that meets a page its lane set found present is tried again. -/
def State.park (s : State) (c : Context) (r : Req) (reason : Nat) : State :=
  let kind := fkindOf (s.accessOf r) reason r.size
  let page := r.addr / 2 ^ 16
  let low := ((s.reqs.filter fun q => q.insn == r.insn && q.blk == r.blk && q.grp == r.grp && q.addr / 2 ^ 16 == page
    && !q.helper && decide (q.phase = .issued)).map (·.addr)).foldl min r.addr
  if decide (r.kind = .code) then s.dropPre r.insn
  else if r.helper || decide (r.kind = .pref) then s.endZero r
  else match s.faultOf r with
    | some f =>
      (({ s with faults := s.faults.map fun (g : FaultEntry) =>
          if g.id = f.id then { g with pages := if g.pages.contains page then g.pages else g.pages ++ [page] }
          else g } : State).parkIn r.id f.id).report c.id r.core low kind none 0 |>.tidyPre r.insn
    | none =>
      if s.faultsFull r.core then s
      else
        (({ s.fresh with faults := s.faults ++
            [(⟨s.nextId, r.core, r.blk, r.grp, r.insn, none, [page]⟩ : FaultEntry)] } : State).parkIn r.id s.nextId).report c.id r.core low kind none 0
          |>.tidyPre r.insn

/-! ### Acceptance (R143, R144) -/

/-- Entries of a core's outstanding-transaction table in use: sent entries of which a request has no reply or
acknowledgement, but for held version stores and blocked or retried version loads, which have theirs (R144, R212, R216). -/
def State.tableUsed (s : State) (core : Nat) : Nat :=
  (s.entries.filter fun e => e.core == core && e.sent && decide (e.kind ≠ .bank) && s.reqs.any fun r =>
    e.awaits r && match r.phase with | .accepted _ | .remote _ _ | .done => true | _ => false).length

def tableSize : Nat := 1024

/-- Why a translated request is refused by the region map or by its target (R160, R208). -/
def State.refusalOf (s : State) (c : Context) (launch : Nat) (r : Req) (pa : Nat) : Option (Cause × Nat) :=
  let region := s.regionAt c.id r.addr
  let versioned := match targetOf pa, region with
    | .mem _, some q => q.launch == launch
    | _, _ => false
  match r.kind with
  | .vnld _ | .vnst _ => if versioned then none else some (.notVersioned, 7)
  | .store => if region.isSome then some (.versionPlainWrite, 7) else none
  | .atomic op cas fetch =>
    if region.isSome then some (.versionPlainWrite, 7)
    else match targetOf pa with
      | .host _ => if cas || op == 0 || (op == 9 && fetch) then none else some (.atomicUnsupported, 4)
      | _ => none
  | _ => none

/-- Whether the requests of an entry cover it: all four sectors of a read entry, every byte of a write entry (R143). -/
def State.covered (s : State) (e : Entry) : Bool :=
  let rs := s.inEntry e.id
  match e.kind with
  | .read | .vnld _ => (List.range 4).all fun k => rs.any fun r =>
      decide (r.addr % 128 / 32 ≤ k ∧ k ≤ (r.addr % 128 + r.size - 1) / 32)
  | .write | .vnst _ => (List.range 128).all fun k => rs.any fun r => decide (r.addr % 128 ≤ k ∧ k < r.addr % 128 + r.size)
  | _ => true

/-- Whether an entry is open for more requests. -/
def Entry.isOpen (e : Entry) : Bool := !e.closed && decide (e.kind ≠ .bank)

/-- A request is accepted: it joins the open entry of its line and kind, or its line is translated and it opens one; a
request that may not join is sent alone, behind what of its line has still to leave. An entry that is covered closes once the other requests of the instruction to its
line, which come with this one, are in (DEDUCED, log 27). -/
def State.accept1 (s : State) (r : Req) : State :=
  match s.block? r.blk with
  | none => s
  | some b =>
    match (s.launch? b.launch).bind fun l => s.context? l.ctx with
    | none => s
    | some c =>
      let core := r.owner.getD r.core
      let line := r.addr / 128
      let kind := r.entryKind
      let here := fun (e : Entry) => e.isOpen && e.core == core && e.ctx == c.id && e.line == line
      let more := s.reqs.any fun q => q.id != r.id && q.insn == r.insn && decide (q.phase = .issued) && q.addr / 128 == line
      let closeFull := fun (t : State) (id : Nat) =>
        t.modEntry id fun e => { e with closed := e.closed || (t.covered e && !more) }
      match s.entries.find? fun e => here e && decide (e.kind = kind ∧ kind ≠ EntryKind.single) with
      | some e =>
        match s.refusalOf c b.launch r (e.pa + r.addr % 128) with
        | some (cause, reason) => s.lateRefuse r cause reason
        | none =>
          closeFull ((s.modEntry e.id fun e => { e with members := e.members ++ [r.id] }).setPhase r.id (.accepted e.id)) e.id
      | none =>
        let s := if r.unit && decide (kind = EntryKind.single) then s else { s with entries := s.entries.map fun e => if here e then { e with closed := true } else e }
        let (x, s) := s.translate core c r.addr
        match x with
        | .invalid => s.park c r 0
        | .malformed => s.lateRefuse r .pteMalformed 3
        | .unmapped => s.lateRefuse r .paUnmapped 4
        | .ok pa key w _ =>
          if r.needsW && !w then s.park c r 1
          else match s.refusalOf c b.launch r (Xlat.addr pa r.addr) with
            | some (cause, reason) => s.lateRefuse r cause reason
            | none =>
              let unsent := s.entries.filter fun e => e.core == core && !e.sent && decide (e.kind ≠ .bank)
              let s := match unsent with
                | e :: _ => if 64 ≤ unsent.length && decide (kind ≠ EntryKind.single) then s.modEntry e.id fun e => { e with closed := true, sent := true } else s
                | [] => s
              let alone := decide (kind = EntryKind.single)
              let behind := s.entries.any fun e => e.core == core && e.ctx == c.id && e.line == line && !e.sent && decide (e.kind ≠ .bank)
              let t : State := { s.fresh with entries := s.entries ++
                [(⟨s.nextId, core, c.id, line, kind, Xlat.addr pa (128 * line), key, s.cc, alone, alone && !behind, [r.id]⟩ : Entry)] }
              let acks := if r.owner.isSome then s.acceptedAt core else []
              closeFull (t.modReq r.id fun q => { q with phase := .accepted s.nextId, acks := acks }) s.nextId

/-! ### Atomics (R156 to R158) -/

/-- The tree of R98 over the lanes' operands: one level up. -/
def pairUp (op : Nat → Nat → Nat) : List (Option Nat) → List (Option Nat)
  | x :: y :: rest =>
    (match x, y with
      | some a, some b => some (op a b)
      | some a, none => some a
      | none, y => y) :: pairUp op rest
  | xs => xs

/-- The levels of the tree, from the 32 leaves upward. -/
def treeLevels (op : Nat → Nat → Nat) (leaves : List (Option Nat)) : Nat → List (List (Option Nat))
  | 0 => [leaves]
  | n + 1 => leaves :: treeLevels op (pairUp op leaves) n

/-- The tree sum of all lanes. -/
def treeAll (op : Nat → Nat → Nat) (leaves : List (Option Nat)) : Option Nat :=
  (((treeLevels op leaves 5).getD 5 []).head?).join

/-- The fold of the nodes that cover lanes 0 to n − 1, the longest segments first (R98). -/
def treePrefix (op : Nat → Nat → Nat) (levels : List (List (Option Nat))) (n : Nat) : Option Nat :=
  ((List.range 6).reverse.foldl (fun (st : Option Nat × Nat) j =>
    if n.testBit j then
      let node := ((levels.getD j []).getD (st.2 / 2 ^ j) none)
      (match st.1, node with
        | some a, some b => some (op a b)
        | some a, none => some a
        | none, b => b, st.2 + 2 ^ j)
    else st) (none, 0)).1

/-- The 32 leaves of an atomic's operands. -/
def Req.leaves (r : Req) : List (Option Nat) :=
  (List.range 32).map fun l => (r.parts.find? fun p => p.lane == l).map fun p => ofLe p.data

/-- What an atomic does to the value x at its address: the new value, the parts with what they fetch, and the flags that
the home reports. -/
def Req.combine (r : Req) (x : Nat) : Nat × List Part × Nat :=
  let w := 8 * r.size
  let give := fun (p : Part) (v : Nat) => { p with res := leBytes r.size v }
  match r.kind with
  | .atomic op cas _ =>
    let f := fun (a b : Nat) => (atomicOp op w a b).1
    if cas then
      let out := r.parts.foldl (fun (st : Nat × List Part) p =>
        (if st.1 = ofLe p.cmp then ofLe p.data else st.1, st.2 ++ [give p st.1])) (x, [])
      (out.1, out.2, 0)
    else if op = 10 then
      let levels := treeLevels f r.leaves 5
      let t := (treeAll f r.leaves).getD 0
      let home := atomicOp op w x t
      (home.1, r.parts.map fun p => match treePrefix f levels p.lane with
        | none => give p x
        | some e => give p (f x e), home.2)
    else
      let out := r.parts.foldl (fun (st : Nat × List Part) p => (f st.1 (ofLe p.data), st.2 ++ [give p st.1])) (x, [])
      (out.1, out.2, match treeAll f r.leaves with | none => 0 | some t => (atomicOp op w x t).2)
  | _ => (x, r.parts, 0)

/-- An atomic that fetches sets the flags that its home reports in its group's FSTAT (R156). -/
def State.atomicFlags (s : State) (r : Req) (fl : Nat) : State :=
  if r.fetches && fl != 0 then s.modGroup r.blk r.grp fun g => g.flags fl else s

/-- Combine values in some order and association, chosen freely (R159): the n-th step takes two of them. -/
def mergeFreely (op : Nat → Nat → Nat) (seed : Nat) : Nat → List Nat → Nat
  | _, [] => 0
  | _, [x] => x
  | 0, x :: _ => x
  | n + 1, xs =>
    let i := Config.pick (seed + 2 * n) % xs.length
    let rest := xs.eraseIdx i
    let j := Config.pick (seed + 2 * n + 1) % rest.length
    mergeFreely op seed n (op (xs.getD i 0) (rest.getD j 0) :: rest.eraseIdx j)

/-! ### Lost peers (R339) -/

/-- The bits of FSTAT for a lost peer: PEER_LOST, and the peer's bit of LOSTPEERS. -/
def lostBits (dev : Nat) : Nat := flagPeerLost + 2 ^ (32 + dev % 16)

/-- Whether a thread of an atomic stands at a FENCE of system scope, which then waits on it (R172, R174). -/
def State.fenced (s : State) (r : Req) : Bool :=
  match s.block? r.blk with
  | none => false
  | some b => match s.launch? b.launch with
    | none => false
    | some l => r.isAtomic && (lanesOf (r.threads &&& (b.group r.grp).runLanes)).any fun k =>
        let x := (b.group r.grp).lane k
        match s.peekCode b.core l (x.pc.toNat + if x.hdr.isNone then 8 else 0) with
        | none => false
        | some w => match decode w 0 0 0 0 with
          | .ok (.fence f) => f.scope == 5
          | _ => false

/-- The fate of a request to a lost peer: a load or an atomic that fetches receives zero and takes FABRIC_PEER_LOST, and where
a fence of the system waits on the atomic FSTAT tells of the peer (R174); a store or a reduction is reported lost; a CCTL has no
effect there (R141). -/
def State.peerLostFate (s : State) (r : Req) (dev : Nat) : State :=
  let tell := fun (t : State) => t.modGroup r.blk r.grp fun g => g.flags (lostBits dev)
  if r.kind = .cctl then s.setPhase r.id .done
  else if r.fetches then (if s.fenced r then tell (s.lateRefuse r .fabricPeerLost 4) else s.lateRefuse r .fabricPeerLost 4)
  else (tell s).endZero r

end Sys2Proof.Machine
end

