-- ==== Sys2Proof/Machine/Pipeline.lean ====
section
/-!
DEFINITION. The events of memory requests (07_memory.md R143 to R147; 08_sync.md R157 to R160, R166, R175; 11_versions.md R211 to
R216; 19_fabric.md R336 to R338): acceptance, the Sifter's entries, homes and banks, replies, landings and version lines.
-/

namespace Sys2Proof.Machine

/-! ### Acceptance and sending (R143, R144) -/

/-- Whether a TST of its threads, issued earlier, has still to hand on stores that may meet a request's line (R152, R183). -/
def State.tstHolds (s : State) (r : Req) : Bool :=
  s.mtxq.any fun o => decide (o.kind = .tst) && !o.started && o.ofThreads r.blk r.grp r.threads r.insn
    && o.tstRanges.any fun w => decide (w.1 / 128 ≤ r.addr / 128 ∧ r.addr / 128 ≤ (w.1 + w.2 - 1) / 128)

/-- Whether a request has moved into the image of its block: it goes on when the block is restored (R149, R224, R320). -/
def State.inImage (s : State) (r : Req) : Bool := s.blocks.any fun b => b.id == r.blk && decide (b.st = .saved)

/-- Whether a request waits for what its own threads have issued before it: an acquire (R171, R263), a unit's accesses that
it must not overtake, and an access to its line that has not entered, behind which it would be performed (R152). -/
def State.waitsTurn (s : State) (r : Req) : Bool :=
  s.heldBack r || s.unitsHold r || s.tstHolds r
    || s.reqs.any fun q => q.before r && decide (q.phase = .issued ∧ q.space = .global ∧ q.kind ≠ .fence)
      && (q.addr / 128 == r.addr / 128 || (r.isRelease && r.orders q && q.unit))

/-- Whether a request may be accepted: its block is not saved, it is the oldest of its group (those of a unit come by
themselves; one to another line that waits for other threads is passed over, which no thread can tell, log 25), it waits for
nothing of its own threads, and its core's table has room. -/
def State.mayAccept (s : State) (r : Req) : Bool :=
  decide (r.phase = .issued ∧ r.space = .global ∧ r.kind ≠ .fence)
    && (r.unit || !s.reqs.any fun q => q.blk == r.blk && q.grp == r.grp && decide (q.id < r.id) && !q.unit
      && decide (q.phase = .issued ∧ q.space = .global ∧ q.kind ≠ .fence) && q.insn != r.insn
      && !((q.threads &&& r.threads) == 0 && q.addr / 128 != r.addr / 128 && s.waitsTurn q))
    && !s.waitsTurn r
    && decide (s.tableUsed (r.owner.getD r.core) < tableSize)
    && !s.inImage r

/-- Whether an atomic names a host address that cannot perform it (R160). -/
def State.unsupported (s : State) (r : Req) : Bool :=
  match s.block? r.blk with
  | none => false
  | some b => match (s.launch? b.launch).bind fun l => s.context? l.ctx with
    | none => false
    | some c => match (s.translate (r.owner.getD r.core) c r.addr).1 with
      | .ok pa _ w _ => w && decide ((s.refusalOf c b.launch r (Xlat.addr pa r.addr)).map (·.1) = some .atomicUnsupported)
      | _ => false

/-- SIFTER_ACCEPT. The requests of an atomic are accepted together or not at all (R162): where one of them names a host
address that cannot perform it none has an effect, and the lanes of such addresses take the cause (R160; DEDUCED, log 25). -/
def execSifterAccept (req : Nat) (s : State) : Host.Outcome State Fault Refusal :=
  match s.req? req with
  | none => .next s
  | some r =>
    if !s.mayAccept r then .next s
    else if r.isAtomic then
      let mine := fun (q : Req) => q.insn == r.insn && q.blk == r.blk && q.grp == r.grp && decide (q.phase = .issued)
      let rs := s.reqs.filter mine
      if rs.any s.unsupported then
        .next (rs.foldl (fun t q => if s.unsupported q then t.lateRefuse q .atomicUnsupported 4 else t.endZero q) s)
      else if !rs.all s.mayAccept || decide (tableSize < s.tableUsed (r.owner.getD r.core) + rs.length) then .next s
      else
        let t := rs.foldl (fun t q => t.accept1 q) s
        if t.reqs.any mine then .next s else .next t
    else .next (s.accept1 r)

/-- Whether a group with a request in an entry has begun to wait, or its block to be saved. -/
def State.entryAwaited (s : State) (e : Entry) : Bool :=
  (s.inEntry e.id).any fun r => match s.block? r.blk with
    | none => true
    | some b => decide (b.st ≠ .resident) || !s.ready b r.grp

/-- Whether an entry may leave: it waits, the table has room, and no earlier entry of its line waits. -/
def State.maySend (s : State) (e : Entry) : Bool :=
  !e.sent && decide (e.kind ≠ .bank) && decide (s.tableUsed e.core < tableSize)
    && !s.entries.any fun f => decide (f.id < e.id) && f.core == e.core && f.ctx == e.ctx && f.line == e.line && !f.sent
      && decide (f.kind ≠ .bank)

def State.sendEntry (s : State) (e : Entry) : State := s.modEntry e.id fun e => { e with closed := true, sent := true }

/-- SIFTER_ENTRY_SEND: a closed entry, or one that a waiting group has a request in. -/
def execSifterEntrySend (entry : Nat) (s : State) : Host.Outcome State Fault Refusal :=
  match s.entries.find? fun e => e.id == entry with
  | none => .next s
  | some e => if s.maySend e && (e.closed || s.entryAwaited e) then .next (s.sendEntry e) else .next s

/-- SIFTER_WINDOW_EXPIRY: an entry is sent 32 cc after it opened. -/
def execSifterWindowExpiry (entry : Nat) (s : State) : Host.Outcome State Fault Refusal :=
  match s.entries.find? fun e => e.id == entry with
  | none => .next s
  | some e => if s.maySend e && decide (e.opened + 32 ≤ s.cc) then .next (s.sendEntry e) else .next s

/-! ### Performing a request (R145, R157, R208, R313) -/

/-- The physical address of a request in its entry. -/
def Entry.paOf (e : Entry) (r : Req) : Nat := e.pa + r.addr % 128

/-- A request has been performed. -/
def State.performed (s : State) (r : Req) : State := s.modReq r.id fun q => { q with phase := .done }

/-- A read is performed: every part receives the bytes. -/
def State.gotBytes (s : State) (r : Req) (bs : List Byte) : State :=
  s.modReq r.id fun q => { q with phase := .done, parts := q.parts.map fun (p : Part) => { p with res := bs } }

/-- A read at its home. -/
def State.performRead (s : State) (e : Entry) (r : Req) : State :=
  let s := s.reachSlice e.ctx r.addr (e.paOf r)
  match s.readHome e.ctx r.addr (e.paOf r) e.key r.size with
  | .bytes bs => s.gotBytes r bs
  | .poisoned => s.lateRefuse r .mcDataPoison 6
  | .denied => s.lateRefuse r .fabricAccessDenied 4
  | .remote _ _ => s

/-- Whether the device's windows turn away its own access through the aperture (R336). -/
def State.selfDenied (s : State) (pa n : Nat) (write : Bool) : Bool :=
  match targetOf pa with
  | .peer d off => d == s.fab.device && (s.fab.admits d off n write).isNone
  | _ => false

/-- Whether a physical address of a context lies in a live region. -/
def State.inRegion (s : State) (ctx va pa : Nat) : Bool :=
  match targetOf pa with
  | .mem _ => (s.regionAt ctx va).isSome
  | _ => false

/-- A store at its home. -/
def State.performStore (s : State) (e : Entry) (r : Req) : State :=
  let pa := e.paOf r
  if s.inRegion e.ctx r.addr pa then s.lateRefuse r .versionPlainWrite 7
  else if s.selfDenied pa r.size true then s.lateRefuse r .fabricAccessDenied 4
  else (s.writeHome pa e.key ((r.parts.head?.map (·.data)).getD [])).performed r

/-- The value of an atomic's bytes at its home, or the cause that it meets. -/
def State.atomicOld (s : State) (e : Entry) (r : Req) : Except (Cause × Nat) Nat :=
  let pa := e.paOf r
  if s.inRegion e.ctx r.addr pa then .error (.versionPlainWrite, 7)
  else if s.selfDenied pa r.size true then .error (.fabricAccessDenied, 4)
  else match s.readHome e.ctx r.addr pa e.key r.size with
    | .bytes bs => .ok (ofLe bs)
    | .poisoned => .error (.mcDataPoison, 6)
    | _ => .error (.fabricAccessDenied, 4)

/-- An atomic at its home. -/
def State.performAtomic (s : State) (e : Entry) (r : Req) : State :=
  match s.atomicOld e r with
  | .error (c, reason) => s.lateRefuse r c reason
  | .ok x =>
    let out := r.combine x
    ((s.writeHome (e.paOf r) e.key (leBytes r.size out.1)).modReq r.id fun q =>
      { q with parts := out.2.1, phase := .done }).atomicFlags r out.2.2

/-- A CAS of several lanes to host memory: the next lane's AtomicOp (R160). -/
def State.performHostCas (s : State) (e : Entry) (r : Req) : State :=
  match r.parts.find? fun p => p.res.isEmpty, s.atomicOld e r with
  | some p, .ok x =>
    let new := if x = ofLe p.cmp then ofLe p.data else x
    let parts := r.parts.map fun (q : Part) => if q.lane = p.lane then { q with res := leBytes r.size x } else q
    (s.writeHome (e.paOf r) e.key (leBytes r.size new)).modReq r.id fun q =>
      { q with
        parts := parts
        phase := if parts.any fun q => q.res.isEmpty then q.phase else .done }
  | _, .error (c, reason) => s.lateRefuse r c reason
  | none, _ => s.performed r

/-- Whether the requests of a sent entry may be performed together with those of the list also: earlier entries of its line
at its core have been or are among those, and each request's own order allows it. -/
def State.homeReadyWith (s : State) (e : Entry) (rs : List Req) (also : List Nat) : Bool :=
  (s.entries.all fun f => !(decide (f.id < e.id) && f.core == e.core && decide (f.kind ≠ .bank) && f.pa == e.pa
      && (s.inEntry f.id).any fun r => !also.contains r.id && match r.phase with | .accepted _ | .remote _ _ => true | _ => false))
    && rs.all fun r => s.mayPerform r (rs.map (·.id) ++ also)

/-- Whether the requests of a sent entry may be performed. -/
def State.homeReady (s : State) (e : Entry) (rs : List Req) : Bool := s.homeReadyWith e rs []

/-- The FADD reductions that wait at one address with this one and may merge with it, later ones of one core behind the earlier
(R159). -/
def State.mergeable (s : State) (e : Entry) (r : Req) : List (Entry × Req) :=
  let waiting := ((s.entries.filter fun f => decide (f.kind = EntryKind.single ∧ f.pa = e.pa ∧ f.id ≠ e.id)).map fun f =>
    ((s.inEntry f.id).filter fun q =>
      decide (q.kind = r.kind ∧ q.size = r.size ∧ f.paOf q = e.paOf r ∧ q.phase = .accepted f.id) && f.sent).map
        fun q => (f, q)).flatten
  waiting.foldl (fun (ms : List (Entry × Req)) p =>
    if s.homeReadyWith p.1 [p.2] (r.id :: ms.map (·.2.id)) then ms ++ [p] else ms) []

/-- An FADD reduction to local memory: it may merge with others that wait, in any order and association (R159). -/
def State.performRedAdd (s : State) (e : Entry) (r : Req) : State :=
  match s.atomicOld e r with
  | .error (c, reason) => s.lateRefuse r c reason
  | .ok x =>
    let w := 8 * r.size
    let f := fun (a b : Nat) => (atomicOp 10 w a b).1
    let others := s.mergeable e r
    let n := if others.isEmpty then 0 else Config.pick s.free % (others.length + 1)
    let with_ := others.take n
    let terms := (r :: with_.map (·.2)).map fun q => (treeAll f q.leaves).getD 0
    let y := mergeFreely f (s.free + 1) n terms
    let s := if others.isEmpty then s else { s with free := s.free + 2 * n + 1 }
    (with_.map (·.2)).foldl (fun t q => t.performed q) ((s.writeHome (e.paOf r) e.key (leBytes r.size (f x y))).performed r)

/-- One request at a home that this device reaches without the fabric. -/
def State.performReq (s : State) (e : Entry) (r : Req) : State :=
  match r.kind with
  | .load | .ldds | .pref | .code => s.performRead e r
  | .store => s.performStore e r
  | .cctl => s.performed r
  | .atomic op cas fetch =>
    match targetOf (e.paOf r) with
    | .host _ => if cas && decide (1 < r.parts.length) then s.performHostCas e r else s.performAtomic e r
    | .mem _ => if op = 10 && !fetch then s.performRedAdd e r else s.performAtomic e r
    | _ => s.performAtomic e r
  | _ => s

/-! ### At a peer (R328, R329, R336, R337) -/

/-- The bytes that a write entry leaves in its line, with their mask. -/
def lineBytes (rs : List Req) : List (Option Byte) :=
  rs.foldl (fun (l : List (Option Byte)) r =>
    let lo := r.addr % 128
    let bs := (r.parts.head?.map (·.data)).getD []
    l.take lo ++ bs.map some ++ l.drop (lo + bs.length)) (List.replicate 128 none)

/-- The operands that an ATOM packet carries (R158, R329): those of a SUB are summed, and the peer subtracts the sum. -/
def Req.atomPayload (r : Req) : List Byte :=
  match r.kind with
  | .atomic op cas _ =>
    let f := fun (a b : Nat) => (atomicOp (if op = 1 then 0 else op) (8 * r.size) a b).1
    if cas then (r.parts.map fun p => p.cmp ++ p.data).flatten
    else if op = 9 then (r.parts.map (·.data)).flatten
    else leBytes r.size ((treeAll f r.leaves).getD 0)
  | _ => []

/-- The packet that asks a peer for the requests of one entry; off is the line's address in the peer's memory. A
reduction's ATOM is told apart by the MASKED bit, which an ATOM does not use otherwise (DESIGN CHOICE, log 22). -/
def State.entryPacket (s : State) (e : Entry) (rs : List Req) (dev off : Nat) : Option Packet :=
  match rs with
  | [] => none
  | r :: _ =>
    let mark := fun (p : Packet) => { p with score := e.core, scope := r.scope, order := r.order }
    let lo := (rs.map fun q => q.addr % 128).foldl min 127
    let hi := (rs.map fun q => q.addr % 128 + q.size).foldl max 0
    match r.kind with
    | .load | .ldds | .pref | .code => some (mark { s.packet typeRead dev (off + lo) [] with len := hi - lo })
    | .store =>
      let l := lineBytes rs
      let span := (l.drop lo).take (hi - lo)
      if span.all Option.isSome then some (mark (s.packet typeWrite dev (off + lo) (span.map fun b => b.getD 0)))
      else
        let mask := (List.range 128).foldl (fun a i => if (l.getD i none).isSome then a + 2 ^ i else a) 0
        some (mark { s.packet typeWrite dev off (l.map (fun b => b.getD 0) ++ leBytes 16 mask) with masked := true })
    | .atomic op _ fetch =>
      some (mark { s.packet typeAtom dev (off + r.addr % 128) r.atomPayload with aop := op, b64 := r.size == 8, masked := !fetch })
    | _ => none

/-- Send an entry's requests to a peer; a CCTL has no effect there, and a lost peer's requests meet their fate at once. -/
def State.askEntry (s : State) (e : Entry) (rs : List Req) (dev off : Nat) : State :=
  if s.fab.lost.contains dev then rs.foldl (fun t r => t.peerLostFate r dev) s
  else match s.entryPacket e rs dev off, s.freeTag with
    | some p, some tag =>
      if p.type = typeRead ∧ s.replyRoom p.len = false then s
      else (rs.foldl (fun (t : State) r => t.setPhase r.id (.remote e.id tag)) s).ask p tag (.entry e.id)
    | none, _ => rs.foldl (fun t r => t.performed r) s
    | _, none => s

/-! ### Homes and banks -/

/-- A request at a bank of the scratchpad, of the block's own mirror copy or of the A buffer. -/
def State.performBank (s : State) (r : Req) : State :=
  match s.block? r.blk with
  | none => s
  | some b =>
    let data := (r.parts.head?.map (·.data)).getD []
    match r.space, r.kind with
    | .scratch, .load => s.gotBytes r (b.scratch.read r.addr r.size)
    | .scratch, .store =>
      (s.modBlock b.id fun b => b.setScratch (barTouched (b.scratch.write r.addr data) r.addr r.size)).performed r
    | .scratch, .atomic .. =>
      let out := r.combine (ofLe (b.scratch.read r.addr r.size))
      let t := s.modBlock b.id fun b =>
        b.setScratch (barTouched (b.scratch.write r.addr (leBytes r.size out.1)) r.addr r.size)
      (t.modReq r.id fun q => { q with parts := out.2.1, phase := .done }).atomicFlags r out.2.2
    | .mirror, .load => s.gotBytes r (b.mirror.read r.addr r.size)
    | .mirror, .store =>
      (s.modBlock b.id fun b => { b with mirror := b.mirror.write r.addr data }).modReq r.id fun q =>
        { q with phase := .done, acks := s.clusterOf b }
    | .abuf, .load => s.gotBytes r (b.a.read r.addr r.size)
    | .abuf, .store => (s.modBlock b.id fun b => { b with a := b.a.write r.addr data }).performed r
    | _, _ => s.performed r

/-- Whether an earlier mirror store of its threads has not been performed at its own copy (R175). -/
def State.mirrorHolds (s : State) (r : Req) : Bool :=
  decide (r.space = .mirror) && r.isStore && s.reqs.any fun q => decide (q.space = .mirror) && q.isStore && q.before r && !q.isDone

/-- A write entry whose stores have been performed clears the poison of each sector that they cover (R313). -/
def State.clearCovered (s : State) (e : Entry) (rs : List Req) : State :=
  let done := rs.filter fun r => s.reqs.any fun q => q.id == r.id && q.isDone
  let l := lineBytes done
  let ks := (List.range 4).filter fun k => ((l.drop (32 * k)).take 32).all Option.isSome
  let pa := fun (k : Nat) => match targetOf (e.pa + 32 * k) with
    | .mem pa => some pa
    | .peer d off => if d = s.fab.device then some off else none
    | .host _ => none
  { s with mem := (ks.filterMap pa).foldl (fun m a => m.unpoison a 32) s.mem }

/-- The requests of an entry are performed at a home that this device reaches without the fabric. -/
def State.performEntry (s : State) (e : Entry) (rs : List Req) : State :=
  let t := rs.foldl (fun (t : State) r => t.performReq e r) s
  (if e.kind = .write then t.clearCovered e rs else t).pruneEntries

/-- HOME_REQUEST: the requests of a sent entry are performed together at their line's home, or sent to a peer's; a
request at a bank is performed there. -/
def execHomeRequest (entry : Nat) (s : State) : Host.Outcome State Fault Refusal :=
  match s.entries.find? fun e => e.id == entry with
  | none => .next s
  | some e =>
    let rs := (s.inEntry e.id).filter fun r => decide (r.phase = .accepted e.id)
    match e.kind with
    | .vnld _ | .vnst _ => .next s
    | .bank => if rs.all fun r => s.mayPerform r [] && !s.mirrorHolds r then .next ((rs.foldl State.performBank s).pruneEntries) else .next s
    | _ =>
      if !e.sent || rs.isEmpty || !s.homeReady e rs then .next s
      else match targetOf e.pa with
        | .peer d off =>
          if d = s.fab.device then .next (s.performEntry e rs)
          else .next ((s.askEntry e rs d off).pruneEntries)
        | _ => .next (s.performEntry e rs)

/-! ### Replies (R145, R166, R177) -/

/-- LOAD_SECTOR_REPLY: a performed read, or the value that an atomic fetched, reaches its lanes. Fills of an instruction
with parked lines are held in its entry (R146), and a remote-scope acquire's reply waits for its owner core (R177). -/
def execLoadSectorReply (req : Nat) (s : State) : Host.Outcome State Fault Refusal :=
  match s.req? req with
  | none => .next s
  | some r =>
    if decide (r.kind = .ldds) || !r.fetches then .next s
    else if r.isDone && s.allPerformed r.acks then
      .next (if (s.faultOf r).isSome then (s.setPhase r.id .fill).pruneEntries else (s.landRead r).leaveReq r)
    else if decide (r.phase = .fill) && (s.faultOf r).isNone && !s.inImage r then .next ((s.landRead r).leaveReq r)
    else .next s

/-- STORE_ACKNOWLEDGEMENT: a store is performed everywhere, and SC falls when it was the instruction's last. -/
def execStoreAcknowledgement (req : Nat) (s : State) : Host.Outcome State Fault Refusal :=
  match s.req? req with
  | none => .next s
  | some r =>
    if r.isDone && !r.fetches && (if r.owner.isSome then s.allPerformed r.acks else r.acks.isEmpty) then
      .next (s.leaveReq r)
    else .next s

/-- Local bytes of an engine command land in their block's share, and are counted on its barrier object (R166, R235).
They are plain stores (R243), so that landing over an object's own bytes they run its completion check (DEDUCED, log 14). -/
def Cmd.landFlight (k : Cmd) (b : Block) (f : Nat × Nat × Nat × Nat × List Byte) : Block :=
  let w : Dws := k.dws
  let dst := w.dst + f.2.1 * w.dpitch + f.2.2.1
  let bs := f.2.2.2.2
  let put := fun (m : Memory) => m.write dst bs
  let b := match w.dspace with
    | 1 => b.setScratch (barTouched (put b.scratch) dst bs.length)
    | 2 => { b with a := put b.a }
    | _ => { b with w := put b.w }
  if w.mode = modeBar then b.setScratch (barLand b.scratch w.ctarget bs.length) else b

/-- Whether bytes of a command toward its block's W or A share must wait: an operation that the matrix engine accepted before
the command reads the share as it was then (10 R183). -/
def State.behindMatrix (s : State) (k : Cmd) : Bool :=
  decide (2 ≤ Dws.dspace k.dws) && s.mtxq.any fun o => o.blk == k.blk && !o.started && decide (o.id < k.id)

/-- BYTES_LAND: the bytes of an LDDS lane, after its threads' earlier accesses to them, or of one piece of an engine
command, land. -/
def execBytesLand (item : Nat) (s : State) : Host.Outcome State Fault Refusal :=
  match s.req? item with
  | some r =>
    if decide (r.kind ≠ .ldds) then .next s
    else if r.isDone && (s.faultOf r).isSome then .next (s.setPhase r.id .fill).pruneEntries
    else if (r.isDone || decide (r.phase = .fill)) && (s.faultOf r).isNone && s.mayLand r && !s.inImage r then .next ((s.landRead r).leaveReq r)
    else .next s
  | none =>
    match s.cmds.find? fun k => k.flight.any fun f => f.1 == item && !f.2.2.2.2.isEmpty with
    | none => .next s
    | some k =>
      match k.flight.find? fun f => f.1 == item with
      | none => .next s
      | some f =>
        if s.behindMatrix k then .next s
        else .next ({ s with cmds := s.cmds.map fun (q : Cmd) =>
            if q.id = k.id then { q with flight := q.flight.filter fun g => g.1 != item } else q }.modBlock k.blk fun b =>
          k.landFlight b f)

/-- MIRROR_STORE_LAND: a mirror store lands in one copy of its cluster, after every earlier mirror store of its thread has
(R175). item numbers the request and, in its low four bits, the copy among those in which it has still to land. -/
def execMirrorStoreLand (item : Nat) (s : State) : Host.Outcome State Fault Refusal :=
  match s.req? (item / 16) with
  | none => .next s
  | some r =>
    match r.acks[item % 16]? with
    | none => .next s
    | some b =>
      let earlier := s.reqs.any fun q => decide (q.space = .mirror) && q.isStore && q.before r
        && (!q.isDone || q.acks.contains b)
      if decide (r.space ≠ .mirror) || !r.isDone || earlier then .next s
      else
        .next ((s.modBlock b fun b => { b with mirror := b.mirror.write r.addr ((r.parts.head?.map (·.data)).getD []) }).modReq
          r.id fun q => { q with acks := q.acks.filter (· != b) })

/-! ### Version lines (R211, R212, R214, R216) -/

/-- The region of an entry's line, if it is live. -/
def State.entryRegion (s : State) (e : Entry) : Option Region := s.regionAt e.ctx (128 * e.line)

/-- Apply a VNST line to its region, against its home slice's copies of P and F: refused, stored, or, with no record free,
none (R211, R212). -/
def State.applyVnst (s : State) (e : Entry) (rs : List Req) (g : Region) (v : Nat) : Option State :=
  let c := g.copyAt e.pa
  if v ≤ c.1 then some (rs.foldl (fun (t : State) r => t.lateRefuse r .versionSealed 7) s)
  else if g.topOf c.2 < v then some (rs.foldl (fun (t : State) r => t.lateRefuse r .versionRange 7) s)
  else
    let g' := rs.foldl (fun (g : Region) r => g.store r.addr v ((r.parts.head?.map (·.data)).getD [])) g
    (g'.charge g).map fun g2 => rs.foldl (fun (t : State) r => t.performed r) (s.modRegion g.launch g.num fun _ => g2)

/-- VNST_APPLY: a VNST line reaches its home; without a free record its lines are held and their lanes take
VERSION_POOL_EXHAUSTED (R212). -/
def execVnstApply (entry : Nat) (s : State) : Host.Outcome State Fault Refusal :=
  match s.entries.find? fun e => e.id == entry with
  | none => .next s
  | some e =>
    let rs := (s.inEntry e.id).filter fun r => decide (r.phase = .accepted e.id)
    match e.kind with
    | .vnst v =>
      if !e.sent || rs.isEmpty || !s.homeReady e rs then .next s
      else
        let s := s.reachSlice e.ctx (128 * e.line) e.pa
        match s.entryRegion e with
        | none => .next (rs.foldl (fun (t : State) r => t.lateRefuse r .notVersioned 7) s)
        | some g =>
          match s.applyVnst e rs g v with
          | some t => .next t.pruneEntries
          | none =>
            if s.faultsFull e.core then .next s
            else
              .next (rs.foldl (fun (t : State) r =>
                (t.setPhase r.id (.held e.id)).modGroup r.blk r.grp fun q =>
                  q.addAfter ⟨r.insn, .versionPoolExhausted, r.takers, true, BitVec.ofNat 64 r.addr, fkindOf 7 7 r.size,
                    s.fpcOf r⟩) s)
    | _ => .next s

/-- A held line is sent again to its home slice by the core that holds it: it lands, is refused, or stays held (R212). One that
has moved into an image is held by no core (R224, log 39). -/
def State.retryLine (s : State) (e : Entry) : State :=
  let rs := (s.inEntry e.id).filter fun r => r.isHeld && !s.inImage r
  let s := if rs.isEmpty then s else s.reachSlice e.ctx (128 * e.line) e.pa
  match e.kind, s.entryRegion e with
  | .vnst v, some g => if rs.isEmpty then s else ((s.applyVnst e rs g v).map State.pruneEntries).getD s
  | _, _ => s

/-- What the bytes of an engine command leave at a place of a version: a REDCOPY applies them to the value there (R235). -/
def State.versionBytes (s : State) (k : Cmd) (g : Region) (h : HeldLine) : List Byte :=
  if k.w.op = opRedcopy then
    redBytesInto k.w.rfmt k.w.rop (g.valueAt h.va h.ver (s.mem.read (s.keySerial h.key) h.pa h.bytes.length)) h.bytes
  else h.bytes

/-- An engine's held lines of a region land where a record is free now (R237); a REDCOPY whose old value is poisoned stops
(R239). -/
def State.retryHeld (s : State) (k : Cmd) (g : Region) : State :=
  k.heldAt.foldl (fun (t : State) (h : HeldLine) =>
    match t.region? g.launch g.num with
    | none => t
    | some g =>
      if !g.holds h.va then t
      else if k.w.op = opRedcopy ∧ t.mem.poisoned h.pa h.bytes.length = true then
        { t with cmds := t.cmds.map fun (q : Cmd) =>
            if q.id = k.id then { q with fail := some (.mcEnginePoison, h.va, fkindOf 5 6 0) } else q }
      else match (g.store h.va h.ver (t.versionBytes k g h)).charge g with
        | none => t
        | some g2 =>
          { t.modRegion g.launch g.num fun _ => g2 with
            cmds := t.cmds.map fun (q : Cmd) => if q.id = k.id then { q with heldAt := q.heldAt.filter fun x => decide (x ≠ h) } else q })
    s

/-- POOL_RETRY: when reclamation has freed records of a region, its home signals so, and every held line of it is sent again; a
group that waits for its held lines goes on when the last has landed (R212). region numbers the launch and, in its low eight
bits, the region. -/
def execPoolRetry (region : Nat) (s : State) : Host.Outcome State Fault Refusal :=
  match s.region? (region / 256) (region % 256) with
  | none => .next s
  | some g =>
    if !g.signal then .next s
    else
      let s := s.modRegion g.launch g.num fun r => { r with signal := false }
      let es := s.entries.filter fun e => e.ctx == g.ctx && g.holds (128 * e.line)
      let t := es.foldl State.retryLine s
      let t := (t.cmds.filter fun k => k.launch == g.launch).foldl (fun (t : State) k => t.retryHeld k g) t
      .next { t with
        cmds := t.cmds.map fun (k : Cmd) =>
          if k.launch = g.launch ∧ (k.regs.any fun r => r.1 == g.num) = true then { k with stalled := false } else k
        blocks := t.blocks.map fun b =>
          { b with groups := b.groups.zipIdx.map fun (p : Group × Nat) =>
              { p.1 with poolPark := p.1.poolPark && t.reqs.any fun r => r.blk == b.id && r.grp == p.2 && r.isHeld } } }

/-- Answer a VNLD line with the values of its version. -/
def State.answerVnld (s : State) (e : Entry) (rs : List Req) (g : Region) (v : Nat) : State :=
  rs.foldl (fun (t : State) r =>
    if t.mem.poisoned (e.paOf r) r.size then t.lateRefuse r .mcDataPoison 6
    else t.gotBytes r (g.valueAt r.addr v (t.mem.read (t.keySerial e.key) (e.paOf r) r.size))) s

/-- The entries of a slice's wait list in use. -/
def State.waitListed (s : State) (slice : Nat) : Nat :=
  (s.entries.filter fun e => sliceOf e.pa == slice && (s.inEntry e.id).any Req.isBlocked).length

/-- VNLD_HOME: a VNLD line reaches its home and is refused, answered, blocked, or told to retry, by the slice's copies of P
and F (R214, R216). -/
def execVnldHome (entry : Nat) (s : State) : Host.Outcome State Fault Refusal :=
  match s.entries.find? fun e => e.id == entry with
  | none => .next s
  | some e =>
    let rs := (s.inEntry e.id).filter fun r => decide (r.phase = .accepted e.id)
    match e.kind with
    | .vnld v =>
      if !e.sent || rs.isEmpty || !s.homeReady e rs then .next s
      else
        let s := s.reachSlice e.ctx (128 * e.line) e.pa
        match s.entryRegion e with
        | none => .next (rs.foldl (fun (t : State) r => t.lateRefuse r .notVersioned 7) s)
        | some g =>
          let c := g.copyAt e.pa
          if v < c.2 then .next (rs.foldl (fun (t : State) r => t.lateRefuse r .versionReclaimed 7) s)
          else if v ≤ c.1 then .next (s.answerVnld e rs g v).pruneEntries
          else if s.waitListed (sliceOf e.pa) < 512 then
            .next (rs.foldl (fun (t : State) r => t.setPhase r.id (.blocked e.id)) s)
          else .next (rs.foldl (fun (t : State) r => t.setPhase r.id (.retry e.id s.cc)) s)
    | _ => .next s

/-- VNLD_WAKE: a blocked VNLD line is answered with its value when the slice's copy of P has reached its version (R216); what
is left of one whose thread has been cancelled is discarded by its core (R295). -/
def execVnldWake (entry : Nat) (s : State) : Host.Outcome State Fault Refusal :=
  match s.entries.find? fun e => e.id == entry with
  | none => .next s
  | some e =>
    let rs := (s.inEntry e.id).filter Req.isBlocked
    match e.kind, s.entryRegion e with
    | .vnld v, some g =>
      if rs.isEmpty || decide (g.pub < v) then .next s
      else .next ((s.modRegion g.launch g.num fun r => r.syncAt e.pa).answerVnld e rs g v).pruneEntries
    | .vnld _, none => .next (rs.foldl (fun (t : State) r => t.lateRefuse r .notVersioned 7) s)
    | _, _ => .next s

/-- VNLD_RETRY: a VNLD line told RETRY is sent again 256 cc later, when the table of its core has room (R144, R216). -/
def execVnldRetry (entry : Nat) (s : State) : Host.Outcome State Fault Refusal :=
  match s.entries.find? fun e => e.id == entry with
  | none => .next s
  | some e =>
    if tableSize ≤ s.tableUsed e.core then .next s
    else .next { s with reqs := s.reqs.map fun r =>
      match r.phase with
      | .retry f t => if f = entry ∧ t + 256 ≤ s.cc then { r with phase := .accepted f } else r
      | _ => r }

/-- Merge the records of one line that the floor has passed into the newest of them (R214). -/
def Region.reclaim (g : Region) (line : Nat) : Region :=
  let old := g.recs.filter fun x => x.line == line && decide (x.ver ≤ g.floor)
  match leastBy (fun (x : VRec) => 0xFFFF_FFFF - x.ver) old with
  | none => g
  | some b =>
    let older := sortBy (fun (x : VRec) => 0xFFFF_FFFF - x.ver) (old.filter fun x => x.ver != b.ver)
    let merged := older.foldl (fun (b : VRec) o =>
      { b with
        data := tab 128 fun i => if b.mask.getLsbD i then b.data[i]?.getD 0 else if o.mask.getLsbD i then o.data[i]?.getD 0 else b.data[i]?.getD 0
        mask := b.mask ||| o.mask }) b
    { g with
      recs := (g.recs.filter fun x => !(x.line == line && decide (x.ver < b.ver))).map fun x =>
        if x.line = line ∧ x.ver = b.ver then merged else x
      free := g.free + older.length }

/-- Whether a line still owes a blocked VNLD the value of a version that has been published (R216). -/
def State.owesLine (s : State) (g : Region) (line : Nat) : Bool :=
  s.entries.any fun e => e.ctx == g.ctx && e.line == line && (s.inEntry e.id).any Req.isBlocked && match e.kind with
    | .vnld v => decide (v ≤ g.pub)
    | _ => false

/-- RECLAMATION (R214): a slice, which has acknowledged the floor, reclaims one line, and the home signals it when records
come free (R212). region numbers the launch and, in its low eight bits, the region. -/
def execReclamation (region line : Nat) (s : State) : Host.Outcome State Fault Refusal :=
  match s.region? (region / 256) (region % 256) with
  | none => .next s
  | some g =>
    if s.owesLine g line then .next s
    else
      let g2 := match (s.context? g.ctx).map fun c => s.walk c (128 * line) with
        | some (.ok pa _ _ _) => g.syncAt (Xlat.addr pa (128 * line))
        | _ => g
      let g3 := g2.reclaim line
      .next (s.modRegion g.launch g.num fun _ => { g3 with signal := g3.signal || decide (g.free < g3.free) })

end Sys2Proof.Machine
end

