-- ==== Sys2Proof/Machine/Engine.lean ====
section
/-!
DEFINITION. The events of the matrix engine (10_matrix.md R183, R190, R199, R200): what an accepted operation does next, its
retirement, and the rendezvous of a gang.
-/

namespace Sys2Proof.Machine

/-! ### Reading a TLD's source (R199) -/

/-- The sectors that a TLD needs next: its pointers or ids, then its column indices, then its elements and scale pairs. A
ROWSET whose ids are out of range needs nothing more. -/
def MtxOp.needs (o : MtxOp) : List Nat :=
  if !o.have_ o.stage1 then o.stage1
  else if !o.have_ o.stage2 then o.stage2
  else if o.srcRows.any fun r => match r with | some r => decide (o.h.rows ≤ r) | none => false then []
  else o.stage3

/-- Send for sectors, as global loads of the threads of the lane set. -/
def State.askSectors (s : State) (o : MtxOp) (ss : List Nat) : State :=
  match o.insns.head?, o.lanes.head? with
  | some (grp, insn), some (_, m) =>
    let rs := ss.zipIdx.map fun (q : Nat × Nat) =>
      unitReq (s.nextId + q.2) insn o.core o.blk grp m .load (32 * q.1) 32
    { s with
      nextId := s.nextId + ss.length
      reqs := s.reqs ++ rs
      mtxq := s.mtxq.map fun (q : MtxOp) => if q.id = o.id then { q with asked := q.asked ++ ss } else q }
  | _, _ => s

/-- Whether a TLD has sectors to send for. -/
def MtxOp.tldReady (o : MtxOp) : Bool :=
  decide (o.kind = .tld) && !o.started
    && (o.needs.any fun n => !o.asked.contains n)

/-- Whether a TLD has its whole source, or ids that it refuses, and its turn has come. -/
def MtxOp.tldWhole (o : MtxOp) (q : List MtxOp) : Bool :=
  decide (o.kind = .tld) && !o.started && o.have_ o.stage1 && o.have_ o.stage2 && o.have_ o.needs
    && q.all fun e => !(e.blk == o.blk && decide (e.id < o.id)) || e.started

/-- MATRIX_ACCEPT: the engine goes on with the oldest operation of its queue that can: it sends for the sectors of a TLD's
source, or performs the TLD, and with it what waited behind it. -/
def execMatrixAccept (core : Nat) (s : State) : Host.Outcome State Fault Refusal :=
  match s.mtxq.find? fun o => o.core == core && (o.tldReady || o.tldWhole s.mtxq) with
  | none => .next s
  | some o =>
    if o.tldReady then .next (s.askSectors o (distinct (o.needs.filter fun n => !o.asked.contains n)))
    else .next ((s.mtxPerform o).mtxAdvance o.blk (s.mtxq.length + 1))

/-! ### Retirement (R183, R198, R200) -/

/-- Retire an operation: a TLD's bytes land in the A share, a TST updates its handle, the causes that it met wait in its
groups, its instructions complete when nothing of them is left, and what waited for it is performed. -/
def State.mtxRetire (s : State) (o : MtxOp) : State :=
  let s : State := { s with mtxq := s.mtxq.filter fun q => q.id != o.id }
  let s := s.modBlock o.blk fun b =>
    { b with
      a := o.aBytes.foldl (fun m r => m.write r.1 r.2) b.a
      th := match o.handle, o.newTh with
        | some i, some w => b.th.setIfInBounds i ((b.handle i).setIfInBounds 2 w)
        | _, _ => b.th }
  let s := o.lanes.foldl (fun (t : State) m => o.raises.foldl (fun (t : State) c =>
    let insn := ((o.insns.find? fun i => i.1 == m.1).map (·.2)).getD o.id
    t.modGroup o.blk m.1 fun g => g.addAfter ⟨insn, c, m.2, false, 0, 0, o.fpc⟩) t) s
  let s := if o.kind = .accld then s else o.insns.foldl (fun (t : State) i => t.settle o.blk i.1 i.2) s
  s.mtxAdvance o.blk (s.mtxq.length + 1)

/-- MATRIX_RETIRE: the oldest operation of the queue that has been performed retires. -/
def execMatrixRetire (core : Nat) (s : State) : Host.Outcome State Fault Refusal :=
  match s.mtxq.find? fun o => o.core == core && o.started with
  | none => .next s
  | some o => .next (s.mtxRetire o)

/-! ### The rendezvous of a gang (R190) -/

/-- A member of a rendezvous with what it is about to issue: its header, whether the header's conditions hold now (R21),
whether a register that it uses has become pending while it waited (R35), and its instruction. -/
structure Waiting where
  m      : Member
  hdr    : W32
  ok     : Bool
  pend   : Bool
  shadow : Bool
  sh     : List Nat
  gang   : W16

/-- The lane set of a group that waits at the latch, with its instruction; none when its words cannot be read now, or are no
longer those of an MMA. -/
def State.waitingAt (s : State) (b : Block) (l : Launch) (grp : Nat) : Option Waiting :=
  let g := b.group grp
  let m := g.atLatch
  let x := g.lane (lowest m)
  let p := x.place
  match s.peekCode b.core l p.1.toNat with
  | none => none
  | some w =>
    let i : Issue := ⟨b.id, grp, m, p.2, p.1, hdrCls w, hdrCnt w, none⟩
    let c : Ctx := ⟨i, b, g, g, l⟩
    let ok := x.hdr.isSome || (g.headerOk w).1
    match x.hdr.isNone && (headerCause w p.1.toNat l.lr.codeSize).isSome, (s.fetchInstr b.core l i).1 with
    | false, .run (.mma t) =>
      some ⟨⟨grp, m, c.on t.g, p.2, t⟩, p.1, ok, g.awaits (c.uses s (.mma t)) m, false, c.shapes t, g.gang⟩
    | false, .run (.mmas t) =>
      some ⟨⟨grp, m, c.on t.g, p.2, t⟩, p.1, ok, g.awaits (c.uses s (.mmas t)) m, true, c.shapes t, g.gang⟩
    | _, _ => none

/-- The lanes of a member that take a cause. -/
def Waiting.takers (w : Waiting) : Mask := if w.m.on = 0 then w.m.lanes else w.m.on

/-- Whether two members' instructions agree in all but REUSE. -/
def Waiting.agrees (a b : Waiting) : Bool :=
  a.shadow == b.shadow && a.m.x.slot == b.m.x.slot && a.m.x.flags.toNat / 2 == b.m.x.flags.toNat / 2
    && decide (a.m.x.b = b.m.x.b) && a.sh == b.sh && a.gang == b.gang

/-- What a member's own instruction raises, in an operation of n groups. -/
def Waiting.causes (w : Waiting) (b : Block) (lr : LRec) (n : Nat) : List Cause :=
  let fa := lr.slot w.m.x.slot.toNat
  let k := w.sh.getD 1 0
  let cs := mmaCauses b lr w.shadow fa (mmaSlotB b lr w.m.x) (mmaHandle b w.m.x) w.sh n
    ++ (b.group w.m.grp).aCauses w.m.x.a.vnum w.m.x.slot.toNat k ++ [(aPast w.m.x.a.vnum fa k, Cause.illegalOperand)]
  (cs.filter fun c => c.1).map fun c => c.2

/-- A matrix and handle cause (R204). -/
def jointCause (c : Cause) : Bool := decide (30 ≤ c.rank ∧ c.rank ≤ 41)

/-- The cause of lowest rank. -/
def lowestCause (cs : List Cause) : Option Cause := leastBy (fun (c : Cause) => c.rank) cs

/-- What each member raises: the lowest of its own causes and of the matrix and handle causes of all, GANG_MISMATCH among
them when the instructions do not agree (R190, R310). A cause of one member that is no matrix and handle cause is raised in
that member alone, and the others go on waiting (DEDUCED, log 28). -/
def gangCauses (b : Block) (lr : LRec) (ws : List Waiting) : List (Waiting × Cause) :=
  let agree := match ws with
    | [] => true
    | w :: vs => vs.all fun v => v.agrees w
  let all := ((ws.map fun w => w.causes b lr ws.length).flatten.filter jointCause)
    ++ if agree then [] else [.gangMismatch]
  ws.filterMap fun w => (lowestCause ((w.causes b lr ws.length).filter (fun c => !jointCause c) ++ all)).map fun c => (w, c)

/-- Let lane sets leave the latch: they stand before their instruction again. -/
def State.unlatch (s : State) (blk : Nat) (ms : List (Nat × Mask)) : State :=
  ms.foldl (fun (t : State) m => t.modGroup blk m.1 fun g => g.modLanes m.2 fun _ y => { y with st := .run }) s

/-- Members of a rendezvous raise their causes. -/
def State.gangRaise (s : State) (b : Block) (ws : List (Waiting × Cause)) : State :=
  ws.foldl (fun (t : State) w =>
    t.trap b.id w.1.m.grp { causes := [(w.2, w.1.takers)], set := w.1.m.lanes, tepc := w.1.m.pc, hdr := w.1.hdr })
    (s.unlatch b.id (ws.map fun w => (w.1.m.grp, w.1.m.lanes)))

/-- The groups that a gang value lists. -/
def gangList (gang : W16) : List Nat := (List.range 16).filter fun i => gang.getLsbD i

/-- The members issue together; with no flagged lane among a member's, the flags of its group clear (R62). -/
def State.gangIssue (s : State) (b : Block) (l : Launch) (ws : List Waiting) : State :=
  match ws with
  | [] => s
  | w :: _ =>
    let t := s.mmaIssue b l.lr w.shadow w.m.x w.sh (ws.map (·.m))
    ws.foldl (fun (t : State) v =>
      (t.passLanes b l v.m.grp v.m.lanes 5).modGroup b.id v.m.grp fun g =>
        let h := g.modLanes v.m.lanes fun _ y => y.tick
        if (lanesOf v.m.lanes).any fun k => (g.lane k).yielded then h else h.unflag)
      (t.unlatch b.id (ws.map fun v => (v.m.grp, v.m.lanes)))

/-- Whether something keeps a rendezvous from issuing: a header's condition, the queue, a latch or a shadow that an operation
under way has still to settle, or an access to the A buffer (R21, R183, R194). -/
def State.gangWaits (s : State) (b : Block) (ws : List Waiting) : Bool :=
  s.mtxFull b.core || s.shadowBusy b.id || ws.any fun v =>
    !v.ok || s.latchBusy b.id v.m.grp || !s.abufQuiet b.id v.m.grp || decide (255 ≤ (b.group v.m.grp).mc)

/-- GANG_RENDEZVOUS: each listed group has a lane set at the latch, and they issue together. A lane set whose words are no
longer those of an MMA leaves the latch. -/
def execGangRendezvous (blk : Nat) (gang : W16) (s : State) : Host.Outcome State Fault Refusal :=
  match s.block? blk with
  | none => .next s
  | some b =>
    match s.launch? b.launch with
    | none => .next s
    | some l =>
      let gs := gangList gang
      let there := gs.all fun i => (b.group i).atLatch != 0
      let named := gs.any fun i => (b.group i).gang == gang
      let ws := gs.filterMap fun i => s.waitingAt b l i
      if gs.isEmpty || !there || !named || !b.running then .next s
      else match gs.find? fun i => (s.waitingAt b l i).isNone with
        | some i =>
          let m := (b.group i).atLatch
          let p := ((b.group i).lane (lowest m)).place
          .next ((s.askFirst b l i m (p.1.toNat :: (List.range 5).map fun k => p.2.toNat + 8 * k)).getD
            (s.unlatch blk [(i, m)]))
        | none =>
          if s.shadowBusy blk || ws.any fun v => v.pend || s.latchBusy blk v.m.grp then .next s
          else match gangCauses b l.lr ws with
            | c :: cs => .next (s.gangRaise b (c :: cs))
            | [] => if s.gangWaits b ws then .next s else .next (s.gangIssue b l ws)

/-- GANG_MEMBER_EXITED: every thread of a listed group has exited, and those that wait for it trap. -/
def execGangMemberExited (blk : Nat) (gang : W16) (s : State) : Host.Outcome State Fault Refusal :=
  match s.block? blk with
  | none => .next s
  | some b =>
    match s.launch? b.launch with
    | none => .next s
    | some l =>
      let gs := gangList gang
      let gone := gs.any fun i => (b.group i).live == 0
      let ws := (gs.map fun i =>
        if (b.group i).gang == gang && (b.group i).atLatch != 0 then (s.waitingAt b l i).toList else []).flatten
      if gone && b.running && !ws.isEmpty then .next (s.gangRaise b (ws.map fun w => (w, .gangMemberExited))) else .next s

end Sys2Proof.Machine
end

