-- ==== Sys2Proof/Machine/Commands.lean ====
section
/-!
DEFINITION. The events of engine commands (12_engines.md R235 to R241; 13_retrieval.md R262; 20_prog_remotecopy.md R347): their
start, their pieces, their completion actions and their stops.
-/

namespace Sys2Proof.Machine

def State.cmd? (s : State) (id : Nat) : Option Cmd := s.cmds.find? fun k => k.id == id

def State.modCmd (s : State) (id : Nat) (f : Cmd → Cmd) : State :=
  { s with cmds := s.cmds.map fun k => if k.id = id then f k else k }

/-! ### The start (R235, R347) -/

/-- The peer, not this device, that a global address of a context names now. -/
def State.peerOf (s : State) (ctx va : Nat) : Option Nat :=
  match s.context? ctx with
  | none => none
  | some c =>
    match s.walk c va with
    | .ok pa _ _ _ => match targetOf (Xlat.addr pa va) with
      | .peer d _ => if d = s.fab.device then none else some d
      | _ => none
    | _ => none

/-- A range of addresses cut at pages of 4 KiB: each part's address and length. -/
def cutPages (va n : Nat) : List (Nat × Nat) :=
  if n = 0 then []
  else (List.range ((va + n - 1) / 4096 - va / 4096 + 1)).map fun i =>
    let a := max va ((va / 4096 + i) * 4096)
    (a, min (va + n) ((va / 4096 + i + 1) * 4096) - a)

/-- The bytes of some pieces that are bound for a peer now. -/
def State.boundFor (s : State) (k : Cmd) (ts : List (Nat × Nat × Nat)) (dev : Nat) : Nat :=
  (ts.flatMap fun t => (cutPages (k.w.dst + t.1 * k.w.dpitch + t.2.1) t.2.2).filterMap fun p =>
    if s.peerOf k.ctx p.1 = some dev then some p.2 else none).foldl (· + ·) 0

/-- The peers that some pieces are bound for now, in the order in which they come. -/
def State.peersOf (s : State) (k : Cmd) (ts : List (Nat × Nat × Nat)) : List Nat :=
  distinct (ts.flatMap fun t => (cutPages (k.w.dst + t.1 * k.w.dpitch + t.2.1) t.2.2).filterMap fun p => s.peerOf k.ctx p.1)

/-- A command begins to reach a peer with some pieces: those of its bytes that the window does not hold are demanded before its
first WRITE there (R347). -/
def State.engage (s : State) (k : Cmd) (ts : List (Nat × Nat × Nat)) (dev : Nat) : State :=
  let total := s.boundFor k ts dev
  let u := if k.w.op = opRedcopy then redBytes k.w.rfmt else 1
  let unused := (unsolWindow - (s.pace dev).unsol) / u * u
  let t := s.modCmd k.id fun q => { q with far := q.far ++ [⟨dev, min total unused, (s.pace dev).demand, 0⟩] }
  if total ≤ unused ∨ s.fab.lost.contains dev then t else t.demandMore dev (total - unused)

/-- ENGINE_COMMAND_START: commands start in acceptance order; one with FENCE waits until every earlier one of its queue
has completed. One bound for peers demands of each what the window does not hold (R347). -/
def execEngineCommandStart (cmd : Nat) (s : State) : Host.Outcome State Fault Refusal :=
  match s.cmd? cmd with
  | none => .next s
  | some k =>
    let earlier := s.cmds.filter fun q => decide (q.id < k.id) && q.inQueue k.core k.queue
    if k.started || earlier.any (fun q => !q.started) || (k.w.fence && !earlier.isEmpty) then .next s
    else
      let t := s.modCmd cmd fun q => { q with started := true }
      let ds := if k.queue ≠ 5 ∧ k.w.dspace = 0 then s.peersOf k k.todo else []
      .next (ds.foldl (fun (t : State) d => t.engage k k.todo d) t)

/-! ### Reaching memory (R239) -/

/-- What an engine meets at a byte range of one line of global memory. -/
inductive Reach where
  | at (pa key : Nat)
  | remote (dev off : Nat)
  | park (reason : Nat)
  | stop (c : Cause) (reason : Nat)

/-- Translate for an engine, through the context's tables. -/
def State.reach (s : State) (k : Cmd) (va n : Nat) (write : Bool) : Reach × State :=
  match s.context? k.ctx with
  | none => (.stop .engineAbort 4, s)
  | some c =>
    let (x, t) := s.translate k.core c va
    match x with
    | .invalid => (.park 0, t)
    | .malformed => (.stop .engineAbort 3, t)
    | .unmapped => (.stop .engineAbort 4, t)
    | .ok base key w _ =>
      let pa := Xlat.addr base va
      if write && !w then (.park 1, t)
      else if decide (k.queue = 0) && !isLocal pa n then (.stop .engineAbort 4, t)
      else match targetOf pa with
        | .peer d off =>
          if d = s.fab.device then (if s.selfDenied pa n write then (.stop .engineAbort 4, t) else (.at pa key, t))
          else if s.fab.lost.contains d then (.stop .enginePeerLost 4, t)
          else (.remote d off, t)
        | _ => (.at pa key, t)

/-- Park a command on a page: it is reported with the command's tag (R239). -/
def State.parkCmd (s : State) (k : Cmd) (va : Nat) (access reason : Nat) : State :=
  (s.modCmd k.id fun q => { q with parked := some (va, access, reason) }).report k.ctx k.core va (fkindOf access reason 0)
    (some k.id) k.w.tag

/-- Note why a command is to stop. -/
def State.failCmd (s : State) (k : Cmd) (c : Cause) (va access reason : Nat) : State :=
  s.modCmd k.id fun q => { q with fail := some (c, va, fkindOf access reason 0) }

/-- Ask a peer for bytes that an HX command reads (R131, R262), once. -/
def State.askIds (s : State) (k : Cmd) (va dev off n : Nat) : State :=
  if k.flight.any fun f => f.2.1 == va && f.2.2.2.1 == n then s
  else match (if s.replyRoom n then s.freeTag else none) with
    | none => s
    | some tag =>
      let p := { s.packet typeRead dev off [] with len := n, scope := 5 }
      (s.modCmd k.id fun q => { q with flight := q.flight ++ [(tag, va, 0, n, [])] }).ask p tag (.cmdRead k.id va 0 n)

/-- Where a read of a command lies: the row and place of a piece, or the address itself for an HX command. -/
def Cmd.readAt (k : Cmd) (row lo : Nat) : Nat := if k.queue = 5 then row else k.w.src + row * k.w.spitch + lo

/-- Bytes of an engine's global source at this device's homes, by lines; or the state in which it parks, stops or cannot
go on. What an HX command has been answered by a peer stands in its buffer; a peer's bytes for a piece are asked for
elsewhere. -/
def State.engineRead (s : State) (k : Cmd) (va n : Nat) : Except State (List Byte × State) :=
  (cutLines (n / 128 + 2) va (List.replicate n 0)).foldl (fun (st : Except State (List Byte × State)) p =>
    match st with
    | .error t => .error t
    | .ok (bs, t) =>
      match t.reach k p.1 p.2.length false with
      | (.park r, t) => .error (t.parkCmd k p.1 4 r)
      | (.stop c r, t) => .error (t.failCmd k c p.1 4 r)
      | (.remote d off, t) =>
        if k.queue ≠ 5 then .error t
        else match k.buf.find? fun b => b.1 == p.1 && b.2.length == p.2.length with
          | some b => .ok (bs ++ b.2, t)
          | none => .error (t.askIds k p.1 d off p.2.length)
      | (.at pa key, t) =>
        let t := t.reachSlice k.ctx p.1 pa
        match t.readHome k.ctx p.1 pa key p.2.length with
        | .bytes x => .ok (bs ++ x, t)
        | .poisoned => .error (t.failCmd k .mcEnginePoison p.1 4 6)
        | _ => .error (t.failCmd k .engineAbort p.1 4 4)) (.ok ([], s))

/-- Whether a launch is being killed: what its commands find no version record for is discarded with its regions (R207). -/
def State.stopping (s : State) (launch : Nat) : Bool := (s.launch? launch).any fun l => l.stopping.isSome

/-! ### The pieces of COPY, FILL and REDCOPY (R235) -/

def Cmd.srcAt (k : Cmd) (row lo : Nat) : Nat := k.w.src + row * k.w.spitch + lo
def Cmd.dstAt (k : Cmd) (row lo : Nat) : Nat := k.w.dst + row * k.w.dpitch + lo

/-- Whether a range lies in one line of 128 B. -/
def oneLine (a n : Nat) : Bool := decide (0 < n ∧ a / 128 = (a + n - 1) / 128)

/-- Whether a range lies in one aligned block of a size. -/
def oneBlock (unit a n : Nat) : Bool := decide (0 < n ∧ a / unit = (a + n - 1) / unit)

/-- The most bytes of a WRITE to a peer, and of the aligned block that it lies in: 2 KiB; in 8-device wiring one line, since the
lines of a block go by different ports (R325, R335, R347). -/
def State.farUnit (s : State) : Nat := if s.fab.wiring = 8 then 128 else 2048

/-- Whether a command's read from a peer for a row has not been answered. -/
def State.readsRow (s : State) (k : Cmd) (row : Nat) : Bool :=
  s.fab.txns.any fun x => match x.waiter with | .cmdRead id r _ _ => id == k.id && r == row | _ => false

/-- Whether a piece is still to do, in whole elements. On this device it lies in one line on each global side; one bound for a
peer lies in one block of a WRITE there, and is the lowest of its row that is left, with no read of the row under way (R347). -/
def State.mayMove (s : State) (k : Cmd) (row lo len : Nat) : Bool :=
  let u := if k.w.op = opRedcopy then redBytes k.w.rfmt else 1
  let toPeer := k.w.dspace == 0 && (s.peerOf k.ctx (k.dstAt row lo)).isSome
  let wide := toPeer && (s.peerOf k.ctx (k.srcAt row lo)).isNone
  k.started && k.parked.isNone && k.fail.isNone && decide (0 < len ∧ lo % u = 0 ∧ len % u = 0)
    && (k.todo.any fun t => t.1 == row && decide (t.2.1 ≤ lo ∧ lo + len ≤ t.2.1 + t.2.2))
    && (k.w.op == opFill || k.w.sspace != 0 || wide || oneLine (k.srcAt row lo) len)
    && (k.w.dspace != 0 || (if toPeer then oneBlock s.farUnit (k.dstAt row lo) len else oneLine (k.dstAt row lo) len))
    && (!toPeer || !s.readsRow k row && k.todo.all fun t => t.1 != row || decide (lo ≤ t.2.1))

/-- Take a piece out of what is to do. -/
def Cmd.take (k : Cmd) (row lo len : Nat) : Cmd :=
  { k with todo := (k.todo.map fun (t : Nat × Nat × Nat) =>
      if t.1 = row ∧ t.2.1 ≤ lo ∧ lo + len ≤ t.2.1 + t.2.2 then
        [(row, t.2.1, lo - t.2.1), (row, lo + len, t.2.1 + t.2.2 - (lo + len))].filter fun q => decide (0 < q.2.2)
      else [t]).flatten }

/-- Put a piece back. -/
def Cmd.untake (k : Cmd) (row lo len : Nat) : Cmd := { k with todo := k.todo ++ [(row, lo, len)] }

/-- The aop code of R156 that a reduction travels to a peer with; the two 16-bit formats use the float codes with 2-byte
operands (DESIGN CHOICE, log 22). -/
def redAop (rfmt rop : Nat) : Nat :=
  match rfmt, rop with
  | 0, 0 | 1, 0 | 2, 0 | 3, 0 => 0
  | 0, 1 | 2, 1 => 5
  | 0, _ | 2, _ => 6
  | 1, 1 | 3, 1 => 7
  | 1, _ | 3, _ => 8
  | _, 0 => 10
  | _, 1 => 11
  | _, _ => 12

/-- A command that reaches a peer where it was not seen to be bound when it started: it begins to reach it with what is left,
the present piece and the pieces it is reading among it. -/
def State.engageLate (s : State) (id dev row lo len : Nat) : State :=
  match s.cmds.find? fun k => k.id == id with
  | none => s
  | some k =>
    let reading := s.fab.txns.filterMap fun x => match x.waiter with
      | .cmdRead i r l n => if i = id then some (r, l, n) else none
      | _ => none
    if k.far.any fun f => f.dev == dev then s else s.engage k ((row, lo, len) :: k.todo ++ reading) dev

/-- What a command may send to a peer, changed. -/
def State.modFar (s : State) (id dev : Nat) (f : PeerPart → PeerPart) : State :=
  s.modCmd id fun q => { q with far := q.far.map fun x => if x.dev = dev then f x else x }

/-- Let n bytes of a command go to a peer: first those within the window, as it stood when the command began to reach it; the
rest as the cumulative grant covers what the command asked for (R347). The Bool says that the window holds them. -/
def State.letBytes (s : State) (id dev n : Nat) : Option (State × Bool) :=
  match (s.cmds.find? fun k => k.id == id).bind fun k => k.far.find? fun f => f.dev == dev with
  | none => none
  | some f =>
    if n ≤ f.win then
      (if s.inWindow dev n then some ((s.useWindow dev n).modFar id dev fun f => { f with win := f.win - n }, true) else none)
    else if f.win = 0 ∧ f.base + f.under + n ≤ (s.pace dev).grantIn then
      some ((s.useGrant dev n).modFar id dev fun f => { f with under := f.under + n }, false)
    else none

/-- Store the bytes of one piece at their destination in global memory; the piece has been taken out. -/
def State.engineStore (s : State) (k : Cmd) (row lo : Nat) (bs : List Byte) : State :=
  let va := k.dstAt row lo
  let back := fun (t : State) => t.modCmd k.id fun q => q.untake row lo bs.length
  let red := k.w.op == opRedcopy
  match s.reach k va bs.length true with
  | (.park r, t) => (back t).parkCmd k va 5 r
  | (.stop c r, t) => t.failCmd k c va 5 r
  | (.remote d off, t) =>
    let t := t.engageLate k.id d row lo bs.length
    match t.freeTag, t.letBytes k.id d bs.length with
    | some tag, some (u, unsol) =>
      let p := if red then
          { t.packet typeAtom d off bs with
            aop := redAop k.w.rfmt k.w.rop, b64 := bs.length == 8 || k.w.rfmt == 11, masked := true, tag := tag, scope := 5 }
        else { t.packet typeWrite d off bs with tag := tag, scope := 5 }
      ((u.addTxn ⟨tag, d, bs.length, off, 0, unsol, .cmdWrite k.id row lo bs.length⟩).modCmd k.id fun q =>
        { q with flight := q.flight ++ [(tag, row, lo, bs.length, [])] }).send p
    | _, _ => back t
  | (.at pa key, t) =>
    match (match targetOf pa with | .mem _ => t.regionAt k.ctx va | _ => none) with
    | some g =>
      if k.w.mode ≠ modeVer then t.failCmd k .versionPlainWrite va 5 7
      else if red && t.mem.poisoned pa bs.length then t.failCmd k .mcEnginePoison va 5 6
      else
        let h : HeldLine := ⟨va, k.w.ver, pa, key, bs⟩
        match (g.store va h.ver (t.versionBytes k g h)).charge g with
        | some g2 => t.modRegion g.launch g.num fun _ => g2
        | none => if t.stopping k.launch then t else t.modCmd k.id fun q => { q with heldAt := q.heldAt ++ [h] }
    | none =>
      if !red then t.writeHome pa key bs
      else match t.readHome k.ctx va pa key bs.length with
        | .bytes old => t.writeHome pa key (redBytesInto k.w.rfmt k.w.rop old bs)
        | .poisoned => t.failCmd k .mcEnginePoison va 5 6
        | _ => t.failCmd k .engineAbort va 5 4

/-- The bytes of one piece reach its destination: a local one through the air, counted when they land. -/
def State.enginePut (s : State) (k : Cmd) (row lo : Nat) (bs : List Byte) : State :=
  if k.w.dspace = 0 then s.engineStore k row lo bs
  else s.fresh.modCmd k.id fun q => { q with flight := q.flight ++ [(s.nextId, row, lo, bs.length, bs)] }

/-- The bytes of a local source. -/
def State.localSource (s : State) (k : Cmd) (a n : Nat) : List Byte :=
  let m := match s.block? k.blk with
    | some b => (b.scratch, b.a)
    | none => k.kept.getD ([], [])
  if k.w.sspace = 1 then m.1.read a n else m.2.read a n

/-- Move one piece of a command. -/
def State.movePiece (s : State) (k : Cmd) (row lo len : Nat) : State :=
  let t := s.modCmd k.id fun q => q.take row lo len
  if k.w.op = opFill then
    t.enginePut k row lo ((List.range len).map fun i => BitVec.ofNat 8 (k.w.src >>> (8 * ((lo + i) % 8))))
  else if k.w.sspace ≠ 0 then t.enginePut k row lo (t.localSource k (k.srcAt row lo) len)
  else
    let va := k.srcAt row lo
    match s.reach k va len false with
    | (.remote d off, t) =>
      match (if t.replyRoom len then t.freeTag else none) with
      | none => t
      | some tag =>
        let p := { t.packet typeRead d off [] with len := len, tag := tag, scope := 5 }
        (t.modCmd k.id fun q =>
          { q.take row lo len with flight := q.flight ++ [(tag, row, lo, len, [])] }).ask p tag (.cmdRead k.id row lo len)
    | _ =>
      match s.engineRead k va len with
      | .error t => t
      | .ok (bs, t) => (t.modCmd k.id fun q => q.take row lo len).enginePut k row lo bs

/-- COPY (R235): one piece of a row. -/
def execCopyCommand (cmd row lo len : Nat) (s : State) : Host.Outcome State Fault Refusal :=
  match s.cmd? cmd with
  | none => .next s
  | some k => if k.w.op = opCopy && s.mayMove k row lo len then .next (s.movePiece k row lo len) else .next s

/-- FILL (R235): one piece of a row. -/
def execFill (cmd row lo len : Nat) (s : State) : Host.Outcome State Fault Refusal :=
  match s.cmd? cmd with
  | none => .next s
  | some k => if k.w.op = opFill && s.mayMove k row lo len then .next (s.movePiece k row lo len) else .next s

/-- REDCOPY (R235): some whole elements of a row; one element where the destination is a peer's. -/
def execRedcopy (cmd row lo len : Nat) (s : State) : Host.Outcome State Fault Refusal :=
  match s.cmd? cmd with
  | none => .next s
  | some k =>
    let one := (s.peerOf k.ctx (k.dstAt row lo)).isNone || len == redBytes k.w.rfmt
    if k.w.op = opRedcopy && s.mayMove k row lo len && one then .next (s.movePiece k row lo len) else .next s

/-! ### HX commands (R262) -/

/-- The families of an HX command, as they were at acceptance. -/
def Cmd.fams (k : Cmd) : Option (List FamImg) :=
  famsOf (k.hf[0]?.getD (Vector.replicate 8 0)) (k.hf[1]?.getD (Vector.replicate 8 0))

/-- Go to the next id; what was refused is counted. -/
def State.hxNext (s : State) (k : Cmd) (stats : List Nat) : State :=
  (s.modCmd k.id fun q => { q with next := q.next + 1, buf := [] }).modBlock k.blk fun b => b.addStats k.w.hf stats

/-- Whether an HX command of an operation has something to do. -/
def Cmd.hxReady (k : Cmd) (op : Nat) : Bool :=
  k.started && k.parked.isNone && k.fail.isNone && k.queue == 5 && k.w.op == op && decide (k.next < k.w.rows) && !k.stalled

/-- Put an HX command's lines in place; with no record free the engine holds them until the home signals a reclamation
(R237). -/
def State.hxLand (s : State) (k : Cmd) (old : Region) (w : Lines) (stats : List Nat) : State :=
  match w.r.charge old with
  | none => if s.stopping k.launch then s.hxNext k stats else s.modCmd k.id fun q => { q with stalled := true }
  | some r => (s.modRegion old.launch old.num fun q => { q with recs := r.recs, free := r.free }).hxNext k stats

/-- Apply one id of an INSERT or DELETE. -/
def State.hxOne (s : State) (k : Cmd) (insert : Bool) : State :=
  let refused := [0, 0, 0, 0, 0, 0, 0, 1, 0]
  match k.fams, k.regs.head? with
  | some fs, some (num, v) =>
    match s.region? k.launch num with
    | none => s.hxNext k refused
    | some r =>
      let n := (fs.map FamImg.tables).foldl (· + ·) 0
      match s.engineRead k (k.w.src + 4 * k.next) 4 with
      | .error t => t
      | .ok (ib, t) =>
        let id := ofLe ib
        match (if insert then t.engineRead k (k.w.dst + 8 * k.next * n) (8 * n) else .ok ([], t)) with
        | .error t => t
        | .ok (cb, t) =>
          let codes := if insert then some ((List.range n).map fun i => ofLe ((cb.drop (8 * i)).take 4)) else none
          if fs.any fun f => decide (f.maxid ≤ id) then t.hxNext k refused
          else match Lines.reserve ⟨t, r, v⟩ fs id codes with
            | .error (.mcDataPoison, a) => t.failCmd k .mcEnginePoison a 4 6
            | .error _ => t.hxNext k refused
            | .ok w => t.hxLand k r w []
  | _, _ => s.hxNext k refused

/-- INSERT (R262): the next id. -/
def execInsert (cmd : Nat) (s : State) : Host.Outcome State Fault Refusal :=
  match s.cmd? cmd with
  | none => .next s
  | some k => if k.hxReady opInsert then .next (s.hxOne k true) else .next s

/-- DELETE (R262): the next id. -/
def execDelete (cmd : Nat) (s : State) : Host.Outcome State Fault Refusal :=
  match s.cmd? cmd with
  | none => .next s
  | some k => if k.hxReady opDelete then .next (s.hxOne k false) else .next s

/-- MERGE (R262): the family's side list is merged; a family that breaks R247 is left as it is and counted as refused. -/
def execMerge (cmd : Nat) (s : State) : Host.Outcome State Fault Refusal :=
  match s.cmd? cmd with
  | none => .next s
  | some k =>
    if !k.hxReady opMerge then .next s
    else
      let refused := [0, 0, 0, 0, 0, 0, 0, 1, 0]
      let f : FamImg := k.hf[0]
      match k.regs.head? with
      | none => .next (s.hxNext k refused)
      | some (num, v) =>
        match s.region? k.launch num with
        | none => .next (s.hxNext k refused)
        | some r =>
          match Lines.mergePoison ⟨s, r, v⟩ f, Lines.merge ⟨s, r, v⟩ f with
          | some a, _ => .next (s.failCmd k .mcEnginePoison a 4 6)
          | none, none => .next (s.hxNext k refused)
          | none, some (w, _, why, ev) => .next (s.hxLand k r w [0, 0, 0, 0, 0, 0, ev, why.length, 0])

/-! ### Completion and stopping (R236, R239) -/

/-- The ranges of global memory that a command has still to reach: the access, the address and the length. -/
def Cmd.ranges (k : Cmd) : List (Nat × Nat × Nat) :=
  let ids := k.w.rows - k.next
  let tables := ((k.fams.getD []).map FamImg.tables).foldl (· + ·) 0
  (if k.queue = 5 then
      (if k.w.op = opMerge then [] else [(4, k.w.src + 4 * k.next, 4 * ids)])
        ++ (if k.w.op = opInsert then [(4, k.w.dst + 8 * k.next * tables, 8 * ids * tables)] else [])
    else k.todo.flatMap fun t =>
      (if k.w.op ≠ opFill ∧ k.w.sspace = 0 then [(4, k.srcAt t.1 t.2.1, t.2.2)] else [])
        ++ (if k.w.dspace = 0 then [(5, k.dstAt t.1 t.2.1, t.2.2)] else []))
    ++ (if k.w.mode = modeWord ∧ k.w.wspace ≠ 1 then [(5, k.w.ctarget, 8)] else [])

/-- The first place at which a command has still to reach a peer: the access and the address. -/
def State.meets (s : State) (k : Cmd) (dev : Nat) : Option (Nat × Nat) :=
  k.ranges.findSome? fun x => (cutPages x.2.1 x.2.2).findSome? fun p =>
    if s.peerOf k.ctx p.1 = some dev then some (x.1, p.1) else none


/-- Whether every byte and id of a command has been performed. -/
def Cmd.finished (k : Cmd) : Bool :=
  k.started && k.todo.isEmpty && k.flight.isEmpty && k.heldAt.isEmpty && k.parked.isNone && k.fail.isNone
    && (k.queue != 5 || decide (k.w.rows ≤ k.next))

/-- A group's EC falls; that of a saved block falls in its image (R240, R315). -/
def State.lowerEc (s : State) (k : Cmd) : State :=
  let t := s.modGroup k.blk k.grp fun g => { g with ec := g.ec - 1 }
  match t.block? k.blk with
  | none => t
  | some b =>
    let key := t.keySerial (((t.context? k.ctx).map (·.key)).getD 0)
    if b.st = .saved then
      { t with mem := t.mem.write key (b.imageAt + 0x1000 + 0x9000 * k.grp + 0x461F) (leBytes 1 (b.group k.grp).ec) }
    else t

/-- A command leaves: its registrations end, and a TRACK command lowers its group's EC. The last of a launch that is being killed
ends the kill. -/
def State.endCmd (s : State) (k : Cmd) : State :=
  let t : State := { s with cmds := s.cmds.filter fun q => q.id != k.id }
  let t := k.regs.foldl (fun (t : State) (r : Nat × Nat) => t.unregister k.launch r.1 r.2) t
  (if k.w.track then t.lowerEc k else t).endKill k.launch

/-- ENGINE_COMMAND_COMPLETION: the completion action is taken, and the command completes. A WORD store to a peer is sent
first, and completes the command when it is acknowledged. -/
def execEngineCommandCompletion (cmd : Nat) (s : State) : Host.Outcome State Fault Refusal :=
  match s.cmd? cmd with
  | none => .next s
  | some k =>
    if !k.finished then .next s
    else if k.w.mode ≠ modeWord ∨ k.wordWait then .next (s.endCmd k)
    else
      let va := k.w.ctarget
      let bs := leBytes 8 (k.w.n 6)
      if k.w.wspace = 1 then
        .next ((s.modBlock k.blk fun b => b.setScratch (barTouched (b.scratch.write va bs) va 8)).endCmd k)
      else match s.reach k va 8 true with
        | (.park r, t) => .next (t.parkCmd k va 5 r)
        | (.stop c r, t) => .next (t.failCmd k c va 5 r)
        | (.at pa key, t) =>
          if t.inRegion k.ctx va pa then .next (t.failCmd k .versionPlainWrite va 5 7)
          else .next ((t.writeHome pa key bs).endCmd k)
        | (.remote d off, t) =>
          match t.freeTag with
          | none => .next t
          | some tag =>
            let p := { t.packet typeWrite d off bs with order := 2, scope := k.w.wscope }
            .next ((t.modCmd k.id fun q => { q with wordWait := true, flight := [(tag, 0, 0, 8, [])] }).ask p tag
              (.cmdWrite k.id 0 0 8))

/-- The live lanes of a group that take causes (R67). -/
def Group.mayTake (g : Group) : Mask := maskOf fun l => inMask g.live l && !(g.lane l).helper

/-- The lanes that take a stopped command's cause: those that pushed it, or with none of them left the group's others; helpers
take none (log 36). -/
def Cmd.takers (k : Cmd) (g : Group) : Mask := if k.threads &&& g.mayTake ≠ 0 then k.threads &&& g.mayTake else g.mayTake

/-- ENGINE_COMMAND_STOP: a command that has met a fault stops; its group takes the cause, or the launch's completion
status does when no lane of the group is left to take it, whatever task group has its slot now. -/
def execEngineCommandStop (cmd : Nat) (s : State) : Host.Outcome State Fault Refusal :=
  match s.cmd? cmd with
  | none => .next s
  | some k =>
    match k.fail with
    | none => .next s
    | some (c, va, kind) =>
      let t := s.endCmd k
      match s.group? k.blk k.grp with
      | some g =>
        if k.takers g = 0 ∨ g.epoch ≠ k.epoch then
          .next (t.modLaunch k.launch fun l => { l with engErr := some (l.engErr.getD c.code) })
        else
          .next (t.fresh.modGroup k.blk k.grp fun g =>
            g.addAfter ⟨t.nextId, c, k.takers g, true, BitVec.ofNat 64 va, kind, k.fpc⟩)
      | none => .next (t.modLaunch k.launch fun l => { l with engErr := some (l.engErr.getD c.code) })

end Sys2Proof.Machine
end

