-- ==== Sys2Proof/Machine/Queue.lean ====
section
/-!
DEFINITION. The events of the Praline root, the spawn queues and cancellation (15_tasks.md R269, R274, R275, R281 to R287;
07_memory.md R148; 19_fabric.md R344): offers, copies, pruning, task groups and the end of a cancelled thread.
-/

namespace Sys2Proof.Machine

/-! ### Offers and copies (R281, R283, R344) -/

/-- The payload of a MIRROR packet: the index, CFG and the value (R329). -/
def mirrorBytes (i : Nat) (c : Incumbent) : List Byte := leBytes 1 i ++ [c.cfg] ++ leBytes 6 0 ++ leBytes 8 c.value.toNat

/-- The peers of the fabric configuration that are not lost. -/
def Fabric.peers (f : Fabric) : List Nat :=
  (List.range 16).filter fun d => f.present d && d != f.device && !f.lost.contains d

/-- Accept a value at the root: it is broadcast, and mirrored unless it came from a mirror. -/
def State.acceptOffer (s : State) (o : Offer) (c : Incumbent) : State :=
  let new := { c with value := o.value, seq := c.seq + 1 }
  let t := { s with
    ics := s.ics.setIfInBounds o.ic new
    cores := tab 144 fun k =>
      let x := s.cores[k]?.getD CoreSt.zero
      { x with pending := x.pending ++ [(o.ic, new, o.since)] } }
  if c.mirror && !o.mirror then
    s.fab.peers.foldl (fun (t : State) d => t.send (t.packet typeMirror d 0 (mirrorBytes o.ic new))) t
  else t

/-- OFFER_AT_ROOT: an offer that improves the master is accepted; any other is discarded. It comes within 96 cc (R283,
Due.lean). -/
def execOfferAtRoot (offer : Nat) (s : State) : Host.Outcome State Fault Refusal :=
  match s.offers.find? fun o => o.id == offer with
  | none => .next s
  | some o =>
    let t := { s with offers := s.offers.filter fun q => q.id != offer }
    let c := s.ics[o.ic]?.getD Incumbent.zero
    if c.bound && c.improves o.value c.value then .next (t.acceptOffer o c) else .next t

/-! ### Records (R269, R274, R284) -/

/-- The records of a block that a change of its core's copy leaves dominated and no earlier change has seen. One whose parent
the same change cancels leaves with that thread as an orphan. Any other of the on-chip share is to be pruned within 8 cc, and
so counts one in the ring whose parent's cancellation a SHIELD window defers (R284, R292). -/
def State.doomBlock (s before : State) (b : Block) (ic : Nat) : Block :=
  match s.launch? b.launch with
  | none => b
  | some l =>
    let seen := fun (t : TaskRec) => (b.q.doomed ++ b.q.pledged).any fun d => d.1 == t.index
    let new := (s.liveRecords b l).filter fun t => t.ic == ic && s.recordDominated b.core t && !seen t
    let leaves := fun (t : TaskRec) => s.parentCancels b t && !before.parentCancels b t
    let mark := fun (ts : List TaskRec) => ts.map fun t => (t.index, s.cc)
    { b with q := { b.q with
        pledged := b.q.pledged ++ mark (new.filter leaves)
        doomed := b.q.doomed ++ mark (new.filter fun t => !leaves t && (b.q.share.contains t || s.parentDefers b t)) } }

/-- A change of a core's copy of an incumbent, from the state before it, for the blocks on that core. -/
def State.doom (s before : State) (core ic : Nat) : State :=
  { s with
    blocks := s.blocks.map fun (b : Block) => if b.core = core ∧ b.st ≠ .saved then s.doomBlock before b ic else b }

/-- COPY_UPDATE: a core's copy takes the oldest broadcast of an incumbent that is on its way to it, within 192 cc of its
ICUPD (R283, Due.lean). -/
def execCopyUpdate (core ic : Nat) (s : State) : Host.Outcome State Fault Refusal :=
  let k := s.cores[core]?.getD CoreSt.zero
  match k.pending.find? fun q => q.1 == ic with
  | none => .next s
  | some q =>
    let c := k.ic[ic]?.getD Incumbent.zero
    let new := { c with value := q.2.1.value, seq := q.2.1.seq }
    let k' := { k with
      ic := k.ic.setIfInBounds ic new
      pending := k.pending.eraseIdx (k.pending.findIdx fun q => q.1 == ic) }
    .next (({ s with cores := s.cores.setIfInBounds core k' } : State).doom s core ic)

/-- A queue without the records that a change of the copy has dominated: they count as pruned (R284). -/
def TaskQ.prune (q : TaskQ) : TaskQ :=
  let keep := q.share.filter fun t => !q.doomed.any fun d => d.1 == t.index
  { q with
    share := keep
    doomed := q.doomed.filter fun d => !q.share.any fun t => t.index == d.1
    pruned := q.pruned + BitVec.ofNat 64 (q.share.length - keep.length) }

/-- RECORD_PRUNING: the records of a block's on-chip share that a change of the core's copy has dominated are removed, within
8 cc of it (R284, Due.lean). -/
def execRecordPruning (blk : Nat) (s : State) : Host.Outcome State Fault Refusal :=
  .next (s.modBlock blk fun b => { b with q := b.q.prune })

/-- Whether a record is to be removed as pruned when it is read back or taken into a group (R284, R292). -/
def State.toPrune (s : State) (b : Block) (t : TaskRec) : Bool := s.recordDominated b.core t && !s.leaves b t

/-- RING_READBACK: the oldest record of the ring is read into the share, unless it is malformed or dominated. After a
restoration the share is read back first, and groups form again when that is done (R289). -/
def execRingReadback (blk : Nat) (s : State) : Host.Outcome State Fault Refusal :=
  match s.block? blk with
  | none => .next s
  | some b =>
    match s.launch? b.launch, b.q.ring with
    | some l, e :: rest =>
      if 128 ≤ b.q.share.length ∨ b.running = false then .next s
      else
        let t := s.ringRec b l e
        let q := { b.q with ring := rest }
        let q :=
          if !t.whole l.lr.codeSize then { q with discarded := q.discarded + 1 }
          else if s.toPrune b t then { q with pruned := q.pruned + 1 }
          else { q with share := q.share ++ [t] }
        let q := { q with refill := q.refill && decide (q.share.length < 128) && !q.ring.isEmpty }
        .next (s.modBlock blk fun b => { b with q := q })
    | _, _ => .next (s.modBlock blk fun b => { b with q := { b.q with refill := false } })

/-- RECORD_WAIT_EXPIRY: the oldest record of an entry set has waited 512 cc, and the set is ready from now on (R274). -/
def execRecordWaitExpiry (blk : Nat) (entry : W32) (s : State) : Host.Outcome State Fault Refusal :=
  match s.block? blk with
  | none => .next s
  | some b =>
    match (s.launch? b.launch).map fun l => (s.unnoted b l).filter fun t => t.entry == entry with
    | some (t :: _) => .next (s.modBlock blk fun b => { b with q := { b.q with due := t.index :: b.q.due } })
    | _ => .next s

/-! ### Task groups (R272, R274, R275) -/

/-- The tag of a thread (R272). -/
def tagOf (slot lane : Nat) (epoch : BitVec 23) : W32 := BitVec.ofNat 32 (slot % 16 * 2 ^ 28 + lane % 32 * 2 ^ 23 + epoch.toNat)

/-- The thread that runs a record. -/
def TaskRec.thread (t : TaskRec) (slot lane : Nat) (epoch : BitVec 23) : Lane where
  pc := t.entry
  mt := noneWord
  smt := noneWord
  hdr := none
  v := tab 128 fun r => if r < 10 then BitVec.ofNat 32 (t.dw (2 + r / 2) / 2 ^ (32 * (r % 2))) else 0
  st := .run
  helper := false
  inTrap := false
  yielded := false
  skip := 0
  shield := 0
  tag := tagOf slot lane epoch
  bnd := t.bound
  bndIc := BitVec.ofNat 4 t.ic
  ben := t.ben
  wins := []
  dom := 0

/-- The task group of some records in a slot. -/
def Group.form (g : Group) (ts : List TaskRec) (slot now : Nat) (btvec : W64) : Group :=
  let epoch := g.epoch + 1
  { Group.zero with
    lanes := tab 32 fun l => ((ts[l]?).map fun t => t.thread slot l epoch).getD { Lane.zero with st := .exited false }
    tvec := btvec
    quad := g.quad
    mayIssue := now + 16
    readyAt := now
    idleAt := now
    task := true
    forming := true
    epoch := epoch }

/-- What is still under way for the threads that had a slot before goes on for nobody. -/
def Req.forgetThreads (r : Req) (blk grp : Nat) : Req :=
  if r.blk = blk ∧ r.grp = grp then { r with threads := 0, takers := 0 } else r

/-- Form a task group from the oldest records of a set: the dominated and the malformed are removed, and those that
remain fill the slot; a record that leaves with its parent is passed over. -/
def State.formGroup (s : State) (b : Block) (l : Launch) (slot : Nat) (set : List TaskRec) : State :=
  let took := (set.filter fun t => !(s.recordDominated b.core t && s.leaves b t)).take 32
  let bad := took.filter fun t => !t.whole l.lr.codeSize && b.q.ring.any fun e => e.1 == t.index
  let dom := took.filter fun t => !bad.contains t && s.recordDominated b.core t
  let run := took.filter fun t => !bad.contains t && !dom.contains t
  let gone := fun (i : Nat) => took.any fun t => t.index == i
  let n := fun (xs : List TaskRec) => BitVec.ofNat 64 xs.length
  let s : State := if run.isEmpty then s else { s with reqs := s.reqs.map fun r => r.forgetThreads b.id slot }
  s.modBlock b.id fun b =>
    { b with
      groups := if run.isEmpty then b.groups else b.groups.modify slot fun g => g.form run slot s.cc b.btvec
      q := { b.q with
        share := b.q.share.filter fun t => !gone t.index
        ring := b.q.ring.filter fun e => !gone e.1
        due := b.q.due.filter fun i => !gone i
        doomed := b.q.doomed.filter fun d => !gone d.1
        pledged := b.q.pledged.filter fun d => !gone d.1
        formed := some s.cc
        discarded := b.q.discarded + n bad
        pruned := b.q.pruned + n dom
        tasks := b.q.tasks + n run
        groups := if run.isEmpty then b.q.groups else b.q.groups + 1 } }

/-- TASK_GROUP_FORMATION: in each cc with a free slot and a ready set, the queue forms one group in the lowest free slot. -/
def execTaskGroupFormation (blk : Nat) (s : State) : Host.Outcome State Fault Refusal :=
  match s.block? blk with
  | none => .next s
  | some b =>
    match s.launch? b.launch with
    | none => .next s
    | some l => match s.forming b l with
      | none => .next s
      | some (slot, ts) => .next (s.formGroup b l slot ts)

/-- TASK_GROUP_START: 16 cc after its formation a task group begins to issue; each of its threads performs an acquire at
core scope, which the records' SPAWNs have released to (R275, R276). -/
def execTaskGroupStart (blk slot : Nat) (s : State) : Host.Outcome State Fault Refusal :=
  match s.block? blk with
  | none => .next s
  | some b =>
    if b.running && (b.group slot).forming && decide ((b.group slot).mayIssue ≤ s.cc) then .next (s.modGroup blk slot fun g => { g with forming := false, readyAt := s.cc })
    else .next s

/-! ### Cancellation (R148, R285, R286) -/

/-- Whether every lane of a mask of a group has been cancelled. -/
def Group.allCancelled (g : Group) (m : Mask) : Bool := (lanesOf m).all fun l => (g.lane l).cancelled

/-- An accepted load of a cancelled thread stays where it is until it is answered, and holds what it holds there: its entry of
the outstanding-transaction table, or that of a slice's wait list (R144, R295). It belongs to no block, group or instruction
any more, and its answer is discarded. -/
def Req.ghost (r : Req) : Req :=
  { r with
    blk := r.id
    grp := 0
    insn := r.id
    threads := 0
    takers := 0
    parts := []
    dst := none
    sdst := none }

/-- Whether a request is one access for a whole lane set (R138, R157). -/
def Req.isUniform (r : Req) : Bool := r.sdst.isSome || decide (r.parts.length ≤ 1 ∧ 1 < (lanesOf r.threads).length)

/-- What is left of a request when a lane of its group is cancelled; g is the group afterwards (R148, R162). What has not been
accepted is dropped for the lane, a uniform access only when every lane it is made for is cancelled. A load that has been
accepted goes on for nobody, and a parked one is dropped, as is one at a bank. Stores, atomics, CCTLs and LDDS lanes that have been accepted go on,
also when REPLAY or a restoration has sent a parked one out again. -/
def Req.cancelLane (r : Req) (g : Group) (l : Nat) : Option Req :=
  if r.unit || !inMask (r.threads ||| r.takers) l then some r
  else
    let but := ~~~(BitVec.ofNat 32 (2 ^ l))
    if r.kind = .fence then (if g.allCancelled r.threads then none else some r)
    else if r.isUniform then
      (if (r.takers &&& but) = 0 && !r.accepted && !r.kept then none else some { r with takers := r.takers &&& but })
    else match r.kind with
      | .load | .pref | .vnld _ => match r.phase with
        | .issued | .parked _ | .fill => none
        | _ => if r.space = .global then some r.ghost else none
      | _ =>
        if r.accepted || r.kept then some r
        else
          let ps := r.parts.filter fun p => p.lane != l
          if ps.isEmpty then none else some { r with threads := r.threads &&& but, takers := r.takers &&& but, parts := ps }

/-- Drop from the fault buffer what no request or live lane waits on any more. -/
def State.tidyFaults (s : State) (blk grp : Nat) (g : Group) : State :=
  { s with faults := (s.faults.map fun (f : FaultEntry) =>
      if f.blk ≠ blk ∨ f.grp ≠ grp then [f]
      else match f.fetch with
        | some (off, m) => if m &&& g.live = 0 then [] else [{ f with fetch := some (off, m &&& g.live) }]
        | none =>
          let rs := s.reqs.filter fun r => decide (r.phase = .parked f.id)
          if rs.isEmpty then [] else [{ f with pages := f.pages.filter fun p => rs.any fun r => r.addr / 2 ^ 16 == p }]).flatten }

/-- The requests of a group at a region home when no lane is left that they are made for: what has been sent takes full effect,
and its instruction is done with once it is answered; any other is withdrawn (R225, R241, R265). -/
def State.tidyHome (s : State) (b : Block) (grp : Nat) (g : Group) : State :=
  (s.home.filter fun h => h.blk == b.id && h.grp == grp && g.allCancelled h.takers).foldl (fun (t : State) h =>
    if h.answered then t.homeIssue h else if s.homeSent h then t else t.withdrawHome h) s

/-- The reads that a group has begun before an instruction issues, when no lane is left that they are made for.
VNOPEN's request, which it sends with the read of its entry, goes with that read (DEDUCED, log 37). -/
def State.tidyPres (s : State) (blk grp : Nat) : State :=
  (s.pres.filter fun p => p.blk == blk && p.grp == grp).foldl (fun (t : State) p => t.tidyPre p.id) s

/-- The probes of a group after a lane has been cancelled: before it has run, an HPROBE goes on without the lane. -/
def Probe.cancelLane (p : Probe) (l : Nat) : Option Probe :=
  match p.kind with
  | .probe _ =>
    if p.ran then some p
    else
      let m := p.lanes &&& ~~~(BitVec.ofNat 32 (2 ^ l))
      if m = 0 then none else some { p with lanes := m, rows := p.rows.filter fun r => r.1 != l }
  | _ => some p

/-- Remove the live records of a block whose parent has a tag; in the ring they are marked DEAD (R286). They count as
orphans, but for those that a change of the copy has left to be pruned (R284, R292). -/
def State.orphan (s : State) (b : Block) (l : Launch) (tag : W32) : State :=
  let inRing := b.q.ring.filter fun e => (s.ringRec b l e).parent == tag
  let t := inRing.foldl (fun (t : State) e => t.ringStore l (l.lr.recordAt b.lin e.1 + 60) [1]) s
  let gone := (b.q.share.filter fun r => r.parent == tag).map (·.index) ++ inRing.map (·.1)
  let old := gone.filter fun i => b.q.doomed.any fun d => d.1 == i
  t.modBlock b.id fun b =>
    { b with q := { b.q with
        share := b.q.share.filter fun r => r.parent != tag
        ring := b.q.ring.filter fun e => !inRing.contains e
        doomed := b.q.doomed.filter fun d => !gone.contains d.1
        pledged := b.q.pledged.filter fun d => !gone.contains d.1
        pruned := b.q.pruned + BitVec.ofNat 64 old.length
        orphaned := b.q.orphaned + BitVec.ofNat 64 (gone.length - old.length) } }

/-- Cancel one thread. -/
def State.cancel (s : State) (b : Block) (l : Launch) (grp lane : Nat) : State :=
  let x := (b.group grp).lane lane
  let g := (b.group grp).modLanes (maskOf (· == lane)) fun _ y => { y with st := .exited true }
  let mine := fun (r : Req) => r.blk == b.id && r.grp == grp
  let touched := (s.reqs.filter fun r => mine r && inMask r.threads lane).map (·.insn)
    ++ (s.probes.filter fun p => p.blk == b.id && p.grp == grp && inMask p.lanes lane).map (·.id)
  let t := s.modGroup b.id grp fun _ => g
  let t := { t with
    reqs := (t.reqs.map fun r => if mine r then (r.cancelLane g lane).toList else [r]).flatten
    probes := (t.probes.map fun (p : Probe) => if p.blk == b.id && p.grp == grp then (p.cancelLane lane).toList else [p]).flatten }
  let t := ((t.tidyPres b.id grp).pruneEntries.tidyFaults b.id grp g).tidyHome b grp g
  let t := (distinct touched).foldl (fun (t : State) i => t.settle b.id grp i) t
  let t := t.modBlock b.id fun b => { b with q := { b.q with cancelled := b.q.cancelled + 1 } }
  match t.block? b.id with
  | none => t
  | some b => t.orphan b l x.tag

/-- THREAD_CANCELLATION: a dominated prunable thread stops at its boundary, within 4 cc (R283, Due.lean). -/
def execThreadCancellation (blk grp lane : Nat) (s : State) : Host.Outcome State Fault Refusal :=
  match s.block? blk with
  | none => .next s
  | some b =>
    match s.launch? b.launch with
    | none => .next s
    | some l =>
      if s.cur.isEmpty && b.running && decide (grp < b.groups.length ∧ lane < 32) && s.toCancel b ((b.group grp).lane lane) then
        .next (s.cancel b l grp lane)
      else .next s

end Sys2Proof.Machine
end

