-- ==== Sys2Proof/Machine/Fabric.lean ====
section
/-!
DEFINITION. What arrives from the Stobuvin fabric (19_fabric.md R327 to R345; 20_prog_remotecopy.md R347 to R349): beats, packets
performed here, replies, control beats, timers, training and the loss of a peer. Link.lean holds the sending side.
-/

namespace Sys2Proof.Machine

/-! ### Control beats and replays (R330, R340) -/

/-- Put a control beat on the link (R330): its code, the counter, the slot and the value, with the GMAC tag of its first 48
bytes in the last 16 (the places within the arguments are DESIGN CHOICE, log 22). It takes the counter of the sending slot;
STOP does not hold it. -/
def State.control (s : State) (p code : Nat) (v : W32) : State :=
  match (s.port p).pickSlot with
  | none => if (s.port p).up then s.goDown p 2 else s
  | some k =>
    s.modPort p fun x =>
      let ks := x.sendKey k
      let first := leBytes 2 code ++ leBytes 8 ks.ctr.toNat ++ leBytes 1 k ++ leBytes 4 v.toNat ++ List.replicate 33 0
      let tag := (gcmSeal ks.key ks.salt ks.ctr first []).2
      { x with
        slot := k
        send := x.send.setIfInBounds k { ks with ctr := ks.ctr + 1 }
        wire := x.wire ++ [beatOf 2 x.stopOut (first ++ leBytes 16 tag.toNat)] }

def codeAck : Nat := 1
def codeNak : Nat := 2
def codeTraining : Nat := 3
def codeKey : Nat := 4

/-- A port in training shows its good lanes and its key slot to the far end (R333). -/
def State.showTraining (s : State) (p : Nat) : State :=
  let t := s.control p codeTraining ((~~~(s.port p).failed).setWidth 32)
  t.control p codeKey (BitVec.ofNat 32 (t.port p).slot)

/-- Begin a replay of every unacknowledged packet, which goes before anything new as soon as the far end lets it (R330). In
TRAINING none begins: the one made when the port comes up covers it (R349). -/
def State.replay (s : State) (p : Nat) : State :=
  if (s.port p).up && !(s.port p).replayB.isEmpty then s.modPort p fun x => { x.owe with sinceAck := s.time } else s

/-- Whether sequence number a comes before b (R330). -/
def seqBefore (a b : W32) : Bool := decide (2 ^ 31 ≤ (a - b).toNat)

/-- Free the packets up to a sequence number. -/
def Port.acked (x : Port) (seq : W32) : Port :=
  { x with
    replayB := x.replayB.filter fun q => seqBefore seq q.seq
    owed := x.owed.filter fun q => seqBefore seq q.seq
    unacked := seq + 1 }

/-- Whether an acknowledgement of a number tells something new. -/
def Port.newAck (x : Port) (seq : W32) : Bool := !seqBefore seq x.unacked && seqBefore seq x.txseq

/-- Acknowledge what a port has accepted. -/
def State.sendAck (s : State) (p : Nat) : State :=
  (s.control p codeAck ((s.port p).rxseq - 1)).modPort p fun x => { x with unackRx := 0 }

/-- Acknowledge the ORIG packets of a port's space, on the route by which they come (R334). -/
def State.sendOack (s : State) (p : Nat) : State :=
  match (s.port p).peer with
  | none => s
  | some (d, far) =>
    let q := s.packet typeOack d 0 (leBytes 4 far ++ leBytes 4 ((s.port p).rxseq - 1).toNat)
    (((s.modPort p fun x => { x with origUn := 0 }).enqueue (s.port p).origVia q)).flushAll

/-! ### Receiving (R327, R328, R330, R331, R334, R340, R341) -/

def Port.rxUsed (x : Port) : Nat := (x.inbox.map Packet.bytes).foldl (· + ·) 0

/-- Set STOP once fewer than 128 KiB of the receive buffer are free, and clear it at 160 KiB; the next beat carries it (R331). -/
def Port.stops (x : Port) : Port :=
  let free := 256 * 1024 - x.rxUsed
  let stop := if free < 128 * 1024 then true else if 160 * 1024 ≤ free then false else x.stopOut
  let y := { x with stopOut := stop }
  if x.up && stop != x.stopOut then y.idle else y

/-- A packet or control beat fails authentication: it is counted, and the eighth within 1 ms takes the port DOWN. -/
def State.authFail (s : State) (p : Nat) : State :=
  let recent := s.time :: (s.port p).authAt.filter fun t => decide (s.time < t + micros 1000)
  let t := s.modPort p fun x => { x with authErrs := x.authErrs + 1, authAt := recent }
  if 8 ≤ recent.length ∧ (s.port p).up then (t.modPort p fun x => { x with authAt := [] }).goDown p 1 else t

/-- A key slot of the receiving direction. -/
def Port.recvKey (x : Port) (k : Nat) : KeySlot := x.recv[k]?.getD KeySlot.zero

/-- The local port whose peer end is a device's port: the space that ORIG packets of that port belong to. -/
def State.spaceOf (s : State) (dev oport : Nat) : Option Nat :=
  (List.range 16).find? fun n => decide ((s.port n).peer = some (dev, oport))

/-- Pass an accepted packet on: to its outbound port when this device is its relay, else into the receive buffer. -/
def State.passOn (s : State) (p : Nat) (q : Packet) : State :=
  if q.ddev ≠ s.fab.device then
    match s.upTo q.ddev, s.route q.ddev q.addr with
    | some o, _ => (s.enqueue o q).flushAll
    | none, some o => s.enqueue o q
    | none, none => s
  else if s.fab.lost.contains q.sdev then s
  else if !q.orig then s.modPort p fun x => { x with inbox := x.inbox ++ [q] }.stops
  else match s.spaceOf q.sdev q.oport with
    | none => s
    | some n =>
      let x := s.port n
      if q.oseq = x.rxseq then
        let t := (s.modPort n fun x =>
          { x with
            rxseq := x.rxseq + 1
            origVia := p
            origUn := x.origUn + 1
            origRxAt := if x.origUn = 0 then s.cc else x.origRxAt }).modPort p fun x => { x with inbox := x.inbox ++ [q] }.stops
        if 16 ≤ x.origUn + 1 then t.sendOack n else t
      else if seqBefore q.oseq x.rxseq then s.modPort n fun x => { x with dups := x.dups + 1 }
      else s

/-- A whole packet has arrived at a port. -/
def State.takePacket (s : State) (p : Nat) (bs : List Byte) : State :=
  let h := Packet.ofHeader bs
  let x := s.port p
  let n := if h.type = typeRead then 0 else h.len
  let k := if h.kidx then 1 else 0
  let key := x.recvKey k
  if 11 ≤ h.type ∨ 2048 < h.len then s
  else match (if key.valid then
      gcmOpen key.key key.salt h.ctr (bs.take 32) ((bs.drop 32).take n) (BitVec.ofNat 128 (ofLe ((bs.drop (32 + n)).take 16)))
    else none) with
    | none => s.authFail p
    | some plain =>
      if h.seq = x.rxseq then
        let t := s.modPort p fun x =>
          { x with
            rxseq := x.rxseq + 1
            unackRx := x.unackRx + 1
            rxAt := if x.unackRx = 0 then s.cc else x.rxAt
            recvNew := if x.recvNew = some k then none else x.recvNew
            recv := if x.recvNew = some k then x.recv.setIfInBounds (1 - k) { x.recvKey (1 - k) with valid := false } else x.recv }
        let t := if 16 ≤ x.unackRx + 1 then t.sendAck p else t
        t.passOn p { h with payload := plain }
      else if seqBefore h.seq x.rxseq then s.modPort p fun x => { x with dups := x.dups + 1 }
      else if (match x.nakAt with | none => true | some t => decide (t + micros 1 ≤ s.time)) then
        (s.control p codeNak x.rxseq).modPort p fun x => { x with nakAt := some s.time }
      else s

/-- The bytes of a whole packet on the link, from its first beat. -/
def wholeBytes (first : List Byte) : Nat :=
  let h := Packet.ofHeader first
  (48 + (if h.type = typeRead then 0 else h.len) + 63) / 64 * 64

/-- A data beat: with it a packet may be whole. -/
def State.dataBeat (s : State) (p : Nat) (content : List Byte) : State :=
  let x := s.port p
  if !x.up || x.frame == 2 then s
  else
    let bs := x.beats ++ content
    if bs.length < wholeBytes bs then s.modPort p fun x => { x with beats := bs }
    else
      let t := s.modPort p fun x => { x with beats := [], frame := 0 }
      if x.frame = 1 then t else t.takePacket p bs

/-- A control beat: code, then the counter, the slot and the value, with the GMAC tag of its first 48 B behind them (the
places within the arguments are DESIGN CHOICE, log 22). -/
def State.controlBeat (s : State) (p : Nat) (c : List Byte) : State :=
  let n := fun (i k : Nat) => ofLe ((c.drop i).take k)
  let slot := n 10 1 % 2
  let key := (s.port p).recvKey slot
  let v := BitVec.ofNat 32 (n 11 4)
  let s := s.modPort p fun x => { x with frame := if x.frame = 2 then 0 else x.frame }
  let open_ := key.valid
    && (gcmOpen key.key key.salt (BitVec.ofNat 64 (n 2 8)) (c.take 48) [] (BitVec.ofNat 128 (n 48 16))).isSome
  if !open_ then s.authFail p
  else
    let go := fun (i : Instr) => { s with agenda := s.agenda ++ [i] }
    match n 0 2 with
    | 1 => go (.ack p v)
    | 2 => go (.nak p v)
    | 3 => go (.training p v)
    | 4 => go (.key p (v.toNat % 2))
    | _ => s

/-- A beat that is discarded: the packet it was part of is broken, or the receiver is out of frame until the link is idle
(DESIGN CHOICE, log 22). -/
def Port.lostBeat (x : Port) (content : List Byte) : Port :=
  if x.beats.isEmpty then { x with frame := 2 }
  else
    let bs := x.beats ++ List.replicate content.length 0
    if bs.length < wholeBytes bs then { x with frame := 1, beats := bs } else { x with frame := 0, beats := [] }

/-- BEAT_RECEIVE. -/
def execBeatReceive (port : Nat) (content : List Byte) (trailer : W32) (s : State) : Host.Outcome State Fault Refusal :=
  let x := s.port port
  let low := trailer.extractLsb' 0 8
  let kind := (trailer.extractLsb' 0 2).toNat
  if x.state = 0 ∨ 5 ≤ x.state then .next s
  else if Config.crc24 content low ≠ trailer.extractLsb' 8 24 then
    .next (s.modPort port fun x => { x.lostBeat content with crcErrs := x.crcErrs + 1 })
  else if kind = 3 ∨ trailer.extractLsb' 3 5 ≠ 0 then .next (s.modPort port fun x => x.lostBeat content)
  else
    let t := s.modPort port fun x => { x with stopIn := trailer.getLsbD 2 }
    let t := match kind with
      | 0 => t.modPort port fun x => { x with frame := if x.frame = 2 then 0 else x.frame }
      | 1 => t.dataBeat port content
      | _ => t.controlBeat port content
    .next t.flushAll

/-- The space that a packet in a port's receive buffer belongs to, and its number there (R334). -/
def State.spaceNumber (s : State) (port : Nat) (q : Packet) : Option Nat × W32 :=
  if q.orig then (s.spaceOf q.sdev q.oport, q.oseq) else (some port, q.seq)

/-- Whether a packet of an earlier number in the same space still waits in some receive buffer: packets of one space are
performed in its order, by whatever route they have come (R335). -/
def State.notFirst (s : State) (port : Nat) (q : Packet) : Bool :=
  let k := s.spaceNumber port q
  (List.range 16).any fun n => (s.port n).inbox.any fun r =>
    let j := s.spaceNumber n r
    decide (j.1 = k.1) && seqBefore j.2 k.2

/-- Take a packet of a type from the head of a port's receive buffer; none while a checkpoint holds inbound traffic
(R367), or while an earlier packet of its space waits elsewhere. -/
def State.arrived (s : State) (port type : Nat) (q : Packet) : Option State :=
  match (s.port port).inbox with
  | [] => none
  | h :: rest =>
    if h = q ∧ q.type = type ∧ s.holdsInbound = false ∧ s.notFirst port q = false then
      some (s.modPort port fun x => { x with inbox := rest }.stops)
    else none

/-! ### Packets performed here (R336, R337) -/

/-- Answer a request packet. -/
def State.reply (s : State) (q : Packet) (type : Nat) (payload : List Byte) : State :=
  s.send { s.packet type q.sdev q.addr payload with tag := q.tag, score := q.score, scope := q.scope, order := q.order }

/-- Refuse a request packet: the reason, and for poison the poisoned sectors among those asked for (log 22). -/
def State.refusePacket (s : State) (q : Packet) (reason : Nat) (n : Nat) : State :=
  let bad := (List.range 8).foldl (fun a i =>
    if s.mem.poison.contains (q.addr / 32 + i) && decide (q.addr / 32 + i ≤ (q.addr + n - 1) / 32) then a + 2 ^ i else a) 0
  s.reply q typeRefused (leBytes 1 reason ++ leBytes 1 (if reason = 6 then bad else 0) ++ leBytes 6 0)

/-- The window that admits an access of a packet's source to local memory. -/
def State.windowFor (s : State) (q : Packet) (n : Nat) (write : Bool) : Option Window :=
  if isLocal q.addr n then s.fab.admits q.sdev q.addr n write else none

/-- READ. -/
def execRead (port : Nat) (p : Packet) (s : State) : Host.Outcome State Fault Refusal :=
  match s.arrived port typeRead p with
  | none => .next s
  | some t =>
    match t.windowFor p p.len false with
    | none => .next (t.refusePacket p 4 p.len)
    | some w =>
      if t.mem.poisoned p.addr p.len then .next (t.refusePacket p 6 p.len)
      else .next (t.reply p typeRdata (t.mem.read (t.keySerial w.key) p.addr p.len))

/-- Write the bytes of a masked WRITE, and clear the poison of the sectors that it writes whole. -/
def Store.writeMasked (m : Store) (key pa : Nat) (data : List Byte) (mask : Nat) : Store :=
  let m := (List.range 128).foldl (fun (m : Store) i => if bitOf mask i then m.put key (pa + i) (data.getD i 0) else m) m
  (List.range 4).foldl (fun (m : Store) k =>
    if mask / 2 ^ (32 * k) % 2 ^ 32 = 2 ^ 32 - 1 then m.unpoison (pa + 32 * k) 32 else m) m

/-- WRITE. -/
def execWrite (port : Nat) (p : Packet) (s : State) : Host.Outcome State Fault Refusal :=
  match s.arrived port typeWrite p with
  | none => .next s
  | some t =>
    let n := if p.masked then 128 else p.payload.length
    match t.windowFor p n true with
    | none => .next ((t.refusePacket p 4 n).ingressFreed p.sdev p.payload.length)
    | some w =>
      let key := t.keySerial w.key
      let m := if p.masked then t.mem.writeMasked key p.addr (p.payload.take 128) (ofLe ((p.payload.drop 128).take 16))
        else (t.mem.write key p.addr p.payload).unpoison p.addr n
      .next ((({ t with mem := m } : State).reply p typeDone []).ingressDone p.sdev p.payload.length)

end Sys2Proof.Machine

namespace Sys2Proof

open Machine

/-- The lanes' operands that an ATOM carries: compare and new value of each; a reduction's or a tree's one operand has no
compare value. -/
def Packet.operands (p : Packet) (size : Nat) : List (Option Nat × Nat) :=
  let cas := p.aop == 0 && !p.masked && decide (2 * size ≤ p.payload.length)
  let at_ := fun (i : Nat) => ofLe ((p.payload.drop (size * i)).take size)
  if cas then (List.range (p.payload.length / (2 * size))).map fun i => (some (at_ (2 * i)), at_ (2 * i + 1))
  else (List.range (p.payload.length / size)).map fun i => (none, at_ i)

/-- The operand size of an ATOM: 2 bytes for the 16-bit reductions of an engine (log 22). -/
def Packet.atomSize (p : Packet) : Nat := if p.payload.length = 2 then 2 else if p.b64 then 8 else 4

/-- One operation of an ATOM on the value in memory. -/
def Packet.apply (p : Packet) (size x : Nat) (o : Option Nat × Nat) : Nat :=
  if size = 2 then redElem (if p.b64 then 11 else 10) (p.aop - 10) x o.2
  else match o.1 with
    | some c => if x = c then o.2 else x
    | none => (atomicOp p.aop (8 * size) x o.2).1

end Sys2Proof

namespace Sys2Proof.Machine

/-- ATOM_PACKET: the lanes of one address are performed contiguously; a reduction is answered with DONE. -/
def execAtomPacket (port : Nat) (p : Packet) (s : State) : Host.Outcome State Fault Refusal :=
  match s.arrived port typeAtom p with
  | none => .next s
  | some t =>
    let n := p.atomSize
    let refuse := fun (reason : Nat) => (t.refusePacket p reason n).ingressFreed p.sdev p.payload.length
    match t.windowFor p n true with
    | none => .next (refuse 4)
    | some w =>
      if t.mem.poisoned p.addr n then .next (refuse 6)
      else
        let key := t.keySerial w.key
        let x := ofLe (t.mem.read key p.addr n)
        let os := p.operands n
        let out := os.foldl (fun (st : Nat × List Nat) o => (p.apply n st.1 o, st.2 ++ [st.1])) (x, [])
        let v : State := { t with mem := t.mem.write key p.addr (leBytes n out.1) }
        let v := if p.masked then v.reply p typeDone [] else v.reply p typeAdata (out.2.map (leBytes n)).flatten
        .next (v.ingressDone p.sdev p.payload.length)

/-! ### Replies (R329, R336, R338) -/

/-- The transaction that a reply answers. -/
def State.txnOf (s : State) (q : Packet) : Option Txn := s.fab.txns.find? fun x => x.tag == q.tag && x.dev == q.sdev

/-- The requests of an entry that await a transaction. -/
def State.awaiting (s : State) (entry tag : Nat) : List Req :=
  s.reqs.filter fun r => decide (r.phase = .remote entry tag)

/-- The offset of a request's bytes in what a transaction asked for. -/
def Entry.offsetIn (e : Entry) (x : Txn) (r : Req) : Nat := e.pa % 2 ^ 42 + r.addr % 128 - x.addr

/-- Take the piece of a transaction out of an engine command's flight. -/
def State.landed (s : State) (id tag : Nat) : State :=
  s.modCmd id fun q => { q with flight := q.flight.filter fun f => f.1 != tag }

def State.modJob (s : State) (id : Nat) (f : HostJob → HostJob) : State :=
  { s with fw := { s.fw with jobs := s.fw.jobs.map fun j => if j.id = id then f j else j } }

/-- A line that a LAUNCH waits for has come from a peer, or cannot be read. -/
def State.lineCame (s : State) (job dev line : Nat) (bs : Option (List Byte)) : State :=
  if s.fw.jobs.any fun j => j.id == job then
    ({ s with fw := { s.fw with lines := s.fw.lines ++ [(dev, line, bs)] } } : State).modJob job fun j => { j with wait := false }
  else s

/-- A command that has started is complete. -/
def State.endJob (s : State) (j : HostJob) (status : Nat) : State :=
  ({ s with fw := { s.fw with jobs := s.fw.jobs.filter fun k => k.id != j.id } } : State).post j.cmd.fn
    ⟨j.cmd.cid, status, 0, []⟩

/-- A host COPY has performed n more bytes; it completes with the last (R354). -/
def State.copied (s : State) (j : HostJob) (n : Nat) : State :=
  if j.cmd.a2.toNat ≤ j.done + n then s.endJob j 0
  else s.modJob j.id fun k => { k with done := k.done + n, wait := false }

def State.job? (s : State) (id : Nat) : Option HostJob := s.fw.jobs.find? fun j => j.id == id

/-- RDATA. -/
def execRdata (port : Nat) (p : Packet) (s : State) : Host.Outcome State Fault Refusal :=
  match s.arrived port typeRdata p with
  | none => .next s
  | some t =>
    match t.txnOf p with
    | none => .next t
    | some x =>
      let t := t.endTxn x
      match x.waiter with
      | .entry id =>
        match t.entries.find? fun e => e.id == id with
        | none => .next t
        | some e =>
          .next ((t.awaiting id x.tag).foldl (fun (u : State) r =>
            u.gotBytes r ((p.payload.drop (e.offsetIn x r)).take r.size)) t).pruneEntries
      | .cmdRead id row lo _ =>
        match t.cmd? id with
        | none => .next t
        | some k =>
          let u := t.landed id x.tag
          if k.queue = 5 then .next (u.modCmd id fun q => { q with buf := q.buf ++ [(row, p.payload)] })
          else .next (u.enginePut k row lo p.payload)
      | .copy id n =>
        match t.job? id with
        | none => .next t
        | some j =>
          .next (({ t with host := t.host.write (hostAddr (j.cmd.a0.toNat + j.done)) p.payload } : State).copied j n)
      | .line job d line => .next (t.lineCame job d line (some p.payload))
      | .cmdWrite .. => .next t

/-- ADATA: the value that stood in the peer's memory gives every lane of the request what it fetches. -/
def execAdata (port : Nat) (p : Packet) (s : State) : Host.Outcome State Fault Refusal :=
  match s.arrived port typeAdata p with
  | none => .next s
  | some t =>
    match t.txnOf p with
    | none => .next t
    | some x =>
      let t := t.endTxn x
      match x.waiter with
      | .entry id =>
        .next ((t.awaiting id x.tag).foldl (fun (u : State) r =>
          let out := r.combine (ofLe (p.payload.take r.size))
          (u.modReq r.id fun q => { q with parts := out.2.1, phase := .done }).atomicFlags r out.2.2) t).pruneEntries
      | _ => .next t

/-- DONE. -/
def execDoneReply (port : Nat) (p : Packet) (s : State) : Host.Outcome State Fault Refusal :=
  match s.arrived port typeDone p with
  | none => .next s
  | some t =>
    match t.txnOf p with
    | none => .next t
    | some x =>
      let t := t.endTxn x
      match x.waiter with
      | .entry id => .next ((t.awaiting id x.tag).foldl (fun (u : State) r => u.performed r) t).pruneEntries
      | .cmdWrite id .. => .next (t.landed id x.tag)
      | .copy id n => match t.job? id with | none => .next t | some j => .next (t.copied j n)
      | .cmdRead .. | .line .. => .next t

/-- REFUSED: the lanes take FABRIC_ACCESS_DENIED, or MC_DATA_POISON where their own sector is poisoned; an entry's other
requests are sent again. An engine command stops. -/
def execRefused (port : Nat) (p : Packet) (s : State) : Host.Outcome State Fault Refusal :=
  match s.arrived port typeRefused p with
  | none => .next s
  | some t =>
    match t.txnOf p with
    | none => .next t
    | some x =>
      let t := t.endTxn x
      let poison := p.payload.getD 0 0 == 6
      let mask := (p.payload.getD 1 0).toNat
      let fail := fun (id row lo access : Nat) =>
        match t.cmd? id with
        | none => t
        | some k =>
          let va := if k.wordWait then k.w.ctarget else if access = 4 then k.readAt row lo else k.dstAt row lo
          (t.landed id x.tag).failCmd k (if poison then .mcEnginePoison else .engineAbort) va access (if poison then 6 else 4)
      match x.waiter with
      | .entry id =>
        match t.entries.find? fun e => e.id == id with
        | none => .next t
        | some e =>
          let hit := fun (r : Req) => (List.range 8).any fun i =>
            bitOf mask i && decide ((e.pa % 2 ^ 42 + r.addr % 128) / 32 ≤ x.addr / 32 + i
              ∧ x.addr / 32 + i ≤ (e.pa % 2 ^ 42 + r.addr % 128 + r.size - 1) / 32)
          .next ((t.awaiting id x.tag).foldl (fun (u : State) r =>
            if !poison then u.lateRefuse r .fabricAccessDenied 4
            else if hit r then u.lateRefuse r .mcDataPoison 6
            else u.setPhase r.id (.accepted id)) t).pruneEntries
      | .cmdRead id row lo _ => .next (fail id row lo 4)
      | .cmdWrite id row lo _ => .next (fail id row lo 5)
      | .copy id _ => match t.job? id with | none => .next t | some j => .next (t.endJob j 11)
      | .line job d line => .next (t.lineCame job d line none)

/-- DEMAND. -/
def execDemand (port : Nat) (p : Packet) (s : State) : Host.Outcome State Fault Refusal :=
  match s.arrived port typeDemand p with
  | none => .next s
  | some t => .next (t.modPace p.sdev fun c => { c with demandIn := max c.demandIn (ofLe (p.payload.take 8)) }).regrant

/-- GRANT. -/
def execGrant (port : Nat) (p : Packet) (s : State) : Host.Outcome State Fault Refusal :=
  match s.arrived port typeGrant p with
  | none => .next s
  | some t =>
    let t := t.modPace p.sdev fun c => { c with grantIn := max c.grantIn (ofLe (p.payload.take 8)) }
    .next (t.drain p.sdev ((t.pace p.sdev).queue.length + 1))

/-- MIRROR: the value is offered at the root when the register is bound alike here, with the mirror bit (R344). -/
def execMirror (port : Nat) (p : Packet) (s : State) : Host.Outcome State Fault Refusal :=
  match s.arrived port typeMirror p with
  | none => .next s
  | some t =>
    let i := (p.payload.getD 0 0).toNat % 16
    let c := t.ics[i]?.getD Incumbent.zero
    if c.bound && c.mirror && c.cfg == p.payload.getD 1 0 then
      .next { t.fresh with offers := t.offers ++ [⟨t.nextId, i, BitVec.ofNat 64 (ofLe ((p.payload.drop 8).take 8)), 144, true, t.cc⟩] }
    else .next t

/-- OACK: the ORIG packets of a port's space up to a number are acknowledged (R334). -/
def execOack (port : Nat) (p : Packet) (s : State) : Host.Outcome State Fault Refusal :=
  match s.arrived port typeOack p with
  | none => .next s
  | some t =>
    let n := ofLe (p.payload.take 4) % 16
    let seq := BitVec.ofNat 32 (ofLe ((p.payload.drop 4).take 4))
    if (t.port n).newAck seq then .next (t.modPort n fun x => { x.acked seq with origAt := s.time }).flushAll else .next t

/-! ### Control beats that have been received (R330, R333) -/

/-- ACK. -/
def execAck (port : Nat) (seq : W32) (s : State) : Host.Outcome State Fault Refusal :=
  if (s.port port).newAck seq then .next (s.modPort port fun x => { x.acked seq with sinceAck := s.time }).flushAll
  else .next s

/-- NAK: a replay from the first unacknowledged packet; in TRAINING it waits (R349). -/
def execNak (port : Nat) (_ : W32) (s : State) : Host.Outcome State Fault Refusal := .next (s.replay port).flushAll

/-- The lanes that a port needs at its present width. -/
def Port.activeLanes (x : Port) : List Nat :=
  match x.state with
  | 2 => List.range 16
  | 3 => List.range 8
  | 4 => (List.range 8).map (· + 8)
  | _ => []

/-- Whether an active lane is good: not failed, or replaced by a spare lane that is. -/
def Port.laneGood (x : Port) (l : Nat) : Bool :=
  !x.failed.getLsbD l || (match x.spare.findIdx? (· == l) with | some i => !x.failed.getLsbD (16 + i) | none => false)

/-- Take a port to TRAINING after a lane loss: it shows its good lanes and its key slots to the far end (R333). -/
def State.retrain (s : State) (p : Nat) : State :=
  let t := s.modPort p fun x =>
    { x with state := 1, since := s.time, retrain := true, retrains := x.retrains + 1, beats := [], frame := 0, keysOk := false }
  (t.showTraining p).linkEvent p 1 0

/-- Note lanes as failed, report the wear where LANEWARN changes (R360), and retrain a port of which an active lane is lost. -/
def State.laneLoss (s : State) (p : Nat) (lost : BitVec 18) : State :=
  let t := s.modPort p fun x => { x with failed := x.failed ||| lost }
  let x := t.port p
  let warn := (List.range 18).any fun l => !x.laneGood l
  let t := if warn then { t with fw := { t.fw with lanewarn := t.fw.lanewarn ||| BitVec.ofNat 16 (2 ^ p) } } else t
  let t := t.wearEvent s.sparestat
  if x.up && x.activeLanes.any fun l => !x.laneGood l then t.retrain p else t

/-- TRAINING: the far end tells which lanes it finds good; a port in service retrains when it has lost an active one. -/
def execTraining (port : Nat) (good : W32) (s : State) : Host.Outcome State Fault Refusal :=
  if (s.port port).state = 1 ∨ (s.port port).up = true then .next (s.laneLoss port (~~~(good.setWidth 18))) else .next s

/-- KEY: the far end confirms its key slots. -/
def execKey (port : Nat) (slot : Nat) (s : State) : Host.Outcome State Fault Refusal :=
  let x := s.port port
  if x.state = 1 ∧ x.pickSlot.isSome ∧ (x.recvKey slot).valid = true then .next (s.modPort port fun x => { x with keysOk := true })
  else .next s

/-! ### Timers and training (R330, R333, R334, R349) -/

/-- ACK_TIMER: 256 cc have passed with accepted packets not acknowledged, on the port or in its space. -/
def execAckTimer (port : Nat) (s : State) : Host.Outcome State Fault Refusal :=
  let x := s.port port
  let t := if x.up && decide (0 < x.unackRx ∧ x.rxAt + 256 ≤ s.cc) then s.sendAck port else s
  if 0 < x.origUn ∧ x.origRxAt + 256 ≤ s.cc then .next (t.sendOack port) else .next t

/-- REPLAY_TIMEOUT: 2 µs have passed with no new ACK. -/
def execReplayTimeout (port : Nat) (s : State) : Host.Outcome State Fault Refusal :=
  if (s.port port).sinceAck + micros 2 ≤ s.time then .next (s.replay port).flushAll else .next s

/-- ORIG_REPLAY_TIMEOUT: 4 µs have passed with no OACK progress; the source chooses its route anew and replays. -/
def execOrigReplayTimeout (port : Nat) (s : State) : Host.Outcome State Fault Refusal :=
  let x := s.port port
  if x.state = 5 ∧ x.replayB ≠ [] ∧ x.origAt + micros 4 ≤ s.time then
    let t := s.modPort port fun x => { x.owe with relay := s.relayFor (s.peerDev port), origAt := s.time }
    .next ((t.reroute port).flushAll.noteRoutes)
  else .next s

/-- LANE_FAILURE. -/
def execLaneFailure (port lane : Nat) (s : State) : Host.Outcome State Fault Refusal :=
  if lane < 18 ∧ port < 16 then .next (s.laneLoss port (BitVec.ofNat 18 (2 ^ lane))) else .next s

/-- The width that training chooses: FULL, then HALF_LO, then HALF_HI. -/
def Port.width (x : Port) : Option Nat :=
  let all := fun (ls : List Nat) => ls.all x.laneGood
  if all (List.range 16) then some 2
  else if all (List.range 8) then some 3
  else if all ((List.range 8).map (· + 8)) then some 4
  else none

/-- TRAINING_COMPLETE: with its key slots confirmed the port comes up at the best width, and replays. -/
def execTrainingComplete (port : Nat) (s : State) : Host.Outcome State Fault Refusal :=
  let x := s.port port
  if x.state ≠ 1 ∨ (x.retrain = true ∧ x.since + micros 8 ≤ s.time) then .next s
  else match x.width with
    | none => .next (s.goDown port 0).flushAll
    | some w =>
      if x.keysOk then
        let t := s.modPort port fun x => { x with state := w, since := s.time, sinceAck := s.time, retrain := false }
        let t := if x.retrain then t.linkEvent port w 0 else t
        .next ((t.replay port).flushAll.noteRoutes)
      else .next s

/-- RETRAINING_TIMEOUT: 8 µs of retraining have passed, and the port goes DOWN. -/
def execRetrainingTimeout (port : Nat) (s : State) : Host.Outcome State Fault Refusal :=
  let x := s.port port
  if x.state = 1 ∧ x.retrain = true ∧ x.since + micros 8 ≤ s.time then .next (s.goDown port 0).flushAll else .next s

/-! ### The loss of a peer (R174, R339) -/

/-- The fate of what awaits one transaction with a lost peer. -/
def State.loseTxn (s : State) (x : Txn) : State :=
  match x.waiter with
  | .entry id => ((s.awaiting id x.tag).foldl (fun (u : State) r => u.peerLostFate r x.dev) s).pruneEntries
  | .cmdRead id row lo _ => match s.cmd? id with
    | none => s
    | some k => (s.landed id x.tag).failCmd k .enginePeerLost (k.readAt row lo) 4 4
  | .cmdWrite id row lo _ => match s.cmd? id with
    | none => s
    | some k => (s.landed id x.tag).failCmd k .enginePeerLost (if k.wordWait then k.w.ctarget else k.dstAt row lo) 5 4
  | .copy id _ => match s.job? id with | none => s | some j => s.endJob j 11
  | .line job d line => s.lineCame job d line none

/-- Engine commands to or from a peer stop (R339). -/
def State.stopCmds (s : State) (dev : Nat) : State :=
  s.cmds.foldl (fun (t : State) k => match s.meets k dev with
    | some (access, va) => if k.fail.isSome then t else t.failCmd k .enginePeerLost va access 4
    | none => t) s

/-- Declare a peer lost: its ports are LOST, what awaited it is resolved, what has come from it is discarded, and detours
through it choose another relay. -/
def State.declareLost (s : State) (dev : Nat) : State :=
  if s.fab.lost.contains dev || dev == s.fab.device || !s.fab.present dev then s
  else
    let gone := s.fab.txns.filter fun x => x.dev == dev
    let t : State := { s with fab := { s.fab with
      lost := dev :: s.fab.lost
      lostAt := (dev, s.time) :: s.fab.lostAt
      txns := s.fab.txns.filter fun x => x.dev != dev } }
    let t := t.modPace dev fun c => { c with unsol := 0, queue := [] }
    let t := (List.range 16).foldl (fun (t : State) n => t.modPort n fun x =>
      { x with
        inbox := x.inbox.filter fun q => q.sdev != dev
        txq := x.txq.filter fun q => q.ddev != dev }.stops) t
    let ports := (List.range 16).filter fun n => decide ((s.port n).peer.map (·.1) = some dev)
    let t := ports.foldl (fun (t : State) n =>
      (t.modPort n fun x =>
        { x with
          state := 6
          since := s.time
          txq := []
          replayB := []
          owed := []
          beats := []
          frame := 0
          relay := none }).linkEvent n 6 3) t
    let t := (gone.foldl State.loseTxn t).stopCmds dev
    t.regrant.flushAll.noteRoutes

/-- PEER_LOSS_TIMEOUT: there has been no route to a peer for 10 µs. -/
def execPeerLossTimeout (dev : Nat) (s : State) : Host.Outcome State Fault Refusal :=
  let t := s.noteRoutes
  match t.fab.noRoute.find? fun q => q.1 == dev with
  | none => .next t
  | some q => if q.2 + micros 10 ≤ s.time then .next (t.declareLost dev) else .next t

/-- FENCE_PEER_TIMEOUT: what a group's fence still waits on at a lost peer is resolved (R174). -/
def execFencePeerTimeout (blk grp : Nat) (s : State) : Host.Outcome State Fault Refusal :=
  .next ((s.lostWaits blk grp).foldl (fun (t : State) (w : Req × Nat) => t.peerLostFate w.1 w.2) s).pruneEntries

end Sys2Proof.Machine
end

