-- ==== Sys2Proof/Machine/Context.lean ====
section
/-!
DEFINITION. Blocks from admission to completion (04_control.md R77, R80 to R84; 18_system.md R314 to R323; 15_tasks.md R277, R289;
11_versions.md R207; 12_engines.md R238, R240; 21_host.md R362): admission, pre-emption, the context image, completion and kill.
-/

namespace Sys2Proof.Machine

/-! ### What a block needs (R81, R182, R269, R314) -/

def LRec.fileShare (r : LRec) : Nat := r.groups * r.vregs * 128

def LRec.localBytes (r : LRec) : Nat := r.scratch + r.mirror

/-- The size of a block's context image. -/
def LRec.imageBytes (r : LRec) : Nat :=
  0x1000 + 0x9000 * r.groups + (if r.matrix then 0x3A000 else 0) + (r.localBytes + 4095) / 4096 * 4096

/-- The energy estimate of a stage in µJ. -/
def LRec.estimate (r : LRec) (stage : Nat) : Nat := ((r.stage[stage]?).map (·.energy)).getD 0

/-- Whether a block holds the resources of its core. -/
def Block.onCore (b : Block) : Bool := decide (b.st ≠ .saved)

/-- The blocks that hold resources of a core, with their launch records; those in the list out are taken to have left. -/
def State.onCore (s : State) (core : Nat) (out : List Nat) : List (Block × LRec) :=
  ((s.blocks.filter fun b => b.core == core && b.onCore && !out.contains b.id).map fun b =>
    match s.launch? b.launch with | some l => [(b, l.lr)] | none => []).flatten

/-- The groups that stand in a quadrant. -/
def quadUsed (bs : List (Block × LRec)) (quad : Nat) : Nat :=
  (bs.map fun p => (p.1.groups.filter fun g => g.quad == quad).length).foldl (· + ·) 0

def slotsUsed (bs : List (Block × LRec)) : Nat := (bs.map fun p => p.1.groups.length).foldl (· + ·) 0

/-- The quadrant with the most free slots. -/
def firstQuad (bs : List (Block × LRec)) : Nat := (leastBy (fun (q : Nat) => quadUsed bs q) (List.range 4)).getD 0

/-- Whether a core can reserve what a block of a launch needs. -/
def coreFits (bs : List (Block × LRec)) (r : LRec) : Bool :=
  let sum := fun (f : LRec → Nat) => (bs.map fun p => f p.2).foldl (· + ·) 0
  let q0 := firstQuad bs
  decide (sum LRec.fileShare + r.fileShare ≤ 1536 * 1024 ∧ sum LRec.localBytes + r.localBytes ≤ 512 * 1024)
    && (!r.matrix || decide ((bs.filter fun p => p.2.matrix).length < 8))
    && (!r.tasks || decide ((bs.filter fun p => p.2.tasks).length < 8))
    && ((List.range r.groups).all fun j =>
      decide (quadUsed bs ((q0 + j) % 4) + (j / 4 + 1) ≤ 64))

/-- Whether blocks may be placed on a core: it is in service and does not await retirement. -/
def State.coreOpen (s : State) (core : Nat) : Bool :=
  let k := s.cores[core]?.getD CoreSt.zero
  !k.outSvc && !k.worn

/-- The cores on which a block fits, most free slots first, the lower number on a tie. -/
def State.coresFor (s : State) (r : LRec) (out : List Nat) : List Nat :=
  sortBy (fun c => slotsUsed (s.onCore c out)) ((List.range 144).filter fun c => s.coreOpen c && coreFits (s.onCore c out) r)

/-- Distinct cores of one die for n blocks; a single block takes the best core. -/
def State.placeOn (s : State) (r : LRec) (n : Nat) (out : List Nat) : Option (List Nat) :=
  let cs := s.coresFor r out
  match cs.find? fun c => decide (n ≤ (cs.filter fun k => dieOf k == dieOf c).length) with
  | none => none
  | some c => some ((cs.filter fun k => dieOf k == dieOf c).take n)

/-- The images of a context's admitted and saved blocks: places and sizes. -/
def State.images (s : State) (ctx : Nat) : List (Nat × Nat) :=
  (s.blocks.map fun b => match s.launch? b.launch with
    | some l => if l.ctx = ctx then [(b.imageAt, l.lr.imageBytes)] else []
    | none => []).flatten

/-- The lowest place for an image of n bytes in a context's image store. -/
def imagePlace (c : Context) (used : List (Nat × Nat)) (n : Nat) : Option Nat :=
  (c.image :: used.map fun u => u.1 + u.2).foldl (fun (best : Option Nat) a =>
    if c.image ≤ a ∧ a + n ≤ c.image + c.imageLen ∧ (used.all fun u => decide (u.1 + u.2 ≤ a ∨ a + n ≤ u.1)) = true then
      match best with
      | none => some a
      | some b => some (min a b)
    else best) none

/-- Places for k images of n bytes. -/
def imagePlaces (c : Context) (n : Nat) : Nat → List (Nat × Nat) → Option (List Nat)
  | 0, _ => some []
  | k + 1, used =>
    match imagePlace c used n with
    | none => none
    | some a => (imagePlaces c n k ((a, n) :: used)).map (a :: ·)

/-! ### The context image (R314 to R316) -/

/-- The state code of a thread (R58); waits: it is to run, and its next instruction cannot issue. -/
def LaneSt.code (st : LaneSt) (waits : Bool) : Nat :=
  match st with
  | .run => if waits then 1 else 0
  | .held => 2
  | .sleeping _ => 3
  | .exited _ => 4
  | _ => 1

/-- A thread record. -/
def Lane.record (x : Lane) (waits : Bool) : List Byte :=
  let b := fun (c : Bool) (i : Nat) => if c then 2 ^ i else 0
  leBytes 4 x.pc.toNat ++ leBytes 4 x.mt.toNat ++ leBytes 4 x.smt.toNat
    ++ leBytes 4 (x.st.code waits + b x.helper 3 + b x.inTrap 4 + x.shield % 16 * 2 ^ 5 + x.bndIc.toNat * 2 ^ 9 + b x.ben 13)
    ++ leBytes 4 (match x.st with | .sleeping n => n | _ => 0)
    ++ leBytes 4 x.tag.toNat ++ leBytes 8 x.bnd.toNat

/-- A group area; waits gives the lanes that wait. The places of held causes, the reuse latch and the pending area hold what
only the device reads: free bytes (log 5). -/
def Group.area (g : Group) (waits : Mask) (seed : Nat) : List Byte :=
  ((List.range 128).map fun r => ((List.range 32).map fun l => leBytes 4 ((g.lane l).vreg r).toNat).flatten).flatten
    ++ ((List.range 64).map fun r => leBytes 8 (g.sreg r).toNat).flatten
    ++ ((List.range 32).map fun l => (g.lane l).record (inMask waits l)).flatten
    ++ ((List.range 7).map fun r => leBytes 4 (g.preg (r + 1)).toNat).flatten
    ++ leBytes 1 g.lc ++ leBytes 1 g.sc ++ leBytes 1 g.mc ++ leBytes 1 g.ec
    ++ ([g.cause, g.tvec, g.tepc, g.tmask, g.tstatNow, g.tscratch, g.fstat, g.faddr, g.fkind, g.fpc].map fun w =>
        leBytes 8 w.toNat).flatten
    ++ leBytes 2 g.gang.toNat ++ freeBytes seed (0x200 - 0x72) ++ freeBytes (seed + 0x200) (0x9000 - 0x4800)

/-- The bytes of the shadows of a block, in its image. -/
def Block.shadowBytes (b : Block) : List Byte :=
  (b.shadows.map fun (h : Shadow) => (h.data.map fun (w : W32) => leBytes 4 w.toNat).flatten).flatten

/-- The image of a block; waits gives the lanes of a group that wait. -/
def Block.image (b : Block) (r : LRec) (waits : Nat → Mask) (seed : Nat) : List Byte :=
  freeBytes seed 0x1000
    ++ (b.groups.zipIdx.map fun (p : Group × Nat) => p.1.area (waits p.2) (seed + 0x1000 + 0x9000 * p.2)).flatten
    ++ (if r.matrix then b.w.read 0 0x20000 ++ b.a.read 0 0x10000 ++ b.c.read 0 0x8000
        ++ (b.shadowBytes ++ List.replicate 0x2000 0).take 0x2000
      else [])
    ++ b.scratch.read 0 r.scratch ++ b.mirror.read 0 r.mirror
    ++ List.replicate ((r.localBytes + 4095) / 4096 * 4096 - r.localBytes) 0

/-- The number in n bytes of an image. -/
def fieldAt (bs : List Byte) (off n : Nat) : Nat := ofLe ((bs.drop off).take n)

/-- The state of a thread that an image gives back: code 1 leaves a thread in the wait in which the device knows it. -/
def LaneSt.ofCode (st : LaneSt) (code left : Nat) : LaneSt :=
  match code with
  | 0 => .run
  | 1 => if st.code true = 1 then st else .run
  | 2 => .held
  | 3 => .sleeping left
  | _ => match st with
    | .exited c => .exited c
    | _ => .exited false

/-- A thread with what its record and its registers in an area give. -/
def Lane.ofArea (x : Lane) (bs : List Byte) (l : Nat) : Lane :=
  let rec_ := (bs.drop (0x4200 + 32 * l)).take 32
  let w := fieldAt rec_ 12 4
  { x with
    v := tab 128 fun r => BitVec.ofNat 32 (fieldAt bs (128 * r + 4 * l) 4)
    pc := BitVec.ofNat 32 (fieldAt rec_ 0 4)
    mt := BitVec.ofNat 32 (fieldAt rec_ 4 4)
    smt := BitVec.ofNat 32 (fieldAt rec_ 8 4)
    st := x.st.ofCode (bitsOf w 2 0) (fieldAt rec_ 16 4)
    helper := bitOf w 3
    inTrap := bitOf w 4
    shield := bitsOf w 8 5
    bndIc := BitVec.ofNat 4 (bitsOf w 12 9)
    ben := bitOf w 13
    tag := BitVec.ofNat 32 (fieldAt rec_ 20 4)
    bnd := BitVec.ofNat 64 (fieldAt rec_ 24 8) }

/-- A group with what its area gives; HELD is no stored bit (R300). -/
def Group.ofArea (g : Group) (bs : List Byte) : Group :=
  let csr := fun (i : Nat) => BitVec.ofNat 64 (fieldAt bs (0x4620 + 8 * i) 8)
  { g with
    lanes := tab 32 fun l => (g.lane l).ofArea bs l
    s := tab 64 fun r => BitVec.ofNat 64 (fieldAt bs (0x4000 + 8 * r) 8)
    p := tab 8 fun r => if r = 0 then g.p[0]?.getD 0 else BitVec.ofNat 32 (fieldAt bs (0x4600 + 4 * (r - 1)) 4)
    lc := fieldAt bs 0x461C 1
    sc := fieldAt bs 0x461D 1
    mc := fieldAt bs 0x461E 1
    ec := fieldAt bs 0x461F 1
    cause := csr 0
    tvec := csr 1
    tepc := csr 2
    tmask := csr 3
    tstat := csr 4 &&& 3#64
    tscratch := csr 5
    fstat := csr 6
    faddr := csr 7
    fkind := csr 8
    fpc := csr 9
    gang := BitVec.ofNat 16 (fieldAt bs 0x4670 2) }

/-- The shadows of a block with the words that an image gives. -/
def shadowsOf : List Shadow → List Byte → List Shadow
  | [], _ => []
  | h :: hs, bs =>
    { h with data := (List.range h.data.length).map fun i => BitVec.ofNat 32 (fieldAt bs (4 * i) 4) }
      :: shadowsOf hs (bs.drop (4 * h.data.length))

/-- A block with what its image gives (R320); the block-state area, the latches and the pending areas are the device's own
(log 39). -/
def Block.ofImage (b : Block) (r : LRec) (bs : List Byte) : Block :=
  let m := 0x1000 + 0x9000 * b.groups.length
  let local_ := if r.matrix then m + 0x3A000 else m
  let part := fun (off n : Nat) => (bs.drop off).take n
  { b with
    groups := b.groups.zipIdx.map fun (p : Group × Nat) => p.1.ofArea (part (0x1000 + 0x9000 * p.2) 0x9000)
    w := if r.matrix then .ofBytes (part m 0x20000) else b.w
    a := if r.matrix then .ofBytes (part (m + 0x20000) 0x10000) else b.a
    c := if r.matrix then .ofBytes (part (m + 0x30000) 0x8000) else b.c
    shadows := if r.matrix then shadowsOf b.shadows (part (m + 0x38000) 0x2000) else b.shadows
    scratch := .ofBytes (part local_ r.scratch)
    mirror := .ofBytes (part (local_ + r.scratch) r.mirror) }

/-- The lanes of a group that are to run and whose next instruction cannot issue (R58). -/
def State.waiting (s : State) (b : Block) (grp : Nat) : Mask :=
  let m := (b.group grp).runLanes
  match s.launch? b.launch with
  | none => m
  | some l =>
    if s.parked b grp then m
    else (s.stands b l grp m).foldl (fun (m : Mask) x => if x.2.runnable then m else m ||| x.1.lanes) 0

/-- Write a block's image, in whole sectors, which clears what poison they had (R313). -/
def State.storeImage (s : State) (b : Block) (l : Launch) (waits : Nat → Mask) : State :=
  let bs := b.image l.lr waits s.free
  { s with
    mem := (s.mem.write (s.keySerial (((s.context? l.ctx).map (·.key)).getD 0)) b.imageAt bs).unpoison b.imageAt bs.length
    free := s.free + bs.length }

/-! ### Queues (R80, R82) -/

/-- The item of a queue that is served first: a saved block before any launch. -/
def headItem (q : List QItem) : Option QItem :=
  match q.find? fun x => match x with | .block _ => true | .launch _ => false with
  | some x => some x
  | none => q.head?

def State.queue (s : State) (prio : Nat) : List QItem := s.fw.queues[prio]?.getD []

/-- Note the items at the heads of the queues and since when they have stood there; one that has aged stays so until it is
served, also behind a saved block of its priority (R80, log 38). -/
def State.noteHeads (s : State) : State :=
  { s with fw := { s.fw with
    heads := tab 4 fun i =>
      match (s.queue i).head?, (s.fw.heads[i]?).join with
      | some x, some h => if x = h.1 then some h else some (x, s.time)
      | some x, none => some (x, s.time)
      | none, _ => none
    aged := s.fw.aged.filter fun x => (List.range 4).any fun i => (s.queue i).contains x } }

/-- Put an item at the tail of a queue. -/
def State.enqueueItem (s : State) (prio : Nat) (x : QItem) : State :=
  { s with fw := { s.fw with queues := s.fw.queues.setIfInBounds prio (s.queue prio ++ [x]) } }.noteHeads

/-- Take an item out of the queues. -/
def State.dequeue (s : State) (x : QItem) : State :=
  { s with fw := { s.fw with
    queues := tab 4 fun i => (s.queue i).filter fun y => decide (y ≠ x)
    aged := s.fw.aged.filter fun y => decide (y ≠ x) } }.noteHeads

/-- An item has been served: it counts its time at the head from now. -/
def State.servedItem (s : State) (x : QItem) : State :=
  { s with fw := { s.fw with
    aged := s.fw.aged.filter fun y => decide (y ≠ x)
    heads := s.fw.heads.map fun h => match h with
      | some (y, t) => if y = x then some (y, s.time) else some (y, t)
      | none => none } }

/-- The item to serve next with its effective priority: an aged one, then the head of the most urgent queue. A saved block of
its priority is restored before an aged launch admits another block (R82, log 38). -/
def State.nextItem (s : State) : Option (Nat × QItem) :=
  match s.fw.aged.head? with
  | some x => some (0, (((List.range 4).find? fun i => (s.queue i).contains x).bind fun i => headItem (s.queue i)).getD x)
  | none => ((List.range 4).map fun i => (headItem (s.queue i)).map fun x => (i, x)).findSome? id

/-- QUEUE_AGING: the head of a queue has stood there for 400 µs and takes priority 0. -/
def execQueueAging (prio : Nat) (s : State) : Host.Outcome State Fault Refusal :=
  let t := s.noteHeads
  match (t.fw.heads[prio]?).join with
  | none => .next t
  | some h =>
    if h.2 + micros 400 ≤ s.time && !t.fw.aged.contains h.1 then .next { t with fw := { t.fw with aged := t.fw.aged ++ [h.1] } }
    else .next t

/-! ### Admission (R80, R81, R317) -/

/-- The coordinates of the members of the n-th unit of a launch: x, y, z and stage of each block that is admitted with
it. -/
def LRec.unit (r : LRec) (n : Nat) : List (Nat × Nat × Nat × Nat) :=
  let gx := if r.grouped then r.tiles.length else r.gridX
  let k := max 1 r.cluster
  let stage := n % r.stages
  let c := n / r.stages
  let w := gx / k
  (List.range k).map fun i => (c % w * k + i, c / w % r.gridY, c / w / r.gridY, stage)

/-- The number of units that a launch admits. -/
def LRec.units (r : LRec) : Nat := r.blocks / max 1 r.cluster

/-- A block's linear index (R80). -/
def LRec.linear (r : LRec) (p : Nat × Nat × Nat × Nat) : Nat :=
  let gx := if r.grouped then r.tiles.length else r.gridX
  ((p.2.2.1 * r.gridY + p.2.1) * gx + p.1) * r.stages + p.2.2.2

/-- A group as its block is admitted. -/
def Group.fresh (entry : W32) (slot quad now : Nat) : Group :=
  { Group.zero with
    lanes := tab 32 fun l => { Lane.zero with pc := entry, tag := tagOf slot l 0 }
    quad := quad
    readyAt := now
    idleAt := now }

/-- A block as it is admitted. -/
def Launch.fresh (l : Launch) (id core q0 image now cc : Nat) (p : Nat × Nat × Nat × Nat) : Block :=
  { Block.zero with
    id := id
    launch := l.id
    lin := l.lr.linear p
    x := p.1
    y := p.2.1
    z := p.2.2.1
    stage := p.2.2.2
    core := core
    core0 := core
    since := now
    idleAt := now
    imageAt := image
    groups := (List.range l.lr.groups).map fun j => Group.fresh (((l.lr.stage[p.2.2.2]?).map (·.entry)).getD 0) j ((q0 + j) % 4) cc
    hf := tab 8 fun i => l.lr.images[i]?.getD (Vector.replicate 8 0)
    credit := l.lr.estimate p.2.2.2 }

/-- Where a unit of n blocks of a launch may go: cores and image places, within the context's energy. -/
def State.room (s : State) (l : Launch) (n est : Nat) (out : List Nat) : Option (List Nat × List Nat) :=
  match s.context? l.ctx with
  | none => none
  | some c =>
    if c.budget < c.used + est then none
    else match s.placeOn l.lr n out, imagePlaces c l.lr.imageBytes n (s.images l.ctx) with
      | some cs, some is => some (cs, is)
      | _, _ => none

/-- Admit the blocks of a unit. The start state of each is written into its image, every byte of it (R314, R317). A request to
save that has waited for one of them saves them all (R84). -/
def State.bringIn (s : State) (l : Launch) (ps : List (Nat × Nat × Nat × Nat)) (cores images : List Nat) : State :=
  let save := l.preempts.any fun q => ps.any fun p => q.2.2 == l.lr.linear p
  (ps.zip (cores.zip images)).foldl (fun (t : State) p =>
    let b := l.fresh t.nextId p.2.1 (firstQuad (t.onCore p.2.1 [])) p.2.2 t.time t.cc p.1
    let asked := l.preempts.filter fun q => q.2.2 == b.lin
    let b := { b with
      savers := asked.map fun q => (q.1, q.2.1)
      st := if save then .saving t.time false else .resident }
    let u := ({ t.fresh with blocks := t.blocks ++ [b] } : State).storeImage b l fun _ => 0
    (u.modContext l.ctx fun c => { c with used := c.used + b.credit }).modLaunch l.id fun l =>
      { l with preempts := l.preempts.filter fun q => q.2.2 != b.lin }) s

/-- Whether the scheduler admits and restores (R367). -/
def State.admitting (s : State) : Bool := s.fw.powered && !s.fw.quiesce

/-- Whether the head of the queues is a launch whose next unit may be admitted: the commands of its killed blocks have run
to completion (R240). -/
def State.headLaunch (s : State) : Option (Launch × QItem) :=
  match s.nextItem with
  | some (_, .launch id) =>
    match s.launch? id with
    | some l => if l.next = 0 ∧ (s.cmds.any fun k => k.launch == id) = true then none else some (l, .launch id)
    | none => none
  | _ => none

/-- BLOCK_ADMISSION: the head of the queues is a launch, and one core, or one die for a cluster, has room for its next
unit. -/
def execBlockAdmission (s : State) : Host.Outcome State Fault Refusal :=
  let s := s.noteHeads
  match s.headLaunch with
  | none => .next s
  | some (l, x) =>
    let ps := l.lr.unit l.next
    let est := (ps.map fun p => l.lr.estimate p.2.2.2).foldl (· + ·) 0
    if !s.admitting then .next s
    else match s.room l ps.length est [] with
      | none => .next s
      | some (cs, is) =>
        let t := (s.bringIn l ps cs is).modLaunch l.id fun l =>
          { l with next := l.next + 1, queued := decide (l.next + 1 < l.lr.units) }
        if l.next + 1 < l.lr.units then .next (t.servedItem x) else .next (t.dequeue x)

/-! ### Requests to save (R82, R83, R84, R319) -/

/-- Begin to save a block with its cluster. -/
def State.beginSave (s : State) (b : Block) (idle : Bool) : State :=
  (s.members b).foldl (fun (t : State) m =>
    t.modBlock m.id fun x => if x.running then { x with st := .saving s.time idle } else x) s

/-- Whether every live thread of a block is in a wait that counts. -/
def State.allCounted (s : State) (b : Block) : Bool :=
  (List.range b.groups.length).all fun i => ((b.group i).live &&& ~~~(s.countedLanes b i)) == 0

/-- Whether a block has waited over 20 µs in counted waits alone. -/
def State.idleLong (s : State) (b : Block) : Bool :=
  b.running && decide (b.idleAt + micros 20 < s.time) && (b.groups.any fun g => g.live != 0) && s.allCounted b

/-- IDLE_SAVE: a block, with every member of its cluster, is saved to memory. -/
def execIdleSave (blk : Nat) (s : State) : Host.Outcome State Fault Refusal :=
  match s.block? blk with
  | none => .next s
  | some b => if (s.members b).all s.idleLong then .next (s.beginSave b true) else .next s

/-- What the head of the queues waits for: its launch, how many blocks, and their estimate. -/
def State.headNeeds (s : State) : Option (Launch × Nat × Nat) :=
  match s.nextItem with
  | some (_, .block id) =>
    match s.block? id with
    | none => none
    | some b =>
      let ms := (s.members b).filter fun m => decide (m.st = .saved)
      (s.launch? b.launch).map fun l => (l, ms.length, (ms.map fun m => l.lr.estimate m.stage).foldl (· + ·) 0)
  | _ => s.headLaunch.map fun p =>
    let ps := p.1.lr.unit p.1.next
    (p.1, ps.length, (ps.map fun q => p.1.lr.estimate q.2.2.2).foldl (· + ·) 0)

/-- Whether cores can be found for what the head waits for when some blocks have left. -/
def State.roomWithout (s : State) (l : Launch) (n : Nat) (out : List Nat) : Bool := (s.placeOn l.lr n out).isSome

/-- The blocks of a core that may be pre-empted for an item of a priority, the longest resident first. -/
def State.victims (s : State) (core prio : Nat) : List Block :=
  sortBy (fun (b : Block) => b.since) (s.blocks.filter fun b =>
    b.core == core && b.running && decide (b.since + micros 100 ≤ s.time)
      && match s.launch? b.launch with | some l => decide (prio ≤ l.lr.prio) | none => false)

/-- The fewest of a core's victims whose saves make room. -/
def State.savesOn (s : State) (l : Launch) (n core prio : Nat) : Option (List Block) :=
  let vs := s.victims core prio
  ((List.range (vs.length + 1)).find? fun k => decide (0 < k) && s.roomWithout l n ((vs.take k).map (·.id))).map vs.take

/-- PREEMPTION_FOR_ROOM: the head finds no core with room; blocks are saved on the core where the fewest saves make it. -/
def execPreemptionForRoom (s : State) : Host.Outcome State Fault Refusal :=
  let s := s.noteHeads
  match s.nextItem, s.headNeeds with
  | some (prio, _), some (l, n, _) =>
    if !s.admitting || s.roomWithout l n [] || (s.blocks.any fun b => !b.running && b.onCore) then .next s
    else
      let options := ((List.range 144).map fun c => (s.savesOn l n c prio).toList).flatten
      match leastBy (fun (vs : List Block) => vs.length) options with
      | none => .next s
      | some vs => .next (vs.foldl (fun (t : State) b => t.beginSave b false) s)
  | _, _ => .next s

/-! ### Completion (R77, R84, R238, R277, R321, R362) -/

/-- What is left of a request when its block completes: one that has been accepted, a prefetch, is answered to nobody. -/
def Req.outlive (r : Req) (b : Nat) : Option Req :=
  if r.blk ≠ b then some (if r.space = Space.mirror then { r with acks := r.acks.filter (· != b) } else r)
  else if decide (r.kind = .fence) || !r.accepted || r.isParked || decide (r.phase = .fill) then none
  else some r.ghost

/-- Complete a block: what was reserved for it is released, its unused credit goes back, and those who asked for its save
are told. What cancelled threads have sent to a region home goes on (R225, R265). -/
def State.completeBlock (s : State) (b : Block) : State :=
  let ctx := ((s.launch? b.launch).map (·.ctx)).getD 0
  let t := { s with
    blocks := s.blocks.filter fun x => x.id != b.id
    reqs := s.reqs.filterMap fun (r : Req) => r.outlive b.id
    faults := s.faults.filter fun f => f.blk != b.id
    pres := s.pres.filter fun p => p.blk != b.id
    home := s.home.filter fun h => h.blk != b.id || s.homeSent h
    cmds := s.cmds.map fun (k : Cmd) => if k.blk = b.id then { k with kept := some (b.scratch, b.a) } else k }
  let t := t.pruneEntries.modContext ctx fun c => { c with used := c.used - b.credit }
  let t := t.modLaunch b.launch fun l => { l with left := l.left - 1 }
  b.savers.foldl (fun (t : State) a => t.post a.1 ⟨a.2, 5, 0, []⟩) t

/-- BLOCK_COMPLETION. -/
def execBlockCompletion (blk : Nat) (s : State) : Host.Outcome State Fault Refusal :=
  match s.block? blk with
  | none => .next s
  | some b => if b.running && s.complete b then .next (s.completeBlock b) else .next s

/-! ### Saving (R84, R224, R265, R289, R319, R321) -/

/-- A thread as its image keeps it: its windows and its YIELD flag are gone, and what it has left to sleep is kept. -/
def Lane.saved (x : Lane) (now : Nat) : Lane :=
  { x with
    wins := []
    yielded := false
    skip := 0
    st := match x.st with | .sleeping n => .sleeping (n - now) | st => st }

/-- The spawn queue of a saved block: what is to be pruned has gone, and its share has been written to the ring (R284, R289). -/
def State.saveQueue (s : State) (b : Block) : State :=
  match s.launch? b.launch with
  | none => s
  | some l =>
    if !l.lr.tasks then s
    else
      let q := b.q.prune
      let t := q.share.foldl (fun (t : State) r => t.ringStore l (l.lr.recordAt b.lin r.index) r.bytes) s
      t.modBlock b.id fun b =>
        { b with q := { q with
            share := []
            ring := (q.share.map fun r => (r.index, r.time)) ++ q.ring
            refill := true } }

/-- Withdraw what a block has asked of others and a save does not wait for: its requests at region homes, unless they have been
answered, which counts their instruction as issued; its reads before issue, its fences' marks, and its blocked VNLDs, which
are sent again on restoration (R224, R265). -/
def State.withdraw (s : State) (b : Block) : State :=
  let t := (s.home.filter fun h => h.blk == b.id).foldl (fun (t : State) h =>
    if h.answered then t.homeIssue h else t.withdrawHome h) s
  let t := (t.pres.filter fun p => p.blk == b.id).foldl (fun (t : State) p => t.dropPre p.id) t
  ({ t with reqs := (t.reqs.filter fun r => !(r.blk == b.id && decide (r.kind = .fence))).map fun r =>
      match r.phase with
      | .blocked _ | .retry _ _ => if r.blk = b.id then { r with phase := .issued } else r
      | _ => r } : State).pruneEntries

/-- Write the image of a block and release its core. -/
def State.writeImage (s : State) (b : Block) (l : Launch) (idle : Bool) : State :=
  let waits := (List.range b.groups.length).map (s.waiting b)
  let t := (s.withdraw b).saveQueue b
  let t := t.modBlock b.id fun b =>
    { b with
      st := .saved
      residence := b.residence + (s.time - b.since)
      credit := 0
      savers := []
      groups := b.groups.map fun g =>
        { g with active := none, idleOut := false }.modLanes (maskOf fun _ => true) fun _ x => x.saved s.cc }
  let t := match t.block? b.id with
    | none => t
    | some q => t.storeImage q l fun i => waits.getD i 0
  let t := t.modContext l.ctx fun c => { c with used := c.used - b.credit }
  let t := b.savers.foldl (fun (t : State) a => t.post a.1 ⟨a.2, 4, 0, []⟩) t
  if idle then t else t.enqueueItem l.lr.prio (.block b.id)

/-- BLOCK_SAVE: a block that is being saved has drained, and no bytes are in flight to it or, for mirror stores, to its
cluster, before 10 µs have passed: it completes if it meets R77, else its image is written. -/
def execBlockSave (blk : Nat) (s : State) : Host.Outcome State Fault Refusal :=
  match s.block? blk with
  | none => .next s
  | some b =>
    match s.launch? b.launch, b.st with
    | some l, .saving since idle =>
      if !s.savable b || decide (since + saveLimit ≤ s.time) then .next s
      else if s.complete b then .next (s.completeBlock b)
      else .next (s.writeImage b l idle)
    | _, _ => .next s

/-- SAVE_TIMEOUT: 10 µs have passed since the block drained, before the last bytes in flight to it, or the last mirror stores
within its cluster, had landed and it was saved (Due.lean). -/
def execSaveTimeout (blk : Nat) (s : State) : Host.Outcome State Fault Refusal :=
  match s.block? blk with
  | none => .next s
  | some b =>
    match b.st with
    | .saving since _ =>
      if since + saveLimit ≤ s.time && s.drained b then
        .next (s.kill b.launch blk 0 0x304)
      else .next s
    | _ => .next s

/-- Kill a block's launch with SAVE_FAULT: its report names the physical address in the image that failed, a poisoned sector where
there is one, else a free value (R322, R359, log 5). -/
def State.killImage (s : State) (b : Block) (grp : Nat) : State :=
  match s.launch? b.launch with
  | none => s
  | some l =>
    let n := l.lr.imageBytes
    let pa := (s.mem.poisonAt b.imageAt n).getD (b.imageAt + Config.pick s.free % max 1 n)
    ({ s with free := s.free + 1 } : State).kill b.launch b.id grp 0x305 [BitVec.ofNat 64 pa]

/-! ### Restoration (R82, R84, R289, R320) -/

/-- A thread as it is restored. -/
def Lane.restored (x : Lane) (now : Nat) : Lane :=
  { x with
    dom := 0
    st := match x.st with | .sleeping n => .sleeping (n + now) | st => st }

/-- The fault-buffer entries of a restored block enter its core's fault buffer: parked lines that translate now go on, and held
lines are sent again (R149, R224). -/
def State.reenter (s : State) (b : Block) : State :=
  let t : State := { s with faults := s.faults.filter fun f =>
      f.blk != b.id || f.fetch.isSome || s.reqs.any fun r => decide (r.phase = .parked f.id) }
  let held := (t.reqs.filter fun r => r.blk == b.id && r.isHeld).filterMap Req.entry?
  (t.entries.filter fun e => held.contains e.id).foldl State.retryLine t

/-- Put a saved block on a core: it is read from its image, its fault-buffer entries and withdrawn requests come with it, and
parked lines that translate now go on. -/
def State.restoreOn (s : State) (b : Block) (l : Launch) (core : Nat) : State :=
  let q0 := firstQuad (s.onCore core [])
  let image := s.mem.read (s.keySerial (((s.context? l.ctx).map (·.key)).getD 0)) b.imageAt l.lr.imageBytes
  let walks := fun (r : Req) => match s.context? l.ctx with
    | none => false
    | some c => match s.walk c r.addr with
      | .invalid => false
      | .ok _ _ w _ => w || !r.needsW
      | _ => true
  let t := s.modBlock b.id fun b =>
    let b := b.ofImage l.lr image
    { b with
      core := core
      st := .resident
      since := s.time
      idleAt := s.time
      credit := l.lr.estimate b.stage
      groups := b.groups.zipIdx.map fun (p : Group × Nat) =>
        { p.1 with quad := (q0 + p.2) % 4, readyAt := s.cc, idleAt := s.cc }.modLanes (maskOf fun _ => true) fun _ x =>
          x.restored s.cc }
  let t := t.modContext l.ctx fun c => { c with used := c.used + l.lr.estimate b.stage }
  let t : State := { t with
    reqs := t.reqs.map fun r =>
      if r.blk ≠ b.id then r
      else { r with core := core, phase := if r.isParked && walks r then .issued else r.phase }
    entries := t.entries.map fun e =>
      if (t.inEntry e.id).any fun r => r.blk == b.id then { e with core := core } else e }
  ({ t with faults := t.faults.map fun (f : FaultEntry) => if f.blk = b.id then { f with core := core } else f } : State).reenter b

/-- Cancel the dominated threads of a restored block, but for those inside a SHIELD window (R289). -/
def State.cancelDominated (s : State) (b : Block) (l : Launch) : State :=
  (List.range b.groups.length).foldl (fun (t : State) g =>
    (List.range 32).foldl (fun (t : State) k =>
      match t.block? b.id with
      | none => t
      | some q => if t.toCancel q ((q.group g).lane k) then t.cancel q l g k else t) t) s

/-- Whether a block that R83 has saved may be queued: something that it waited for has come. -/
def State.awake (s : State) (b : Block) : Bool := !s.allCounted b

/-- BLOCK_RESTORATION: a block saved under R83 is queued when what it waited for has come; the saved block at the head of
the queues is restored, with its cluster, when there is room. An error in its image kills its launch (R322). -/
def execBlockRestoration (blk : Nat) (s : State) : Host.Outcome State Fault Refusal :=
  let s := s.noteHeads
  match s.block? blk with
  | none => .next s
  | some b =>
    match s.launch? b.launch with
    | none => .next s
    | some l =>
      let ms := (s.members b).filter fun m => decide (m.st = .saved)
      let queued := ms.any fun m => (List.range 4).any fun i => (s.queue i).contains (.block m.id)
      if b.st ≠ .saved then .next s
      else if !queued then
        (if ms.any s.awake then .next (s.enqueueItem l.lr.prio (.block blk)) else .next s)
      else if !s.admitting || decide (s.nextItem.map (·.2) ≠ some (.block blk)) || (s.members b).any (fun m => !m.running && m.onCore) then
        .next s
      else
        let est := (ms.map fun m => l.lr.estimate m.stage).foldl (· + ·) 0
        match ms.find? fun m => s.mem.poisoned m.imageAt l.lr.imageBytes with
        | some m => .next (s.killImage m 0)
        | none =>
          match s.context? l.ctx, s.placeOn l.lr ms.length [] with
          | some c, some cs =>
            if c.budget < c.used + est then .next s
            else
              let t := (ms.zip cs).foldl (fun (t : State) p => t.restoreOn p.1 l p.2) s
              let t := ms.foldl (fun (t : State) m => t.dequeue (.block m.id)) t
              .next (ms.foldl (fun (t : State) m => t.cancelDominated m l) t)
          | _, _ => .next s

/-! ### The end of a launch (R207, R238, R279, R323) -/

/-- Close a region: each byte whose value at version P differs from memory is written there, and the records go back. -/
def State.closeRegion (s : State) (g : Region) : State :=
  match s.context? g.ctx with
  | none => s
  | some c =>
    let t := (distinct (g.recs.map (·.line))).foldl (fun (t : State) line =>
      match t.walk c (128 * line) with
      | .ok base key _ _ =>
        let pa := Xlat.addr base (128 * line)
        let old := t.mem.read (t.keySerial key) pa 128
        let new := g.valueAt (128 * line) g.pub old
        (List.range 128).foldl (fun (t : State) i =>
          if old.getD i 0 = new.getD i 0 then t else t.writeHome (pa + i) key [new.getD i 0]) t
      | _ => t) s
    { t with regions := t.regions.filter fun r => !(r.launch == g.launch && r.num == g.num) }

/-- Unbind the incumbents of a launch that no other incomplete launch binds. -/
def State.unbindIcs (s : State) (l : Launch) : State :=
  let last := fun (i : Nat) => (l.lr.icbind[i]?.getD 0).getLsbD 0
    && !s.fw.launches.any fun m => m.id != l.id && (m.lr.icbind[i]?.getD 0).getLsbD 0
  let upd := fun (v : Vector Incumbent 16) => tab 16 fun i =>
    let c := v[i]?.getD Incumbent.zero
    if last i then { c with cfg := 0 } else c
  { s with
    ics := upd s.ics
    cores := tab 144 fun k => let c := s.cores[k]?.getD CoreSt.zero; { c with ic := upd c.ic } }

/-- Whether offers to the incumbents of a launch are still on their way. -/
def State.offersTo (s : State) (l : Launch) : Bool := s.offers.any fun o => !o.mirror && (l.lr.icbind[o.ic]?.getD 0).getLsbD 0

/-- The completion entry of a launch. -/
def Launch.status (l : Launch) : CEntry :=
  match l.killed, l.engErr with
  | some code, _ => ⟨l.cid, 3, code, [BitVec.ofNat 64 l.id]⟩
  | none, some c => ⟨l.cid, 12, c, [BitVec.ofNat 64 l.id]⟩
  | none, none => ⟨l.cid, 0, 0, [BitVec.ofNat 64 l.id]⟩

/-- LAUNCH_COMPLETION: the blocks and the engine commands of a launch are done; its regions close, and its completion is
reported. -/
def execLaunchCompletion (launch : Nat) (s : State) : Host.Outcome State Fault Refusal :=
  match s.launch? launch with
  | none => .next s
  | some l =>
    let done := decide (l.killed.isSome = true ∨ l.left = 0) && !(s.blocks.any fun b => b.launch == launch)
      && !(s.cmds.any fun k => k.launch == launch) && !(s.home.any fun h => h.launch == launch) && !s.offersTo l
    if !done then .next s
    else
      let t := (s.regions.filter fun g => g.launch == launch).foldl State.closeRegion s
      let t := (t.unbindIcs l).dequeue (.launch launch)
      let t := l.preempts.foldl (fun (t : State) p => t.post p.1 ⟨p.2.1, 5, 0, []⟩) t
      .next (({ t with fw := { t.fw with launches := t.fw.launches.filter fun m => m.id != launch } } : State).post l.fn l.status)

/-- LAUNCH_KILL: a report of R312 kills the whole launch of a block. -/
def execLaunchKill (blk grp : Nat) (code : Nat) (s : State) : Host.Outcome State Fault Refusal :=
  match s.block? blk with
  | none => .next s
  | some b =>
    if code = 0x305 then .next (s.killImage b grp)
    else if (0x303 ≤ code ∧ code ≤ 0x306) ∨ code = codeDoubleFault ∨ code = codeUnhandled then .next (s.kill b.launch blk grp code) else .next s

end Sys2Proof.Machine
end

