-- ==== Sys2Proof/Machine/Host.lean ====
section
/-!
DEFINITION. The host's side (21_host.md R351 to R362; 03_assembly_object.md R53 to R57): BAR0 registers, the command rings and
every command of a context, with the validation of a launch record.
-/

namespace Sys2Proof.Machine

/-! ### Submission rings (R352 to R354) -/

/-- The command that a 64-byte entry of a function's submission ring holds (R353). -/
def commandOf (fn : Nat) (bs : List Byte) : HostCmd :=
  let n := fun (at_ k : Nat) => ofLe ((bs.drop at_).take k)
  let a := fun (i : Nat) => BitVec.ofNat 64 (n (16 + 8 * i) 8)
  ⟨fn, n 0 2, n 2 2, BitVec.ofNat 32 (n 4 4), n 8 2, n 10 6 != 0, a 0, a 1, a 2, a 3, a 4, a 5⟩

/-- Whether a function has a command to serve. -/
def Fn.pending (x : Fn) : Bool :=
  ringOn x.sqcfg && decide (x.sqhead % ringLen x.sqcfg ≠ x.sqtail.toNat % ringLen x.sqcfg)

/-- The oldest command of a function that has one. -/
def State.oldest (s : State) (f : Nat) : HostCmd :=
  let x := s.fn f
  commandOf f (s.host.read (hostAddr (x.sqbase.toNat / 4096 * 4096 + 64 * (x.sqhead % ringLen x.sqcfg))) 64)

/-- The function whose turn it is: the next one with a command, in round-robin order. -/
def State.turn (s : State) : Option Nat :=
  ((List.range 65).map fun i => (s.fw.rr + 1 + i) % 65).find? fun f => (s.fn f).pending

/-- Move a function's submission index past the command that it has served. -/
def State.passCmd (s : State) (f : Nat) : State :=
  let x := s.fn f
  let t := s.setFn f { x with sqhead := (x.sqhead + 1) % ringLen x.sqcfg }
  { t with fw := { t.fw with rr := f } }

/-- Answer a command. -/
def State.answer (s : State) (c : HostCmd) (status detail : Nat) (es : List W64) : State :=
  s.post c.fn ⟨c.cid, status, detail, es⟩

/-- Whether the firmware serves a command now: it is the oldest of the function whose turn it is, of the given opcode,
and neither a checkpoint nor a maintenance runs (R366, R367). -/
def State.serves (s : State) (c : HostCmd) (op : Nat) : Bool :=
  c.op == op && s.turn == some c.fn && decide (s.oldest c.fn = c) && !s.fw.quiesce
    && !s.fw.jobs.any fun j => j.cmd.op == 0x10

/-- Who may issue a command (R354). -/
inductive Issuer where
  | any | owner | pf0
  deriving DecidableEq, Repr

/-- Why a command is turned away before it is looked at closely: a reserved field, its function's state, or its issuer. -/
def State.deny (s : State) (c : HostCmd) (w : Issuer) : Option Nat :=
  let run := c.fn == 0 || (s.fn c.fn).tdisp == 2 || (c.op == 1 && (s.fn c.fn).tdisp == 1)
  let mine := match s.context? c.ctx with | some k => k.fn == c.fn && decide (c.ctx < 256) | none => false
  if c.res0 || c.flags / 2 != 0 || c.cid == 0xFFFF_FFFF#32 then some 6
  else if !run then some 7
  else match w with
    | .any => none
    | .owner => if mine then none else some 7
    | .pf0 => if c.fn = 0 then none else some 7

/-- Serve a command: take it from its ring, and answer it or go on with f. -/
def State.serve (s : State) (c : HostCmd) (op : Nat) (w : Issuer) (f : State → State) : Host.Outcome State Fault Refusal :=
  if s.serves c op then
    let t := s.passCmd c.fn
    match t.deny c w with
    | some e => .next (t.answer c e 0 [])
    | none => .next (f t)
  else .next s

/-- SQTAIL: entries up to tail − 1 are ready; dma is what the host has written to its memory before. -/
def execSqtail (fn tail : Nat) (dma : List (Nat × Byte)) (s : State) : Host.Outcome State Fault Refusal :=
  let t := { s with host := dma.foldl (fun (m : Memory) p => m.put (hostAddr p.1) p.2) s.host }
  if 65 ≤ fn then .next t else .next (t.setFn fn { t.fn fn with sqtail := BitVec.ofNat 64 (tail % 2 ^ 16) })

/-- CQHEAD: completion entries are free, and waiting events are written. -/
def execCqhead (fn head : Nat) (s : State) : Host.Outcome State Fault Refusal :=
  if 65 ≤ fn then .next s
  else .next ((s.setFn fn { s.fn fn with cqhead := BitVec.ofNat 64 (head % 2 ^ 16) }).drainEvents fn 4096)

/-- A queue's new configuration: a ring of 2^4 to 2^16 entries may be enabled (DESIGN CHOICE, log 23: any other is
ignored). -/
def cfgOk (val : W64) : Bool := !ringOn val || decide (4 ≤ (val.extractLsb' 0 5).toNat ∧ (val.extractLsb' 0 5).toNat ≤ 16)

/-- A function after a write to one of its registers; the firmware starts an enabled ring at index 0, and the completion
ring in phase 1 (R353; DEDUCED, log 23). -/
def Fn.write (x : Fn) (off : Nat) (val : W64) : Fn :=
  let addr := val &&& 0xFFFF_FFFF_FFFF_F000#64
  let y := match off with
    | 0x008 => if ringOn x.sqcfg then x else { x with sqbase := addr }
    | 0x010 =>
      if ringOn x.sqcfg || !cfgOk val then x
      else { x with sqcfg := val &&& 0x3F#64, sqhead := 0, sqtail := 0 }
    | 0x020 => if ringOn x.cqcfg then x else { x with cqbase := addr }
    | 0x028 =>
      if ringOn x.cqcfg || !cfgOk val then x
      else { x with cqcfg := val &&& 0x3F#64, cqtail := 0, phase := true }
    | 0x038 => { x with irq := val &&& 1#64 }
    | _ => x
  if (off = 0x010 ∨ off = 0x028) ∧ ringOn y.sqcfg ∧ ringOn y.cqcfg ∧ y ≠ x then { y with failed := false } else y

/-- FNSTAT (R352): the TDISP state of R355 and FAILED; PF0 is always in RUN. -/
def State.fnstat (s : State) (f : Nat) : Nat :=
  (if f = 0 then 2 else (s.fn f).tdisp % 8) + (if (s.fn f).failed then 8 else 0)

/-- What a host read of a BAR0 register returns (R352); SQTAIL, which is write-only, and every other offset read as 0 (DESIGN
CHOICE, log 23). -/
def State.bar0 (s : State) (f off : Nat) : W64 :=
  let x := s.fn f
  match off with
  | 0x000 => BitVec.ofNat 64 (s.fnstat f)
  | 0x008 => x.sqbase
  | 0x010 => x.sqcfg
  | 0x020 => x.cqbase
  | 0x028 => x.cqcfg
  | 0x030 => x.cqhead
  | 0x038 => x.irq
  | _ => 0

/-- REGISTER_WRITE. -/
def execRegisterWrite (fn off : Nat) (val : W64) (s : State) : Host.Outcome State Fault Refusal :=
  if 65 ≤ fn then .next s
  else .next ((s.setFn fn ((s.fn fn).write off val)).drainEvents fn 4096)

/-! ### Contexts (R354, R357, R362) -/

/-- IDENTIFY. A command of unknown opcode is read in its turn like any other, and completes with BAD_COMMAND (R354). -/
def execIdentify (c : HostCmd) (s : State) : Host.Outcome State Fault Refusal :=
  if (c.op = 0 ∨ 0x12 < c.op) ∧ s.serves c c.op = true then .next ((s.passCmd c.fn).answer c 6 0 [])
  else s.serve c 0x01 .any fun t =>
    t.answer c 0 0 [BitVec.ofNat 64 t.archid, BitVec.ofNat 64 t.sparestat, Config.serialNumber]

/-- The stores of a context: version store and image store. -/
def Context.stores (c : Context) : List (Nat × Nat) := [(c.vstore, 256 * c.vrecs), (c.image, c.imageLen)].filter fun e => e.2 != 0

/-- The most that all budgets may sum to, in µJ. -/
def budgetLimit : Nat := 22_000_000

/-- The sum of all budgets but one context's. -/
def State.budgets (s : State) (but : Nat) : Nat :=
  ((s.fw.contexts.filter fun c => c.id != but).map fun c => c.nextBud.getD c.budget).foldl (· + ·) 0

/-- Whether a function may name a KEYID. -/
def State.mayName (s : State) (fn key : Nat) : Bool := (fn == 0 && key == 0) || s.keyOf key fn

/-- The context that a CTX_CREATE asks for. -/
def HostCtx (c : HostCmd) (id : Nat) : Context :=
  { id := id
    fn := c.fn
    root := c.a0.toNat
    vstore := c.a1.toNat
    vrecs := c.a2.toNat
    image := c.a4.toNat
    imageLen := c.a5.toNat
    budget := bitsOf c.a3.toNat 31 0
    nextBud := none
    used := 0
    key := bitsOf c.a3.toNat 41 32 }

/-- CTX_CREATE; the order of its checks is DESIGN CHOICE (log 23). -/
def execCtxCreate (c : HostCmd) (s : State) : Host.Outcome State Fault Refusal :=
  s.serve c 0x02 .any fun t =>
    let k := HostCtx c (((List.range 256).find? fun n => (t.context? n).isNone).getD 256)
    let others := (t.fw.contexts.map Context.stores).flatten
    let meets := fun (e f : Nat × Nat) => decide (e.1 < f.1 + f.2 ∧ f.1 < e.1 + e.2)
    if k.imageLen = 0 ∨ k.imageLen % 2 ^ 16 ≠ 0 then t.answer c 6 0 []
    else if !t.mayName c.fn k.key then t.answer c 7 0 []
    else if k.root % 4096 ≠ 0 ∨ !isLocal k.root 4096 then t.answer c 11 0 []
    else if k.stores.any fun e => e.1 % 2 ^ 16 != 0 || !isLocal e.1 e.2 || others.any (meets e) then t.answer c 11 0 []
    else if k.id = 256 ∨ budgetLimit < t.budgets 256 + k.budget then t.answer c 8 0 []
    else
      ({ t with fw := { t.fw with contexts := t.fw.contexts ++ [k], created := true } } : State).answer c 0 0
        [BitVec.ofNat 64 k.id]

/-- Forget a context. -/
def State.dropContext (s : State) (id : Nat) : State :=
  { s with
    tlb := s.tlb.filter fun e => e.ctx != id
    codebuf := s.codebuf.filter fun k => k.ctx != id
    reports := s.reports.filter fun r => r.ctx != id
    fw := { s.fw with contexts := s.fw.contexts.filter fun k => k.id != id } }

/-- CTX_DESTROY. -/
def execCtxDestroy (c : HostCmd) (s : State) : Host.Outcome State Fault Refusal :=
  s.serve c 0x03 .owner fun t =>
    if (t.fw.launches.any fun l => l.ctx == c.ctx) || t.fw.jobs.any fun j => j.cmd.op == 6 && j.cmd.ctx == c.ctx then
      t.answer c 9 0 []
    else (t.dropContext c.ctx).answer c 0 0 []

/-- ENERGY_SET. -/
def execEnergySet (c : HostCmd) (s : State) : Host.Outcome State Fault Refusal :=
  s.serve c 0x09 .pf0 fun t =>
    let b := bitsOf c.a0.toNat 31 0
    match t.context? c.ctx with
    | none => t.answer c 7 0 []
    | some k =>
      if k.fn ≠ 0 then t.answer c 7 0 []
      else if budgetLimit < t.budgets c.ctx + b then t.answer c 8 0 []
      else (t.modContext c.ctx fun k => { k with nextBud := some b }).answer c 0 0 []

/-! ### TLB_INVAL and COPY (R354) -/

/-- Start a job. -/
def State.addJob (s : State) (c : HostCmd) : State :=
  { s.fresh with fw := { s.fw with jobs := s.fw.jobs ++ [⟨s.nextId, c, 0, false, none⟩] } }

/-- Drop the translations of a context in a range, and the lines of code that its cores have fetched from peers there;
length 0 is all of them. -/
def State.dropTlb (s : State) (ctx va n : Nat) : State :=
  let inside := fun (at_ size : Nat) => n == 0 || decide (at_ < va + n ∧ va < at_ + size)
  { s with
    tlb := s.tlb.filter fun e => !(e.ctx == ctx && inside (e.page * 2 ^ 16) (2 ^ 16))
    codebuf := s.codebuf.filter fun k => !(k.ctx == ctx && inside (k.line * 128) 128) }

/-- Whether an earlier COPY of a function's queue is not complete. -/
def State.copying (s : State) (fn id : Nat) : Bool := s.fw.jobs.any fun j => j.cmd.op == 5 && j.cmd.fn == fn && decide (j.id < id)

/-- TLB_INVAL: translations are dropped, and it completes once every earlier COPY of its queue has. -/
def execTlbInval (c : HostCmd) (s : State) : Host.Outcome State Fault Refusal :=
  match s.fw.jobs.find? fun j => decide (j.cmd = c) && c.op == 4 && !s.copying c.fn j.id with
  | some j => .next ((s.dropTlb c.ctx c.a0.toNat c.a1.toNat).endJob j 0)
  | none =>
    s.serve c 0x04 .owner fun t =>
      let u := t.dropTlb c.ctx c.a0.toNat c.a1.toNat
      if t.copying c.fn t.nextId then u.addJob c else u.answer c 0 0 []

/-- Move the next bytes of a COPY, at most to the end of a line of device memory. A fault ends it with BAD_ADDRESS, with the
bytes before it performed. -/
def State.copyPiece (s : State) (j : HostJob) : State :=
  let c := j.cmd
  let va := c.a1.toNat + j.done
  let n := min (c.a2.toNat - j.done) (128 - va % 128)
  let ha := hostAddr (c.a0.toNat + j.done)
  let write := bitOf c.a3.toNat 0 == false
  let bs := s.host.read ha n
  let hold := fun (t : State) => t.modJob j.id fun q => { q with wait := true }
  match s.context? c.ctx with
  | none => s.endJob j 11
  | some k =>
    if 2 ^ 52 < va + n then s.endJob j 11
    else match s.walk k va with
      | .ok base key w _ =>
        let pa := Xlat.addr base va
        if write && !w then s.endJob j 11
        else match targetOf pa with
          | .peer d off =>
            if d = s.fab.device then
              (if s.selfDenied pa n write then s.endJob j 11
              else if write then (s.writeHome pa key bs).copied j n
              else match s.readHome k.id va pa key n with
                | .bytes x => ({ s with host := s.host.write ha x } : State).copied j n
                | _ => s.endJob j 11)
            else if s.fab.lost.contains d then s.endJob j 11
            else match (if write || s.replyRoom n then s.freeTag else none) with
              | none => s
              | some tag =>
                if write then (hold s).ask { s.packet typeWrite d off bs with scope := 5 } tag (.copy j.id n)
                else (hold s).ask { s.packet typeRead d off [] with len := n, scope := 5 } tag (.copy j.id n)
          | _ =>
            let s := s.reachSlice k.id va pa
            if write then
              (if s.inRegion k.id va pa then s.endJob j 11 else (s.writeHome pa key bs).copied j n)
            else match s.readHome k.id va pa key n with
              | .bytes x => ({ s with host := s.host.write ha x } : State).copied j n
              | _ => s.endJob j 11
      | _ => s.endJob j 11

/-- COPY: it starts, and then moves piece by piece. -/
def execCopy (c : HostCmd) (s : State) : Host.Outcome State Fault Refusal :=
  match s.fw.jobs.find? fun j => decide (j.cmd = c) && c.op == 5 && !j.wait with
  | some j => .next (s.copyPiece j)
  | none =>
    s.serve c 0x05 .owner fun t =>
      if c.a2.toNat % 4 ≠ 0 then t.answer c 6 0 []
      else if c.a2 = 0 then t.answer c 0 0 []
      else t.addJob c

/-! ### The launch record (03_assembly_object.md R53 to R57) -/

/-- The bytes of a range of a context's memory that the firmware reads, page by page, at most n pages; none when any of them
cannot be read. -/
def State.readSpan (s : State) (c : Context) : Nat → Nat → Nat → Option (List Byte)
  | 0, _, _ => some []
  | n + 1, va, len =>
    let k := min len (2 ^ 16 - va % 2 ^ 16)
    if len = 0 then some []
    else if 2 ^ 52 < va + k then none
    else match s.readVa c va k with
      | .error _ => none
      | .ok bs => (State.readSpan s c n (va + k) (len - k)).map (bs ++ ·)

/-- The bytes of a range, of any length. -/
def State.readAll (s : State) (c : Context) (va len : Nat) : Option (List Byte) := s.readSpan c (len / 2 ^ 16 + 2) va len

/-- A field of a record. -/
def field (raw : List Byte) (off n : Nat) : Nat := ofLe ((raw.drop off).take n)

/-- A format slot of a record. -/
def slotOf (raw : List Byte) (i : Nat) : FmtSlot :=
  let f := fun (o n : Nat) => field raw (0xC0 + 16 * i + o) n
  ⟨f 0 1, f 1 1, f 2 1, f 3 1, bitOf (f 4 1) 0, f 8 8⟩

/-- The record as the firmware keeps it, without what its tables add. -/
def lrOf (raw : List Byte) : LRec :=
  let f := field raw
  { idem := bitOf (f 6 2) 0
    grouped := bitOf (f 6 2) 1
    tasks := bitOf (f 6 2) 2
    codeBase := f 0x08 8
    codeSize := f 0x10 4
    stages := f 0x14 1
    groups := f 0x15 1
    cluster := f 0x16 1
    prio := f 0x17 1
    gridX := f 0x18 4
    gridY := f 0x1C 2
    gridZ := f 0x1E 2
    vregs := f 0x20 1
    sregs := f 0x21 1
    retries := f 0x22 1
    gangMax := f 0x23 1
    scratch := f 0x24 4
    mirror := f 0x28 4
    parSize := f 0x2C 4
    parBase := f 0x30 8
    stage := (List.range 8).map fun i => ⟨BitVec.ofNat 32 (f (0x40 + 16 * i) 4), f (0x44 + 16 * i) 4⟩
    slots := tab 8 (slotOf raw)
    tiles := []
    tqBase := f 0x150 8
    tqRecs := f 0x158 4
    icbind := tab 16 fun i => BitVec.ofNat 8 (f (0x160 + 2 * i) 1)
    images := []
    regions := [] }

/-- LR_RES0: the reserved bytes and bits. -/
def lrRes0 (raw : List Byte) : Bool :=
  let f := field raw
  f 6 2 / 8 != 0 || f 0x38 8 != 0 || f 0x14C 4 != 0 || f 0x15C 4 != 0 || f 0x18B 5 != 0 || f 0x198 40 != 0
    || ((List.range 8).any fun i => f (0x48 + 16 * i) 8 != 0)
    || ((List.range 8).any fun i => f (0xC4 + 16 * i) 1 / 2 != 0 || f (0xC5 + 16 * i) 3 != 0)
    || (List.range 16).any fun i => f (0x161 + 2 * i) 1 != 0 || f (0x160 + 2 * i) 1 / 128 != 0

/-- LR_BAD_GEOMETRY. -/
def LRec.badGeometry (r : LRec) : Bool :=
  !decide (1 ≤ r.stages ∧ r.stages ≤ 8 ∧ 1 ≤ r.groups ∧ r.groups ≤ 16 ∧ 1 ≤ r.cluster ∧ r.cluster ≤ 16 ∧ 1 ≤ r.gridY ∧ 1 ≤ r.gridZ
      ∧ r.prio ≤ 3 ∧ 1 ≤ r.vregs ∧ r.vregs ≤ 128 ∧ 1 ≤ r.sregs ∧ r.sregs ≤ 64 ∧ r.retries ≤ 15)
    || decide (r.gangMax = 1 ∨ 6 < r.gangMax ∨ r.groups < r.gangMax)
    || decide (r.codeBase % 8 ≠ 0 ∨ r.codeSize = 0 ∨ r.codeSize % 8 ≠ 0)
    || decide (r.scratch % 128 ≠ 0 ∨ r.mirror % 128 ≠ 0 ∨ (r.mirror ≠ 0 ∧ r.cluster = 1))
    || decide (65536 < r.parSize ∨ r.parSize % 8 ≠ 0)
    || (decide (r.gridX = 0) != r.grouped) || (!r.grouped && r.gridX % r.cluster != 0) || (r.grouped && r.cluster != 1)

/-- LR_BAD_STAGE. -/
def State.badStage (s : State) (c : Context) (r : LRec) (raw : List Byte) : Bool :=
  (List.range 8).any fun i =>
    let e := field raw (0x40 + 16 * i) 4
    if i < r.stages then
      decide (e % 8 ≠ 0 ∨ r.codeSize ≤ e ∨ field raw (0x44 + 16 * i) 4 = 0)
        || match s.readAll c (r.codeBase + e) 8 with | some bs => bs.getD 7 0 != 0xFF#8 | none => true
    else field raw (0x40 + 16 * i) 16 != 0

/-- Whether a format slot breaks R53. -/
def FmtSlot.bad (x : FmtSlot) : Bool :=
  decide (8 < x.elem ∨ 2 < x.tile ∨ 1 < x.layout ∨ 3 < x.rnd)
    || (if x.elem = 5 ∨ x.elem = 6 then decide (x.tile = 0 ∨ x.scales = 0 ∨ x.scales % 256 ≠ 0)
      else decide (x.tile ≠ 0 ∨ x.layout ≠ 0 ∨ x.scales ≠ 0))

/-- LR_BAD_GROUPS, or the group and tile of each block along x (R55). A count above the limit of R53, and a table that cannot
be read, are LR_BAD_GROUPS (DESIGN CHOICE: R57 names no code for them, log 23). -/
def State.groupTiles (s : State) (c : Context) (r : LRec) (raw : List Byte) : Option (List (Nat × Nat)) :=
  let count := field raw 0x148 2
  let rows := field raw 0x14A 2
  let table := field raw 0x140 8
  if !r.grouped then (if count = 0 ∧ rows = 0 ∧ table = 0 then some [] else none)
  else if count = 0 ∨ 256 < count ∨ rows % 32 ≠ 0 ∨ rows < 32 ∨ 4096 < rows ∨ table % 4 ≠ 0 then none
  else (s.readAll c table (4 * count)).map fun bs =>
    ((List.range count).map fun i =>
      (List.range ((field bs (4 * i) 4 + rows - 1) / rows)).map fun t => (i, t)).flatten

/-- The physical ranges that a launch's ring occupies, page by page. -/
def State.ringSpans (s : State) (ctx : Nat) (r : LRec) : List (Nat × Nat) :=
  match s.context? ctx with
  | none => []
  | some c =>
    let first := r.tqBase / 2 ^ 16
    let last := (r.tqBase + 64 * r.tqRecs + 0xFFFF) / 2 ^ 16
    (List.range (last - first)).filterMap fun i =>
      let lo := max r.tqBase ((first + i) * 2 ^ 16)
      let hi := min (r.tqBase + 64 * r.tqRecs) ((first + i + 1) * 2 ^ 16)
      match s.walk c lo with
      | .ok base _ _ _ => some (Xlat.addr base lo, hi - lo)
      | _ => none

/-- LR_BAD_TASKQ. Two rings overlap when they share bytes of local memory, whatever context or alias names them (R269).
The S of a launch whose grouped grid has no block, whose division R269 leaves undefined, is taken with one block (DESIGN
CHOICE, log 23). -/
def State.badTaskq (s : State) (c : Context) (r : LRec) : Bool :=
  if !r.tasks then r.tqBase != 0 || r.tqRecs != 0
  else
    decide (r.tqBase % 4096 ≠ 0 ∨ r.tqRecs < 1024 ∨ 2 ^ 24 < r.tqRecs ∨ powerBelow r.tqRecs ≠ r.tqRecs
        ∨ powerBelow (r.tqRecs / max 1 r.blocks) < 128)
      || (s.badPage c (r.tqBase / 2 ^ 16 * 2 ^ 16) ((r.tqBase % 2 ^ 16 + 64 * r.tqRecs + 0xFFFF) / 2 ^ 16)).isSome
      || s.fw.launches.any fun l => l.lr.tasks && (s.ringSpans l.ctx l.lr).any fun e => (s.ringSpans c.id r).any fun f =>
        decide (e.1 < f.1 + f.2 ∧ f.1 < e.1 + e.2)

/-- LR_BAD_INCUMBENT (R54). -/
def State.badIncumbent (s : State) (r : LRec) : Bool :=
  (List.range 16).any fun i =>
    let b := (r.icbind[i]?.getD 0).toNat
    if bitOf b 0 then
      bitsOf b 2 1 == 3 || s.fw.launches.any fun l =>
        let o := (l.lr.icbind[i]?.getD 0).toNat
        bitOf o 0 && (bitsOf o 5 1 != bitsOf b 5 1 || bitOf b 6)
    else b != 0

/-- The regions of a record's table, created in table order; none when an entry breaks R205 or a limit is passed. -/
def State.makeRegions (s : State) (c : Context) (launch : Nat) (bs : List Byte) : Nat → Nat → Option State
  | 0, _ => some s
  | n + 1, i =>
    let e := RegionEntry.ofBytes ((bs.drop (32 * i)).take 32)
    if (s.entryReason c e).isSome || s.regionFull c launch e.pool then none
    else State.makeRegions { s with regions := s.regions ++ [e.region launch c.id i false] } c launch bs n (i + 1)

/-- The images of a record's hash families, each checked under R251; one that cannot be read fails (DESIGN CHOICE, log 23). -/
def State.readImages (s : State) (c : Context) (launch : Nat) (tab_ : List Byte) : Nat → Nat → Option (List FamImg)
  | 0, _ => some []
  | n + 1, i =>
    let a := field tab_ (8 * i) 8
    match (if a % 64 = 0 then s.readAll c a 64 else none) with
    | none => none
    | some bs =>
      let f : FamImg := tab 8 fun j => BitVec.ofNat 64 (field bs (8 * j) 8)
      if f.ok i (s.region? launch f.region) then (State.readImages s c launch tab_ n (i + 1)).map (f :: ·) else none

/-- LR_BAD_REGION, or the state with the launch's regions and the images of its families (R56). A table that cannot be read
is LR_BAD_REGION (DESIGN CHOICE: R57 names no code for it, log 23). -/
def State.launchTables (s : State) (c : Context) (launch : Nat) (raw : List Byte) : Option (State × List FamImg) :=
  let rt := field raw 0x180 8
  let rn := field raw 0x188 2
  let hn := field raw 0x18A 1
  let ht := field raw 0x190 8
  if 256 < rn ∨ 8 < hn ∨ (rn = 0) ≠ (rt = 0) ∨ (hn = 0) ≠ (ht = 0) then none
  else match s.readAll c rt (32 * rn), s.readAll c ht (8 * hn) with
    | some rb, some hb =>
      match s.makeRegions c launch rb rn 0 with
      | none => none
      | some t => (t.readImages c launch hb hn 0).map fun fs => (t, fs)
    | _, _ => none

/-- The validation of R57, in code order: the code of the first failure, or the state with the launch's regions and the
record as the firmware keeps it. -/
def State.validate (s : State) (c : Context) (launch : Nat) (raw : List Byte) : Except Nat (State × LRec) :=
  let r := lrOf raw
  if field raw 0 4 ≠ 0x5A39_4C52 ∨ field raw 4 2 ≠ 1 then .error 1
  else if lrRes0 raw then .error 2
  else if r.badGeometry then .error 3
  else if s.badStage c r raw then .error 4
  else if r.slots.toList.any FmtSlot.bad then .error 5
  else match s.groupTiles c r raw with
    | none => .error 6
    | some tiles =>
      let r := { r with tiles := tiles }
      if s.badTaskq c r then .error 7
      else if s.badIncumbent r then .error 8
      else match s.launchTables c launch raw with
        | none => .error 9
        | some (t, fs) =>
          if r.retries ≠ 0 ∧ !r.idem then .error 10
          else if 524288 < r.localBytes ∨ c.imageLen < r.imageBytes then .error 11
          else match s.readAll c r.codeBase r.codeSize with
            | none => .error 12
            | some code => if sha512 code ≠ (raw.drop 0x1C0).take 64 then .error 12 else .ok (t, { r with
                images := fs
                regions := (t.regions.filter fun g => g.launch == launch).map fun g => (g.base, g.size, g.depth, g.pool) })

/-! ### LAUNCH (R57, R354) -/

/-- The ranges of memory that validation may read for a record: the first word of each stage, the tables, the images and the
code. -/
def State.launchReads (s : State) (c : Context) (raw : List Byte) : List (Nat × Nat) :=
  let r := lrOf raw
  let f := field raw
  let hn := min (f 0x18A 1) 8
  ((List.range (min r.stages 8)).map fun i => (r.codeBase + f (0x40 + 16 * i) 4, 8))
    ++ (if r.grouped then [(f 0x140 8, 4 * f 0x148 2)] else [])
    ++ [(f 0x180 8, 32 * f 0x188 2), (f 0x190 8, 8 * hn)]
    ++ (match s.readAll c (f 0x190 8) (8 * hn) with
      | some hb => (List.range hn).map fun i => (field hb (8 * i) 8, 64)
      | none => [])
    ++ [(r.codeBase, r.codeSize)]

/-- The first line of a peer's memory that a range needs and that has not been read: the device and the line's number. -/
def State.lineNeeded (s : State) (c : Context) (va n : Nat) : Option (Nat × Nat) :=
  if n = 0 then none
  else (List.range ((va + n - 1) / 2 ^ 16 - va / 2 ^ 16 + 1)).findSome? fun i =>
    let lo := max va ((va / 2 ^ 16 + i) * 2 ^ 16)
    let hi := min (va + n) ((va / 2 ^ 16 + i + 1) * 2 ^ 16)
    match s.walk c lo with
    | .ok base _ _ _ => match targetOf (Xlat.addr base lo) with
      | .peer d off =>
        if d = s.fab.device ∨ s.fab.lost.contains d = true then none
        else ((List.range ((off + (hi - lo) - 1) / 128 - off / 128 + 1)).find? fun k =>
          !s.fw.lines.any fun l => l.1 == d && l.2.1 == off / 128 + k).map fun k => (d, off / 128 + k)
      | _ => none
    | _ => none

/-- Ask a peer for a line for a LAUNCH that is being validated, which waits for it (R131, R328). -/
def State.askLine (s : State) (job : Nat) (x : Nat × Nat) : State :=
  match (if s.replyRoom 128 then s.freeTag else none) with
  | none => s
  | some tag =>
    (s.modJob job fun j => { j with wait := true }).ask { s.packet typeRead x.1 (128 * x.2) [] with len := 128, scope := 5 } tag
      (.line job x.1 x.2)

/-- A LAUNCH is done with: what was read of peers for it is forgotten, and it is answered. -/
def State.endLaunch (s : State) (j : HostJob) (status detail : Nat) : State :=
  ({ s with fw := { s.fw with jobs := s.fw.jobs.filter fun q => q.id != j.id, lines := [] } } : State).answer j.cmd status detail
    [BitVec.ofNat 64 j.id]

/-- Validate a launch whose record and tables can be read: its regions are made, its incumbents bound, and it joins its queue.
The job's number is the launch's. -/
def State.launchNow (s : State) (c : Context) (j : HostJob) (raw : List Byte) : State :=
  match s.validate c j.id raw with
  | .error code => s.endLaunch j 2 code
  | .ok (u, r) =>
    if (List.range r.stages).any fun i => decide (c.budget < r.estimate i) then s.endLaunch j 10 0
    else
      let l : Launch := ⟨j.id, j.cmd.fn, j.cmd.cid, j.cmd.ctx, r, 0, r.blocks, 0, r.blocks != 0, none, none, [], none⟩
      let v := u.bindIcs r
      let v : State := { v with fw := { v.fw with
        launches := v.fw.launches ++ [l]
        jobs := v.fw.jobs.filter fun q => q.id != j.id
        lines := [] } }
      if r.blocks = 0 then v else v.enqueueItem r.prio (.launch j.id)

/-- Go on with a LAUNCH whose record has been copied: what its validation reads of peers is read first, line by line. -/
def State.launchCheck (s : State) (c : Context) (j : HostJob) (raw : List Byte) : State :=
  match (s.launchReads c raw).findSome? fun x => s.lineNeeded c x.1 x.2 with
  | some x => s.askLine j.id x
  | none => s.launchNow c j raw

/-- Go on with a LAUNCH: the record is copied, and ACCEPTED returned where it is asked for, before anything else is read. -/
def State.launchGo (s : State) (j : HostJob) : State :=
  match s.context? j.cmd.ctx, j.raw with
  | none, _ => s.endLaunch j 7 0
  | some c, some raw => s.launchCheck c j raw
  | some c, none => match s.lineNeeded c j.cmd.a0.toNat 512 with
    | some x => s.askLine j.id x
    | none => match s.readAll c j.cmd.a0.toNat 512 with
      | none => s.endLaunch j 11 0
      | some raw =>
        let t := s.modJob j.id fun q => { q with raw := some raw }
        (if bitOf j.cmd.flags 0 then t.answer j.cmd 1 0 [BitVec.ofNat 64 j.id] else t).launchCheck c j raw

/-- Whether a command is the LAUNCH that the firmware is validating: one at a time (DEDUCED, log 23). -/
def State.launching (s : State) (c : HostCmd) : Option HostJob :=
  (s.fw.jobs.find? fun j => j.cmd.op == 6).bind fun j => if j.cmd = c then some j else none

/-- LAUNCH: the record is copied and validated, its regions are made, its incumbents bound, and it joins its queue. -/
def execLaunch (c : HostCmd) (s : State) : Host.Outcome State Fault Refusal :=
  match (if c.op = 6 then s.launching c else none) with
  | some j => if j.wait then .next s else .next (s.launchGo j)
  | none =>
    s.serve c 0x06 .owner fun t =>
      if (t.context? c.ctx).isNone then t.answer c 7 0 []
      else if c.a0.toNat % 64 ≠ 0 then t.fresh.answer c 11 0 [BitVec.ofNat 64 t.nextId]
      else
        let u := t.addJob c
        if t.fw.jobs.any fun j => j.cmd.op == 6 then u else u.launchGo ⟨t.nextId, c, 0, false, none⟩

/-! ### PREEMPT and FAULT_RESOLVE (R147, R321, R354, R358) -/

/-- The number of the unit that admits the block of a linear index. -/
def LRec.unitOf (r : LRec) (lin : Nat) : Nat :=
  let gx := if r.grouped then r.tiles.length else r.gridX
  let k := max 1 r.cluster
  let b := lin / r.stages
  (b / gx * (gx / k) + b % gx / k) * r.stages + lin % r.stages

/-- The code of a kill after which a launch is not relaunched, also while its engine commands still run. -/
def Launch.killedBy (l : Launch) : Option Nat :=
  l.killed <|> (l.stopping.bind fun e => if l.relaunches e.2 then none else some e.2)

/-- PREEMPT: the save of one block is asked for. -/
def execPreempt (c : HostCmd) (s : State) : Host.Outcome State Fault Refusal :=
  s.serve c 0x07 .owner fun t =>
    let lin := c.a1.toNat
    match t.launch? c.a0.toNat with
    | none => if c.a0.toNat < t.nextId then t.answer c 5 0 [] else t.answer c 6 0 []
    | some l =>
      if l.ctx ≠ c.ctx then t.answer c 7 0 []
      else if l.lr.blocks ≤ lin then t.answer c 6 0 []
      else match l.killedBy, t.blocks.find? fun b => b.launch == l.id && b.lin == lin with
        | some code, _ => t.answer c 3 code []
        | none, none =>
          if l.lr.unitOf lin < l.next then t.answer c 5 0 []
          else t.modLaunch l.id fun l => { l with preempts := l.preempts ++ [(c.fn, c.cid, lin)] }
        | none, some b =>
          if b.st = .saved then t.answer c 4 0 []
          else
            let u := t.modBlock b.id fun b => { b with savers := b.savers ++ [(c.fn, c.cid)] }
            if b.running then u.beginSave b false else u

/-- The blocks of a context. -/
def State.blocksOf (s : State) (ctx : Nat) : List Nat :=
  (s.blocks.filter fun b => match s.launch? b.launch with | some l => l.ctx == ctx | none => false).map (·.id)

/-- The parked requests of a page of a context. -/
def State.parkedOn (s : State) (blks : List Nat) (page : Nat) : List Req :=
  s.reqs.filter fun r => r.isParked && blks.contains r.blk && r.addr / 2 ^ 16 == page

/-- The fault-buffer entries after a page has been answered. -/
def State.answerPage (s : State) (blks : List Nat) (page : Nat) : State :=
  { s with faults := (s.faults.map fun (f : FaultEntry) =>
      if blks.contains f.blk then { f with pages := f.pages.filter (· != page) } else f).filter fun f =>
      !(blks.contains f.blk && f.pages.isEmpty) }

/-- The image of a saved block follows what an answer to a report has done to its groups. -/
def State.keepImages (s : State) (blks : List Nat) : State :=
  blks.foldl (fun (t : State) i =>
    match t.block? i with
    | none => t
    | some b => match t.launch? b.launch with
      | some l => if b.st = .saved then t.storeImage b l (t.waiting b) else t
      | none => t) s

/-- REPLAY: the lines of the page are walked again. -/
def State.replayPage (s : State) (ctx page : Nat) : State :=
  let blks := s.blocksOf ctx
  let t := (s.parkedOn blks page).foldl (fun (t : State) r => t.setPhase r.id .issued) s
  let t := t.answerPage blks page
  { t with cmds := t.cmds.map fun k => match k.parked with
      | some q => if k.ctx = ctx ∧ q.1 / 2 ^ 16 = page then { k with parked := none } else k
      | none => k }

/-- ABORT: the lines of the page are dropped, and their lanes take the cause. -/
def State.abortPage (s : State) (ctx page : Nat) : State :=
  let blks := s.blocksOf ctx
  let noW := fun (r : Req) => r.needsW && match (s.context? ctx).map fun c => s.walk c r.addr with
    | some (.ok _ _ w _) => !w
    | _ => false
  let t := (s.parkedOn blks page).foldl (fun (t : State) r =>
    t.lateRefuse r .translationAbort (if noW r then 1 else 0)) s
  let t := s.faults.foldl (fun (t : State) f =>
    match f.fetch, (s.block? f.blk).bind fun b => s.launch? b.launch with
    | some (off, m), some l =>
      if blks.contains f.blk && f.pages.contains page then
        let noX := match (s.context? ctx).map fun c => s.walk c (l.codeVa off.toNat) with
          | some (.ok _ _ _ x) => !x
          | _ => false
        t.fresh.modGroup f.blk f.grp fun g => g.addAfter
          ⟨t.nextId, .fetchAbort, m, true, BitVec.ofNat 64 (l.codeVa off.toNat), fkindOf 3 (if noX then 2 else 0) 8, off⟩
      else t
    | _, _ => t) t
  let t := t.answerPage blks page
  (s.cmds.foldl (fun (t : State) k => match k.parked with
    | some (va, access, reason) =>
      if k.ctx = ctx ∧ va / 2 ^ 16 = page then
        (t.modCmd k.id fun k => { k with parked := none }).failCmd k .engineAbort va access reason
      else t
    | none => t) t).keepImages blks

/-- FAULT_RESOLVE: a report is answered with REPLAY or ABORT. -/
def execFaultResolve (c : HostCmd) (s : State) : Host.Outcome State Fault Refusal :=
  s.serve c 0x08 .owner fun t =>
    match t.reports.find? fun r => r.id == c.a0.toNat && r.ctx == c.ctx with
    | none => t.answer c 6 0 []
    | some r =>
      let u : State := { t with reports := t.reports.filter fun q => q.id != r.id }
      match c.a1.toNat with
      | 0 => (u.replayPage r.ctx r.page).answer c 0 0 []
      | 1 => (u.abortPage r.ctx r.page).answer c 0 0 []
      | _ => t.answer c 6 0 []

end Sys2Proof.Machine
end

