-- ==== Sys2Proof/Machine/Firmware.lean ====
section
/-!
DEFINITION. The firmware's own side (21_host.md R355 to R367; 19_fabric.md R325, R326, R336, R339 to R343; 18_system.md R312,
R313): keys and windows, maintenance, checkpoints, device assignment, energy windows, the clock, wear and errors.
-/

namespace Sys2Proof.Machine

/-! ### Keys and the fabric (R336, R340, R341, R343, R357) -/

/-- KEY_ALLOC: the lowest identifier that no function holds; its key is a fresh one (log 9). -/
def execKeyAlloc (c : HostCmd) (s : State) : Host.Outcome State Fault Refusal :=
  s.serve c 0x0A .pf0 fun t =>
    let fn := c.a0.toNat
    if 64 < fn then t.answer c 6 0 []
    else match ((List.range 1023).map (· + 1)).find? fun k => !t.fw.keys.any fun q => q.id == k with
      | none => t.answer c 8 0 []
      | some k =>
        ({ t.fresh with fw := { t.fw with keys := t.fw.keys ++ [⟨k, fn, t.nextId + 2⟩] } } : State).answer c 0 0
          [BitVec.ofNat 64 k]

/-- KEY_FREE: an identifier that a live context's tables are under stays. -/
def execKeyFree (c : HostCmd) (s : State) : Host.Outcome State Fault Refusal :=
  s.serve c 0x0B .pf0 fun t =>
    let k := c.a0.toNat
    if !t.fw.keys.any fun q => q.id == k then t.answer c 6 0 []
    else if t.fw.contexts.any fun x => x.key == k then t.answer c 9 0 []
    else ({ t with fw := { t.fw with keys := t.fw.keys.filter fun q => q.id != k } } : State).answer c 0 0 []

/-- Install a key in one slot of one direction: its counter starts at 0. Beside a VALID receiving slot it is the new one, until
a packet has been accepted under it. A new key of the sending direction is sent under from then on, and the old slot is erased
(R341). -/
def Port.install (x : Port) (recv : Bool) (slot : Nat) (ks : KeySlot) : Port :=
  if recv then
    { x with
      recv := x.recv.setIfInBounds slot ks
      recvNew := if (x.recvKey (1 - slot)).valid then some slot else none }
  else
    { x with
      slot := slot
      send := (x.send.setIfInBounds slot ks).setIfInBounds (1 - slot) KeySlot.zero }

/-- LINK_KEY. A port in TRAINING shows its key slot to the far end. -/
def execLinkKey (c : HostCmd) (s : State) : Host.Outcome State Fault Refusal :=
  s.serve c 0x0C .pf0 fun t =>
    let a := c.a0.toNat
    let p := bitsOf a 3 0
    let slot := bitsOf a 5 5
    let x := t.port p
    if !bitOf a 4 && x.slot == slot && (x.sendKey slot).valid then t.answer c 9 0 []
    else
      let u := t.modPort p fun x => x.install (bitOf a 4) slot ⟨c.a4 ++ c.a3 ++ c.a2 ++ c.a1, c.a5.setWidth 32, 0, true⟩
      (if x.state = 1 then u.control p codeKey (BitVec.ofNat 32 (u.port p).slot) else u).answer c 0 0 []

/-- FABRIC_WINDOW. A KEYID that nobody holds is turned away (DEDUCED, log 23). -/
def execFabricWindow (c : HostCmd) (s : State) : Host.Outcome State Fault Refusal :=
  s.serve c 0x0D .pf0 fun t =>
    let a := c.a0.toNat
    let key := bitsOf a 25 16
    let base := c.a1.toNat
    let limit := c.a2.toNat
    if base % 2 ^ 16 ≠ 0 ∨ limit % 2 ^ 16 ≠ 0 ∨ limit < base then t.answer c 11 0 []
    else if key ≠ 0 ∧ (t.fw.keys.any fun q => q.id == key) = false then t.answer c 7 0 []
    else
      let w : Window := ⟨bitOf a 11, bitsOf a 9 6, bitOf a 10, key, base, limit⟩
      ({ t with fab := { t.fab with windows := t.fab.windows.setIfInBounds (bitsOf a 5 0) w } } : State).answer c 0 0 []

/-- The lanes that carry a port's beats now: a failed one that a spare lane replaces is that spare lane. -/
def Port.laneMask (x : Port) : Nat :=
  (x.activeLanes.map fun l =>
    if x.failed.getLsbD l then 2 ^ (match x.spare.findIdx? (· == l) with | some i => 16 + i | none => l) else 2 ^ l).foldl (· + ·) 0

/-- The 64-byte link record. -/
def Port.record (x : Port) : List Byte :=
  let w := fun (v : W32) => leBytes 4 v.toNat
  leBytes 1 x.state
    ++ leBytes 1 ((x.peer.map (·.1)).getD 0xFF) ++ leBytes 1 ((x.peer.map (·.2)).getD 0xFF) ++ leBytes 1 x.activeLanes.length
    ++ leBytes 4 x.laneMask ++ leBytes 4 x.failed.toNat ++ w x.txseq ++ w x.unacked ++ w x.rxseq ++ w x.replays ++ w x.replayed
    ++ w x.retrains ++ w x.crcErrs ++ w x.authErrs ++ w x.dups ++ leBytes 1 x.slot
    ++ leBytes 1 (if x.state = 5 then x.relay.getD 0xFF else 0xFF) ++ leBytes 6 0 ++ leBytes 8 (x.sendKey x.slot).ctr.toNat

/-- LINK_QUERY. -/
def execLinkQuery (c : HostCmd) (s : State) : Host.Outcome State Fault Refusal :=
  s.serve c 0x0E .pf0 fun t =>
    if 16 ≤ c.a0.toNat then t.answer c 6 0 []
    else ({ t with host := t.host.write (hostAddr c.a1.toNat) (t.port c.a0.toNat).record } : State).answer c 0 0 []

/-- PEER_LOST. -/
def execPeerLost (c : HostCmd) (s : State) : Host.Outcome State Fault Refusal :=
  s.serve c 0x0F .pf0 fun t =>
    let d := c.a0.toNat
    if d = t.fab.device ∨ t.fab.present d = false then t.answer c 6 0 [] else (t.declareLost d).answer c 0 0 []

/-! ### Wear (R360, R365) -/

def State.modCore (s : State) (k : Nat) (f : CoreSt → CoreSt) : State :=
  { s with cores := s.cores.setIfInBounds k (f (s.cores[k]?.getD CoreSt.zero)) }

/-- COREWARN as the worn cores give it. -/
def State.noteWarn (s : State) : State :=
  { s with fw := { s.fw with warn := (List.range 144).foldl (fun (m : BitVec 4) k =>
      if (s.cores[k]?.getD CoreSt.zero).worn then m ||| BitVec.ofNat 4 (2 ^ dieOf k) else m) 0 } }

/-! ### Maintenance (R325, R326, R330, R334, R339, R343, R348, R366) -/

/-- Retire a worn or lost core onto a spare of its die: its logical number maps to the first physical core held there (which,
is DESIGN CHOICE, log 4), and the core it leaves is used no more (R8). With no spare it stays as it is. -/
def State.retire (s : State) (k : Nat) : State :=
  let x := s.cores[k]?.getD CoreSt.zero
  let d := dieOf k
  match x.worn || x.outSvc, s.fw.spares[d]?.getD [] with
  | true, p :: rest =>
    ({ s with fw := { s.fw with spares := s.fw.spares.setIfInBounds d rest } } : State).modCore k fun x =>
      { x with
        ecount := 0
        outSvc := false
        worn := false
        phys := p }
  | _, _ => s

/-- The failed lanes that lanes 16 and 17 stand for after maintenance, where those are good themselves; 31 is none. -/
def Port.mapSpares (x : Port) : List Nat :=
  let bad := (List.range 16).filter fun l => x.failed.getLsbD l
  match x.failed.getLsbD 16, x.failed.getLsbD 17 with
  | false, false => bad.take 2
  | true, false => 31 :: bad.take 1
  | false, true => bad.take 1
  | true, true => []

/-- Assign a port: to a peer, to train or to stay LOST, or to none. -/
def Port.assign (x : Port) (peer : Option (Nat × Nat)) (lost : List Nat) : Port :=
  { x with
    peer := peer
    state := match peer with
      | none => 0
      | some p => if lost.contains p.1 then 6 else 1
    txq := []
    replayB := []
    owed := []
    detour := false
    relay := none }

/-- The peers of the ports for the time after a maintenance point: those of the wiring, but that a spare port stands in for a
port that no half of the lanes can serve, unless its peer stays among the lost; the spare port of the same number at the far end is its peer (DEDUCED, log 24). A
port keeps its peer while packets of its space are not acknowledged. -/
def State.mapPorts (s : State) (lost : List Nat) : State :=
  let busy := fun (n : Nat) => !(s.port n).replayB.isEmpty
  let wired := wiredPeer s.fab.wiring s.fab.device
  let dead := (List.range 16).filter fun n => (s.port n).width.isNone && !busy n && match wired n with
    | some p => !lost.contains p.1
    | none => false
  let spare := (List.range 16).filter fun n =>
    (wired n).isNone && (s.port n).width.isSome && !busy n && decide (s.fab.wiring ≠ 0 ∧ n % 8 = 0)
  let stands := dead.zip spare
  let peer := fun (n : Nat) =>
    if busy n then (s.port n).peer
    else match stands.find? fun p => p.1 == n || p.2 == n with
      | some p => if p.1 = n then none else (wired p.1).map fun x => (x.1, n)
      | none => wired n
  let moved := (List.range 16).filter fun n => decide (peer n ≠ (s.port n).peer)
  let t := moved.foldl (fun (t : State) n => t.modPort n fun x => x.assign (peer n) lost) s
  (moved.map fun n => (s.port n).txq).flatten.foldl (fun (t : State) q => match t.route q.ddev q.addr with
    | some p => t.enqueue p q
    | none => t) t

/-- A port's record and sequence space back at 0. -/
def Port.cleared (x : Port) : Port :=
  { x with
    txseq := 0
    unacked := 0
    rxseq := 0
    unackRx := 0
    nakAt := none
    replays := 0
    replayed := 0
    retrains := 0
    crcErrs := 0
    authErrs := 0
    dups := 0
    authAt := []
    origUn := 0 }

/-- Bring a port back after maintenance: it trains anew. A DOWN port whose ORIG traffic is not all acknowledged, and the
port of a peer still lost, stay as they are but for their counters. -/
def State.restorePort (s : State) (n : Nat) : State :=
  let x := s.port n
  match x.peer with
  | none => s.modPort n fun x => x.cleared
  | some (d, _) =>
    if s.fab.lost.contains d then s.modPort n fun x => x.cleared
    else if x.state = 5 ∧ x.replayB ≠ [] then
      s.modPort n fun x => { x.cleared with txseq := x.txseq, unacked := x.unacked, rxseq := x.rxseq, origUn := x.origUn }
    else
      let t := s.modPort n fun x => Port.stops
        { x.cleared with
          state := 1
          since := s.time
          retrain := false
          owed := []
          beats := []
          frame := 0
          keysOk := false
          detour := false
          relay := none }
      t.showTraining n

/-- Pacing from 0 again: what still waits is demanded anew, in its order (R348). -/
def Pace.restart (c : Pace) : Pace :=
  let q := c.queue.foldl (fun (a : List (Packet × Nat) × Nat) (p : Packet × Nat) =>
    (a.1 ++ [(p.1, a.2 + p.1.payload.length)], a.2 + p.1.payload.length)) ([], 0)
  { Pace.zero with
    unsol := c.unsol
    demand := q.2
    queue := q.1 }

/-- The work of MAINT, in the order of R366. -/
def State.maintain (s : State) (again : Nat) : State :=
  let old := s.sparestat
  let t := ((List.range 144).foldl State.retire s).noteWarn
  let lost := t.fab.lost.filter fun d => !bitOf again d
  let t := ((List.range 16).foldl (fun (t : State) n => t.modPort n fun x => { x with spare := x.mapSpares }) t).mapPorts lost
  let t : State := { t with
    fw := { t.fw with lanewarn := (List.range 16).foldl (fun (m : BitVec 16) n =>
      if (List.range 18).any fun l => !(t.port n).laneGood l then m ||| BitVec.ofNat 16 (2 ^ n) else m) 0 }
    fab := { t.fab with lost := lost, lostAt := t.fab.lostAt.filter fun p => !bitOf again p.1 } }
  let t := (List.range 16).foldl State.restorePort t
  let t := (List.range 16).foldl (fun (t : State) d =>
    let t := t.modPace d Pace.restart
    if (t.pace d).queue.isEmpty then t else t.send (t.packet typeDemand d 0 (leBytes 8 (t.pace d).demand))) t
  let t := t.flushAll.noteRoutes
  ({ t with fw := { t.fw with spareMap := t.sparestat } } : State).wearEvent old

/-- Whether every port that is in service has had what it sent acknowledged, and every packet received has been performed, so
that the sequence spaces may return to 0. -/
def State.quietPorts (s : State) : Bool :=
  (List.range 16).all fun n => (s.port n).inbox.isEmpty
    && ((s.port n).replayB.isEmpty || !((s.port n).up || (s.port n).state == 1))

/-- MAINT: it is turned away while a launch is incomplete or a checkpoint runs; else it waits for the ports to be quiet and
does its work. -/
def execMaint (c : HostCmd) (s : State) : Host.Outcome State Fault Refusal :=
  match s.fw.jobs.find? fun j => decide (j.cmd = c) && c.op == 0x10 with
  | some j => if s.quietPorts then .next ((s.maintain (bitsOf c.a0.toNat 15 0)).endJob j 0) else .next s
  | none =>
    if s.fw.quiesce && (s.fn c.fn).pending && decide (s.oldest c.fn = c) && c.op == 0x10 then
      let t := s.passCmd c.fn
      .next (t.answer c ((t.deny c .pf0).getD 9) 0 [])
    else
      s.serve c 0x10 .pf0 fun t => if t.fw.launches.isEmpty && t.fw.jobs.all (·.cmd.op != 6) then t.addJob c else t.answer c 9 0 []

/-! ### Checkpoints (R367) -/

/-- Begin a checkpoint: admission stops, and every resident block is saved. -/
def State.quiesceAll (s : State) (who : Option (Nat × W32)) : State :=
  let t := { s with fw := { s.fw with quiesce := true, ckptBy := who } }
  s.blocks.foldl (fun (t : State) b => if b.running then t.beginSave b false else t) t

/-- Whether an engine command can do nothing until its report is answered or a record is free. -/
def State.stuck (s : State) (k : Cmd) : Bool :=
  let earlier := s.cmds.filter fun q => decide (q.id < k.id) && q.inQueue k.core k.queue
  k.flight.isEmpty && k.fail.isNone && (k.parked.isSome || !k.heldAt.isEmpty || k.stalled
    || (!k.started && (earlier.any (fun q => !q.started) || (k.w.fence && !earlier.isEmpty))))

/-- Whether the device has come to rest. -/
def State.atRest (s : State) : Bool :=
  s.fw.quiesce && (s.blocks.all fun b => decide (b.st = .saved)) && (s.reqs.all s.travels) && s.offers.isEmpty
    && (s.cmds.all s.stuck) && s.fw.jobs.isEmpty && s.fab.txns.isEmpty

/-- Write the checkpoint out; admission resumes. How much of the flash is worn afterwards is a free value (log 5). -/
def State.writeOut (s : State) : State :=
  let old := s.sparestat
  let (w, t) := s.freeVal
  let ck : Ckpt :=
    { mem := s.mem
      contexts := s.fw.contexts
      keys := s.fw.keys
      launches := s.fw.launches
      queues := s.fw.queues
      blocks := s.blocks
      regions := s.regions
      ics := s.ics
      reports := s.reports
      faults := s.faults
      reqs := s.reqs
      entries := s.entries
      probes := s.probes
      home := s.home
      cmds := s.cmds }
  let t : State := { t with
    ckpt := some ck
    fw := { t.fw with quiesce := false, ckptBy := none, flash := max t.fw.flash (w.toNat % 101) } }
  t.wearEvent old

/-- CHECKPOINT: the sequence begins; when the device has come to rest the checkpoint is written out. -/
def execCheckpoint (c : HostCmd) (s : State) : Host.Outcome State Fault Refusal :=
  if s.fw.ckptBy = some (c.fn, c.cid) then
    (if s.atRest then .next (s.writeOut.answer c 0 0 []) else .next s)
  else s.serve c 0x11 .pf0 fun t => t.quiesceAll (some (c.fn, c.cid))

/-- POWER_FAIL: the same sequence without a command; nothing is admitted after it until power comes back. -/
def execPowerFail (s : State) : Host.Outcome State Fault Refusal :=
  let t : State := { s with fw := { s.fw with powered := false } }
  if !s.fw.quiesce && s.fw.powered then .next (t.quiesceAll none)
  else if s.atRest && s.fw.ckptBy.isNone then .next t.writeOut
  else .next t

/-- Bring back memory and the sealed state. The cores' copies take the masters' values. -/
def State.bringBack (s : State) (k : Ckpt) : State :=
  ({ s with
    mem := k.mem
    blocks := k.blocks
    regions := k.regions
    ics := k.ics
    cores := s.cores.map fun (x : CoreSt) => { x with ic := k.ics, pending := [] }
    reports := k.reports
    faults := k.faults
    reqs := k.reqs
    entries := k.entries
    probes := k.probes
    home := k.home
    cmds := k.cmds
    fw := { s.fw with
      contexts := k.contexts
      keys := k.keys
      launches := k.launches
      queues := k.queues
      aged := [] } } : State).noteHeads

/-- RESTORE: only before any context has been created since power-up, and only of the device's own checkpoint. -/
def execRestore (c : HostCmd) (s : State) : Host.Outcome State Fault Refusal :=
  s.serve c 0x12 .pf0 fun t =>
    match t.ckpt with
    | some k => if t.fw.created then t.answer c 7 0 [] else (t.bringBack k).answer c 0 0 []
    | none => t.answer c 7 0 []

/-- POWER_UP: the firmware reads the fabric number and the configuration from the wiring, and enables the wired ports; the
safe tier and the host's memory are as they were. -/
def execPowerUp (device wiring : Nat) (s : State) : Host.Outcome State Fault Refusal :=
  if ¬(wiring = 16 ∧ device < 16) ∧ ¬(wiring = 8 ∧ device < 8) ∧ ¬(wiring = 0 ∧ device < 16) then .next s
  else
    let t : State := { State.reset with
      free := s.free
      nextId := s.nextId
      host := s.host
      ckpt := s.ckpt
      fw := { Firmware.zero with flash := s.fw.flash }
      fab := { Fabric.zero with
        device := device
        wiring := wiring
        ports := tab 16 fun n =>
          match wiredPeer wiring device n with
          | none => Port.zero
          | some p => { Port.zero with peer := some p, state := 1 } } }
    .next { t with fw := { t.fw with spareMap := t.sparestat } }

/-! ### Device assignment (R355, R356) -/

/-- The end of everything a function holds: its launches are killed with UNHANDLED_TRAP and no relaunch, its contexts are
destroyed, and its keys are zeroed and freed. -/
def State.teardown (s : State) (fn : Nat) : State :=
  let mine := s.fw.launches.filter fun l => match s.context? l.ctx with | some c => c.fn == fn | none => false
  let t := mine.foldl (fun (t : State) l =>
    let blk := ((s.blocks.find? fun b => b.launch == l.id).map (·.id)).getD 0
    let t := { t with cmds := t.cmds.filter fun k => k.launch != l.id }
    let t := (t.kill l.id blk 0 codeUnhandled).unbindIcs l
    let l' := (t.launch? l.id).getD l
    ({ t with
      blocks := t.blocks.filter fun b => b.launch != l.id
      home := t.home.filter fun h => h.launch != l.id
      regions := t.regions.filter fun g => g.launch != l.id
      fw := { t.fw with launches := t.fw.launches.filter fun m => m.id != l.id } } : State).post l.fn l'.status) s
  let t := (t.fw.contexts.filter fun c => c.fn == fn).foldl (fun (t : State) c => t.dropContext c.id) t
  { t with fw := { t.fw with
    keys := t.fw.keys.filter fun k => k.fn != fn
    jobs := t.fw.jobs.filter fun j => j.cmd.fn != fn
    lines := [] } }

def State.setTdisp (s : State) (fn st : Nat) : State := s.setFn fn { s.fn fn with tdisp := st }

/-- Whether a number names a virtual function in a state. -/
def State.vfIn (s : State) (fn st : Nat) : Bool := decide (1 ≤ fn ∧ fn < 65 ∧ (s.fn fn).tdisp = st)

/-- Whether an IDE stream is keyed: 0 the link stream, f the selective one of VF f. -/
def State.ideKeyed (s : State) (stream : Nat) : Bool := ((s.fw.ide[stream]?).join).isSome

/-- LOCK_INTERFACE, with the VF's selective IDE stream keyed. -/
def execLockInterface (fn : Nat) (s : State) : Host.Outcome State Fault Refusal :=
  if s.vfIn fn 0 && s.ideKeyed fn then .next (s.setTdisp fn 1) else .next s

/-- START_INTERFACE, from the tenant's session. -/
def execStartInterface (fn : Nat) (s : State) : Host.Outcome State Fault Refusal :=
  if s.vfIn fn 1 then .next (s.setTdisp fn 2) else .next s

/-- STOP_INTERFACE: from ERROR or RUN with the end of all that the function holds; from any other state it only unlocks. -/
def execStopInterface (fn : Nat) (s : State) : Host.Outcome State Fault Refusal :=
  if s.vfIn fn 2 || s.vfIn fn 3 then .next ((s.teardown fn).setTdisp fn 0)
  else if s.vfIn fn 1 then .next (s.setTdisp fn 0)
  else .next s

/-- INTERFACE_ERROR: a change to locked configuration, an FLR or an integrity failure on the VF's stream. -/
def execInterfaceError (fn : Nat) (s : State) : Host.Outcome State Fault Refusal :=
  if s.vfIn fn 1 || s.vfIn fn 2 then .next ((s.teardown fn).setTdisp fn 3) else .next s

/-- The contents of the measurement blocks 1 to 4: the SHA-512 of the ROM image; ARCHID and the fused configuration; the map of
spares in service, as the last maintenance point left it; and the debug state, 0 on a production part (R356, log 9). -/
def State.measurements (s : State) : List (List Byte) :=
  [sha512 Config.romImage, leBytes 8 s.archid ++ Config.fuses, leBytes 8 s.fw.spareMap, leBytes 8 0]

/-- An IDE_KM message keys an IDE stream, or stops it (R351). -/
def State.keyStream (s : State) (msg : List Byte) : State :=
  match Config.ideKm msg with
  | none => s
  | some (stream, key) => { s with fw := { s.fw with ide := s.fw.ide.setIfInBounds stream key } }

/-- SPDM_REQUEST: the firmware answers an SPDM, IDE_KM or TDISP message on PF0's DOE (log 9). -/
def execSpdmRequest (msg : List Byte) (s : State) : Host.Outcome State Fault Refusal :=
  .next (({ s with
    free := s.free + 1
    fw := { s.fw with answers := s.fw.answers ++ [Config.spdmAnswer s.free msg s.measurements] } } : State).keyStream msg)

/-! ### Energy and the clock (R362, R363) -/

/-- ENERGY_WINDOW_START: 10 ms after the last one; USED and every credit are 0, and new budgets hold. -/
def execEnergyWindowStart (s : State) : Host.Outcome State Fault Refusal :=
  if s.fw.window + micros 10000 ≤ s.time then
    .next { s with
      blocks := s.blocks.map fun (b : Block) => { b with credit := 0 }
      fw := { s.fw with
        window := s.fw.window + micros 10000
        contexts := s.fw.contexts.map fun (c : Context) =>
          { c with used := 0, budget := c.nextBud.getD c.budget, nextBud := none } } }
  else .next s

/-- THERMAL_EMERGENCY: the device's clock falls, and the emergency is reported on entry. -/
def execThermalEmergency (die : Nat) (s : State) : Host.Outcome State Fault Refusal :=
  if 4 ≤ die then .next s
  else
    match s.fw.thermal with
    | none =>
      .next (({ s with fw := { s.fw with thermal := some ([die], s.time) } } : State).post 0
        (event 0 0x21 [BitVec.ofNat 64 die, 1]))
    | some (ds, _) =>
      .next { s with fw := { s.fw with thermal := some (if ds.contains die then ds else ds ++ [die], s.time) } }

/-- THERMAL_RECOVERY: every die has stayed below 95 °C for 1 ms, as the sensors have shown it (State.sense). -/
def execThermalRecovery (s : State) : Host.Outcome State Fault Refusal :=
  match s.fw.thermal with
  | none => .next s
  | some (ds, since) =>
    if since + micros 1000 ≤ s.time then
      .next (({ s with fw := { s.fw with thermal := none } } : State).post 0
        (event 0 0x21 [BitVec.ofNat 64 (ds.head?.getD 0), 0]))
    else .next s

/-! ### Errors and spares (R312, R313, R320, R322, R365) -/

/-- CORE_LOST: the launches of its blocks are killed, and its number is out of service. -/
def execCoreLost (core : Nat) (s : State) : Host.Outcome State Fault Refusal :=
  if 144 ≤ core ∨ (s.cores[core]?.getD CoreSt.zero).outSvc = true then .next s
  else
    let hit := s.blocks.filter fun b => b.core == core && b.onCore
    let t := hit.foldl (fun (t : State) b => if (t.block? b.id).isSome then t.kill b.launch b.id 0 0x306 else t) s
    .next ((t.modCore core fun x => { x with outSvc := true }).wearEvent s.sparestat)

/-- Count a corrected error of a core; a spare L2 way may come into service (log 5). -/
def State.corrected (s : State) (core : Nat) : State :=
  let old := s.sparestat
  let (w, t) := s.freeVal
  let t := t.modCore core fun x => { x with ecount := x.ecount + 1 }
  (if w.getLsbD 0 then { t with fw := { t.fw with l2ways := t.fw.l2ways + 1 } } else t).wearEvent old

/-- CORRECTED_ERROR. -/
def execCorrectedError (core : Nat) (s : State) : Host.Outcome State Fault Refusal :=
  if 144 ≤ core then .next s else .next (s.corrected core)

/-- UNCORRECTABLE_ERROR: a sector is poisoned, a context or its image is lost, or a clean line is refilled. -/
def execUncorrectableError (site : ErrorSite) (s : State) : Host.Outcome State Fault Refusal :=
  match site with
  | .sector pa =>
    if memTop ≤ pa then .next s
    else
      let ps := if s.mem.poison.contains (pa / 32) then s.mem.poison else s.mem.poison ++ [pa / 32]
      .next { s with mem := { s.mem with poison := ps } }
  | .blockState blk =>
    match s.block? blk with
    | none => .next s
    | some b => if b.onCore then .next (s.kill b.launch blk 0 0x303) else .next s
  | .cleanLine core => if 144 ≤ core then .next s else .next (s.corrected core)
  | .image blk =>
    match s.block? blk with
    | none => .next s
    | some b => if b.running then .next s else .next (s.killImage b 0)

/-- MEMORY_LANE_FAILURE: the link's spare lane comes in. -/
def execMemoryLaneFailure (link : Nat) (s : State) : Host.Outcome State Fault Refusal :=
  if s.fw.memspare.contains link then .next s
  else .next (({ s with fw := { s.fw with memspare := s.fw.memspare ++ [link] } } : State).wearEvent s.sparestat)

/-- WEAR_THRESHOLD: the core awaits retirement, and its blocks are saved to be restored elsewhere. -/
def execWearThreshold (core : Nat) (s : State) : Host.Outcome State Fault Refusal :=
  if 144 ≤ core then .next s
  else
    let t := ((s.modCore core fun x => { x with worn := true }).noteWarn).wearEvent s.sparestat
    .next ((s.blocks.filter fun b => b.core == core && b.running).foldl (fun (t : State) b => t.beginSave b false) t)

end Sys2Proof.Machine
end

