-- ==== Sys2Proof/Machine/Returns.lean ====
section
/-!
DEFINITION. The rejoin of a trap handler's lanes (18_system.md R305; 11_versions.md R212): RFT_REJOIN.
-/

namespace Sys2Proof.Machine

/-- Whether the return point of TEPC passes R305. -/
def State.checkret (s : State) (core : Nat) (l : Launch) (h t : Nat) : Bool :=
  l.offsetOk h && l.offsetOk t && match s.peekCode core l h with
    | none => false
    | some w => (headerCause w h l.lr.codeSize).isNone && (t == h || decide (h < t ∧ t ≤ h + 8 * (hdrCnt w + 1)))

/-- At an RFT of a group its held version lines are sent again to their home slices, and the group stays parked until the
last has landed (R212). -/
def State.retryAtRft (s : State) (blk grp : Nat) : State :=
  let mine := fun (t : State) => t.reqs.filter fun r => r.blk == blk && r.grp == grp && r.isHeld
  let es := s.entries.filter fun e => (mine s).any fun r => decide (r.entry? = some e.id)
  let t := es.foldl State.retryLine s
  t.modGroup blk grp fun g => { g with poolPark := !(mine t).isEmpty }

/-- RFT_REJOIN: every live lane of TMASK waits at an RFT; TEPC and the meeting values are checked, and the lanes return.
With no live lane left nothing returns and nothing is checked (DEDUCED, log 20). -/
def execRftRejoin (blk grp : Nat) (s : State) : Host.Outcome State Fault Refusal :=
  match s.block? blk with
  | none => .next s
  | some b =>
    match s.launch? b.launch with
    | none => .next s
    | some l =>
      let g := b.group grp
      let m := g.tmaskLanes &&& g.live
      let mts := ((lanesOf m).map fun k => match (g.lane k).st with | .rejoin w => [w] | _ => []).flatten
      let h := (g.tepc.extractLsb' 32 32).toNat
      let t := (g.tepc.extractLsb' 0 32).toNat
      let ok := (m == 0 || s.checkret b.core l h t)
        && mts.all fun w => w == noneWord || s.targetOk b.core l w.toNat
      if !g.rejoined || !b.running then .next s
      else match if m = 0 then none else s.askFirst b l grp m (h :: (mts.filter fun w => w != noneWord).map (·.toNat)) with
      | some t => .next t
      | none =>
      if ok then
        .next ((s.modGroup blk grp fun g => { g.leave with mayIssue := max g.mayIssue (s.cc + 12) }).retryAtRft blk grp)
      else .next (s.kill b.launch blk grp codeDoubleFault)

end Sys2Proof.Machine
end

