-- ==== Sys2Proof/Machine/Dispatch.lean ====
section
/-!
DEFINITION. The dispatch of every instruction and event of the opcode table to its meaning.
-/

namespace Sys2Proof.Machine

/-- The meaning of an instruction or event in a state. -/
def exec (i : Instr) (s : State) : Host.Outcome State Fault Refusal :=
  match i with
  | .nop x => Sys2Proof.Machine.execNop x s
  | .bra x => Sys2Proof.Machine.execBra x s
  | .brc x => Sys2Proof.Machine.execBrc x s
  | .bri x => Sys2Proof.Machine.execBri x s
  | .call x => Sys2Proof.Machine.execCall x s
  | .calli x => Sys2Proof.Machine.execCalli x s
  | .ret x => Sys2Proof.Machine.execRet x s
  | .setmt x => Sys2Proof.Machine.execSetmt x s
  | .getmt x => Sys2Proof.Machine.execGetmt x s
  | .brpk x => Sys2Proof.Machine.execBrpk x s
  | .demote x => Sys2Proof.Machine.execDemote x s
  | .exit x => Sys2Proof.Machine.execExit x s
  | .yield x => Sys2Proof.Machine.execYield x s
  | .sleep x => Sys2Proof.Machine.execSleep x s
  | .sadd x => Sys2Proof.Machine.execSadd x s
  | .ssub x => Sys2Proof.Machine.execSsub x s
  | .smul x => Sys2Proof.Machine.execSmul x s
  | .sdiv x => Sys2Proof.Machine.execSdiv x s
  | .slog x => Sys2Proof.Machine.execSlog x s
  | .ssh x => Sys2Proof.Machine.execSsh x s
  | .smnx x => Sys2Proof.Machine.execSmnx x s
  | .scmp x => Sys2Proof.Machine.execScmp x s
  | .ssel x => Sys2Proof.Machine.execSsel x s
  | .smovk x => Sys2Proof.Machine.execSmovk x s
  | .srdl x => Sys2Proof.Machine.execSrdl x s
  | .sbit x => Sys2Proof.Machine.execSbit x s
  | .sget x => Sys2Proof.Machine.execSget x s
  | .viadd x => Sys2Proof.Machine.execViadd x s
  | .visub x => Sys2Proof.Machine.execVisub x s
  | .vimul x => Sys2Proof.Machine.execVimul x s
  | .vimad x => Sys2Proof.Machine.execVimad x s
  | .vidiv x => Sys2Proof.Machine.execVidiv x s
  | .vlog x => Sys2Proof.Machine.execVlog x s
  | .vsh x => Sys2Proof.Machine.execVsh x s
  | .vmnx x => Sys2Proof.Machine.execVmnx x s
  | .vbit x => Sys2Proof.Machine.execVbit x s
  | .vbfx x => Sys2Proof.Machine.execVbfx x s
  | .vbfi x => Sys2Proof.Machine.execVbfi x s
  | .vicmp x => Sys2Proof.Machine.execVicmp x s
  | .vsel x => Sys2Proof.Machine.execVsel x s
  | .vmov x => Sys2Proof.Machine.execVmov x s
  | .vmovk x => Sys2Proof.Machine.execVmovk x s
  | .vlea x => Sys2Proof.Machine.execVlea x s
  | .viadd64 x => Sys2Proof.Machine.execViadd64 x s
  | .vimul64 x => Sys2Proof.Machine.execVimul64 x s
  | .viext x => Sys2Proof.Machine.execViext x s
  | .vpack x => Sys2Proof.Machine.execVpack x s
  | .vfadd x => Sys2Proof.Machine.execVfadd x s
  | .vfsub x => Sys2Proof.Machine.execVfsub x s
  | .vfmul x => Sys2Proof.Machine.execVfmul x s
  | .vfma x => Sys2Proof.Machine.execVfma x s
  | .vfmnx x => Sys2Proof.Machine.execVfmnx x s
  | .vfcmp x => Sys2Proof.Machine.execVfcmp x s
  | .vfclass x => Sys2Proof.Machine.execVfclass x s
  | .vfdiv x => Sys2Proof.Machine.execVfdiv x s
  | .vfsqrt x => Sys2Proof.Machine.execVfsqrt x s
  | .vfapx x => Sys2Proof.Machine.execVfapx x s
  | .vfscl x => Sys2Proof.Machine.execVfscl x s
  | .vfrnd x => Sys2Proof.Machine.execVfrnd x s
  | .vcvtf x => Sys2Proof.Machine.execVcvtf x s
  | .vcvtfi x => Sys2Proof.Machine.execVcvtfi x s
  | .vcvtif x => Sys2Proof.Machine.execVcvtif x s
  | .vqnt x => Sys2Proof.Machine.execVqnt x s
  | .vdqnt x => Sys2Proof.Machine.execVdqnt x s
  | .vshfl x => Sys2Proof.Machine.execVshfl x s
  | .vvote x => Sys2Proof.Machine.execVvote x s
  | .vprfx x => Sys2Proof.Machine.execVprfx x s
  | .vred x => Sys2Proof.Machine.execVred x s
  | .vmatch x => Sys2Proof.Machine.execVmatch x s
  | .vbcst x => Sys2Proof.Machine.execVbcst x s
  | .fenceg x => Sys2Proof.Machine.execFenceg x s
  | .ld x => Sys2Proof.Machine.execLd x s
  | .st x => Sys2Proof.Machine.execSt x s
  | .lds x => Sys2Proof.Machine.execLds x s
  | .sts x => Sys2Proof.Machine.execSts x s
  | .ldu x => Sys2Proof.Machine.execLdu x s
  | .stu x => Sys2Proof.Machine.execStu x s
  | .lda x => Sys2Proof.Machine.execLda x s
  | .sta x => Sys2Proof.Machine.execSta x s
  | .ldds x => Sys2Proof.Machine.execLdds x s
  | .pref x => Sys2Proof.Machine.execPref x s
  | .cctl x => Sys2Proof.Machine.execCctl x s
  | .waitc x => Sys2Proof.Machine.execWaitc x s
  | .ldk x => Sys2Proof.Machine.execLdk x s
  | .stk x => Sys2Proof.Machine.execStk x s
  | .atom x => Sys2Proof.Machine.execAtom x s
  | .cas x => Sys2Proof.Machine.execCas x s
  | .red x => Sys2Proof.Machine.execRed x s
  | .atoms x => Sys2Proof.Machine.execAtoms x s
  | .cass x => Sys2Proof.Machine.execCass x s
  | .reds x => Sys2Proof.Machine.execReds x s
  | .barinit x => Sys2Proof.Machine.execBarinit x s
  | .bararr x => Sys2Proof.Machine.execBararr x s
  | .barexp x => Sys2Proof.Machine.execBarexp x s
  | .barwait x => Sys2Proof.Machine.execBarwait x s
  | .bartst x => Sys2Proof.Machine.execBartst x s
  | .fence x => Sys2Proof.Machine.execFence x s
  | .gangset x => Sys2Proof.Machine.execGangset x s
  | .mma x => Sys2Proof.Machine.execMma x s
  | .mmas x => Sys2Proof.Machine.execMmas x s
  | .acommit x => Sys2Proof.Machine.execAcommit x s
  | .adiscard x => Sys2Proof.Machine.execAdiscard x s
  | .accld x => Sys2Proof.Machine.execAccld x s
  | .accz x => Sys2Proof.Machine.execAccz x s
  | .tld x => Sys2Proof.Machine.execTld x s
  | .tst x => Sys2Proof.Machine.execTst x s
  | .thset x => Sys2Proof.Machine.execThset x s
  | .thget x => Sys2Proof.Machine.execThget x s
  | .vnld x => Sys2Proof.Machine.execVnld x s
  | .vnst x => Sys2Proof.Machine.execVnst x s
  | .vnpub x => Sys2Proof.Machine.execVnpub x s
  | .vnfloor x => Sys2Proof.Machine.execVnfloor x s
  | .vnwait x => Sys2Proof.Machine.execVnwait x s
  | .vnstat x => Sys2Proof.Machine.execVnstat x s
  | .vnopen x => Sys2Proof.Machine.execVnopen x s
  | .hfset x => Sys2Proof.Machine.execHfset x s
  | .hcode x => Sys2Proof.Machine.execHcode x s
  | .hprobe x => Sys2Proof.Machine.execHprobe x s
  | .hins x => Sys2Proof.Machine.execHins x s
  | .hdel x => Sys2Proof.Machine.execHdel x s
  | .hrehash x => Sys2Proof.Machine.execHrehash x s
  | .hmerge x => Sys2Proof.Machine.execHmerge x s
  | .hstat x => Sys2Proof.Machine.execHstat x s
  | .spawn x => Sys2Proof.Machine.execSpawn x s
  | .bndset x => Sys2Proof.Machine.execBndset x s
  | .bndget x => Sys2Proof.Machine.execBndget x s
  | .icupd x => Sys2Proof.Machine.execIcupd x s
  | .icrd x => Sys2Proof.Machine.execIcrd x s
  | .shield x => Sys2Proof.Machine.execShield x s
  | .tqstat x => Sys2Proof.Machine.execTqstat x s
  | .push x => Sys2Proof.Machine.execPush x s
  | .qstat x => Sys2Proof.Machine.execQstat x s
  | .trap x => Sys2Proof.Machine.execTrap x s
  | .rft x => Sys2Proof.Machine.execRft x s
  | .csrr x => Sys2Proof.Machine.execCsrr x s
  | .csrw x => Sys2Proof.Machine.execCsrw x s
  | .bkpt x => Sys2Proof.Machine.execBkpt x s
  | .issueCycle core quad => Sys2Proof.Machine.execIssueCycle core quad s
  | .laneOverdue core quad => Sys2Proof.Machine.execLaneOverdue core quad s
  | .meetingRelease blk grp m => Sys2Proof.Machine.execMeetingRelease blk grp m s
  | .meetingDeadlock blk grp => Sys2Proof.Machine.execMeetingDeadlock blk grp s
  | .repacking blk => Sys2Proof.Machine.execRepacking blk s
  | .sleepExpiry blk grp lane => Sys2Proof.Machine.execSleepExpiry blk grp lane s
  | .activeSetSwap core quad => Sys2Proof.Machine.execActiveSetSwap core quad s
  | .activeIdleTimeout blk grp => Sys2Proof.Machine.execActiveIdleTimeout blk grp s
  | .resultLand blk grp pend => Sys2Proof.Machine.execResultLand blk grp pend s
  | .queueAging prio => Sys2Proof.Machine.execQueueAging prio s
  | .blockAdmission => Sys2Proof.Machine.execBlockAdmission s
  | .preemptionForRoom => Sys2Proof.Machine.execPreemptionForRoom s
  | .idleSave blk => Sys2Proof.Machine.execIdleSave blk s
  | .blockSave blk => Sys2Proof.Machine.execBlockSave blk s
  | .saveTimeout blk => Sys2Proof.Machine.execSaveTimeout blk s
  | .blockRestoration blk => Sys2Proof.Machine.execBlockRestoration blk s
  | .blockCompletion blk => Sys2Proof.Machine.execBlockCompletion blk s
  | .launchCompletion launch => Sys2Proof.Machine.execLaunchCompletion launch s
  | .launchKill blk grp code => Sys2Proof.Machine.execLaunchKill blk grp code s
  | .trapEntry blk grp => Sys2Proof.Machine.execTrapEntry blk grp s
  | .rftRejoin blk grp => Sys2Proof.Machine.execRftRejoin blk grp s
  | .sifterAccept req => Sys2Proof.Machine.execSifterAccept req s
  | .sifterEntrySend entry => Sys2Proof.Machine.execSifterEntrySend entry s
  | .sifterWindowExpiry entry => Sys2Proof.Machine.execSifterWindowExpiry entry s
  | .homeRequest entry => Sys2Proof.Machine.execHomeRequest entry s
  | .loadSectorReply req => Sys2Proof.Machine.execLoadSectorReply req s
  | .storeAcknowledgement req => Sys2Proof.Machine.execStoreAcknowledgement req s
  | .bytesLand item => Sys2Proof.Machine.execBytesLand item s
  | .barwaitResume blk grp => Sys2Proof.Machine.execBarwaitResume blk grp s
  | .mirrorStoreLand item => Sys2Proof.Machine.execMirrorStoreLand item s
  | .vnstApply entry => Sys2Proof.Machine.execVnstApply entry s
  | .vnldHome entry => Sys2Proof.Machine.execVnldHome entry s
  | .vnldWake entry => Sys2Proof.Machine.execVnldWake entry s
  | .vnldRetry entry => Sys2Proof.Machine.execVnldRetry entry s
  | .publicationPoint req => Sys2Proof.Machine.execPublicationPoint req s
  | .reclamation region line => Sys2Proof.Machine.execReclamation region line s
  | .poolRetry region => Sys2Proof.Machine.execPoolRetry region s
  | .registration req => Sys2Proof.Machine.execRegistration req s
  | .matrixAccept core => Sys2Proof.Machine.execMatrixAccept core s
  | .gangRendezvous blk gang => Sys2Proof.Machine.execGangRendezvous blk gang s
  | .gangMemberExited blk gang => Sys2Proof.Machine.execGangMemberExited blk gang s
  | .matrixRetire core => Sys2Proof.Machine.execMatrixRetire core s
  | .probeVersionWake probe => Sys2Proof.Machine.execProbeVersionWake probe s
  | .engineCommandStart cmd => Sys2Proof.Machine.execEngineCommandStart cmd s
  | .copyCommand cmd row lo len => Sys2Proof.Machine.execCopyCommand cmd row lo len s
  | .fill cmd row lo len => Sys2Proof.Machine.execFill cmd row lo len s
  | .redcopy cmd row lo len => Sys2Proof.Machine.execRedcopy cmd row lo len s
  | .insert cmd => Sys2Proof.Machine.execInsert cmd s
  | .delete cmd => Sys2Proof.Machine.execDelete cmd s
  | .merge cmd => Sys2Proof.Machine.execMerge cmd s
  | .engineCommandCompletion cmd => Sys2Proof.Machine.execEngineCommandCompletion cmd s
  | .engineCommandStop cmd => Sys2Proof.Machine.execEngineCommandStop cmd s
  | .offerAtRoot offer => Sys2Proof.Machine.execOfferAtRoot offer s
  | .copyUpdate core ic => Sys2Proof.Machine.execCopyUpdate core ic s
  | .recordPruning blk => Sys2Proof.Machine.execRecordPruning blk s
  | .threadCancellation blk grp lane => Sys2Proof.Machine.execThreadCancellation blk grp lane s
  | .recordWaitExpiry blk entry => Sys2Proof.Machine.execRecordWaitExpiry blk entry s
  | .taskGroupFormation blk => Sys2Proof.Machine.execTaskGroupFormation blk s
  | .taskGroupStart blk slot => Sys2Proof.Machine.execTaskGroupStart blk slot s
  | .ringReadback blk => Sys2Proof.Machine.execRingReadback blk s
  | .beatReceive port content trailer => Sys2Proof.Machine.execBeatReceive port content trailer s
  | .read port p => Sys2Proof.Machine.execRead port p s
  | .write port p => Sys2Proof.Machine.execWrite port p s
  | .atomPacket port p => Sys2Proof.Machine.execAtomPacket port p s
  | .rdata port p => Sys2Proof.Machine.execRdata port p s
  | .adata port p => Sys2Proof.Machine.execAdata port p s
  | .doneReply port p => Sys2Proof.Machine.execDoneReply port p s
  | .refused port p => Sys2Proof.Machine.execRefused port p s
  | .demand port p => Sys2Proof.Machine.execDemand port p s
  | .grant port p => Sys2Proof.Machine.execGrant port p s
  | .mirror port p => Sys2Proof.Machine.execMirror port p s
  | .oack port p => Sys2Proof.Machine.execOack port p s
  | .ack port seq => Sys2Proof.Machine.execAck port seq s
  | .nak port seq => Sys2Proof.Machine.execNak port seq s
  | .training port good => Sys2Proof.Machine.execTraining port good s
  | .key port slot => Sys2Proof.Machine.execKey port slot s
  | .ackTimer port => Sys2Proof.Machine.execAckTimer port s
  | .replayTimeout port => Sys2Proof.Machine.execReplayTimeout port s
  | .origReplayTimeout port => Sys2Proof.Machine.execOrigReplayTimeout port s
  | .laneFailure port lane => Sys2Proof.Machine.execLaneFailure port lane s
  | .trainingComplete port => Sys2Proof.Machine.execTrainingComplete port s
  | .retrainingTimeout port => Sys2Proof.Machine.execRetrainingTimeout port s
  | .peerLossTimeout dev => Sys2Proof.Machine.execPeerLossTimeout dev s
  | .fencePeerTimeout blk grp => Sys2Proof.Machine.execFencePeerTimeout blk grp s
  | .sqtail fn tail dma => Sys2Proof.Machine.execSqtail fn tail dma s
  | .cqhead fn head => Sys2Proof.Machine.execCqhead fn head s
  | .registerWrite fn off val => Sys2Proof.Machine.execRegisterWrite fn off val s
  | .identify c => Sys2Proof.Machine.execIdentify c s
  | .ctxCreate c => Sys2Proof.Machine.execCtxCreate c s
  | .ctxDestroy c => Sys2Proof.Machine.execCtxDestroy c s
  | .tlbInval c => Sys2Proof.Machine.execTlbInval c s
  | .copy c => Sys2Proof.Machine.execCopy c s
  | .launch c => Sys2Proof.Machine.execLaunch c s
  | .preempt c => Sys2Proof.Machine.execPreempt c s
  | .faultResolve c => Sys2Proof.Machine.execFaultResolve c s
  | .energySet c => Sys2Proof.Machine.execEnergySet c s
  | .keyAlloc c => Sys2Proof.Machine.execKeyAlloc c s
  | .keyFree c => Sys2Proof.Machine.execKeyFree c s
  | .linkKey c => Sys2Proof.Machine.execLinkKey c s
  | .fabricWindow c => Sys2Proof.Machine.execFabricWindow c s
  | .linkQuery c => Sys2Proof.Machine.execLinkQuery c s
  | .peerLost c => Sys2Proof.Machine.execPeerLost c s
  | .maint c => Sys2Proof.Machine.execMaint c s
  | .checkpoint c => Sys2Proof.Machine.execCheckpoint c s
  | .restore c => Sys2Proof.Machine.execRestore c s
  | .lockInterface fn => Sys2Proof.Machine.execLockInterface fn s
  | .startInterface fn => Sys2Proof.Machine.execStartInterface fn s
  | .stopInterface fn => Sys2Proof.Machine.execStopInterface fn s
  | .interfaceError fn => Sys2Proof.Machine.execInterfaceError fn s
  | .spdmRequest msg => Sys2Proof.Machine.execSpdmRequest msg s
  | .energyWindowStart => Sys2Proof.Machine.execEnergyWindowStart s
  | .thermalEmergency die => Sys2Proof.Machine.execThermalEmergency die s
  | .thermalRecovery => Sys2Proof.Machine.execThermalRecovery s
  | .powerUp device wiring => Sys2Proof.Machine.execPowerUp device wiring s
  | .powerFail => Sys2Proof.Machine.execPowerFail s
  | .coreLost core => Sys2Proof.Machine.execCoreLost core s
  | .uncorrectableError site => Sys2Proof.Machine.execUncorrectableError site s
  | .correctedError core => Sys2Proof.Machine.execCorrectedError core s
  | .memoryLaneFailure link => Sys2Proof.Machine.execMemoryLaneFailure link s
  | .wearThreshold core => Sys2Proof.Machine.execWearThreshold core s

end Sys2Proof.Machine
end

