-- ==== Sys2Proof/Machine/Place.lean ====
section
/-!
DEFINITION. Placing one instruction where the next step fetches it: a launch with one block of one group, admitted, whose
code holds one clause, and that group's lanes chosen for issue (log 6).
-/

namespace Sys2Proof.Machine

/-- A launch record with one block of one group and code at virtual address 0, of the size of one clause. -/
def placedRecord : LRec where
  idem := false
  grouped := false
  tasks := false
  codeBase := 0
  codeSize := 136
  stages := 1
  groups := 1
  cluster := 1
  prio := 0
  gridX := 1
  gridY := 1
  gridZ := 1
  vregs := 128
  sregs := 64
  retries := 0
  gangMax := 0
  scratch := 0
  mirror := 0
  parSize := 0
  parBase := 0
  stage := [⟨0, 0⟩]
  slots := Vector.replicate 8 ⟨0, 0, 0, 0, false, 0⟩
  tiles := []
  tqBase := 0
  tqRecs := 0
  icbind := Vector.replicate 16 0
  images := []
  regions := []

/-- A level-three leaf of 32 MiB, valid, writable and executable, at a physical address. -/
def placedLeaf (pa : Nat) : Nat := pa + 0xF

/-- The first clause: a header of 16 words of a class, then the instruction's words. -/
def placedCode (cls : Nat) (bytes : List Byte) : List Byte :=
  leBytes 8 (0xFF * 2 ^ 56 + cls * 2 ^ 52 + 15 * 2 ^ 48) ++ bytes

/-- The block that holds the placed instruction. -/
def placedBlock (id launch : Nat) : Block :=
  { Block.zero with
    id := id
    launch := launch
    groups := [{ Group.zero with active := some 0 }] }

/-- A state whose next step fetches and runs an instruction given as bytes, of a class. -/
def State.place (s : State) (cls : Nat) (bytes : List Byte) : State :=
  let ctx := s.nextId + 2 ^ 16
  let c : Context := ⟨ctx, 0, 0, 0, 0, 0, 0, 0, none, 0, 0⟩
  let l : Launch := ⟨s.nextId, 0, 0, ctx, placedRecord, 1, 1, 0, false, none, none, [], none⟩
  let pte := fun (m : Store) (a x : Nat) => m.write 0 a (leBytes 8 x)
  let m := pte (pte (pte s.mem 0x0 (0x1000 + 1)) 0x1000 (0x2000 + 1)) 0x2000 (placedLeaf 0x0200_0000)
  { s with
    mem := m.write 0 0x0200_0000 (placedCode cls bytes)
    nextId := s.nextId + 2
    blocks := placedBlock (s.nextId + 1) s.nextId :: s.blocks
    fw := { s.fw with contexts := c :: s.fw.contexts, launches := l :: s.fw.launches }
    cur := [⟨s.nextId + 1, 0, 0xFFFF_FFFF#32, 8, 0, cls, 15, none⟩] }

end Sys2Proof.Machine
end

