-- ==== Sys2Proof/Machine/Sched.lean ====
section
/-!
DEFINITION. Which event comes next when the agenda names none (log 2): one of the events of the device's own agents, chosen
freely, so that a claim about a step holds whatever the order of the agents is. What comes from outside (a write of a
register, a beat, an error, a device assignment) is named by the agenda alone.
-/

namespace Sys2Proof.Machine

/-- The events of one group. -/
def State.groupEvents (s : State) (b : Block) (grp : Nat) : List Instr :=
  let g := b.group grp
  let lanes := List.range 32
  ((distinct ((lanes.filter fun l => decide ((g.lane l).st = .held)).map fun l => (g.lane l).mt.toNat)).map fun m =>
      Instr.meetingRelease b.id grp (BitVec.ofNat 32 m))
    ++ (distinct (lanes.filterMap fun l => match (g.lane l).st with | .sleeping n => some n | _ => none)).filterMap (fun n =>
        if n ≤ s.cc then (lanes.find? fun l => decide ((g.lane l).st = .sleeping n)).map (Instr.sleepExpiry b.id grp ·) else none)
    ++ (lanes.filter fun l => s.toCancel b (g.lane l)).map (Instr.threadCancellation b.id grp ·)
    ++ g.insns.map (fun i => Instr.resultLand b.id grp i.id)
    ++ [.meetingDeadlock b.id grp, .activeIdleTimeout b.id grp, .rftRejoin b.id grp, .barwaitResume b.id grp,
        .fencePeerTimeout b.id grp]
    ++ (if g.forming then [.taskGroupStart b.id grp] else [])

/-- The events of one block. -/
def State.blockEvents (s : State) (b : Block) : List Instr :=
  ((List.range b.groups.length).map (s.groupEvents b ·)).flatten
    ++ ((distinct (b.groups.map fun g => g.gang.toNat)).map fun n =>
        [Instr.gangRendezvous b.id (BitVec.ofNat 16 n), Instr.gangMemberExited b.id (BitVec.ofNat 16 n)]).flatten
    ++ (match s.launch? b.launch with
      | none => []
      | some l => (distinct ((s.liveRecords b l).map fun t => t.entry.toNat)).map fun e =>
          Instr.recordWaitExpiry b.id (BitVec.ofNat 32 e))
    ++ [.repacking b.id, .idleSave b.id, .blockSave b.id, .saveTimeout b.id, .blockRestoration b.id, .blockCompletion b.id,
        .recordPruning b.id, .taskGroupFormation b.id, .ringReadback b.id]

/-- The events of requests, entries and region homes. -/
def State.memoryEvents (s : State) : List Instr :=
  (s.reqs.map fun r => [Instr.sifterAccept r.id, .loadSectorReply r.id, .storeAcknowledgement r.id, .bytesLand r.id]
      ++ (List.range r.acks.length).map fun i => Instr.mirrorStoreLand (16 * r.id + i)).flatten
    ++ (s.entries.map fun e => [Instr.sifterEntrySend e.id, .sifterWindowExpiry e.id, .homeRequest e.id, .vnstApply e.id,
        .vnldHome e.id, .vnldWake e.id, .vnldRetry e.id]).flatten
    ++ (s.home.filterMap fun h => match h.op with
        | .publish => if h.done then none else some (Instr.publicationPoint h.id)
        | .floor | .queued _ => none
        | _ => if h.ans.isSome then none else some (Instr.registration h.id))
    ++ (s.regions.map fun g => Instr.poolRetry (256 * g.launch + g.num)
        :: (distinct (g.recs.map (·.line))).map fun n => Instr.reclamation (256 * g.launch + g.num) n).flatten

/-- The largest piece at the start of what a command still has to do: to a peer, what its window still holds of a block of
2 KiB there. -/
def State.pieceOf (s : State) (k : Cmd) (t : Nat × Nat × Nat) : Nat × Nat × Nat :=
  let u := if k.w.op = opRedcopy then redBytes k.w.rfmt else 1
  let src := k.srcAt t.1 t.2.1
  let dst := k.dstAt t.1 t.2.1
  let far := fun (va : Nat) => (s.peerOf k.ctx va).isSome
  let peer := k.w.dspace == 0 && far dst
  let unit := if peer then s.farUnit else 128
  let n := min t.2.2 unit
  let n := if k.w.op ≠ opFill ∧ k.w.sspace = 0 ∧ (!peer || far src) = true then min n (128 - src % 128) else n
  let n := if k.w.dspace = 0 then min n (unit - dst % unit) else n
  let win := match (s.peerOf k.ctx dst).bind fun d => k.far.find? fun f => f.dev == d with | some f => f.win | none => 0
  let n := if 0 < win then min n win else n
  (t.1, t.2.1, if k.w.op = opRedcopy ∧ peer = true then u else n / u * u)

/-- The events of the engines. -/
def State.engineEvents (s : State) : List Instr :=
  (s.cmds.map fun k =>
    [Instr.engineCommandStart k.id, .engineCommandCompletion k.id, .engineCommandStop k.id]
      ++ (if k.queue = 5 then [.insert k.id, .delete k.id, .merge k.id] else [])
      ++ (k.flight.map fun f => Instr.bytesLand f.1)
      ++ ((if k.queue = 5 then [] else k.todo).map fun t =>
        let p := s.pieceOf k t
        [Instr.copyCommand k.id p.1 p.2.1 p.2.2, .fill k.id p.1 p.2.1 p.2.2, .redcopy k.id p.1 p.2.1 p.2.2]).flatten).flatten
    ++ (s.mtxq.map fun o => [Instr.matrixAccept o.core, .matrixRetire o.core]).flatten
    ++ (s.probes.map fun p => Instr.probeVersionWake p.id)

/-- The event of the packet at the head of a port's receive buffer. -/
def State.packetEvent (port : Nat) (p : Packet) : Instr :=
  match p.type with
  | 0 => .read port p
  | 1 => .write port p
  | 2 => .atomPacket port p
  | 3 => .rdata port p
  | 4 => .adata port p
  | 5 => .doneReply port p
  | 6 => .refused port p
  | 7 => .demand port p
  | 8 => .grant port p
  | 9 => .mirror port p
  | _ => .oack port p

/-- The events of the fabric. -/
def State.fabricEvents (s : State) : List Instr :=
  ((List.range 16).map fun n =>
    if (s.port n).peer.isNone then []
    else [Instr.ackTimer n, .replayTimeout n, .origReplayTimeout n, .trainingComplete n, .retrainingTimeout n]
      ++ (match (s.port n).inbox with | p :: _ => [State.packetEvent n p] | [] => [])).flatten
    ++ (s.fab.noRoute.map fun q => Instr.peerLossTimeout q.1)

/-- The event that serves a command; IDENTIFY, and any of unknown opcode, IDENTIFY's. -/
def commandEvent (c : HostCmd) : List Instr :=
  match c.op with
  | 0x02 => [.ctxCreate c]
  | 0x03 => [.ctxDestroy c]
  | 0x04 => [.tlbInval c]
  | 0x05 => [.copy c]
  | 0x06 => [.launch c]
  | 0x07 => [.preempt c]
  | 0x08 => [.faultResolve c]
  | 0x09 => [.energySet c]
  | 0x0A => [.keyAlloc c]
  | 0x0B => [.keyFree c]
  | 0x0C => [.linkKey c]
  | 0x0D => [.fabricWindow c]
  | 0x0E => [.linkQuery c]
  | 0x0F => [.peerLost c]
  | 0x10 => [.maint c]
  | 0x11 => [.checkpoint c]
  | 0x12 => [.restore c]
  | _ => [.identify c]

/-- The events of the firmware. -/
def State.firmwareEvents (s : State) : List Instr :=
  (match s.turn with | some f => commandEvent (s.oldest f) | none => [])
    ++ (s.fw.jobs.map fun j => commandEvent j.cmd).flatten
    ++ (match s.fw.ckptBy with
      | some (f, cid) => [.checkpoint ⟨f, 0x11, 0, cid, 0, false, 0, 0, 0, 0, 0, 0⟩]
      | none => if s.fw.quiesce then [.powerFail] else [])
    ++ (List.range 4).map Instr.queueAging
    ++ (s.fw.launches.map fun l => Instr.launchCompletion l.id)
    ++ (s.offers.map fun o => Instr.offerAtRoot o.id)
    ++ ((List.range 144).map fun k => ((s.cores[k]?.getD CoreSt.zero).pending.map fun q => Instr.copyUpdate k q.1)).flatten
    ++ [.blockAdmission, .preemptionForRoom, .energyWindowStart, .thermalRecovery]

/-- The events of the issue slots. -/
def State.slotEvents (s : State) : List Instr :=
  let qs := s.quads.filter fun q => !s.served.contains q
  (match qs with | [] => [.issueCycle 0 0] | _ => [])
    ++ (qs.map fun q => [Instr.issueCycle q.1 q.2, .laneOverdue q.1 q.2]).flatten
    ++ s.quads.map fun q => Instr.activeSetSwap q.1 q.2

/-- The release that is due, if any: the first group of a resident block of which threads held at a meeting address are to be
released. It comes before anything else does (R65). -/
def State.releaseDue (s : State) : Option Instr :=
  s.blocks.findSome? fun b =>
    if !b.running then none
    else b.groups.zipIdx.findSome? fun (p : Group × Nat) =>
      (p.1.meetings.find? p.1.releases).map fun m => Instr.meetingRelease b.id p.2 m

/-- The events that may come next. -/
def State.nextEvents (s : State) : List Instr :=
  s.slotEvents ++ (s.blocks.map s.blockEvents).flatten ++ s.memoryEvents ++ s.engineEvents ++ s.fabricEvents ++ s.firmwareEvents

/-- The next event: a free choice. -/
def State.nextEvent (s : State) : Instr :=
  s.nextEvents.getD (Config.pick s.free % s.nextEvents.length) (.issueCycle 0 0)

end Sys2Proof.Machine
end

