-- ==== Sys2Proof/Machine/Step.lean ====
section
/-!
DEFINITION. One step of the machine (log 2): the instruction of the lane set at the head of the issue list is fetched,
decoded and executed; with none there, a release at a meeting address that is due takes place, else the next event of the
agenda, or of the default scheduler.
-/

namespace Sys2Proof.Machine

/-- One step. -/
def step (s : State) : Host.Outcome State Fault Refusal :=
  match s.cur with
  | _ :: _ =>
    match s.fetchHead with
    | (some i, t) => exec i t
    | (none, t) => .next t
  | [] =>
    match s.releaseDue, s.agenda with
    | some i, _ => exec i s
    | none, i :: rest => exec i { s with agenda := rest }
    | none, [] => exec s.nextEvent { s with free := s.free + 1 }

/-- The state in which the next step fetches and runs the instruction of nbits bits w (log 6). -/
def State.withFetchWord (s : State) (nbits w : Nat) : State :=
  s.place (classOfOp (BitVec.ofNat 8 (w % 2 ^ nbits / 2 ^ 56))) (leBytes 40 (w % 2 ^ nbits))

end Sys2Proof.Machine
end

