-- ==== Sys2Proof/Safety.lean ====
section
/-!
DEFINITION. What a safe step is, and the forms in which statements say what an instruction or event does: the state after
an instruction that changes its own group, and what one state leaves of another.
-/

namespace Sys2Proof.Machine

/-- The step from a state gives a next state. -/
def SafeStep (s : State) : Prop := ∃ t, step s = .next t

/-- The canonical form of what the model keeps as lists: device memory, the host's memory and the memory that a checkpoint
holds (log 1). -/
def State.canonical (s : State) : Prop :=
  s.mem.wf = true ∧ Memory.wf s.host = true ∧ ∀ k, s.ckpt = some k → k.mem.wf = true

/-- A group with the lanes of the issuing set standing inside their clause at the instruction, its windows, its SHIELD
count and its skip count one instruction on (R35, R61, R287). -/
def Ctx.start (c : Ctx) (g : Group) : Group :=
  g.modLanes c.iss.lanes fun _ x => { x.tick with pc := c.iss.pc, hdr := some c.iss.hdr }

/-- A group after an instruction of n words: the lanes of the set, but for those of own, pass the instruction (R22, R65). -/
def Ctx.move (c : Ctx) (n : Nat) (own : Mask) (g : Group) : Group :=
  { g with trapChk := g.trapChk && !c.handler }.modLanes c.iss.lanes fun l x => if inMask own l then x else x.pass c.iss n

/-- The state after an instruction of n words that changes its own group by f and has itself placed the lanes of own:
nothing but the issue list and that group is different. -/
def State.after (s : State) (c : Ctx) (n : Nat) (own : Mask) (f : Group → Group) : State :=
  { s with
    cur := s.cur.tail
    blocks := s.blocks.map fun b =>
      if b.id = c.iss.blk then { b with groups := b.groups.modify c.iss.grp fun g => c.move n own (f (c.start g)) } else b }

/-- The state after an instruction that waits and changes its own group by f on the way: the set stands before it inside
its clause, and nothing but the issue list and that group is different. -/
def State.waits (s : State) (c : Ctx) (f : Group → Group) : State :=
  { s with
    cur := s.cur.tail
    blocks := s.blocks.map fun b =>
      if b.id = c.iss.blk then { b with groups := b.groups.modify c.iss.grp fun g => c.stay (f (c.start g)) } else b }

/-- No lane of the set is inside a SHIELD window (R287). -/
def Ctx.unshielded (c : Ctx) : Prop := ∀ l, inMask c.iss.lanes l = true → (c.g.lane l).shield = 0

/-- Nothing that the issuing group has begun is outstanding: no request, no matrix operation of its block and no probe or
update of its own, so that every wait for earlier accesses has ended (R103, R171, R172). -/
def Ctx.idle (c : Ctx) (s : State) : Prop :=
  (∀ r ∈ s.reqs, ¬ (r.blk = c.iss.blk ∧ r.grp = c.iss.grp)) ∧ (∀ o ∈ s.mtxq, o.blk ≠ c.iss.blk)
    ∧ ∀ p ∈ s.probes, ¬ (p.blk = c.iss.blk ∧ p.grp = c.iss.grp)

/-- The state after an instruction that raises causes before it issues: the set leaves the issue list, gives up what it
had begun before the instruction, and the trap is taken with TEPC at the instruction (R306). -/
def State.trapsBefore (s : State) (c : Ctx) (cs : List (Cause × Mask)) : State :=
  ({ s.abandon c.iss with cur := s.cur.tail } : State).trap c.iss.blk c.iss.grp
    { causes := cs, set := c.iss.lanes, tepc := c.iss.pc, hdr := if c.iss.pc = c.iss.nextHdr then c.iss.pc else c.iss.hdr }

/-- The requests of one instruction with their numbers, after the instruction's own number n; a request to a bank is
accepted there at once (R143). -/
def numberReqs (n : Nat) (rs : List Req) : List Req :=
  rs.zipIdx.map fun (p : Req × Nat) =>
    let r : Req := { p.1 with id := n + 1 + p.2, insn := n }
    if r.space = .global then r else { r with phase := .accepted r.id }

/-- The places at a bank of the requests that need no Sifter. -/
def bankEntries (s : State) (c : Ctx) (rs : List Req) : List Entry :=
  (rs.filter fun r => decide (r.space ≠ .global)).map fun r => ⟨r.id, r.core, c.l.ctx, r.id, .bank, 0, 0, s.cc, true, false, [r.id]⟩

/-- The state after an instruction that posts the requests rs: they join the requests in order, the instruction joins its
group's instructions in flight, and its counter rises by one (R21, R34, R143). -/
def State.posted (s : State) (c : Ctx) (la : BitVec 4) (i : Insn) (rs : List Req) : State :=
  ({ s with
    nextId := s.nextId + 1 + rs.length
    reqs := s.reqs ++ numberReqs s.nextId rs
    entries := s.entries ++ bankEntries s c (numberReqs s.nextId rs) } : State).after c 1 0 fun g =>
      ({ g with insns := g.insns ++ [{ i with id := s.nextId }] }.raise i.ctr).window (c.windowLanes i.lanes i.sregs) s.nextId la

end Sys2Proof.Machine
end

