-- ==== Sys2Proof/Certificates/Slice0/Obligations.lean ====
section
/-!
DEFINITION. The statements for the provers. In each statement about an instruction, s.ctx? = some c says that a lane set
stands at the head of the issue list: c holds the issue, its block, its group, the group as the instruction reads it, and
its launch. State.after is the state in which nothing but the issue list and that one group is different.
-/

open Sys2Proof Sys2Proof.Machine

/-! ### Integer instructions -/

/-- R86, R88: a source is read as an integer congruent to its low w bits and in the range of the format; a result wraps to
the one integer of the range congruent to it modulo 2^w, or with sat is clamped to the nearest integer of the range, and
what is stored is that integer in 64 bits. A shift reads its count n unsigned. SHL gives x·2^n, and 0 when n ≥ w; SHR rounds
x / 2^n toward minus infinity, and gives the sign fill when n ≥ w; a rotation moves each of the w bits by n mod w places; HI
of a product is its bits 2w − 1 : w; POPC, CLZ and CTZ count ones, leading and trailing zeros among the w bits, and BREV
reverses them. -/
def Obligations.IntegerArithmeticFollowsTheSpec : Prop :=
  (
    ∀ fmt : Nat, fmt < 8 →
      (∀ x : W64, fmtMin fmt ≤ readInt fmt x ∧ readInt fmt x ≤ fmtMax fmt
        ∧ readInt fmt x % 2 ^ fmtW fmt = (x.toNat : Int) % 2 ^ fmtW fmt)
      ∧ (∀ r y : Int, fmtMin fmt ≤ y → y ≤ fmtMax fmt → r % 2 ^ fmtW fmt = y % 2 ^ fmtW fmt →
          reduceInt fmt false r = BitVec.ofInt 64 y)
      ∧ (∀ r : Int, fmtMin fmt ≤ r → r ≤ fmtMax fmt → reduceInt fmt true r = BitVec.ofInt 64 r)
      ∧ (∀ r : Int, r < fmtMin fmt → reduceInt fmt true r = BitVec.ofInt 64 (fmtMin fmt))
      ∧ (∀ r : Int, fmtMax fmt < r → reduceInt fmt true r = BitVec.ofInt 64 (fmtMax fmt)))
  ∧ (
    ∀ fmt : Nat, fmt < 8 →
      (∀ (x : Int) (n : Nat), fmtMin fmt ≤ x → x ≤ fmtMax fmt →
        shiftInt fmt 0 x n = (if n ≥ fmtW fmt then 0 else x * 2 ^ n)
        ∧ shiftInt fmt 1 x n = x / 2 ^ n
        ∧ ∀ i, i < fmtW fmt →
          (shiftInt fmt 2 x n).toNat.testBit ((i + n) % fmtW fmt) = (x % 2 ^ fmtW fmt).toNat.testBit i
          ∧ (shiftInt fmt 3 x n).toNat.testBit i = (x % 2 ^ fmtW fmt).toNat.testBit ((i + n) % fmtW fmt))
      ∧ (∀ x y : Int, mulInt fmt false x y = x * y ∧ mulInt fmt true x y = (x * y) / 2 ^ fmtW fmt)
      ∧ (∀ x : Nat,
        popCount (fmtW fmt) x = ((List.range (fmtW fmt)).filter fun i => x.testBit i).length
        ∧ (∀ k, k < clz (fmtW fmt) x → x.testBit (fmtW fmt - 1 - k) = false)
        ∧ (clz (fmtW fmt) x < fmtW fmt → x.testBit (fmtW fmt - 1 - clz (fmtW fmt) x) = true) ∧ clz (fmtW fmt) x ≤ fmtW fmt
        ∧ (∀ k, k < ctz (fmtW fmt) x → x.testBit k = false)
        ∧ (ctz (fmtW fmt) x < fmtW fmt → x.testBit (ctz (fmtW fmt) x) = true) ∧ ctz (fmtW fmt) x ≤ fmtW fmt
        ∧ ∀ i, i < fmtW fmt → (brev (fmtW fmt) x).testBit i = x.testBit (fmtW fmt - 1 - i)))

/-- R34, R35, R90, R145: for a divisor other than 0, quotient and remainder satisfy x = q·y + r with r smaller than y in
magnitude and of the sign of x; a quotient by 0 is w one bits extended by the format, with or without sat, and a remainder
by 0 is x where the format holds x; the most negative value divided by −1 wraps to itself, or is the greatest value with
sat, and its remainder is 0. SDIV and VIDIV make their destination pending, and the quotient or remainder is in flight until
RESULT_LAND writes it; VIDIV's is pending in the lanes of the set whose guard is true, which get its lookahead window, and
SDIV's for every thread of the group, and every lane of the set gets the window (which lanes get the window is the model's
reading, log 44); with no guard-true lane they have no effect. -/
def Obligations.DivisionsDivideAndLandLater : Prop :=
  (
    ∀ fmt : Nat, fmt < 8 →
      (∀ x y : Int, y ≠ 0 →
        x = divInt fmt false x y * y + divInt fmt true x y
        ∧ (divInt fmt true x y).natAbs < y.natAbs
        ∧ (0 ≤ x → 0 ≤ divInt fmt true x y) ∧ (x ≤ 0 → divInt fmt true x y ≤ 0)
        ∧ ∀ sat rem, divResult fmt sat rem x y = reduceInt fmt sat (divInt fmt rem x y))
      ∧ (∀ (x : Int) (sat : Bool), divResult fmt sat false x 0 = reduceInt fmt false (2 ^ fmtW fmt - 1)
        ∧ (fmtMin fmt ≤ x → x ≤ fmtMax fmt → divResult fmt sat true x 0 = BitVec.ofInt 64 x))
      ∧ (fmtSigned fmt = true →
        divResult fmt false false (fmtMin fmt) (-1) = BitVec.ofInt 64 (fmtMin fmt)
        ∧ divResult fmt true false (fmtMin fmt) (-1) = BitVec.ofInt 64 (fmtMax fmt)
        ∧ ∀ sat, divResult fmt sat true (fmtMin fmt) (-1) = 0))
  ∧ (
    ∀ (s : State) (c : Ctx) (x : VForm), s.ctx? = some c →
      let fmt := x.fmt.toNat
      let m := c.on x.g
      let put := fun (w : Mask) (i : Insn) => ({ s with nextId := s.nextId + 1 } : State).after c 1 0 fun g =>
        { g with insns := g.insns ++ [i] }.window w s.nextId x.la
      let res := fun (a b : Int) => divResult fmt x.sat (x.sub.toNat == 1) a b
      (m ≠ 0 →
        exec (.sdiv x) s = .next (put c.iss.lanes ⟨s.nextId, .none, c.iss.pc, m, [], [x.d.snum],
          [(.s x.d.snum, res (nasInt x.nas (readInt fmt (c.sval x.a))) (readInt fmt (c.sval x.b)))], true⟩)
        ∧ exec (.vidiv x) s = .next (put m ⟨s.nextId, .none, c.iss.pc, m, [x.d.vnum], [],
          (lanesOf m).map fun l => (.v x.d.vnum l, res (nasInt x.nas (readInt fmt ((c.val x.a l).setWidth 64)))
            (readInt fmt ((c.val x.b l).setWidth 64))), true⟩))
      ∧ (m = 0 → exec (.sdiv x) s = .next (s.after c 1 0 id) ∧ exec (.vidiv x) s = .next (s.after c 1 0 id))
      ∧ ∀ (u : Uses) (j : Insn) (l : Nat), j.sregs = [x.d.snum] → x.d.snum ∈ u.s → u.meets j l = true)

/-- R25, R88, R93, R94, R307: the scalar instructions write their destination once, when the guard is true in at least one
lane of the issuing set, and change nothing else; otherwise they have no effect. SRDL reads lane b mod 32, or the lowest
guard-true lane, and zero from a lane outside the handler's mask. SGET reads the block's index, the grid's extents, the
slot, the launch's group count, the core of the block's first admission, the cycle count, the argument block's address, the
index in the cluster, and the group and tile. -/
def Obligations.ScalarInstructionsWriteOnce : Prop :=
  (
    ∀ (s : State) (c : Ctx), s.ctx? = some c →
      (∀ x : VForm,
        let fmt := x.fmt.toNat
        let a := nasInt x.nas (readInt fmt (c.sval x.a))
        let b := readInt fmt (c.sval x.b)
        let wr := fun (r : W64) (g : Group) => if c.on x.g = 0 then g else g.putS x.d r
        exec (.sadd x) s = .next (s.after c 1 0 (wr (reduceInt fmt x.sat (a + b))))
        ∧ exec (.ssub x) s = .next (s.after c 1 0 (wr (reduceInt fmt x.sat (a - b))))
        ∧ exec (.smul x) s = .next (s.after c 1 0 (wr (reduceInt fmt x.sat (mulInt fmt (x.sub.toNat == 1) a b))))
        ∧ exec (.smnx x) s = .next (s.after c 1 0 (wr (reduceInt fmt x.sat (if x.sub.toNat = 0 then min a b else max a b))))
        ∧ exec (.ssh x) s =
            .next (s.after c 1 0 (wr (reduceInt fmt x.sat (shiftInt fmt x.sub.toNat a (b % 2 ^ fmtW fmt).toNat))))
        ∧ exec (.sbit x) s = .next (s.after c 1 0 (wr (reduceInt fmt x.sat (bitInt fmt x.sub.toNat (c.sval x.a).toNat))))
        ∧ exec (.slog x) s = .next (s.after c 1 0 (wr (logic x.sub.toNat (c.sval x.a) (c.sval x.b))))
        ∧ exec (.scmp x) s = .next (s.after c 1 0 (wr (if relInt x.sub.toNat a b then 1 else 0)))
        ∧ exec (.ssel x) s = .next (s.after c 1 0 (wr (if c.sval x.c ≠ 0 then c.sval x.a else c.sval x.b)))
        ∧ (let k := if x.b = .none then (lanesOf (c.on x.g)).headD 0 else (c.sval x.b).toNat % 32
          let w : W32 := if c.inactive k then 0 else (c.r.lane k).vreg x.a.vnum
          exec (.srdl x) s = .next (s.after c 1 0 (wr (if x.fmt = 0 then w.signExtend 64 else w.setWidth 64)))))
      ∧ ∀ x : KForm,
        exec (.smovk x) s = .next (s.after c 1 0 fun g => if c.on x.g = 0 then g else
          g.putS x.d (if x.a = .none then x.imm.signExtend 64 else x.imm ++ (c.sval x.a).extractLsb' 0 32)))
  ∧ (
    ∀ (s : State) (c : Ctx) (x : VForm), s.ctx? = some c →
      let tile := if c.l.lr.grouped then c.l.lr.tiles.getD c.b.x (0, 0) else (0, c.b.x)
      let value : Nat := match x.sub.toNat with
        | 0 => c.b.x
        | 1 => c.b.y
        | 2 => c.b.z
        | 3 => if c.l.lr.grouped then c.l.lr.tiles.length else c.l.lr.gridX
        | 4 => c.l.lr.gridY
        | 5 => c.l.lr.gridZ
        | 6 => c.iss.grp
        | 7 => c.l.lr.groups
        | 8 => c.b.core0
        | 9 => s.cc
        | 10 => c.l.lr.parBase
        | 11 => c.b.x % c.l.lr.cluster
        | 12 => tile.1
        | _ => tile.2
      exec (.sget x) s = .next (s.after c 1 0 fun g => if c.on x.g = 0 then g else g.putS x.d (BitVec.ofNat 64 value)))

/-- R85, R86, R88, R92, R93, R25: the vector integer instructions write each active, guard-true lane of their destination
and change nothing else. -/
def Obligations.VectorIntegerInstructionsWriteTheirLanes : Prop :=
  ∀ (s : State) (c : Ctx), s.ctx? = some c →
    (∀ x : VForm,
      let fmt := x.fmt.toNat
      let rd := fun (o : Opnd) (l : Nat) => readInt fmt ((c.val o l).setWidth 64)
      let a := fun (l : Nat) => nasInt x.nas (rd x.a l)
      let b := rd x.b
      let wr := fun (r : Nat → Int) (g : Group) => g.putO (c.on x.g) x.d fun l => (reduceInt fmt x.sat (r l)).setWidth 32
      let raw := fun (r : Nat → W32) (g : Group) => g.putO (c.on x.g) x.d r
      (x.sub = 0 → exec (.viadd x) s = .next (s.after c 1 0 (wr fun l => a l + b l)))
      ∧ (x.sub = 0 → exec (.visub x) s = .next (s.after c 1 0 (wr fun l => a l - b l)))
      ∧ exec (.vimul x) s = .next (s.after c 1 0 (wr fun l => mulInt fmt (x.sub.toNat == 1) (a l) (b l)))
      ∧ exec (.vimad x) s = .next (s.after c 1 0 (wr fun l => a l * b l + rd x.c l))
      ∧ exec (.vmnx x) s = .next (s.after c 1 0 (wr fun l => if x.sub.toNat = 0 then min (a l) (b l) else max (a l) (b l)))
      ∧ exec (.vbit x) s = .next (s.after c 1 0 (wr fun l => bitInt fmt x.sub.toNat (c.val x.a l).toNat))
      ∧ exec (.vmov x) s = .next (s.after c 1 0 (wr a))
      ∧ exec (.vlea x) s =
          .next (s.after c 1 0 (wr fun l => a l + b l * 2 ^ x.sub.toNat + (if x.c = .none then 0 else rd x.c l)))
      ∧ exec (.vsh x) s = .next (s.after c 1 0 (wr fun l => shiftInt fmt x.sub.toNat (a l) (b l % 2 ^ fmtW fmt).toNat))
      ∧ exec (.vlog x) s = .next (s.after c 1 0 (raw fun l => logic x.sub.toNat (c.val x.a l) (c.val x.b l)))
      ∧ exec (.vicmp x) s = .next (s.after c 1 0 (raw fun l => if relInt x.sub.toNat (a l) (b l) then 1 else 0))
      ∧ exec (.vsel x) s = .next (s.after c 1 0 (raw fun l => if c.val x.c l ≠ 0 then c.val x.a l else c.val x.b l)))
    ∧ ∀ x : KForm, exec (.vmovk x) s = .next (s.after c 1 0 fun g => g.putO (c.on x.g) x.d fun _ => x.imm)

/-- R89, R91: the carry forms chain unsigned 32-bit words: CI writes the low word of a ± b ± cin, CO whether a + b carries
or a − b borrows, CIO the same with cin. The field, pair and packing instructions write each active, guard-true lane and
change nothing else. -/
def Obligations.CarryFieldPairAndPackInstructions : Prop :=
  (
    ∀ (s : State) (c : Ctx) (x : VForm), s.ctx? = some c →
      let a := fun (l : Nat) => ((c.val x.a l).toNat : Int)
      let b := fun (l : Nat) => ((c.val x.b l).toNat : Int)
      let cin := fun (l : Nat) => ((c.val x.c l).toNat : Int)
      let wr := fun (r : Nat → W32) (g : Group) => g.putO (c.on x.g) x.d r
      (x.sub = 1 → exec (.viadd x) s = .next (s.after c 1 0 (wr fun l => BitVec.ofInt 32 (a l + b l + cin l)))
        ∧ exec (.visub x) s = .next (s.after c 1 0 (wr fun l => BitVec.ofInt 32 (a l - b l - cin l))))
      ∧ (x.sub = 2 → exec (.viadd x) s = .next (s.after c 1 0 (wr fun l => if a l + b l ≥ 2 ^ 32 then 1 else 0))
        ∧ exec (.visub x) s = .next (s.after c 1 0 (wr fun l => if a l < b l then 1 else 0)))
      ∧ (x.sub = 3 → (∀ l, cin l ≤ 1) →
        exec (.viadd x) s = .next (s.after c 1 0 (wr fun l => if a l + b l + cin l ≥ 2 ^ 32 then 1 else 0))
        ∧ exec (.visub x) s = .next (s.after c 1 0 (wr fun l => if a l < b l + cin l then 1 else 0))))
  ∧ (
    ∀ (s : State) (c : Ctx) (x : VForm), s.ctx? = some c →
      let fmt := x.fmt.toNat
      let rd := fun (o : Opnd) (l : Nat) => readInt fmt ((c.val o l).setWidth 64)
      let rd64 := fun (o : Opnd) (l : Nat) => readInt fmt (c.val64 o l)
      let pos := fun (w : W32) => w.toNat % 256
      let len := fun (w : W32) => min (w.toNat / 256 % 256) (32 - pos w)
      exec (.vbfx x) s = .next (s.after c 1 0 fun g => g.putO (c.on x.g) x.d fun l =>
          let p := pos (c.val x.b l)
          let n := len (c.val x.b l)
          let v := (c.val x.a l).toNat / 2 ^ p % 2 ^ n
          if n = 0 then 0
          else if x.fmt = 0 ∧ v.testBit (n - 1) then BitVec.ofInt 32 ((v : Int) - 2 ^ n) else BitVec.ofNat 32 v)
      ∧ (∃ r : Nat → W32, exec (.vbfi x) s = .next (s.after c 1 0 fun g => g.putO (c.on x.g) x.d r)
          ∧ ∀ l i, i < 32 → (r l).getLsbD i =
              if pos (c.val x.c l) ≤ i ∧ i < pos (c.val x.c l) + len (c.val x.c l)
              then (c.val x.b l).getLsbD (i - pos (c.val x.c l)) else (c.val x.a l).getLsbD i)
      ∧ exec (.viadd64 x) s = .next (s.after c 1 0 fun g => g.putV2 (c.on x.g) x.d.vnum fun l =>
          reduceInt fmt x.sat (if x.sub.toNat = 0 then rd64 x.a l + rd64 x.b l else rd64 x.a l - rd64 x.b l))
      ∧ exec (.vimul64 x) s = .next (s.after c 1 0 fun g => g.putV2 (c.on x.g) x.d.vnum fun l =>
          BitVec.ofInt 64 (rd x.a l * rd x.b l))
      ∧ (x.sub = 0 → exec (.viext x) s = .next (s.after c 1 0 fun g => g.putV2 (c.on x.g) x.d.vnum fun l =>
          BitVec.ofInt 64 (rd x.a l)))
      ∧ (x.sub ≠ 0 → exec (.viext x) s = .next (s.after c 1 0 fun g => g.putO (c.on x.g) x.d fun l =>
          (reduceInt fmt x.sat (readInt (fmt + 2) (c.val64 x.a l))).setWidth 32))
      ∧ ∃ r : Nat → W32, exec (.vpack x) s = .next (s.after c 1 0 fun g => g.putO (c.on x.g) x.d r)
          ∧ ∀ l, let w := fmtW fmt
            let part := fun (o : Opnd) =>
              (reduceInt fmt x.sat (readInt (fmt % 2) ((c.val o l).setWidth 64))).toNat % 2 ^ w
            let two := (part x.a + part x.b * 2 ^ w) % 2 ^ 32
            (x.sub = 0 → (r l).toNat = two)
            ∧ (x.sub = 1 → w = 8 → (r l).toNat % 2 ^ 16 = two ∧ (r l).toNat / 2 ^ 16 = (c.val x.d l).toNat / 2 ^ 16)
            ∧ (x.sub = 2 → w = 8 → (r l).toNat / 2 ^ 16 = two ∧ (r l).toNat % 2 ^ 16 = (c.val x.d l).toNat % 2 ^ 16))

/-! ### Control instructions -/

/-- R30, R63, R64, R73, R74: a branch, call or return sends the lanes that take it to their targets when every target passes
R64, its call link is written after its source is read, the other lanes go on to the next word, and nothing else changes. A
target passes when it is a multiple of 8 below code_size and, if the word there can be read, that word is a clause header
that R20 accepts, its clause within the code (that a header whose clause runs past the code fails the check is the model's
choice, log 30); a target in a scalar register must also have bits 63:32 zero. When a lane that takes a transfer has a
target that fails the checks, the lanes whose targets fail take BAD_BRANCH_TARGET before the instruction issues: TEPC holds
it and no lane has moved. -/
def Obligations.TransfersGoToTheirTargets : Prop :=
  (
    ∀ (s : State) (c : Ctx), s.ctx? = some c →
      (∀ x : JForm,
        let t := c.iss.hdr + 8#32 * x.off
        let m := c.on x.g
        let take := maskOf fun l => inMask m l && (if x.a.isS then c.sval x.a != 0 else c.val x.a l != 0)
        let link := c.iss.hdr + BitVec.ofNat 32 (8 * (c.iss.cnt + 2))
        (m = 0 ∨ c.okTarget s .none t = true →
          exec (.bra x) s = .next (s.after c 1 m fun g => g.modLanes m fun _ y => y.goto t)
          ∧ exec (.call x) s = .next (s.after c 1 m fun g => (g.putO m x.d fun _ => link).modLanes m fun _ y => y.goto t))
        ∧ (take = 0 ∨ c.okTarget s .none t = true →
          exec (.brc x) s = .next (s.after c 1 take fun g => g.modLanes take fun _ y => y.goto t)))
      ∧ ∀ x : VForm,
        let m := c.on x.g
        let link := c.iss.hdr + BitVec.ofNat 32 (8 * (c.iss.cnt + 2))
        (∀ l, inMask m l = true → c.okTarget s x.a (c.val x.a l) = true) →
        exec (.bri x) s = .next (s.after c 1 m fun g => g.modLanes m fun l y => y.goto (c.val x.a l))
        ∧ exec (.ret x) s = .next (s.after c 1 m fun g => g.modLanes m fun l y => y.goto (c.val x.a l))
        ∧ exec (.calli x) s =
            .next (s.after c 1 m fun g => (g.putO m x.d fun _ => link).modLanes m fun l y => y.goto (c.val x.a l)))
  ∧ (
    ∀ (s : State) (c : Ctx) (a : Opnd) (t : W32),
      c.okTarget s a t = true ↔
        (a.isS = true → (c.sval a).extractLsb' 32 32 = 0)
        ∧ t.toNat % 8 = 0 ∧ t.toNat < c.l.lr.codeSize
        ∧ ∀ w, s.peekCode c.b.core c.l t.toNat = some w →
          hdrTag w = 0xFF ∧ hdrCls w < 9 ∧ hdrMask w < 16 ∧ w.extractLsb' 0 16 = 0
          ∧ t.toNat + 8 * (hdrCnt w + 2) ≤ c.l.lr.codeSize)
  ∧ (
    ∀ (s : State) (c : Ctx), s.ctx? = some c →
      (∀ x : JForm, c.on x.g ≠ 0 → c.okTarget s .none (c.iss.hdr + 8#32 * x.off) = false →
        exec (.bra x) s = .next (s.trapsBefore c [(.badBranchTarget, c.on x.g)])
        ∧ exec (.call x) s = .next (s.trapsBefore c [(.badBranchTarget, c.on x.g)]))
      ∧ ∀ x : VForm,
        let bad := maskOf fun l => inMask (c.on x.g) l && !c.okTarget s x.a (c.val x.a l)
        bad ≠ 0 →
        exec (.bri x) s = .next (s.trapsBefore c [(.badBranchTarget, bad)])
        ∧ exec (.ret x) s = .next (s.trapsBefore c [(.badBranchTarget, bad)])
        ∧ exec (.calli x) s = .next (s.trapsBefore c [(.badBranchTarget, bad)]))

/-- R22, R62, R65, R67, R68, R73, R75, R76, R287: NOP only passes; SETMT sets mt in the guard-true lanes, and none needs no
check; GETMT reads mt, or the shadow that trap entry kept; DEMOTE makes helpers; YIELD flags; EXIT ends the guard-true
lanes. Outside every SHIELD window, SLEEP puts the guard-true lanes to sleep for max(imm, 1) cc from its issue; and a BRPK
of unprunable threads outside task groups and handlers, whose target passes R64, makes every lane of the set wait at the
rendezvous, the guard-true ones for the J target and the others for the next clause header. A lane that passes an
instruction stands at the next word of its clause, or at the next clause header, where it arrives and is held if its meeting
value is that header; so does a lane that a transfer sends there. -/
def Obligations.MeetingSleepAndExit : Prop :=
  (
    ∀ (s : State) (c : Ctx), s.ctx? = some c →
      (∀ x : VForm,
        let m := c.on x.g
        exec (.nop x) s = .next (s.after c 1 0 id)
        ∧ exec (.getmt x) s = .next (s.after c 1 0 fun g => g.putO m x.d fun l =>
            if x.sub = 0 then (c.r.lane l).mt else if (c.r.lane l).inTrap then (c.r.lane l).smt else 0xFFFF_FFFF#32)
        ∧ exec (.demote x) s = .next (s.after c 1 0 fun g => g.modLanes m fun _ y => { y with helper := true })
        ∧ exec (.yield x) s = .next (s.after c 1 0 fun g => g.modLanes m fun _ y => { y with yielded := true })
        ∧ exec (.exit x) s = .next (s.after c 1 m fun g => g.modLanes m fun _ y =>
            { y with st := .exited false, wins := [], shield := 0, yielded := false }))
      ∧ ∀ x : JForm,
        let v := fun (l : Nat) => if x.a = .none then c.iss.hdr + 8#32 * x.off else c.val x.a l
        (∀ l, inMask (c.on x.g) l = true → v l = 0xFFFF_FFFF#32 ∨ c.okTarget s x.a (v l) = true) →
        exec (.setmt x) s = .next (s.after c 1 0 fun g => g.modLanes (c.on x.g) fun l y => { y with mt := v l }))
  ∧ (
    ∀ (s : State) (c : Ctx), s.ctx? = some c → c.unshielded →
      (∀ x : KForm, exec (.sleep x) s = .next (s.after c 1 0 fun g => g.modLanes (c.on x.g) fun _ y =>
        { y with st := .sleeping (s.cc + max x.imm.toNat 1) }))
      ∧ ∀ x : JForm,
        let t := c.iss.hdr + 8#32 * x.off
        (c.on x.g = 0 ∨ c.okTarget s .none t = true) → c.g.task = false →
        (∀ l, inMask c.iss.lanes l = true → (c.r.lane l).ben = false ∧ (c.r.lane l).inTrap = false) →
        exec (.brpk x) s = .next (s.after c 1 c.iss.lanes fun g => g.modLanes c.iss.lanes fun l y =>
          { y with st := .brpk (if inMask (c.on x.g) l then t else c.iss.hdr + BitVec.ofNat 32 (8 * (c.iss.cnt + 2))) }))
  ∧ (
    ∀ (y : Lane) (i : Issue) (n : Nat) (t : W32), y.st = .run →
      (let z := y.pass i n
       let pc := i.pc + BitVec.ofNat 32 (8 * n)
       let next := i.hdr + BitVec.ofNat 32 (8 * (i.cnt + 2))
       z.pc = pc
       ∧ (pc ≠ next → z.hdr = some i.hdr ∧ z.st = .run)
       ∧ (pc = next → z.hdr = none ∧ (pc = y.mt → z.st = .held) ∧ (pc ≠ y.mt → z.st = .run))
       ∧ z.mt = y.mt ∧ z.v = y.v ∧ z.helper = y.helper)
      ∧ (let z := y.goto t
         z.pc = t ∧ z.hdr = none ∧ (t = y.mt → z.st = .held) ∧ (t ≠ y.mt → z.st = .run)
         ∧ z.mt = y.mt ∧ z.v = y.v ∧ z.helper = y.helper))

/-! ### Cross-lane and floating-point instructions -/

/-- R97, R99 to R101: VSHFL, VVOTE, VMATCH and VBCST read the participating lanes as they stand and write the guard-true
lanes, or an S register once; an exited lane supplies zero. EVERY holds when all participating lanes vote true, SOME when
one does, NONE when none does, SAME when all agree; MASK is the mask of the true votes and COUNT their number. -/
def Obligations.ShufflesVotesAndBroadcasts : Prop :=
  (
    ∀ (s : State) (c : Ctx) (x : VForm), s.ctx? = some c →
      let m := c.on x.g
      let supply := fun (l : Nat) =>
        if (c.r.lane l).exited || c.inactive l then 0 else (c.r.lane l).vreg x.a.vnum
      let low := fun (l : Nat) => (c.val x.a l).toNat % 2 ^ fmtW x.fmt.toNat
      let t := maskOf fun l => inMask m l && c.val x.a l != 0
      let one := if x.b = .none then (lanesOf m).headD 0 else (c.sval x.b).toNat % 32
      exec (.vshfl x) s = .next (s.after c 1 0 fun g => g.putO m x.d fun l =>
          let n := (c.val x.b l).toNat
          supply (match x.sub.toNat with
            | 0 => n % 32
            | 1 => if n ≤ l then l - n else l
            | 2 => if l + n < 32 then l + n else l
            | _ => (l ^^^ (n % 32)) % 32))
      ∧ exec (.vmatch x) s = .next (s.after c 1 0 fun g => g.putO m x.d fun l =>
          maskOf fun k => inMask m k && low k == low l)
      ∧ (x.d.isS = false → m ≠ 0 →
          exec (.vvote x) s = .next (s.after c 1 0 fun g => g.putO m x.d fun _ => BitVec.ofNat 32 (voteResult x.sub.toNat m t))
          ∧ exec (.vbcst x) s = .next (s.after c 1 0 fun g => g.putO m x.d fun _ => supply one))
      ∧ ∀ r, x.d = .s r → m ≠ 0 →
          exec (.vvote x) s = .next (s.after c 1 0 fun g => g.setS r (BitVec.ofNat 64 (voteResult x.sub.toNat m t)))
          ∧ exec (.vbcst x) s = .next (s.after c 1 0 fun g => g.setS r ((supply one).setWidth 64)))
  ∧ (
    ∀ (m : Mask) (f : Nat → Bool),
      let t := maskOf fun l => inMask m l && f l
      (voteResult 0 m t = 1 ↔ ∀ l, inMask m l = true → f l = true)
      ∧ voteResult 1 m t = t.toNat
      ∧ (voteResult 2 m t = 1 ↔ ∃ l, inMask m l = true ∧ f l = true)
      ∧ (voteResult 3 m t = 1 ↔ ∀ k l, inMask m k = true → inMask m l = true → f k = f l)
      ∧ voteResult 4 m t = ((List.range 32).filter fun l => inMask m l && f l).length
      ∧ (voteResult 5 m t = 1 ↔ ∀ l, inMask m l = true → f l = false))

/-- R98: VRED gives the value of the whole tree, and VPRFX that of each lane's inclusive or exclusive prefix, or the
identity where no lane takes part; the flags of the operations on the way go to FSTAT. On integers, with no clamp, the
reduction of the tree is the reduction of its leaves taken in lane order: for an operation that is associative on the values
it meets, tree order and lane order agree, empty lanes apart. -/
def Obligations.ReductionsAndPrefixes : Prop :=
  (
    ∀ (s : State) (c : Ctx) (x : VForm), s.ctx? = some c → c.on x.g ≠ 0 →
      let m := c.on x.g
      let fmt := x.fmt.toNat
      let red := (treeAt (combine fmt x.sub.toNat x.sat (rndOf x)) (c.leaves x) 5).getD 0 none
      let w := (red.map (·.1)).getD (identity fmt x.sub.toNat)
      let fl := (red.map (·.2)).getD 0
      (x.d.isS = false → exec (.vred x) s = .next (s.after c 1 0 fun g => (g.putO m x.d fun _ => w).flags fl))
      ∧ (∀ r, x.d = .s r → exec (.vred x) s = .next (s.after c 1 0 fun g =>
          (g.setS r (if fmt < 8 ∧ fmtSigned fmt = true then w.signExtend 64 else w.setWidth 64)).flags fl))
      ∧ (let p := fun (l : Nat) => prefixOf (combine fmt (x.sub.toNat % 8) x.sat (rndOf x)) (c.leaves x)
            (if x.sub.toNat ≥ 8 then l else l + 1)
        exec (.vprfx x) s = .next (s.after c 1 0 fun g =>
          (g.putO m x.d fun l => ((p l).map (·.1)).getD (identity fmt (x.sub.toNat % 8))).flags
            (orFlags m fun l => ((p l).map (·.2)).getD 0))))
  ∧ (
    ∀ (op : W32 → W32 → W32) (leaves : List (Option W32)), (∀ x y z, op (op x y) z = op x (op y z)) → leaves.length = 32 →
      let node := fun (o : Option W32) => o.map fun w => (w, (0 : Nat))
      let f := fun (x y : W32) => (op x y, (0 : Nat))
      let join := fun (a b : Option W32) => match a, b with
        | none, y => y
        | x, none => x
        | some x, some y => some (op x y)
      (treeAt f (leaves.map node) 5).getD 0 none = node (leaves.foldl join none)
      ∧ ∀ n, n ≤ 32 → prefixOf f (leaves.map node) n = node ((leaves.take n).foldl join none))

/-- R25, R34, R109 to R117, R119, R121 to R123, R128: the floating-point instructions of fixed latency write the rounded
result of each guard-true lane, and any lane's flags set the group's FSTAT; nothing else changes. VFDIV, VFSQRT and VFAPX
raise their flags at issue, and their results are in flight, their registers pending in the guard-true lanes, until
RESULT_LAND; with no such lane they have no effect. -/
def Obligations.FloatInstructionsWriteAndFlag : Prop :=
  (
    ∀ (s : State) (c : Ctx) (x : VForm), s.ctx? = some c →
      let fmt := x.fmt.toNat
      let f := fmtOf fmt
      let r := rndOf x
      let m := c.on x.g
      let abits := fun (l : Nat) => f.nas x.nas (c.fbits fmt x.a l)
      let bbits := fun (l : Nat) => c.fbits fmt x.b l
      let a := fun (l : Nat) => f.operand r (abits l)
      let b := fun (l : Nat) => f.operand r (bbits l)
      let wr := fun (v : Nat → Nat × Nat) (g : Group) =>
        (g.putF fmt m x.d fun l => (v l).1).flags (orFlags m fun l => (v l).2)
      exec (.vfadd x) s = .next (s.after c 1 0 (wr fun l => f.addV r (a l) (b l)))
      ∧ exec (.vfsub x) s = .next (s.after c 1 0 (wr fun l => f.addV r (a l) (b l).neg))
      ∧ exec (.vfmul x) s = .next (s.after c 1 0 (wr fun l => f.mulV r (a l) (b l)))
      ∧ exec (.vfma x) s = .next (s.after c 1 0 (wr fun l => f.fmaV r (a l) (b l) (f.operand r (c.fbits fmt x.c l))))
      ∧ exec (.vfmnx x) s =
          .next (s.after c 1 0 (wr fun l => f.minmax x.sub.toNat (f.flushBits r.ftz (abits l)) (f.flushBits r.ftz (bbits l))))
      ∧ exec (.vfscl x) s = .next (s.after c 1 0 (wr fun l => f.sclV r (a l) (c.val x.b l).toInt))
      ∧ exec (.vfrnd x) s = .next (s.after c 1 0 (wr fun l => f.rnd r (x.sub.toNat == 1) (abits l)))
      ∧ exec (.vcvtif x) s = .next (s.after c 1 0 (wr fun l => f.ofInt r.mode
          (nasInt x.nas (readInt x.sub.toNat (if fmtW x.sub.toNat = 64 then c.val64 x.a l else (c.val x.a l).setWidth 64)))))
      ∧ exec (.vfcmp x) s = .next (s.after c 1 0 fun g =>
          (g.putO m x.d fun l => if (relF x.sub.toNat (a l) (b l)).1 then 1 else 0).flags
            (orFlags m fun l => (relF x.sub.toNat (a l) (b l)).2))
      ∧ exec (.vcvtfi x) s = .next (s.after c 1 0 fun g =>
          (if fmtW x.sub.toNat = 64 then g.putV2 m x.d.vnum fun l => BitVec.ofInt 64 (toIntF x.sub.toNat r.mode (a l)).1
            else g.putO m x.d fun l => BitVec.ofInt 32 (toIntF x.sub.toNat r.mode (a l)).1).flags
            (orFlags m fun l => (toIntF x.sub.toNat r.mode (a l)).2))
      ∧ (∀ k, x.d = .v k → exec (.vfclass x) s = .next (s.after c 1 0 fun g =>
          g.putV m k fun l => BitVec.ofNat 32 (f.classMask (abits l))))
      ∧ (∀ k, x.d = .p k → exec (.vfclass x) s = .next (s.after c 1 0 fun g =>
          g.putP m k fun l => decide (f.classMask (abits l) &&& (c.val x.b l).toNat ≠ 0)))
      ∧ (let sl := c.slot (fmt % 8)
        let dst := match sl.elem with
          | 1 => 9
          | 2 => 8
          | 3 => 10
          | _ => 11
        let v := fun (l : Nat) => (fmtOf dst).convert ⟨sl.rnd, x.rnd.getLsbD 2, sl.sat⟩
          ((fmtOf x.sub.toNat).operand ⟨sl.rnd, x.rnd.getLsbD 2, sl.sat⟩
            ((fmtOf x.sub.toNat).nas x.nas (c.fbits x.sub.toNat x.a l)))
        (sl.elem = 1 → x.d.vnum % 2 = 0) →
          (1 ≤ sl.elem → sl.elem ≤ 4 → m ≠ 0 → exec (.vcvtf x) s = .next (s.after c 1 0 fun g =>
            (g.putF dst m x.d fun l => (v l).1).flags (orFlags m fun l => (v l).2)))
          ∧ (m = 0 → exec (.vcvtf x) s = .next (s.after c 1 0 id))))
  ∧ (
    ∀ (s : State) (c : Ctx) (x : VForm), s.ctx? = some c →
      let fmt := x.fmt.toNat
      let f := fmtOf fmt
      let r := rndOf x
      let m := c.on x.g
      let abits := fun (l : Nat) => f.nas x.nas (c.fbits fmt x.a l)
      let d := x.d.vnum
      let put := fun (v : Nat → Nat × Nat) => ({ s with nextId := s.nextId + 1 } : State).after c 1 0 fun g =>
        let dests := fun (l : Nat) =>
          if fmt = 9 then
            [(Dest.v d l, BitVec.ofNat 64 ((v l).1 % 2 ^ 32)), (Dest.v (d + 1) l, BitVec.ofNat 64 ((v l).1 / 2 ^ 32))]
          else [(Dest.v d l, BitVec.ofNat 64 (v l).1)]
        let i : Insn := ⟨s.nextId, .none, c.iss.pc, m, if fmt = 9 then [d, d + 1] else [d], [],
          ((lanesOf m).map dests).flatten, true⟩
        { g.flags (orFlags m fun l => (v l).2) with insns := g.insns ++ [i] }.window m s.nextId x.la
      (m ≠ 0 →
        exec (.vfdiv x) s = .next (put fun l => f.divV r (f.operand r (abits l)) (f.operand r (c.fbits fmt x.b l)))
        ∧ exec (.vfsqrt x) s = .next (put fun l => f.sqrtV r (f.operand r (abits l)))
        ∧ exec (.vfapx x) s = .next (put fun l => f.apx r x.sub.toNat (abits l)))
      ∧ (m = 0 → exec (.vfdiv x) s = .next (s.after c 1 0 id) ∧ exec (.vfsqrt x) s = .next (s.after c 1 0 id)
        ∧ exec (.vfapx x) s = .next (s.after c 1 0 id)))

/-- R124, R125, R126: VQNT quantises the tile that the guard-true lanes supply, other lanes counting as +0, and gives each
lane its packed elements and the tile's two scale exponents; VDQNT gives each lane the exact values of its packed elements
and sets no flag. Both read the whole source run before they write. -/
def Obligations.TileQuantisation : Prop :=
  ∀ (s : State) (c : Ctx) (x : VForm) (t : TileLayout), s.ctx? = some c →
    tileLayout (c.slot (x.fmt.toNat % 8)) = some t →
    let m := c.on x.g
    let d := x.d.vnum
    let a := x.a.vnum
    (d + t.nd ≤ 127 → a + t.per ≤ 128 → m ≠ 0 →
      let els := ((List.range 32).map fun l => (List.range t.per).map fun e =>
        if inMask m l then f32.decode ((c.r.lane l).vreg (a + e)).toNat else FVal.fin false 0 0).flatten
      let q := t.k.quantise els
      exec (.vqnt x) s = .next (s.after c 1 0 fun g => (g.modLanes m fun l y =>
        ((List.range t.nd).foldl (fun y j => y.setV (d + j) (t.pack ((q.2.2.1.drop (l * t.per)).take t.per) j)) y).setV
          (d + t.nd) (BitVec.ofNat 32 (q.1 * 256 + q.2.1))).flags q.2.2.2))
    ∧ (d + t.nd ≤ 127 → a + t.per ≤ 128 → m = 0 → exec (.vqnt x) s = .next (s.after c 1 0 id))
    ∧ (a + t.nd ≤ 127 → d + t.per ≤ 128 →
      exec (.vdqnt x) s = .next (s.after c 1 0 fun g => g.modLanes m fun l y =>
        let ex := ((c.r.lane l).vreg (a + t.nd)).toNat
        (List.range t.per).foldl (fun y e =>
          y.setV (d + e) (BitVec.ofNat 32 (kbfToF32 (t.k.decode (ex % 256) (ex / 256 % 256) (c.packed t a l e))))) y))

/-- R105, R108, R110: rounding m / 2^k under RNE gives an integer at most half a unit away, the even one on a tie; RTZ, RUP
and RDN give the neighbour toward zero, upward and downward; the result is exact when 2^k divides m. A NaN operand of an
addition, product, division, square root or conversion gives the canonical NaN of the format, with sign 0, the quiet bit set
and the rest of the fraction 0; NV is set exactly when an operand is a signalling NaN. -/
def Obligations.FloatResultsRoundAndNansAreCanonical : Prop :=
  (
    ∀ (neg : Bool) (m k : Nat),
      let near := roundShift 0 neg m k
      let exact := m % 2 ^ k = 0
      (2 * near.1 * 2 ^ k ≤ 2 * m + 2 ^ k ∧ 2 * m ≤ 2 * near.1 * 2 ^ k + 2 ^ k)
      ∧ (2 * near.1 * 2 ^ k = 2 * m + 2 ^ k ∨ 2 * m = 2 * near.1 * 2 ^ k + 2 ^ k → near.1 % 2 = 0)
      ∧ (roundShift 1 neg m k).1 = m / 2 ^ k
      ∧ (roundShift 2 neg m k).1 = (if exact ∨ neg = true then m / 2 ^ k else m / 2 ^ k + 1)
      ∧ (roundShift 3 neg m k).1 = (if exact ∨ neg = false then m / 2 ^ k else m / 2 ^ k + 1)
      ∧ ∀ mode, (roundShift mode neg m k).2 = true ↔ ¬ exact)
  ∧ (
    ∀ (f : FloatFmt) (r : Rnd) (x y : FVal), (x.isNan || y.isNan) = true →
      let res := (f.nan, if x.isSnan || y.isSnan then flagNV else 0)
      f.addV r x y = res ∧ f.mulV r x y = res ∧ f.divV r x y = res
      ∧ (∀ sig, f.sqrtV r (.nan sig) = (f.nan, if sig then flagNV else 0)
        ∧ f.convert r (.nan sig) = (f.nan, if sig then flagNV else 0))
      ∧ (f = f32 → f.nan = 0x7FC0_0000) ∧ (f = f16 → f.nan = 0x7E00) ∧ (f = bf16 → f.nan = 0x7FC0)
      ∧ (f = f64 → f.nan = 0x7FF8_0000_0000_0000))

/-! ### Memory instructions, atomics, barriers and fences -/

/-- R21, R34, R67, R130, R132, R138, R139: the per-lane loads, when every guard-true lane's address is aligned and in range
and LC is below 255, post one request for each such lane at its effective address; the destination run is pending in those
lanes, LC rises by 1, and nothing else changes. Guarded off everywhere they only pass. The per-lane stores, when every
guard-true lane's address is aligned and in range and SC is below 255, post one request for each guard-true lane that is no
helper, with the bytes that its data run holds at issue; SC rises by 1, and nothing else changes. With no such lane they
only pass. The bytes a per-lane store takes are the low bytes of its register for a size of 1, 2 or 4, and those of the
registers d, d + 1, … in rising order for 8 and 16, each register little-endian. -/
def Obligations.LaneAccessesPostOneRequestALane : Prop :=
  (
    ∀ (s : State) (c : Ctx) (x : MForm), s.ctx? = some c →
      let m := c.on x.g
      let size := 2 ^ x.size.toNat
      let local_ := fun (extent : Nat) => ∀ l, inMask m l = true →
        c.eaLocal x.a x.o size l % size = 0 ∧ 0 ≤ c.eaLocal x.a x.o size l ∧ c.eaLocal x.a x.o size l + size ≤ extent
      let post := fun (space : Space) (ea : Nat → Nat) => s.posted c x.la (c.insn .lc m (run x.d.vnum (runLen size)) [])
        ((lanesOf m).map fun l =>
          { c.req x .load space with
            threads := maskOf (· == l), takers := maskOf (· == l), helper := (c.r.lane l).helper, addr := ea l,
            parts := [⟨l, [], [], []⟩], dst := some x.d.vnum })
      (m ≠ 0 → c.g.lc < 255 →
        ((∀ l, inMask m l = true → c.eaGlobal x.a x.o size l % size = 0 ∧ c.eaGlobal x.a x.o size l < 2 ^ 52) →
          exec (.ld x) s = .next (post .global (c.eaGlobal x.a x.o size)))
        ∧ (x.space = 2 → local_ c.l.lr.mirror →
          exec (.lds x) s = .next (post .mirror fun l => (c.eaLocal x.a x.o size l).toNat))
        ∧ (x.space ≠ 2 → local_ c.l.lr.scratch →
          exec (.lds x) s = .next (post .scratch fun l => (c.eaLocal x.a x.o size l).toNat))
        ∧ (local_ (if 2 ≤ c.l.lr.gangMax then 0x1_0000 else 0) →
          exec (.lda x) s = .next (post .abuf fun l => (c.eaLocal x.a x.o size l).toNat)))
      ∧ (m = 0 → exec (.ld x) s = .next (s.after c 1 0 id) ∧ exec (.lds x) s = .next (s.after c 1 0 id)
        ∧ exec (.lda x) s = .next (s.after c 1 0 id)))
  ∧ (
    ∀ (s : State) (c : Ctx) (x : MForm), s.ctx? = some c →
      let m := c.on x.g
      let r := c.real x.g
      let size := 2 ^ x.size.toNat
      let global_ := ∀ l, inMask m l = true → c.eaGlobal x.a x.o size l % size = 0 ∧ c.eaGlobal x.a x.o size l < 2 ^ 52
      let local_ := fun (extent : Nat) => ∀ l, inMask m l = true →
        c.eaLocal x.a x.o size l % size = 0 ∧ 0 ≤ c.eaLocal x.a x.o size l ∧ c.eaLocal x.a x.o size l + size ≤ extent
      let aExtent := if 2 ≤ c.l.lr.gangMax then 0x1_0000 else 0
      let post := fun (space : Space) (ea : Nat → Nat) => s.posted c x.la (c.insn .sc r [] [])
        ((lanesOf r).map fun l =>
          { c.req x .store space with
            threads := maskOf (· == l), takers := maskOf (· == l), addr := ea l,
            parts := [⟨l, c.storeData x.d.vnum size l, [], []⟩] })
      (r ≠ 0 → c.g.sc < 255 →
        (global_ → exec (.st x) s = .next (post .global (c.eaGlobal x.a x.o size)))
        ∧ (x.space = 2 → local_ c.l.lr.mirror →
          exec (.sts x) s = .next (post .mirror fun l => (c.eaLocal x.a x.o size l).toNat))
        ∧ (x.space ≠ 2 → local_ c.l.lr.scratch →
          exec (.sts x) s = .next (post .scratch fun l => (c.eaLocal x.a x.o size l).toNat))
        ∧ (local_ aExtent → exec (.sta x) s = .next (post .abuf fun l => (c.eaLocal x.a x.o size l).toNat)))
      ∧ (r = 0 →
        (global_ → exec (.st x) s = .next (s.after c 1 0 id))
        ∧ (x.space ≠ 2 → local_ c.l.lr.scratch → exec (.sts x) s = .next (s.after c 1 0 id))
        ∧ (local_ aExtent → exec (.sta x) s = .next (s.after c 1 0 id))))
  ∧ (
    ∀ (c : Ctx) (d l : Nat),
      let v := fun (k i : Nat) => ((c.r.lane l).vreg (d + k)).extractLsb' (8 * i) 8
      c.storeData d 1 l = [v 0 0] ∧ c.storeData d 2 l = [v 0 0, v 0 1]
      ∧ c.storeData d 4 l = [v 0 0, v 0 1, v 0 2, v 0 3]
      ∧ c.storeData d 8 l = [v 0 0, v 0 1, v 0 2, v 0 3, v 1 0, v 1 1, v 1 2, v 1 3]
      ∧ c.storeData d 16 l = [v 0 0, v 0 1, v 0 2, v 0 3, v 1 0, v 1 1, v 1 2, v 1 3,
          v 2 0, v 2 1, v 2 2, v 2 3, v 3 0, v 3 1, v 3 2, v 3 3])

/-- R25, R138 to R141: the uniform accesses LDU, LDK, STU and STK post one request, an access of every thread of the set,
when its address is aligned and in range and the counter is below 255; a load's scalar destination is pending, a store takes
the low bytes of its scalar source, the counter rises by 1, and nothing else changes. Guarded off everywhere, they only
pass. That STU and STK are an access of every thread of the set too is the model's reading (log 25). LDDS posts one request
for each guard-true lane that is no helper, with its scratchpad destination (bits 31:0 of a scalar register: the model's
reading, log 14) and its barrier object, and raises no counter; PREF posts one request a lane and raises no counter; CCTL
posts one request for each such lane and raises SC. Nothing else changes. With no such lane they only pass. -/
def Obligations.UniformAndOtherAccessesPostRequests : Prop :=
  (
    ∀ (s : State) (c : Ctx) (x : MForm), s.ctx? = some c →
      let m := c.on x.g
      let r := c.real x.g
      let size := 2 ^ x.size.toNat
      let load := fun (space : Space) (ea : Nat) => s.posted c x.la (c.insn .lc m [] [x.d.snum])
        [{ c.req x .load space with
           threads := c.iss.lanes, takers := m, helper := r == 0, addr := ea,
           parts := [⟨(lanesOf m).headD 0, [], [], []⟩], sdst := some x.d.snum }]
      let store := fun (space : Space) (ea : Nat) => s.posted c x.la (c.insn .sc r [] [])
        [{ c.req x .store space with
           threads := c.iss.lanes, takers := r, addr := ea,
           parts := [⟨(lanesOf m).headD 0, leBytes size (c.sval x.d).toNat, [], []⟩] }]
      let g := c.eaGlobal x.a x.o size 0
      let o := c.eaLocal x.a x.o size 0
      let k := c.off x.o size 0
      let p := (((c.l.lr.parBase : Int) + k) % 2 ^ 64).toNat
      let uniform := x.a.isV = false ∧ (∀ b q, x.o = .reg b q → b.isV = false)
      (m = 0 → exec (.ldu x) s = .next (s.after c 1 0 id) ∧ exec (.stu x) s = .next (s.after c 1 0 id)
        ∧ exec (.ldk x) s = .next (s.after c 1 0 id) ∧ exec (.stk x) s = .next (s.after c 1 0 id))
      ∧ (uniform → m ≠ 0 →
        (x.space = 0 → g % size = 0 → g < 2 ^ 52 →
          (c.g.lc < 255 → exec (.ldu x) s = .next (load .global g))
          ∧ (r ≠ 0 → c.g.sc < 255 → exec (.stu x) s = .next (store .global g)))
        ∧ (x.space ≠ 0 → o % size = 0 → 0 ≤ o → o + size ≤ c.l.lr.scratch →
          (c.g.lc < 255 → exec (.ldu x) s = .next (load .scratch o.toNat))
          ∧ (r ≠ 0 → c.g.sc < 255 → exec (.stu x) s = .next (store .scratch o.toNat)))
        ∧ (0 ≤ k → k + size ≤ c.l.lr.parSize → p % size = 0 → p < 2 ^ 52 →
          (c.g.lc < 255 → exec (.ldk x) s = .next (load .global p))
          ∧ (r ≠ 0 → c.g.sc < 255 → exec (.stk x) s = .next (store .global p)))))
  ∧ (
    ∀ (s : State) (c : Ctx) (x : MForm), s.ctx? = some c →
      let m := c.on x.g
      let r := c.real x.g
      let size := 2 ^ x.size.toNat
      let ea := c.eaGlobal x.a x.o size
      let bar : Nat := (c.sval x.o.c).toNat % 2 ^ 32
      let dest := fun (l : Nat) =>
        if x.d.isS then (((c.sval x.d).toNat % 2 ^ 32 + size * l : Nat) : Int) else ((c.val x.d l).toNat : Int)
      (∀ l, inMask m l = true → ea l % size = 0 ∧ ea l < 2 ^ 52) →
        (m = 0 → exec (.pref x) s = .next (s.after c 1 0 id))
        ∧ (r = 0 → exec (.cctl x) s = .next (s.after c 1 0 id))
        ∧ ((∀ l, inMask m l = true → dest l % size = 0 ∧ dest l + size ≤ c.l.lr.scratch) → bar % 16 = 0 →
            bar + 16 ≤ c.l.lr.scratch → (r = 0 → exec (.ldds x) s = .next (s.after c 1 0 id)) ∧ (r ≠ 0 →
          exec (.ldds x) s = .next (s.posted c 0 (c.insn .none r [] []) ((lanesOf r).map fun l =>
            { c.req x .ldds .global with
              threads := maskOf (· == l), takers := maskOf (· == l), addr := ea l,
              parts := [⟨l, [], [], []⟩], bdst := (dest l).toNat, bar := bar }))))
        ∧ (m ≠ 0 → exec (.pref x) s = .next (s.posted c 0 (c.insn .none m [] []) ((lanesOf m).map fun l =>
            { c.req x .pref .global with
              threads := maskOf (· == l), takers := maskOf (· == l), addr := ea l, parts := [⟨l, [], [], []⟩] })))
        ∧ (r ≠ 0 → c.g.sc < 255 →
          exec (.cctl x) s = .next (s.posted c 0 (c.insn .sc r [] []) ((lanesOf r).map fun l =>
            { c.req x .cctl .global with
              threads := maskOf (· == l), takers := maskOf (· == l), addr := ea l, parts := [⟨l, [], [], []⟩] }))))

/-- R130, R132, R138, R306: an effective address is base plus offset modulo 2^64 in global memory, and an integer in a local
space; the offset of the immediate form is the signed 16-bit field times the size. If some guard-true lane of a load or
store to global memory is misaligned, no lane has an effect, and the lanes that are misaligned take MISALIGNED, which ranks
before ADDRESS_NONCANONICAL, with TEPC at the instruction. -/
def Obligations.AddressesAreComputedAndChecked : Prop :=
  (
    ∀ (c : Ctx) (size l : Nat) (a : Fin 64) (b r : Fin 128) (w : W16) (q : Opnd),
      let sa : Int := (c.r.sreg a).toNat
      let vb : W32 := (c.r.lane l).vreg b
      let pair : Int := ((c.r.lane l).vreg r).toNat + ((c.r.lane l).vreg (r + 1)).toNat * 2 ^ 32
      (c.eaGlobal (.s a) (.imm w) size l : Int) = (sa + w.toInt * size) % 2 ^ 64
      ∧ (c.eaGlobal (.s a) (.reg (.v b) q) size l : Int) = (sa + vb.toInt) % 2 ^ 64
      ∧ (c.eaGlobal (.v r) (.reg (.s a) q) size l : Int) = (pair + (c.r.sreg a).toInt) % 2 ^ 64
      ∧ (c.eaGlobal (.v r) (.reg .none q) size l : Int) = pair
      ∧ (c.eaGlobal .none (.imm w) size l : Int) = (w.toInt * size) % 2 ^ 64
      ∧ c.eaLocal (.s a) (.imm w) size l = sa % 2 ^ 32 + w.toInt * size
      ∧ c.eaLocal (.v b) (.reg (.s a) q) size l = vb.toNat + (c.r.sreg a).toInt
      ∧ c.eaLocal .none (.reg .none q) size l = 0)
  ∧ (
    ∀ (s : State) (c : Ctx) (x : MForm), s.ctx? = some c →
      let size := 2 ^ x.size.toNat
      let ea := c.eaGlobal x.a x.o size
      let bad := maskOf fun l => inMask (c.on x.g) l && ea l % size != 0
      let far := maskOf fun l => inMask (c.on x.g) l && decide (ea l ≥ 2 ^ 52)
      bad ≠ 0 →
        exec (.ld x) s = .next (s.trapsBefore c [(.misaligned, bad), (.addressNoncanonical, far)])
        ∧ exec (.st x) s = .next (s.trapsBefore c [(.misaligned, bad), (.addressNoncanonical, far)])
        ∧ pickCause [(.misaligned, bad), (.addressNoncanonical, far)] = some (.misaligned, bad))

/-- R25, R67, R138, R155, R157, R158: ATOM, CAS and RED post one request for each distinct address that a participating lane
names, carrying those lanes' operands in ascending lane order; a fetching form's destination is pending and LC rises by 1,
RED raises SC by 1, and helpers receive zero. Nothing else changes. ATOMS, CASS and REDS post one request with a single
lane, an access of every thread of the set; a fetching form's scalar destination is pending and LC rises by 1, REDS raises
SC by 1. Nothing else changes. -/
def Obligations.AtomicsPostOneRequestAnAddress : Prop :=
  (
    ∀ (s : State) (c : Ctx) (x : MForm), s.ctx? = some c →
      let on := c.on x.g
      let m := c.real x.g
      let size := 2 ^ x.size.toNat
      let n := runLen size
      let ea := fun (l : Nat) => if x.space = 0 then c.eaGlobal x.a x.o size l else (c.eaLocal x.a x.o size l).toNat
      let okEa := ∀ l, inMask on l = true → if x.space = 0 then ea l % size = 0 ∧ ea l < 2 ^ 52
        else c.eaLocal x.a x.o size l % size = 0 ∧ 0 ≤ c.eaLocal x.a x.o size l
          ∧ c.eaLocal x.a x.o size l + size ≤ c.l.lr.scratch
      let okOwner := x.o.c = .none ∨ (c.sval x.o.c).toNat % 2 ^ 32 < 144
      let reqs := fun (cas fetch : Bool) =>
        (distinct ((lanesOf m).map ea)).map fun a =>
          let ls := (lanesOf m).filter fun l => ea l == a
          { c.req x (.atomic x.hint.toNat cas fetch) (if x.space = 0 then .global else .scratch) with
            threads := maskOf fun l => ls.contains l, takers := maskOf fun l => ls.contains l,
            addr := a, owner := c.owner x.o.c,
            parts := ls.map fun l => if cas then ⟨l, c.storeData (x.d.vnum + n) size l, c.storeData x.d.vnum size l, []⟩
              else ⟨l, c.storeData x.d.vnum size l, [], []⟩,
            dst := if fetch then some x.d.vnum else none }
      let zeros := ((lanesOf (maskOf fun l => inMask on l && !inMask m l)).map fun l =>
        (run x.d.vnum n).map fun r => (Dest.v r l, (0 : W64))).flatten
      okEa → okOwner → m ≠ 0 →
        (c.g.lc < 255 →
          exec (.atom x) s = .next (s.posted c x.la { c.insn .lc on (run x.d.vnum n) [] with writes := zeros } (reqs false true))
          ∧ exec (.cas x) s =
              .next (s.posted c x.la { c.insn .lc on (run x.d.vnum n) [] with writes := zeros } (reqs true true)))
        ∧ (c.g.sc < 255 → exec (.red x) s = .next (s.posted c x.la (c.insn .sc on [] []) (reqs false false))))
  ∧ (
    ∀ (s : State) (c : Ctx) (x : MForm), s.ctx? = some c →
      let m := c.real x.g
      let size := 2 ^ x.size.toNat
      let g := c.eaGlobal x.a x.o size 0
      let o := c.eaLocal x.a x.o size 0
      let d := x.d.snum
      let uniform := x.a.isV = false ∧ (∀ b q, x.o = .reg b q → b.isV = false)
      let okEa := if x.space = 0 then g % size = 0 ∧ g < 2 ^ 52 else o % size = 0 ∧ 0 ≤ o ∧ o + size ≤ c.l.lr.scratch
      let okOwner := x.o.c = .none ∨ (c.sval x.o.c).toNat % 2 ^ 32 < 144
      let req := fun (cas fetch : Bool) =>
        let bytes := fun (r : Nat) => leBytes size (c.r.sreg r).toNat
        let part : Part := if cas then ⟨(lanesOf m).headD 0, bytes (d + 1), bytes d, []⟩ else ⟨(lanesOf m).headD 0, bytes d, [], []⟩
        [{ c.req x (.atomic x.hint.toNat cas fetch) (if x.space = 0 then .global else .scratch) with
           threads := c.iss.lanes, takers := m,
           addr := if x.space = 0 then g else o.toNat, owner := c.owner x.o.c, parts := [part],
           sdst := if fetch then some d else none }]
      uniform → okEa → okOwner → m ≠ 0 →
        (c.g.lc < 255 →
          exec (.atoms x) s = .next (s.posted c x.la (c.insn .lc m [] [d]) (req false true))
          ∧ exec (.cass x) s = .next (s.posted c x.la (c.insn .lc m [] [d]) (req true true)))
        ∧ (c.g.sc < 255 → exec (.reds x) s = .next (s.posted c x.la (c.insn .sc m [] []) (req false false))))

/-- R156: the new value of each integer atomic on w-bit values x and y, which raises no flag; MINI and MAXI compare as two's
complement. -/
def Obligations.AtomicOperations : Prop :=
  ∀ (w : Nat) (x y : BitVec w), w = 32 ∨ w = 64 →
    let op := fun (n : Nat) => atomicOp n w x.toNat y.toNat
    op 0 = ((x + y).toNat, 0) ∧ op 1 = ((x - y).toNat, 0)
    ∧ op 2 = ((x &&& y).toNat, 0) ∧ op 3 = ((x ||| y).toNat, 0) ∧ op 4 = ((x ^^^ y).toNat, 0)
    ∧ op 5 = ((if x.toInt ≤ y.toInt then x else y).toNat, 0) ∧ op 6 = ((if x.toInt ≤ y.toInt then y else x).toNat, 0)
    ∧ op 7 = (min x.toNat y.toNat, 0) ∧ op 8 = (max x.toNat y.toNat, 0) ∧ op 9 = (y.toNat, 0)

/-- R21, R103, R142, R172, R177: FENCEG, WAITC and FENCE issue, with no effect but to pass, when what they wait for holds:
the participants' earlier accesses are performed at the scope, the thresholds of the imm are met, and for a remote-scope
fence nothing accepted at the owner core is unperformed; so FENCEG and FENCE always issue when nothing that the group has
begun is outstanding. While it does not hold, the set stays before the instruction and only leaves the issue list. A
remote-scope fence first waits for its threads' loads and atomics, then leaves a mark of what its owner core has accepted, and
issues when its own condition holds and all of that is performed (when it sends its mark is the model's reading, log 25). -/
def Obligations.FencesAndWaitcPassWhenTheirConditionHolds : Prop :=
  ∀ (s : State) (c : Ctx), s.ctx? = some c →
    (∀ x : VForm,
      let ok := c.on x.g = 0 ∨ s.quiet c.iss.blk c.iss.grp (c.on x.g) 1 = true
      (ok → exec (.fenceg x) s = .next (s.after c 1 0 id))
      ∧ (¬ ok → exec (.fenceg x) s = .next (s.waits c id)))
    ∧ (∀ x : KForm,
      let n := x.imm.toNat
      let ok := (n.testBit 24 = true → c.g.lc ≤ n % 2 ^ 8) ∧ (n.testBit 25 = true → c.g.sc ≤ n / 2 ^ 8 % 2 ^ 8)
        ∧ (n.testBit 26 = true → c.g.mc ≤ n / 2 ^ 16 % 2 ^ 8) ∧ (n.testBit 27 = true → c.g.ec = 0)
      (n.testBit 27 = true → c.unshielded) →
        (c.on x.g = 0 ∨ ok → exec (.waitc x) s = .next (s.after c 1 0 id))
        ∧ (c.on x.g ≠ 0 → ¬ ok → exec (.waitc x) s = .next (s.waits c id)))
    ∧ (c.idle s → (∀ x : VForm, exec (.fenceg x) s = .next (s.after c 1 0 id))
      ∧ ∀ x : MForm, x.o.c = .none ∨ ((c.sval x.o.c).toNat % 2 ^ 32 < 144 ∧ s.reqs = []) →
        exec (.fence x) s = .next (s.after c 1 0 id))
    ∧ ∀ x : MForm,
      let m := c.on x.g
      let ok := if x.order = 1 then s.loadsQuiet c.iss.blk c.iss.grp m = true
        else s.quiet c.iss.blk c.iss.grp m x.scope.toNat = true
      (m = 0 → exec (.fence x) s = .next (s.after c 1 0 id))
      ∧ (m ≠ 0 → x.o.c = .none → ok → exec (.fence x) s = .next (s.after c 1 0 id))
      ∧ (m ≠ 0 → x.o.c = .none → ¬ ok → exec (.fence x) s = .next (s.waits c id))
      ∧ (let own := (c.sval x.o.c).toNat % 2 ^ 32
        m ≠ 0 → x.o.c ≠ .none → own < 144 →
        (s.fenceMark c = none →
          (s.loadsQuiet c.iss.blk c.iss.grp m = false → exec (.fence x) s = .next (s.waits c id))
          ∧ (s.loadsQuiet c.iss.blk c.iss.grp m = true → ok ∧ s.acceptedAt own = [] → exec (.fence x) s = .next (s.after c 1 0 id))
          ∧ (s.loadsQuiet c.iss.blk c.iss.grp m = true → ¬ (ok ∧ s.acceptedAt own = []) →
            exec (.fence x) s = .next (({ s with
              nextId := s.nextId + 1
              reqs := s.reqs ++ [{ c.req x .fence .global with
                id := s.nextId, threads := c.iss.lanes, takers := m, size := 0, order := 0, owner := some own
                acks := s.acceptedAt own }] } : State).waits c id)))
        ∧ ∀ r, s.fenceMark c = some r →
          (ok ∧ s.allPerformed r.acks = true → exec (.fence x) s = .next (({ s with
            reqs := s.reqs.filter fun q => !(decide (q.kind = .fence) && q.ofThreads c.iss.blk c.iss.grp c.iss.lanes) } :
              State).after c 1 0 id))
          ∧ (¬ (ok ∧ s.allPerformed r.acks = true) → exec (.fence x) s = .next (s.waits c id)))

/-- R25, R163 to R168: with its object's offset valid, no access of its own threads to the object outstanding and at least
one guard-true lane that is no helper, BARINIT sets an object up, BARARR adds the lanes of the set to its arrivals, BAREXP
sets its byte quota; each is followed by the completion check, and nothing changes but those 16 bytes of the scratchpad and
the note in the block's waiting BARWAITs that their phase has passed. The completion check ends a phase of a valid object
whose count is 1 to 512 when all have arrived and at least the quota has landed: the phase number rises by 1 modulo 2^32,
the arrivals return to 0 and the quota is taken from the bytes landed; in every other case the object is unchanged. On a
valid object BARTST writes its count field, arrivals and phase without waiting; BARWAIT, with no prunable guard-true lane
and outside SHIELD windows, passes when (phase − d) modulo 2^32 lies in 1 to 2^31, and otherwise every lane of the set waits
in it for that phase. -/
def Obligations.BarriersAct : Prop :=
  (
    ∀ (s : State) (c : Ctx) (x : MForm), s.ctx? = some c →
      let off := c.eaLocal x.a x.o 16 0
      let o := barRead c.b.scratch off.toNat
      let d := (c.sval x.d).toNat
      let n := ((List.range 32).filter fun l => inMask (c.real x.g) l).length
      let put := fun (q : BarObj) => (s.after c 1 0 id).modBlock c.iss.blk fun b =>
        b.setScratch (barWrite b.scratch off.toNat q)
      off % 16 = 0 → 0 ≤ off → off + 16 ≤ c.l.lr.scratch → s.barFree c off.toNat = true ∨ c.idle s → c.real x.g ≠ 0 →
        (1 ≤ d % 2 ^ 16 → d % 2 ^ 16 ≤ 512 → ¬ (o.valid = true ∧ (o.arrived ≠ 0 ∨ o.landed ≠ 0)) →
          exec (.barinit x) s = .next (put ⟨d / 2 ^ 32, 2 ^ 15 + d % 2 ^ 16, 0, 0, 0⟩))
        ∧ (o.valid = true → d % 2 ^ 16 = o.n → o.arrived + n ≤ o.n →
            s.quiet c.iss.blk c.iss.grp (c.real x.g) 2 = true ∨ c.idle s →
          exec (.bararr x) s = .next (put (BarObj.check { o with arrived := o.arrived + n })))
        ∧ (o.valid = true → d % 2 ^ 32 < 2 ^ 31 →
          exec (.barexp x) s = .next (put (BarObj.check { o with quota := d % 2 ^ 32 }))))
  ∧ (
    ∀ o : BarObj,
      (o.count.testBit 15 = true → 1 ≤ o.count % 1024 → o.count % 1024 ≤ 512 → o.arrived = o.count % 1024 →
          o.quota ≤ o.landed →
        o.check = { o with phase := (o.phase + 1) % 2 ^ 32, arrived := 0, landed := o.landed - o.quota })
      ∧ (o.count.testBit 15 = false ∨ o.count % 1024 = 0 ∨ 512 < o.count % 1024 ∨ o.arrived ≠ o.count % 1024
          ∨ o.landed < o.quota → o.check = o))
  ∧ (
    ∀ (s : State) (c : Ctx) (x : MForm), s.ctx? = some c →
      let off := c.eaLocal x.a x.o 16 0
      let o := barRead c.b.scratch off.toNat
      let d := (c.sval x.d).setWidth 32
      let k := (o.phase + 2 ^ 32 - d.toNat) % 2 ^ 32
      off % 16 = 0 → 0 ≤ off → off + 16 ≤ c.l.lr.scratch → s.barFree c off.toNat = true ∨ c.idle s → c.on x.g ≠ 0 →
          o.valid = true →
        exec (.bartst x) s = .next (s.after c 1 0 fun g =>
            g.putS x.d (BitVec.ofNat 64 (o.count * 2 ^ 48 + o.arrived * 2 ^ 32 + o.phase)))
        ∧ (c.unshielded → (∀ l, inMask (c.on x.g) l = true → (c.r.lane l).ben = false) →
          (1 ≤ k ∧ k ≤ 2 ^ 31 → exec (.barwait x) s = .next (s.after c 1 0 id))
          ∧ (¬ (1 ≤ k ∧ k ≤ 2 ^ 31) → exec (.barwait x) s = .next (s.after c 1 c.iss.lanes fun g =>
              g.modLanes c.iss.lanes fun _ y => { y with st := .barwait off.toNat d false }))))

/-! ### Matrix instructions -/

/-- R189, R198: GANGSET with a none or zero sets gang to 0; with a mask of two to gang_max groups of the block, its own
among them, it sets gang to that mask; nothing else changes. THSET, with a legal handle that no TST or probe still uses,
sets the named handle to the value its shape fields and registers give; THGET reads one of its dwords; nothing else changes.
-/
def Obligations.GangsAndHandlesAreSet : Prop :=
  (
    ∀ (s : State) (c : Ctx) (x : VForm), s.ctx? = some c → c.on x.g ≠ 0 →
      let v := if x.a = .none then 0 else (c.sval x.a).toNat
      let n := ((List.range 16).filter fun i => v.testBit i).length
      (v = 0 ∨ (v < 2 ^ 16 ∧ 2 ≤ n ∧ n ≤ c.l.lr.gangMax ∧ v.testBit c.iss.grp = true ∧ v < 2 ^ c.l.lr.groups)) →
        exec (.gangset x) s = .next (s.after c 1 0 fun g => { g with gang := BitVec.ofNat 16 v }))
  ∧ (
    ∀ (s : State) (c : Ctx), s.ctx? = some c →
      (∀ (x : TForm) (i : Fin 16), x.d = .th i → c.real x.g ≠ 0 → s.handleBusy c.iss.blk i = false →
        let sh := c.shapes x
        let h : Handle := tab 8 fun k =>
          if k < 4 then BitVec.ofNat 64 (sh.getD (4 * k) 0 + sh.getD (4 * k + 1) 0 * 2 ^ 16 + sh.getD (4 * k + 2) 0 * 2 ^ 32
            + sh.getD (4 * k + 3) 0 * 2 ^ 48)
          else c.r.sreg (x.a.snum + (k - 4))
        h.ok (c.l.lr.slot h.slot) = true →
          exec (.thset x) s = .next ((s.after c 5 0 id).modBlock c.iss.blk fun b => { b with th := b.th.setIfInBounds i h }))
      ∧ ∀ (x : VForm) (i : Fin 16), x.a = .th i → c.on x.g ≠ 0 → s.handleBusy c.iss.blk i = false →
        exec (.thget x) s = .next (s.after c 1 0 fun g =>
          g.putS x.d (BitVec.ofNat 64 (((c.b.th[i.val]?.getD (Vector.replicate 8 0))[x.sub.toNat]?.getD 0).toNat))))

/-- R183, R190, R193 to R195: an MMA or MMAS outside SHIELD windows, of a group with gang = 0, whose checks raise nothing and
which the engine can take, is issued with the rows of its guard-true lanes, after which its lanes pass its five words; one of
a group with a gang puts its whole lane set at the rendezvous latch, or, behind a lane set of its group that waits there,
waits for the next rendezvous. Its A run may not pass v127. -/
def Obligations.MmaIssuesOrWaitsForItsGang : Prop :=
  ∀ (s : State) (c : Ctx) (x : TForm), s.ctx? = some c → c.unshielded →
    let m := c.on x.g
    let sh := c.shapes x
    let fa := c.l.lr.slot x.slot.toNat
    let fb := mmaSlotB c.b c.l.lr x
    let clean := fun (shadow : Bool) =>
      ∀ q ∈ mmaCauses c.b c.l.lr shadow fa fb (mmaHandle c.b x) sh 1 ++ c.g.aCauses x.a.vnum x.slot.toNat (sh.getD 1 0),
        q.1 = false
    let issued := fun (shadow : Bool) =>
      ((s.begin_ c).mmaIssue c.b c.l.lr shadow x sh [⟨c.iss.grp, c.iss.lanes, m, c.iss.pc, x⟩]).finish c 5 0
    aPast x.a.vnum fa (sh.getD 1 0) = false →
    (c.g.gang = 0 → m ≠ 0 → (∀ o ∈ s.mtxq, o.blk = c.iss.blk → o.started = true) →
        (s.mtxq.filter fun o => o.core == c.b.core).length < 16 →
        (∀ r ∈ s.reqs, r.blk = c.iss.blk → r.grp = c.iss.grp → r.space = .abuf → r.phase = .done) → c.g.mc < 255 →
      (clean false → exec (.mma x) s = .next (issued false)) ∧ (clean true → exec (.mmas x) s = .next (issued true)))
    ∧ (c.g.gang = 0 → m = 0 → exec (.mma x) s = .next (s.after c 5 0 id) ∧ exec (.mmas x) s = .next (s.after c 5 0 id))
    ∧ (c.g.gang ≠ 0 → c.g.atLatch = 0 →
      exec (.mma x) s = .next (s.waits c fun g => g.modLanes c.iss.lanes fun _ y => { y with st := .latch })
      ∧ exec (.mmas x) s = .next (s.waits c fun g => g.modLanes c.iss.lanes fun _ y => { y with st := .latch }))
    ∧ (c.g.gang ≠ 0 → c.g.atLatch ≠ 0 → exec (.mma x) s = .next (s.waits c id) ∧ exec (.mmas x) s = .next (s.waits c id))

/-- R67, R183, R193: a solo MMA issued while the block has nothing else in the engine, and whose B rows can be read, is
performed at once: for each guard-true lane i that is no helper, and each n, the word of C at coff + i·cpitch + 4n becomes
the element of the product of that lane's A row and B row n, over the old word or with ZERO over 0, and every other byte of
C stays; the operation stands in the queue as performed, and its group's MC rises by 1; the other shares, the scratchpad and
the other blocks are as before. That a helper supplies no row and its words of C stay is the model's reading (log 31). One
element of an integer product is the old element plus the sum of the products of the elements of the two rows, modulo 2^32;
one element of a float product is reached group by group, each group's exact sum rounded to F32 and then added to the
element with one rounding. -/
def Obligations.MmaAccumulatesIntoC : Prop :=
  (
    ∀ (s : State) (b : Block) (l : Launch) (g : Group) (x : TForm) (sh : List Nat) (m : Member) (bs : List (Option MRow)),
      s.block? b.id = some b → s.launch? b.launch = some l → b.groups[m.grp]? = some g →
      (∀ o ∈ s.mtxq, o.blk ≠ b.id) →
      let t := s.mmaIssue b l.lr false x sh [m]
      ∃ o b' g', o ∈ t.mtxq ∧ o.id = s.nextId ∧ o.kind = .mma false ∧ o.sh = sh ∧ o.started = true
        ∧ o.rows = ((lanesOf m.on).filter fun k => !(g.lane k).helper).map
            (fun k => (k, g.aWords m.x.a.vnum (aRegs (l.lr.slot x.slot.toNat) (sh.getD 1 0)) k))
        ∧ t.block? b.id = some b' ∧ b'.groups[m.grp]? = some g' ∧ g'.mc = g.mc + 1
        ∧ b'.w = b.w ∧ b'.a = b.a ∧ b'.scratch = b.scratch ∧ b'.shadows = b.shadows
        ∧ (o.bRows b.w l.lr.wExtent = .ok bs → o.raises = [] ∧
          let fa := l.lr.slot x.slot.toNat
          let fb := mmaSlotB b l.lr x
          let coff := sh.getD 2 0
          let cpitch := sh.getD 3 0
          Memory.wf b.c = true → 4 * sh.getD 0 0 ≤ cpitch → bs.length = sh.getD 0 0
            ∧ (∀ p ∈ o.rows, ∀ n rb, bs[n]? = some rb →
              let at_ := coff + p.1 * cpitch + 4 * n
              let old := if x.flags.getLsbD 1 = true then 0 else ofLe (b.c.read at_ 4)
              let ra := aRow fa (sh.getD 1 0) p.2
              (fa.integer = true →
                b'.c.read at_ 4 = leBytes 4 (dotI fa fb (sh.getD 1 0) ra (rb.getD ⟨[], []⟩) old))
              ∧ ∀ size lim, fa.integer = false → mmaPair fa.elem fb.elem = some (size, lim) →
                b'.c.read at_ 4 = leBytes 4 (dotF fa fb size (sh.getD 1 0) ra (rb.getD ⟨[], []⟩) old).1)
            ∧ ∀ a, (∀ p ∈ o.rows, a < coff + p.1 * cpitch ∨ coff + p.1 * cpitch + 4 * sh.getD 0 0 ≤ a) →
                b'.c.get a = b.c.get a)
        ∧ (∀ k, o.bRows b.w l.lr.wExtent = .error k → b'.c = b.c ∧ o.raises = [k])
        ∧ ∀ j, j ≠ b.id → t.block? j = s.block? j)
  ∧ (
    ∀ (fa fb : FmtSlot) (ra rb : MRow) (acc : Nat),
      (∀ k, ((dotI fa fb k ra rb acc : Nat) : Int) =
        (acc + ((List.range k).map fun e => fa.int (elemOf fa.bits ra.ws e) * fb.int (elemOf fb.bits rb.ws e)).sum) % 2 ^ 32)
      ∧ (∀ g, 0 < g → (dotF fa fb g 0 ra rb acc).1 = acc)
      ∧ ∀ g n, 0 < g →
        let before := (dotF fa fb g (n * g) ra rb acc).1
        (dotF fa fb g ((n + 1) * g) ra rb acc).1 =
          (f32.addV rne (f32.decode before) (f32.decode (f32.convert rne (groupSum fa fb ra rb (n * g) g).1).1)).1)

/-- R183, R195 to R197, R199, R200: ACOMMIT, ADISCARD, ACCLD, ACCZ, TLD and TST, when their checks raise nothing, fewer than
16 operations stand in the core's queue and the group's earlier accesses to the A buffer are performed, are accepted with
what they read from registers and handles; ACCLD raises LC and leaves its registers pending, ACCZ and TLD raise MC, TST
raises SC. Guarded off everywhere, or for helpers alone where they act outside registers, they only pass. Accepted while the
block has nothing else in the engine, ADISCARD closes every shadow region and leaves C, ACOMMIT closes them with each
region's words copied to its rows of C, where two meet the later one's, and every other byte of C as before, and ACCZ writes
zero words to its region of C and leaves every other byte of C; none of them touches W, A or the scratchpad. -/
def Obligations.MatrixOperationsAreAccepted : Prop :=
  (
    ∀ (s : State) (c : Ctx), s.ctx? = some c → (s.mtxq.filter fun o => o.core == c.b.core).length < 16 →
        (∀ r ∈ s.reqs, r.blk = c.iss.blk → r.grp = c.iss.grp → r.space = .abuf → r.phase = .done) →
      let settled := ∀ o ∈ s.mtxq, o.blk = c.iss.blk → o.started = true
      let accepted := fun (n : Nat) (i : Insn) (la : BitVec 4) (o : MtxOp) =>
        (((({ s with nextId := s.nextId + 1 } : State).begin_ c).modGroup c.iss.blk c.iss.grp fun g =>
          if i.ctr = .none then g
          else (({ g with insns := g.insns ++ [{ i with id := s.nextId }] } : Group).raise i.ctr).window i.lanes s.nextId la).mtxAccept o).finish
            c n 0
      (∀ x : VForm, c.real x.g ≠ 0 →
        exec (.acommit x) s = .next (accepted 1 (c.insn .none 0 [] []) 0 (c.mtx s .acommit (c.on x.g) []))
        ∧ exec (.adiscard x) s = .next (accepted 1 (c.insn .none 0 [] []) 0 (c.mtx s .adiscard (c.on x.g) [])))
      ∧ (∀ x : VForm, c.real x.g = 0 →
        exec (.acommit x) s = .next (s.after c 1 0 id) ∧ exec (.adiscard x) s = .next (s.after c 1 0 id))
      ∧ (∀ x : TForm, c.on x.g = 0 → exec (.accz x) s = .next (s.after c 5 0 id) ∧ exec (.tld x) s = .next (s.after c 5 0 id)
        ∧ exec (.tst x) s = .next (s.after c 5 0 id)
        ∧ (x.d.vnum + (c.shapes x).getD 0 0 ≤ 128 → exec (.accld x) s = .next (s.after c 5 0 id)))
      ∧ ∀ x : TForm,
        let m := c.on x.g
        let r := c.real x.g
        let sh := c.shapes x
        let h := c.handleA x.a
        let f := c.l.lr.slot h.slot
        let first := (c.sval x.b).toNat % 2 ^ 32
        let row := fun (l : Nat) => sh.getD 2 0 + (sh.getD 8 0 + l) * sh.getD 3 0
        let extent := if x.flags.getLsbD 0 = true then c.l.lr.aExtent else c.l.lr.wExtent
        let unused := fun (used : List Nat) => ∀ k, k < 16 → k ∉ used → sh.getD k 0 = 0
        (m ≠ 0 → c.g.lc < 255 → sh.getD 2 0 % 4 = 0 → sh.getD 3 0 % 4 = 0 → unused [0, 2, 3, 8] →
            1 ≤ sh.getD 0 0 → sh.getD 0 0 ≤ 64 → sh.getD 8 0 ≤ 191 → x.d.vnum + sh.getD 0 0 ≤ 128 →
            (∀ l, inMask m l = true → row l + 4 * sh.getD 0 0 ≤ c.l.lr.cExtent) →
            (x.flags.getLsbD 0 = true → settled ∧
              ∀ l, inMask m l = true → c.b.shadowMeets (row l) 0 (sh.getD 0 0) 1 false = false) →
          exec (.accld x) s = .next (accepted 5 (c.insn .lc m (run x.d.vnum (sh.getD 0 0)) []) x.la
            { c.mtx s .accld m [(c.iss.grp, s.nextId)] with
              clear := if x.flags.getLsbD 0 = true then r else 0
              sh := sh
              d := x.d.vnum
              rows := (lanesOf m).map fun l => (l, []) }))
        ∧ (r ≠ 0 → c.g.mc < 255 → settled →
            c.b.shadowMeets (sh.getD 2 0) (sh.getD 3 0) (sh.getD 0 0) (sh.getD 8 0) false = false →
            sh.getD 2 0 % 4 = 0 → sh.getD 3 0 % 4 = 0 → unused [0, 2, 3, 8] →
            1 ≤ sh.getD 0 0 → sh.getD 0 0 ≤ 2048 → 1 ≤ sh.getD 8 0 → sh.getD 8 0 ≤ 192 →
            sh.getD 2 0 + (sh.getD 8 0 - 1) * sh.getD 3 0 + 4 * sh.getD 0 0 ≤ c.l.lr.cExtent →
          exec (.accz x) s = .next (accepted 5 (c.insn .mc m [] []) 0
            { c.mtx s .accz m [(c.iss.grp, s.nextId)] with sh := sh }))
        ∧ (r ≠ 0 → h.unset = false → h.space = 0 → f.elem ≠ 0 → unused [0, 1, 2, 3, 4, 5] → 1 ≤ sh.getD 0 0 →
            1 ≤ sh.getD 2 0 → sh.getD 1 0 + sh.getD 2 0 ≤ h.cols →
          (c.g.mc < 255 → h.type ≤ 3 → sh.getD 0 0 ≤ 4096 → sh.getD 3 0 % 32 = 0 →
              sh.getD 1 0 * f.bits % 32 = 0 → sh.getD 2 0 * f.bits % 256 = 0 →
              sh.getD 4 0 * 32 + (sh.getD 0 0 - 1) * sh.getD 3 0 + sh.getD 2 0 * f.bits / 8 ≤ extent →
              (f.tileT = 0 → sh.getD 5 0 = 0) →
              (f.tileT ≠ 0 → sh.getD 1 0 % f.tileT = 0
                ∧ sh.getD 5 0 * 32 + 2 * sh.getD 0 0 * (sh.getD 2 0 / f.tileT) ≤ extent) →
              (h.type = 1 ∨ first + sh.getD 0 0 ≤ h.rows) →
            exec (.tld x) s = .next (accepted 5 (c.insn .mc m [] []) 0
              { c.mtx s .tld m [(c.iss.grp, s.nextId)] with
                flags := x.flags.toNat
                slotB := f
                sh := sh
                first := first
                handle := some (Opnd.thnum x.a)
                h := h }))
          ∧ (c.g.sc < 255 → h.type = 0 ∨ h.type = 2 ∨ h.type = 3 → f.tileT = 0 → sh.getD 5 0 = 0 →
              sh.getD 4 0 * 32 + (sh.getD 0 0 - 1) * sh.getD 3 0 + sh.getD 2 0 * f.bits / 8 ≤ c.l.lr.aExtent →
              (h.type ≠ 0 → sh.getD 1 0 = 0 ∧ sh.getD 2 0 = h.cols) →
              (h.type = 3 → first % 16 = 0 ∧ sh.getD 0 0 % 16 = 0) →
              first + sh.getD 0 0 ≤ (if h.type = 3 then 16 * ceilDiv h.rows 16 else h.rows) →
            exec (.tst x) s = .next (accepted 5 (c.insn .sc r [] []) 0
              { c.mtx s .tst r [(c.iss.grp, s.nextId)] with
                slotB := f
                sh := sh
                first := first
                handle := some (Opnd.thnum x.a)
                h := h }))))
  ∧ (
    ∀ (s : State) (b : Block) (o : MtxOp), s.block? o.blk = some b → (∀ q ∈ s.mtxq, q.blk ≠ o.blk) → o.started = false →
      Memory.wf b.c = true →
      ∃ b', (s.mtxAccept o).block? o.blk = some b' ∧ (o.kind = .acommit ∨ o.kind = .adiscard ∨ o.kind = .accz →
        b'.w = b.w ∧ b'.a = b.a ∧ b'.scratch = b.scratch ∧ b'.mirror = b.mirror)
        ∧ (o.kind = .adiscard → b'.shadows = [] ∧ b'.c = b.c)
        ∧ (o.kind = .acommit →
          let covers := fun (q : Shadow) (a : Nat) => ∃ i, i < q.rows ∧ q.coff + i * q.cpitch ≤ a ∧ a < q.coff + i * q.cpitch + 4 * q.n
          b'.shadows = []
          ∧ (∀ before q after, b.shadows = before ++ q :: after → 4 * q.n ≤ q.cpitch → ∀ i j w, i < q.rows → j < q.n →
              q.data[i * q.n + j]? = some w →
              (∀ z ∈ after, ∀ n, n < 4 → ¬ covers z (q.coff + i * q.cpitch + 4 * j + n)) →
            b'.c.read (q.coff + i * q.cpitch + 4 * j) 4 = leBytes 4 w.toNat)
          ∧ ∀ a, (∀ q ∈ b.shadows, ¬ covers q a) → b'.c.get a = b.c.get a)
        ∧ (o.kind = .accz → b'.shadows = b.shadows ∧ ∀ a, b'.c.get a =
            if ∃ r, r < o.sh.getD 8 0 ∧ o.sh.getD 2 0 + r * o.sh.getD 3 0 ≤ a
              ∧ a < o.sh.getD 2 0 + r * o.sh.getD 3 0 + 4 * o.sh.getD 0 0 then 0 else b.c.get a))

/-! ### Versions -/

/-- R216, R211, R67: VNLD and VNST form and check addresses as LD and ST do; VNLD posts one request of its version for each
guard-true lane, VNST one for each of them that is no helper, with the bytes its data run holds at issue; LC or SC rises
by 1, and nothing else changes. -/
def Obligations.VersionAccessesPostOneRequestALane : Prop :=
  ∀ (s : State) (c : Ctx) (x : MForm), s.ctx? = some c →
    let m := c.on x.g
    let r := c.real x.g
    let size := 2 ^ x.size.toNat
    let ea := c.eaGlobal x.a x.o size
    let v := (c.sval x.o.c).toNat
    (∀ l, inMask m l = true → ea l % size = 0 ∧ ea l < 2 ^ 52) → v < 2 ^ 32 →
      (m ≠ 0 → c.g.lc < 255 → c.unshielded →
        exec (.vnld x) s = .next (s.posted c x.la (c.insn .lc m (run x.d.vnum (runLen size)) [])
          ((lanesOf m).map fun l =>
            { c.req x (.vnld v) .global with
              threads := maskOf (· == l)
              takers := maskOf (· == l)
              helper := (c.r.lane l).helper
              addr := ea l
              parts := [⟨l, [], [], []⟩]
              dst := some x.d.vnum })))
      ∧ (r ≠ 0 → c.g.sc < 255 →
        exec (.vnst x) s = .next (s.posted c x.la (c.insn .sc r [] [])
          ((lanesOf r).map fun l =>
            { c.req x (.vnst v) .global with
              threads := maskOf (· == l)
              takers := maskOf (· == l)
              addr := ea l
              parts := [⟨l, c.storeData x.d.vnum size l, [], []⟩] })))
      ∧ (m = 0 → exec (.vnld x) s = .next (s.after c 1 0 id))
      ∧ (r = 0 → exec (.vnst x) s = .next (s.after c 1 0 id))

/-- R213, R214, R217, R218, R220: on a live region of the launch, VNPUB leaves at the region home a request that notes the
VNSTs which its core has accepted, and VNFLOOR of a version of F < f ≤ P sets F there and leaves one; each issues when its
request has been answered, and every slice then has the P and F of its region. Lanes that have come to the instruction since
the request take no part and stay before it (the model's reading, log 37). VNFLOOR does nothing for f ≤ F. VNWAIT passes when
v ≤ P and waits else. VNSTAT reads one field. Each changes nothing else. -/
def Obligations.VersionInstructionsAct : Prop :=
  ∀ (s : State) (c : Ctx) (x : VForm) (num : Nat) (r : Region), s.ctx? = some c → c.unshielded → c.real x.g ≠ 0 →
    (c.sval x.a).toNat = num → num < 256 → s.region? c.b.launch num = some r →
    let v := (c.sval x.b).toNat
    let asked := fun (op : HomeOp) (waits : List Nat) (done : Bool) => ({ s with
      nextId := s.nextId + 1
      home := s.home ++ [{
        id := s.nextId, blk := c.iss.blk, grp := c.iss.grp, lanes := c.iss.lanes, takers := c.on x.g, pc := c.iss.pc
        hdr := c.iss.hdr, cnt := c.iss.cnt, region := num, launch := c.b.launch, ver := v, op := op, dst := none, hf := 0
        waits := waits, done := done, ans := none }] } : State)
    let issued := fun (h : HomeReq) =>
      let late := c.iss.lanes &&& ~~~h.lanes
      (({ s with home := s.home.filter fun y => y.id != h.id } : State).modRegion h.launch h.region Region.sync).after c 1 late
        (c.stayOf late)
    (s.homeReq c = none → v < 2 ^ 32 → exec (.vnpub x) s = .next ((asked .publish (s.vnstsAt c.b.core) false).waits c id))
    ∧ (∀ h, s.homeReq c = some h → h.op = .publish → h.done = true → exec (.vnpub x) s = .next (issued h))
    ∧ (s.homeReq c = none → r.floor < v → v ≤ r.pub → v < 2 ^ 32 → exec (.vnfloor x) s =
        .next (((asked .floor [] true).modRegion c.b.launch num fun q => { q with floor := v }).waits c id))
    ∧ (∀ h, s.homeReq c = some h → h.op = .floor → h.done = true → exec (.vnfloor x) s = .next (issued h))
    ∧ (s.homeReq c = none → v ≤ r.floor → v < 2 ^ 32 → exec (.vnfloor x) s = .next (s.after c 1 0 id))
    ∧ (v ≤ r.pub → v < 2 ^ 32 → exec (.vnwait x) s = .next (s.after c 1 0 id))
    ∧ (r.pub < v → v < 2 ^ 32 → exec (.vnwait x) s = .next (s.waits c id))
    ∧ exec (.vnstat x) s = .next (s.after c 1 0 fun g => g.putS x.d (BitVec.ofNat 64
        (match x.sub.toNat with
          | 0 => r.pub
          | 1 => r.floor
          | 2 => r.depth
          | 3 => r.free
          | 4 => r.pool
          | 5 => r.base
          | _ => r.size)))

/-- R205, R206, R213, R214, R217, R219: VNPUB of any other version than P + 1 raises VERSION_ORDER before it issues, when
what its request waits for is over, one above top(F) raises VERSION_RANGE, and so does a VNFLOOR above P and a version of
2^32 or more; a region number that is not live in the launch raises REGION_INVALID. The version is the one that the request
was made with, and the causes are its lanes' (the model's reading, log 37). The region and every register but those of the
trap are as before. VNOPEN reads the 32 bytes of the entry; when they take in R205 and leave room for one more region, it
creates the region of the lowest free number with P = F = 0, also in every slice, and every record free, and writes that
number; nothing else changes. That it checks the alignment of its address first, waits until the set's accesses are
performed, and sends for the entry as plain loads before it issues is the model's reading of R219 (log 32). -/
def Obligations.VersionChecksAndNewRegions : Prop :=
  (
    ∀ (s : State) (c : Ctx) (x : VForm), s.ctx? = some c → c.unshielded → c.real x.g ≠ 0 →
      let num := (c.sval x.a).toNat
      let v := (c.sval x.b).toNat
      (∀ r h, s.homeReq c = some h → s.region? h.launch h.region = some r → h.op = .publish → h.done = false →
          s.quiet h.blk h.grp h.takers 4 = true → s.allDone h.waits = true → h.ver ≠ r.pub + 1 ∨ r.top < h.ver →
        exec (.vnpub x) s = .next (s.trapsBefore c [(.versionOrder, if h.ver ≠ r.pub + 1 then h.takers &&& c.iss.lanes else 0),
          (.versionRange, if r.top < h.ver then h.takers &&& c.iss.lanes else 0)]))
      ∧ (∀ r, num < 256 → s.region? c.b.launch num = some r → (s.homeReq c = none → r.floor < v → r.pub < v →
          exec (.vnfloor x) s = .next (s.trapsBefore c [(.versionRange, c.on x.g)]))
        ∧ (2 ^ 32 ≤ v → exec (.vnwait x) s = .next (s.trapsBefore c [(.versionRange, c.on x.g)])
          ∧ (s.homeReq c = none → exec (.vnpub x) s = .next (s.trapsBefore c [(.versionRange, c.on x.g)])
            ∧ exec (.vnfloor x) s = .next (s.trapsBefore c [(.versionRange, c.on x.g)]))))
      ∧ (256 ≤ num ∨ s.region? c.b.launch num = none →
        (s.homeReq c = none → exec (.vnpub x) s = .next (s.trapsBefore c [(.regionInvalid, c.on x.g)])
          ∧ exec (.vnfloor x) s = .next (s.trapsBefore c [(.regionInvalid, c.on x.g)]))
        ∧ exec (.vnwait x) s = .next (s.trapsBefore c [(.regionInvalid, c.on x.g)])
        ∧ exec (.vnstat x) s = .next (s.trapsBefore c [(.regionInvalid, c.on x.g)])))
  ∧ (
    ∀ (s : State) (c : Ctx) (x : VForm) (k : Context), s.ctx? = some c → c.unshielded → c.real x.g ≠ 0 →
      s.context? c.l.ctx = some k →
      let a := (c.sval x.a).toNat
      let reads := s.pres.find? fun p => p.blk == c.iss.blk && p.grp == c.iss.grp && p.pc == c.iss.pc && !p.code
        && (p.lanes &&& c.iss.lanes) != 0
      a % 32 = 0 → a < 2 ^ 52 → s.quiet c.iss.blk c.iss.grp (c.on x.g) 4 = true ∨ c.idle s → (s.walk k a).reason? = none →
        (reads = none → exec (.vnopen x) s = .next
          ((s.beginPre ⟨0, c.iss.blk, c.iss.grp, c.on x.g, c.iss.pc, false, a, 32, [], none, none⟩ c.b.core (c.on x.g)).waits c id))
        ∧ ∀ p bs, reads = some p → p.addr = a → p.size = 32 → p.fail = none → p.bytes? = some bs →
          let e := RegionEntry.ofBytes bs
          let n := s.freeNumber c.b.launch
          s.regionFull k c.b.launch e.pool = false → s.entryReason k e = none →
            exec (.vnopen x) s = .next (({ s.dropPre p.id with regions := s.regions ++
              [⟨c.b.launch, k.id, n, e.base, e.size, e.depth, e.pool, e.pool, 0, 0, Vector.replicate 48 (0, 0), [], [], false,
                true⟩] } : State).after c 1 0 fun g => g.putS x.d (BitVec.ofNat 64 n)))

/-! ### Retrieval -/

/-- R67, R251 to R253, R255, R261: HFSET sends for its image as a plain load, which goes on once it has begun (the model's
reading, log 37), and with an image that has come and that R251 takes in writes the whole family register; HCODE writes a
code and an order word for each table when its result lands; a legal HPROBE leaves the probe of its lanes' code words
behind, with LC risen by 1 and its results pending; HSTAT reads a counter or a dword of the image, and .CLR zeroes the
counter in the same step, but not for helpers alone. Each changes nothing else. Bit j of an SRP code is 1 exactly when
projection j compares at least zero (negative zero does, a NaN does not); bit j of a RAW code is bit j of its word; the bits
of a code past k are 0. -/
def Obligations.RetrievalInstructionsAct : Prop :=
  (
    ∀ (s : State) (c : Ctx) (x : VForm), s.ctx? = some c →
      (∀ n : Fin 8, x.d = .hf n → c.unshielded → c.real x.g ≠ 0 →
        let a := (c.sval x.a).toNat
        let reads := s.pres.find? fun p => p.blk == c.iss.blk && p.grp == c.iss.grp && p.pc == c.iss.pc && !p.code
          && (p.lanes &&& c.iss.lanes) != 0
        a % 64 = 0 → a < 2 ^ 52 →
          (reads = none → exec (.hfset x) s = .next
            ((s.beginPre ⟨0, c.iss.blk, c.iss.grp, c.on x.g, c.iss.pc, false, a, 64, [], none, some n⟩ c.b.core (c.on x.g)).waits
              c id))
          ∧ ∀ p bs, reads = some p → p.fail = none → p.bytes? = some bs →
            let f : FamImg := tab 8 fun i => BitVec.ofNat 64 (ofLe ((bs.drop (8 * i)).take 8))
            f.ok n (s.region? c.b.launch f.region) = true →
              exec (.hfset x) s = .next (((s.dropPre p.id).after c 1 0 id).modBlock c.iss.blk fun b =>
                { b with hf := b.hf.setIfInBounds n f }))
      ∧ (∀ n : Fin 8, x.b = .hf n →
        let f := c.b.fam n
        let m := c.on x.g
        let nt := if x.c = .none then f.tables else bitsOf (c.sval x.c).toNat 8 4
        let t0 := if x.c = .none then 0 else bitsOf (c.sval x.c).toNat 3 0
        let words := fun (l i : Nat) =>
          if f.kind = 0 then srpWords ((List.range f.k).map fun j => (c.r.lane l).vreg (x.a.vnum + i * f.k + j))
          else rawWords f.k ((c.r.lane l).vreg (x.a.vnum + i))
        m ≠ 0 → f.unset = false → nt ≠ 0 → t0 + nt ≤ f.tables → (x.c = .none ∨ (c.sval x.c).toNat < 2 ^ 9) →
        x.a.vnum + (if f.kind = 0 then nt * f.k else nt) ≤ 128 → x.d.vnum + 2 * nt ≤ 128 →
          exec (.hcode x) s = .next (({ s with nextId := s.nextId + 1 } : State).after c 1 0 fun g =>
            { g with insns := g.insns ++ [(⟨s.nextId, .none, c.iss.pc, m, run x.d.vnum (2 * nt), [],
              ((lanesOf m).map fun l => ((List.range nt).map fun i =>
                [(Dest.v (x.d.vnum + 2 * i) l, (words l i).1.setWidth 64),
                 (Dest.v (x.d.vnum + 2 * i + 1) l, (words l i).2.setWidth 64)]).flatten).flatten, true⟩ : Insn)] }.window m s.nextId x.la))
      ∧ (∀ (n : Fin 8) (fs : List FamImg) (r : Region), x.b = .hf n → c.unshielded →
        let p := c.sval x.c
        let m := c.real x.g
        let h := c.b.handle (bitsOf p.toNat 51 48)
        let w := famWords fs
        m ≠ 0 → c.b.fams n = some fs → s.region? c.b.launch (c.b.fam n).region = some r →
        bitsOf p.toNat 47 45 = 0 → bitsOf p.toNat 63 52 = 0 → 1 ≤ bitsOf p.toNat 41 32 → bitsOf p.toNat 41 32 ≤ 512 →
        1 ≤ bitsOf p.toNat 44 42 → x.a.vnum + w ≤ 128 → h.unset = false → h.type = 1 → h.space = 0 →
        s.handleBusy c.iss.blk (bitsOf p.toNat 51 48) = false → c.g.lc < 255 →
          exec (.hprobe x) s = .next (({ s with
            nextId := s.nextId + 1
            probes := s.probes ++ [⟨s.nextId, c.iss.blk, c.iss.grp, m, .probe (decide (x.sub = 1)), x.d.vnum, n, p,
              (lanesOf m).map (fun l => (l, 0, (List.range w).map fun i => (c.r.lane l).vreg (x.a.vnum + i))),
              tab 2 (fun i => c.b.fam (n + i)), decide (bitsOf p.toNat 31 0 ≤ r.pub), false, []⟩] } : State).after c 1 0 fun g =>
            { g with
              insns := g.insns ++ [(⟨s.nextId, .lc, c.iss.pc, m, if x.sub = 1 then [x.d.vnum, x.d.vnum + 1] else [x.d.vnum], [], [],
                false⟩ : Insn)]
              lc := g.lc + 1 }.window m s.nextId x.la))
      ∧ (∀ n : Fin 8, x.b = .hf n → c.on x.g ≠ 0 →
        let q := x.sub.toNat
        let all := c.b.hfc[n.val]?.getD (Vector.replicate 9 0)
        let cnt := fun (i : Nat) => all[i]?.getD 0
        (q < 9 → exec (.hstat x) s = .next (s.after c 1 0 fun g => g.putS x.d (cnt q)))
        ∧ (9 ≤ q → q < 32 → exec (.hstat x) s = .next (s.after c 1 0 fun g =>
            g.putS x.d (BitVec.ofNat 64 ((c.b.fam n).dw (q - 16)))))
        ∧ (32 ≤ q → c.real x.g = 0 → exec (.hstat x) s = .next (s.after c 1 0 fun g => g.putS x.d (cnt (q - 32))))
        ∧ (32 ≤ q → c.real x.g ≠ 0 →
          exec (.hstat x) s = .next ((s.after c 1 0 fun g => g.putS x.d (cnt (q - 32))).modBlock c.iss.blk fun b =>
            { b with hfc := b.hfc.setIfInBounds n (all.setIfInBounds (q - 32) 0) }))))
  ∧ (
    (∀ (ps : List W32) (j : Nat), j < 32 → ps.length ≤ 32 →
      ((srpWords ps).1.getLsbD j = true ↔ ∃ p, ps[j]? = some p ∧ p.toNat % 2 ^ 31 ≤ 0x7F80_0000 ∧
        (p.getLsbD 31 = false ∨ p.toNat % 2 ^ 31 = 0)))
    ∧ ∀ (k j : Nat) (w : W32), j < 32 → ((rawWords k w).1.getLsbD j = true ↔ j < k ∧ w.getLsbD j = true))

/-- R256, R257, R259, R260: an update first leaves at the region home a registration of its version, when the set's accesses
are performed and the version is P + 1 and not above top(F), HREHASH once its array has been read (that it is read before it
registers is the model's reading, log 33); once it is registered, HINS and HDEL leave a record of their lanes' ids and codes
behind with SC risen by 1; HMERGE and HREHASH issue when the home has carried them out, writing what it answers to d, its counts
to the counters, and leaving its cause (with the FKIND that log 33 chooses). They go on with the families that they were
registered with, and lanes that have come since take no part and stay before the instruction (the model's reading, log 37). -/
def Obligations.UpdatesRegisterAndAct : Prop :=
  ∀ (s : State) (c : Ctx) (x : VForm) (n : Fin 8) (r : Region), s.ctx? = some c → c.unshielded → x.b = .hf n →
    c.real x.g ≠ 0 → s.region? c.b.launch (c.b.fam n).region = some r →
    let p := (c.sval x.c).toNat
    let v := bitsOf p 31 0
    let f := c.b.fam n
    let m := c.real x.g
    let asks := fun (u : State) (op : HomeOp) (dst : Option Nat) (hf : Nat) => ({ u with
      nextId := u.nextId + 1
      home := u.home ++ [{
        id := u.nextId, blk := c.iss.blk, grp := c.iss.grp, lanes := c.iss.lanes, takers := c.on x.g, pc := c.iss.pc
        hdr := c.iss.hdr, cnt := c.iss.cnt, region := f.region, launch := c.b.launch, ver := v, op := op, dst := dst
        hf := hf, waits := [], done := false, ans := none }] } : State).waits c id
    let next := (s.quiet c.iss.blk c.iss.grp (c.on x.g) 4 = true ∨ c.idle s) ∧ v = r.pub + 1 ∧ v ≤ r.top ∧ s.homeReq c = none
    let late := fun (h : HomeReq) => c.iss.lanes &&& ~~~h.lanes
    let issued := fun (h : HomeReq) (a : Merged) =>
      (({ s with home := s.home.filter fun q => q.id != h.id } : State).modBlock c.iss.blk fun b =>
          b.addStats h.hf [0, 0, 0, 0, 0, 0, a.evicted, a.refused, 0]).after c 1 (late h) fun g =>
        let g := match h.dst with
          | some d => g.setS d (BitVec.ofNat 64 a.d)
          | none => g
        c.stayOf (late h) <| match a.cause with
        | none => g
        | some k => g.addAfter ⟨h.id, k.1, h.takers, true, BitVec.ofNat 64 k.2,
            if k.1 = .mcDataPoison then fkindOf 8 6 4 else hashFkind 9, h.pc⟩
    (∀ fs : List FamImg, c.b.fams n = some fs → c.g.sc < 255 →
      let id_ := fun (l : Nat) => ((c.r.lane l).vreg x.a.vnum).toNat
      let record := fun (kind : RetKind) (fam : Vector FamImg 2) (w : Nat) (h : HomeReq) =>
        let m := maskOf fun l => inMask (h.takers &&& c.iss.lanes) l && !(c.r.lane l).helper
        (({ s with
          nextId := s.nextId + 1
          home := s.home.filter fun q => q.id != h.id
          probes := s.probes ++ [⟨s.nextId, c.iss.blk, c.iss.grp, m, kind, x.d.vnum, n, BitVec.ofNat 64 h.ver,
            (lanesOf m).map (fun l => (l, id_ l, (List.range w).map fun i => (c.r.lane l).vreg (x.d.vnum + 2 * i))),
            fam, true, false, []⟩] } : State).after c 1 (late h) fun g =>
          c.stayOf (late h) { g with
            insns := g.insns ++ [(⟨s.nextId, .sc, c.iss.pc, m, [], [], [], false⟩ : Insn)]
            sc := g.sc + 1 })
      let inRange := fun (m : Mask) (fs : List FamImg) => ∀ l, inMask m l = true → ∀ q ∈ fs, id_ l < q.maxid
      (inRange m fs → p < 2 ^ 32 → next →
        (x.d.vnum + famWords fs ≤ 128 → exec (.hins x) s = .next (asks s (.side (tab 2 fun i => c.b.fam (n + i))) none 0))
        ∧ (x.d.vnum ≤ 128 → exec (.hdel x) s = .next (asks s (.side (tab 2 fun i => c.b.fam (n + i))) none 0)))
      ∧ ∀ h fam gs, s.homeReq c = some h → h.op = .side fam → h.done = true → famsOf fam[0] fam[1] = some gs →
          inRange (h.takers &&& c.iss.lanes) gs →
        (x.d.vnum + famWords gs ≤ 128 → exec (.hins x) s = .next (record .hins fam (famWords gs / 2) h))
        ∧ (x.d.vnum ≤ 128 → exec (.hdel x) s = .next (record .hdel fam 0 h)))
    ∧ (f.unset = false →
      (p < 2 ^ 32 → next → exec (.hmerge x) s = .next (asks s (.merge f) x.d.sdst? n))
      ∧ ∀ h a q, s.homeReq c = some h → h.op = .merge q → h.ans = some a → a.precise = none →
          exec (.hmerge x) s = .next (issued h a))
    ∧ ∀ new : FamImg, f.unset = false → n.val % 2 = 0 → f.pair = true → c.b.fams n = some [f, new] →
      let rows := bitsOf p 47 32
      let a := (c.sval x.a).toNat
      let bytes := 4 * rows * new.tables
      let reads := s.pres.find? fun y => y.blk == c.iss.blk && y.grp == c.iss.grp && y.pc == c.iss.pc && !y.code
        && (y.lanes &&& c.iss.lanes) != 0
      (next → bitsOf p 63 48 = 0 → 1 ≤ rows → rows ≤ 4096 → Lines.cursor ⟨s, r, v⟩ f + rows ≤ f.maxid →
          a % 4 = 0 → a + bytes ≤ 2 ^ 52 →
        (reads = none → exec (.hrehash x) s = .next ((s.beginPre
          ⟨0, c.iss.blk, c.iss.grp, c.on x.g, c.iss.pc, false, a, bytes, [], none, none⟩ c.b.core (c.on x.g)).waits c id))
        ∧ ∀ y bs, reads = some y → y.addr = a → y.size = bytes → y.fail = none → y.bytes? = some bs →
          exec (.hrehash x) s = .next (asks (s.dropPre y.id) (.rehash f new
            ((List.range rows).map fun q => (List.range new.tables).map fun j =>
              ofLe ((bs.drop (4 * (q * new.tables + j))).take 4))) x.d.sdst? n))
      ∧ ∀ h b old fresh rs, s.homeReq c = some h → h.op = .rehash old fresh rs → h.ans = some b → b.precise = none →
          exec (.hrehash x) s = .next (issued h b)

/-! ### Tasks, engines and the system -/

/-- R54, R269, R273, R278, R280 to R282, R287, R288: a SPAWN whose parent's accesses are performed at core scope, with a
legal record in its eight registers, appends the record with the parent's tag in dword 7 to its block's queue and clears d:
to the on-chip share when nothing lies in the ring and the share has room, else to the ring in memory; with S live records
and d not p0 it queues nothing and sets d. With no guard-true lane that is not a helper it has no effect. BNDSET sets the
bound of its guard-true lanes or clears BEN; BNDGET reads the bound or its config; ICUPD sends the best of its real lanes'
values, which none of them improves upon, to the Praline root; ICRD reads a field of the core's copy; SHIELD outside a
window opens one of n instructions; TQSTAT reads a counter of the block's queue. Each changes nothing else. -/
def Obligations.TasksBoundsAndIncumbents : Prop :=
  (
    ∀ (s : State) (c : Ctx) (x : PForm), s.ctx? = some c → (x.d = .p 0 → c.unshielded) →
      let r := c.real x.g
      let p := lowest r
      let rec_ := fun (k : Nat) => c.r.sreg (x.a.snum + k)
      let dw0 := (rec_ 0).toNat
      let q := c.b.q
      let legal := bitsOf dw0 63 37 = 0 ∧ dw0 % 8 = 0 ∧ bitsOf dw0 31 0 < c.l.lr.codeSize ∧ rec_ 7 = 0
        ∧ (bitOf dw0 36 = true → (s.icCopy c.b.core (bitsOf dw0 35 32)).bound = true)
      let dws := (tab 8 rec_).set 7 ((c.r.lane p).tag.setWidth 64)
      (r ≠ 0 → c.l.lr.tasks = true → s.quiet c.iss.blk c.iss.grp (maskOf (· == p)) 3 = true ∨ c.idle s → legal →
        (q.live < c.l.lr.segment → q.ring = [] → q.share.length < 128 →
          exec (.spawn x) s = .next ((s.after c 1 0 fun g => g.putS x.d 0).modBlock c.b.id fun b => { b with q := { q with
            share := q.share ++ [⟨dws, q.tail, s.cc⟩]
            tail := q.tail + 1
            spawned := q.spawned + 1 } }))
        ∧ (q.live < c.l.lr.segment → q.ring ≠ [] ∨ 128 ≤ q.share.length → exec (.spawn x) s = .next
            (((s.ringStore c.l (c.l.lr.recordAt c.b.lin q.tail) (TaskRec.bytes ⟨dws, q.tail, s.cc⟩)).after c 1 0 fun g =>
              g.putS x.d 0).modBlock c.b.id fun b => { b with q := { q with
                ring := q.ring ++ [(q.tail, s.cc)]
                tail := q.tail + 1
                spawned := q.spawned + 1 } }))
        ∧ (c.l.lr.segment ≤ q.live → x.d ≠ .p 0 → exec (.spawn x) s = .next (s.after c 1 0 fun g => g.putS x.d 1)))
      ∧ (r = 0 → exec (.spawn x) s = .next (s.after c 1 0 id)))
  ∧ (
    ∀ (s : State) (c : Ctx), s.ctx? = some c →
      (∀ x : VForm,
        let m := c.on x.g
        (x.sub = 1 → exec (.bndset x) s = .next (s.after c 1 0 fun g => g.modLanes m fun _ y => { y with ben := false }))
        ∧ (∀ i : Fin 16, x.b = .ic i → x.sub ≠ 1 → m ≠ 0 → (s.icCopy c.b.core i).bound = true →
          exec (.bndset x) s = .next (s.after c 1 0 fun g => g.modLanes m fun l y =>
            { y with bnd := c.val64 x.a l, bndIc := BitVec.ofNat 4 i, ben := true }))
        ∧ (x.sub = 1 → exec (.bndget x) s = .next (s.after c 1 0 fun g => g.putO m x.d fun l =>
            BitVec.ofNat 32 ((c.r.lane l).bndIc.toNat + (if (c.r.lane l).ben then 16 else 0))))
        ∧ (x.sub ≠ 1 → exec (.bndget x) s = .next (s.after c 1 0 fun g => g.putV2 m x.d.vnum fun l => (c.r.lane l).bnd))
        ∧ (∀ i : Fin 16, x.d = .ic i → c.real x.g ≠ 0 → (s.icCopy c.b.core i).bound = true →
          ∃ y, y ∈ (lanesOf (c.real x.g)).map (c.val64 x.a)
            ∧ (∀ z ∈ (lanesOf (c.real x.g)).map (c.val64 x.a), (s.icCopy c.b.core i).improves z y = false)
            ∧ exec (.icupd x) s = .next (({ s with
                nextId := s.nextId + 1
                offers := s.offers ++ [⟨s.nextId, i, y, c.b.core, false, s.cc⟩] } : State).after c 1 0 id))
        ∧ (∀ i : Fin 16, x.a = .ic i → m ≠ 0 → exec (.icrd x) s = .next (s.after c 1 0 fun g => g.putS x.d
            (match x.sub.toNat with
              | 0 => (s.icCopy c.b.core i).value
              | 1 => (s.icCopy c.b.core i).cfg.setWidth 64
              | _ => (s.icCopy c.b.core i).seq)))
        ∧ (m ≠ 0 → exec (.tqstat x) s = .next (s.after c 1 0 fun g => g.putS x.d
            (if c.l.lr.tasks = false then 0 else match x.sub.toNat with
              | 0 => BitVec.ofNat 64 (c.b.q.share.length + c.b.q.ring.length)
              | 1 => c.b.q.spawned
              | 2 => c.b.q.groups
              | 3 => c.b.q.tasks
              | 4 => c.b.q.pruned
              | 5 => c.b.q.orphaned
              | 6 => c.b.q.cancelled
              | 7 => c.b.q.discarded
              | _ => BitVec.ofNat 64 (c.l.lr.segment - (c.b.q.share.length + c.b.q.ring.length))))))
      ∧ ∀ x : KForm, c.unshielded → exec (.shield x) s = .next (s.after c 1 0 fun g =>
          g.modLanes (c.on x.g) fun _ y => { y with shield := x.imm.toNat }))

/-- R229, R230, R236: a PUSH whose threads' accesses are performed, whose command passes R234 and whose queue has a free
entry is accepted: the command joins the queue, d is cleared and a TRACK raises EC by 1; a VER command first leaves its
registration at the region home and needs it, and an HX command registers the next version of its family's region. Into a full
queue a PUSH with d not p0 queues nothing and sets d, and one with d = p0 waits with the command that it has read. A PUSH that
goes on after a wait queues that command for the lanes it began with; lanes that have come since stay before it (the model's
reading, log 37). QSTAT reads the free entries, the depth and the block's own commands. -/
def Obligations.PushAndQstat : Prop :=
  ∀ (s : State) (c : Ctx), s.ctx? = some c →
    (∀ x : PForm, (x.d = .p 0 → c.unshielded) → c.real x.g ≠ 0 →
      let q := x.queue.toNat
      let w : Dws := tab 8 fun k => c.r.sreg (x.a.snum + k)
      let used := s.queueUsed c.b.core q
      let accepted := fun (t : State) (u : Dws) (threads late : Mask) (stay : Group → Group) (regs : List (Nat × Nat)) =>
        ∃ k : Cmd, k.id = s.nextId ∧ k.queue = q ∧ k.core = c.b.core
        ∧ k.blk = c.iss.blk ∧ k.grp = c.iss.grp ∧ k.launch = c.b.launch ∧ k.ctx = c.l.ctx ∧ k.threads = threads
        ∧ k.fpc = c.iss.pc ∧ k.dws = u ∧ k.started = false ∧ k.regs = regs ∧ k.flight = [] ∧ k.fail = none
        ∧ exec (.push x) s = .next (({ t with nextId := s.nextId + 1, cmds := s.cmds ++ [k] } : State).after c 1 late fun g =>
            stay { g.putS x.d 0 with ec := if u.track = true then g.ec + 1 else g.ec })
      let asks := fun (op : HomeOp) (region ver : Nat) => (({ s with
          nextId := s.nextId + 1
          home := s.home ++ [{
            id := s.nextId, blk := c.iss.blk, grp := c.iss.grp, lanes := c.iss.lanes, takers := c.on x.g, pc := c.iss.pc
            hdr := c.iss.hdr, cnt := c.iss.cnt, region := region, launch := c.b.launch, ver := ver, op := op
            dst := none, hf := 0, waits := [], done := false, ans := none }] } : State).waits c id)
      (s.homeReq c = none → (w.track = true → c.g.ec < 255) → s.quiet c.iss.blk c.iss.grp (c.on x.g) 4 = true ∨ c.idle s →
          c.cmdCause q w = none →
        (w.mode = 2 → c.regCause s q w = none → exec (.push x) s = .next (asks (.push w) (w.ctarget % 256) w.ver))
        ∧ (w.mode ≠ 2 → q ≠ 5 → used < queueDepth q → accepted s w (c.real x.g) 0 id [])
        ∧ (w.mode ≠ 2 → queueDepth q ≤ used →
          (x.d ≠ .p 0 → exec (.push x) s = .next (s.after c 1 0 fun g => g.putS x.d 1))
          ∧ (x.d = .p 0 → exec (.push x) s = .next (asks (.queued w) 0 0)))
        ∧ (∀ r, w.mode ≠ 2 → q = 5 → used < queueDepth q → s.region? c.b.launch (c.b.fam w.hf).region = some r →
          r.pub + 1 ≤ r.top → r.enginesOf (r.pub + 1) < 65535 →
          accepted (s.modRegion c.b.launch (c.b.fam w.hf).region fun y =>
            { y with engines := assocPut y.engines (r.pub + 1) (y.enginesOf (r.pub + 1) + 1) }) w (c.real x.g) 0 id
            [((c.b.fam w.hf).region, r.pub + 1)]))
      ∧ (∀ (h : HomeReq) (u : Dws), s.homeReq c = some h → (u.track = true → c.g.ec < 255) → used < queueDepth q →
        let late := c.iss.lanes &&& ~~~h.lanes
        let threads := maskOf fun l => inMask h.takers l && !(c.g.lane l).helper
        let gone := { s with home := s.home.filter fun y => y.id != h.id }
        (h.op = .push u → h.done = true → q ≠ 5 ∨ u.mode = 2 →
          accepted gone u threads late (c.stayOf late) [(h.region, h.ver)])
        ∧ (h.op = .queued u → q ≠ 5 → accepted gone u threads late (c.stayOf late) [])))
    ∧ ∀ x : VForm, c.on x.g ≠ 0 →
      let q := x.sub.toNat
      exec (.qstat x) s = .next (s.after c 1 0 fun g => g.putS x.d (BitVec.ofNat 64 (queueDepth q - s.queueUsed c.b.core q
        + queueDepth q * 2 ^ 16 + (s.cmds.filter fun k => k.inQueue c.b.core q && k.blk == c.iss.blk).length * 2 ^ 32)))

/-- R304, R306: outside a handler, with a TVEC that passes its checks, TRAP enters the handler with cause 0x2C0 + imm[5:0]
and BKPT with BREAKPOINT, in the guard-true lanes: CAUSE.ARG is imm, TEPC holds the next word of the clause, or the next
clause header after the last word, TMASK is those lanes, INTRAP and AFTER are 1, the lanes stand at TVEC with their meeting
values kept in their shadows and their windows closed, and the guard-false lanes have passed. Guarded off in every lane
neither has an effect. -/
def Obligations.TrapAndBkptEnterTheHandler : Prop :=
  ∀ (s : State) (c : Ctx) (x : KForm), s.ctx? = some c →
    let m := c.on x.g
    let next := c.iss.pc + 8
    let last := c.iss.hdr + BitVec.ofNat 32 (8 * (c.iss.cnt + 2))
    let tvec := c.g.tvec.extractLsb' 0 32
    let enters := fun (t : State) (k : Cause) => ∃ g : Group, t.group? c.iss.blk c.iss.grp = some g
      ∧ g.cause = BitVec.ofNat 64 (k.code + k.rank * 2 ^ 16 + x.imm.toNat * 2 ^ 32)
      ∧ g.tepc = BitVec.ofNat 64 (next.toNat + (if next = last then next.toNat else c.iss.hdr.toNat) * 2 ^ 32)
      ∧ g.tmask = m.setWidth 64 ∧ g.tstat = 3 ∧ g.tvec = c.g.tvec ∧ g.tscratch = c.g.tscratch
      ∧ g.faddr = c.g.faddr ∧ g.fkind = c.g.fkind ∧ g.fpc = c.g.fpc ∧ g.fstat = c.g.fstat
      ∧ g.p = c.g.p ∧ g.s = c.g.s ∧ g.lc = c.g.lc ∧ g.sc = c.g.sc ∧ g.mc = c.g.mc ∧ g.ec = c.g.ec
      ∧ (∀ l, l < 32 → inMask m l = true →
          let y := g.lane l
          y.pc = tvec ∧ y.hdr = none ∧ y.inTrap = true ∧ y.st = .run ∧ y.smt = (c.g.lane l).mt ∧ y.mt = 0xFFFF_FFFF
          ∧ y.wins = [] ∧ y.shield = 0 ∧ y.yielded = false ∧ y.v = (c.g.lane l).v)
      ∧ (∀ l, l < 32 → inMask c.iss.lanes l = true → inMask m l = false →
          g.lane l = { (c.g.lane l).tick with pc := c.iss.pc, hdr := some c.iss.hdr }.pass c.iss 1)
      ∧ ∀ l, l < 32 → inMask c.iss.lanes l = false → inMask m l = false → g.lane l = c.g.lane l
    (m ≠ 0 → c.g.inTrap = false → tvec ≠ 0xFFFF_FFFF → tvec.toNat % 8 = 0 →
        tvec.toNat < c.l.lr.codeSize →
      (∃ t, exec (.trap x) s = .next t ∧ enters t (.trap (x.imm.extractLsb' 0 6)))
      ∧ (Cause.trap (x.imm.extractLsb' 0 6)).code = 0x2C0 + x.imm.toNat % 64
      ∧ (∃ t, exec (.bkpt x) s = .next t ∧ enters t .breakpoint))
    ∧ (m = 0 → exec (.trap x) s = .next (s.after c 1 0 id) ∧ exec (.bkpt x) s = .next (s.after c 1 0 id))

/-- R300, R308, R309: while a handler runs, a cause of its own lanes kills the launch as a double fault, and a lane set
outside TMASK of which some raise one waits as a whole before the instruction, so that HELD reads 1; without a handler (TVEC
none or failing its checks) a trap kills the launch as unhandled. -/
def Obligations.TrapsWithoutAHandler : Prop :=
  ∀ (s : State) (b : Block) (l : Launch) (grp : Nat) (r : Raise) (k : Cause) (m : Mask), s.block? b.id = some b →
    s.launch? b.launch = some l → pickCause r.causes = some (k, m) →
    let g := b.group grp
    let tvec := g.tvec.extractLsb' 0 32
    (g.inTrap = true → m &&& g.tmaskLanes ≠ 0 → s.trap b.id grp r = s.kill b.launch b.id grp 0x3F2)
    ∧ (g.inTrap = true → m &&& g.tmaskLanes = 0 →
        let g' := g.modLanes (m ||| r.set) fun _ x => { x with st := .trapHeld }
        s.trap b.id grp r = s.setBlock (b.setGroup grp g') ∧ (m ≠ 0 → g'.tstatNow = g.tstat ||| 4#64))
    ∧ (g.inTrap = false → tvec = 0xFFFF_FFFF ∨ tvec.toNat % 8 ≠ 0 ∨ l.lr.codeSize ≤ tvec.toNat →
        ∃ b', s.trap b.id grp r = (s.setBlock b').kill b.launch b.id grp 0x3F3 ∧ b'.id = b.id ∧ b'.launch = b.launch)

/-- R67, R112, R297, R303, R305: RFT in a handler's lanes puts the guard-true ones at the rejoin, with the shadow of their
meeting value or for RFT.MT the value of a, and the others go on; outside a handler it raises RFT_OUTSIDE_TRAP; CSRR reads a
register, FSTAT when no earlier access can still set a flag, and waits for that else; CSRW writes TVEC (with the block's,
outside task groups and not for helpers alone), TEPC and TSCRATCH, clears the bits of FSTAT written as 1 that were not set in
this cycle, and leaves every register that is read-only. Nothing else changes. Guarded off everywhere they only pass. -/
def Obligations.RftAndTheSpecialRegisters : Prop :=
  ∀ (s : State) (c : Ctx), s.ctx? = some c →
    (∀ x : VForm,
      let m := c.on x.g
      (m ≠ 0 → c.g.inTrap = true → c.iss.lanes &&& c.g.tmaskLanes ≠ 0 →
        exec (.rft x) s = .next (s.after c 1 m fun g => g.modLanes m fun l y =>
          { y with st := .rejoin (if x.sub = 1 then c.val x.a l else y.smt) }))
      ∧ (m ≠ 0 → c.g.inTrap = false → exec (.rft x) s = .next (s.trapsBefore c [(.rftOutsideTrap, m)]))
      ∧ (m = 0 → exec (.rft x) s = .next (s.after c 1 0 id)))
    ∧ (∀ x : SForm, c.on x.g = 0 →
      exec (.csrr x) s = .next (s.after c 1 0 id) ∧ exec (.csrw x) s = .next (s.after c 1 0 id))
    ∧ ∀ x : SForm, c.on x.g ≠ 0 →
      let n := x.csr.toNat
      let w := c.sval x.a
      let reads := fun (v : W64) => exec (.csrr x) s = .next (s.after c 1 0 fun g => g.putS x.d v)
      let writes := fun (f : Group → Group) => exec (.csrw x) s = .next (s.after c 1 0 f)
      let tvec := (c.g.tvec &&& 0xFFFF_FFFF_0000_0000#64) ||| (w &&& 0x0000_0000_FFFF_FFFF#64)
      let used := ((s.context? c.l.ctx).map (·.ebudget)).getD 0
      (∀ p ∈ [(0x000, BitVec.ofNat 64 s.archid), (0x010, c.g.cause), (0x011, c.g.tvec), (0x012, c.g.tepc), (0x013, c.g.tmask),
          (0x014, c.g.tstatNow), (0x015, c.g.tscratch), (0x018, c.g.faddr), (0x019, c.g.fkind), (0x01A, c.g.fpc),
          (0x030, (s.cores[c.b.core]?.getD CoreSt.zero).ecount), (0x031, BitVec.ofNat 64 used),
          (0x040, BitVec.ofNat 64 s.fab.linkstat), (0x041, BitVec.ofNat 64 s.sparestat)],
        n = p.1 → reads p.2)
      ∧ (n = 0x020 → s.flagsPending c.iss.blk c.iss.grp = false ∨ c.idle s → reads c.g.fstat)
      ∧ (n = 0x020 → s.flagsPending c.iss.blk c.iss.grp = true → exec (.csrr x) s = .next (s.waits c id))
      ∧ (n = 0x012 → writes fun g => { g with tepc := w })
      ∧ (n = 0x015 → writes fun g => { g with tscratch := w })
      ∧ (n = 0x020 → writes fun g => { g with fstat := g.fstat &&& ~~~(w &&& 0x0000_FFFF_0001_007F#64 &&& ~~~g.newFlags) })
      ∧ (n ∉ [0x011, 0x012, 0x015, 0x020] → writes id)
      ∧ (n = 0x011 → c.g.task = true ∨ c.real x.g = 0 →
          writes fun g => { g with tvec := (g.tvec &&& 0xFFFF_FFFF_0000_0000#64) ||| (w &&& 0x0000_0000_FFFF_FFFF#64) })
      ∧ (n = 0x011 → c.g.task = false → c.real x.g ≠ 0 →
          exec (.csrw x) s = .next ((s.after c 1 0 fun g =>
            { g with tvec := (g.tvec &&& 0xFFFF_FFFF_0000_0000#64) ||| (w &&& 0x0000_0000_FFFF_FFFF#64) }).modBlock c.iss.blk fun b =>
              { b with btvec := tvec }))

/-! ### Events of groups, of the vote, and of requests -/

/-- R65, R66, R68, R70, R76, R79, R167, R275: in a resident block, MEETING_RELEASE lets the threads held at m go on with mt
none when no other live thread of the group that is no helper has m to meet; MEETING_DEADLOCK traps those held at the lowest
value when every live thread is held and none can be released; SLEEP_EXPIRY makes the lanes of an elapsed interval runnable,
all that sleep to the same cycle at once (the model's reading, log 43); ACTIVE_SET_SWAP gives the longest-ready pending
group an empty active slot, from which it may issue 2 cc later; ACTIVE_IDLE_TIMEOUT notes 16 cc without a runnable lane;
BARWAIT_RESUME moves past its BARWAIT every lane whose phase has passed, now or at an update since it began to wait, where
the headers are in device memory or at hand; TASK_GROUP_START lets a formed group issue. When every live thread outside task
groups waits at one BRPK and the groups have drained, REPACKING moves the threads, in order of target, group and lane, to
consecutive positions of the block's groups, or in a TASKS block of those with a waiting thread, each at its target with its
registers; the other positions are empty and the other groups as before. -/
def Obligations.GroupEventsAct : Prop :=
  (
    ∀ (s : State) (blk grp : Nat) (b : Block) (g : Group), s.block? blk = some b → b.groups[grp]? = some g → b.st = .resident →
      let lane := fun (l : Nat) => g.lane l
      (∀ m : W32, (∃ l, l < 32 ∧ (lane l).st = .held ∧ (lane l).mt = m) →
        (∀ l, l < 32 → ((lane l).mt = m ∨ ((lane l).inTrap = true ∧ (lane l).smt = m)) →
          ((lane l).st = .held ∧ (lane l).mt = m) ∨ (lane l).exited = true ∨ (lane l).helper = true) →
        exec (.meetingRelease blk grp m) s = .next (s.modGroup blk grp fun q =>
          q.modLanes (maskOf fun l => decide ((q.lane l).st = .held) && (q.lane l).mt == m) fun _ x =>
            { x with st := .run, mt := 0xFFFF_FFFF#32 }))
      ∧ (∀ m : W32, g.live ≠ 0 → (∀ l, l < 32 → (lane l).exited = true ∨ (lane l).st = .held) →
        (∀ l, l < 32 → (lane l).st = .held → g.releases (lane l).mt = false ∧ m.toNat ≤ (lane l).mt.toNat) →
        (∃ l, l < 32 ∧ (lane l).st = .held ∧ (lane l).mt = m) →
        let there := maskOf fun l => decide ((lane l).st = .held) && (lane l).mt == m
        exec (.meetingDeadlock blk grp) s =
          .next (s.trap blk grp { causes := [(.meetingDeadlock, there)], tepc := m, hdr := m }))
      ∧ (∀ k n : Nat, (lane k).st = .sleeping n → n ≤ s.cc →
        ∃ t g', exec (.sleepExpiry blk grp k) s = .next t ∧ t.group? blk grp = some g'
          ∧ (∀ l, l < 32 → (lane l).st = .sleeping n → (g'.lane l).st = .run ∨ (g'.lane l).st = .held)
          ∧ ∀ l, l < 32 → (lane l).st ≠ .sleeping n → g'.lane l = lane l)
      ∧ (∀ (core quad k : Nat), leastBy (fun (p : Block × Nat) => (p.1.group p.2).readyAt)
          ((s.quadGroups core quad).filter fun p => (p.1.group p.2).active.isNone && s.ready p.1 p.2) = some (b, grp) →
        k < 8 → (∀ q ∈ s.quadGroups core quad, (q.1.group q.2).active ≠ some k) →
        ∃ t g' j, exec (.activeSetSwap core quad) s = .next t ∧ t.group? b.id grp = some g' ∧ g'.active = some j ∧ j ≤ k
          ∧ s.cc + 2 ≤ g'.mayIssue)
      ∧ (g.active ≠ none → s.ready b grp = false → g.idleAt + 16 ≤ s.cc →
        exec (.activeIdleTimeout blk grp) s = .next (s.modGroup blk grp fun q => { q with idleOut := true }))
      ∧ (∀ l : Launch, s.launch? b.launch = some l →
        (∀ k off d p, k < 32 → (lane k).st = .barwait off d p → p = false ∧ barPassed (barRead b.scratch off).phase d = false) →
        exec (.barwaitResume blk grp) s = .next s)
      ∧ (∀ (l : Launch) (k off : Nat) (d : W32) (p : Bool), s.launch? b.launch = some l → k < 32 →
        (lane k).st = .barwait off d p → (p = true ∨ barPassed (barRead b.scratch off).phase d = true) →
        (∀ j, j < 32 → (∃ off d p, (lane j).st = .barwait off d p) → (s.fetch b.core l (lane j).place.1.toNat).1 ≠ .peer) →
        ∃ t g', exec (.barwaitResume blk grp) s = .next t ∧ t.group? blk grp = some g'
          ∧ (g'.lane k).pc = (lane k).place.2 + 8 ∧ ((g'.lane k).st = .run ∨ (g'.lane k).st = .held))
      ∧ (g.forming = true → g.mayIssue ≤ s.cc →
        exec (.taskGroupStart blk grp) s = .next (s.modGroup blk grp fun q => { q with forming := false, readyAt := s.cc })))
  ∧ (
    ∀ (s : State) (blk : Nat) (b : Block) (l : Launch), s.block? blk = some b → s.launch? b.launch = some l → b.st = .resident →
      b.allAtBrpk = true → b.mismatch = none → s.packDrained b = true →
      let ws := b.waiters
      let slots := (List.range b.groups.length).filter fun k => !(b.group k).task && (!l.lr.tasks || ws.any fun p => p.grp == k)
      ∃ t b', exec (.repacking blk) s = .next t ∧ t.block? blk = some b' ∧ b'.groups.length = b.groups.length
        ∧ ws.Pairwise (fun p q => p.target.toNat < q.target.toNat ∨
            (p.target = q.target ∧ (p.grp < q.grp ∨ (p.grp = q.grp ∧ p.lane < q.lane))))
        ∧ (∀ j k i, slots[j]? = some k → i < 32 →
          match ws[32 * j + i]? with
          | none => (b'.group k).lane i = { Lane.zero with st := .exited false }
          | some p =>
            let y := (b'.group k).lane i
            y.pc = p.target ∧ y.v = p.x.v ∧ y.mt = p.x.mt ∧ y.tag = p.x.tag ∧ y.helper = p.x.helper ∧ y.bnd = p.x.bnd
            ∧ y.hdr = none ∧ y.st = (if p.target = p.x.mt then .held else .run))
        ∧ (∀ k, k ∉ slots → b'.group k = b.group k) ∧ b'.scratch = b.scratch ∧ b'.q = b.q)

/-- R305, R306, R209: TRAP_ENTRY of an active group outside its handler enters the handler with the waiting cause of lowest
rank, in those of its lanes that stand where the lowest of them stands; RFT_REJOIN, when every live lane of TMASK is at the
rejoin, the return checks pass and the group has no held version lines, sends those lanes to T inside the clause of H with
their new meeting values and clears CAUSE, TMASK and TSTAT. -/
def Obligations.TrapEntryAndRejoin : Prop :=
  ∀ (s : State) (blk grp : Nat) (b : Block) (g : Group) (l : Launch), s.block? blk = some b → b.groups[grp]? = some g →
    s.launch? b.launch = some l → b.st = .resident →
    (∀ a : After, s.cur = [] → g.active ≠ none → s.parked b grp = false → g.inTrap = false → g.nextAfter = some a →
      a.lanes ≠ 0 →
      let y := g.lane (lowest a.lanes)
      let m := maskOf fun k => inMask a.lanes k && (g.lane k).together y
      let tvec := g.tvec.extractLsb' 0 32
      tvec ≠ 0xFFFF_FFFF → l.offsetOk tvec.toNat = true →
      ∃ t g', exec (.trapEntry blk grp) s = .next t ∧ t.group? blk grp = some g'
        ∧ g'.cause = BitVec.ofNat 64 (a.cause.code + a.cause.rank * 2 ^ 16) ∧ g'.tmask = m.setWidth 64 ∧ g'.tstat = 3
        ∧ g'.tepc = BitVec.ofNat 64 (y.pc.toNat + (y.hdr.getD y.pc).toNat * 2 ^ 32)
        ∧ (a.fault = true → g'.faddr = a.faddr ∧ g'.fkind = a.fkind ∧ g'.fpc = a.fpc.setWidth 64)
        ∧ ∀ k, k < 32 → inMask m k = true → (g'.lane k).pc = tvec ∧ (g'.lane k).smt = (g.lane k).mt)
    ∧ (g.inTrap = true → (∀ r ∈ s.reqs, r.blk = blk → r.grp = grp → r.isHeld = false) →
      (∃ k, k < 32 ∧ inMask g.tmaskLanes k = true ∧ ∃ w, (g.lane k).st = .rejoin w) →
      (∀ k, k < 32 → inMask g.tmaskLanes k = true → (g.lane k).exited = true ∨ ∃ w, (g.lane k).st = .rejoin w
        ∧ (w = 0xFFFF_FFFF ∨ s.targetOk b.core l w.toNat = true)) →
      let t := g.tepc.extractLsb' 0 32
      let h := g.tepc.extractLsb' 32 32
      s.checkret b.core l h.toNat t.toNat = true →
      ∃ u g', exec (.rftRejoin blk grp) s = .next u ∧ u.group? blk grp = some g' ∧ g'.cause = 0 ∧ g'.tmask = 0 ∧ g'.tstat = 0
        ∧ s.cc + 12 ≤ g'.mayIssue ∧ g'.tepc = g.tepc ∧ g'.tvec = g.tvec ∧ g'.p = g.p ∧ g'.s = g.s
        ∧ ∀ k w, k < 32 → inMask g.tmaskLanes k = true → (g.lane k).st = .rejoin w →
          let x := g'.lane k
          x.pc = t ∧ x.mt = w ∧ x.smt = 0xFFFF_FFFF ∧ x.inTrap = false ∧ x.hdr = (if t = h then none else some h)
          ∧ x.st = (if t = h ∧ t = w then .held else .run) ∧ x.v = (g.lane k).v)

/-- R59 to R62, R79: an ISSUE_CYCLE of a quadrant not yet served in this cc ends with at most two chosen lane sets, both of
the group that the slot serves. With no cause to take, the first runnable set in the order of choice is chosen, of the unflagged
lanes' sets, or, when none of these can run, of all; when it issues an instruction, that is at the head of the issue list, and
the next set is behind it exactly when both instructions may share a cycle. The lane sets are the lanes of one PC, in or out of
the handler, by rising PC; the order of choice is that one, and starts with a set of the highest skip count once one has reached
32. The LANE_OVERDUE of a quadrant whose group holds an overdue lane is that same cycle; when every quadrant with a group has
been served, the next cc begins, unless an event that was to come in this one (R76, R274, R283, R284, R319, R339) has still to
come. -/
def Obligations.IssueCyclesChooseLaneSets : Prop :=
  (∀ (s : State) (core quad : Nat), s.cur = [] → core < 144 → quad < 4 → (core, quad) ∉ s.served →
    s.allServed s.served = false →
    ∃ t, exec (.issueCycle core quad) s = .next t ∧ t.cur.length ≤ 2
      ∧ (∀ i ∈ t.cur, ∃ b g, (s.clockGroups core quad).served? core quad = some (b, g) ∧ i.blk = b.id ∧ i.grp = g)
      ∧ (∀ b k l x rest i op, let u := s.clockGroups core quad
          let g := b.group k
          let c := u.cores[core]?.getD CoreSt.zero
          let served := { c with slot := c.slot.setIfInBounds quad (g.active.getD 0) }
          let v := { u with cores := u.cores.setIfInBounds core served }
          let runnable := fun (m : Mask) => (v.stands b l k m).filter fun x => x.2.runnable
          let free := runnable (maskOf fun n => inMask g.runLanes n && !(g.lane n).yielded)
          u.served? core quad = some (b, k) → u.launch? b.launch = some l → g.hasAfter = false →
          g.order (if free.isEmpty then runnable g.runLanes else free) = x :: rest → x.2 = .go i op →
          (∀ y j oq, rest.head? = some y → y.2 = .go j oq → pairs op = true → pairs oq = true →
            ∃ old, t.cur = [{ i with old := none }, { j with old := old }])
          ∧ ((∀ y j oq, rest.head? = some y → y.2 = .go j oq → (pairs op && pairs oq) = false) → t.cur = [{ i with old := none }]))
      ∧ (s.overdue core quad = true → exec (.laneOverdue core quad) s = .next t))
  ∧ (∀ (s : State) (core quad : Nat), s.cur = [] → s.allServed s.served = true →
    (s.due = true → exec (.issueCycle core quad) s = .next s)
    ∧ (s.due = false → ∃ t, exec (.issueCycle core quad) s = .next t ∧ t.cc = s.cc + 1
      ∧ t.time = s.time + (if s.fw.thermal.isSome then 2 else 1) ∧ t.served = [] ∧ t.cur = []
      ∧ t.mem = s.mem ∧ t.reqs = s.reqs))
  ∧ ∀ (g : Group) (xs : List (LaneSet × Stand)) (x : LaneSet × Stand) (rest : List (LaneSet × Stand)),
    let skip := fun (y : LaneSet × Stand) => ((lanesOf y.1.lanes).map fun l => (g.lane l).skip).foldl max 0
    (∀ m : Mask, (g.laneSets m).Pairwise (fun y z => y.pc.toNat ≤ z.pc.toNat)
      ∧ (∀ n, n < 32 → inMask m n = true → ∃ y ∈ g.laneSets m, inMask y.lanes n = true)
      ∧ (∀ y ∈ g.laneSets m, ∀ n, inMask y.lanes n = true →
          inMask m n = true ∧ (g.lane n).pc = y.pc ∧ (g.lane n).inTrap = y.inTrap)
      ∧ ∀ (s : State) (b : Block) (l : Launch) (k : Nat), b.group k = g → (s.stands b l k m).map (·.1) = g.laneSets m) ∧
    ((∀ y ∈ xs, skip y < 32) → g.order xs = xs)
    ∧ (g.order xs = x :: rest → (∃ y ∈ xs, 32 ≤ skip y) → x ∈ xs ∧ ∀ y ∈ xs, skip y ≤ skip x)

/-- R34, R138, R140, R143 to R145, R166, R175: SIFTER_ACCEPT of a request that may be accepted, when its line translates to
a page that allows it and nothing refuses it, puts it into an entry of its line, context, core and kind; SIFTER_ENTRY_SEND
closes and sends a closed entry for which the table has room, and SIFTER_WINDOW_EXPIRY one that has stood open for 32 cc.
LOAD_SECTOR_REPLY writes what a performed read has fetched to its registers and lets the request leave;
STORE_ACKNOWLEDGEMENT lets a performed store leave; BYTES_LAND puts the bytes of an LDDS into the scratchpad, after its
thread's earlier accesses to them, and counts them on its barrier object; MIRROR_STORE_LAND lands a mirror store in one more
copy of the cluster. -/
def Obligations.RequestsAreAcceptedAndAnswered : Prop :=
  (
    (∀ (s : State) (r : Req) (b : Block) (l : Launch) (c : Context) (pa key : Nat) (w xb : Bool), s.req? r.id = some r →
      s.mayAccept r = true → r.isAtomic = false → r.owner = none → s.block? r.blk = some b → s.launch? b.launch = some l →
      s.context? l.ctx = some c → (s.translate r.core c r.addr).1 = .ok pa key w xb → (r.needsW = true → w = true) →
      s.refusalOf c b.launch r (Xlat.addr pa r.addr) = none →
      (∀ e ∈ s.entries, e.core = r.core → e.ctx = c.id → e.line = r.addr / 128 →
        s.refusalOf c b.launch r (e.pa + r.addr % 128) = none) →
      ∃ t r' e, exec (.sifterAccept r.id) s = .next t ∧ t.req? r.id = some r' ∧ r'.phase = .accepted e.id ∧ e ∈ t.entries
        ∧ e.core = r.core ∧ e.ctx = c.id ∧ e.line = r.addr / 128 ∧ e.kind = r.entryKind ∧ r'.addr = r.addr
        ∧ r'.parts = r.parts ∧ t.mem = s.mem ∧ t.blocks = s.blocks)
    ∧ ∀ (s : State) (e : Entry), (s.entries.find? fun f => f.id == e.id) = some e → e.sent = false → e.kind ≠ .bank →
      s.tableUsed e.core < 1024 →
      (∀ f ∈ s.entries, f.id < e.id → f.core = e.core → f.ctx = e.ctx → f.line = e.line → f.kind ≠ .bank → f.sent = true) →
      let sent := { s with entries := s.entries.map fun f => if f.id = e.id then { f with closed := true, sent := true } else f }
      (e.closed = true → exec (.sifterEntrySend e.id) s = .next sent)
      ∧ (e.opened + 32 ≤ s.cc → exec (.sifterWindowExpiry e.id) s = .next sent))
  ∧ (
    ∀ (s : State) (r : Req), s.req? r.id = some r → r.phase = .done → r.unit = false →
      (r.fetches = true → r.kind ≠ .ldds → s.faultOf r = none → s.allPerformed r.acks = true →
        exec (.loadSectorReply r.id) s = .next ((s.landRead r).leaveReq r)
        ∧ ∀ g (d : Fin 128) p, r.kind = .load → s.group? r.blk r.grp = some g → r.dst = some d.val → r.sdst = none → r.size = 4 →
          r.parts = [p] → p.lane < 32 → p.res.length = 4 → (g.lane p.lane).cancelled = false →
          ∃ g', (s.landRead r).group? r.blk r.grp = some g' ∧ (g'.lane p.lane).vreg d = BitVec.ofNat 32 (ofLe p.res)
            ∧ (∀ q : Fin 128, q ≠ d → (g'.lane p.lane).vreg q = (g.lane p.lane).vreg q)
            ∧ ∀ k, k < 32 → k ≠ p.lane → g'.lane k = g.lane k)
      ∧ (r.fetches = false → (if r.owner = none then r.acks = [] else s.allPerformed r.acks = true) →
        exec (.storeAcknowledgement r.id) s = .next (s.leaveReq r))
      ∧ (∀ p, r.kind = .ldds → s.faultOf r = none → s.mayLand r = true → s.inImage r = false → r.parts = [p] →
        exec (.bytesLand r.id) s = .next ((s.modBlock r.blk fun (b : Block) =>
          b.setScratch (barLand (b.scratch.write r.bdst p.res) r.bar r.size)).leaveReq r))
      ∧ ∀ (i b : Nat) p, i < 16 → r.acks[i]? = some b → r.space = .mirror → r.parts = [p] →
        (∀ q ∈ s.reqs, q.space = .mirror → q.isStore = true → q.before r = true → q.isDone = true ∧ b ∉ q.acks) →
        exec (.mirrorStoreLand (16 * r.id + i)) s = .next ((s.modBlock b fun q =>
            { q with mirror := q.mirror.write r.addr p.data }).modReq r.id fun q => { q with acks := q.acks.filter (· != b) }))

/-- R143, R145, R156, R208: HOME_REQUEST of a sent entry that holds one request whose turn has come performs it at local
memory: a load takes the bytes there, at the version P that its line's home slice sees in a live region, and writes nothing;
a store outside every live region writes its bytes and no other; a bank request reads or writes its block's own store. -/
def Obligations.HomesPerformRequests : Prop :=
  ∀ (s : State) (e : Entry) (r : Req), (s.entries.find? fun f => f.id == e.id) = some e →
    s.inEntry e.id = [r] → r.phase = .accepted e.id → s.req? r.id = some r →
    (∀ pa : Nat, e.kind ≠ .bank → (∀ v, e.kind ≠ .vnld v ∧ e.kind ≠ .vnst v) → e.sent = true → s.homeReady e [r] = true →
      targetOf e.pa = .mem e.pa → pa = e.pa + r.addr % 128 → targetOf pa = .mem pa →
      (r.kind = .load → s.mem.poisoned pa r.size = false →
        let bs := s.mem.read (s.keySerial e.key) pa r.size
        let got := match (s.reachSlice e.ctx r.addr pa).regionAt e.ctx r.addr with
          | none => bs
          | some q => q.valueAt r.addr (q.copyAt pa).1 bs
        ∃ t r', exec (.homeRequest e.id) s = .next t ∧ t.req? r.id = some r' ∧ r'.phase = .done
          ∧ (∀ p ∈ r'.parts, p.res = got) ∧ r'.parts.length = r.parts.length ∧ t.mem = s.mem ∧ t.blocks = s.blocks)
      ∧ (r.kind = .store → s.mem.wf = true → s.regionAt e.ctx r.addr = none → ∀ p, r.parts = [p] →
        ∃ t r', exec (.homeRequest e.id) s = .next t ∧ t.req? r.id = some r' ∧ r'.phase = .done
          ∧ (∀ i, i < p.data.length → t.mem.get (s.keySerial e.key) (pa + i) = p.data.getD i 0)
          ∧ (∀ a, (a < pa ∨ pa + p.data.length ≤ a) →
              t.mem.get (s.keySerial e.key) a = s.mem.get (s.keySerial e.key) a)
          ∧ (∀ a k, (a < pa / 16 * 16 ∨ (pa + p.data.length + 15) / 16 * 16 ≤ a) → t.mem.get k a = s.mem.get k a)
          ∧ t.blocks = s.blocks))
    ∧ (∀ b : Block, e.kind = .bank → s.mayPerform r [] = true → s.mirrorHolds r = false → s.block? r.blk = some b →
      (r.kind = .load → r.space = .scratch →
        ∃ t r', exec (.homeRequest e.id) s = .next t ∧ t.req? r.id = some r' ∧ r'.phase = .done
          ∧ (∀ p ∈ r'.parts, p.res = b.scratch.read r.addr r.size) ∧ t.blocks = s.blocks ∧ t.mem = s.mem)
      ∧ (∀ p, r.kind = .store → r.space = .scratch → r.parts = [p] →
        ∃ t b', exec (.homeRequest e.id) s = .next t ∧ t.block? r.blk = some b'
          ∧ b'.scratch = barTouched (b.scratch.write r.addr p.data) r.addr r.size ∧ b'.a = b.a ∧ t.mem = s.mem)
      ∧ (∀ p, r.kind = .store → r.space = .abuf → r.parts = [p] →
        ∃ t b', exec (.homeRequest e.id) s = .next t ∧ t.block? r.blk = some b' ∧ b'.a = b.a.write r.addr p.data
          ∧ b'.scratch = b.scratch ∧ b'.groups = b.groups ∧ t.mem = s.mem))

/-- R206, R210, R211: bytes stored in version v of a region are what value(x, v) gives there, and every byte keeps its value
at the versions below v. -/
def Obligations.StoredVersionsRead : Prop :=
  ∀ (r : Region) (va v : Nat) (bs old : List Byte), v ≤ 0xFFFF_FFFF → (∀ x ∈ r.recs, x.ver ≤ 0xFFFF_FFFF) →
    (∀ x ∈ r.recs, ∀ y ∈ r.recs, x.line = y.line → x.ver = y.ver → x = y) →
    (old.length = bs.length → (r.store va v bs).valueAt va v old = bs)
    ∧ ∀ a u, u < v → (r.store va v bs).valueAt a u old = r.valueAt a u old

/-- R214, R216: reclamation changes value(x, v) for no v ≥ F, and leaves alone a line whose published value a blocked VNLD
still waits for. -/
def Obligations.ReclamationKeepsValues : Prop :=
  ∀ (s : State) (region line : Nat) (r : Region), s.region? (region / 256) (region % 256) = some r →
    (∀ x ∈ r.recs, x.ver ≤ 0xFFFF_FFFF) → (∀ x ∈ r.recs, ∀ y ∈ r.recs, x.line = y.line → x.ver = y.ver → x = y) →
    (s.owesLine r line = true → exec (.reclamation region line) s = .next s)
    ∧ (s.owesLine r line = false →
      ∃ t r', exec (.reclamation region line) s = .next t ∧ t.region? (region / 256) (region % 256) = some r'
        ∧ r'.pub = r.pub ∧ r'.floor = r.floor ∧ r.free ≤ r'.free ∧ r'.free + r'.recs.length = r.free + r.recs.length
        ∧ (r.free < r'.free → r'.signal = true)
        ∧ (∀ va v old, r.floor ≤ v → r'.valueAt va v old = r.valueAt va v old) ∧ t.mem = s.mem ∧ t.blocks = s.blocks)

/-- R34, R144, R206, R211 to R214, R216, R236, R255, R256, R259, R260: at a home slice whose turn has come, with the copies
of P and F that the slice sees when the line arrives, a VNST line of an open version is stored in its version while the pool
has records for it; a VNLD line of a version F ≤ v ≤ P is answered with the values of that version, one above P is blocked
while the slice's wait list has room and is told to retry else; a blocked line is answered with its value when P has reached
its version, and one told to retry is sent again after 256 cc, when its core's table has room; POOL_RETRY, when reclamation
has freed records, stores a held line of a block that is not saved at a slice that has acknowledged P and F. REGISTRATION
passes a version with P < v ≤ top(F) and raises engines[v], and for one of a merge or a rehash the home then carries it out
and answers, a rehash while its cursor, as it stands then, has that many ids left; PUBLICATION_POINT sets P to the next
version when the accesses before it are performed and engines[v] = 0; PROBE_VERSION_WAKE lets a probe go on when P has
reached its version; RESULT_LAND of a computed result writes it to its registers, which are pending no more. -/
def Obligations.VersionEventsAct : Prop :=
  (
    ∀ (s : State) (e : Entry) (r : Req) (v : Nat), (s.entries.find? fun f => f.id == e.id) = some e →
      s.inEntry e.id = [r] → s.req? r.id = some r →
      let pa := e.pa + r.addr % 128
      let old := s.mem.read (s.keySerial e.key) pa r.size
      let answers := fun (i : Instr) (g : Region) => ∃ t r', exec i s = .next t ∧ t.req? r.id = some r' ∧ r'.phase = .done
        ∧ (∀ p ∈ r'.parts, p.res = g.valueAt r.addr v old) ∧ t.mem = s.mem ∧ t.blocks = s.blocks
      (∀ g : Region, (s.reachSlice e.ctx (128 * e.line) e.pa).regionAt e.ctx (128 * e.line) = some g →
        (s.reachSlice e.ctx (128 * e.line) e.pa).region? g.launch g.num = some g →
        e.sent = true → r.phase = .accepted e.id → s.homeReady e [r] = true →
        (e.kind = .vnst v → (g.copyAt e.pa).1 < v → v ≤ g.topOf (g.copyAt e.pa).2 →
          ∀ p q, r.parts = [p] → (g.store r.addr v p.data).charge g = some q →
          ∃ t r', exec (.vnstApply e.id) s = .next t ∧ t.region? g.launch g.num = some q ∧ t.req? r.id = some r'
            ∧ r'.phase = .done ∧ t.mem = s.mem ∧ t.blocks = s.blocks)
        ∧ (e.kind = .vnld v → (g.copyAt e.pa).2 ≤ v →
          (v ≤ (g.copyAt e.pa).1 → s.mem.poisoned pa r.size = false → answers (.vnldHome e.id) g)
          ∧ ((g.copyAt e.pa).1 < v → ∃ t r', exec (.vnldHome e.id) s = .next t ∧ t.req? r.id = some r'
              ∧ r'.phase = (if s.waitListed (sliceOf e.pa) < 512 then .blocked e.id else .retry e.id s.cc) ∧ t.mem = s.mem)))
      ∧ (∀ g : Region, s.regionAt e.ctx (128 * e.line) = some g → s.region? g.launch g.num = some g →
        g.copyAt e.pa = (g.pub, g.floor) → g.signal = true → e.kind = .vnst v → r.phase = .held e.id →
        s.inImage r = false → g.pub < v → v ≤ g.top →
        s.entries = [e] → s.cmds = [] →
        ∀ p q, r.parts = [p] → (({ g with signal := false } : Region).store r.addr v p.data).charge { g with signal := false } = some q →
        g.holds (128 * e.line) = true → g.ctx = e.ctx → g.num < 256 →
        ∃ t r', exec (.poolRetry (256 * g.launch + g.num)) s = .next t ∧ t.region? g.launch g.num = some q
          ∧ t.req? r.id = some r' ∧ r'.phase = .done)
      ∧ (∀ g : Region, s.regionAt e.ctx (128 * e.line) = some g → e.kind = .vnld v → r.phase = .blocked e.id → v ≤ g.pub →
        s.mem.poisoned pa r.size = false → answers (.vnldWake e.id) g)
      ∧ ∀ n, r.phase = .retry e.id n → n + 256 ≤ s.cc → s.tableUsed e.core < 1024 →
        ∃ t r', exec (.vnldRetry e.id) s = .next t ∧ t.req? r.id = some r' ∧ r'.phase = .accepted e.id)
  ∧ (
    ∀ (s : State),
      (∀ (h : HomeReq) (r : Region), (s.home.find? fun x => x.id == h.id && x.reg && x.ans.isNone) = some h →
        s.region? h.launch h.region = some r →
        (h.done = false → r.pub < h.ver → h.ver ≤ r.top → r.enginesOf h.ver < 65535 →
          ∃ t r', exec (.registration h.id) s = .next t ∧ t.region? h.launch h.region = some r' ∧ r'.pub = r.pub
            ∧ r'.engines = assocPut r.engines h.ver (r.enginesOf h.ver + 1) ∧ { h with done := true } ∈ t.home)
        ∧ (h.done = true → (∃ g k, s.group? h.blk h.grp = some g ∧ k < 32 ∧ inMask h.takers k = true ∧ (g.lane k).exited = false) →
          (∀ f, h.op = .merge f → Lines.mergePoison ⟨s, r, h.ver⟩ f = none →
            ∀ w d why ev u, Lines.merge ⟨s, r, h.ver⟩ f = some (w, d, why, ev) → s.landUpdate r w h.ver = some u →
            exec (.registration h.id) s =
              .next (u.modHome h.id fun _ => { h with ans := some ⟨none, d, why.head?, ev, why.length⟩ }))
          ∧ (∀ old new rows, h.op = .rehash old new rows → Lines.headPoison ⟨s, r, h.ver⟩ old = none →
            Lines.cursor ⟨s, r, h.ver⟩ old + rows.length ≤ old.maxid → Lines.rehashPoison ⟨s, r, h.ver⟩ old new rows = none →
            ∀ w d why ev u, Lines.rehash ⟨s, r, h.ver⟩ old new rows = some (w, d, why, ev) → s.landUpdate r w h.ver = some u →
            exec (.registration h.id) s = .next (u.modHome h.id fun _ =>
              { h with ans := some ⟨none, d, why, ev, if why.isSome then 1 else 0⟩ }))))
      ∧ (∀ (h : HomeReq) (r : Region), (s.home.find? fun x => x.id == h.id && decide (x.op = .publish) && !x.done) = some h →
        s.region? h.launch h.region = some r → s.quiet h.blk h.grp h.takers 4 = true →
        (∀ q ∈ s.reqs, q.id ∈ h.waits → q.phase = .done) → h.ver = r.pub + 1 → h.ver ≤ r.top → r.enginesOf h.ver = 0 →
        (∃ g k, s.group? h.blk h.grp = some g ∧ k < 32 ∧ inMask h.takers k = true ∧ (g.lane k).exited = false) →
        ∃ t r', exec (.publicationPoint h.id) s = .next t ∧ t.region? h.launch h.region = some r' ∧ r'.pub = h.ver
          ∧ r'.floor = r.floor ∧ r'.recs = r.recs ∧ { h with done := true } ∈ t.home ∧ t.mem = s.mem ∧ t.blocks = s.blocks)
      ∧ (∀ (p : Probe) (b : Block) (r : Region), (s.probes.find? fun q => q.id == p.id) = some p → s.block? p.blk = some b →
        b.st ≠ .saved → s.region? b.launch (FamImg.region (p.fam[0]?.getD (Vector.replicate 8 0))) = some r → bitsOf p.par.toNat 31 0 ≤ r.pub →
        exec (.probeVersionWake p.id) s =
          .next { s with probes := s.probes.map fun q => if q.id = p.id then { q with ready := true } else q })
      ∧ ∀ (blk grp l : Nat) (g : Group) (d : Fin 128) (w : W32) (i : Insn), s.group? blk grp = some g →
        (s.probes.find? fun p => p.id == i.id && p.blk == blk && p.grp == grp) = none →
        (g.insns.find? fun j => j.id == i.id) = some i → i.timed = true → s.insnBusy blk grp i.id = false → l < 32 →
        i.writes = [(.v d.val l, w.setWidth 64)] → i.ctr = .none → (g.lane l).cancelled = false →
        ∃ t g', exec (.resultLand blk grp i.id) s = .next t ∧ t.group? blk grp = some g' ∧ (g'.lane l).vreg d = w
          ∧ (∀ r : Fin 128, r ≠ d → (g'.lane l).vreg r = (g.lane l).vreg r) ∧ (∀ k, k < 32 → k ≠ l → g'.lane k = g.lane k)
          ∧ g'.insns = g.insns.filter (fun j => j.id != i.id) ∧ g'.lc = g.lc ∧ g'.sc = g.sc ∧ g'.mc = g.mc)

/-- R80 to R84, R315, R319 to R323: QUEUE_AGING ages a head that has stood 400 µs; BLOCK_ADMISSION admits the head launch's
next unit where there is room for it; IDLE_SAVE begins to save a cluster whose threads have waited over 20 µs;
PREEMPTION_FOR_ROOM begins to save the fewest blocks that make room; BLOCK_SAVE of a block that has drained and to which
nothing is in flight, within 10 µs of that, writes its image, as the saved block gives it, to its place in memory under its
context's key, and frees its core; SAVE_TIMEOUT kills when 10 µs have passed since it drained; BLOCK_COMPLETION and
LAUNCH_COMPLETION release what is done; LAUNCH_KILL stops a launch for a report of R312, with a block that has not
completed, and a report of SAVE_FAULT names the poisoned sector of the image, if there is one (the address is a free value
else, log 5). That the handles, families and shares are the saved block's own is the model's reading (log 39).
BLOCK_RESTORATION of the saved block at the head of the queues, of a cluster of one and with no held line, with a core and
the energy for it and no error in its image, puts it on that core as its image in memory gives it, its scratchpad from the
bytes after the group areas and the matrix buffers; its handles and families, which no image holds a place for, stay as they
were (the model's reading, log 39); one saved under R83 is queued when something that it waited for has come. -/
def Obligations.BlockAndLaunchEvents : Prop :=
  (
    ∀ (s : State),
      (∀ (q : Nat) (x : QItem) (n : Nat), q < 4 → s.noteHeads.fw.heads[q]? = some (some (x, n)) → n + micros 400 ≤ s.time →
        ∃ t, exec (.queueAging q) s = .next t ∧ x ∈ t.fw.aged ∧ t.blocks = s.blocks ∧ t.mem = s.mem)
      ∧ (∀ (l : Launch) (x : QItem) (cs is : List Nat), s.noteHeads.headLaunch = some (l, x) → s.admitting = true →
        let ps := l.lr.unit l.next
        s.noteHeads.room l ps.length ((ps.map fun p => l.lr.estimate p.2.2.2).foldl (· + ·) 0) [] = some (cs, is) →
        (∀ m ∈ s.fw.launches, m.id = l.id → m = l) →
        cs.length = ps.length → is.length = ps.length →
        ∃ t, exec .blockAdmission s = .next t ∧ t.blocks.length = s.blocks.length + ps.length
          ∧ (∀ b ∈ s.blocks, b ∈ t.blocks) ∧ (∀ m ∈ t.fw.launches, m.id = l.id → m.next = l.next + 1)
          ∧ ∀ k, k < ps.length → ∃ b ∈ t.blocks, b.launch = l.id ∧ b.core = cs.getD k 0
            ∧ (b.x, b.y, b.z, b.stage) = ps.getD k (0, 0, 0, 0))
      ∧ (∀ b : Block, s.block? b.id = some b → (∀ m ∈ s.members b, s.idleLong m = true) →
        exec (.idleSave b.id) s = .next (s.beginSave b true))
      ∧ (∀ (prio n est : Nat) (x : QItem) (l : Launch) (vs : List Block), s.noteHeads.nextItem = some (prio, x) →
        s.noteHeads.headNeeds = some (l, n, est) → s.admitting = true → s.noteHeads.roomWithout l n [] = false →
        (∀ b ∈ s.blocks, b.running = true ∨ b.onCore = false) →
        leastBy (fun (vs : List Block) => vs.length)
          ((List.range 144).map fun c => (s.noteHeads.savesOn l n c prio).toList).flatten = some vs →
        exec .preemptionForRoom s = .next (vs.foldl (fun (t : State) b => t.beginSave b false) s.noteHeads)
        ∧ s.noteHeads.roomWithout l n (vs.map (·.id)) = true)
      ∧ (∀ (b : Block) (l : Launch) (n : Nat) (idle : Bool), s.block? b.id = some b → s.launch? b.launch = some l →
        b.st = .saving n idle →
        let flying := s.inFlight b || (s.members b).any s.mirrorsOut
        (s.complete b = false → s.drained b = true → flying = false → s.time < n + micros 10 →
          ∃ t b', exec (.blockSave b.id) s = .next t ∧ t.block? b.id = some b' ∧ b'.st = .saved ∧ b'.savers = [] ∧ b'.credit = 0
            ∧ (let u := (s.withdraw b).saveQueue b
              let key := u.keySerial (((u.context? l.ctx).map (·.key)).getD 0)
              ∃ seed, let image := b'.image l.lr (fun i => ((List.range b.groups.length).map (s.waiting b)).getD i 0) seed
                t.mem = (u.mem.write key b'.imageAt image).unpoison b'.imageAt image.length)
            ∧ b'.scratch = b.scratch ∧ b'.w = b.w ∧ b'.a = b.a ∧ b'.c = b.c ∧ b'.groups.length = b.groups.length
            ∧ (idle = false → QItem.block b.id ∈ (t.fw.queues[l.lr.prio]?.getD [] : List QItem) ∨ 4 ≤ l.lr.prio))
        ∧ (s.complete b = true → s.drained b = true → flying = false → s.time < n + micros 10 → exec (.blockSave b.id) s = .next (s.completeBlock b))
        ∧ (n + micros 10 ≤ s.time → s.drained b = true →
          exec (.saveTimeout b.id) s = .next (s.kill b.launch b.id 0 0x304)))
      ∧ (∀ b : Block, s.block? b.id = some b → b.st = .resident → s.complete b = true →
        exec (.blockCompletion b.id) s = .next (s.completeBlock b) ∧ (s.completeBlock b).block? b.id = none
        ∧ ∀ k, k ≠ b.id → (s.completeBlock b).block? k = s.block? k)
      ∧ (∀ l : Launch, s.launch? l.id = some l → (l.killed.isSome = true ∨ l.left = 0) → (∀ b ∈ s.blocks, b.launch ≠ l.id) →
        (∀ k ∈ s.cmds, k.launch ≠ l.id) → (∀ h ∈ s.home, h.launch ≠ l.id) → s.offersTo l = false →
        ∃ t, exec (.launchCompletion l.id) s = .next t ∧ t.launch? l.id = none ∧ t.blocks = s.blocks)
      ∧ ∀ (b : Block) (grp code : Nat), s.block? b.id = some b →
        (code ∈ [0x303, 0x304, 0x306, 0x3F2, 0x3F3] → exec (.launchKill b.id grp code) s = .next (s.kill b.launch b.id grp code))
        ∧ ∀ l, s.launch? b.launch = some l →
          (∃ pa, exec (.launchKill b.id grp 0x305) s =
              .next (({ s with free := s.free + 1 } : State).kill b.launch b.id grp 0x305 [BitVec.ofNat 64 pa])
            ∧ ∀ q, s.mem.poisonAt b.imageAt l.lr.imageBytes = some q → pa = q)
          ∧ (s.complete b = false → ∀ more, ∀ x ∈ (s.kill b.launch b.id grp code more).blocks, x.launch ≠ b.launch))
  ∧ (
    ∀ (s : State) (b : Block) (l : Launch) (c : Context) (core : Nat), s.noteHeads.block? b.id = some b →
      s.launch? b.launch = some l → s.context? l.ctx = some c → b.st = .saved → s.noteHeads.members b = [b] →
      let u := s.noteHeads
      let queued := (List.range 4).any fun i => (u.queue i).contains (.block b.id)
      let image := s.mem.read (s.keySerial c.key) b.imageAt l.lr.imageBytes
      let b0 := b.ofImage l.lr image
      (queued = true → s.admitting = true → u.nextItem.map (·.2) = some (.block b.id) →
        (∀ r ∈ s.reqs, r.blk = b.id → r.isHeld = false) →
        s.mem.poisoned b.imageAt l.lr.imageBytes = false → u.placeOn l.lr 1 [] = some [core] →
        c.used + l.lr.estimate b.stage ≤ c.budget → (∀ g ∈ b0.groups, ∀ k, k < 32 → (g.lane k).ben = false) →
        ∃ t b', exec (.blockRestoration b.id) s = .next t ∧ t.block? b.id = some b' ∧ b'.st = .resident ∧ b'.core = core
          ∧ b'.core0 = b.core0 ∧ b'.scratch = b0.scratch ∧ b'.mirror = b0.mirror ∧ b'.w = b0.w ∧ b'.a = b0.a ∧ b'.c = b0.c
          ∧ b'.scratch = .ofBytes ((image.drop
              (0x1000 + 0x9000 * b.groups.length + if l.lr.matrix then 0x3A000 else 0)).take l.lr.scratch)
          ∧ b'.th = b.th ∧ b'.hf = b.hf ∧ b'.groups.length = b.groups.length
          ∧ ∀ i, i < b.groups.length → (b'.group i).s = (b0.group i).s ∧ (b'.group i).p = (b0.group i).p
            ∧ ∀ k, k < 32 → ((b'.group i).lane k).v = ((b0.group i).lane k).v
              ∧ ((b'.group i).lane k).pc = ((b0.group i).lane k).pc ∧ ((b'.group i).lane k).mt = ((b0.group i).lane k).mt)
      ∧ (queued = false → s.noteHeads.awake b = true →
        exec (.blockRestoration b.id) s = .next (u.enqueueItem l.lr.prio (.block b.id))))

/-- R183, R190, R197 to R200: MATRIX_ACCEPT sends for the source sectors that the oldest ready TLD of its core still needs,
as loads of its lanes, and performs one whose whole source has come, into W with flag bit 0 clear; MATRIX_RETIRE takes the
oldest performed operation of its core out of the queue, with the bytes of a TLD in the A share, and leaves W, C and the
other blocks. When every listed group's lane set waits at the latch with agreeing instructions, no check raises a cause and
the engine can take the operation, GANG_RENDEZVOUS issues one operation with the rows of all of them: the member of rank j
gives, for each of its guard-true lanes i that is no helper, row 32·j + i with that lane's A words; when their instructions
differ and nothing else is wrong, every member takes GANG_MISMATCH; a matrix and handle cause of one member, of the lowest
rank among all of theirs, is raised in every member; when every thread of a listed group has exited, GANG_MEMBER_EXITED
traps those that wait for it. -/
def Obligations.MatrixQueueAndGangs : Prop :=
  (
    ∀ (s : State) (core : Nat),
      (∀ (o : MtxOp) (grp insn : Nat) (m : Mask) (is : List (Nat × Nat)) (ls : List (Nat × Mask)),
        (s.mtxq.find? fun q => q.core == core && (q.tldReady || q.tldWhole s.mtxq)) = some o → o.tldReady = true →
        o.insns = (grp, insn) :: is → o.lanes = (grp, m) :: ls →
        ∃ t rs, exec (.matrixAccept core) s = .next t ∧ t.reqs = s.reqs ++ rs ∧ rs ≠ []
          ∧ (∀ r ∈ rs, r.kind = .load ∧ r.space = .global ∧ r.size = 32 ∧ r.addr % 32 = 0 ∧ r.unit = true ∧ r.insn = insn
            ∧ r.threads = m ∧ r.addr / 32 ∈ o.needs ∧ r.addr / 32 ∉ o.asked)
          ∧ (∀ n ∈ o.needs, n ∉ o.asked → ∃ r ∈ rs, r.addr = 32 * n) ∧ t.blocks = s.blocks ∧ t.mem = s.mem)
      ∧ (∀ (o : MtxOp) (b : Block),
        (s.mtxq.find? fun q => q.core == core && (q.tldReady || q.tldWhole s.mtxq)) = some o → o.tldReady = false →
        s.block? o.blk = some b → (∀ q ∈ s.mtxq, q.id ≠ o.id → q.blk ≠ o.blk) → bitOf o.flags 0 = false →
        (∀ r, some r ∈ o.srcRows → r < o.h.rows) →
        ∃ t b', exec (.matrixAccept core) s = .next t ∧ t.block? o.blk = some b'
          ∧ b'.w = o.tldRuns.foldl (fun m r => m.write r.1 r.2) b.w ∧ b'.a = b.a ∧ b'.c = b.c ∧ b'.groups = b.groups
          ∧ t.reqs = s.reqs ∧ t.mem = s.mem)
      ∧ ∀ (o : MtxOp) (b : Block), (s.mtxq.find? fun q => q.core == core && q.started) = some o → s.block? o.blk = some b →
        (∀ q ∈ s.mtxq, q.id ≠ o.id → q.blk ≠ o.blk) →
        ∃ t b', exec (.matrixRetire core) s = .next t ∧ (∀ q ∈ t.mtxq, q.id ≠ o.id) ∧ t.block? o.blk = some b'
          ∧ b'.a = o.aBytes.foldl (fun m r => m.write r.1 r.2) b.a ∧ b'.w = b.w ∧ b'.c = b.c ∧ b'.shadows = b.shadows
          ∧ b'.scratch = b.scratch ∧ (∀ k, k ≠ o.blk → t.block? k = s.block? k))
  ∧ (
    ∀ (s : State) (blk : Nat) (gang : W16) (b : Block) (l : Launch) (w : Waiting) (ws : List Waiting),
      s.block? blk = some b → s.launch? b.launch = some l → b.st = .resident →
      let gs := gangList gang
      let all := (gs.map fun i => (s.waitingAt b l i).toList).flatten
      let raises := fun (k : Cause) (xs : List Waiting) => s.gangRaise b (xs.map fun x => (x, k))
      let clean := fun (v : Waiting) =>
        (∀ q ∈ mmaCauses b l.lr v.shadow (l.lr.slot v.m.x.slot.toNat) (mmaSlotB b l.lr v.m.x) (mmaHandle b v.m.x) v.sh all.length,
          q.1 = false)
        ∧ (∀ q ∈ (b.group v.m.grp).aCauses v.m.x.a.vnum v.m.x.slot.toNat (v.sh.getD 1 0), q.1 = false)
        ∧ aPast v.m.x.a.vnum (l.lr.slot v.m.x.slot.toNat) (v.sh.getD 1 0) = false
      ((∀ i ∈ gs, (b.group i).atLatch ≠ 0) → (∃ i ∈ gs, (b.group i).gang = gang) → all = w :: ws → all.length = gs.length →
        s.shadowBusy blk = false → (∀ v ∈ all, v.pend = false ∧ s.latchBusy blk v.m.grp = false) →
        ((∃ v ∈ all, v.agrees w = false) → (∀ v ∈ all, clean v) →
          exec (.gangRendezvous blk gang) s = .next (raises .gangMismatch all))
        ∧ (∀ (k : Cause) (v : Waiting), v ∈ all → k ∈ v.causes b l.lr all.length → 30 ≤ k.rank → k.rank ≤ 41 →
          (∀ u ∈ all, ∀ c ∈ u.causes b l.lr all.length, k.rank ≤ c.rank) → (∀ u ∈ all, u.agrees w = true) →
          exec (.gangRendezvous blk gang) s = .next (raises k all))
        ∧ ((∀ v ∈ all, v.agrees w = true) → (∀ v ∈ all, clean v) → s.mtxFull b.core = false →
          (∀ v ∈ all, v.ok = true ∧ s.abufQuiet blk v.m.grp = true ∧ (b.group v.m.grp).mc < 255) →
          ∃ t, exec (.gangRendezvous blk gang) s = .next t ∧ (∃ o ∈ t.mtxq, o.id = s.nextId ∧ o.blk = blk
              ∧ o.kind = .mma w.shadow ∧ o.insns.map (·.1) = all.map (·.m.grp)
              ∧ o.rows = (all.zipIdx.map fun p =>
                  ((lanesOf p.1.m.on).filter fun i => !((b.group p.1.m.grp).lane i).helper).map fun i =>
                    (32 * p.2 + i, (b.group p.1.m.grp).aWords p.1.m.x.a.vnum
                      (aRegs (l.lr.slot w.m.x.slot.toNat) (w.sh.getD 1 0)) i)).flatten)
            ∧ t.mem = s.mem))
      ∧ ((∃ i ∈ gs, (b.group i).live = 0) →
        let held := (gs.map fun i =>
          if (b.group i).gang == gang && (b.group i).atLatch != 0 then (s.waitingAt b l i).toList else []).flatten
        held ≠ [] → exec (.gangMemberExited blk gang) s = .next (raises .gangMemberExited held)))

/-- R227, R231, R235, R236, R239, R262, R347: commands of a queue start in order, one to peers with its share of each window and a demand
for the rest;
a piece of a COPY, FILL or REDCOPY, that lies in one line of global memory at a local home, is written as R235 gives, and
one from the scratchpad to a local buffer is on its way; an INSERT, DELETE or MERGE goes on with its next id; a finished
command performs its completion action, VER that of its registration: engines[v] falls by 1, WORD a store to the
scratchpad or to global memory, and leaves; a stopped one does none of it, but its engines[v] and its group's EC fall too, and
it leaves its cause with its group, or with the launch's completion status when no thread of that group is left to take it. That
a command's cause goes to the lanes that pushed it or else to the others of its group, never to a helper, and that the epoch of
the slot tells a task group from its successors, is the model's reading (log 36). -/
def Obligations.EngineCommandsRun : Prop :=
  ∀ (s : State) (k : Cmd), s.cmd? k.id = some k →
    let settled := ∀ l, s.launch? k.launch = some l → l.stopping = none
    let without := fun (r : Region) (v : Nat) => { r with engines := assocPut r.engines v (assocGet r.engines v - 1) }
    (k.started = false → (∀ q ∈ s.cmds, q.id < k.id → q.inQueue k.core k.queue = true → q.started = true ∧ k.w.fence = false) →
      ∃ t q, exec (.engineCommandStart k.id) s = .next t ∧ q ∈ t.cmds ∧ q.id = k.id ∧ q.started = true ∧ q.todo = k.todo
        ∧ t.mem = s.mem
        ∧ (k.queue = 5 ∨ k.w.dspace ≠ 0 ∨ s.peersOf k k.todo = [] → q = { k with started := true })
        ∧ (k.queue ≠ 5 → k.w.dspace = 0 →
          let u := if k.w.op = 3 then redBytes k.w.rfmt else 1
          let unused := fun (d : Nat) => (16384 - (s.pace d).unsol) / u * u
          q.far = k.far ++ (s.peersOf k k.todo).map (fun d => ⟨d, min (s.boundFor k k.todo d) (unused d), (s.pace d).demand, 0⟩)
          ∧ ∀ d ∈ s.peersOf k k.todo, d < s.fab.pace.size → d ∉ s.fab.lost →
            (t.pace d).demand = (s.pace d).demand + (s.boundFor k k.todo d - unused d)))
    ∧ (∀ (row lo len pa spa key skey : Nat) (bs : List Byte) (s1 s2 t : State), k.w.sspace = 0 → k.w.dspace = 0 →
      s.mayMove k row lo len = true →
      let va := k.w.dst + row * k.w.dpitch + lo
      let src := k.w.src + row * k.w.spitch + lo
      s.reach k src len false = (.at spa skey, s1) → s.engineRead k src len = .ok (bs, s2) →
      (s2.modCmd k.id fun q => q.take row lo len).reach k va len true = (.at pa key, t) → targetOf pa = .mem pa →
      t.regionAt k.ctx va = none → bs.length = len →
      let put := fun (out : List Byte) => (t.mem.write (t.keySerial key) pa out).unpoison pa out.length
      (k.w.op = 1 → ∃ v, exec (.copyCommand k.id row lo len) s = .next v ∧ v.mem = put bs)
      ∧ (k.w.op = 3 → s.peerOf k.ctx va = none → t.mem.poisoned pa len = false →
        ∃ v, exec (.redcopy k.id row lo len) s = .next v
          ∧ v.mem = put (redBytesInto k.w.rfmt k.w.rop (t.mem.read (t.keySerial key) pa len) bs)))
    ∧ (∀ (row lo len pa key : Nat) (t : State), k.w.op = 2 → s.mayMove k row lo len = true → k.w.dspace = 0 →
      let va := k.w.dst + row * k.w.dpitch + lo
      let u := s.modCmd k.id fun q => q.take row lo len
      u.reach k va len true = (.at pa key, t) → targetOf pa = .mem pa → s.regionAt k.ctx va = none → t.mem = s.mem →
      t.regions = s.regions →
      ∃ v, exec (.fill k.id row lo len) s = .next v ∧ v.mem = ((s.mem.write (t.keySerial key) pa ((List.range len).map fun i =>
          BitVec.ofNat 8 (k.w.src >>> (8 * ((lo + i) % 8))))).unpoison pa len))
    ∧ (∀ (row lo len : Nat) (b : Block), s.mayMove k row lo len = true → k.w.sspace = 1 → k.w.dspace ≠ 0 →
      s.block? k.blk = some b →
      let piece := (s.nextId, row, lo, len, b.scratch.read (k.w.src + row * k.w.spitch + lo) len)
      let fetches := fun (i : Instr) => ∃ v q, exec i s = .next v ∧ q ∈ v.cmds ∧ q.id = k.id ∧ q.flight = k.flight ++ [piece]
        ∧ v.mem = s.mem
      (k.w.op = 1 → fetches (.copyCommand k.id row lo len))
      ∧ (k.w.op = 3 → s.peerOf k.ctx (k.w.dst + row * k.w.dpitch + lo) = none → fetches (.redcopy k.id row lo len)))
    ∧ (∀ (fs : List FamImg) (num v : Nat) (r r2 : Region) (t : State) (ib : List Byte) (w : Lines), k.hxReady 0x11 = true →
      k.fams = some fs → k.regs = [(num, v)] → s.region? k.launch num = some r →
      s.engineRead k (k.w.src + 4 * k.next) 4 = .ok (ib, t) → (∀ f ∈ fs, ofLe ib < f.maxid) →
      Lines.reserve ⟨t, r, v⟩ fs (ofLe ib) none = .ok w → w.r.charge r = some r2 →
      exec (.delete k.id) s = .next (State.hxNext (t.modRegion r.launch r.num fun q =>
        { q with recs := r2.recs, free := r2.free }) k []))
    ∧ (∀ (fs : List FamImg) (num v : Nat) (r r2 : Region) (t u : State) (ib cb : List Byte) (w : Lines),
      k.hxReady 0x10 = true → k.fams = some fs → k.regs = [(num, v)] → s.region? k.launch num = some r →
      let n := (fs.map FamImg.tables).foldl (· + ·) 0
      s.engineRead k (k.w.src + 4 * k.next) 4 = .ok (ib, t) → t.engineRead k (k.w.dst + 8 * k.next * n) (8 * n) = .ok (cb, u) →
      (∀ f ∈ fs, ofLe ib < f.maxid) →
      Lines.reserve ⟨u, r, v⟩ fs (ofLe ib) (some ((List.range n).map fun i => ofLe ((cb.drop (8 * i)).take 4))) = .ok w →
      w.r.charge r = some r2 →
      exec (.insert k.id) s = .next (State.hxNext (u.modRegion r.launch r.num fun q =>
        { q with recs := r2.recs, free := r2.free }) k []))
    ∧ (∀ (f : FamImg) (num v d ev : Nat) (r r2 : Region) (w : Lines) (why : List (Cause × Nat)),
      k.hxReady 0x12 = true → k.hf[0] = f → k.regs = [(num, v)] → s.region? k.launch num = some r →
      Lines.mergePoison ⟨s, r, v⟩ f = none →
      Lines.merge ⟨s, r, v⟩ f = some (w, d, why, ev) → w.r.charge r = some r2 →
      exec (.merge k.id) s = .next (State.hxNext (s.modRegion r.launch r.num fun q =>
        { q with recs := r2.recs, free := r2.free }) k [0, 0, 0, 0, 0, 0, ev, why.length, 0]))
    ∧ (k.finished = true → k.w.mode ≠ 3 → (∀ b, s.block? k.blk = some b → b.st ≠ .saved) → settled →
      ∃ t, exec (.engineCommandCompletion k.id) s = .next t ∧ (∀ q ∈ t.cmds, q.id ≠ k.id) ∧ t.mem = s.mem
        ∧ (∀ num v r, k.regs = [(num, v)] → s.region? k.launch num = some r → t.region? k.launch num = some (without r v))
        ∧ ∀ b g, s.block? k.blk = some b → b.groups[k.grp]? = some g →
          ∃ g', t.group? k.blk k.grp = some g' ∧ g'.ec = (if k.w.track = true then g.ec - 1 else g.ec))
    ∧ (k.finished = true → k.w.mode = 3 → k.w.wspace = 1 → k.wordWait = false → ∀ b, s.block? k.blk = some b →
      ∃ t b', exec (.engineCommandCompletion k.id) s = .next t ∧ (∀ q ∈ t.cmds, q.id ≠ k.id) ∧ t.block? k.blk = some b'
        ∧ b'.scratch = barTouched (b.scratch.write k.w.ctarget (leBytes 8 (k.w.n 6))) k.w.ctarget 8)
    ∧ (∀ (pa key : Nat) (u : State), k.finished = true → k.w.mode = 3 → k.w.wspace ≠ 1 → k.wordWait = false →
      s.reach k k.w.ctarget 8 true = (.at pa key, u) → targetOf pa = .mem pa → u.inRegion k.ctx k.w.ctarget pa = false →
      (∀ b, s.block? k.blk = some b → b.st ≠ .saved) → settled →
      ∃ t, exec (.engineCommandCompletion k.id) s = .next t ∧ (∀ q ∈ t.cmds, q.id ≠ k.id)
        ∧ t.mem = (u.mem.write (u.keySerial key) pa (leBytes 8 (k.w.n 6))).unpoison pa 8)
    ∧ ∀ (c : Cause) (va : Nat) (kind : W64) (g : Group), k.fail = some (c, va, kind) → s.group? k.blk k.grp = some g →
      (∀ b, s.block? k.blk = some b → b.st ≠ .saved) → settled →
      let free := fun (m : Mask) => maskOf fun l => inMask m l && inMask g.live l && !(g.lane l).helper
      let take := if free k.threads ≠ 0 then free k.threads else free g.live
      ∃ t, exec (.engineCommandStop k.id) s = .next t ∧ (∀ q ∈ t.cmds, q.id ≠ k.id) ∧ t.mem = s.mem
        ∧ (∀ num v r, k.regs = [(num, v)] → s.region? k.launch num = some r → t.region? k.launch num = some (without r v))
        ∧ (∃ g', t.group? k.blk k.grp = some g' ∧ g'.ec = (if k.w.track = true then g.ec - 1 else g.ec)
          ∧ (take ≠ 0 → g.epoch = k.epoch → ∀ l, l < 32 → inMask take l = true → ∃ a ∈ g'.after, a.cause = c ∧ inMask a.lanes l = true))
        ∧ (take = 0 ∨ g.epoch ≠ k.epoch → ∀ l : Launch, s.launch? k.launch = some l → l.engErr = none →
          ∃ l', t.launch? k.launch = some l' ∧ l'.engErr = some c.code)

/-- R269, R274, R275, R281 to R286: an offer that improves the master becomes its value, with SEQ risen by 1, and goes to
every copy, and any other is discarded; a copy takes its oldest broadcast; pruning removes the records that such a change has
dominated; a record of the ring is read back; a set whose oldest record has waited 512 cc is ready; the queue forms a group
of a ready set in the lowest free slot, once in a cc, when every set that has waited is known to be ready; a dominated
prunable thread outside SHIELD windows is cancelled. -/
def Obligations.TaskQueueEvents : Prop :=
  ∀ (s : State),
    (∀ o : Offer, (s.offers.find? fun q => q.id == o.id) = some o → o.ic < 16 →
      let m := s.ics[o.ic]?.getD Incumbent.zero
      (m.bound = true → m.improves o.value m.value = true → (m.mirror = false ∨ o.mirror = true) →
        ∃ t m', exec (.offerAtRoot o.id) s = .next t ∧ t.ics[o.ic]? = some m' ∧ m'.value = o.value ∧ m'.seq = m.seq + 1
          ∧ m'.cfg = m.cfg ∧ (∀ k, k < 144 → ∃ c, t.cores[k]? = some c ∧
            c.pending = (s.cores[k]?.getD CoreSt.zero).pending ++ [(o.ic, m', o.since)]) ∧ t.blocks = s.blocks)
      ∧ (m.bound = false ∨ m.improves o.value m.value = false →
        exec (.offerAtRoot o.id) s = .next { s with offers := s.offers.filter fun q => q.id != o.id }))
    ∧ (∀ (core ic : Nat) (q : Nat × Incumbent × Nat), core < 144 → ic < 16 →
      ((s.cores[core]?.getD CoreSt.zero).pending.find? fun x => x.1 == ic) = some q →
      ∃ t, exec (.copyUpdate core ic) s = .next t ∧ (t.icCopy core ic).value = q.2.1.value
        ∧ (t.icCopy core ic).seq = q.2.1.seq
        ∧ (t.icCopy core ic).cfg = (s.icCopy core ic).cfg ∧ t.ics = s.ics ∧ t.mem = s.mem)
    ∧ (∀ b : Block, s.block? b.id = some b →
      ∃ t b', exec (.recordPruning b.id) s = .next t ∧ t.block? b.id = some b'
        ∧ b'.q.share = b.q.share.filter (fun r => !(b.q.doomed.any fun d => d.1 == r.index))
        ∧ (∀ d, d ∈ b'.q.doomed ↔ d ∈ b.q.doomed ∧ ∀ r ∈ b.q.share, r.index ≠ d.1)
        ∧ b'.q.pruned = b.q.pruned + BitVec.ofNat 64 (b.q.share.length - b'.q.share.length) ∧ b'.q.ring = b.q.ring
        ∧ b'.groups = b.groups)
    ∧ (∀ (b : Block) (l : Launch) (e : Nat × Nat) (rest : List (Nat × Nat)), s.block? b.id = some b →
      s.launch? b.launch = some l → b.q.ring = e :: rest → b.q.share.length < 128 → b.st = .resident →
      let t := s.ringRec b l e
      ∃ u b', exec (.ringReadback b.id) s = .next u ∧ u.block? b.id = some b' ∧ b'.q.ring = rest
        ∧ (t.whole l.lr.codeSize = true → s.toPrune b t = false → b'.q.share = b.q.share ++ [t])
        ∧ (t.whole l.lr.codeSize = false → b'.q.share = b.q.share ∧ b'.q.discarded = b.q.discarded + 1))
    ∧ (∀ (b : Block) (l : Launch) (entry : W32) (t : TaskRec) (ts : List TaskRec), s.block? b.id = some b →
      s.launch? b.launch = some l → (s.liveRecords b l).filter (fun r => r.entry == entry) = t :: ts → t.time + 512 ≤ s.cc →
      ∃ u b', exec (.recordWaitExpiry b.id entry) s = .next u ∧ u.block? b.id = some b' ∧ t.index ∈ b'.q.due)
    ∧ (∀ (b : Block) (l : Launch) (slot : Nat) (ts : List TaskRec), s.block? b.id = some b → s.launch? b.launch = some l →
      ((List.range b.groups.length).find? fun i => (b.group i).isFree) = some slot → b.st = .resident → b.q.refill = false →
      l.lr.tasks = true → readySet b.q (s.liveRecords b l) = some ts → b.q.ring = [] → b.q.formed ≠ some s.cc →
      (∀ t ∈ s.liveRecords b l, t.time + 512 ≤ s.cc → t.index ∈ b.q.due) →
      (∀ t ∈ ts, s.recordDominated b.core t = false) → ts ≠ [] →
      ∃ u b', exec (.taskGroupFormation b.id) s = .next u ∧ u.block? b.id = some b' ∧ (b'.group slot).forming = true
        ∧ (b'.group slot).task = true ∧ b'.q.tasks = b.q.tasks + BitVec.ofNat 64 (min ts.length 32) ∧ b'.q.groups = b.q.groups + 1
        ∧ ∀ k, k < 32 → let y := (b'.group slot).lane k
          match ts[k]? with
          | none => y.st = .exited false
          | some t => y.pc = t.entry ∧ y.st = .run ∧ y.bnd = t.bound ∧ y.ben = t.ben
            ∧ y.tag = tagOf slot k ((b.group slot).epoch + 1)
            ∧ ∀ r, r < 10 → y.vreg r = BitVec.ofNat 32 ((t.dws[2 + r / 2]?.getD 0).toNat / 2 ^ (32 * (r % 2))))
    ∧ ∀ (b : Block) (l : Launch) (grp lane : Nat), s.block? b.id = some b → s.launch? b.launch = some l → s.cur = [] →
      b.st = .resident → grp < b.groups.length → lane < 32 → (((b.group grp).lane lane).ben = true) →
      ((b.group grp).lane lane).exited = false → ((b.group grp).lane lane).shield = 0 →
      (s.icCopy b.core ((b.group grp).lane lane).bndIc.toNat).dominates ((b.group grp).lane lane).bnd = true →
      ∃ t b', exec (.threadCancellation b.id grp lane) s = .next t ∧ t.block? b.id = some b'
        ∧ ((b'.group grp).lane lane).st = .exited true ∧ b'.q.cancelled = b.q.cancelled + 1
        ∧ ∀ r ∈ b'.q.share, r.parent ≠ ((b.group grp).lane lane).tag

/-- R327, R328, R330, R331, R340: a beat whose CRC fails is discarded and counted; an idle beat carries STOP; a packet of one
beat that authenticates and is next in sequence goes to the receive buffer, and raises what is to be acknowledged; an ACK beat
that authenticates is to act next; lane failures are noted, and one of an active lane retrains the port. The code of ACK and the
places of counter, slot, value and tag in a control beat are the model's choice (log 22). -/
def Obligations.BeatsAreReceived : Prop :=
  ∀ (s : State) (p : Nat) (content : List Byte) (trailer : W32), p < 16 → 1 ≤ (s.port p).state → (s.port p).state ≤ 4 →
    let x := s.port p
    (Config.crc24 content (trailer.extractLsb' 0 8) ≠ trailer.extractLsb' 8 24 →
      ∃ y : Port, exec (.beatReceive p content trailer) s = .next (s.modPort p fun _ => y) ∧ y.crcErrs = x.crcErrs + 1
        ∧ y.rxseq = x.rxseq ∧ y.inbox = x.inbox ∧ y.stopIn = x.stopIn ∧ y.state = x.state)
    ∧ (Config.crc24 content (trailer.extractLsb' 0 8) = trailer.extractLsb' 8 24 → trailer.extractLsb' 3 5 = 0 →
      (trailer.extractLsb' 0 2 = 0 →
        ∃ y : Port, exec (.beatReceive p content trailer) s = .next (s.modPort p fun _ => y).flushAll ∧ y.stopIn = trailer.getLsbD 2
          ∧ y.inbox = x.inbox ∧ y.rxseq = x.rxseq)
      ∧ (∀ plain : List Byte, trailer.extractLsb' 0 2 = 1 → x.up = true → x.frame = 0 → x.beats = [] → content.length = 64 →
        let h := Packet.ofHeader content
        let n := if h.type = 0 then 0 else h.len
        let key := x.recvKey (if h.kidx then 1 else 0)
        h.type < 11 → n ≤ 16 → h.len ≤ 2048 → key.valid = true →
        gcmOpen key.key key.salt h.ctr (content.take 32) ((content.drop 32).take n)
          (BitVec.ofNat 128 (ofLe ((content.drop (32 + n)).take 16))) = some plain →
        h.seq = x.rxseq → h.ddev = s.fab.device → s.fab.lost.contains h.sdev = false → h.orig = false → x.unackRx < 15 →
        ∃ y : Port, exec (.beatReceive p content trailer) s = .next (s.modPort p fun _ => y).flushAll
          ∧ y.inbox = x.inbox ++ [{ h with payload := plain }] ∧ y.rxseq = x.rxseq + 1 ∧ y.unackRx = x.unackRx + 1
          ∧ y.replayB = x.replayB ∧ y.txq = x.txq)
      ∧ (let key := x.recvKey (ofLe ((content.drop 10).take 1) % 2)
        trailer.extractLsb' 0 2 = 2 → key.valid = true →
        (gcmOpen key.key key.salt (BitVec.ofNat 64 (ofLe ((content.drop 2).take 8))) (content.take 48) []
          (BitVec.ofNat 128 (ofLe ((content.drop 48).take 16)))).isSome = true → ofLe (content.take 2) = 1 →
        ∃ y : Port, exec (.beatReceive p content trailer) s = .next (State.flushAll { s.modPort p fun _ => y with
          agenda := s.agenda ++ [.ack p (BitVec.ofNat 32 (ofLe ((content.drop 11).take 4)))] })))
    ∧ ∀ l, l < 18 → ∃ t : State, exec (.laneFailure p l) s = .next t ∧ (t.port p).failed = x.failed ||| BitVec.ofNat 18 (2 ^ l)
      ∧ t.blocks = s.blocks ∧ t.mem = s.mem
      ∧ (x.up = true → l ∈ x.activeLanes → x.spare.findIdx? (· == l) = none →
        (t.port p).state = 1 ∧ (t.port p).retrains = x.retrains + 1)

/-- R327, R330, R333, R334, R339, R343, R349: an ACK that tells something new frees the packets up to its number; a NAK, or
2 µs with no new ACK, owes a replay of all that is not acknowledged, which goes before anything new, on the alternative
route of a DOWN port, and counts as it goes; 256 cc after accepted packets an ACK beat is sent; training takes the far end's
lanes and keys and comes up at the best width that the lanes allow, or the port goes DOWN, as it does after 8 µs of
retraining; after 4 µs a DOWN port owes a replay on the route it then has; after 10 µs without a route a peer is lost, and
what a fence waits on there is resolved; packets of other sources stay in the receive buffers. The bytes of the ACK beat are the
model's choice (log 22), and that a NAK owes a replay of all that is not acknowledged, whatever number it carries, its reading
(log 41). -/
def Obligations.LinksAcknowledgeReplayAndTrain : Prop :=
  ∀ (s : State) (p : Nat), p < 16 →
    let x := s.port p
    (∀ seq : W32, x.newAck seq = true →
      ∃ y : Port, exec (.ack p seq) s = .next (s.modPort p fun _ => y).flushAll
        ∧ y.replayB = x.replayB.filter (fun q => seqBefore seq q.seq) ∧ y.unacked = seq + 1 ∧ y.sinceAck = s.time
        ∧ y.txseq = x.txseq ∧ y.txq = x.txq)
    ∧ (x.up = true → x.replayB ≠ [] →
      ∃ y : Port, (∀ n, exec (.nak p n) s = .next (s.modPort p fun _ => y).flushAll)
        ∧ (x.sinceAck + micros 2 ≤ s.time → exec (.replayTimeout p) s = .next (s.modPort p fun _ => y).flushAll)
        ∧ y.owed = x.replayB ∧ y.owedNew = true ∧ y.replayB = x.replayB ∧ y.txseq = x.txseq ∧ y.wire = x.wire)
    ∧ (∀ (k : Nat) (q : Packet) (qs : List Packet), x.owed = q :: qs →
      let once : BitVec 32 := if x.owedNew then 1 else 0
      (∃ t : State, s.send1 p k = some t ∧ (t.port p).owed = qs ∧ (t.port p).owedNew = false
        ∧ (t.port p).replays = x.replays + once ∧ (t.port p).replayed = x.replayed + 1 ∧ (t.port p).replayB = x.replayB
        ∧ (t.port p).txseq = x.txseq ∧ ∃ bs, (t.port p).wire = x.wire ++ bs ∧ bs ≠ [] ∧ ∀ b ∈ bs, b.content.length = 64)
      ∧ ∀ a, a < 16 → a ≠ p → (s.port a).owed = [] → (s.port a).hasRoom q = true →
        (s.lenders a).find? (fun r => !(s.port r).owed.isEmpty) = some p →
        ∃ t : State, s.send1 a k = some t ∧ (t.port p).owed = qs ∧ (t.port p).replays = x.replays + once
          ∧ (t.port p).replayed = x.replayed + 1 ∧ (t.port p).replayB = x.replayB
          ∧ (t.port a).replayB = (s.port a).replayB ++ [{ q.lend p with seq := (s.port a).txseq }])
    ∧ (∀ good : W32, (x.state = 1 ∨ x.up = true) →
      ∃ t : State, exec (.training p good) s = .next t ∧ (t.port p).failed = x.failed ||| ~~~(good.setWidth 18)
        ∧ t.blocks = s.blocks ∧ t.mem = s.mem)
    ∧ (∀ slot, x.state = 1 → x.pickSlot.isSome = true → (x.recvKey slot).valid = true →
      exec (.key p slot) s = .next (s.modPort p fun x => { x with keysOk := true }))
    ∧ (x.up = true → 0 < x.unackRx → x.rxAt + 256 ≤ s.cc → x.origUn = 0 → x.pickSlot.isSome = true →
      ∃ (y : Port) (b : Beat), exec (.ackTimer p) s = .next (s.modPort p fun _ => y) ∧ y.unackRx = 0 ∧ y.wire = x.wire ++ [b]
        ∧ b.trailer.extractLsb' 0 2 = 2 ∧ b.trailer.getLsbD 2 = x.stopOut
        ∧ b.trailer.extractLsb' 8 24 = Config.crc24 b.content (b.trailer.extractLsb' 0 8)
        ∧ b.content.take 2 = leBytes 2 1 ∧ (b.content.drop 11).take 4 = leBytes 4 (x.rxseq - 1).toNat ∧ y.rxseq = x.rxseq)
    ∧ (∀ w, x.state = 1 → (x.retrain = false ∨ s.time < x.since + micros 8) → x.width = some w → x.keysOk = true →
      x.pickSlot.isSome = true →
      ∃ t : State, exec (.trainingComplete p) s = .next t.flushAll.noteRoutes ∧ (t.port p).state = w ∧ (t.port p).stopIn = x.stopIn
        ∧ t.blocks = s.blocks ∧ t.mem = s.mem)
    ∧ (x.state = 1 → x.retrain = true → x.since + micros 8 ≤ s.time →
      ∃ t : State, exec (.retrainingTimeout p) s = .next t.flushAll ∧ (t.port p).state = 5 ∧ t.blocks = s.blocks ∧ t.mem = s.mem)
    ∧ (x.state = 5 → x.replayB ≠ [] → x.origAt + micros 4 ≤ s.time →
      ∃ t : State, exec (.origReplayTimeout p) s = .next t.flushAll.noteRoutes ∧ (t.port p).owed = x.replayB
        ∧ (t.port p).owedNew = true ∧ (t.port p).origAt = s.time ∧ (t.port p).replayB = x.replayB ∧ (t.port p).txseq = x.txseq)
    ∧ (∀ q : Nat × Nat, s.noteRoutes.fab.noRoute.find? (fun r => r.1 == q.1) = some q → q.2 + micros 10 ≤ s.time →
      exec (.peerLossTimeout q.1) s = .next (s.noteRoutes.declareLost q.1)
      ∧ ((∀ t ∈ s.fab.txns, t.dev ≠ q.1) → q.1 ≠ s.fab.device → s.fab.present q.1 = true → s.fab.lost.contains q.1 = false →
        ∃ t : State, s.noteRoutes.declareLost q.1 = t.flushAll.noteRoutes ∧ q.1 ∈ t.fab.lost
          ∧ (∀ n, n < 16 → (t.port n).inbox = (s.port n).inbox.filter fun r => r.sdev != q.1)
          ∧ ∀ n, n < 16 → (s.port n).peer.map (·.1) = some q.1 → (t.port n).state = 6))
    ∧ ∀ (blk grp : Nat) (w : Req × Nat), s.lostWaits blk grp = [w] →
      exec (.fencePeerTimeout blk grp) s = .next (s.peerLostFate w.1 w.2).pruneEntries
      ∧ (w.1.fetches = false → w.1.kind ≠ .cctl → ∀ g, s.group? w.1.blk w.1.grp = some g →
        s.peerLostFate w.1 w.2 = (s.modGroup w.1.blk w.1.grp fun g => g.flags (lostBits w.2)).endZero w.1)

/-- R328, R329, R332, R335 to R338, R344, R348: a packet at the head of a port's receive buffer is performed when no
checkpoint holds inbound traffic and none of an earlier number in its space waits elsewhere. A READ or WRITE that a window
admits reads or writes local memory, and an ATOM performs its operation there; any other is refused with reason 4. A DEMAND
raises what may be granted to its source, a GRANT what may be sent, a MIRROR offers its value at the root where the register
is bound alike, and an OACK frees the packets of its space. The place of REFUSED's reason, and those of a MIRROR's and an
OACK's fields, are the model's choice (log 22); that a refused payload leaves the buffer and is not counted as performed is
its reading (log 40). A reply ends the transaction that it answers. RDATA gives the one request that awaits it its bytes,
ADATA the value that its operation combined with, and DONE performs it; REFUSED gives its lanes FABRIC_ACCESS_DENIED. -/
def Obligations.PacketsArePerformed : Prop :=
  (
    ∀ (s : State) (p : Nat) (q : Packet) (rest : List Packet), p < 16 → q.sdev < 16 → (s.port p).inbox = q :: rest →
      s.holdsInbound = false → s.notFirst p q = false →
      let t := s.modPort p fun x => { x with inbox := rest }.stops
      (q.type = 0 →
        (t.windowFor q q.len false = none → exec (.read p q) s = .next (t.refusePacket q 4 q.len))
        ∧ ∀ w, t.windowFor q q.len false = some w → s.mem.poisoned q.addr q.len = false →
          exec (.read p q) s = .next (t.reply q 3 (s.mem.read (t.keySerial w.key) q.addr q.len)))
      ∧ (q.type = 1 → q.masked = false →
        let n := q.payload.length
        (t.windowFor q n true = none → exec (.write p q) s = .next ((t.refusePacket q 4 n).ingressFreed q.sdev n))
        ∧ ∀ w, t.windowFor q n true = some w → s.mem.wf = true →
          ∃ m : Store, exec (.write p q) s = .next ((State.reply { t with mem := m } q 5 []).ingressDone q.sdev n)
            ∧ (∀ i, i < n → m.get (t.keySerial w.key) (q.addr + i) = q.payload.getD i 0)
            ∧ (∀ a, (a < q.addr ∨ q.addr + n ≤ a) → m.get (t.keySerial w.key) a = s.mem.get (t.keySerial w.key) a)
            ∧ ∀ a k, (a < q.addr / 16 * 16 ∨ (q.addr + n + 15) / 16 * 16 ≤ a) → m.get k a = s.mem.get k a)
      ∧ (q.type = 2 → t.windowFor q q.atomSize true = none →
        exec (.atomPacket p q) s = .next ((t.refusePacket q 4 q.atomSize).ingressFreed q.sdev q.payload.length))
      ∧ (q.type = 2 → ∀ w o, t.windowFor q q.atomSize true = some w → s.mem.poisoned q.addr q.atomSize = false →
        q.operands q.atomSize = [o] →
        let key := t.keySerial w.key
        let old := ofLe (s.mem.read key q.addr q.atomSize)
        let v : State := { t with mem := s.mem.write key q.addr (leBytes q.atomSize (q.apply q.atomSize old o)) }
        exec (.atomPacket p q) s = .next (State.ingressDone
          (if q.masked then v.reply q 5 [] else v.reply q 4 (leBytes q.atomSize old)) q.sdev q.payload.length))
      ∧ (q.type = 7 → ∃ u : State, exec (.demand p q) s = .next u.regrant
        ∧ (u.pace q.sdev).demandIn = max (s.pace q.sdev).demandIn (ofLe (q.payload.take 8)) ∧ u.mem = s.mem)
      ∧ (q.type = 8 → ∃ u : State, exec (.grant p q) s = .next (u.drain q.sdev ((s.pace q.sdev).queue.length + 1))
        ∧ (u.pace q.sdev).grantIn = max (s.pace q.sdev).grantIn (ofLe (q.payload.take 8)) ∧ u.mem = s.mem)
      ∧ (q.type = 9 →
        let i := (q.payload.getD 0 0).toNat % 16
        let c := s.ics[i]?.getD Incumbent.zero
        (c.bound = true → c.mirror = true → c.cfg = q.payload.getD 1 0 →
          exec (.mirror p q) s = .next { t.fresh with
            offers := s.offers ++ [⟨s.nextId, i, BitVec.ofNat 64 (ofLe ((q.payload.drop 8).take 8)), 144, true, s.cc⟩] })
        ∧ (c.bound = false → exec (.mirror p q) s = .next t))
      ∧ (q.type = 10 →
        let n := ofLe (q.payload.take 4) % 16
        let seq := BitVec.ofNat 32 (ofLe ((q.payload.drop 4).take 4))
        (t.port n).newAck seq = true →
        ∃ y : Port, exec (.oack p q) s = .next (t.modPort n fun _ => y).flushAll
          ∧ y.replayB = (s.port n).replayB.filter (fun r => seqBefore seq r.seq) ∧ y.unacked = seq + 1 ∧ y.origAt = s.time))
  ∧ (
    ∀ (s : State) (p : Nat) (q : Packet) (rest : List Packet) (x : Txn) (e : Entry) (r : Req), p < 16 →
      (s.port p).inbox = q :: rest → s.holdsInbound = false → s.notFirst p q = false →
      let t := s.modPort p fun x => { x with inbox := rest }.stops
      let u := t.endTxn x
      s.txnOf q = some x → x.waiter = .entry e.id → (u.entries.find? fun f => f.id == e.id) = some e →
      u.awaiting e.id x.tag = [r] →
      (q.type = 3 →
        exec (.rdata p q) s = .next (u.gotBytes r ((q.payload.drop (e.offsetIn x r)).take r.size)).pruneEntries)
      ∧ (q.type = 4 →
        let out := r.combine (ofLe (q.payload.take r.size))
        exec (.adata p q) s = .next
          ((u.modReq r.id fun f => { f with parts := out.2.1, phase := .done }).atomicFlags r out.2.2).pruneEntries)
      ∧ (q.type = 5 → exec (.doneReply p q) s = .next (u.performed r).pruneEntries)
      ∧ (q.type = 6 → q.payload.getD 0 0 ≠ 6 →
        exec (.refused p q) s = .next (u.lateRefuse r .fabricAccessDenied 4).pruneEntries))

/-- R352, R353: SQTAIL makes entries ready, the host's writes to its memory before it; CQHEAD frees completion entries; a write
to a queue's base or configuration takes effect while the queue is not enabled, and enabling a queue of 2^4 to 2^16 entries
starts it at index 0, the completion ring in phase 1 (the model's reading, log 23). -/
def Obligations.HostRegistersAct : Prop :=
  ∀ (s : State) (fn : Nat), fn < 65 →
    let x := s.fn fn
    (∀ (tail : Nat) (dma : List (Nat × Byte)),
      exec (.sqtail fn tail dma) s =
        .next (State.setFn { s with host := dma.foldl (fun (m : Memory) p => m.put (p.1 % 2 ^ 46) p.2) s.host } fn
          { x with sqtail := BitVec.ofNat 64 (tail % 2 ^ 16) }))
    ∧ (x.events = [] →
      (∀ head : Nat, exec (.cqhead fn head) s = .next (s.setFn fn { x with cqhead := BitVec.ofNat 64 (head % 2 ^ 16) }))
      ∧ ∀ (off : Nat) (val : W64), ∃ y : Fn, exec (.registerWrite fn off val) s = .next (s.setFn fn y)
        ∧ (off = 0x008 → y.sqbase = if ringOn x.sqcfg then x.sqbase else val &&& 0xFFFF_FFFF_FFFF_F000#64)
        ∧ (off = 0x020 → y.cqbase = if ringOn x.cqcfg then x.cqbase else val &&& 0xFFFF_FFFF_FFFF_F000#64)
        ∧ (off = 0x010 → ringOn x.sqcfg = false → val.getLsbD 5 = true → 4 ≤ (val.extractLsb' 0 5).toNat →
          (val.extractLsb' 0 5).toNat ≤ 16 → ringOn y.sqcfg = true ∧ ringLen y.sqcfg = 2 ^ (val.extractLsb' 0 5).toNat
            ∧ y.sqhead = 0 ∧ y.sqbase = x.sqbase)
        ∧ (off = 0x028 → ringOn x.cqcfg = false → val.getLsbD 5 = true → 4 ≤ (val.extractLsb' 0 5).toNat →
          (val.extractLsb' 0 5).toNat ≤ 16 → ringOn y.cqcfg = true ∧ ringLen y.cqcfg = 2 ^ (val.extractLsb' 0 5).toNat
            ∧ y.cqtail = 0 ∧ y.phase = true ∧ y.cqbase = x.cqbase)
        ∧ (off = 0x038 → y.irq = val &&& 1#64 ∧ y.sqcfg = x.sqcfg ∧ y.cqcfg = x.cqcfg))

/-- R354 to R357: a command served out of its ring that its issuer may not give, or with a reserved field set, is answered
with the code of R354 and has no other effect, and one of unknown opcode with BAD_COMMAND in its turn; IDENTIFY, the context
commands, ENERGY_SET, TLB_INVAL and COPY answer as R354 gives them. A COPY that has started moves the bytes up to the end of
their line of 128 B: from a page of local memory that no region covers to the host's memory, or from there to such a page
that may be written; and it is answered with its last. That one event moves one such piece, and walks the tables afresh, is
the model's reading (logs 36 and 11). -/
def Obligations.ContextCommandsAct : Prop :=
  (
    ∀ (s : State) (c : HostCmd), (∀ j ∈ s.fw.jobs, j.cmd ≠ c) → s.fw.ckptBy ≠ some (c.fn, c.cid) →
      let t := s.passCmd c.fn
      let denied := fun (i : Instr) (op : Nat) (w : Issuer) => ∀ e, s.serves c op = true → t.deny c w = some e →
        exec i s = .next (t.answer c e 0 [])
      denied (.identify c) 1 .any ∧ denied (.ctxCreate c) 2 .any ∧ denied (.ctxDestroy c) 3 .owner ∧ denied (.tlbInval c) 4 .owner
      ∧ denied (.copy c) 5 .owner ∧ denied (.launch c) 6 .owner ∧ denied (.preempt c) 7 .owner ∧ denied (.faultResolve c) 8 .owner
      ∧ denied (.energySet c) 9 .pf0 ∧ denied (.keyAlloc c) 10 .pf0 ∧ denied (.keyFree c) 11 .pf0 ∧ denied (.linkKey c) 12 .pf0
      ∧ denied (.fabricWindow c) 13 .pf0 ∧ denied (.linkQuery c) 14 .pf0 ∧ denied (.peerLost c) 15 .pf0 ∧ denied (.maint c) 16 .pf0
      ∧ denied (.checkpoint c) 17 .pf0 ∧ denied (.restore c) 18 .pf0
      ∧ (c.op = 0 ∨ 0x12 < c.op → s.serves c c.op = true → exec (.identify c) s = .next (t.answer c 6 0 []))
      ∧ (s.serves c 1 = true → t.deny c .any = none →
        exec (.identify c) s = .next (t.answer c 0 0 [BitVec.ofNat 64 s.archid, BitVec.ofNat 64 s.sparestat, Config.serialNumber]))
      ∧ (∀ id, s.serves c 2 = true → t.deny c .any = none → id < 256 → s.context? id = none →
        (∀ j, j < id → (s.context? j).isSome = true) →
        let k := HostCtx c id
        k.imageLen ≠ 0 → k.imageLen % 2 ^ 16 = 0 → s.mayName c.fn k.key = true → k.root % 4096 = 0 → isLocal k.root 4096 = true →
        (∀ e ∈ k.stores, e.1 % 2 ^ 16 = 0 ∧ isLocal e.1 e.2 = true ∧ ∀ q ∈ s.fw.contexts, ∀ f ∈ q.stores,
          e.1 + e.2 ≤ f.1 ∨ f.1 + f.2 ≤ e.1) →
        s.budgets 256 + k.budget ≤ budgetLimit →
        ∃ u : State, exec (.ctxCreate c) s = .next (u.answer c 0 0 [BitVec.ofNat 64 id])
          ∧ u.fw.contexts = s.fw.contexts ++ [k] ∧ u.fw.created = true ∧ u.mem = s.mem ∧ u.blocks = s.blocks)
      ∧ (s.serves c 3 = true → t.deny c .owner = none →
        ((∃ l ∈ s.fw.launches, l.ctx = c.ctx) → exec (.ctxDestroy c) s = .next (t.answer c 9 0 []))
        ∧ ((∀ l ∈ s.fw.launches, l.ctx ≠ c.ctx) → (∀ j ∈ s.fw.jobs, j.cmd.op = 6 → j.cmd.ctx ≠ c.ctx) →
          ∃ u : State, exec (.ctxDestroy c) s = .next (u.answer c 0 0 []) ∧ u.context? c.ctx = none
            ∧ (∀ k, k ≠ c.ctx → u.context? k = s.context? k) ∧ u.mem = s.mem ∧ u.blocks = s.blocks))
      ∧ (∀ k : Context, s.serves c 9 = true → t.deny c .pf0 = none → s.context? c.ctx = some k → k.fn = 0 →
        let b := bitsOf c.a0.toNat 31 0
        (budgetLimit < s.budgets c.ctx + b → exec (.energySet c) s = .next (t.answer c 8 0 []))
        ∧ (s.budgets c.ctx + b ≤ budgetLimit →
          ∃ u : State, exec (.energySet c) s = .next (u.answer c 0 0 []) ∧ u.context? c.ctx = some { k with nextBud := some b }
            ∧ u.mem = s.mem ∧ u.blocks = s.blocks))
      ∧ (s.serves c 4 = true → t.deny c .owner = none →
        ∃ u : State, u.tlb = s.tlb.filter (fun e => !(e.ctx == c.ctx && (c.a1.toNat == 0
            || decide (e.page * 2 ^ 16 < c.a0.toNat + c.a1.toNat ∧ c.a0.toNat < e.page * 2 ^ 16 + 2 ^ 16))))
          ∧ u.mem = s.mem ∧ u.blocks = s.blocks
          ∧ exec (.tlbInval c) s = .next (if s.copying c.fn s.nextId then u.addJob c else u.answer c 0 0 []))
      ∧ (s.serves c 5 = true → t.deny c .owner = none → c.a2.toNat % 4 = 0 → c.a2 ≠ 0 →
        ∃ j : HostJob, j.cmd = c ∧ j.done = 0 ∧ j.wait = false
          ∧ exec (.copy c) s = .next { t with nextId := s.nextId + 1, fw := { t.fw with jobs := s.fw.jobs ++ [j] } }))
  ∧ (
    ∀ (s : State) (j : HostJob) (k : Context) (base key : Nat) (w x : Bool), s.job? j.id = some j → j.cmd.op = 5 →
      j.wait = false → (∀ i ∈ s.fw.jobs, i.cmd = j.cmd → i = j) → s.context? j.cmd.ctx = some k →
      let va := j.cmd.a1.toNat + j.done
      let n := min (j.cmd.a2.toNat - j.done) (128 - va % 128)
      let ha := (j.cmd.a0.toNat + j.done) % 2 ^ 46
      let pa := Xlat.addr base va
      va + n ≤ 2 ^ 52 → s.walk k va = .ok base key w x → targetOf pa = .mem pa → s.inRegion k.id va pa = false →
      s.regionAt k.id va = none →
      (bitOf j.cmd.a3.toNat 0 = true → s.mem.poisoned pa n = false →
        exec (.copy j.cmd) s =
          .next (State.copied { s with host := s.host.write ha (s.mem.read (s.keySerial key) pa n) } j n))
      ∧ (bitOf j.cmd.a3.toNat 0 = false → w = true →
        exec (.copy j.cmd) s = .next (State.copied
          { s with mem := (s.mem.write (s.keySerial key) pa (s.host.read ha n)).unpoison pa n } j n))
      ∧ ∀ u : State, u.fw.jobs = s.fw.jobs →
        (j.cmd.a2.toNat ≤ j.done + n → u.copied j n = u.endJob j 0)
        ∧ (j.done + n < j.cmd.a2.toNat → (u.copied j n).fw.jobs =
          s.fw.jobs.map fun q => if q.id = j.id then { q with done := q.done + n, wait := false } else q))

/-- R53 to R57, R147, R321, R354, R358: a LAUNCH whose record cannot be read is answered BAD_ADDRESS; one whose record is valid
and whose estimates its context's budget covers joins its queue, and an invalid one is answered with its code and changes nothing
else, when nothing that validation reads lies at a peer and no other LAUNCH is under validation; PREEMPT of a resident block
begins to save it with its cluster; FAULT_RESOLVE takes its report away and replays or aborts its page; that an unknown action of
it is BAD_COMMAND is the model's reading (log 23). -/
def Obligations.LaunchCommandsAct : Prop :=
  ∀ (s : State) (c : HostCmd),
    let t := s.passCmd c.fn
    t.deny c .owner = none →
    (∀ k : Context, s.serves c 6 = true → s.context? c.ctx = some k → (∀ j ∈ s.fw.jobs, j.cmd.op ≠ 6) →
      let u := t.addJob c
      let same := fun (w : State) => w.mem = s.mem ∧ w.blocks = s.blocks ∧ w.regions = s.regions
        ∧ w.fw.launches = s.fw.launches ∧ w.fw.queues = s.fw.queues ∧ ∀ j, j ∈ w.fw.jobs → j.id ≠ s.nextId
      let ends := fun (status detail : Nat) => ∃ w : State, same w
        ∧ exec (.launch c) s = .next (w.answer c status detail [BitVec.ofNat 64 s.nextId])
      (c.a0.toNat % 64 ≠ 0 → ends 11 0)
      ∧ (c.a0.toNat % 64 = 0 → u.lineNeeded k c.a0.toNat 512 = none →
        (u.readAll k c.a0.toNat 512 = none → ends 11 0)
        ∧ ∀ raw : List Byte, u.readAll k c.a0.toNat 512 = some raw → bitOf c.flags 0 = false →
          let v0 := u.modJob s.nextId fun q => { q with raw := some raw }
          (∀ x ∈ v0.launchReads k raw, v0.lineNeeded k x.1 x.2 = none) →
          (∀ code, v0.validate k s.nextId raw = .error code → ends 2 code)
          ∧ ∀ (v : State) (r : LRec), v0.validate k s.nextId raw = .ok (v, r) →
            ((∃ i, i < r.stages ∧ k.budget < r.estimate i) → ends 10 0)
            ∧ ((∀ i, i < r.stages → r.estimate i ≤ k.budget) →
              ∃ w : State, exec (.launch c) s = .next w ∧ w.mem = v.mem ∧ w.blocks = v.blocks ∧ w.regions = v.regions
                ∧ w.fw.launches = v.fw.launches ++
                  [⟨s.nextId, c.fn, c.cid, c.ctx, r, 0, r.blocks, 0, decide (r.blocks ≠ 0), none, none, [], none⟩]
                ∧ (r.blocks ≠ 0 → r.prio < 4 → QItem.launch s.nextId ∈ (w.fw.queues[r.prio]?.getD [] : List QItem)))))
    ∧ (∀ (l : Launch) (b : Block), s.serves c 7 = true → s.launch? l.id = some l → c.a0.toNat = l.id → l.ctx = c.ctx →
      l.killedBy = none → s.block? b.id = some b → (s.blocks.find? fun q => q.launch == l.id && q.lin == c.a1.toNat) = some b →
      c.a1.toNat < l.lr.blocks →
      (b.st = .saved → exec (.preempt c) s = .next (t.answer c 4 0 []))
      ∧ (b.st = .resident →
        exec (.preempt c) s =
          .next ((t.modBlock b.id fun b => { b with savers := b.savers ++ [(c.fn, c.cid)] }).beginSave b false)))
    ∧ ∀ r : Report, s.serves c 8 = true → (s.reports.find? fun q => q.id == c.a0.toNat && q.ctx == c.ctx) = some r →
      let u := { t with reports := s.reports.filter fun q => q.id != r.id }
      (c.a1 = 0 → exec (.faultResolve c) s = .next (State.answer (State.replayPage u r.ctx r.page) c 0 0 []))
      ∧ (c.a1 = 1 → exec (.faultResolve c) s = .next (State.answer (State.abortPage u r.ctx r.page) c 0 0 []))
      ∧ (2 ≤ c.a1.toNat → exec (.faultResolve c) s = .next (t.answer c 6 0 []))

/-- R336, R339 to R341, R343, R357, R366, R367: the commands of PF0. KEY_ALLOC gives a function the lowest free identifier with a
key of its own, and KEY_FREE erases one that no live context uses; LINK_KEY puts a key with counter 0 into a slot;
FABRIC_WINDOW sets a window; LINK_QUERY writes a port's record to the host's memory; PEER_LOST declares a peer lost; MAINT
is refused while a launch is incomplete and works when the ports are quiet; CHECKPOINT saves every block and writes memory
and the sealed state out at rest, and RESTORE brings them back before any context has been created. That LINK_KEY for sending
switches to its slot and erases the other at once, and that MAINT waits for the ports to be quiet, is the model's reading (log
24). -/
def Obligations.DeviceCommandsAct : Prop :=
  ∀ (s : State) (c : HostCmd), (∀ j ∈ s.fw.jobs, j.cmd ≠ c) →
    let t := s.passCmd c.fn
    (t.deny c .pf0 = none → s.fw.ckptBy ≠ some (c.fn, c.cid) →
      (∀ k, s.serves c 10 = true → c.a0.toNat ≤ 64 → 1 ≤ k → k < 1024 → (∀ q ∈ s.fw.keys, q.id ≠ k) →
        (∀ i, 1 ≤ i → i < k → ∃ q ∈ s.fw.keys, q.id = i) →
        ∃ (u : State) (x : Key), exec (.keyAlloc c) s = .next (u.answer c 0 0 [BitVec.ofNat 64 k])
          ∧ u.fw.keys = s.fw.keys ++ [x] ∧ x.id = k ∧ x.fn = c.a0.toNat ∧ x.serial = s.nextId + 2 ∧ u.mem = s.mem)
      ∧ (∀ q ∈ s.fw.keys, s.serves c 11 = true → q.id = c.a0.toNat →
        ((∃ x ∈ s.fw.contexts, x.key = q.id) → exec (.keyFree c) s = .next (t.answer c 9 0 []))
        ∧ ((∀ x ∈ s.fw.contexts, x.key ≠ q.id) →
          ∃ u : State, exec (.keyFree c) s = .next (u.answer c 0 0 []) ∧ u.fw.keys = s.fw.keys.filter (fun x => x.id != q.id)
            ∧ u.mem = s.mem))
      ∧ (s.serves c 12 = true →
        let p := bitsOf c.a0.toNat 3 0
        let slot := bitsOf c.a0.toNat 5 5
        let ks : KeySlot := ⟨c.a4 ++ c.a3 ++ c.a2 ++ c.a1, c.a5.setWidth 32, 0, true⟩
        (s.port p).state ≠ 1 →
        (bitOf c.a0.toNat 4 = true →
          ∃ u : State, exec (.linkKey c) s = .next (u.answer c 0 0 []) ∧ (u.port p).recvKey slot = ks
            ∧ (u.port p).send = (s.port p).send ∧ u.mem = s.mem)
        ∧ (bitOf c.a0.toNat 4 = false → ((s.port p).slot ≠ slot ∨ ((s.port p).sendKey slot).valid = false) →
          ∃ u : State, exec (.linkKey c) s = .next (u.answer c 0 0 []) ∧ (u.port p).slot = slot ∧ (u.port p).sendKey slot = ks
            ∧ ((u.port p).sendKey (1 - slot)).valid = false ∧ (u.port p).recv = (s.port p).recv ∧ u.mem = s.mem)
        ∧ (bitOf c.a0.toNat 4 = false → (s.port p).slot = slot → ((s.port p).sendKey slot).valid = true →
          exec (.linkKey c) s = .next (t.answer c 9 0 [])))
      ∧ (s.serves c 13 = true →
        let key := bitsOf c.a0.toNat 25 16
        c.a1.toNat % 2 ^ 16 = 0 → c.a2.toNat % 2 ^ 16 = 0 → c.a1.toNat ≤ c.a2.toNat →
        (key = 0 ∨ ∃ q ∈ s.fw.keys, q.id = key) →
        ∃ u : State, exec (.fabricWindow c) s = .next (u.answer c 0 0 [])
          ∧ u.fab.windows[bitsOf c.a0.toNat 5 0]? = some ⟨bitOf c.a0.toNat 11, bitsOf c.a0.toNat 9 6, bitOf c.a0.toNat 10, key,
              c.a1.toNat, c.a2.toNat⟩
          ∧ (∀ i, i ≠ bitsOf c.a0.toNat 5 0 → u.fab.windows[i]? = s.fab.windows[i]?) ∧ u.mem = s.mem)
      ∧ (s.serves c 14 = true → c.a0.toNat < 16 →
        exec (.linkQuery c) s = .next (State.answer
          { t with host := s.host.write (c.a1.toNat % 2 ^ 46) (s.port c.a0.toNat).record } c 0 0 []))
      ∧ (s.serves c 15 = true → c.a0.toNat ≠ s.fab.device → s.fab.present c.a0.toNat = true →
        exec (.peerLost c) s = .next ((t.declareLost c.a0.toNat).answer c 0 0 []))
      ∧ (s.serves c 16 = true →
        ((s.fw.launches ≠ [] ∨ ∃ j ∈ s.fw.jobs, j.cmd.op = 6) → exec (.maint c) s = .next (t.answer c 9 0 []))
        ∧ (s.fw.launches = [] → (∀ j ∈ s.fw.jobs, j.cmd.op ≠ 6) → ∃ j : HostJob, j.cmd = c
          ∧ exec (.maint c) s = .next { t with nextId := s.nextId + 1, fw := { t.fw with jobs := s.fw.jobs ++ [j] } }))
      ∧ (s.serves c 17 = true → exec (.checkpoint c) s = .next (t.quiesceAll (some (c.fn, c.cid))))
      ∧ (∀ k, s.serves c 18 = true → s.ckpt = some k →
        (s.fw.created = true → exec (.restore c) s = .next (t.answer c 7 0 []))
        ∧ (s.fw.created = false →
          ∃ u : State, exec (.restore c) s = .next (u.answer c 0 0 []) ∧ u.mem = k.mem ∧ u.blocks = k.blocks
            ∧ u.regions = k.regions ∧ u.ics = k.ics ∧ u.reqs = k.reqs ∧ u.fw.contexts = k.contexts ∧ u.fw.keys = k.keys
            ∧ u.fw.launches = k.launches ∧ u.fw.queues = k.queues ∧ u.cc = s.cc)))
    ∧ (s.fw.ckptBy = some (c.fn, c.cid) → s.atRest = true →
      ∃ (u : State) (k : Ckpt), exec (.checkpoint c) s = .next (u.answer c 0 0 []) ∧ u.ckpt = some k ∧ k.mem = s.mem
        ∧ k.blocks = s.blocks ∧ k.contexts = s.fw.contexts ∧ k.keys = s.fw.keys ∧ k.launches = s.fw.launches
        ∧ k.regions = s.regions ∧ u.fw.quiesce = false ∧ u.mem = s.mem)

/-- R8, R320, R322, R354 to R356, R360 to R363, R365 to R367: a MAINT that has started works when the ports are quiet, and maps
the logical number of a worn or lost core onto a spare physical core of its die; POWER_UP leaves
reset's state with the safe tier, the host's memory and the wired ports in TRAINING; POWER_FAIL begins the sequence of a
checkpoint; the events of device assignment move a VF through its states, to CONFIG_LOCKED when its selective IDE stream is
keyed, and stopping from RUN or ERROR, or an error, tears down what it held; an SPDM_REQUEST is answered, given the contents of the
measurement blocks;
an energy window starts 10 ms after the last; a thermal emergency is reported once on entry and once when it ends; errors,
lost cores and wear do what R312, R313 and R365 give. That ECOUNT of a retired core is 0, that MAINT waits for quiet ports and
that the thermal exit names the die that entered first is the model's reading (log 24), and the spare that is taken its choice
(log 4). -/
def Obligations.DeviceEventsAct : Prop :=
  ∀ s : State,
    (∀ j : HostJob, (s.fw.jobs.find? fun q => decide (q.cmd = j.cmd)) = some j → j.cmd.op = 16 → s.quietPorts = true →
      exec (.maint j.cmd) s = .next ((s.maintain (bitsOf j.cmd.a0.toNat 15 0)).endJob j 0))
    ∧ (∀ (core p : Nat) (rest : List Nat), core < 144 → s.fw.spares[core / 36]? = some (p :: rest) →
      let x := s.cores[core]?.getD CoreSt.zero
      x.worn = true ∨ x.outSvc = true →
      (s.retire core).cores[core]? = some { x with ecount := 0, outSvc := false, worn := false, phys := p }
      ∧ (s.retire core).fw.spares[core / 36]? = some rest ∧ (s.retire core).coreOpen core = true
      ∧ (∀ k, k ≠ core → (s.retire core).cores[k]? = s.cores[k]?) ∧ (s.retire core).blocks = s.blocks)
    ∧ (∀ d w, ((w = 16 ∧ d < 16) ∨ (w = 8 ∧ d < 8) ∨ (w = 0 ∧ d < 16)) →
      ∃ t : State, exec (.powerUp d w) s = .next t ∧ t.ckpt = s.ckpt ∧ t.host = s.host ∧ t.mem = State.reset.mem ∧ t.cc = 0
        ∧ t.blocks = [] ∧ t.fw.contexts = [] ∧ t.fab.device = d
        ∧ ∀ n, n < 16 → (t.port n).peer = wiredPeer w d n ∧ ((t.port n).state = 1 ↔ (wiredPeer w d n).isSome = true))
    ∧ (s.fw.powered = true → s.fw.quiesce = false →
      exec .powerFail s = .next (State.quiesceAll { s with fw := { s.fw with powered := false } } none))
    ∧ (∀ fn, 1 ≤ fn → fn < 65 →
      ((s.fn fn).tdisp = 0 → exec (.lockInterface fn) s = .next (if s.ideKeyed fn = true then s.setTdisp fn 1 else s))
      ∧ ((s.fn fn).tdisp = 1 → exec (.startInterface fn) s = .next (s.setTdisp fn 2))
      ∧ ((s.fn fn).tdisp = 1 → exec (.stopInterface fn) s = .next (s.setTdisp fn 0))
      ∧ (2 ≤ (s.fn fn).tdisp → (s.fn fn).tdisp ≤ 3 → exec (.stopInterface fn) s = .next ((s.teardown fn).setTdisp fn 0))
      ∧ (1 ≤ (s.fn fn).tdisp → (s.fn fn).tdisp ≤ 2 → exec (.interfaceError fn) s = .next ((s.teardown fn).setTdisp fn 3))
      ∧ ((∀ l ∈ s.fw.launches, ∀ k, s.context? l.ctx = some k → k.fn ≠ fn) →
        (∀ k ∈ (s.teardown fn).fw.contexts, k.fn ≠ fn) ∧ (∀ k ∈ (s.teardown fn).fw.keys, k.fn ≠ fn)
        ∧ (s.teardown fn).blocks = s.blocks ∧ (s.teardown fn).mem = s.mem))
    ∧ (∀ msg, ∃ r, exec (.spdmRequest msg) s =
        .next (State.keyStream { s with free := s.free + 1, fw := { s.fw with answers := s.fw.answers ++ [r] } } msg)
      ∧ r = Config.spdmAnswer s.free msg
          [sha512 Config.romImage, leBytes 8 s.archid ++ Config.fuses, leBytes 8 s.fw.spareMap, leBytes 8 0])
    ∧ (s.fw.window + micros 10000 ≤ s.time →
      ∃ t : State, exec .energyWindowStart s = .next t ∧ t.fw.window = s.fw.window + micros 10000 ∧ (∀ b ∈ t.blocks, b.credit = 0)
        ∧ (∀ k ∈ t.fw.contexts, k.used = 0 ∧ k.nextBud = none)
        ∧ t.fw.contexts.map (·.budget) = s.fw.contexts.map (fun k => k.nextBud.getD k.budget) ∧ t.mem = s.mem)
    ∧ (∀ die, die < 4 → s.fw.thermal = none →
      ∃ t : State, t.fw.thermal = some ([die], s.time) ∧ t.blocks = s.blocks ∧ t.mem = s.mem
        ∧ exec (.thermalEmergency die) s = .next (t.post 0 (event 0 0x21 [BitVec.ofNat 64 die, 1])))
    ∧ (∀ die ds since, s.fw.thermal = some (die :: ds, since) → since + micros 1000 ≤ s.time →
      ∃ t : State, t.fw.thermal = none ∧ t.blocks = s.blocks ∧ t.mem = s.mem
        ∧ exec .thermalRecovery s = .next (t.post 0 (event 0 0x21 [BitVec.ofNat 64 die, 0])))
    ∧ (∀ core, core < 144 →
      ((s.cores[core]?.getD CoreSt.zero).outSvc = false → (∀ b ∈ s.blocks, b.core ≠ core) →
        ∃ t : State, exec (.coreLost core) s = .next t ∧ (t.cores[core]?.getD CoreSt.zero).outSvc = true
          ∧ t.coreOpen core = false ∧ t.blocks = s.blocks ∧ t.mem = s.mem)
      ∧ (∀ b : Block, (s.cores[core]?.getD CoreSt.zero).outSvc = false → s.block? b.id = some b →
        (s.blocks.filter fun q => q.core == core && q.onCore) = [b] →
        exec (.coreLost core) s = .next (State.wearEvent ((s.kill b.launch b.id 0 0x306).modCore core fun x =>
          { x with outSvc := true }) s.sparestat))
      ∧ (∃ t : State, exec (.correctedError core) s = .next t
        ∧ (t.cores[core]?.getD CoreSt.zero).ecount = (s.cores[core]?.getD CoreSt.zero).ecount + 1 ∧ t.blocks = s.blocks
        ∧ t.mem = s.mem)
      ∧ ((∀ b ∈ s.blocks, b.core ≠ core) →
        ∃ t : State, exec (.wearThreshold core) s = .next t ∧ (t.cores[core]?.getD CoreSt.zero).worn = true
          ∧ t.coreOpen core = false ∧ t.blocks = s.blocks ∧ t.mem = s.mem))
    ∧ (∀ pa, pa < memTop →
      ∃ t : State, exec (.uncorrectableError (.sector pa)) s = .next t ∧ (∀ n, 1 ≤ n → t.mem.poisoned pa n = true)
        ∧ t.mem.cells = s.mem.cells ∧ t.blocks = s.blocks)
    ∧ (∀ b : Block, s.block? b.id = some b →
      (b.onCore = true → exec (.uncorrectableError (.blockState b.id)) s = .next (s.kill b.launch b.id 0 0x303))
      ∧ (b.st = .saved → ∀ l, s.launch? b.launch = some l → ∀ pa, s.mem.poisonAt b.imageAt l.lr.imageBytes = some pa →
        exec (.uncorrectableError (.image b.id)) s =
          .next (State.kill { s with free := s.free + 1 } b.launch b.id 0 0x305 [BitVec.ofNat 64 pa])))
    ∧ ∀ link, s.fw.memspare.contains link = false →
      ∃ t : State, exec (.memoryLaneFailure link) s = .next (t.wearEvent s.sparestat)
        ∧ t.fw.memspare = s.fw.memspare ++ [link] ∧ t.blocks = s.blocks ∧ t.mem = s.mem

/-! ### The machine as a whole -/

/-- R18, R20, R23, R27, R39, R143: when the word at the PC of the lane set at the head of the issue list lies in the code and
can be fetched, decodes to an instruction that may stand in its clause, and the set neither breaks nor waits on a lookahead
and names no target whose word has still to be fetched from a peer's memory, or the instruction names a run of registers that ends past the file, the step executes that instruction, in a state that
differs only in the translation cache and in which free values are used up; the word is the eight bytes that local memory
holds there. With no lane set to issue, the step executes the release at a meeting address that is due (R65), or else the
next event of the agenda, or of the default scheduler (log 2). -/
def Obligations.StepRunsTheDecodedInstruction : Prop :=
  (∀ (s t : State) (c : Ctx) (k : Context) (base key : Nat) (xw : Bool) (i : Instr), s.ctx? = some c →
    s.context? c.l.ctx = some k →
    let va := c.l.codeVa c.iss.pc.toNat
    let pa := Xlat.addr base va
    let w : W64 := BitVec.ofNat 64 (ofLe (s.mem.read (s.keySerial key) pa 8))
    s.translate c.b.core k va = (.ok base key xw true, t) → targetOf pa = .mem pa → s.mem.poisoned pa 8 = false →
    s.regionAt k.id va = none → isTForm (opOf w) = false → decode w 0 0 0 0 = .ok i →
    (classOfOp (opOf w) = 0 ∨ classOfOp (opOf w) = c.iss.cls) →
    c.iss.pc.toNat + 8 ≤ c.l.lr.codeSize → c.iss.hdr.toNat + 8 * (c.iss.cnt + 2) ≤ c.l.lr.codeSize →
    c.runsPast i = true ∨ (c.r.violating (c.uses s i) c.iss.lanes = 0 ∧ c.r.awaits (c.uses s i) c.iss.lanes = false
      ∧ t.unread? c.b c.l c.iss.grp (c.targets i) = none) →
    step s = exec i t ∧ t = { s with tlb := t.tlb, free := t.free })
  ∧ (∀ (s t : State) (i : Instr), s.cur ≠ [] → s.fetchHead = (some i, t) → step s = exec i t)
  ∧ (∀ (s : State) (i : Instr), s.cur = [] → s.releaseDue = some i → step s = exec i s)
  ∧ (∀ (s : State) (i : Instr) (rest : List Instr), s.cur = [] → s.releaseDue = none → s.agenda = i :: rest →
    step s = exec i { s with agenda := rest })
  ∧ ∀ s : State, s.cur = [] → s.releaseDue = none → s.agenda = [] → step s = exec s.nextEvent { s with free := s.free + 1 }

/-- R24, R27 to R33, R36: words written out from the encodings of the specification decode to the instructions that they
stand for, one of each form and of several classes; a reserved opcode and a nonzero unused field raise their causes. -/
def Obligations.WordsDecodeAsTheSpecEncodesThem : Prop :=
  decode 0x1000_8280_81FF_3000 0 0 0 0 = .ok (.sadd ⟨0, 0, .s 2, .s 0, .s 1, .none, 3, 0, 0, 0⟩)
  ∧ decode 0x40F9_0102_03FF_8700 0 0 0 0 = .error .illegalEncoding
  ∧ decode 0x4009_0102_03FF_8700 0 0 0 0 = .ok (.vfadd ⟨0, 9, .v 1, .v 2, .v 3, .none, 8, 3, 4, 0⟩)
  ∧ decode 0x0100_FFFF_FFFF_FFFE 0 0 0 0 = .ok (.bra ⟨0, 0, .none, .none, 0xFFFF_FFFE⟩)
  ∧ decode 0x2E00_05FF_DEAD_BEEF 0 0 0 0 = .ok (.vmovk ⟨0, 0, .v 5, .none, 0xDEAD_BEEF⟩)
  ∧ decode 0x7030_0384_0010_2040 0 0 0 0 = .ok (.ld ⟨3, 0, .v 3, .s 4, .imm 0x10, 2, 0, 0, 0, 0⟩)
  ∧ decode 0x8000_0684_0289_2880 0 0 0 0 = .ok (.atom ⟨0, 0, .v 6, .s 4, .reg (.v 2) (.s 9), 2, 4, 1, 0, 0⟩)
  ∧ decode 0x9700_FFCB_84FF_0000 1 2 3 4 = .ok (.tld ⟨0, 0, .none, .th 3, .s 4, .none, 0, 0, 0, 1, 2, 3, 4⟩)
  ∧ decode 0xB100_0102_D983_0000 0 0 0 0 = .ok (.hcode ⟨0, 0, .v 1, .v 2, .hf 1, .s 3, 0, 0, 0, 0⟩)
  ∧ decode 0xD000_C188_0000_0300 0 0 0 0 = .ok (.push ⟨0, 0, .p 1, .s 8, 0, 3, 0⟩)
  ∧ decode 0xE300_FF85_0012_0000 0 0 0 0 = .ok (.csrw ⟨0, 0, .none, .s 5, 0, 0x012, 0, 0⟩)
  ∧ decode 0xE000_FFFF_0000_0005 0 0 0 0 = .ok (.trap ⟨0, 0, .none, .none, 5⟩)
  ∧ decode 0xFF00_0000_0000_0000 0 0 0 0 = .error .illegalOpcode

/-- R24, R27 to R33, R36: decoding the words of a well-formed instruction gives that instruction back, with every operand
and field at every value that the encoding admits; and the words of an instruction that has been decoded are the words it
was decoded from. -/
def Obligations.DecodeAndEncodeAgree : Prop :=
  (∀ i : Instr, (opcode i).isSome = true → encodingCause i = none → decodeWords (encode i) = .ok i)
  ∧ ∀ (w s0 s1 s2 s3 : W64) (i : Instr), decode w s0 s1 s2 s3 = .ok i →
    opcode i = some (opOf w) ∧ encode i = if isTForm (opOf w) = true then [w, s0, s1, s2, s3] else [w]

/-- No instruction or event of the opcode table stops the machine: a trap, a kill, a wait and an event that is not due are
next states (log 3). -/
def Obligations.EveryStepAnswersANextState : Prop := ∀ s : State, SafeStep s

/-- From every state in which device memory, the host's memory and a checkpoint's memory are in canonical form, every step
leads to a state in which they are (log 1). -/
def Obligations.StepsKeepMemoryCanonical : Prop :=
  ∀ s t : State, s.canonical → step s = .next t → t.canonical

/-- R278, R279, R297, R317, R352, R355, R365: the machine right after reset, with the values that the specification gives: no
context, launch, block, command or key; every incumbent unbound; the rings of every function not enabled and its registers
0, every VF CONFIG_UNLOCKED; no core worn or out of service, and four spares a die; no port in service. A group as it is
admitted has every register 0 in every lane, TVEC none, its counters 0 and no cause; its threads are runnable at the stage
entry with mt none. Memory lists nothing, and is in canonical form (the model's choice: log 1). -/
def Obligations.ResetLeavesTheMachineEmpty : Prop :=
  State.reset.canonical ∧ State.reset.mem = ⟨[], [], []⟩
  ∧ State.reset.blocks = [] ∧ State.reset.reqs = [] ∧ State.reset.fw.contexts = [] ∧ State.reset.fw.launches = []
  ∧ State.reset.fw.keys = [] ∧ State.reset.fw.jobs = [] ∧ State.reset.cmds = [] ∧ State.reset.regions = [] ∧ State.reset.cur = []
  ∧ (∀ i, i < 16 → ∃ c, State.reset.ics[i]? = some c ∧ c.bound = false ∧ c.cfg = 0)
  ∧ (∀ f, f < 65 → ringOn (State.reset.fn f).sqcfg = false ∧ ringOn (State.reset.fn f).cqcfg = false ∧ (State.reset.fn f).irq = 0
    ∧ (State.reset.fn f).sqbase = 0 ∧ (State.reset.fn f).cqbase = 0 ∧ (State.reset.fn f).cqhead = 0
    ∧ (1 ≤ f → (State.reset.fn f).tdisp = 0))
  ∧ (∀ p, p < 16 → (State.reset.port p).up = false)
  ∧ (∀ k, k < 144 → State.reset.coreOpen k = true ∧ (State.reset.cores[k]?.getD CoreSt.zero).ecount = 0)
  ∧ State.reset.sparestat = 0x924
  ∧ ∀ (entry : W32) (slot quad now : Nat), let g := Group.fresh entry slot quad now
    (∀ r, g.sreg r = 0) ∧ (∀ r, g.preg r = 0 ∨ r = 0) ∧ g.tvec = 0x0000_0000_FFFF_FFFF#64 ∧ g.cause = 0 ∧ g.tepc = 0 ∧ g.tmask = 0
    ∧ g.tstat = 0 ∧ g.fstat = 0 ∧ g.faddr = 0 ∧ g.fkind = 0 ∧ g.fpc = 0 ∧ g.lc = 0 ∧ g.sc = 0 ∧ g.mc = 0 ∧ g.ec = 0 ∧ g.gang = 0
    ∧ g.reuse = none
    ∧ ∀ l, l < 32 → (g.lane l).pc = entry ∧ (g.lane l).mt = noneWord ∧ (g.lane l).st = .run ∧ (g.lane l).helper = false
      ∧ (g.lane l).shield = 0 ∧ (g.lane l).ben = false
      ∧ (g.lane l).tag = tagOf slot l 0 ∧ ∀ r, (g.lane l).vreg r = 0

/-- R25, R63, R143: an instruction that is not a memory, atomic, matrix, versioned, retrieval, task or engine instruction
writes no memory as it issues, whatever becomes of it, a trap or a wait among them: device memory and the checkpoint stay as
they are, and so does every block of another launch, with all its registers. -/
def Obligations.RegisterInstructionsWriteNoMemory : Prop :=
  ∀ (s t : State) (c : Ctx) (i : Instr) (op : BitVec 8), s.ctx? = some c → opcode i = some op →
    (op.toNat < 0x70 ∨ 0xE0 ≤ op.toNat) → exec i s = .next t →
    t.mem = s.mem ∧ t.ckpt = s.ckpt ∧ t.fab = s.fab
    ∧ ∀ b ∈ s.blocks, b.id ≠ c.iss.blk → b.launch ≠ c.b.launch → b ∈ t.blocks
end

