-- ==== Sys2Proof/Laws/Dispatch.lean ====
section
/-!
SUPPORT. The dispatch of each instruction and event to its meaning, one equation each.
-/

namespace Sys2Proof.Machine

@[simp] theorem exec_nop (x : VForm) (s : State) : exec (.nop x) s = execNop x s := rfl
@[simp] theorem exec_bra (x : JForm) (s : State) : exec (.bra x) s = execBra x s := rfl
@[simp] theorem exec_brc (x : JForm) (s : State) : exec (.brc x) s = execBrc x s := rfl
@[simp] theorem exec_bri (x : VForm) (s : State) : exec (.bri x) s = execBri x s := rfl
@[simp] theorem exec_call (x : JForm) (s : State) : exec (.call x) s = execCall x s := rfl
@[simp] theorem exec_calli (x : VForm) (s : State) : exec (.calli x) s = execCalli x s := rfl
@[simp] theorem exec_ret (x : VForm) (s : State) : exec (.ret x) s = execRet x s := rfl
@[simp] theorem exec_setmt (x : JForm) (s : State) : exec (.setmt x) s = execSetmt x s := rfl
@[simp] theorem exec_getmt (x : VForm) (s : State) : exec (.getmt x) s = execGetmt x s := rfl
@[simp] theorem exec_brpk (x : JForm) (s : State) : exec (.brpk x) s = execBrpk x s := rfl
@[simp] theorem exec_demote (x : VForm) (s : State) : exec (.demote x) s = execDemote x s := rfl
@[simp] theorem exec_exit (x : VForm) (s : State) : exec (.exit x) s = execExit x s := rfl
@[simp] theorem exec_yield (x : VForm) (s : State) : exec (.yield x) s = execYield x s := rfl
@[simp] theorem exec_sleep (x : KForm) (s : State) : exec (.sleep x) s = execSleep x s := rfl
@[simp] theorem exec_sadd (x : VForm) (s : State) : exec (.sadd x) s = execSadd x s := rfl
@[simp] theorem exec_ssub (x : VForm) (s : State) : exec (.ssub x) s = execSsub x s := rfl
@[simp] theorem exec_smul (x : VForm) (s : State) : exec (.smul x) s = execSmul x s := rfl
@[simp] theorem exec_sdiv (x : VForm) (s : State) : exec (.sdiv x) s = execSdiv x s := rfl
@[simp] theorem exec_slog (x : VForm) (s : State) : exec (.slog x) s = execSlog x s := rfl
@[simp] theorem exec_ssh (x : VForm) (s : State) : exec (.ssh x) s = execSsh x s := rfl
@[simp] theorem exec_smnx (x : VForm) (s : State) : exec (.smnx x) s = execSmnx x s := rfl
@[simp] theorem exec_scmp (x : VForm) (s : State) : exec (.scmp x) s = execScmp x s := rfl
@[simp] theorem exec_ssel (x : VForm) (s : State) : exec (.ssel x) s = execSsel x s := rfl
@[simp] theorem exec_smovk (x : KForm) (s : State) : exec (.smovk x) s = execSmovk x s := rfl
@[simp] theorem exec_srdl (x : VForm) (s : State) : exec (.srdl x) s = execSrdl x s := rfl
@[simp] theorem exec_sbit (x : VForm) (s : State) : exec (.sbit x) s = execSbit x s := rfl
@[simp] theorem exec_sget (x : VForm) (s : State) : exec (.sget x) s = execSget x s := rfl
@[simp] theorem exec_viadd (x : VForm) (s : State) : exec (.viadd x) s = execViadd x s := rfl
@[simp] theorem exec_visub (x : VForm) (s : State) : exec (.visub x) s = execVisub x s := rfl
@[simp] theorem exec_vimul (x : VForm) (s : State) : exec (.vimul x) s = execVimul x s := rfl
@[simp] theorem exec_vimad (x : VForm) (s : State) : exec (.vimad x) s = execVimad x s := rfl
@[simp] theorem exec_vidiv (x : VForm) (s : State) : exec (.vidiv x) s = execVidiv x s := rfl
@[simp] theorem exec_vlog (x : VForm) (s : State) : exec (.vlog x) s = execVlog x s := rfl
@[simp] theorem exec_vsh (x : VForm) (s : State) : exec (.vsh x) s = execVsh x s := rfl
@[simp] theorem exec_vmnx (x : VForm) (s : State) : exec (.vmnx x) s = execVmnx x s := rfl
@[simp] theorem exec_vbit (x : VForm) (s : State) : exec (.vbit x) s = execVbit x s := rfl
@[simp] theorem exec_vbfx (x : VForm) (s : State) : exec (.vbfx x) s = execVbfx x s := rfl
@[simp] theorem exec_vbfi (x : VForm) (s : State) : exec (.vbfi x) s = execVbfi x s := rfl
@[simp] theorem exec_vicmp (x : VForm) (s : State) : exec (.vicmp x) s = execVicmp x s := rfl
@[simp] theorem exec_vsel (x : VForm) (s : State) : exec (.vsel x) s = execVsel x s := rfl
@[simp] theorem exec_vmov (x : VForm) (s : State) : exec (.vmov x) s = execVmov x s := rfl
@[simp] theorem exec_vmovk (x : KForm) (s : State) : exec (.vmovk x) s = execVmovk x s := rfl
@[simp] theorem exec_vlea (x : VForm) (s : State) : exec (.vlea x) s = execVlea x s := rfl
@[simp] theorem exec_viadd64 (x : VForm) (s : State) : exec (.viadd64 x) s = execViadd64 x s := rfl
@[simp] theorem exec_vimul64 (x : VForm) (s : State) : exec (.vimul64 x) s = execVimul64 x s := rfl
@[simp] theorem exec_viext (x : VForm) (s : State) : exec (.viext x) s = execViext x s := rfl
@[simp] theorem exec_vpack (x : VForm) (s : State) : exec (.vpack x) s = execVpack x s := rfl
@[simp] theorem exec_vfadd (x : VForm) (s : State) : exec (.vfadd x) s = execVfadd x s := rfl
@[simp] theorem exec_vfsub (x : VForm) (s : State) : exec (.vfsub x) s = execVfsub x s := rfl
@[simp] theorem exec_vfmul (x : VForm) (s : State) : exec (.vfmul x) s = execVfmul x s := rfl
@[simp] theorem exec_vfma (x : VForm) (s : State) : exec (.vfma x) s = execVfma x s := rfl
@[simp] theorem exec_vfmnx (x : VForm) (s : State) : exec (.vfmnx x) s = execVfmnx x s := rfl
@[simp] theorem exec_vfcmp (x : VForm) (s : State) : exec (.vfcmp x) s = execVfcmp x s := rfl
@[simp] theorem exec_vfclass (x : VForm) (s : State) : exec (.vfclass x) s = execVfclass x s := rfl
@[simp] theorem exec_vfdiv (x : VForm) (s : State) : exec (.vfdiv x) s = execVfdiv x s := rfl
@[simp] theorem exec_vfsqrt (x : VForm) (s : State) : exec (.vfsqrt x) s = execVfsqrt x s := rfl
@[simp] theorem exec_vfapx (x : VForm) (s : State) : exec (.vfapx x) s = execVfapx x s := rfl
@[simp] theorem exec_vfscl (x : VForm) (s : State) : exec (.vfscl x) s = execVfscl x s := rfl
@[simp] theorem exec_vfrnd (x : VForm) (s : State) : exec (.vfrnd x) s = execVfrnd x s := rfl
@[simp] theorem exec_vcvtf (x : VForm) (s : State) : exec (.vcvtf x) s = execVcvtf x s := rfl
@[simp] theorem exec_vcvtfi (x : VForm) (s : State) : exec (.vcvtfi x) s = execVcvtfi x s := rfl
@[simp] theorem exec_vcvtif (x : VForm) (s : State) : exec (.vcvtif x) s = execVcvtif x s := rfl
@[simp] theorem exec_vqnt (x : VForm) (s : State) : exec (.vqnt x) s = execVqnt x s := rfl
@[simp] theorem exec_vdqnt (x : VForm) (s : State) : exec (.vdqnt x) s = execVdqnt x s := rfl
@[simp] theorem exec_vshfl (x : VForm) (s : State) : exec (.vshfl x) s = execVshfl x s := rfl
@[simp] theorem exec_vvote (x : VForm) (s : State) : exec (.vvote x) s = execVvote x s := rfl
@[simp] theorem exec_vprfx (x : VForm) (s : State) : exec (.vprfx x) s = execVprfx x s := rfl
@[simp] theorem exec_vred (x : VForm) (s : State) : exec (.vred x) s = execVred x s := rfl
@[simp] theorem exec_vmatch (x : VForm) (s : State) : exec (.vmatch x) s = execVmatch x s := rfl
@[simp] theorem exec_vbcst (x : VForm) (s : State) : exec (.vbcst x) s = execVbcst x s := rfl
@[simp] theorem exec_fenceg (x : VForm) (s : State) : exec (.fenceg x) s = execFenceg x s := rfl
@[simp] theorem exec_ld (x : MForm) (s : State) : exec (.ld x) s = execLd x s := rfl
@[simp] theorem exec_st (x : MForm) (s : State) : exec (.st x) s = execSt x s := rfl
@[simp] theorem exec_lds (x : MForm) (s : State) : exec (.lds x) s = execLds x s := rfl
@[simp] theorem exec_sts (x : MForm) (s : State) : exec (.sts x) s = execSts x s := rfl
@[simp] theorem exec_ldu (x : MForm) (s : State) : exec (.ldu x) s = execLdu x s := rfl
@[simp] theorem exec_stu (x : MForm) (s : State) : exec (.stu x) s = execStu x s := rfl
@[simp] theorem exec_lda (x : MForm) (s : State) : exec (.lda x) s = execLda x s := rfl
@[simp] theorem exec_sta (x : MForm) (s : State) : exec (.sta x) s = execSta x s := rfl
@[simp] theorem exec_ldds (x : MForm) (s : State) : exec (.ldds x) s = execLdds x s := rfl
@[simp] theorem exec_pref (x : MForm) (s : State) : exec (.pref x) s = execPref x s := rfl
@[simp] theorem exec_cctl (x : MForm) (s : State) : exec (.cctl x) s = execCctl x s := rfl
@[simp] theorem exec_waitc (x : KForm) (s : State) : exec (.waitc x) s = execWaitc x s := rfl
@[simp] theorem exec_ldk (x : MForm) (s : State) : exec (.ldk x) s = execLdk x s := rfl
@[simp] theorem exec_stk (x : MForm) (s : State) : exec (.stk x) s = execStk x s := rfl
@[simp] theorem exec_atom (x : MForm) (s : State) : exec (.atom x) s = execAtom x s := rfl
@[simp] theorem exec_cas (x : MForm) (s : State) : exec (.cas x) s = execCas x s := rfl
@[simp] theorem exec_red (x : MForm) (s : State) : exec (.red x) s = execRed x s := rfl
@[simp] theorem exec_atoms (x : MForm) (s : State) : exec (.atoms x) s = execAtoms x s := rfl
@[simp] theorem exec_cass (x : MForm) (s : State) : exec (.cass x) s = execCass x s := rfl
@[simp] theorem exec_reds (x : MForm) (s : State) : exec (.reds x) s = execReds x s := rfl
@[simp] theorem exec_barinit (x : MForm) (s : State) : exec (.barinit x) s = execBarinit x s := rfl
@[simp] theorem exec_bararr (x : MForm) (s : State) : exec (.bararr x) s = execBararr x s := rfl
@[simp] theorem exec_barexp (x : MForm) (s : State) : exec (.barexp x) s = execBarexp x s := rfl
@[simp] theorem exec_barwait (x : MForm) (s : State) : exec (.barwait x) s = execBarwait x s := rfl
@[simp] theorem exec_bartst (x : MForm) (s : State) : exec (.bartst x) s = execBartst x s := rfl
@[simp] theorem exec_fence (x : MForm) (s : State) : exec (.fence x) s = execFence x s := rfl
@[simp] theorem exec_gangset (x : VForm) (s : State) : exec (.gangset x) s = execGangset x s := rfl
@[simp] theorem exec_mma (x : TForm) (s : State) : exec (.mma x) s = execMma x s := rfl
@[simp] theorem exec_mmas (x : TForm) (s : State) : exec (.mmas x) s = execMmas x s := rfl
@[simp] theorem exec_acommit (x : VForm) (s : State) : exec (.acommit x) s = execAcommit x s := rfl
@[simp] theorem exec_adiscard (x : VForm) (s : State) : exec (.adiscard x) s = execAdiscard x s := rfl
@[simp] theorem exec_accld (x : TForm) (s : State) : exec (.accld x) s = execAccld x s := rfl
@[simp] theorem exec_accz (x : TForm) (s : State) : exec (.accz x) s = execAccz x s := rfl
@[simp] theorem exec_tld (x : TForm) (s : State) : exec (.tld x) s = execTld x s := rfl
@[simp] theorem exec_tst (x : TForm) (s : State) : exec (.tst x) s = execTst x s := rfl
@[simp] theorem exec_thset (x : TForm) (s : State) : exec (.thset x) s = execThset x s := rfl
@[simp] theorem exec_thget (x : VForm) (s : State) : exec (.thget x) s = execThget x s := rfl
@[simp] theorem exec_vnld (x : MForm) (s : State) : exec (.vnld x) s = execVnld x s := rfl
@[simp] theorem exec_vnst (x : MForm) (s : State) : exec (.vnst x) s = execVnst x s := rfl
@[simp] theorem exec_vnpub (x : VForm) (s : State) : exec (.vnpub x) s = execVnpub x s := rfl
@[simp] theorem exec_vnfloor (x : VForm) (s : State) : exec (.vnfloor x) s = execVnfloor x s := rfl
@[simp] theorem exec_vnwait (x : VForm) (s : State) : exec (.vnwait x) s = execVnwait x s := rfl
@[simp] theorem exec_vnstat (x : VForm) (s : State) : exec (.vnstat x) s = execVnstat x s := rfl
@[simp] theorem exec_vnopen (x : VForm) (s : State) : exec (.vnopen x) s = execVnopen x s := rfl
@[simp] theorem exec_hfset (x : VForm) (s : State) : exec (.hfset x) s = execHfset x s := rfl
@[simp] theorem exec_hcode (x : VForm) (s : State) : exec (.hcode x) s = execHcode x s := rfl
@[simp] theorem exec_hprobe (x : VForm) (s : State) : exec (.hprobe x) s = execHprobe x s := rfl
@[simp] theorem exec_hins (x : VForm) (s : State) : exec (.hins x) s = execHins x s := rfl
@[simp] theorem exec_hdel (x : VForm) (s : State) : exec (.hdel x) s = execHdel x s := rfl
@[simp] theorem exec_hrehash (x : VForm) (s : State) : exec (.hrehash x) s = execHrehash x s := rfl
@[simp] theorem exec_hmerge (x : VForm) (s : State) : exec (.hmerge x) s = execHmerge x s := rfl
@[simp] theorem exec_hstat (x : VForm) (s : State) : exec (.hstat x) s = execHstat x s := rfl
@[simp] theorem exec_spawn (x : PForm) (s : State) : exec (.spawn x) s = execSpawn x s := rfl
@[simp] theorem exec_bndset (x : VForm) (s : State) : exec (.bndset x) s = execBndset x s := rfl
@[simp] theorem exec_bndget (x : VForm) (s : State) : exec (.bndget x) s = execBndget x s := rfl
@[simp] theorem exec_icupd (x : VForm) (s : State) : exec (.icupd x) s = execIcupd x s := rfl
@[simp] theorem exec_icrd (x : VForm) (s : State) : exec (.icrd x) s = execIcrd x s := rfl
@[simp] theorem exec_shield (x : KForm) (s : State) : exec (.shield x) s = execShield x s := rfl
@[simp] theorem exec_tqstat (x : VForm) (s : State) : exec (.tqstat x) s = execTqstat x s := rfl
@[simp] theorem exec_push (x : PForm) (s : State) : exec (.push x) s = execPush x s := rfl
@[simp] theorem exec_qstat (x : VForm) (s : State) : exec (.qstat x) s = execQstat x s := rfl
@[simp] theorem exec_trap (x : KForm) (s : State) : exec (.trap x) s = execTrap x s := rfl
@[simp] theorem exec_rft (x : VForm) (s : State) : exec (.rft x) s = execRft x s := rfl
@[simp] theorem exec_csrr (x : SForm) (s : State) : exec (.csrr x) s = execCsrr x s := rfl
@[simp] theorem exec_csrw (x : SForm) (s : State) : exec (.csrw x) s = execCsrw x s := rfl
@[simp] theorem exec_bkpt (x : KForm) (s : State) : exec (.bkpt x) s = execBkpt x s := rfl
@[simp] theorem exec_issueCycle (core quad : Nat) (s : State) : exec (.issueCycle core quad) s = execIssueCycle core quad s := rfl
@[simp] theorem exec_laneOverdue (core quad : Nat) (s : State) : exec (.laneOverdue core quad) s = execLaneOverdue core quad s := rfl
@[simp] theorem exec_meetingRelease (blk grp : Nat) (m : W32) (s : State) : exec (.meetingRelease blk grp m) s = execMeetingRelease blk grp m s := rfl
@[simp] theorem exec_meetingDeadlock (blk grp : Nat) (s : State) : exec (.meetingDeadlock blk grp) s = execMeetingDeadlock blk grp s := rfl
@[simp] theorem exec_repacking (blk : Nat) (s : State) : exec (.repacking blk) s = execRepacking blk s := rfl
@[simp] theorem exec_sleepExpiry (blk grp lane : Nat) (s : State) : exec (.sleepExpiry blk grp lane) s = execSleepExpiry blk grp lane s := rfl
@[simp] theorem exec_activeSetSwap (core quad : Nat) (s : State) : exec (.activeSetSwap core quad) s = execActiveSetSwap core quad s := rfl
@[simp] theorem exec_activeIdleTimeout (blk grp : Nat) (s : State) : exec (.activeIdleTimeout blk grp) s = execActiveIdleTimeout blk grp s := rfl
@[simp] theorem exec_resultLand (blk grp pend : Nat) (s : State) : exec (.resultLand blk grp pend) s = execResultLand blk grp pend s := rfl
@[simp] theorem exec_queueAging (prio : Nat) (s : State) : exec (.queueAging prio) s = execQueueAging prio s := rfl
@[simp] theorem exec_blockAdmission (s : State) : exec (.blockAdmission) s = execBlockAdmission s := rfl
@[simp] theorem exec_preemptionForRoom (s : State) : exec (.preemptionForRoom) s = execPreemptionForRoom s := rfl
@[simp] theorem exec_idleSave (blk : Nat) (s : State) : exec (.idleSave blk) s = execIdleSave blk s := rfl
@[simp] theorem exec_blockSave (blk : Nat) (s : State) : exec (.blockSave blk) s = execBlockSave blk s := rfl
@[simp] theorem exec_saveTimeout (blk : Nat) (s : State) : exec (.saveTimeout blk) s = execSaveTimeout blk s := rfl
@[simp] theorem exec_blockRestoration (blk : Nat) (s : State) : exec (.blockRestoration blk) s = execBlockRestoration blk s := rfl
@[simp] theorem exec_blockCompletion (blk : Nat) (s : State) : exec (.blockCompletion blk) s = execBlockCompletion blk s := rfl
@[simp] theorem exec_launchCompletion (launch : Nat) (s : State) : exec (.launchCompletion launch) s = execLaunchCompletion launch s := rfl
@[simp] theorem exec_launchKill (blk grp : Nat) (code : Nat) (s : State) : exec (.launchKill blk grp code) s = execLaunchKill blk grp code s := rfl
@[simp] theorem exec_trapEntry (blk grp : Nat) (s : State) : exec (.trapEntry blk grp) s = execTrapEntry blk grp s := rfl
@[simp] theorem exec_rftRejoin (blk grp : Nat) (s : State) : exec (.rftRejoin blk grp) s = execRftRejoin blk grp s := rfl
@[simp] theorem exec_sifterAccept (req : Nat) (s : State) : exec (.sifterAccept req) s = execSifterAccept req s := rfl
@[simp] theorem exec_sifterEntrySend (entry : Nat) (s : State) : exec (.sifterEntrySend entry) s = execSifterEntrySend entry s := rfl
@[simp] theorem exec_sifterWindowExpiry (entry : Nat) (s : State) : exec (.sifterWindowExpiry entry) s = execSifterWindowExpiry entry s := rfl
@[simp] theorem exec_homeRequest (entry : Nat) (s : State) : exec (.homeRequest entry) s = execHomeRequest entry s := rfl
@[simp] theorem exec_loadSectorReply (req : Nat) (s : State) : exec (.loadSectorReply req) s = execLoadSectorReply req s := rfl
@[simp] theorem exec_storeAcknowledgement (req : Nat) (s : State) : exec (.storeAcknowledgement req) s = execStoreAcknowledgement req s := rfl
@[simp] theorem exec_bytesLand (item : Nat) (s : State) : exec (.bytesLand item) s = execBytesLand item s := rfl
@[simp] theorem exec_barwaitResume (blk grp : Nat) (s : State) : exec (.barwaitResume blk grp) s = execBarwaitResume blk grp s := rfl
@[simp] theorem exec_mirrorStoreLand (item : Nat) (s : State) : exec (.mirrorStoreLand item) s = execMirrorStoreLand item s := rfl
@[simp] theorem exec_vnstApply (entry : Nat) (s : State) : exec (.vnstApply entry) s = execVnstApply entry s := rfl
@[simp] theorem exec_vnldHome (entry : Nat) (s : State) : exec (.vnldHome entry) s = execVnldHome entry s := rfl
@[simp] theorem exec_vnldWake (entry : Nat) (s : State) : exec (.vnldWake entry) s = execVnldWake entry s := rfl
@[simp] theorem exec_vnldRetry (entry : Nat) (s : State) : exec (.vnldRetry entry) s = execVnldRetry entry s := rfl
@[simp] theorem exec_publicationPoint (req : Nat) (s : State) : exec (.publicationPoint req) s = execPublicationPoint req s := rfl
@[simp] theorem exec_reclamation (region line : Nat) (s : State) : exec (.reclamation region line) s = execReclamation region line s := rfl
@[simp] theorem exec_poolRetry (region : Nat) (s : State) : exec (.poolRetry region) s = execPoolRetry region s := rfl
@[simp] theorem exec_registration (req : Nat) (s : State) : exec (.registration req) s = execRegistration req s := rfl
@[simp] theorem exec_matrixAccept (core : Nat) (s : State) : exec (.matrixAccept core) s = execMatrixAccept core s := rfl
@[simp] theorem exec_gangRendezvous (blk : Nat) (gang : W16) (s : State) : exec (.gangRendezvous blk gang) s = execGangRendezvous blk gang s := rfl
@[simp] theorem exec_gangMemberExited (blk : Nat) (gang : W16) (s : State) : exec (.gangMemberExited blk gang) s = execGangMemberExited blk gang s := rfl
@[simp] theorem exec_matrixRetire (core : Nat) (s : State) : exec (.matrixRetire core) s = execMatrixRetire core s := rfl
@[simp] theorem exec_probeVersionWake (probe : Nat) (s : State) : exec (.probeVersionWake probe) s = execProbeVersionWake probe s := rfl
@[simp] theorem exec_engineCommandStart (cmd : Nat) (s : State) : exec (.engineCommandStart cmd) s = execEngineCommandStart cmd s := rfl
@[simp] theorem exec_copyCommand (cmd row lo len : Nat) (s : State) : exec (.copyCommand cmd row lo len) s = execCopyCommand cmd row lo len s := rfl
@[simp] theorem exec_fill (cmd row lo len : Nat) (s : State) : exec (.fill cmd row lo len) s = execFill cmd row lo len s := rfl
@[simp] theorem exec_redcopy (cmd row lo len : Nat) (s : State) : exec (.redcopy cmd row lo len) s = execRedcopy cmd row lo len s := rfl
@[simp] theorem exec_insert (cmd : Nat) (s : State) : exec (.insert cmd) s = execInsert cmd s := rfl
@[simp] theorem exec_delete (cmd : Nat) (s : State) : exec (.delete cmd) s = execDelete cmd s := rfl
@[simp] theorem exec_merge (cmd : Nat) (s : State) : exec (.merge cmd) s = execMerge cmd s := rfl
@[simp] theorem exec_engineCommandCompletion (cmd : Nat) (s : State) : exec (.engineCommandCompletion cmd) s = execEngineCommandCompletion cmd s := rfl
@[simp] theorem exec_engineCommandStop (cmd : Nat) (s : State) : exec (.engineCommandStop cmd) s = execEngineCommandStop cmd s := rfl
@[simp] theorem exec_offerAtRoot (offer : Nat) (s : State) : exec (.offerAtRoot offer) s = execOfferAtRoot offer s := rfl
@[simp] theorem exec_copyUpdate (core ic : Nat) (s : State) : exec (.copyUpdate core ic) s = execCopyUpdate core ic s := rfl
@[simp] theorem exec_recordPruning (blk : Nat) (s : State) : exec (.recordPruning blk) s = execRecordPruning blk s := rfl
@[simp] theorem exec_threadCancellation (blk grp lane : Nat) (s : State) : exec (.threadCancellation blk grp lane) s = execThreadCancellation blk grp lane s := rfl
@[simp] theorem exec_recordWaitExpiry (blk : Nat) (entry : W32) (s : State) : exec (.recordWaitExpiry blk entry) s = execRecordWaitExpiry blk entry s := rfl
@[simp] theorem exec_taskGroupFormation (blk : Nat) (s : State) : exec (.taskGroupFormation blk) s = execTaskGroupFormation blk s := rfl
@[simp] theorem exec_taskGroupStart (blk slot : Nat) (s : State) : exec (.taskGroupStart blk slot) s = execTaskGroupStart blk slot s := rfl
@[simp] theorem exec_ringReadback (blk : Nat) (s : State) : exec (.ringReadback blk) s = execRingReadback blk s := rfl
@[simp] theorem exec_beatReceive (port : Nat) (content : List Byte) (trailer : W32) (s : State) : exec (.beatReceive port content trailer) s = execBeatReceive port content trailer s := rfl
@[simp] theorem exec_read (port : Nat) (p : Packet) (s : State) : exec (.read port p) s = execRead port p s := rfl
@[simp] theorem exec_write (port : Nat) (p : Packet) (s : State) : exec (.write port p) s = execWrite port p s := rfl
@[simp] theorem exec_atomPacket (port : Nat) (p : Packet) (s : State) : exec (.atomPacket port p) s = execAtomPacket port p s := rfl
@[simp] theorem exec_rdata (port : Nat) (p : Packet) (s : State) : exec (.rdata port p) s = execRdata port p s := rfl
@[simp] theorem exec_adata (port : Nat) (p : Packet) (s : State) : exec (.adata port p) s = execAdata port p s := rfl
@[simp] theorem exec_doneReply (port : Nat) (p : Packet) (s : State) : exec (.doneReply port p) s = execDoneReply port p s := rfl
@[simp] theorem exec_refused (port : Nat) (p : Packet) (s : State) : exec (.refused port p) s = execRefused port p s := rfl
@[simp] theorem exec_demand (port : Nat) (p : Packet) (s : State) : exec (.demand port p) s = execDemand port p s := rfl
@[simp] theorem exec_grant (port : Nat) (p : Packet) (s : State) : exec (.grant port p) s = execGrant port p s := rfl
@[simp] theorem exec_mirror (port : Nat) (p : Packet) (s : State) : exec (.mirror port p) s = execMirror port p s := rfl
@[simp] theorem exec_oack (port : Nat) (p : Packet) (s : State) : exec (.oack port p) s = execOack port p s := rfl
@[simp] theorem exec_ack (port : Nat) (seq : W32) (s : State) : exec (.ack port seq) s = execAck port seq s := rfl
@[simp] theorem exec_nak (port : Nat) (seq : W32) (s : State) : exec (.nak port seq) s = execNak port seq s := rfl
@[simp] theorem exec_training (port : Nat) (good : W32) (s : State) : exec (.training port good) s = execTraining port good s := rfl
@[simp] theorem exec_key (port : Nat) (slot : Nat) (s : State) : exec (.key port slot) s = execKey port slot s := rfl
@[simp] theorem exec_ackTimer (port : Nat) (s : State) : exec (.ackTimer port) s = execAckTimer port s := rfl
@[simp] theorem exec_replayTimeout (port : Nat) (s : State) : exec (.replayTimeout port) s = execReplayTimeout port s := rfl
@[simp] theorem exec_origReplayTimeout (port : Nat) (s : State) : exec (.origReplayTimeout port) s = execOrigReplayTimeout port s := rfl
@[simp] theorem exec_laneFailure (port lane : Nat) (s : State) : exec (.laneFailure port lane) s = execLaneFailure port lane s := rfl
@[simp] theorem exec_trainingComplete (port : Nat) (s : State) : exec (.trainingComplete port) s = execTrainingComplete port s := rfl
@[simp] theorem exec_retrainingTimeout (port : Nat) (s : State) : exec (.retrainingTimeout port) s = execRetrainingTimeout port s := rfl
@[simp] theorem exec_peerLossTimeout (dev : Nat) (s : State) : exec (.peerLossTimeout dev) s = execPeerLossTimeout dev s := rfl
@[simp] theorem exec_fencePeerTimeout (blk grp : Nat) (s : State) : exec (.fencePeerTimeout blk grp) s = execFencePeerTimeout blk grp s := rfl
@[simp] theorem exec_sqtail (fn tail : Nat) (dma : List (Nat × Byte)) (s : State) : exec (.sqtail fn tail dma) s = execSqtail fn tail dma s := rfl
@[simp] theorem exec_cqhead (fn head : Nat) (s : State) : exec (.cqhead fn head) s = execCqhead fn head s := rfl
@[simp] theorem exec_registerWrite (fn off : Nat) (val : W64) (s : State) : exec (.registerWrite fn off val) s = execRegisterWrite fn off val s := rfl
@[simp] theorem exec_identify (c : HostCmd) (s : State) : exec (.identify c) s = execIdentify c s := rfl
@[simp] theorem exec_ctxCreate (c : HostCmd) (s : State) : exec (.ctxCreate c) s = execCtxCreate c s := rfl
@[simp] theorem exec_ctxDestroy (c : HostCmd) (s : State) : exec (.ctxDestroy c) s = execCtxDestroy c s := rfl
@[simp] theorem exec_tlbInval (c : HostCmd) (s : State) : exec (.tlbInval c) s = execTlbInval c s := rfl
@[simp] theorem exec_copy (c : HostCmd) (s : State) : exec (.copy c) s = execCopy c s := rfl
@[simp] theorem exec_launch (c : HostCmd) (s : State) : exec (.launch c) s = execLaunch c s := rfl
@[simp] theorem exec_preempt (c : HostCmd) (s : State) : exec (.preempt c) s = execPreempt c s := rfl
@[simp] theorem exec_faultResolve (c : HostCmd) (s : State) : exec (.faultResolve c) s = execFaultResolve c s := rfl
@[simp] theorem exec_energySet (c : HostCmd) (s : State) : exec (.energySet c) s = execEnergySet c s := rfl
@[simp] theorem exec_keyAlloc (c : HostCmd) (s : State) : exec (.keyAlloc c) s = execKeyAlloc c s := rfl
@[simp] theorem exec_keyFree (c : HostCmd) (s : State) : exec (.keyFree c) s = execKeyFree c s := rfl
@[simp] theorem exec_linkKey (c : HostCmd) (s : State) : exec (.linkKey c) s = execLinkKey c s := rfl
@[simp] theorem exec_fabricWindow (c : HostCmd) (s : State) : exec (.fabricWindow c) s = execFabricWindow c s := rfl
@[simp] theorem exec_linkQuery (c : HostCmd) (s : State) : exec (.linkQuery c) s = execLinkQuery c s := rfl
@[simp] theorem exec_peerLost (c : HostCmd) (s : State) : exec (.peerLost c) s = execPeerLost c s := rfl
@[simp] theorem exec_maint (c : HostCmd) (s : State) : exec (.maint c) s = execMaint c s := rfl
@[simp] theorem exec_checkpoint (c : HostCmd) (s : State) : exec (.checkpoint c) s = execCheckpoint c s := rfl
@[simp] theorem exec_restore (c : HostCmd) (s : State) : exec (.restore c) s = execRestore c s := rfl
@[simp] theorem exec_lockInterface (fn : Nat) (s : State) : exec (.lockInterface fn) s = execLockInterface fn s := rfl
@[simp] theorem exec_startInterface (fn : Nat) (s : State) : exec (.startInterface fn) s = execStartInterface fn s := rfl
@[simp] theorem exec_stopInterface (fn : Nat) (s : State) : exec (.stopInterface fn) s = execStopInterface fn s := rfl
@[simp] theorem exec_interfaceError (fn : Nat) (s : State) : exec (.interfaceError fn) s = execInterfaceError fn s := rfl
@[simp] theorem exec_spdmRequest (msg : List Byte) (s : State) : exec (.spdmRequest msg) s = execSpdmRequest msg s := rfl
@[simp] theorem exec_energyWindowStart (s : State) : exec (.energyWindowStart) s = execEnergyWindowStart s := rfl
@[simp] theorem exec_thermalEmergency (die : Nat) (s : State) : exec (.thermalEmergency die) s = execThermalEmergency die s := rfl
@[simp] theorem exec_thermalRecovery (s : State) : exec (.thermalRecovery) s = execThermalRecovery s := rfl
@[simp] theorem exec_powerUp (device wiring : Nat) (s : State) : exec (.powerUp device wiring) s = execPowerUp device wiring s := rfl
@[simp] theorem exec_powerFail (s : State) : exec (.powerFail) s = execPowerFail s := rfl
@[simp] theorem exec_coreLost (core : Nat) (s : State) : exec (.coreLost core) s = execCoreLost core s := rfl
@[simp] theorem exec_uncorrectableError (site : ErrorSite) (s : State) : exec (.uncorrectableError site) s = execUncorrectableError site s := rfl
@[simp] theorem exec_correctedError (core : Nat) (s : State) : exec (.correctedError core) s = execCorrectedError core s := rfl
@[simp] theorem exec_memoryLaneFailure (link : Nat) (s : State) : exec (.memoryLaneFailure link) s = execMemoryLaneFailure link s := rfl
@[simp] theorem exec_wearThreshold (core : Nat) (s : State) : exec (.wearThreshold core) s = execWearThreshold core s := rfl

end Sys2Proof.Machine
end

