-- ==== Sys2Proof/Laws/State.lean ====
section
/-!
SUPPORT. What each named update of a state, a group, a lane or a block leaves as it was: one lemma per field.
-/

namespace Sys2Proof.Machine

/-! ### The whole machine: what each named update leaves -/

@[simp] theorem State.setBlock_cur (s : State) (b : Block) : (s.setBlock b).cur = s.cur := rfl
@[simp] theorem State.setBlock_agenda (s : State) (b : Block) : (s.setBlock b).agenda = s.agenda := rfl
@[simp] theorem State.setBlock_free (s : State) (b : Block) : (s.setBlock b).free = s.free := rfl
@[simp] theorem State.setBlock_nextId (s : State) (b : Block) : (s.setBlock b).nextId = s.nextId := rfl
@[simp] theorem State.setBlock_cc (s : State) (b : Block) : (s.setBlock b).cc = s.cc := rfl
@[simp] theorem State.setBlock_time (s : State) (b : Block) : (s.setBlock b).time = s.time := rfl
@[simp] theorem State.setBlock_served (s : State) (b : Block) : (s.setBlock b).served = s.served := rfl
@[simp] theorem State.setBlock_mem (s : State) (b : Block) : (s.setBlock b).mem = s.mem := rfl
@[simp] theorem State.setBlock_host (s : State) (b : Block) : (s.setBlock b).host = s.host := rfl
@[simp] theorem State.setBlock_reqs (s : State) (b : Block) : (s.setBlock b).reqs = s.reqs := rfl
@[simp] theorem State.setBlock_entries (s : State) (b : Block) : (s.setBlock b).entries = s.entries := rfl
@[simp] theorem State.setBlock_faults (s : State) (b : Block) : (s.setBlock b).faults = s.faults := rfl
@[simp] theorem State.setBlock_reports (s : State) (b : Block) : (s.setBlock b).reports = s.reports := rfl
@[simp] theorem State.setBlock_tlb (s : State) (b : Block) : (s.setBlock b).tlb = s.tlb := rfl
@[simp] theorem State.setBlock_regions (s : State) (b : Block) : (s.setBlock b).regions = s.regions := rfl
@[simp] theorem State.setBlock_home (s : State) (b : Block) : (s.setBlock b).home = s.home := rfl
@[simp] theorem State.setBlock_cmds (s : State) (b : Block) : (s.setBlock b).cmds = s.cmds := rfl
@[simp] theorem State.setBlock_probes (s : State) (b : Block) : (s.setBlock b).probes = s.probes := rfl
@[simp] theorem State.setBlock_pres (s : State) (b : Block) : (s.setBlock b).pres = s.pres := rfl
@[simp] theorem State.setBlock_codebuf (s : State) (b : Block) : (s.setBlock b).codebuf = s.codebuf := rfl
@[simp] theorem State.setBlock_mtxq (s : State) (b : Block) : (s.setBlock b).mtxq = s.mtxq := rfl
@[simp] theorem State.setBlock_ics (s : State) (b : Block) : (s.setBlock b).ics = s.ics := rfl
@[simp] theorem State.setBlock_offers (s : State) (b : Block) : (s.setBlock b).offers = s.offers := rfl
@[simp] theorem State.setBlock_cores (s : State) (b : Block) : (s.setBlock b).cores = s.cores := rfl
@[simp] theorem State.setBlock_fab (s : State) (b : Block) : (s.setBlock b).fab = s.fab := rfl
@[simp] theorem State.setBlock_fw (s : State) (b : Block) : (s.setBlock b).fw = s.fw := rfl
@[simp] theorem State.setBlock_ckpt (s : State) (b : Block) : (s.setBlock b).ckpt = s.ckpt := rfl
@[simp] theorem State.modBlock_cur (s : State) (k : Nat) (f : Block → Block) : (s.modBlock k f).cur = s.cur := rfl
@[simp] theorem State.modBlock_agenda (s : State) (k : Nat) (f : Block → Block) : (s.modBlock k f).agenda = s.agenda := rfl
@[simp] theorem State.modBlock_free (s : State) (k : Nat) (f : Block → Block) : (s.modBlock k f).free = s.free := rfl
@[simp] theorem State.modBlock_nextId (s : State) (k : Nat) (f : Block → Block) : (s.modBlock k f).nextId = s.nextId := rfl
@[simp] theorem State.modBlock_cc (s : State) (k : Nat) (f : Block → Block) : (s.modBlock k f).cc = s.cc := rfl
@[simp] theorem State.modBlock_time (s : State) (k : Nat) (f : Block → Block) : (s.modBlock k f).time = s.time := rfl
@[simp] theorem State.modBlock_served (s : State) (k : Nat) (f : Block → Block) : (s.modBlock k f).served = s.served := rfl
@[simp] theorem State.modBlock_mem (s : State) (k : Nat) (f : Block → Block) : (s.modBlock k f).mem = s.mem := rfl
@[simp] theorem State.modBlock_host (s : State) (k : Nat) (f : Block → Block) : (s.modBlock k f).host = s.host := rfl
@[simp] theorem State.modBlock_reqs (s : State) (k : Nat) (f : Block → Block) : (s.modBlock k f).reqs = s.reqs := rfl
@[simp] theorem State.modBlock_entries (s : State) (k : Nat) (f : Block → Block) : (s.modBlock k f).entries = s.entries := rfl
@[simp] theorem State.modBlock_faults (s : State) (k : Nat) (f : Block → Block) : (s.modBlock k f).faults = s.faults := rfl
@[simp] theorem State.modBlock_reports (s : State) (k : Nat) (f : Block → Block) : (s.modBlock k f).reports = s.reports := rfl
@[simp] theorem State.modBlock_tlb (s : State) (k : Nat) (f : Block → Block) : (s.modBlock k f).tlb = s.tlb := rfl
@[simp] theorem State.modBlock_regions (s : State) (k : Nat) (f : Block → Block) : (s.modBlock k f).regions = s.regions := rfl
@[simp] theorem State.modBlock_home (s : State) (k : Nat) (f : Block → Block) : (s.modBlock k f).home = s.home := rfl
@[simp] theorem State.modBlock_cmds (s : State) (k : Nat) (f : Block → Block) : (s.modBlock k f).cmds = s.cmds := rfl
@[simp] theorem State.modBlock_probes (s : State) (k : Nat) (f : Block → Block) : (s.modBlock k f).probes = s.probes := rfl
@[simp] theorem State.modBlock_pres (s : State) (k : Nat) (f : Block → Block) : (s.modBlock k f).pres = s.pres := rfl
@[simp] theorem State.modBlock_codebuf (s : State) (k : Nat) (f : Block → Block) : (s.modBlock k f).codebuf = s.codebuf := rfl
@[simp] theorem State.modBlock_mtxq (s : State) (k : Nat) (f : Block → Block) : (s.modBlock k f).mtxq = s.mtxq := rfl
@[simp] theorem State.modBlock_ics (s : State) (k : Nat) (f : Block → Block) : (s.modBlock k f).ics = s.ics := rfl
@[simp] theorem State.modBlock_offers (s : State) (k : Nat) (f : Block → Block) : (s.modBlock k f).offers = s.offers := rfl
@[simp] theorem State.modBlock_cores (s : State) (k : Nat) (f : Block → Block) : (s.modBlock k f).cores = s.cores := rfl
@[simp] theorem State.modBlock_fab (s : State) (k : Nat) (f : Block → Block) : (s.modBlock k f).fab = s.fab := rfl
@[simp] theorem State.modBlock_fw (s : State) (k : Nat) (f : Block → Block) : (s.modBlock k f).fw = s.fw := rfl
@[simp] theorem State.modBlock_ckpt (s : State) (k : Nat) (f : Block → Block) : (s.modBlock k f).ckpt = s.ckpt := rfl
@[simp] theorem State.modGroup_cur (s : State) (k i : Nat) (f : Group → Group) : (s.modGroup k i f).cur = s.cur := rfl
@[simp] theorem State.modGroup_agenda (s : State) (k i : Nat) (f : Group → Group) : (s.modGroup k i f).agenda = s.agenda := rfl
@[simp] theorem State.modGroup_free (s : State) (k i : Nat) (f : Group → Group) : (s.modGroup k i f).free = s.free := rfl
@[simp] theorem State.modGroup_nextId (s : State) (k i : Nat) (f : Group → Group) : (s.modGroup k i f).nextId = s.nextId := rfl
@[simp] theorem State.modGroup_cc (s : State) (k i : Nat) (f : Group → Group) : (s.modGroup k i f).cc = s.cc := rfl
@[simp] theorem State.modGroup_time (s : State) (k i : Nat) (f : Group → Group) : (s.modGroup k i f).time = s.time := rfl
@[simp] theorem State.modGroup_served (s : State) (k i : Nat) (f : Group → Group) : (s.modGroup k i f).served = s.served := rfl
@[simp] theorem State.modGroup_mem (s : State) (k i : Nat) (f : Group → Group) : (s.modGroup k i f).mem = s.mem := rfl
@[simp] theorem State.modGroup_host (s : State) (k i : Nat) (f : Group → Group) : (s.modGroup k i f).host = s.host := rfl
@[simp] theorem State.modGroup_reqs (s : State) (k i : Nat) (f : Group → Group) : (s.modGroup k i f).reqs = s.reqs := rfl
@[simp] theorem State.modGroup_entries (s : State) (k i : Nat) (f : Group → Group) : (s.modGroup k i f).entries = s.entries := rfl
@[simp] theorem State.modGroup_faults (s : State) (k i : Nat) (f : Group → Group) : (s.modGroup k i f).faults = s.faults := rfl
@[simp] theorem State.modGroup_reports (s : State) (k i : Nat) (f : Group → Group) : (s.modGroup k i f).reports = s.reports := rfl
@[simp] theorem State.modGroup_tlb (s : State) (k i : Nat) (f : Group → Group) : (s.modGroup k i f).tlb = s.tlb := rfl
@[simp] theorem State.modGroup_regions (s : State) (k i : Nat) (f : Group → Group) : (s.modGroup k i f).regions = s.regions := rfl
@[simp] theorem State.modGroup_home (s : State) (k i : Nat) (f : Group → Group) : (s.modGroup k i f).home = s.home := rfl
@[simp] theorem State.modGroup_cmds (s : State) (k i : Nat) (f : Group → Group) : (s.modGroup k i f).cmds = s.cmds := rfl
@[simp] theorem State.modGroup_probes (s : State) (k i : Nat) (f : Group → Group) : (s.modGroup k i f).probes = s.probes := rfl
@[simp] theorem State.modGroup_pres (s : State) (k i : Nat) (f : Group → Group) : (s.modGroup k i f).pres = s.pres := rfl
@[simp] theorem State.modGroup_codebuf (s : State) (k i : Nat) (f : Group → Group) : (s.modGroup k i f).codebuf = s.codebuf := rfl
@[simp] theorem State.modGroup_mtxq (s : State) (k i : Nat) (f : Group → Group) : (s.modGroup k i f).mtxq = s.mtxq := rfl
@[simp] theorem State.modGroup_ics (s : State) (k i : Nat) (f : Group → Group) : (s.modGroup k i f).ics = s.ics := rfl
@[simp] theorem State.modGroup_offers (s : State) (k i : Nat) (f : Group → Group) : (s.modGroup k i f).offers = s.offers := rfl
@[simp] theorem State.modGroup_cores (s : State) (k i : Nat) (f : Group → Group) : (s.modGroup k i f).cores = s.cores := rfl
@[simp] theorem State.modGroup_fab (s : State) (k i : Nat) (f : Group → Group) : (s.modGroup k i f).fab = s.fab := rfl
@[simp] theorem State.modGroup_fw (s : State) (k i : Nat) (f : Group → Group) : (s.modGroup k i f).fw = s.fw := rfl
@[simp] theorem State.modGroup_ckpt (s : State) (k i : Nat) (f : Group → Group) : (s.modGroup k i f).ckpt = s.ckpt := rfl
@[simp] theorem State.begin_cur (s : State) (c : Ctx) : (s.begin_ c).cur = s.cur := rfl
@[simp] theorem State.begin_agenda (s : State) (c : Ctx) : (s.begin_ c).agenda = s.agenda := rfl
@[simp] theorem State.begin_free (s : State) (c : Ctx) : (s.begin_ c).free = s.free := rfl
@[simp] theorem State.begin_nextId (s : State) (c : Ctx) : (s.begin_ c).nextId = s.nextId := rfl
@[simp] theorem State.begin_cc (s : State) (c : Ctx) : (s.begin_ c).cc = s.cc := rfl
@[simp] theorem State.begin_time (s : State) (c : Ctx) : (s.begin_ c).time = s.time := rfl
@[simp] theorem State.begin_served (s : State) (c : Ctx) : (s.begin_ c).served = s.served := rfl
@[simp] theorem State.begin_mem (s : State) (c : Ctx) : (s.begin_ c).mem = s.mem := rfl
@[simp] theorem State.begin_host (s : State) (c : Ctx) : (s.begin_ c).host = s.host := rfl
@[simp] theorem State.begin_reqs (s : State) (c : Ctx) : (s.begin_ c).reqs = s.reqs := rfl
@[simp] theorem State.begin_entries (s : State) (c : Ctx) : (s.begin_ c).entries = s.entries := rfl
@[simp] theorem State.begin_faults (s : State) (c : Ctx) : (s.begin_ c).faults = s.faults := rfl
@[simp] theorem State.begin_reports (s : State) (c : Ctx) : (s.begin_ c).reports = s.reports := rfl
@[simp] theorem State.begin_tlb (s : State) (c : Ctx) : (s.begin_ c).tlb = s.tlb := rfl
@[simp] theorem State.begin_regions (s : State) (c : Ctx) : (s.begin_ c).regions = s.regions := rfl
@[simp] theorem State.begin_home (s : State) (c : Ctx) : (s.begin_ c).home = s.home := rfl
@[simp] theorem State.begin_cmds (s : State) (c : Ctx) : (s.begin_ c).cmds = s.cmds := rfl
@[simp] theorem State.begin_probes (s : State) (c : Ctx) : (s.begin_ c).probes = s.probes := rfl
@[simp] theorem State.begin_pres (s : State) (c : Ctx) : (s.begin_ c).pres = s.pres := rfl
@[simp] theorem State.begin_codebuf (s : State) (c : Ctx) : (s.begin_ c).codebuf = s.codebuf := rfl
@[simp] theorem State.begin_mtxq (s : State) (c : Ctx) : (s.begin_ c).mtxq = s.mtxq := rfl
@[simp] theorem State.begin_ics (s : State) (c : Ctx) : (s.begin_ c).ics = s.ics := rfl
@[simp] theorem State.begin_offers (s : State) (c : Ctx) : (s.begin_ c).offers = s.offers := rfl
@[simp] theorem State.begin_cores (s : State) (c : Ctx) : (s.begin_ c).cores = s.cores := rfl
@[simp] theorem State.begin_fab (s : State) (c : Ctx) : (s.begin_ c).fab = s.fab := rfl
@[simp] theorem State.begin_fw (s : State) (c : Ctx) : (s.begin_ c).fw = s.fw := rfl
@[simp] theorem State.begin_ckpt (s : State) (c : Ctx) : (s.begin_ c).ckpt = s.ckpt := rfl
@[simp] theorem State.finish_agenda (s : State) (c : Ctx) (n : Nat) (own : Mask) : (s.finish c n own).agenda = s.agenda := rfl
@[simp] theorem State.finish_free (s : State) (c : Ctx) (n : Nat) (own : Mask) : (s.finish c n own).free = s.free := rfl
@[simp] theorem State.finish_nextId (s : State) (c : Ctx) (n : Nat) (own : Mask) : (s.finish c n own).nextId = s.nextId := rfl
@[simp] theorem State.finish_cc (s : State) (c : Ctx) (n : Nat) (own : Mask) : (s.finish c n own).cc = s.cc := rfl
@[simp] theorem State.finish_time (s : State) (c : Ctx) (n : Nat) (own : Mask) : (s.finish c n own).time = s.time := rfl
@[simp] theorem State.finish_served (s : State) (c : Ctx) (n : Nat) (own : Mask) : (s.finish c n own).served = s.served := rfl
@[simp] theorem State.finish_mem (s : State) (c : Ctx) (n : Nat) (own : Mask) : (s.finish c n own).mem = s.mem := rfl
@[simp] theorem State.finish_host (s : State) (c : Ctx) (n : Nat) (own : Mask) : (s.finish c n own).host = s.host := rfl
@[simp] theorem State.finish_reqs (s : State) (c : Ctx) (n : Nat) (own : Mask) : (s.finish c n own).reqs = s.reqs := rfl
@[simp] theorem State.finish_entries (s : State) (c : Ctx) (n : Nat) (own : Mask) : (s.finish c n own).entries = s.entries := rfl
@[simp] theorem State.finish_faults (s : State) (c : Ctx) (n : Nat) (own : Mask) : (s.finish c n own).faults = s.faults := rfl
@[simp] theorem State.finish_reports (s : State) (c : Ctx) (n : Nat) (own : Mask) : (s.finish c n own).reports = s.reports := rfl
@[simp] theorem State.finish_tlb (s : State) (c : Ctx) (n : Nat) (own : Mask) : (s.finish c n own).tlb = s.tlb := rfl
@[simp] theorem State.finish_regions (s : State) (c : Ctx) (n : Nat) (own : Mask) : (s.finish c n own).regions = s.regions := rfl
@[simp] theorem State.finish_home (s : State) (c : Ctx) (n : Nat) (own : Mask) : (s.finish c n own).home = s.home := rfl
@[simp] theorem State.finish_cmds (s : State) (c : Ctx) (n : Nat) (own : Mask) : (s.finish c n own).cmds = s.cmds := rfl
@[simp] theorem State.finish_probes (s : State) (c : Ctx) (n : Nat) (own : Mask) : (s.finish c n own).probes = s.probes := rfl
@[simp] theorem State.finish_pres (s : State) (c : Ctx) (n : Nat) (own : Mask) : (s.finish c n own).pres = s.pres := rfl
@[simp] theorem State.finish_codebuf (s : State) (c : Ctx) (n : Nat) (own : Mask) : (s.finish c n own).codebuf = s.codebuf := rfl
@[simp] theorem State.finish_mtxq (s : State) (c : Ctx) (n : Nat) (own : Mask) : (s.finish c n own).mtxq = s.mtxq := rfl
@[simp] theorem State.finish_ics (s : State) (c : Ctx) (n : Nat) (own : Mask) : (s.finish c n own).ics = s.ics := rfl
@[simp] theorem State.finish_offers (s : State) (c : Ctx) (n : Nat) (own : Mask) : (s.finish c n own).offers = s.offers := rfl
@[simp] theorem State.finish_cores (s : State) (c : Ctx) (n : Nat) (own : Mask) : (s.finish c n own).cores = s.cores := rfl
@[simp] theorem State.finish_fab (s : State) (c : Ctx) (n : Nat) (own : Mask) : (s.finish c n own).fab = s.fab := rfl
@[simp] theorem State.finish_fw (s : State) (c : Ctx) (n : Nat) (own : Mask) : (s.finish c n own).fw = s.fw := rfl
@[simp] theorem State.finish_ckpt (s : State) (c : Ctx) (n : Nat) (own : Mask) : (s.finish c n own).ckpt = s.ckpt := rfl
@[simp] theorem State.after_agenda (s : State) (c : Ctx) (n : Nat) (own : Mask) (f : Group → Group) : (s.after c n own f).agenda = s.agenda := rfl
@[simp] theorem State.after_free (s : State) (c : Ctx) (n : Nat) (own : Mask) (f : Group → Group) : (s.after c n own f).free = s.free := rfl
@[simp] theorem State.after_nextId (s : State) (c : Ctx) (n : Nat) (own : Mask) (f : Group → Group) : (s.after c n own f).nextId = s.nextId := rfl
@[simp] theorem State.after_cc (s : State) (c : Ctx) (n : Nat) (own : Mask) (f : Group → Group) : (s.after c n own f).cc = s.cc := rfl
@[simp] theorem State.after_time (s : State) (c : Ctx) (n : Nat) (own : Mask) (f : Group → Group) : (s.after c n own f).time = s.time := rfl
@[simp] theorem State.after_served (s : State) (c : Ctx) (n : Nat) (own : Mask) (f : Group → Group) : (s.after c n own f).served = s.served := rfl
@[simp] theorem State.after_mem (s : State) (c : Ctx) (n : Nat) (own : Mask) (f : Group → Group) : (s.after c n own f).mem = s.mem := rfl
@[simp] theorem State.after_host (s : State) (c : Ctx) (n : Nat) (own : Mask) (f : Group → Group) : (s.after c n own f).host = s.host := rfl
@[simp] theorem State.after_reqs (s : State) (c : Ctx) (n : Nat) (own : Mask) (f : Group → Group) : (s.after c n own f).reqs = s.reqs := rfl
@[simp] theorem State.after_entries (s : State) (c : Ctx) (n : Nat) (own : Mask) (f : Group → Group) : (s.after c n own f).entries = s.entries := rfl
@[simp] theorem State.after_faults (s : State) (c : Ctx) (n : Nat) (own : Mask) (f : Group → Group) : (s.after c n own f).faults = s.faults := rfl
@[simp] theorem State.after_reports (s : State) (c : Ctx) (n : Nat) (own : Mask) (f : Group → Group) : (s.after c n own f).reports = s.reports := rfl
@[simp] theorem State.after_tlb (s : State) (c : Ctx) (n : Nat) (own : Mask) (f : Group → Group) : (s.after c n own f).tlb = s.tlb := rfl
@[simp] theorem State.after_regions (s : State) (c : Ctx) (n : Nat) (own : Mask) (f : Group → Group) : (s.after c n own f).regions = s.regions := rfl
@[simp] theorem State.after_home (s : State) (c : Ctx) (n : Nat) (own : Mask) (f : Group → Group) : (s.after c n own f).home = s.home := rfl
@[simp] theorem State.after_cmds (s : State) (c : Ctx) (n : Nat) (own : Mask) (f : Group → Group) : (s.after c n own f).cmds = s.cmds := rfl
@[simp] theorem State.after_probes (s : State) (c : Ctx) (n : Nat) (own : Mask) (f : Group → Group) : (s.after c n own f).probes = s.probes := rfl
@[simp] theorem State.after_pres (s : State) (c : Ctx) (n : Nat) (own : Mask) (f : Group → Group) : (s.after c n own f).pres = s.pres := rfl
@[simp] theorem State.after_codebuf (s : State) (c : Ctx) (n : Nat) (own : Mask) (f : Group → Group) : (s.after c n own f).codebuf = s.codebuf := rfl
@[simp] theorem State.after_mtxq (s : State) (c : Ctx) (n : Nat) (own : Mask) (f : Group → Group) : (s.after c n own f).mtxq = s.mtxq := rfl
@[simp] theorem State.after_ics (s : State) (c : Ctx) (n : Nat) (own : Mask) (f : Group → Group) : (s.after c n own f).ics = s.ics := rfl
@[simp] theorem State.after_offers (s : State) (c : Ctx) (n : Nat) (own : Mask) (f : Group → Group) : (s.after c n own f).offers = s.offers := rfl
@[simp] theorem State.after_cores (s : State) (c : Ctx) (n : Nat) (own : Mask) (f : Group → Group) : (s.after c n own f).cores = s.cores := rfl
@[simp] theorem State.after_fab (s : State) (c : Ctx) (n : Nat) (own : Mask) (f : Group → Group) : (s.after c n own f).fab = s.fab := rfl
@[simp] theorem State.after_fw (s : State) (c : Ctx) (n : Nat) (own : Mask) (f : Group → Group) : (s.after c n own f).fw = s.fw := rfl
@[simp] theorem State.after_ckpt (s : State) (c : Ctx) (n : Nat) (own : Mask) (f : Group → Group) : (s.after c n own f).ckpt = s.ckpt := rfl
@[simp] theorem State.modLaunch_cur (s : State) (k : Nat) (f : Launch → Launch) : (s.modLaunch k f).cur = s.cur := rfl
@[simp] theorem State.modLaunch_agenda (s : State) (k : Nat) (f : Launch → Launch) : (s.modLaunch k f).agenda = s.agenda := rfl
@[simp] theorem State.modLaunch_free (s : State) (k : Nat) (f : Launch → Launch) : (s.modLaunch k f).free = s.free := rfl
@[simp] theorem State.modLaunch_nextId (s : State) (k : Nat) (f : Launch → Launch) : (s.modLaunch k f).nextId = s.nextId := rfl
@[simp] theorem State.modLaunch_cc (s : State) (k : Nat) (f : Launch → Launch) : (s.modLaunch k f).cc = s.cc := rfl
@[simp] theorem State.modLaunch_time (s : State) (k : Nat) (f : Launch → Launch) : (s.modLaunch k f).time = s.time := rfl
@[simp] theorem State.modLaunch_served (s : State) (k : Nat) (f : Launch → Launch) : (s.modLaunch k f).served = s.served := rfl
@[simp] theorem State.modLaunch_blocks (s : State) (k : Nat) (f : Launch → Launch) : (s.modLaunch k f).blocks = s.blocks := rfl
@[simp] theorem State.modLaunch_mem (s : State) (k : Nat) (f : Launch → Launch) : (s.modLaunch k f).mem = s.mem := rfl
@[simp] theorem State.modLaunch_host (s : State) (k : Nat) (f : Launch → Launch) : (s.modLaunch k f).host = s.host := rfl
@[simp] theorem State.modLaunch_reqs (s : State) (k : Nat) (f : Launch → Launch) : (s.modLaunch k f).reqs = s.reqs := rfl
@[simp] theorem State.modLaunch_entries (s : State) (k : Nat) (f : Launch → Launch) : (s.modLaunch k f).entries = s.entries := rfl
@[simp] theorem State.modLaunch_faults (s : State) (k : Nat) (f : Launch → Launch) : (s.modLaunch k f).faults = s.faults := rfl
@[simp] theorem State.modLaunch_reports (s : State) (k : Nat) (f : Launch → Launch) : (s.modLaunch k f).reports = s.reports := rfl
@[simp] theorem State.modLaunch_tlb (s : State) (k : Nat) (f : Launch → Launch) : (s.modLaunch k f).tlb = s.tlb := rfl
@[simp] theorem State.modLaunch_regions (s : State) (k : Nat) (f : Launch → Launch) : (s.modLaunch k f).regions = s.regions := rfl
@[simp] theorem State.modLaunch_home (s : State) (k : Nat) (f : Launch → Launch) : (s.modLaunch k f).home = s.home := rfl
@[simp] theorem State.modLaunch_cmds (s : State) (k : Nat) (f : Launch → Launch) : (s.modLaunch k f).cmds = s.cmds := rfl
@[simp] theorem State.modLaunch_probes (s : State) (k : Nat) (f : Launch → Launch) : (s.modLaunch k f).probes = s.probes := rfl
@[simp] theorem State.modLaunch_pres (s : State) (k : Nat) (f : Launch → Launch) : (s.modLaunch k f).pres = s.pres := rfl
@[simp] theorem State.modLaunch_codebuf (s : State) (k : Nat) (f : Launch → Launch) : (s.modLaunch k f).codebuf = s.codebuf := rfl
@[simp] theorem State.modLaunch_mtxq (s : State) (k : Nat) (f : Launch → Launch) : (s.modLaunch k f).mtxq = s.mtxq := rfl
@[simp] theorem State.modLaunch_ics (s : State) (k : Nat) (f : Launch → Launch) : (s.modLaunch k f).ics = s.ics := rfl
@[simp] theorem State.modLaunch_offers (s : State) (k : Nat) (f : Launch → Launch) : (s.modLaunch k f).offers = s.offers := rfl
@[simp] theorem State.modLaunch_cores (s : State) (k : Nat) (f : Launch → Launch) : (s.modLaunch k f).cores = s.cores := rfl
@[simp] theorem State.modLaunch_fab (s : State) (k : Nat) (f : Launch → Launch) : (s.modLaunch k f).fab = s.fab := rfl
@[simp] theorem State.modLaunch_ckpt (s : State) (k : Nat) (f : Launch → Launch) : (s.modLaunch k f).ckpt = s.ckpt := rfl
@[simp] theorem State.modContext_cur (s : State) (k : Nat) (f : Context → Context) : (s.modContext k f).cur = s.cur := rfl
@[simp] theorem State.modContext_agenda (s : State) (k : Nat) (f : Context → Context) : (s.modContext k f).agenda = s.agenda := rfl
@[simp] theorem State.modContext_free (s : State) (k : Nat) (f : Context → Context) : (s.modContext k f).free = s.free := rfl
@[simp] theorem State.modContext_nextId (s : State) (k : Nat) (f : Context → Context) : (s.modContext k f).nextId = s.nextId := rfl
@[simp] theorem State.modContext_cc (s : State) (k : Nat) (f : Context → Context) : (s.modContext k f).cc = s.cc := rfl
@[simp] theorem State.modContext_time (s : State) (k : Nat) (f : Context → Context) : (s.modContext k f).time = s.time := rfl
@[simp] theorem State.modContext_served (s : State) (k : Nat) (f : Context → Context) : (s.modContext k f).served = s.served := rfl
@[simp] theorem State.modContext_blocks (s : State) (k : Nat) (f : Context → Context) : (s.modContext k f).blocks = s.blocks := rfl
@[simp] theorem State.modContext_mem (s : State) (k : Nat) (f : Context → Context) : (s.modContext k f).mem = s.mem := rfl
@[simp] theorem State.modContext_host (s : State) (k : Nat) (f : Context → Context) : (s.modContext k f).host = s.host := rfl
@[simp] theorem State.modContext_reqs (s : State) (k : Nat) (f : Context → Context) : (s.modContext k f).reqs = s.reqs := rfl
@[simp] theorem State.modContext_entries (s : State) (k : Nat) (f : Context → Context) : (s.modContext k f).entries = s.entries := rfl
@[simp] theorem State.modContext_faults (s : State) (k : Nat) (f : Context → Context) : (s.modContext k f).faults = s.faults := rfl
@[simp] theorem State.modContext_reports (s : State) (k : Nat) (f : Context → Context) : (s.modContext k f).reports = s.reports := rfl
@[simp] theorem State.modContext_tlb (s : State) (k : Nat) (f : Context → Context) : (s.modContext k f).tlb = s.tlb := rfl
@[simp] theorem State.modContext_regions (s : State) (k : Nat) (f : Context → Context) : (s.modContext k f).regions = s.regions := rfl
@[simp] theorem State.modContext_home (s : State) (k : Nat) (f : Context → Context) : (s.modContext k f).home = s.home := rfl
@[simp] theorem State.modContext_cmds (s : State) (k : Nat) (f : Context → Context) : (s.modContext k f).cmds = s.cmds := rfl
@[simp] theorem State.modContext_probes (s : State) (k : Nat) (f : Context → Context) : (s.modContext k f).probes = s.probes := rfl
@[simp] theorem State.modContext_pres (s : State) (k : Nat) (f : Context → Context) : (s.modContext k f).pres = s.pres := rfl
@[simp] theorem State.modContext_codebuf (s : State) (k : Nat) (f : Context → Context) : (s.modContext k f).codebuf = s.codebuf := rfl
@[simp] theorem State.modContext_mtxq (s : State) (k : Nat) (f : Context → Context) : (s.modContext k f).mtxq = s.mtxq := rfl
@[simp] theorem State.modContext_ics (s : State) (k : Nat) (f : Context → Context) : (s.modContext k f).ics = s.ics := rfl
@[simp] theorem State.modContext_offers (s : State) (k : Nat) (f : Context → Context) : (s.modContext k f).offers = s.offers := rfl
@[simp] theorem State.modContext_cores (s : State) (k : Nat) (f : Context → Context) : (s.modContext k f).cores = s.cores := rfl
@[simp] theorem State.modContext_fab (s : State) (k : Nat) (f : Context → Context) : (s.modContext k f).fab = s.fab := rfl
@[simp] theorem State.modContext_ckpt (s : State) (k : Nat) (f : Context → Context) : (s.modContext k f).ckpt = s.ckpt := rfl
@[simp] theorem State.modRegion_cur (s : State) (k n : Nat) (f : Region → Region) : (s.modRegion k n f).cur = s.cur := rfl
@[simp] theorem State.modRegion_agenda (s : State) (k n : Nat) (f : Region → Region) : (s.modRegion k n f).agenda = s.agenda := rfl
@[simp] theorem State.modRegion_free (s : State) (k n : Nat) (f : Region → Region) : (s.modRegion k n f).free = s.free := rfl
@[simp] theorem State.modRegion_nextId (s : State) (k n : Nat) (f : Region → Region) : (s.modRegion k n f).nextId = s.nextId := rfl
@[simp] theorem State.modRegion_cc (s : State) (k n : Nat) (f : Region → Region) : (s.modRegion k n f).cc = s.cc := rfl
@[simp] theorem State.modRegion_time (s : State) (k n : Nat) (f : Region → Region) : (s.modRegion k n f).time = s.time := rfl
@[simp] theorem State.modRegion_served (s : State) (k n : Nat) (f : Region → Region) : (s.modRegion k n f).served = s.served := rfl
@[simp] theorem State.modRegion_blocks (s : State) (k n : Nat) (f : Region → Region) : (s.modRegion k n f).blocks = s.blocks := rfl
@[simp] theorem State.modRegion_mem (s : State) (k n : Nat) (f : Region → Region) : (s.modRegion k n f).mem = s.mem := rfl
@[simp] theorem State.modRegion_host (s : State) (k n : Nat) (f : Region → Region) : (s.modRegion k n f).host = s.host := rfl
@[simp] theorem State.modRegion_reqs (s : State) (k n : Nat) (f : Region → Region) : (s.modRegion k n f).reqs = s.reqs := rfl
@[simp] theorem State.modRegion_entries (s : State) (k n : Nat) (f : Region → Region) : (s.modRegion k n f).entries = s.entries := rfl
@[simp] theorem State.modRegion_faults (s : State) (k n : Nat) (f : Region → Region) : (s.modRegion k n f).faults = s.faults := rfl
@[simp] theorem State.modRegion_reports (s : State) (k n : Nat) (f : Region → Region) : (s.modRegion k n f).reports = s.reports := rfl
@[simp] theorem State.modRegion_tlb (s : State) (k n : Nat) (f : Region → Region) : (s.modRegion k n f).tlb = s.tlb := rfl
@[simp] theorem State.modRegion_home (s : State) (k n : Nat) (f : Region → Region) : (s.modRegion k n f).home = s.home := rfl
@[simp] theorem State.modRegion_cmds (s : State) (k n : Nat) (f : Region → Region) : (s.modRegion k n f).cmds = s.cmds := rfl
@[simp] theorem State.modRegion_probes (s : State) (k n : Nat) (f : Region → Region) : (s.modRegion k n f).probes = s.probes := rfl
@[simp] theorem State.modRegion_pres (s : State) (k n : Nat) (f : Region → Region) : (s.modRegion k n f).pres = s.pres := rfl
@[simp] theorem State.modRegion_codebuf (s : State) (k n : Nat) (f : Region → Region) : (s.modRegion k n f).codebuf = s.codebuf := rfl
@[simp] theorem State.modRegion_mtxq (s : State) (k n : Nat) (f : Region → Region) : (s.modRegion k n f).mtxq = s.mtxq := rfl
@[simp] theorem State.modRegion_ics (s : State) (k n : Nat) (f : Region → Region) : (s.modRegion k n f).ics = s.ics := rfl
@[simp] theorem State.modRegion_offers (s : State) (k n : Nat) (f : Region → Region) : (s.modRegion k n f).offers = s.offers := rfl
@[simp] theorem State.modRegion_cores (s : State) (k n : Nat) (f : Region → Region) : (s.modRegion k n f).cores = s.cores := rfl
@[simp] theorem State.modRegion_fab (s : State) (k n : Nat) (f : Region → Region) : (s.modRegion k n f).fab = s.fab := rfl
@[simp] theorem State.modRegion_fw (s : State) (k n : Nat) (f : Region → Region) : (s.modRegion k n f).fw = s.fw := rfl
@[simp] theorem State.modRegion_ckpt (s : State) (k n : Nat) (f : Region → Region) : (s.modRegion k n f).ckpt = s.ckpt := rfl
@[simp] theorem State.setFn_cur (s : State) (k : Nat) (x : Fn) : (s.setFn k x).cur = s.cur := rfl
@[simp] theorem State.setFn_agenda (s : State) (k : Nat) (x : Fn) : (s.setFn k x).agenda = s.agenda := rfl
@[simp] theorem State.setFn_free (s : State) (k : Nat) (x : Fn) : (s.setFn k x).free = s.free := rfl
@[simp] theorem State.setFn_nextId (s : State) (k : Nat) (x : Fn) : (s.setFn k x).nextId = s.nextId := rfl
@[simp] theorem State.setFn_cc (s : State) (k : Nat) (x : Fn) : (s.setFn k x).cc = s.cc := rfl
@[simp] theorem State.setFn_time (s : State) (k : Nat) (x : Fn) : (s.setFn k x).time = s.time := rfl
@[simp] theorem State.setFn_served (s : State) (k : Nat) (x : Fn) : (s.setFn k x).served = s.served := rfl
@[simp] theorem State.setFn_blocks (s : State) (k : Nat) (x : Fn) : (s.setFn k x).blocks = s.blocks := rfl
@[simp] theorem State.setFn_mem (s : State) (k : Nat) (x : Fn) : (s.setFn k x).mem = s.mem := rfl
@[simp] theorem State.setFn_host (s : State) (k : Nat) (x : Fn) : (s.setFn k x).host = s.host := rfl
@[simp] theorem State.setFn_reqs (s : State) (k : Nat) (x : Fn) : (s.setFn k x).reqs = s.reqs := rfl
@[simp] theorem State.setFn_entries (s : State) (k : Nat) (x : Fn) : (s.setFn k x).entries = s.entries := rfl
@[simp] theorem State.setFn_faults (s : State) (k : Nat) (x : Fn) : (s.setFn k x).faults = s.faults := rfl
@[simp] theorem State.setFn_reports (s : State) (k : Nat) (x : Fn) : (s.setFn k x).reports = s.reports := rfl
@[simp] theorem State.setFn_tlb (s : State) (k : Nat) (x : Fn) : (s.setFn k x).tlb = s.tlb := rfl
@[simp] theorem State.setFn_regions (s : State) (k : Nat) (x : Fn) : (s.setFn k x).regions = s.regions := rfl
@[simp] theorem State.setFn_home (s : State) (k : Nat) (x : Fn) : (s.setFn k x).home = s.home := rfl
@[simp] theorem State.setFn_cmds (s : State) (k : Nat) (x : Fn) : (s.setFn k x).cmds = s.cmds := rfl
@[simp] theorem State.setFn_probes (s : State) (k : Nat) (x : Fn) : (s.setFn k x).probes = s.probes := rfl
@[simp] theorem State.setFn_pres (s : State) (k : Nat) (x : Fn) : (s.setFn k x).pres = s.pres := rfl
@[simp] theorem State.setFn_codebuf (s : State) (k : Nat) (x : Fn) : (s.setFn k x).codebuf = s.codebuf := rfl
@[simp] theorem State.setFn_mtxq (s : State) (k : Nat) (x : Fn) : (s.setFn k x).mtxq = s.mtxq := rfl
@[simp] theorem State.setFn_ics (s : State) (k : Nat) (x : Fn) : (s.setFn k x).ics = s.ics := rfl
@[simp] theorem State.setFn_offers (s : State) (k : Nat) (x : Fn) : (s.setFn k x).offers = s.offers := rfl
@[simp] theorem State.setFn_cores (s : State) (k : Nat) (x : Fn) : (s.setFn k x).cores = s.cores := rfl
@[simp] theorem State.setFn_fab (s : State) (k : Nat) (x : Fn) : (s.setFn k x).fab = s.fab := rfl
@[simp] theorem State.setFn_ckpt (s : State) (k : Nat) (x : Fn) : (s.setFn k x).ckpt = s.ckpt := rfl
@[simp] theorem State.fresh_cur (s : State) : (s.fresh).cur = s.cur := rfl
@[simp] theorem State.fresh_agenda (s : State) : (s.fresh).agenda = s.agenda := rfl
@[simp] theorem State.fresh_free (s : State) : (s.fresh).free = s.free := rfl
@[simp] theorem State.fresh_cc (s : State) : (s.fresh).cc = s.cc := rfl
@[simp] theorem State.fresh_time (s : State) : (s.fresh).time = s.time := rfl
@[simp] theorem State.fresh_served (s : State) : (s.fresh).served = s.served := rfl
@[simp] theorem State.fresh_blocks (s : State) : (s.fresh).blocks = s.blocks := rfl
@[simp] theorem State.fresh_mem (s : State) : (s.fresh).mem = s.mem := rfl
@[simp] theorem State.fresh_host (s : State) : (s.fresh).host = s.host := rfl
@[simp] theorem State.fresh_reqs (s : State) : (s.fresh).reqs = s.reqs := rfl
@[simp] theorem State.fresh_entries (s : State) : (s.fresh).entries = s.entries := rfl
@[simp] theorem State.fresh_faults (s : State) : (s.fresh).faults = s.faults := rfl
@[simp] theorem State.fresh_reports (s : State) : (s.fresh).reports = s.reports := rfl
@[simp] theorem State.fresh_tlb (s : State) : (s.fresh).tlb = s.tlb := rfl
@[simp] theorem State.fresh_regions (s : State) : (s.fresh).regions = s.regions := rfl
@[simp] theorem State.fresh_home (s : State) : (s.fresh).home = s.home := rfl
@[simp] theorem State.fresh_cmds (s : State) : (s.fresh).cmds = s.cmds := rfl
@[simp] theorem State.fresh_probes (s : State) : (s.fresh).probes = s.probes := rfl
@[simp] theorem State.fresh_pres (s : State) : (s.fresh).pres = s.pres := rfl
@[simp] theorem State.fresh_codebuf (s : State) : (s.fresh).codebuf = s.codebuf := rfl
@[simp] theorem State.fresh_mtxq (s : State) : (s.fresh).mtxq = s.mtxq := rfl
@[simp] theorem State.fresh_ics (s : State) : (s.fresh).ics = s.ics := rfl
@[simp] theorem State.fresh_offers (s : State) : (s.fresh).offers = s.offers := rfl
@[simp] theorem State.fresh_cores (s : State) : (s.fresh).cores = s.cores := rfl
@[simp] theorem State.fresh_fab (s : State) : (s.fresh).fab = s.fab := rfl
@[simp] theorem State.fresh_fw (s : State) : (s.fresh).fw = s.fw := rfl
@[simp] theorem State.fresh_ckpt (s : State) : (s.fresh).ckpt = s.ckpt := rfl
/-- A ring write changes host memory and one function. -/
theorem State.ringWrite_eq (s : State) (k : Nat) (e : CEntry) :
    ∃ h y, s.ringWrite k e = ({ s with host := h } : State).setFn k y := ⟨_, _, rfl⟩
@[simp] theorem State.ringWrite_cur (s : State) (k : Nat) (e : CEntry) : (s.ringWrite k e).cur = s.cur := by
  obtain ⟨_, _, h⟩ := s.ringWrite_eq k e; rw [h]; rfl
@[simp] theorem State.ringWrite_agenda (s : State) (k : Nat) (e : CEntry) : (s.ringWrite k e).agenda = s.agenda := by
  obtain ⟨_, _, h⟩ := s.ringWrite_eq k e; rw [h]; rfl
@[simp] theorem State.ringWrite_free (s : State) (k : Nat) (e : CEntry) : (s.ringWrite k e).free = s.free := by
  obtain ⟨_, _, h⟩ := s.ringWrite_eq k e; rw [h]; rfl
@[simp] theorem State.ringWrite_nextId (s : State) (k : Nat) (e : CEntry) : (s.ringWrite k e).nextId = s.nextId := by
  obtain ⟨_, _, h⟩ := s.ringWrite_eq k e; rw [h]; rfl
@[simp] theorem State.ringWrite_cc (s : State) (k : Nat) (e : CEntry) : (s.ringWrite k e).cc = s.cc := by
  obtain ⟨_, _, h⟩ := s.ringWrite_eq k e; rw [h]; rfl
@[simp] theorem State.ringWrite_time (s : State) (k : Nat) (e : CEntry) : (s.ringWrite k e).time = s.time := by
  obtain ⟨_, _, h⟩ := s.ringWrite_eq k e; rw [h]; rfl
@[simp] theorem State.ringWrite_served (s : State) (k : Nat) (e : CEntry) : (s.ringWrite k e).served = s.served := by
  obtain ⟨_, _, h⟩ := s.ringWrite_eq k e; rw [h]; rfl
@[simp] theorem State.ringWrite_blocks (s : State) (k : Nat) (e : CEntry) : (s.ringWrite k e).blocks = s.blocks := by
  obtain ⟨_, _, h⟩ := s.ringWrite_eq k e; rw [h]; rfl
@[simp] theorem State.ringWrite_mem (s : State) (k : Nat) (e : CEntry) : (s.ringWrite k e).mem = s.mem := by
  obtain ⟨_, _, h⟩ := s.ringWrite_eq k e; rw [h]; rfl
@[simp] theorem State.ringWrite_reqs (s : State) (k : Nat) (e : CEntry) : (s.ringWrite k e).reqs = s.reqs := by
  obtain ⟨_, _, h⟩ := s.ringWrite_eq k e; rw [h]; rfl
@[simp] theorem State.ringWrite_entries (s : State) (k : Nat) (e : CEntry) : (s.ringWrite k e).entries = s.entries := by
  obtain ⟨_, _, h⟩ := s.ringWrite_eq k e; rw [h]; rfl
@[simp] theorem State.ringWrite_faults (s : State) (k : Nat) (e : CEntry) : (s.ringWrite k e).faults = s.faults := by
  obtain ⟨_, _, h⟩ := s.ringWrite_eq k e; rw [h]; rfl
@[simp] theorem State.ringWrite_reports (s : State) (k : Nat) (e : CEntry) : (s.ringWrite k e).reports = s.reports := by
  obtain ⟨_, _, h⟩ := s.ringWrite_eq k e; rw [h]; rfl
@[simp] theorem State.ringWrite_tlb (s : State) (k : Nat) (e : CEntry) : (s.ringWrite k e).tlb = s.tlb := by
  obtain ⟨_, _, h⟩ := s.ringWrite_eq k e; rw [h]; rfl
@[simp] theorem State.ringWrite_regions (s : State) (k : Nat) (e : CEntry) : (s.ringWrite k e).regions = s.regions := by
  obtain ⟨_, _, h⟩ := s.ringWrite_eq k e; rw [h]; rfl
@[simp] theorem State.ringWrite_home (s : State) (k : Nat) (e : CEntry) : (s.ringWrite k e).home = s.home := by
  obtain ⟨_, _, h⟩ := s.ringWrite_eq k e; rw [h]; rfl
@[simp] theorem State.ringWrite_cmds (s : State) (k : Nat) (e : CEntry) : (s.ringWrite k e).cmds = s.cmds := by
  obtain ⟨_, _, h⟩ := s.ringWrite_eq k e; rw [h]; rfl
@[simp] theorem State.ringWrite_probes (s : State) (k : Nat) (e : CEntry) : (s.ringWrite k e).probes = s.probes := by
  obtain ⟨_, _, h⟩ := s.ringWrite_eq k e; rw [h]; rfl
@[simp] theorem State.ringWrite_pres (s : State) (k : Nat) (e : CEntry) : (s.ringWrite k e).pres = s.pres := by
  obtain ⟨_, _, h⟩ := s.ringWrite_eq k e; rw [h]; rfl
@[simp] theorem State.ringWrite_codebuf (s : State) (k : Nat) (e : CEntry) : (s.ringWrite k e).codebuf = s.codebuf := by
  obtain ⟨_, _, h⟩ := s.ringWrite_eq k e; rw [h]; rfl
@[simp] theorem State.ringWrite_mtxq (s : State) (k : Nat) (e : CEntry) : (s.ringWrite k e).mtxq = s.mtxq := by
  obtain ⟨_, _, h⟩ := s.ringWrite_eq k e; rw [h]; rfl
@[simp] theorem State.ringWrite_ics (s : State) (k : Nat) (e : CEntry) : (s.ringWrite k e).ics = s.ics := by
  obtain ⟨_, _, h⟩ := s.ringWrite_eq k e; rw [h]; rfl
@[simp] theorem State.ringWrite_offers (s : State) (k : Nat) (e : CEntry) : (s.ringWrite k e).offers = s.offers := by
  obtain ⟨_, _, h⟩ := s.ringWrite_eq k e; rw [h]; rfl
@[simp] theorem State.ringWrite_cores (s : State) (k : Nat) (e : CEntry) : (s.ringWrite k e).cores = s.cores := by
  obtain ⟨_, _, h⟩ := s.ringWrite_eq k e; rw [h]; rfl
@[simp] theorem State.ringWrite_fab (s : State) (k : Nat) (e : CEntry) : (s.ringWrite k e).fab = s.fab := by
  obtain ⟨_, _, h⟩ := s.ringWrite_eq k e; rw [h]; rfl
@[simp] theorem State.ringWrite_ckpt (s : State) (k : Nat) (e : CEntry) : (s.ringWrite k e).ckpt = s.ckpt := by
  obtain ⟨_, _, h⟩ := s.ringWrite_eq k e; rw [h]; rfl
@[simp] theorem State.resetRegions_cur (s : State) (k : Nat) : (s.resetRegions k).cur = s.cur := rfl
@[simp] theorem State.resetRegions_agenda (s : State) (k : Nat) : (s.resetRegions k).agenda = s.agenda := rfl
@[simp] theorem State.resetRegions_free (s : State) (k : Nat) : (s.resetRegions k).free = s.free := rfl
@[simp] theorem State.resetRegions_nextId (s : State) (k : Nat) : (s.resetRegions k).nextId = s.nextId := rfl
@[simp] theorem State.resetRegions_cc (s : State) (k : Nat) : (s.resetRegions k).cc = s.cc := rfl
@[simp] theorem State.resetRegions_time (s : State) (k : Nat) : (s.resetRegions k).time = s.time := rfl
@[simp] theorem State.resetRegions_served (s : State) (k : Nat) : (s.resetRegions k).served = s.served := rfl
@[simp] theorem State.resetRegions_blocks (s : State) (k : Nat) : (s.resetRegions k).blocks = s.blocks := rfl
@[simp] theorem State.resetRegions_mem (s : State) (k : Nat) : (s.resetRegions k).mem = s.mem := rfl
@[simp] theorem State.resetRegions_host (s : State) (k : Nat) : (s.resetRegions k).host = s.host := rfl
@[simp] theorem State.resetRegions_reqs (s : State) (k : Nat) : (s.resetRegions k).reqs = s.reqs := rfl
@[simp] theorem State.resetRegions_entries (s : State) (k : Nat) : (s.resetRegions k).entries = s.entries := rfl
@[simp] theorem State.resetRegions_faults (s : State) (k : Nat) : (s.resetRegions k).faults = s.faults := rfl
@[simp] theorem State.resetRegions_reports (s : State) (k : Nat) : (s.resetRegions k).reports = s.reports := rfl
@[simp] theorem State.resetRegions_tlb (s : State) (k : Nat) : (s.resetRegions k).tlb = s.tlb := rfl
@[simp] theorem State.resetRegions_home (s : State) (k : Nat) : (s.resetRegions k).home = s.home := rfl
@[simp] theorem State.resetRegions_cmds (s : State) (k : Nat) : (s.resetRegions k).cmds = s.cmds := rfl
@[simp] theorem State.resetRegions_probes (s : State) (k : Nat) : (s.resetRegions k).probes = s.probes := rfl
@[simp] theorem State.resetRegions_pres (s : State) (k : Nat) : (s.resetRegions k).pres = s.pres := rfl
@[simp] theorem State.resetRegions_codebuf (s : State) (k : Nat) : (s.resetRegions k).codebuf = s.codebuf := rfl
@[simp] theorem State.resetRegions_mtxq (s : State) (k : Nat) : (s.resetRegions k).mtxq = s.mtxq := rfl
@[simp] theorem State.resetRegions_ics (s : State) (k : Nat) : (s.resetRegions k).ics = s.ics := rfl
@[simp] theorem State.resetRegions_offers (s : State) (k : Nat) : (s.resetRegions k).offers = s.offers := rfl
@[simp] theorem State.resetRegions_cores (s : State) (k : Nat) : (s.resetRegions k).cores = s.cores := rfl
@[simp] theorem State.resetRegions_fab (s : State) (k : Nat) : (s.resetRegions k).fab = s.fab := rfl
@[simp] theorem State.resetRegions_fw (s : State) (k : Nat) : (s.resetRegions k).fw = s.fw := rfl
@[simp] theorem State.resetRegions_ckpt (s : State) (k : Nat) : (s.resetRegions k).ckpt = s.ckpt := rfl
@[simp] theorem State.releaseCredit_cur (s : State) (k x : Nat) : (s.releaseCredit k x).cur = s.cur := rfl
@[simp] theorem State.releaseCredit_agenda (s : State) (k x : Nat) : (s.releaseCredit k x).agenda = s.agenda := rfl
@[simp] theorem State.releaseCredit_free (s : State) (k x : Nat) : (s.releaseCredit k x).free = s.free := rfl
@[simp] theorem State.releaseCredit_nextId (s : State) (k x : Nat) : (s.releaseCredit k x).nextId = s.nextId := rfl
@[simp] theorem State.releaseCredit_cc (s : State) (k x : Nat) : (s.releaseCredit k x).cc = s.cc := rfl
@[simp] theorem State.releaseCredit_time (s : State) (k x : Nat) : (s.releaseCredit k x).time = s.time := rfl
@[simp] theorem State.releaseCredit_served (s : State) (k x : Nat) : (s.releaseCredit k x).served = s.served := rfl
@[simp] theorem State.releaseCredit_blocks (s : State) (k x : Nat) : (s.releaseCredit k x).blocks = s.blocks := rfl
@[simp] theorem State.releaseCredit_mem (s : State) (k x : Nat) : (s.releaseCredit k x).mem = s.mem := rfl
@[simp] theorem State.releaseCredit_host (s : State) (k x : Nat) : (s.releaseCredit k x).host = s.host := rfl
@[simp] theorem State.releaseCredit_reqs (s : State) (k x : Nat) : (s.releaseCredit k x).reqs = s.reqs := rfl
@[simp] theorem State.releaseCredit_entries (s : State) (k x : Nat) : (s.releaseCredit k x).entries = s.entries := rfl
@[simp] theorem State.releaseCredit_faults (s : State) (k x : Nat) : (s.releaseCredit k x).faults = s.faults := rfl
@[simp] theorem State.releaseCredit_reports (s : State) (k x : Nat) : (s.releaseCredit k x).reports = s.reports := rfl
@[simp] theorem State.releaseCredit_tlb (s : State) (k x : Nat) : (s.releaseCredit k x).tlb = s.tlb := rfl
@[simp] theorem State.releaseCredit_regions (s : State) (k x : Nat) : (s.releaseCredit k x).regions = s.regions := rfl
@[simp] theorem State.releaseCredit_home (s : State) (k x : Nat) : (s.releaseCredit k x).home = s.home := rfl
@[simp] theorem State.releaseCredit_cmds (s : State) (k x : Nat) : (s.releaseCredit k x).cmds = s.cmds := rfl
@[simp] theorem State.releaseCredit_probes (s : State) (k x : Nat) : (s.releaseCredit k x).probes = s.probes := rfl
@[simp] theorem State.releaseCredit_pres (s : State) (k x : Nat) : (s.releaseCredit k x).pres = s.pres := rfl
@[simp] theorem State.releaseCredit_codebuf (s : State) (k x : Nat) : (s.releaseCredit k x).codebuf = s.codebuf := rfl
@[simp] theorem State.releaseCredit_mtxq (s : State) (k x : Nat) : (s.releaseCredit k x).mtxq = s.mtxq := rfl
@[simp] theorem State.releaseCredit_ics (s : State) (k x : Nat) : (s.releaseCredit k x).ics = s.ics := rfl
@[simp] theorem State.releaseCredit_offers (s : State) (k x : Nat) : (s.releaseCredit k x).offers = s.offers := rfl
@[simp] theorem State.releaseCredit_cores (s : State) (k x : Nat) : (s.releaseCredit k x).cores = s.cores := rfl
@[simp] theorem State.releaseCredit_fab (s : State) (k x : Nat) : (s.releaseCredit k x).fab = s.fab := rfl
@[simp] theorem State.releaseCredit_ckpt (s : State) (k x : Nat) : (s.releaseCredit k x).ckpt = s.ckpt := rfl
@[simp] theorem State.bindIcs_cur (s : State) (r : LRec) : (s.bindIcs r).cur = s.cur := rfl
@[simp] theorem State.bindIcs_agenda (s : State) (r : LRec) : (s.bindIcs r).agenda = s.agenda := rfl
@[simp] theorem State.bindIcs_free (s : State) (r : LRec) : (s.bindIcs r).free = s.free := rfl
@[simp] theorem State.bindIcs_nextId (s : State) (r : LRec) : (s.bindIcs r).nextId = s.nextId := rfl
@[simp] theorem State.bindIcs_cc (s : State) (r : LRec) : (s.bindIcs r).cc = s.cc := rfl
@[simp] theorem State.bindIcs_time (s : State) (r : LRec) : (s.bindIcs r).time = s.time := rfl
@[simp] theorem State.bindIcs_served (s : State) (r : LRec) : (s.bindIcs r).served = s.served := rfl
@[simp] theorem State.bindIcs_blocks (s : State) (r : LRec) : (s.bindIcs r).blocks = s.blocks := rfl
@[simp] theorem State.bindIcs_mem (s : State) (r : LRec) : (s.bindIcs r).mem = s.mem := rfl
@[simp] theorem State.bindIcs_host (s : State) (r : LRec) : (s.bindIcs r).host = s.host := rfl
@[simp] theorem State.bindIcs_reqs (s : State) (r : LRec) : (s.bindIcs r).reqs = s.reqs := rfl
@[simp] theorem State.bindIcs_entries (s : State) (r : LRec) : (s.bindIcs r).entries = s.entries := rfl
@[simp] theorem State.bindIcs_faults (s : State) (r : LRec) : (s.bindIcs r).faults = s.faults := rfl
@[simp] theorem State.bindIcs_reports (s : State) (r : LRec) : (s.bindIcs r).reports = s.reports := rfl
@[simp] theorem State.bindIcs_tlb (s : State) (r : LRec) : (s.bindIcs r).tlb = s.tlb := rfl
@[simp] theorem State.bindIcs_regions (s : State) (r : LRec) : (s.bindIcs r).regions = s.regions := rfl
@[simp] theorem State.bindIcs_home (s : State) (r : LRec) : (s.bindIcs r).home = s.home := rfl
@[simp] theorem State.bindIcs_cmds (s : State) (r : LRec) : (s.bindIcs r).cmds = s.cmds := rfl
@[simp] theorem State.bindIcs_probes (s : State) (r : LRec) : (s.bindIcs r).probes = s.probes := rfl
@[simp] theorem State.bindIcs_pres (s : State) (r : LRec) : (s.bindIcs r).pres = s.pres := rfl
@[simp] theorem State.bindIcs_codebuf (s : State) (r : LRec) : (s.bindIcs r).codebuf = s.codebuf := rfl
@[simp] theorem State.bindIcs_mtxq (s : State) (r : LRec) : (s.bindIcs r).mtxq = s.mtxq := rfl
@[simp] theorem State.bindIcs_offers (s : State) (r : LRec) : (s.bindIcs r).offers = s.offers := rfl
@[simp] theorem State.bindIcs_fab (s : State) (r : LRec) : (s.bindIcs r).fab = s.fab := rfl
@[simp] theorem State.bindIcs_fw (s : State) (r : LRec) : (s.bindIcs r).fw = s.fw := rfl
@[simp] theorem State.bindIcs_ckpt (s : State) (r : LRec) : (s.bindIcs r).ckpt = s.ckpt := rfl
@[simp] theorem State.stopBlocks_cur (s : State) (k : Nat) : (s.stopBlocks k).cur = s.cur := rfl
@[simp] theorem State.stopBlocks_agenda (s : State) (k : Nat) : (s.stopBlocks k).agenda = s.agenda := rfl
@[simp] theorem State.stopBlocks_free (s : State) (k : Nat) : (s.stopBlocks k).free = s.free := rfl
@[simp] theorem State.stopBlocks_nextId (s : State) (k : Nat) : (s.stopBlocks k).nextId = s.nextId := rfl
@[simp] theorem State.stopBlocks_cc (s : State) (k : Nat) : (s.stopBlocks k).cc = s.cc := rfl
@[simp] theorem State.stopBlocks_time (s : State) (k : Nat) : (s.stopBlocks k).time = s.time := rfl
@[simp] theorem State.stopBlocks_served (s : State) (k : Nat) : (s.stopBlocks k).served = s.served := rfl
@[simp] theorem State.stopBlocks_mem (s : State) (k : Nat) : (s.stopBlocks k).mem = s.mem := rfl
@[simp] theorem State.stopBlocks_host (s : State) (k : Nat) : (s.stopBlocks k).host = s.host := rfl
@[simp] theorem State.stopBlocks_reports (s : State) (k : Nat) : (s.stopBlocks k).reports = s.reports := rfl
@[simp] theorem State.stopBlocks_tlb (s : State) (k : Nat) : (s.stopBlocks k).tlb = s.tlb := rfl
@[simp] theorem State.stopBlocks_regions (s : State) (k : Nat) : (s.stopBlocks k).regions = s.regions := rfl
@[simp] theorem State.stopBlocks_codebuf (s : State) (k : Nat) : (s.stopBlocks k).codebuf = s.codebuf := rfl
@[simp] theorem State.stopBlocks_ics (s : State) (k : Nat) : (s.stopBlocks k).ics = s.ics := rfl
@[simp] theorem State.stopBlocks_offers (s : State) (k : Nat) : (s.stopBlocks k).offers = s.offers := rfl
@[simp] theorem State.stopBlocks_cores (s : State) (k : Nat) : (s.stopBlocks k).cores = s.cores := rfl
@[simp] theorem State.stopBlocks_fab (s : State) (k : Nat) : (s.stopBlocks k).fab = s.fab := rfl
@[simp] theorem State.stopBlocks_ckpt (s : State) (k : Nat) : (s.stopBlocks k).ckpt = s.ckpt := rfl

/-! ### The firmware's part -/

@[simp] theorem State.modLaunch_fw_contexts (s : State) (k : Nat) (f : Launch → Launch) : (s.modLaunch k f).fw.contexts = s.fw.contexts := rfl
@[simp] theorem State.modLaunch_fw_keys (s : State) (k : Nat) (f : Launch → Launch) : (s.modLaunch k f).fw.keys = s.fw.keys := rfl
@[simp] theorem State.modLaunch_fw_queues (s : State) (k : Nat) (f : Launch → Launch) : (s.modLaunch k f).fw.queues = s.fw.queues := rfl
@[simp] theorem State.modLaunch_fw_heads (s : State) (k : Nat) (f : Launch → Launch) : (s.modLaunch k f).fw.heads = s.fw.heads := rfl
@[simp] theorem State.modLaunch_fw_aged (s : State) (k : Nat) (f : Launch → Launch) : (s.modLaunch k f).fw.aged = s.fw.aged := rfl
@[simp] theorem State.modLaunch_fw_fns (s : State) (k : Nat) (f : Launch → Launch) : (s.modLaunch k f).fw.fns = s.fw.fns := rfl
@[simp] theorem State.modLaunch_fw_rr (s : State) (k : Nat) (f : Launch → Launch) : (s.modLaunch k f).fw.rr = s.fw.rr := rfl
@[simp] theorem State.modLaunch_fw_jobs (s : State) (k : Nat) (f : Launch → Launch) : (s.modLaunch k f).fw.jobs = s.fw.jobs := rfl
@[simp] theorem State.modLaunch_fw_created (s : State) (k : Nat) (f : Launch → Launch) : (s.modLaunch k f).fw.created = s.fw.created := rfl
@[simp] theorem State.modLaunch_fw_window (s : State) (k : Nat) (f : Launch → Launch) : (s.modLaunch k f).fw.window = s.fw.window := rfl
@[simp] theorem State.modLaunch_fw_thermal (s : State) (k : Nat) (f : Launch → Launch) : (s.modLaunch k f).fw.thermal = s.fw.thermal := rfl
@[simp] theorem State.modLaunch_fw_memspare (s : State) (k : Nat) (f : Launch → Launch) : (s.modLaunch k f).fw.memspare = s.fw.memspare := rfl
@[simp] theorem State.modLaunch_fw_l2ways (s : State) (k : Nat) (f : Launch → Launch) : (s.modLaunch k f).fw.l2ways = s.fw.l2ways := rfl
@[simp] theorem State.modLaunch_fw_flash (s : State) (k : Nat) (f : Launch → Launch) : (s.modLaunch k f).fw.flash = s.fw.flash := rfl
@[simp] theorem State.modLaunch_fw_spares (s : State) (k : Nat) (f : Launch → Launch) : (s.modLaunch k f).fw.spares = s.fw.spares := rfl
@[simp] theorem State.modLaunch_fw_warn (s : State) (k : Nat) (f : Launch → Launch) : (s.modLaunch k f).fw.warn = s.fw.warn := rfl
@[simp] theorem State.modLaunch_fw_lanewarn (s : State) (k : Nat) (f : Launch → Launch) : (s.modLaunch k f).fw.lanewarn = s.fw.lanewarn := rfl
@[simp] theorem State.modLaunch_fw_quiesce (s : State) (k : Nat) (f : Launch → Launch) : (s.modLaunch k f).fw.quiesce = s.fw.quiesce := rfl
@[simp] theorem State.modLaunch_fw_ckptBy (s : State) (k : Nat) (f : Launch → Launch) : (s.modLaunch k f).fw.ckptBy = s.fw.ckptBy := rfl
@[simp] theorem State.modLaunch_fw_powered (s : State) (k : Nat) (f : Launch → Launch) : (s.modLaunch k f).fw.powered = s.fw.powered := rfl
@[simp] theorem State.modLaunch_fw_answers (s : State) (k : Nat) (f : Launch → Launch) : (s.modLaunch k f).fw.answers = s.fw.answers := rfl
@[simp] theorem State.modContext_fw_keys (s : State) (k : Nat) (f : Context → Context) : (s.modContext k f).fw.keys = s.fw.keys := rfl
@[simp] theorem State.modContext_fw_launches (s : State) (k : Nat) (f : Context → Context) : (s.modContext k f).fw.launches = s.fw.launches := rfl
@[simp] theorem State.modContext_fw_queues (s : State) (k : Nat) (f : Context → Context) : (s.modContext k f).fw.queues = s.fw.queues := rfl
@[simp] theorem State.modContext_fw_heads (s : State) (k : Nat) (f : Context → Context) : (s.modContext k f).fw.heads = s.fw.heads := rfl
@[simp] theorem State.modContext_fw_aged (s : State) (k : Nat) (f : Context → Context) : (s.modContext k f).fw.aged = s.fw.aged := rfl
@[simp] theorem State.modContext_fw_fns (s : State) (k : Nat) (f : Context → Context) : (s.modContext k f).fw.fns = s.fw.fns := rfl
@[simp] theorem State.modContext_fw_rr (s : State) (k : Nat) (f : Context → Context) : (s.modContext k f).fw.rr = s.fw.rr := rfl
@[simp] theorem State.modContext_fw_jobs (s : State) (k : Nat) (f : Context → Context) : (s.modContext k f).fw.jobs = s.fw.jobs := rfl
@[simp] theorem State.modContext_fw_created (s : State) (k : Nat) (f : Context → Context) : (s.modContext k f).fw.created = s.fw.created := rfl
@[simp] theorem State.modContext_fw_window (s : State) (k : Nat) (f : Context → Context) : (s.modContext k f).fw.window = s.fw.window := rfl
@[simp] theorem State.modContext_fw_thermal (s : State) (k : Nat) (f : Context → Context) : (s.modContext k f).fw.thermal = s.fw.thermal := rfl
@[simp] theorem State.modContext_fw_memspare (s : State) (k : Nat) (f : Context → Context) : (s.modContext k f).fw.memspare = s.fw.memspare := rfl
@[simp] theorem State.modContext_fw_l2ways (s : State) (k : Nat) (f : Context → Context) : (s.modContext k f).fw.l2ways = s.fw.l2ways := rfl
@[simp] theorem State.modContext_fw_flash (s : State) (k : Nat) (f : Context → Context) : (s.modContext k f).fw.flash = s.fw.flash := rfl
@[simp] theorem State.modContext_fw_spares (s : State) (k : Nat) (f : Context → Context) : (s.modContext k f).fw.spares = s.fw.spares := rfl
@[simp] theorem State.modContext_fw_warn (s : State) (k : Nat) (f : Context → Context) : (s.modContext k f).fw.warn = s.fw.warn := rfl
@[simp] theorem State.modContext_fw_lanewarn (s : State) (k : Nat) (f : Context → Context) : (s.modContext k f).fw.lanewarn = s.fw.lanewarn := rfl
@[simp] theorem State.modContext_fw_quiesce (s : State) (k : Nat) (f : Context → Context) : (s.modContext k f).fw.quiesce = s.fw.quiesce := rfl
@[simp] theorem State.modContext_fw_ckptBy (s : State) (k : Nat) (f : Context → Context) : (s.modContext k f).fw.ckptBy = s.fw.ckptBy := rfl
@[simp] theorem State.modContext_fw_powered (s : State) (k : Nat) (f : Context → Context) : (s.modContext k f).fw.powered = s.fw.powered := rfl
@[simp] theorem State.modContext_fw_answers (s : State) (k : Nat) (f : Context → Context) : (s.modContext k f).fw.answers = s.fw.answers := rfl
@[simp] theorem State.setFn_fw_contexts (s : State) (k : Nat) (x : Fn) : (s.setFn k x).fw.contexts = s.fw.contexts := rfl
@[simp] theorem State.setFn_fw_keys (s : State) (k : Nat) (x : Fn) : (s.setFn k x).fw.keys = s.fw.keys := rfl
@[simp] theorem State.setFn_fw_launches (s : State) (k : Nat) (x : Fn) : (s.setFn k x).fw.launches = s.fw.launches := rfl
@[simp] theorem State.setFn_fw_queues (s : State) (k : Nat) (x : Fn) : (s.setFn k x).fw.queues = s.fw.queues := rfl
@[simp] theorem State.setFn_fw_heads (s : State) (k : Nat) (x : Fn) : (s.setFn k x).fw.heads = s.fw.heads := rfl
@[simp] theorem State.setFn_fw_aged (s : State) (k : Nat) (x : Fn) : (s.setFn k x).fw.aged = s.fw.aged := rfl
@[simp] theorem State.setFn_fw_rr (s : State) (k : Nat) (x : Fn) : (s.setFn k x).fw.rr = s.fw.rr := rfl
@[simp] theorem State.setFn_fw_jobs (s : State) (k : Nat) (x : Fn) : (s.setFn k x).fw.jobs = s.fw.jobs := rfl
@[simp] theorem State.setFn_fw_created (s : State) (k : Nat) (x : Fn) : (s.setFn k x).fw.created = s.fw.created := rfl
@[simp] theorem State.setFn_fw_window (s : State) (k : Nat) (x : Fn) : (s.setFn k x).fw.window = s.fw.window := rfl
@[simp] theorem State.setFn_fw_thermal (s : State) (k : Nat) (x : Fn) : (s.setFn k x).fw.thermal = s.fw.thermal := rfl
@[simp] theorem State.setFn_fw_memspare (s : State) (k : Nat) (x : Fn) : (s.setFn k x).fw.memspare = s.fw.memspare := rfl
@[simp] theorem State.setFn_fw_l2ways (s : State) (k : Nat) (x : Fn) : (s.setFn k x).fw.l2ways = s.fw.l2ways := rfl
@[simp] theorem State.setFn_fw_flash (s : State) (k : Nat) (x : Fn) : (s.setFn k x).fw.flash = s.fw.flash := rfl
@[simp] theorem State.setFn_fw_spares (s : State) (k : Nat) (x : Fn) : (s.setFn k x).fw.spares = s.fw.spares := rfl
@[simp] theorem State.setFn_fw_warn (s : State) (k : Nat) (x : Fn) : (s.setFn k x).fw.warn = s.fw.warn := rfl
@[simp] theorem State.setFn_fw_lanewarn (s : State) (k : Nat) (x : Fn) : (s.setFn k x).fw.lanewarn = s.fw.lanewarn := rfl
@[simp] theorem State.setFn_fw_quiesce (s : State) (k : Nat) (x : Fn) : (s.setFn k x).fw.quiesce = s.fw.quiesce := rfl
@[simp] theorem State.setFn_fw_ckptBy (s : State) (k : Nat) (x : Fn) : (s.setFn k x).fw.ckptBy = s.fw.ckptBy := rfl
@[simp] theorem State.setFn_fw_powered (s : State) (k : Nat) (x : Fn) : (s.setFn k x).fw.powered = s.fw.powered := rfl
@[simp] theorem State.setFn_fw_answers (s : State) (k : Nat) (x : Fn) : (s.setFn k x).fw.answers = s.fw.answers := rfl

/-! ### A group -/

@[simp] theorem Group.setS_lanes (g : Group) (r : Nat) (w : W64) : (g.setS r w).lanes = g.lanes := rfl
@[simp] theorem Group.setS_p (g : Group) (r : Nat) (w : W64) : (g.setS r w).p = g.p := rfl
@[simp] theorem Group.setS_gang (g : Group) (r : Nat) (w : W64) : (g.setS r w).gang = g.gang := rfl
@[simp] theorem Group.setS_lc (g : Group) (r : Nat) (w : W64) : (g.setS r w).lc = g.lc := rfl
@[simp] theorem Group.setS_sc (g : Group) (r : Nat) (w : W64) : (g.setS r w).sc = g.sc := rfl
@[simp] theorem Group.setS_mc (g : Group) (r : Nat) (w : W64) : (g.setS r w).mc = g.mc := rfl
@[simp] theorem Group.setS_ec (g : Group) (r : Nat) (w : W64) : (g.setS r w).ec = g.ec := rfl
@[simp] theorem Group.setS_cause (g : Group) (r : Nat) (w : W64) : (g.setS r w).cause = g.cause := rfl
@[simp] theorem Group.setS_tvec (g : Group) (r : Nat) (w : W64) : (g.setS r w).tvec = g.tvec := rfl
@[simp] theorem Group.setS_tepc (g : Group) (r : Nat) (w : W64) : (g.setS r w).tepc = g.tepc := rfl
@[simp] theorem Group.setS_tmask (g : Group) (r : Nat) (w : W64) : (g.setS r w).tmask = g.tmask := rfl
@[simp] theorem Group.setS_tstat (g : Group) (r : Nat) (w : W64) : (g.setS r w).tstat = g.tstat := rfl
@[simp] theorem Group.setS_tscratch (g : Group) (r : Nat) (w : W64) : (g.setS r w).tscratch = g.tscratch := rfl
@[simp] theorem Group.setS_fstat (g : Group) (r : Nat) (w : W64) : (g.setS r w).fstat = g.fstat := rfl
@[simp] theorem Group.setS_newFlags (g : Group) (r : Nat) (w : W64) : (g.setS r w).newFlags = g.newFlags := rfl
@[simp] theorem Group.setS_faddr (g : Group) (r : Nat) (w : W64) : (g.setS r w).faddr = g.faddr := rfl
@[simp] theorem Group.setS_fkind (g : Group) (r : Nat) (w : W64) : (g.setS r w).fkind = g.fkind := rfl
@[simp] theorem Group.setS_fpc (g : Group) (r : Nat) (w : W64) : (g.setS r w).fpc = g.fpc := rfl
@[simp] theorem Group.setS_reuse (g : Group) (r : Nat) (w : W64) : (g.setS r w).reuse = g.reuse := rfl
@[simp] theorem Group.setS_insns (g : Group) (r : Nat) (w : W64) : (g.setS r w).insns = g.insns := rfl
@[simp] theorem Group.setS_after (g : Group) (r : Nat) (w : W64) : (g.setS r w).after = g.after := rfl
@[simp] theorem Group.setS_trapChk (g : Group) (r : Nat) (w : W64) : (g.setS r w).trapChk = g.trapChk := rfl
@[simp] theorem Group.setS_poolPark (g : Group) (r : Nat) (w : W64) : (g.setS r w).poolPark = g.poolPark := rfl
@[simp] theorem Group.setS_quad (g : Group) (r : Nat) (w : W64) : (g.setS r w).quad = g.quad := rfl
@[simp] theorem Group.setS_active (g : Group) (r : Nat) (w : W64) : (g.setS r w).active = g.active := rfl
@[simp] theorem Group.setS_mayIssue (g : Group) (r : Nat) (w : W64) : (g.setS r w).mayIssue = g.mayIssue := rfl
@[simp] theorem Group.setS_readyAt (g : Group) (r : Nat) (w : W64) : (g.setS r w).readyAt = g.readyAt := rfl
@[simp] theorem Group.setS_idleAt (g : Group) (r : Nat) (w : W64) : (g.setS r w).idleAt = g.idleAt := rfl
@[simp] theorem Group.setS_idleOut (g : Group) (r : Nat) (w : W64) : (g.setS r w).idleOut = g.idleOut := rfl
@[simp] theorem Group.setS_task (g : Group) (r : Nat) (w : W64) : (g.setS r w).task = g.task := rfl
@[simp] theorem Group.setS_forming (g : Group) (r : Nat) (w : W64) : (g.setS r w).forming = g.forming := rfl
@[simp] theorem Group.setS_epoch (g : Group) (r : Nat) (w : W64) : (g.setS r w).epoch = g.epoch := rfl
@[simp] theorem Group.modLanes_p (g : Group) (m : Mask) (f : Nat → Lane → Lane) : (g.modLanes m f).p = g.p := rfl
@[simp] theorem Group.modLanes_s (g : Group) (m : Mask) (f : Nat → Lane → Lane) : (g.modLanes m f).s = g.s := rfl
@[simp] theorem Group.modLanes_gang (g : Group) (m : Mask) (f : Nat → Lane → Lane) : (g.modLanes m f).gang = g.gang := rfl
@[simp] theorem Group.modLanes_lc (g : Group) (m : Mask) (f : Nat → Lane → Lane) : (g.modLanes m f).lc = g.lc := rfl
@[simp] theorem Group.modLanes_sc (g : Group) (m : Mask) (f : Nat → Lane → Lane) : (g.modLanes m f).sc = g.sc := rfl
@[simp] theorem Group.modLanes_mc (g : Group) (m : Mask) (f : Nat → Lane → Lane) : (g.modLanes m f).mc = g.mc := rfl
@[simp] theorem Group.modLanes_ec (g : Group) (m : Mask) (f : Nat → Lane → Lane) : (g.modLanes m f).ec = g.ec := rfl
@[simp] theorem Group.modLanes_cause (g : Group) (m : Mask) (f : Nat → Lane → Lane) : (g.modLanes m f).cause = g.cause := rfl
@[simp] theorem Group.modLanes_tvec (g : Group) (m : Mask) (f : Nat → Lane → Lane) : (g.modLanes m f).tvec = g.tvec := rfl
@[simp] theorem Group.modLanes_tepc (g : Group) (m : Mask) (f : Nat → Lane → Lane) : (g.modLanes m f).tepc = g.tepc := rfl
@[simp] theorem Group.modLanes_tmask (g : Group) (m : Mask) (f : Nat → Lane → Lane) : (g.modLanes m f).tmask = g.tmask := rfl
@[simp] theorem Group.modLanes_tstat (g : Group) (m : Mask) (f : Nat → Lane → Lane) : (g.modLanes m f).tstat = g.tstat := rfl
@[simp] theorem Group.modLanes_tscratch (g : Group) (m : Mask) (f : Nat → Lane → Lane) : (g.modLanes m f).tscratch = g.tscratch := rfl
@[simp] theorem Group.modLanes_fstat (g : Group) (m : Mask) (f : Nat → Lane → Lane) : (g.modLanes m f).fstat = g.fstat := rfl
@[simp] theorem Group.modLanes_newFlags (g : Group) (m : Mask) (f : Nat → Lane → Lane) : (g.modLanes m f).newFlags = g.newFlags := rfl
@[simp] theorem Group.modLanes_faddr (g : Group) (m : Mask) (f : Nat → Lane → Lane) : (g.modLanes m f).faddr = g.faddr := rfl
@[simp] theorem Group.modLanes_fkind (g : Group) (m : Mask) (f : Nat → Lane → Lane) : (g.modLanes m f).fkind = g.fkind := rfl
@[simp] theorem Group.modLanes_fpc (g : Group) (m : Mask) (f : Nat → Lane → Lane) : (g.modLanes m f).fpc = g.fpc := rfl
@[simp] theorem Group.modLanes_reuse (g : Group) (m : Mask) (f : Nat → Lane → Lane) : (g.modLanes m f).reuse = g.reuse := rfl
@[simp] theorem Group.modLanes_insns (g : Group) (m : Mask) (f : Nat → Lane → Lane) : (g.modLanes m f).insns = g.insns := rfl
@[simp] theorem Group.modLanes_after (g : Group) (m : Mask) (f : Nat → Lane → Lane) : (g.modLanes m f).after = g.after := rfl
@[simp] theorem Group.modLanes_trapChk (g : Group) (m : Mask) (f : Nat → Lane → Lane) : (g.modLanes m f).trapChk = g.trapChk := rfl
@[simp] theorem Group.modLanes_poolPark (g : Group) (m : Mask) (f : Nat → Lane → Lane) : (g.modLanes m f).poolPark = g.poolPark := rfl
@[simp] theorem Group.modLanes_quad (g : Group) (m : Mask) (f : Nat → Lane → Lane) : (g.modLanes m f).quad = g.quad := rfl
@[simp] theorem Group.modLanes_active (g : Group) (m : Mask) (f : Nat → Lane → Lane) : (g.modLanes m f).active = g.active := rfl
@[simp] theorem Group.modLanes_mayIssue (g : Group) (m : Mask) (f : Nat → Lane → Lane) : (g.modLanes m f).mayIssue = g.mayIssue := rfl
@[simp] theorem Group.modLanes_readyAt (g : Group) (m : Mask) (f : Nat → Lane → Lane) : (g.modLanes m f).readyAt = g.readyAt := rfl
@[simp] theorem Group.modLanes_idleAt (g : Group) (m : Mask) (f : Nat → Lane → Lane) : (g.modLanes m f).idleAt = g.idleAt := rfl
@[simp] theorem Group.modLanes_idleOut (g : Group) (m : Mask) (f : Nat → Lane → Lane) : (g.modLanes m f).idleOut = g.idleOut := rfl
@[simp] theorem Group.modLanes_task (g : Group) (m : Mask) (f : Nat → Lane → Lane) : (g.modLanes m f).task = g.task := rfl
@[simp] theorem Group.modLanes_forming (g : Group) (m : Mask) (f : Nat → Lane → Lane) : (g.modLanes m f).forming = g.forming := rfl
@[simp] theorem Group.modLanes_epoch (g : Group) (m : Mask) (f : Nat → Lane → Lane) : (g.modLanes m f).epoch = g.epoch := rfl
@[simp] theorem Group.flag_lanes (g : Group) (w : W64) : (g.flag w).lanes = g.lanes := rfl
@[simp] theorem Group.flag_p (g : Group) (w : W64) : (g.flag w).p = g.p := rfl
@[simp] theorem Group.flag_s (g : Group) (w : W64) : (g.flag w).s = g.s := rfl
@[simp] theorem Group.flag_gang (g : Group) (w : W64) : (g.flag w).gang = g.gang := rfl
@[simp] theorem Group.flag_lc (g : Group) (w : W64) : (g.flag w).lc = g.lc := rfl
@[simp] theorem Group.flag_sc (g : Group) (w : W64) : (g.flag w).sc = g.sc := rfl
@[simp] theorem Group.flag_mc (g : Group) (w : W64) : (g.flag w).mc = g.mc := rfl
@[simp] theorem Group.flag_ec (g : Group) (w : W64) : (g.flag w).ec = g.ec := rfl
@[simp] theorem Group.flag_cause (g : Group) (w : W64) : (g.flag w).cause = g.cause := rfl
@[simp] theorem Group.flag_tvec (g : Group) (w : W64) : (g.flag w).tvec = g.tvec := rfl
@[simp] theorem Group.flag_tepc (g : Group) (w : W64) : (g.flag w).tepc = g.tepc := rfl
@[simp] theorem Group.flag_tmask (g : Group) (w : W64) : (g.flag w).tmask = g.tmask := rfl
@[simp] theorem Group.flag_tstat (g : Group) (w : W64) : (g.flag w).tstat = g.tstat := rfl
@[simp] theorem Group.flag_tscratch (g : Group) (w : W64) : (g.flag w).tscratch = g.tscratch := rfl
@[simp] theorem Group.flag_faddr (g : Group) (w : W64) : (g.flag w).faddr = g.faddr := rfl
@[simp] theorem Group.flag_fkind (g : Group) (w : W64) : (g.flag w).fkind = g.fkind := rfl
@[simp] theorem Group.flag_fpc (g : Group) (w : W64) : (g.flag w).fpc = g.fpc := rfl
@[simp] theorem Group.flag_reuse (g : Group) (w : W64) : (g.flag w).reuse = g.reuse := rfl
@[simp] theorem Group.flag_insns (g : Group) (w : W64) : (g.flag w).insns = g.insns := rfl
@[simp] theorem Group.flag_after (g : Group) (w : W64) : (g.flag w).after = g.after := rfl
@[simp] theorem Group.flag_trapChk (g : Group) (w : W64) : (g.flag w).trapChk = g.trapChk := rfl
@[simp] theorem Group.flag_poolPark (g : Group) (w : W64) : (g.flag w).poolPark = g.poolPark := rfl
@[simp] theorem Group.flag_quad (g : Group) (w : W64) : (g.flag w).quad = g.quad := rfl
@[simp] theorem Group.flag_active (g : Group) (w : W64) : (g.flag w).active = g.active := rfl
@[simp] theorem Group.flag_mayIssue (g : Group) (w : W64) : (g.flag w).mayIssue = g.mayIssue := rfl
@[simp] theorem Group.flag_readyAt (g : Group) (w : W64) : (g.flag w).readyAt = g.readyAt := rfl
@[simp] theorem Group.flag_idleAt (g : Group) (w : W64) : (g.flag w).idleAt = g.idleAt := rfl
@[simp] theorem Group.flag_idleOut (g : Group) (w : W64) : (g.flag w).idleOut = g.idleOut := rfl
@[simp] theorem Group.flag_task (g : Group) (w : W64) : (g.flag w).task = g.task := rfl
@[simp] theorem Group.flag_forming (g : Group) (w : W64) : (g.flag w).forming = g.forming := rfl
@[simp] theorem Group.flag_epoch (g : Group) (w : W64) : (g.flag w).epoch = g.epoch := rfl
@[simp] theorem Group.flags_lanes (g : Group) (n : Nat) : (g.flags n).lanes = g.lanes := rfl
@[simp] theorem Group.flags_p (g : Group) (n : Nat) : (g.flags n).p = g.p := rfl
@[simp] theorem Group.flags_s (g : Group) (n : Nat) : (g.flags n).s = g.s := rfl
@[simp] theorem Group.flags_gang (g : Group) (n : Nat) : (g.flags n).gang = g.gang := rfl
@[simp] theorem Group.flags_lc (g : Group) (n : Nat) : (g.flags n).lc = g.lc := rfl
@[simp] theorem Group.flags_sc (g : Group) (n : Nat) : (g.flags n).sc = g.sc := rfl
@[simp] theorem Group.flags_mc (g : Group) (n : Nat) : (g.flags n).mc = g.mc := rfl
@[simp] theorem Group.flags_ec (g : Group) (n : Nat) : (g.flags n).ec = g.ec := rfl
@[simp] theorem Group.flags_cause (g : Group) (n : Nat) : (g.flags n).cause = g.cause := rfl
@[simp] theorem Group.flags_tvec (g : Group) (n : Nat) : (g.flags n).tvec = g.tvec := rfl
@[simp] theorem Group.flags_tepc (g : Group) (n : Nat) : (g.flags n).tepc = g.tepc := rfl
@[simp] theorem Group.flags_tmask (g : Group) (n : Nat) : (g.flags n).tmask = g.tmask := rfl
@[simp] theorem Group.flags_tstat (g : Group) (n : Nat) : (g.flags n).tstat = g.tstat := rfl
@[simp] theorem Group.flags_tscratch (g : Group) (n : Nat) : (g.flags n).tscratch = g.tscratch := rfl
@[simp] theorem Group.flags_faddr (g : Group) (n : Nat) : (g.flags n).faddr = g.faddr := rfl
@[simp] theorem Group.flags_fkind (g : Group) (n : Nat) : (g.flags n).fkind = g.fkind := rfl
@[simp] theorem Group.flags_fpc (g : Group) (n : Nat) : (g.flags n).fpc = g.fpc := rfl
@[simp] theorem Group.flags_reuse (g : Group) (n : Nat) : (g.flags n).reuse = g.reuse := rfl
@[simp] theorem Group.flags_insns (g : Group) (n : Nat) : (g.flags n).insns = g.insns := rfl
@[simp] theorem Group.flags_after (g : Group) (n : Nat) : (g.flags n).after = g.after := rfl
@[simp] theorem Group.flags_trapChk (g : Group) (n : Nat) : (g.flags n).trapChk = g.trapChk := rfl
@[simp] theorem Group.flags_poolPark (g : Group) (n : Nat) : (g.flags n).poolPark = g.poolPark := rfl
@[simp] theorem Group.flags_quad (g : Group) (n : Nat) : (g.flags n).quad = g.quad := rfl
@[simp] theorem Group.flags_active (g : Group) (n : Nat) : (g.flags n).active = g.active := rfl
@[simp] theorem Group.flags_mayIssue (g : Group) (n : Nat) : (g.flags n).mayIssue = g.mayIssue := rfl
@[simp] theorem Group.flags_readyAt (g : Group) (n : Nat) : (g.flags n).readyAt = g.readyAt := rfl
@[simp] theorem Group.flags_idleAt (g : Group) (n : Nat) : (g.flags n).idleAt = g.idleAt := rfl
@[simp] theorem Group.flags_idleOut (g : Group) (n : Nat) : (g.flags n).idleOut = g.idleOut := rfl
@[simp] theorem Group.flags_task (g : Group) (n : Nat) : (g.flags n).task = g.task := rfl
@[simp] theorem Group.flags_forming (g : Group) (n : Nat) : (g.flags n).forming = g.forming := rfl
@[simp] theorem Group.flags_epoch (g : Group) (n : Nat) : (g.flags n).epoch = g.epoch := rfl
@[simp] theorem Group.putV_p (g : Group) (m : Mask) (d : Nat) (f : Nat → W32) : (g.putV m d f).p = g.p := rfl
@[simp] theorem Group.putV_s (g : Group) (m : Mask) (d : Nat) (f : Nat → W32) : (g.putV m d f).s = g.s := rfl
@[simp] theorem Group.putV_gang (g : Group) (m : Mask) (d : Nat) (f : Nat → W32) : (g.putV m d f).gang = g.gang := rfl
@[simp] theorem Group.putV_lc (g : Group) (m : Mask) (d : Nat) (f : Nat → W32) : (g.putV m d f).lc = g.lc := rfl
@[simp] theorem Group.putV_sc (g : Group) (m : Mask) (d : Nat) (f : Nat → W32) : (g.putV m d f).sc = g.sc := rfl
@[simp] theorem Group.putV_mc (g : Group) (m : Mask) (d : Nat) (f : Nat → W32) : (g.putV m d f).mc = g.mc := rfl
@[simp] theorem Group.putV_ec (g : Group) (m : Mask) (d : Nat) (f : Nat → W32) : (g.putV m d f).ec = g.ec := rfl
@[simp] theorem Group.putV_cause (g : Group) (m : Mask) (d : Nat) (f : Nat → W32) : (g.putV m d f).cause = g.cause := rfl
@[simp] theorem Group.putV_tvec (g : Group) (m : Mask) (d : Nat) (f : Nat → W32) : (g.putV m d f).tvec = g.tvec := rfl
@[simp] theorem Group.putV_tepc (g : Group) (m : Mask) (d : Nat) (f : Nat → W32) : (g.putV m d f).tepc = g.tepc := rfl
@[simp] theorem Group.putV_tmask (g : Group) (m : Mask) (d : Nat) (f : Nat → W32) : (g.putV m d f).tmask = g.tmask := rfl
@[simp] theorem Group.putV_tstat (g : Group) (m : Mask) (d : Nat) (f : Nat → W32) : (g.putV m d f).tstat = g.tstat := rfl
@[simp] theorem Group.putV_tscratch (g : Group) (m : Mask) (d : Nat) (f : Nat → W32) : (g.putV m d f).tscratch = g.tscratch := rfl
@[simp] theorem Group.putV_fstat (g : Group) (m : Mask) (d : Nat) (f : Nat → W32) : (g.putV m d f).fstat = g.fstat := rfl
@[simp] theorem Group.putV_newFlags (g : Group) (m : Mask) (d : Nat) (f : Nat → W32) : (g.putV m d f).newFlags = g.newFlags := rfl
@[simp] theorem Group.putV_faddr (g : Group) (m : Mask) (d : Nat) (f : Nat → W32) : (g.putV m d f).faddr = g.faddr := rfl
@[simp] theorem Group.putV_fkind (g : Group) (m : Mask) (d : Nat) (f : Nat → W32) : (g.putV m d f).fkind = g.fkind := rfl
@[simp] theorem Group.putV_fpc (g : Group) (m : Mask) (d : Nat) (f : Nat → W32) : (g.putV m d f).fpc = g.fpc := rfl
@[simp] theorem Group.putV_reuse (g : Group) (m : Mask) (d : Nat) (f : Nat → W32) : (g.putV m d f).reuse = g.reuse := rfl
@[simp] theorem Group.putV_insns (g : Group) (m : Mask) (d : Nat) (f : Nat → W32) : (g.putV m d f).insns = g.insns := rfl
@[simp] theorem Group.putV_after (g : Group) (m : Mask) (d : Nat) (f : Nat → W32) : (g.putV m d f).after = g.after := rfl
@[simp] theorem Group.putV_trapChk (g : Group) (m : Mask) (d : Nat) (f : Nat → W32) : (g.putV m d f).trapChk = g.trapChk := rfl
@[simp] theorem Group.putV_poolPark (g : Group) (m : Mask) (d : Nat) (f : Nat → W32) : (g.putV m d f).poolPark = g.poolPark := rfl
@[simp] theorem Group.putV_quad (g : Group) (m : Mask) (d : Nat) (f : Nat → W32) : (g.putV m d f).quad = g.quad := rfl
@[simp] theorem Group.putV_active (g : Group) (m : Mask) (d : Nat) (f : Nat → W32) : (g.putV m d f).active = g.active := rfl
@[simp] theorem Group.putV_mayIssue (g : Group) (m : Mask) (d : Nat) (f : Nat → W32) : (g.putV m d f).mayIssue = g.mayIssue := rfl
@[simp] theorem Group.putV_readyAt (g : Group) (m : Mask) (d : Nat) (f : Nat → W32) : (g.putV m d f).readyAt = g.readyAt := rfl
@[simp] theorem Group.putV_idleAt (g : Group) (m : Mask) (d : Nat) (f : Nat → W32) : (g.putV m d f).idleAt = g.idleAt := rfl
@[simp] theorem Group.putV_idleOut (g : Group) (m : Mask) (d : Nat) (f : Nat → W32) : (g.putV m d f).idleOut = g.idleOut := rfl
@[simp] theorem Group.putV_task (g : Group) (m : Mask) (d : Nat) (f : Nat → W32) : (g.putV m d f).task = g.task := rfl
@[simp] theorem Group.putV_forming (g : Group) (m : Mask) (d : Nat) (f : Nat → W32) : (g.putV m d f).forming = g.forming := rfl
@[simp] theorem Group.putV_epoch (g : Group) (m : Mask) (d : Nat) (f : Nat → W32) : (g.putV m d f).epoch = g.epoch := rfl
@[simp] theorem Group.putV2_p (g : Group) (m : Mask) (d : Nat) (f : Nat → W64) : (g.putV2 m d f).p = g.p := rfl
@[simp] theorem Group.putV2_s (g : Group) (m : Mask) (d : Nat) (f : Nat → W64) : (g.putV2 m d f).s = g.s := rfl
@[simp] theorem Group.putV2_gang (g : Group) (m : Mask) (d : Nat) (f : Nat → W64) : (g.putV2 m d f).gang = g.gang := rfl
@[simp] theorem Group.putV2_lc (g : Group) (m : Mask) (d : Nat) (f : Nat → W64) : (g.putV2 m d f).lc = g.lc := rfl
@[simp] theorem Group.putV2_sc (g : Group) (m : Mask) (d : Nat) (f : Nat → W64) : (g.putV2 m d f).sc = g.sc := rfl
@[simp] theorem Group.putV2_mc (g : Group) (m : Mask) (d : Nat) (f : Nat → W64) : (g.putV2 m d f).mc = g.mc := rfl
@[simp] theorem Group.putV2_ec (g : Group) (m : Mask) (d : Nat) (f : Nat → W64) : (g.putV2 m d f).ec = g.ec := rfl
@[simp] theorem Group.putV2_cause (g : Group) (m : Mask) (d : Nat) (f : Nat → W64) : (g.putV2 m d f).cause = g.cause := rfl
@[simp] theorem Group.putV2_tvec (g : Group) (m : Mask) (d : Nat) (f : Nat → W64) : (g.putV2 m d f).tvec = g.tvec := rfl
@[simp] theorem Group.putV2_tepc (g : Group) (m : Mask) (d : Nat) (f : Nat → W64) : (g.putV2 m d f).tepc = g.tepc := rfl
@[simp] theorem Group.putV2_tmask (g : Group) (m : Mask) (d : Nat) (f : Nat → W64) : (g.putV2 m d f).tmask = g.tmask := rfl
@[simp] theorem Group.putV2_tstat (g : Group) (m : Mask) (d : Nat) (f : Nat → W64) : (g.putV2 m d f).tstat = g.tstat := rfl
@[simp] theorem Group.putV2_tscratch (g : Group) (m : Mask) (d : Nat) (f : Nat → W64) : (g.putV2 m d f).tscratch = g.tscratch := rfl
@[simp] theorem Group.putV2_fstat (g : Group) (m : Mask) (d : Nat) (f : Nat → W64) : (g.putV2 m d f).fstat = g.fstat := rfl
@[simp] theorem Group.putV2_newFlags (g : Group) (m : Mask) (d : Nat) (f : Nat → W64) : (g.putV2 m d f).newFlags = g.newFlags := rfl
@[simp] theorem Group.putV2_faddr (g : Group) (m : Mask) (d : Nat) (f : Nat → W64) : (g.putV2 m d f).faddr = g.faddr := rfl
@[simp] theorem Group.putV2_fkind (g : Group) (m : Mask) (d : Nat) (f : Nat → W64) : (g.putV2 m d f).fkind = g.fkind := rfl
@[simp] theorem Group.putV2_fpc (g : Group) (m : Mask) (d : Nat) (f : Nat → W64) : (g.putV2 m d f).fpc = g.fpc := rfl
@[simp] theorem Group.putV2_reuse (g : Group) (m : Mask) (d : Nat) (f : Nat → W64) : (g.putV2 m d f).reuse = g.reuse := rfl
@[simp] theorem Group.putV2_insns (g : Group) (m : Mask) (d : Nat) (f : Nat → W64) : (g.putV2 m d f).insns = g.insns := rfl
@[simp] theorem Group.putV2_after (g : Group) (m : Mask) (d : Nat) (f : Nat → W64) : (g.putV2 m d f).after = g.after := rfl
@[simp] theorem Group.putV2_trapChk (g : Group) (m : Mask) (d : Nat) (f : Nat → W64) : (g.putV2 m d f).trapChk = g.trapChk := rfl
@[simp] theorem Group.putV2_poolPark (g : Group) (m : Mask) (d : Nat) (f : Nat → W64) : (g.putV2 m d f).poolPark = g.poolPark := rfl
@[simp] theorem Group.putV2_quad (g : Group) (m : Mask) (d : Nat) (f : Nat → W64) : (g.putV2 m d f).quad = g.quad := rfl
@[simp] theorem Group.putV2_active (g : Group) (m : Mask) (d : Nat) (f : Nat → W64) : (g.putV2 m d f).active = g.active := rfl
@[simp] theorem Group.putV2_mayIssue (g : Group) (m : Mask) (d : Nat) (f : Nat → W64) : (g.putV2 m d f).mayIssue = g.mayIssue := rfl
@[simp] theorem Group.putV2_readyAt (g : Group) (m : Mask) (d : Nat) (f : Nat → W64) : (g.putV2 m d f).readyAt = g.readyAt := rfl
@[simp] theorem Group.putV2_idleAt (g : Group) (m : Mask) (d : Nat) (f : Nat → W64) : (g.putV2 m d f).idleAt = g.idleAt := rfl
@[simp] theorem Group.putV2_idleOut (g : Group) (m : Mask) (d : Nat) (f : Nat → W64) : (g.putV2 m d f).idleOut = g.idleOut := rfl
@[simp] theorem Group.putV2_task (g : Group) (m : Mask) (d : Nat) (f : Nat → W64) : (g.putV2 m d f).task = g.task := rfl
@[simp] theorem Group.putV2_forming (g : Group) (m : Mask) (d : Nat) (f : Nat → W64) : (g.putV2 m d f).forming = g.forming := rfl
@[simp] theorem Group.putV2_epoch (g : Group) (m : Mask) (d : Nat) (f : Nat → W64) : (g.putV2 m d f).epoch = g.epoch := rfl
/-- Only p may change. -/
theorem Group.setP_eq (g : Group) (r : Nat) (w : W32) : g.setP r w = { g with p := (g.setP r w).p } := by unfold Group.setP; split <;> rfl
@[simp] theorem Group.setP_lanes (g : Group) (r : Nat) (w : W32) : (g.setP r w).lanes = g.lanes := by rw [Group.setP_eq]
@[simp] theorem Group.setP_s (g : Group) (r : Nat) (w : W32) : (g.setP r w).s = g.s := by rw [Group.setP_eq]
@[simp] theorem Group.setP_gang (g : Group) (r : Nat) (w : W32) : (g.setP r w).gang = g.gang := by rw [Group.setP_eq]
@[simp] theorem Group.setP_lc (g : Group) (r : Nat) (w : W32) : (g.setP r w).lc = g.lc := by rw [Group.setP_eq]
@[simp] theorem Group.setP_sc (g : Group) (r : Nat) (w : W32) : (g.setP r w).sc = g.sc := by rw [Group.setP_eq]
@[simp] theorem Group.setP_mc (g : Group) (r : Nat) (w : W32) : (g.setP r w).mc = g.mc := by rw [Group.setP_eq]
@[simp] theorem Group.setP_ec (g : Group) (r : Nat) (w : W32) : (g.setP r w).ec = g.ec := by rw [Group.setP_eq]
@[simp] theorem Group.setP_cause (g : Group) (r : Nat) (w : W32) : (g.setP r w).cause = g.cause := by rw [Group.setP_eq]
@[simp] theorem Group.setP_tvec (g : Group) (r : Nat) (w : W32) : (g.setP r w).tvec = g.tvec := by rw [Group.setP_eq]
@[simp] theorem Group.setP_tepc (g : Group) (r : Nat) (w : W32) : (g.setP r w).tepc = g.tepc := by rw [Group.setP_eq]
@[simp] theorem Group.setP_tmask (g : Group) (r : Nat) (w : W32) : (g.setP r w).tmask = g.tmask := by rw [Group.setP_eq]
@[simp] theorem Group.setP_tstat (g : Group) (r : Nat) (w : W32) : (g.setP r w).tstat = g.tstat := by rw [Group.setP_eq]
@[simp] theorem Group.setP_tscratch (g : Group) (r : Nat) (w : W32) : (g.setP r w).tscratch = g.tscratch := by rw [Group.setP_eq]
@[simp] theorem Group.setP_fstat (g : Group) (r : Nat) (w : W32) : (g.setP r w).fstat = g.fstat := by rw [Group.setP_eq]
@[simp] theorem Group.setP_newFlags (g : Group) (r : Nat) (w : W32) : (g.setP r w).newFlags = g.newFlags := by rw [Group.setP_eq]
@[simp] theorem Group.setP_faddr (g : Group) (r : Nat) (w : W32) : (g.setP r w).faddr = g.faddr := by rw [Group.setP_eq]
@[simp] theorem Group.setP_fkind (g : Group) (r : Nat) (w : W32) : (g.setP r w).fkind = g.fkind := by rw [Group.setP_eq]
@[simp] theorem Group.setP_fpc (g : Group) (r : Nat) (w : W32) : (g.setP r w).fpc = g.fpc := by rw [Group.setP_eq]
@[simp] theorem Group.setP_reuse (g : Group) (r : Nat) (w : W32) : (g.setP r w).reuse = g.reuse := by rw [Group.setP_eq]
@[simp] theorem Group.setP_insns (g : Group) (r : Nat) (w : W32) : (g.setP r w).insns = g.insns := by rw [Group.setP_eq]
@[simp] theorem Group.setP_after (g : Group) (r : Nat) (w : W32) : (g.setP r w).after = g.after := by rw [Group.setP_eq]
@[simp] theorem Group.setP_trapChk (g : Group) (r : Nat) (w : W32) : (g.setP r w).trapChk = g.trapChk := by rw [Group.setP_eq]
@[simp] theorem Group.setP_poolPark (g : Group) (r : Nat) (w : W32) : (g.setP r w).poolPark = g.poolPark := by rw [Group.setP_eq]
@[simp] theorem Group.setP_quad (g : Group) (r : Nat) (w : W32) : (g.setP r w).quad = g.quad := by rw [Group.setP_eq]
@[simp] theorem Group.setP_active (g : Group) (r : Nat) (w : W32) : (g.setP r w).active = g.active := by rw [Group.setP_eq]
@[simp] theorem Group.setP_mayIssue (g : Group) (r : Nat) (w : W32) : (g.setP r w).mayIssue = g.mayIssue := by rw [Group.setP_eq]
@[simp] theorem Group.setP_readyAt (g : Group) (r : Nat) (w : W32) : (g.setP r w).readyAt = g.readyAt := by rw [Group.setP_eq]
@[simp] theorem Group.setP_idleAt (g : Group) (r : Nat) (w : W32) : (g.setP r w).idleAt = g.idleAt := by rw [Group.setP_eq]
@[simp] theorem Group.setP_idleOut (g : Group) (r : Nat) (w : W32) : (g.setP r w).idleOut = g.idleOut := by rw [Group.setP_eq]
@[simp] theorem Group.setP_task (g : Group) (r : Nat) (w : W32) : (g.setP r w).task = g.task := by rw [Group.setP_eq]
@[simp] theorem Group.setP_forming (g : Group) (r : Nat) (w : W32) : (g.setP r w).forming = g.forming := by rw [Group.setP_eq]
@[simp] theorem Group.setP_epoch (g : Group) (r : Nat) (w : W32) : (g.setP r w).epoch = g.epoch := by rw [Group.setP_eq]
/-- Only p may change. -/
theorem Group.putP_eq (g : Group) (m : Mask) (d : Nat) (f : Nat → Bool) : g.putP m d f = { g with p := (g.putP m d f).p } := by rw [Group.putP, Group.setP_eq]
@[simp] theorem Group.putP_lanes (g : Group) (m : Mask) (d : Nat) (f : Nat → Bool) : (g.putP m d f).lanes = g.lanes := by rw [Group.putP_eq]
@[simp] theorem Group.putP_s (g : Group) (m : Mask) (d : Nat) (f : Nat → Bool) : (g.putP m d f).s = g.s := by rw [Group.putP_eq]
@[simp] theorem Group.putP_gang (g : Group) (m : Mask) (d : Nat) (f : Nat → Bool) : (g.putP m d f).gang = g.gang := by rw [Group.putP_eq]
@[simp] theorem Group.putP_lc (g : Group) (m : Mask) (d : Nat) (f : Nat → Bool) : (g.putP m d f).lc = g.lc := by rw [Group.putP_eq]
@[simp] theorem Group.putP_sc (g : Group) (m : Mask) (d : Nat) (f : Nat → Bool) : (g.putP m d f).sc = g.sc := by rw [Group.putP_eq]
@[simp] theorem Group.putP_mc (g : Group) (m : Mask) (d : Nat) (f : Nat → Bool) : (g.putP m d f).mc = g.mc := by rw [Group.putP_eq]
@[simp] theorem Group.putP_ec (g : Group) (m : Mask) (d : Nat) (f : Nat → Bool) : (g.putP m d f).ec = g.ec := by rw [Group.putP_eq]
@[simp] theorem Group.putP_cause (g : Group) (m : Mask) (d : Nat) (f : Nat → Bool) : (g.putP m d f).cause = g.cause := by rw [Group.putP_eq]
@[simp] theorem Group.putP_tvec (g : Group) (m : Mask) (d : Nat) (f : Nat → Bool) : (g.putP m d f).tvec = g.tvec := by rw [Group.putP_eq]
@[simp] theorem Group.putP_tepc (g : Group) (m : Mask) (d : Nat) (f : Nat → Bool) : (g.putP m d f).tepc = g.tepc := by rw [Group.putP_eq]
@[simp] theorem Group.putP_tmask (g : Group) (m : Mask) (d : Nat) (f : Nat → Bool) : (g.putP m d f).tmask = g.tmask := by rw [Group.putP_eq]
@[simp] theorem Group.putP_tstat (g : Group) (m : Mask) (d : Nat) (f : Nat → Bool) : (g.putP m d f).tstat = g.tstat := by rw [Group.putP_eq]
@[simp] theorem Group.putP_tscratch (g : Group) (m : Mask) (d : Nat) (f : Nat → Bool) : (g.putP m d f).tscratch = g.tscratch := by rw [Group.putP_eq]
@[simp] theorem Group.putP_fstat (g : Group) (m : Mask) (d : Nat) (f : Nat → Bool) : (g.putP m d f).fstat = g.fstat := by rw [Group.putP_eq]
@[simp] theorem Group.putP_newFlags (g : Group) (m : Mask) (d : Nat) (f : Nat → Bool) : (g.putP m d f).newFlags = g.newFlags := by rw [Group.putP_eq]
@[simp] theorem Group.putP_faddr (g : Group) (m : Mask) (d : Nat) (f : Nat → Bool) : (g.putP m d f).faddr = g.faddr := by rw [Group.putP_eq]
@[simp] theorem Group.putP_fkind (g : Group) (m : Mask) (d : Nat) (f : Nat → Bool) : (g.putP m d f).fkind = g.fkind := by rw [Group.putP_eq]
@[simp] theorem Group.putP_fpc (g : Group) (m : Mask) (d : Nat) (f : Nat → Bool) : (g.putP m d f).fpc = g.fpc := by rw [Group.putP_eq]
@[simp] theorem Group.putP_reuse (g : Group) (m : Mask) (d : Nat) (f : Nat → Bool) : (g.putP m d f).reuse = g.reuse := by rw [Group.putP_eq]
@[simp] theorem Group.putP_insns (g : Group) (m : Mask) (d : Nat) (f : Nat → Bool) : (g.putP m d f).insns = g.insns := by rw [Group.putP_eq]
@[simp] theorem Group.putP_after (g : Group) (m : Mask) (d : Nat) (f : Nat → Bool) : (g.putP m d f).after = g.after := by rw [Group.putP_eq]
@[simp] theorem Group.putP_trapChk (g : Group) (m : Mask) (d : Nat) (f : Nat → Bool) : (g.putP m d f).trapChk = g.trapChk := by rw [Group.putP_eq]
@[simp] theorem Group.putP_poolPark (g : Group) (m : Mask) (d : Nat) (f : Nat → Bool) : (g.putP m d f).poolPark = g.poolPark := by rw [Group.putP_eq]
@[simp] theorem Group.putP_quad (g : Group) (m : Mask) (d : Nat) (f : Nat → Bool) : (g.putP m d f).quad = g.quad := by rw [Group.putP_eq]
@[simp] theorem Group.putP_active (g : Group) (m : Mask) (d : Nat) (f : Nat → Bool) : (g.putP m d f).active = g.active := by rw [Group.putP_eq]
@[simp] theorem Group.putP_mayIssue (g : Group) (m : Mask) (d : Nat) (f : Nat → Bool) : (g.putP m d f).mayIssue = g.mayIssue := by rw [Group.putP_eq]
@[simp] theorem Group.putP_readyAt (g : Group) (m : Mask) (d : Nat) (f : Nat → Bool) : (g.putP m d f).readyAt = g.readyAt := by rw [Group.putP_eq]
@[simp] theorem Group.putP_idleAt (g : Group) (m : Mask) (d : Nat) (f : Nat → Bool) : (g.putP m d f).idleAt = g.idleAt := by rw [Group.putP_eq]
@[simp] theorem Group.putP_idleOut (g : Group) (m : Mask) (d : Nat) (f : Nat → Bool) : (g.putP m d f).idleOut = g.idleOut := by rw [Group.putP_eq]
@[simp] theorem Group.putP_task (g : Group) (m : Mask) (d : Nat) (f : Nat → Bool) : (g.putP m d f).task = g.task := by rw [Group.putP_eq]
@[simp] theorem Group.putP_forming (g : Group) (m : Mask) (d : Nat) (f : Nat → Bool) : (g.putP m d f).forming = g.forming := by rw [Group.putP_eq]
@[simp] theorem Group.putP_epoch (g : Group) (m : Mask) (d : Nat) (f : Nat → Bool) : (g.putP m d f).epoch = g.epoch := by rw [Group.putP_eq]
/-- Only lanes, p may change. -/
theorem Group.putO_eq (g : Group) (m : Mask) (d : Opnd) (f : Nat → W32) : g.putO m d f = { g with lanes := (g.putO m d f).lanes, p := (g.putO m d f).p } := by cases d <;> first | rfl | (simp only [Group.putO]; rw [Group.putP_eq])
@[simp] theorem Group.putO_s (g : Group) (m : Mask) (d : Opnd) (f : Nat → W32) : (g.putO m d f).s = g.s := by rw [Group.putO_eq]
@[simp] theorem Group.putO_gang (g : Group) (m : Mask) (d : Opnd) (f : Nat → W32) : (g.putO m d f).gang = g.gang := by rw [Group.putO_eq]
@[simp] theorem Group.putO_lc (g : Group) (m : Mask) (d : Opnd) (f : Nat → W32) : (g.putO m d f).lc = g.lc := by rw [Group.putO_eq]
@[simp] theorem Group.putO_sc (g : Group) (m : Mask) (d : Opnd) (f : Nat → W32) : (g.putO m d f).sc = g.sc := by rw [Group.putO_eq]
@[simp] theorem Group.putO_mc (g : Group) (m : Mask) (d : Opnd) (f : Nat → W32) : (g.putO m d f).mc = g.mc := by rw [Group.putO_eq]
@[simp] theorem Group.putO_ec (g : Group) (m : Mask) (d : Opnd) (f : Nat → W32) : (g.putO m d f).ec = g.ec := by rw [Group.putO_eq]
@[simp] theorem Group.putO_cause (g : Group) (m : Mask) (d : Opnd) (f : Nat → W32) : (g.putO m d f).cause = g.cause := by rw [Group.putO_eq]
@[simp] theorem Group.putO_tvec (g : Group) (m : Mask) (d : Opnd) (f : Nat → W32) : (g.putO m d f).tvec = g.tvec := by rw [Group.putO_eq]
@[simp] theorem Group.putO_tepc (g : Group) (m : Mask) (d : Opnd) (f : Nat → W32) : (g.putO m d f).tepc = g.tepc := by rw [Group.putO_eq]
@[simp] theorem Group.putO_tmask (g : Group) (m : Mask) (d : Opnd) (f : Nat → W32) : (g.putO m d f).tmask = g.tmask := by rw [Group.putO_eq]
@[simp] theorem Group.putO_tstat (g : Group) (m : Mask) (d : Opnd) (f : Nat → W32) : (g.putO m d f).tstat = g.tstat := by rw [Group.putO_eq]
@[simp] theorem Group.putO_tscratch (g : Group) (m : Mask) (d : Opnd) (f : Nat → W32) : (g.putO m d f).tscratch = g.tscratch := by rw [Group.putO_eq]
@[simp] theorem Group.putO_fstat (g : Group) (m : Mask) (d : Opnd) (f : Nat → W32) : (g.putO m d f).fstat = g.fstat := by rw [Group.putO_eq]
@[simp] theorem Group.putO_newFlags (g : Group) (m : Mask) (d : Opnd) (f : Nat → W32) : (g.putO m d f).newFlags = g.newFlags := by rw [Group.putO_eq]
@[simp] theorem Group.putO_faddr (g : Group) (m : Mask) (d : Opnd) (f : Nat → W32) : (g.putO m d f).faddr = g.faddr := by rw [Group.putO_eq]
@[simp] theorem Group.putO_fkind (g : Group) (m : Mask) (d : Opnd) (f : Nat → W32) : (g.putO m d f).fkind = g.fkind := by rw [Group.putO_eq]
@[simp] theorem Group.putO_fpc (g : Group) (m : Mask) (d : Opnd) (f : Nat → W32) : (g.putO m d f).fpc = g.fpc := by rw [Group.putO_eq]
@[simp] theorem Group.putO_reuse (g : Group) (m : Mask) (d : Opnd) (f : Nat → W32) : (g.putO m d f).reuse = g.reuse := by rw [Group.putO_eq]
@[simp] theorem Group.putO_insns (g : Group) (m : Mask) (d : Opnd) (f : Nat → W32) : (g.putO m d f).insns = g.insns := by rw [Group.putO_eq]
@[simp] theorem Group.putO_after (g : Group) (m : Mask) (d : Opnd) (f : Nat → W32) : (g.putO m d f).after = g.after := by rw [Group.putO_eq]
@[simp] theorem Group.putO_trapChk (g : Group) (m : Mask) (d : Opnd) (f : Nat → W32) : (g.putO m d f).trapChk = g.trapChk := by rw [Group.putO_eq]
@[simp] theorem Group.putO_poolPark (g : Group) (m : Mask) (d : Opnd) (f : Nat → W32) : (g.putO m d f).poolPark = g.poolPark := by rw [Group.putO_eq]
@[simp] theorem Group.putO_quad (g : Group) (m : Mask) (d : Opnd) (f : Nat → W32) : (g.putO m d f).quad = g.quad := by rw [Group.putO_eq]
@[simp] theorem Group.putO_active (g : Group) (m : Mask) (d : Opnd) (f : Nat → W32) : (g.putO m d f).active = g.active := by rw [Group.putO_eq]
@[simp] theorem Group.putO_mayIssue (g : Group) (m : Mask) (d : Opnd) (f : Nat → W32) : (g.putO m d f).mayIssue = g.mayIssue := by rw [Group.putO_eq]
@[simp] theorem Group.putO_readyAt (g : Group) (m : Mask) (d : Opnd) (f : Nat → W32) : (g.putO m d f).readyAt = g.readyAt := by rw [Group.putO_eq]
@[simp] theorem Group.putO_idleAt (g : Group) (m : Mask) (d : Opnd) (f : Nat → W32) : (g.putO m d f).idleAt = g.idleAt := by rw [Group.putO_eq]
@[simp] theorem Group.putO_idleOut (g : Group) (m : Mask) (d : Opnd) (f : Nat → W32) : (g.putO m d f).idleOut = g.idleOut := by rw [Group.putO_eq]
@[simp] theorem Group.putO_task (g : Group) (m : Mask) (d : Opnd) (f : Nat → W32) : (g.putO m d f).task = g.task := by rw [Group.putO_eq]
@[simp] theorem Group.putO_forming (g : Group) (m : Mask) (d : Opnd) (f : Nat → W32) : (g.putO m d f).forming = g.forming := by rw [Group.putO_eq]
@[simp] theorem Group.putO_epoch (g : Group) (m : Mask) (d : Opnd) (f : Nat → W32) : (g.putO m d f).epoch = g.epoch := by rw [Group.putO_eq]
/-- Only s, p may change. -/
theorem Group.putS_eq (g : Group) (d : Opnd) (w : W64) : g.putS d w = { g with s := (g.putS d w).s, p := (g.putS d w).p } := by cases d <;> first | rfl | (simp only [Group.putS]; rw [Group.setP_eq])
@[simp] theorem Group.putS_lanes (g : Group) (d : Opnd) (w : W64) : (g.putS d w).lanes = g.lanes := by rw [Group.putS_eq]
@[simp] theorem Group.putS_gang (g : Group) (d : Opnd) (w : W64) : (g.putS d w).gang = g.gang := by rw [Group.putS_eq]
@[simp] theorem Group.putS_lc (g : Group) (d : Opnd) (w : W64) : (g.putS d w).lc = g.lc := by rw [Group.putS_eq]
@[simp] theorem Group.putS_sc (g : Group) (d : Opnd) (w : W64) : (g.putS d w).sc = g.sc := by rw [Group.putS_eq]
@[simp] theorem Group.putS_mc (g : Group) (d : Opnd) (w : W64) : (g.putS d w).mc = g.mc := by rw [Group.putS_eq]
@[simp] theorem Group.putS_ec (g : Group) (d : Opnd) (w : W64) : (g.putS d w).ec = g.ec := by rw [Group.putS_eq]
@[simp] theorem Group.putS_cause (g : Group) (d : Opnd) (w : W64) : (g.putS d w).cause = g.cause := by rw [Group.putS_eq]
@[simp] theorem Group.putS_tvec (g : Group) (d : Opnd) (w : W64) : (g.putS d w).tvec = g.tvec := by rw [Group.putS_eq]
@[simp] theorem Group.putS_tepc (g : Group) (d : Opnd) (w : W64) : (g.putS d w).tepc = g.tepc := by rw [Group.putS_eq]
@[simp] theorem Group.putS_tmask (g : Group) (d : Opnd) (w : W64) : (g.putS d w).tmask = g.tmask := by rw [Group.putS_eq]
@[simp] theorem Group.putS_tstat (g : Group) (d : Opnd) (w : W64) : (g.putS d w).tstat = g.tstat := by rw [Group.putS_eq]
@[simp] theorem Group.putS_tscratch (g : Group) (d : Opnd) (w : W64) : (g.putS d w).tscratch = g.tscratch := by rw [Group.putS_eq]
@[simp] theorem Group.putS_fstat (g : Group) (d : Opnd) (w : W64) : (g.putS d w).fstat = g.fstat := by rw [Group.putS_eq]
@[simp] theorem Group.putS_newFlags (g : Group) (d : Opnd) (w : W64) : (g.putS d w).newFlags = g.newFlags := by rw [Group.putS_eq]
@[simp] theorem Group.putS_faddr (g : Group) (d : Opnd) (w : W64) : (g.putS d w).faddr = g.faddr := by rw [Group.putS_eq]
@[simp] theorem Group.putS_fkind (g : Group) (d : Opnd) (w : W64) : (g.putS d w).fkind = g.fkind := by rw [Group.putS_eq]
@[simp] theorem Group.putS_fpc (g : Group) (d : Opnd) (w : W64) : (g.putS d w).fpc = g.fpc := by rw [Group.putS_eq]
@[simp] theorem Group.putS_reuse (g : Group) (d : Opnd) (w : W64) : (g.putS d w).reuse = g.reuse := by rw [Group.putS_eq]
@[simp] theorem Group.putS_insns (g : Group) (d : Opnd) (w : W64) : (g.putS d w).insns = g.insns := by rw [Group.putS_eq]
@[simp] theorem Group.putS_after (g : Group) (d : Opnd) (w : W64) : (g.putS d w).after = g.after := by rw [Group.putS_eq]
@[simp] theorem Group.putS_trapChk (g : Group) (d : Opnd) (w : W64) : (g.putS d w).trapChk = g.trapChk := by rw [Group.putS_eq]
@[simp] theorem Group.putS_poolPark (g : Group) (d : Opnd) (w : W64) : (g.putS d w).poolPark = g.poolPark := by rw [Group.putS_eq]
@[simp] theorem Group.putS_quad (g : Group) (d : Opnd) (w : W64) : (g.putS d w).quad = g.quad := by rw [Group.putS_eq]
@[simp] theorem Group.putS_active (g : Group) (d : Opnd) (w : W64) : (g.putS d w).active = g.active := by rw [Group.putS_eq]
@[simp] theorem Group.putS_mayIssue (g : Group) (d : Opnd) (w : W64) : (g.putS d w).mayIssue = g.mayIssue := by rw [Group.putS_eq]
@[simp] theorem Group.putS_readyAt (g : Group) (d : Opnd) (w : W64) : (g.putS d w).readyAt = g.readyAt := by rw [Group.putS_eq]
@[simp] theorem Group.putS_idleAt (g : Group) (d : Opnd) (w : W64) : (g.putS d w).idleAt = g.idleAt := by rw [Group.putS_eq]
@[simp] theorem Group.putS_idleOut (g : Group) (d : Opnd) (w : W64) : (g.putS d w).idleOut = g.idleOut := by rw [Group.putS_eq]
@[simp] theorem Group.putS_task (g : Group) (d : Opnd) (w : W64) : (g.putS d w).task = g.task := by rw [Group.putS_eq]
@[simp] theorem Group.putS_forming (g : Group) (d : Opnd) (w : W64) : (g.putS d w).forming = g.forming := by rw [Group.putS_eq]
@[simp] theorem Group.putS_epoch (g : Group) (d : Opnd) (w : W64) : (g.putS d w).epoch = g.epoch := by rw [Group.putS_eq]
/-- Only lanes, p may change. -/
theorem Group.putF_eq (g : Group) (k : Nat) (m : Mask) (d : Opnd) (f : Nat → Nat) : g.putF k m d f = { g with lanes := (g.putF k m d f).lanes, p := (g.putF k m d f).p } := by unfold Group.putF; split <;> first | rfl | rw [Group.putO_eq]
@[simp] theorem Group.putF_s (g : Group) (k : Nat) (m : Mask) (d : Opnd) (f : Nat → Nat) : (g.putF k m d f).s = g.s := by rw [Group.putF_eq]
@[simp] theorem Group.putF_gang (g : Group) (k : Nat) (m : Mask) (d : Opnd) (f : Nat → Nat) : (g.putF k m d f).gang = g.gang := by rw [Group.putF_eq]
@[simp] theorem Group.putF_lc (g : Group) (k : Nat) (m : Mask) (d : Opnd) (f : Nat → Nat) : (g.putF k m d f).lc = g.lc := by rw [Group.putF_eq]
@[simp] theorem Group.putF_sc (g : Group) (k : Nat) (m : Mask) (d : Opnd) (f : Nat → Nat) : (g.putF k m d f).sc = g.sc := by rw [Group.putF_eq]
@[simp] theorem Group.putF_mc (g : Group) (k : Nat) (m : Mask) (d : Opnd) (f : Nat → Nat) : (g.putF k m d f).mc = g.mc := by rw [Group.putF_eq]
@[simp] theorem Group.putF_ec (g : Group) (k : Nat) (m : Mask) (d : Opnd) (f : Nat → Nat) : (g.putF k m d f).ec = g.ec := by rw [Group.putF_eq]
@[simp] theorem Group.putF_cause (g : Group) (k : Nat) (m : Mask) (d : Opnd) (f : Nat → Nat) : (g.putF k m d f).cause = g.cause := by rw [Group.putF_eq]
@[simp] theorem Group.putF_tvec (g : Group) (k : Nat) (m : Mask) (d : Opnd) (f : Nat → Nat) : (g.putF k m d f).tvec = g.tvec := by rw [Group.putF_eq]
@[simp] theorem Group.putF_tepc (g : Group) (k : Nat) (m : Mask) (d : Opnd) (f : Nat → Nat) : (g.putF k m d f).tepc = g.tepc := by rw [Group.putF_eq]
@[simp] theorem Group.putF_tmask (g : Group) (k : Nat) (m : Mask) (d : Opnd) (f : Nat → Nat) : (g.putF k m d f).tmask = g.tmask := by rw [Group.putF_eq]
@[simp] theorem Group.putF_tstat (g : Group) (k : Nat) (m : Mask) (d : Opnd) (f : Nat → Nat) : (g.putF k m d f).tstat = g.tstat := by rw [Group.putF_eq]
@[simp] theorem Group.putF_tscratch (g : Group) (k : Nat) (m : Mask) (d : Opnd) (f : Nat → Nat) : (g.putF k m d f).tscratch = g.tscratch := by rw [Group.putF_eq]
@[simp] theorem Group.putF_fstat (g : Group) (k : Nat) (m : Mask) (d : Opnd) (f : Nat → Nat) : (g.putF k m d f).fstat = g.fstat := by rw [Group.putF_eq]
@[simp] theorem Group.putF_newFlags (g : Group) (k : Nat) (m : Mask) (d : Opnd) (f : Nat → Nat) : (g.putF k m d f).newFlags = g.newFlags := by rw [Group.putF_eq]
@[simp] theorem Group.putF_faddr (g : Group) (k : Nat) (m : Mask) (d : Opnd) (f : Nat → Nat) : (g.putF k m d f).faddr = g.faddr := by rw [Group.putF_eq]
@[simp] theorem Group.putF_fkind (g : Group) (k : Nat) (m : Mask) (d : Opnd) (f : Nat → Nat) : (g.putF k m d f).fkind = g.fkind := by rw [Group.putF_eq]
@[simp] theorem Group.putF_fpc (g : Group) (k : Nat) (m : Mask) (d : Opnd) (f : Nat → Nat) : (g.putF k m d f).fpc = g.fpc := by rw [Group.putF_eq]
@[simp] theorem Group.putF_reuse (g : Group) (k : Nat) (m : Mask) (d : Opnd) (f : Nat → Nat) : (g.putF k m d f).reuse = g.reuse := by rw [Group.putF_eq]
@[simp] theorem Group.putF_insns (g : Group) (k : Nat) (m : Mask) (d : Opnd) (f : Nat → Nat) : (g.putF k m d f).insns = g.insns := by rw [Group.putF_eq]
@[simp] theorem Group.putF_after (g : Group) (k : Nat) (m : Mask) (d : Opnd) (f : Nat → Nat) : (g.putF k m d f).after = g.after := by rw [Group.putF_eq]
@[simp] theorem Group.putF_trapChk (g : Group) (k : Nat) (m : Mask) (d : Opnd) (f : Nat → Nat) : (g.putF k m d f).trapChk = g.trapChk := by rw [Group.putF_eq]
@[simp] theorem Group.putF_poolPark (g : Group) (k : Nat) (m : Mask) (d : Opnd) (f : Nat → Nat) : (g.putF k m d f).poolPark = g.poolPark := by rw [Group.putF_eq]
@[simp] theorem Group.putF_quad (g : Group) (k : Nat) (m : Mask) (d : Opnd) (f : Nat → Nat) : (g.putF k m d f).quad = g.quad := by rw [Group.putF_eq]
@[simp] theorem Group.putF_active (g : Group) (k : Nat) (m : Mask) (d : Opnd) (f : Nat → Nat) : (g.putF k m d f).active = g.active := by rw [Group.putF_eq]
@[simp] theorem Group.putF_mayIssue (g : Group) (k : Nat) (m : Mask) (d : Opnd) (f : Nat → Nat) : (g.putF k m d f).mayIssue = g.mayIssue := by rw [Group.putF_eq]
@[simp] theorem Group.putF_readyAt (g : Group) (k : Nat) (m : Mask) (d : Opnd) (f : Nat → Nat) : (g.putF k m d f).readyAt = g.readyAt := by rw [Group.putF_eq]
@[simp] theorem Group.putF_idleAt (g : Group) (k : Nat) (m : Mask) (d : Opnd) (f : Nat → Nat) : (g.putF k m d f).idleAt = g.idleAt := by rw [Group.putF_eq]
@[simp] theorem Group.putF_idleOut (g : Group) (k : Nat) (m : Mask) (d : Opnd) (f : Nat → Nat) : (g.putF k m d f).idleOut = g.idleOut := by rw [Group.putF_eq]
@[simp] theorem Group.putF_task (g : Group) (k : Nat) (m : Mask) (d : Opnd) (f : Nat → Nat) : (g.putF k m d f).task = g.task := by rw [Group.putF_eq]
@[simp] theorem Group.putF_forming (g : Group) (k : Nat) (m : Mask) (d : Opnd) (f : Nat → Nat) : (g.putF k m d f).forming = g.forming := by rw [Group.putF_eq]
@[simp] theorem Group.putF_epoch (g : Group) (k : Nat) (m : Mask) (d : Opnd) (f : Nat → Nat) : (g.putF k m d f).epoch = g.epoch := by rw [Group.putF_eq]
/-- Only lc, sc, mc may change. -/
theorem Group.raise_eq (g : Group) (k : Ctr) : g.raise k = { g with lc := (g.raise k).lc, sc := (g.raise k).sc, mc := (g.raise k).mc } := by cases k <;> rfl
@[simp] theorem Group.raise_lanes (g : Group) (k : Ctr) : (g.raise k).lanes = g.lanes := by rw [Group.raise_eq]
@[simp] theorem Group.raise_p (g : Group) (k : Ctr) : (g.raise k).p = g.p := by rw [Group.raise_eq]
@[simp] theorem Group.raise_s (g : Group) (k : Ctr) : (g.raise k).s = g.s := by rw [Group.raise_eq]
@[simp] theorem Group.raise_gang (g : Group) (k : Ctr) : (g.raise k).gang = g.gang := by rw [Group.raise_eq]
@[simp] theorem Group.raise_ec (g : Group) (k : Ctr) : (g.raise k).ec = g.ec := by rw [Group.raise_eq]
@[simp] theorem Group.raise_cause (g : Group) (k : Ctr) : (g.raise k).cause = g.cause := by rw [Group.raise_eq]
@[simp] theorem Group.raise_tvec (g : Group) (k : Ctr) : (g.raise k).tvec = g.tvec := by rw [Group.raise_eq]
@[simp] theorem Group.raise_tepc (g : Group) (k : Ctr) : (g.raise k).tepc = g.tepc := by rw [Group.raise_eq]
@[simp] theorem Group.raise_tmask (g : Group) (k : Ctr) : (g.raise k).tmask = g.tmask := by rw [Group.raise_eq]
@[simp] theorem Group.raise_tstat (g : Group) (k : Ctr) : (g.raise k).tstat = g.tstat := by rw [Group.raise_eq]
@[simp] theorem Group.raise_tscratch (g : Group) (k : Ctr) : (g.raise k).tscratch = g.tscratch := by rw [Group.raise_eq]
@[simp] theorem Group.raise_fstat (g : Group) (k : Ctr) : (g.raise k).fstat = g.fstat := by rw [Group.raise_eq]
@[simp] theorem Group.raise_newFlags (g : Group) (k : Ctr) : (g.raise k).newFlags = g.newFlags := by rw [Group.raise_eq]
@[simp] theorem Group.raise_faddr (g : Group) (k : Ctr) : (g.raise k).faddr = g.faddr := by rw [Group.raise_eq]
@[simp] theorem Group.raise_fkind (g : Group) (k : Ctr) : (g.raise k).fkind = g.fkind := by rw [Group.raise_eq]
@[simp] theorem Group.raise_fpc (g : Group) (k : Ctr) : (g.raise k).fpc = g.fpc := by rw [Group.raise_eq]
@[simp] theorem Group.raise_reuse (g : Group) (k : Ctr) : (g.raise k).reuse = g.reuse := by rw [Group.raise_eq]
@[simp] theorem Group.raise_insns (g : Group) (k : Ctr) : (g.raise k).insns = g.insns := by rw [Group.raise_eq]
@[simp] theorem Group.raise_after (g : Group) (k : Ctr) : (g.raise k).after = g.after := by rw [Group.raise_eq]
@[simp] theorem Group.raise_trapChk (g : Group) (k : Ctr) : (g.raise k).trapChk = g.trapChk := by rw [Group.raise_eq]
@[simp] theorem Group.raise_poolPark (g : Group) (k : Ctr) : (g.raise k).poolPark = g.poolPark := by rw [Group.raise_eq]
@[simp] theorem Group.raise_quad (g : Group) (k : Ctr) : (g.raise k).quad = g.quad := by rw [Group.raise_eq]
@[simp] theorem Group.raise_active (g : Group) (k : Ctr) : (g.raise k).active = g.active := by rw [Group.raise_eq]
@[simp] theorem Group.raise_mayIssue (g : Group) (k : Ctr) : (g.raise k).mayIssue = g.mayIssue := by rw [Group.raise_eq]
@[simp] theorem Group.raise_readyAt (g : Group) (k : Ctr) : (g.raise k).readyAt = g.readyAt := by rw [Group.raise_eq]
@[simp] theorem Group.raise_idleAt (g : Group) (k : Ctr) : (g.raise k).idleAt = g.idleAt := by rw [Group.raise_eq]
@[simp] theorem Group.raise_idleOut (g : Group) (k : Ctr) : (g.raise k).idleOut = g.idleOut := by rw [Group.raise_eq]
@[simp] theorem Group.raise_task (g : Group) (k : Ctr) : (g.raise k).task = g.task := by rw [Group.raise_eq]
@[simp] theorem Group.raise_forming (g : Group) (k : Ctr) : (g.raise k).forming = g.forming := by rw [Group.raise_eq]
@[simp] theorem Group.raise_epoch (g : Group) (k : Ctr) : (g.raise k).epoch = g.epoch := by rw [Group.raise_eq]
/-- Only lc, sc, mc may change. -/
theorem Group.lower_eq (g : Group) (k : Ctr) : g.lower k = { g with lc := (g.lower k).lc, sc := (g.lower k).sc, mc := (g.lower k).mc } := by cases k <;> rfl
@[simp] theorem Group.lower_lanes (g : Group) (k : Ctr) : (g.lower k).lanes = g.lanes := by rw [Group.lower_eq]
@[simp] theorem Group.lower_p (g : Group) (k : Ctr) : (g.lower k).p = g.p := by rw [Group.lower_eq]
@[simp] theorem Group.lower_s (g : Group) (k : Ctr) : (g.lower k).s = g.s := by rw [Group.lower_eq]
@[simp] theorem Group.lower_gang (g : Group) (k : Ctr) : (g.lower k).gang = g.gang := by rw [Group.lower_eq]
@[simp] theorem Group.lower_ec (g : Group) (k : Ctr) : (g.lower k).ec = g.ec := by rw [Group.lower_eq]
@[simp] theorem Group.lower_cause (g : Group) (k : Ctr) : (g.lower k).cause = g.cause := by rw [Group.lower_eq]
@[simp] theorem Group.lower_tvec (g : Group) (k : Ctr) : (g.lower k).tvec = g.tvec := by rw [Group.lower_eq]
@[simp] theorem Group.lower_tepc (g : Group) (k : Ctr) : (g.lower k).tepc = g.tepc := by rw [Group.lower_eq]
@[simp] theorem Group.lower_tmask (g : Group) (k : Ctr) : (g.lower k).tmask = g.tmask := by rw [Group.lower_eq]
@[simp] theorem Group.lower_tstat (g : Group) (k : Ctr) : (g.lower k).tstat = g.tstat := by rw [Group.lower_eq]
@[simp] theorem Group.lower_tscratch (g : Group) (k : Ctr) : (g.lower k).tscratch = g.tscratch := by rw [Group.lower_eq]
@[simp] theorem Group.lower_fstat (g : Group) (k : Ctr) : (g.lower k).fstat = g.fstat := by rw [Group.lower_eq]
@[simp] theorem Group.lower_newFlags (g : Group) (k : Ctr) : (g.lower k).newFlags = g.newFlags := by rw [Group.lower_eq]
@[simp] theorem Group.lower_faddr (g : Group) (k : Ctr) : (g.lower k).faddr = g.faddr := by rw [Group.lower_eq]
@[simp] theorem Group.lower_fkind (g : Group) (k : Ctr) : (g.lower k).fkind = g.fkind := by rw [Group.lower_eq]
@[simp] theorem Group.lower_fpc (g : Group) (k : Ctr) : (g.lower k).fpc = g.fpc := by rw [Group.lower_eq]
@[simp] theorem Group.lower_reuse (g : Group) (k : Ctr) : (g.lower k).reuse = g.reuse := by rw [Group.lower_eq]
@[simp] theorem Group.lower_insns (g : Group) (k : Ctr) : (g.lower k).insns = g.insns := by rw [Group.lower_eq]
@[simp] theorem Group.lower_after (g : Group) (k : Ctr) : (g.lower k).after = g.after := by rw [Group.lower_eq]
@[simp] theorem Group.lower_trapChk (g : Group) (k : Ctr) : (g.lower k).trapChk = g.trapChk := by rw [Group.lower_eq]
@[simp] theorem Group.lower_poolPark (g : Group) (k : Ctr) : (g.lower k).poolPark = g.poolPark := by rw [Group.lower_eq]
@[simp] theorem Group.lower_quad (g : Group) (k : Ctr) : (g.lower k).quad = g.quad := by rw [Group.lower_eq]
@[simp] theorem Group.lower_active (g : Group) (k : Ctr) : (g.lower k).active = g.active := by rw [Group.lower_eq]
@[simp] theorem Group.lower_mayIssue (g : Group) (k : Ctr) : (g.lower k).mayIssue = g.mayIssue := by rw [Group.lower_eq]
@[simp] theorem Group.lower_readyAt (g : Group) (k : Ctr) : (g.lower k).readyAt = g.readyAt := by rw [Group.lower_eq]
@[simp] theorem Group.lower_idleAt (g : Group) (k : Ctr) : (g.lower k).idleAt = g.idleAt := by rw [Group.lower_eq]
@[simp] theorem Group.lower_idleOut (g : Group) (k : Ctr) : (g.lower k).idleOut = g.idleOut := by rw [Group.lower_eq]
@[simp] theorem Group.lower_task (g : Group) (k : Ctr) : (g.lower k).task = g.task := by rw [Group.lower_eq]
@[simp] theorem Group.lower_forming (g : Group) (k : Ctr) : (g.lower k).forming = g.forming := by rw [Group.lower_eq]
@[simp] theorem Group.lower_epoch (g : Group) (k : Ctr) : (g.lower k).epoch = g.epoch := by rw [Group.lower_eq]
/-- Only lanes may change. -/
theorem Group.window_eq (g : Group) (m : Mask) (k : Nat) (la : BitVec 4) : g.window m k la = { g with lanes := (g.window m k la).lanes } := by unfold Group.window; split <;> rfl
@[simp] theorem Group.window_p (g : Group) (m : Mask) (k : Nat) (la : BitVec 4) : (g.window m k la).p = g.p := by rw [Group.window_eq]
@[simp] theorem Group.window_s (g : Group) (m : Mask) (k : Nat) (la : BitVec 4) : (g.window m k la).s = g.s := by rw [Group.window_eq]
@[simp] theorem Group.window_gang (g : Group) (m : Mask) (k : Nat) (la : BitVec 4) : (g.window m k la).gang = g.gang := by rw [Group.window_eq]
@[simp] theorem Group.window_lc (g : Group) (m : Mask) (k : Nat) (la : BitVec 4) : (g.window m k la).lc = g.lc := by rw [Group.window_eq]
@[simp] theorem Group.window_sc (g : Group) (m : Mask) (k : Nat) (la : BitVec 4) : (g.window m k la).sc = g.sc := by rw [Group.window_eq]
@[simp] theorem Group.window_mc (g : Group) (m : Mask) (k : Nat) (la : BitVec 4) : (g.window m k la).mc = g.mc := by rw [Group.window_eq]
@[simp] theorem Group.window_ec (g : Group) (m : Mask) (k : Nat) (la : BitVec 4) : (g.window m k la).ec = g.ec := by rw [Group.window_eq]
@[simp] theorem Group.window_cause (g : Group) (m : Mask) (k : Nat) (la : BitVec 4) : (g.window m k la).cause = g.cause := by rw [Group.window_eq]
@[simp] theorem Group.window_tvec (g : Group) (m : Mask) (k : Nat) (la : BitVec 4) : (g.window m k la).tvec = g.tvec := by rw [Group.window_eq]
@[simp] theorem Group.window_tepc (g : Group) (m : Mask) (k : Nat) (la : BitVec 4) : (g.window m k la).tepc = g.tepc := by rw [Group.window_eq]
@[simp] theorem Group.window_tmask (g : Group) (m : Mask) (k : Nat) (la : BitVec 4) : (g.window m k la).tmask = g.tmask := by rw [Group.window_eq]
@[simp] theorem Group.window_tstat (g : Group) (m : Mask) (k : Nat) (la : BitVec 4) : (g.window m k la).tstat = g.tstat := by rw [Group.window_eq]
@[simp] theorem Group.window_tscratch (g : Group) (m : Mask) (k : Nat) (la : BitVec 4) : (g.window m k la).tscratch = g.tscratch := by rw [Group.window_eq]
@[simp] theorem Group.window_fstat (g : Group) (m : Mask) (k : Nat) (la : BitVec 4) : (g.window m k la).fstat = g.fstat := by rw [Group.window_eq]
@[simp] theorem Group.window_newFlags (g : Group) (m : Mask) (k : Nat) (la : BitVec 4) : (g.window m k la).newFlags = g.newFlags := by rw [Group.window_eq]
@[simp] theorem Group.window_faddr (g : Group) (m : Mask) (k : Nat) (la : BitVec 4) : (g.window m k la).faddr = g.faddr := by rw [Group.window_eq]
@[simp] theorem Group.window_fkind (g : Group) (m : Mask) (k : Nat) (la : BitVec 4) : (g.window m k la).fkind = g.fkind := by rw [Group.window_eq]
@[simp] theorem Group.window_fpc (g : Group) (m : Mask) (k : Nat) (la : BitVec 4) : (g.window m k la).fpc = g.fpc := by rw [Group.window_eq]
@[simp] theorem Group.window_reuse (g : Group) (m : Mask) (k : Nat) (la : BitVec 4) : (g.window m k la).reuse = g.reuse := by rw [Group.window_eq]
@[simp] theorem Group.window_insns (g : Group) (m : Mask) (k : Nat) (la : BitVec 4) : (g.window m k la).insns = g.insns := by rw [Group.window_eq]
@[simp] theorem Group.window_after (g : Group) (m : Mask) (k : Nat) (la : BitVec 4) : (g.window m k la).after = g.after := by rw [Group.window_eq]
@[simp] theorem Group.window_trapChk (g : Group) (m : Mask) (k : Nat) (la : BitVec 4) : (g.window m k la).trapChk = g.trapChk := by rw [Group.window_eq]
@[simp] theorem Group.window_poolPark (g : Group) (m : Mask) (k : Nat) (la : BitVec 4) : (g.window m k la).poolPark = g.poolPark := by rw [Group.window_eq]
@[simp] theorem Group.window_quad (g : Group) (m : Mask) (k : Nat) (la : BitVec 4) : (g.window m k la).quad = g.quad := by rw [Group.window_eq]
@[simp] theorem Group.window_active (g : Group) (m : Mask) (k : Nat) (la : BitVec 4) : (g.window m k la).active = g.active := by rw [Group.window_eq]
@[simp] theorem Group.window_mayIssue (g : Group) (m : Mask) (k : Nat) (la : BitVec 4) : (g.window m k la).mayIssue = g.mayIssue := by rw [Group.window_eq]
@[simp] theorem Group.window_readyAt (g : Group) (m : Mask) (k : Nat) (la : BitVec 4) : (g.window m k la).readyAt = g.readyAt := by rw [Group.window_eq]
@[simp] theorem Group.window_idleAt (g : Group) (m : Mask) (k : Nat) (la : BitVec 4) : (g.window m k la).idleAt = g.idleAt := by rw [Group.window_eq]
@[simp] theorem Group.window_idleOut (g : Group) (m : Mask) (k : Nat) (la : BitVec 4) : (g.window m k la).idleOut = g.idleOut := by rw [Group.window_eq]
@[simp] theorem Group.window_task (g : Group) (m : Mask) (k : Nat) (la : BitVec 4) : (g.window m k la).task = g.task := by rw [Group.window_eq]
@[simp] theorem Group.window_forming (g : Group) (m : Mask) (k : Nat) (la : BitVec 4) : (g.window m k la).forming = g.forming := by rw [Group.window_eq]
@[simp] theorem Group.window_epoch (g : Group) (m : Mask) (k : Nat) (la : BitVec 4) : (g.window m k la).epoch = g.epoch := by rw [Group.window_eq]

/-! ### A lane -/

@[simp] theorem Lane.setV_pc (x : Lane) (r : Nat) (w : W32) : (x.setV r w).pc = x.pc := rfl
@[simp] theorem Lane.setV_mt (x : Lane) (r : Nat) (w : W32) : (x.setV r w).mt = x.mt := rfl
@[simp] theorem Lane.setV_smt (x : Lane) (r : Nat) (w : W32) : (x.setV r w).smt = x.smt := rfl
@[simp] theorem Lane.setV_hdr (x : Lane) (r : Nat) (w : W32) : (x.setV r w).hdr = x.hdr := rfl
@[simp] theorem Lane.setV_st (x : Lane) (r : Nat) (w : W32) : (x.setV r w).st = x.st := rfl
@[simp] theorem Lane.setV_helper (x : Lane) (r : Nat) (w : W32) : (x.setV r w).helper = x.helper := rfl
@[simp] theorem Lane.setV_inTrap (x : Lane) (r : Nat) (w : W32) : (x.setV r w).inTrap = x.inTrap := rfl
@[simp] theorem Lane.setV_yielded (x : Lane) (r : Nat) (w : W32) : (x.setV r w).yielded = x.yielded := rfl
@[simp] theorem Lane.setV_skip (x : Lane) (r : Nat) (w : W32) : (x.setV r w).skip = x.skip := rfl
@[simp] theorem Lane.setV_shield (x : Lane) (r : Nat) (w : W32) : (x.setV r w).shield = x.shield := rfl
@[simp] theorem Lane.setV_tag (x : Lane) (r : Nat) (w : W32) : (x.setV r w).tag = x.tag := rfl
@[simp] theorem Lane.setV_bnd (x : Lane) (r : Nat) (w : W32) : (x.setV r w).bnd = x.bnd := rfl
@[simp] theorem Lane.setV_bndIc (x : Lane) (r : Nat) (w : W32) : (x.setV r w).bndIc = x.bndIc := rfl
@[simp] theorem Lane.setV_ben (x : Lane) (r : Nat) (w : W32) : (x.setV r w).ben = x.ben := rfl
@[simp] theorem Lane.setV_wins (x : Lane) (r : Nat) (w : W32) : (x.setV r w).wins = x.wins := rfl
@[simp] theorem Lane.setV_dom (x : Lane) (r : Nat) (w : W32) : (x.setV r w).dom = x.dom := rfl
@[simp] theorem Lane.tick_pc (x : Lane) : (x.tick).pc = x.pc := rfl
@[simp] theorem Lane.tick_mt (x : Lane) : (x.tick).mt = x.mt := rfl
@[simp] theorem Lane.tick_smt (x : Lane) : (x.tick).smt = x.smt := rfl
@[simp] theorem Lane.tick_hdr (x : Lane) : (x.tick).hdr = x.hdr := rfl
@[simp] theorem Lane.tick_v (x : Lane) : (x.tick).v = x.v := rfl
@[simp] theorem Lane.tick_st (x : Lane) : (x.tick).st = x.st := rfl
@[simp] theorem Lane.tick_helper (x : Lane) : (x.tick).helper = x.helper := rfl
@[simp] theorem Lane.tick_inTrap (x : Lane) : (x.tick).inTrap = x.inTrap := rfl
@[simp] theorem Lane.tick_yielded (x : Lane) : (x.tick).yielded = x.yielded := rfl
@[simp] theorem Lane.tick_tag (x : Lane) : (x.tick).tag = x.tag := rfl
@[simp] theorem Lane.tick_bnd (x : Lane) : (x.tick).bnd = x.bnd := rfl
@[simp] theorem Lane.tick_bndIc (x : Lane) : (x.tick).bndIc = x.bndIc := rfl
@[simp] theorem Lane.tick_ben (x : Lane) : (x.tick).ben = x.ben := rfl
@[simp] theorem Lane.tick_dom (x : Lane) : (x.tick).dom = x.dom := rfl
/-- Only st may change. -/
theorem Lane.arrive_eq (x : Lane) : x.arrive = { x with st := (x.arrive).st } := by unfold Lane.arrive; split <;> rfl
@[simp] theorem Lane.arrive_pc (x : Lane) : (x.arrive).pc = x.pc := by rw [Lane.arrive_eq]
@[simp] theorem Lane.arrive_mt (x : Lane) : (x.arrive).mt = x.mt := by rw [Lane.arrive_eq]
@[simp] theorem Lane.arrive_smt (x : Lane) : (x.arrive).smt = x.smt := by rw [Lane.arrive_eq]
@[simp] theorem Lane.arrive_hdr (x : Lane) : (x.arrive).hdr = x.hdr := by rw [Lane.arrive_eq]
@[simp] theorem Lane.arrive_v (x : Lane) : (x.arrive).v = x.v := by rw [Lane.arrive_eq]
@[simp] theorem Lane.arrive_helper (x : Lane) : (x.arrive).helper = x.helper := by rw [Lane.arrive_eq]
@[simp] theorem Lane.arrive_inTrap (x : Lane) : (x.arrive).inTrap = x.inTrap := by rw [Lane.arrive_eq]
@[simp] theorem Lane.arrive_yielded (x : Lane) : (x.arrive).yielded = x.yielded := by rw [Lane.arrive_eq]
@[simp] theorem Lane.arrive_skip (x : Lane) : (x.arrive).skip = x.skip := by rw [Lane.arrive_eq]
@[simp] theorem Lane.arrive_shield (x : Lane) : (x.arrive).shield = x.shield := by rw [Lane.arrive_eq]
@[simp] theorem Lane.arrive_tag (x : Lane) : (x.arrive).tag = x.tag := by rw [Lane.arrive_eq]
@[simp] theorem Lane.arrive_bnd (x : Lane) : (x.arrive).bnd = x.bnd := by rw [Lane.arrive_eq]
@[simp] theorem Lane.arrive_bndIc (x : Lane) : (x.arrive).bndIc = x.bndIc := by rw [Lane.arrive_eq]
@[simp] theorem Lane.arrive_ben (x : Lane) : (x.arrive).ben = x.ben := by rw [Lane.arrive_eq]
@[simp] theorem Lane.arrive_wins (x : Lane) : (x.arrive).wins = x.wins := by rw [Lane.arrive_eq]
@[simp] theorem Lane.arrive_dom (x : Lane) : (x.arrive).dom = x.dom := by rw [Lane.arrive_eq]
/-- Only pc, hdr, st may change. -/
theorem Lane.pass_eq (x : Lane) (i : Issue) (n : Nat) : x.pass i n = { x with pc := (x.pass i n).pc, hdr := (x.pass i n).hdr, st := (x.pass i n).st } := by rw [Lane.pass, Lane.arrive_eq]
@[simp] theorem Lane.pass_mt (x : Lane) (i : Issue) (n : Nat) : (x.pass i n).mt = x.mt := by rw [Lane.pass_eq]
@[simp] theorem Lane.pass_smt (x : Lane) (i : Issue) (n : Nat) : (x.pass i n).smt = x.smt := by rw [Lane.pass_eq]
@[simp] theorem Lane.pass_v (x : Lane) (i : Issue) (n : Nat) : (x.pass i n).v = x.v := by rw [Lane.pass_eq]
@[simp] theorem Lane.pass_helper (x : Lane) (i : Issue) (n : Nat) : (x.pass i n).helper = x.helper := by rw [Lane.pass_eq]
@[simp] theorem Lane.pass_inTrap (x : Lane) (i : Issue) (n : Nat) : (x.pass i n).inTrap = x.inTrap := by rw [Lane.pass_eq]
@[simp] theorem Lane.pass_yielded (x : Lane) (i : Issue) (n : Nat) : (x.pass i n).yielded = x.yielded := by rw [Lane.pass_eq]
@[simp] theorem Lane.pass_skip (x : Lane) (i : Issue) (n : Nat) : (x.pass i n).skip = x.skip := by rw [Lane.pass_eq]
@[simp] theorem Lane.pass_shield (x : Lane) (i : Issue) (n : Nat) : (x.pass i n).shield = x.shield := by rw [Lane.pass_eq]
@[simp] theorem Lane.pass_tag (x : Lane) (i : Issue) (n : Nat) : (x.pass i n).tag = x.tag := by rw [Lane.pass_eq]
@[simp] theorem Lane.pass_bnd (x : Lane) (i : Issue) (n : Nat) : (x.pass i n).bnd = x.bnd := by rw [Lane.pass_eq]
@[simp] theorem Lane.pass_bndIc (x : Lane) (i : Issue) (n : Nat) : (x.pass i n).bndIc = x.bndIc := by rw [Lane.pass_eq]
@[simp] theorem Lane.pass_ben (x : Lane) (i : Issue) (n : Nat) : (x.pass i n).ben = x.ben := by rw [Lane.pass_eq]
@[simp] theorem Lane.pass_wins (x : Lane) (i : Issue) (n : Nat) : (x.pass i n).wins = x.wins := by rw [Lane.pass_eq]
@[simp] theorem Lane.pass_dom (x : Lane) (i : Issue) (n : Nat) : (x.pass i n).dom = x.dom := by rw [Lane.pass_eq]
/-- Only pc, hdr, st may change. -/
theorem Lane.goto_eq (x : Lane) (t : W32) : x.goto t = { x with pc := (x.goto t).pc, hdr := (x.goto t).hdr, st := (x.goto t).st } := by rw [Lane.goto, Lane.arrive_eq]
@[simp] theorem Lane.goto_mt (x : Lane) (t : W32) : (x.goto t).mt = x.mt := by rw [Lane.goto_eq]
@[simp] theorem Lane.goto_smt (x : Lane) (t : W32) : (x.goto t).smt = x.smt := by rw [Lane.goto_eq]
@[simp] theorem Lane.goto_v (x : Lane) (t : W32) : (x.goto t).v = x.v := by rw [Lane.goto_eq]
@[simp] theorem Lane.goto_helper (x : Lane) (t : W32) : (x.goto t).helper = x.helper := by rw [Lane.goto_eq]
@[simp] theorem Lane.goto_inTrap (x : Lane) (t : W32) : (x.goto t).inTrap = x.inTrap := by rw [Lane.goto_eq]
@[simp] theorem Lane.goto_yielded (x : Lane) (t : W32) : (x.goto t).yielded = x.yielded := by rw [Lane.goto_eq]
@[simp] theorem Lane.goto_skip (x : Lane) (t : W32) : (x.goto t).skip = x.skip := by rw [Lane.goto_eq]
@[simp] theorem Lane.goto_shield (x : Lane) (t : W32) : (x.goto t).shield = x.shield := by rw [Lane.goto_eq]
@[simp] theorem Lane.goto_tag (x : Lane) (t : W32) : (x.goto t).tag = x.tag := by rw [Lane.goto_eq]
@[simp] theorem Lane.goto_bnd (x : Lane) (t : W32) : (x.goto t).bnd = x.bnd := by rw [Lane.goto_eq]
@[simp] theorem Lane.goto_bndIc (x : Lane) (t : W32) : (x.goto t).bndIc = x.bndIc := by rw [Lane.goto_eq]
@[simp] theorem Lane.goto_ben (x : Lane) (t : W32) : (x.goto t).ben = x.ben := by rw [Lane.goto_eq]
@[simp] theorem Lane.goto_wins (x : Lane) (t : W32) : (x.goto t).wins = x.wins := by rw [Lane.goto_eq]
@[simp] theorem Lane.goto_dom (x : Lane) (t : W32) : (x.goto t).dom = x.dom := by rw [Lane.goto_eq]

/-! ### A block -/

@[simp] theorem Block.setGroup_id (b : Block) (i : Nat) (g : Group) : (b.setGroup i g).id = b.id := rfl
@[simp] theorem Block.setGroup_launch (b : Block) (i : Nat) (g : Group) : (b.setGroup i g).launch = b.launch := rfl
@[simp] theorem Block.setGroup_lin (b : Block) (i : Nat) (g : Group) : (b.setGroup i g).lin = b.lin := rfl
@[simp] theorem Block.setGroup_x (b : Block) (i : Nat) (g : Group) : (b.setGroup i g).x = b.x := rfl
@[simp] theorem Block.setGroup_y (b : Block) (i : Nat) (g : Group) : (b.setGroup i g).y = b.y := rfl
@[simp] theorem Block.setGroup_z (b : Block) (i : Nat) (g : Group) : (b.setGroup i g).z = b.z := rfl
@[simp] theorem Block.setGroup_stage (b : Block) (i : Nat) (g : Group) : (b.setGroup i g).stage = b.stage := rfl
@[simp] theorem Block.setGroup_core (b : Block) (i : Nat) (g : Group) : (b.setGroup i g).core = b.core := rfl
@[simp] theorem Block.setGroup_core0 (b : Block) (i : Nat) (g : Group) : (b.setGroup i g).core0 = b.core0 := rfl
@[simp] theorem Block.setGroup_st (b : Block) (i : Nat) (g : Group) : (b.setGroup i g).st = b.st := rfl
@[simp] theorem Block.setGroup_since (b : Block) (i : Nat) (g : Group) : (b.setGroup i g).since = b.since := rfl
@[simp] theorem Block.setGroup_residence (b : Block) (i : Nat) (g : Group) : (b.setGroup i g).residence = b.residence := rfl
@[simp] theorem Block.setGroup_idleAt (b : Block) (i : Nat) (g : Group) : (b.setGroup i g).idleAt = b.idleAt := rfl
@[simp] theorem Block.setGroup_imageAt (b : Block) (i : Nat) (g : Group) : (b.setGroup i g).imageAt = b.imageAt := rfl
@[simp] theorem Block.setGroup_scratch (b : Block) (i : Nat) (g : Group) : (b.setGroup i g).scratch = b.scratch := rfl
@[simp] theorem Block.setGroup_mirror (b : Block) (i : Nat) (g : Group) : (b.setGroup i g).mirror = b.mirror := rfl
@[simp] theorem Block.setGroup_w (b : Block) (i : Nat) (g : Group) : (b.setGroup i g).w = b.w := rfl
@[simp] theorem Block.setGroup_a (b : Block) (i : Nat) (g : Group) : (b.setGroup i g).a = b.a := rfl
@[simp] theorem Block.setGroup_c (b : Block) (i : Nat) (g : Group) : (b.setGroup i g).c = b.c := rfl
@[simp] theorem Block.setGroup_shadows (b : Block) (i : Nat) (g : Group) : (b.setGroup i g).shadows = b.shadows := rfl
@[simp] theorem Block.setGroup_th (b : Block) (i : Nat) (g : Group) : (b.setGroup i g).th = b.th := rfl
@[simp] theorem Block.setGroup_hf (b : Block) (i : Nat) (g : Group) : (b.setGroup i g).hf = b.hf := rfl
@[simp] theorem Block.setGroup_hfc (b : Block) (i : Nat) (g : Group) : (b.setGroup i g).hfc = b.hfc := rfl
@[simp] theorem Block.setGroup_btvec (b : Block) (i : Nat) (g : Group) : (b.setGroup i g).btvec = b.btvec := rfl
@[simp] theorem Block.setGroup_q (b : Block) (i : Nat) (g : Group) : (b.setGroup i g).q = b.q := rfl
@[simp] theorem Block.setGroup_credit (b : Block) (i : Nat) (g : Group) : (b.setGroup i g).credit = b.credit := rfl
@[simp] theorem Block.setGroup_savers (b : Block) (i : Nat) (g : Group) : (b.setGroup i g).savers = b.savers := rfl

end Sys2Proof.Machine
end

