-- ==== Sys2Proof/Laws/Groups.lean ====
section
/-!
SUPPORT. Looking up lanes, registers, groups and blocks after the named updates, and fusing updates of one group.
-/

namespace Sys2Proof.Machine

/-! ### Masks and tables -/

theorem foldr_maskOf (f : Nat → Bool) (ls : List Nat) (l : Nat) (h : l < 32) (hb : ∀ k ∈ ls, k < 32) :
    (ls.foldr (fun l m => if f l then m ||| BitVec.ofNat 32 (2 ^ l) else m) 0#32).getLsbD l = (decide (l ∈ ls) && f l) := by
  induction ls with
  | nil => simp
  | cons k ks ih =>
    have hk : k < 32 := hb k (by simp)
    have ih := ih fun j hj => hb j (by simp [hj])
    simp only [List.foldr_cons]
    split
    · rename_i hf
      rw [BitVec.getLsbD_or, ih]
      have : (BitVec.ofNat 32 (2 ^ k)).getLsbD l = decide (l = k) := by
        simp only [BitVec.getLsbD_ofNat, h, decide_true, Bool.true_and, Nat.testBit_two_pow]
        simp [eq_comm]
      rw [this]
      by_cases e : l = k
      · subst e; simp [hf]
      · simp [e]
    · rename_i hf
      rw [ih]
      by_cases e : l = k
      · subst e; simp [hf]
      · simp [e]

/-- A lane is in the mask of a condition when it is a lane and the condition holds. -/
@[simp] theorem inMask_maskOf (f : Nat → Bool) (l : Nat) : inMask (maskOf f) l = (decide (l < 32) && f l) := by
  unfold inMask
  by_cases h : l < 32
  · rw [maskOf, foldr_maskOf f _ l h (by simp)]
    simp [h]
  · rw [BitVec.getLsbD_of_ge _ _ (by omega)]
    simp [h]

theorem inMask_lt {m : Mask} {l : Nat} (h : inMask m l = true) : l < 32 := BitVec.lt_of_getLsbD h

/-- Two masks with the same lanes are one. -/
theorem mask_ext {m n : Mask} (h : ∀ l, l < 32 → inMask m l = inMask n l) : m = n :=
  BitVec.eq_of_getLsbD_eq fun i hi => h i hi

theorem maskOf_inMask (m : Mask) : maskOf (inMask m) = m :=
  mask_ext fun l h => by simp [h]

@[simp] theorem inMask_zero (l : Nat) : inMask 0#32 l = false := by simp [inMask]
@[simp] theorem inMask_ones (l : Nat) : inMask 0xFFFF_FFFF#32 l = decide (l < 32) := by
  unfold inMask
  by_cases h : l < 32
  · rw [show (0xFFFF_FFFF#32 : BitVec 32) = BitVec.allOnes 32 by decide, BitVec.getLsbD_allOnes]
  · rw [BitVec.getLsbD_of_ge _ _ (by omega)]; simp [h]

theorem mem_lanesOf (m : Mask) (l : Nat) : l ∈ lanesOf m ↔ inMask m l = true := by
  unfold lanesOf inMask
  simp only [List.mem_filter, List.mem_range]
  exact ⟨fun h => h.2, fun h => ⟨BitVec.lt_of_getLsbD h, h⟩⟩

@[simp] theorem lanesOf_zero : lanesOf 0#32 = [] := by decide

theorem tab_getElem? {α : Type} (n : Nat) (f : Nat → α) (i : Nat) : (tab n f)[i]? = if i < n then some (f i) else none := by
  unfold tab
  by_cases h : i < n <;> simp [h]

/-! ### Lanes and registers of a group -/

/-- A lane after a change of the lanes of a mask. -/
theorem Group.lane_modLanes (g : Group) (m : Mask) (f : Nat → Lane → Lane) (l : Nat) (h : l < 32) :
    (g.modLanes m f).lane l = if inMask m l then f l (g.lane l) else g.lane l := by
  unfold Group.modLanes Group.lane
  simp only [tab_getElem?, h, if_true, Option.getD_some]

/-- Past the last lane nothing changes. -/
theorem Group.lane_modLanes_out (g : Group) (m : Mask) (f : Nat → Lane → Lane) (l : Nat) (h : ¬ l < 32) :
    (g.modLanes m f).lane l = Lane.zero := by
  unfold Group.modLanes Group.lane
  simp only [tab_getElem?, h, if_false, Option.getD_none]

@[simp] theorem Group.lane_setS (g : Group) (r : Nat) (w : W64) (l : Nat) : (g.setS r w).lane l = g.lane l := rfl
@[simp] theorem Group.lane_setP (g : Group) (r : Nat) (w : W32) (l : Nat) : (g.setP r w).lane l = g.lane l := by
  unfold Group.setP; split <;> rfl
@[simp] theorem Group.lane_flag (g : Group) (w : W64) (l : Nat) : (g.flag w).lane l = g.lane l := rfl
@[simp] theorem Group.lane_flags (g : Group) (n l : Nat) : (g.flags n).lane l = g.lane l := rfl
@[simp] theorem Group.lane_putS (g : Group) (d : Opnd) (w : W64) (l : Nat) : (g.putS d w).lane l = g.lane l := by
  cases d <;> simp [Group.putS]

theorem Group.ext_lanes {g h : Group} (hl : ∀ l, l < 32 → g.lane l = h.lane l) (hr : { g with lanes := h.lanes } = h) :
    g = h := by
  have : g.lanes = h.lanes := by
    apply Vector.ext
    intro i hi
    have := hl i hi
    unfold Group.lane at this
    simpa [hi] using this
  rw [← hr, ← this]

/-- Two changes of one mask's lanes are one change. -/
theorem Group.modLanes_modLanes (g : Group) (m : Mask) (f h : Nat → Lane → Lane) :
    (g.modLanes m f).modLanes m h = g.modLanes m fun l x => h l (f l x) := by
  apply Group.ext_lanes
  · intro l hl
    simp only [Group.lane_modLanes _ _ _ _ hl]
    split <;> rfl
  · rfl

@[simp] theorem Group.modLanes_zero (g : Group) (f : Nat → Lane → Lane) : g.modLanes 0#32 f = g := by
  apply Group.ext_lanes
  · intro l hl; simp [Group.lane_modLanes _ _ _ _ hl]
  · rfl

theorem Lane.vreg_setV (x : Lane) (r k : Nat) (w : W32) (h : r < 128) :
    (x.setV r w).vreg k = if k = r then w else x.vreg k := by
  unfold Lane.setV Lane.vreg
  by_cases e : k = r
  · subst e; simp [h]
  · have : ¬ r = k := fun a => e a.symm
    simp [e, this]

theorem Group.sreg_setS (g : Group) (r k : Nat) (w : W64) (h : r < 64) :
    (g.setS r w).sreg k = if k = r then w else g.sreg k := by
  unfold Group.setS Group.sreg
  by_cases e : k = r
  · subst e; simp [h]
  · have : ¬ r = k := fun a => e a.symm
    simp [e, this]

/-- A predicate register after a write: p0 keeps its ones (R25, R26). -/
theorem Group.preg_setP (g : Group) (r k : Nat) (w : W32) (h : r < 8) :
    (g.setP r w).preg k = if k = 0 then 0xFFFF_FFFF#32 else if k = r then w else g.preg k := by
  unfold Group.setP Group.preg
  by_cases e : k = 0
  · simp [e]
  · by_cases e2 : k = r
    · subst e2; simp [e, h]
    · have e3 : ¬ r = k := fun a => e2 a.symm
      rw [if_neg e, if_neg e, if_neg e2]
      split <;> simp [e3]

@[simp] theorem Group.sreg_modLanes (g : Group) (m : Mask) (f : Nat → Lane → Lane) (r : Nat) :
    (g.modLanes m f).sreg r = g.sreg r := rfl
@[simp] theorem Group.preg_modLanes (g : Group) (m : Mask) (f : Nat → Lane → Lane) (r : Nat) :
    (g.modLanes m f).preg r = g.preg r := rfl

/-! ### Blocks and groups of a state -/

theorem List.find?_map_id {α : Type} (l : List α) (p : α → Bool) (f : α → α) (h : ∀ x, p (f x) = p x) :
    (l.map f).find? p = (l.find? p).map f := by
  induction l with
  | nil => rfl
  | cons x l ih =>
    simp only [List.map_cons, List.find?_cons, h]
    split <;> simp [ih]

/-- A block after a change of one block that keeps its number. -/
theorem State.block?_modBlock (s : State) (k j : Nat) (f : Block → Block) (h : ∀ b, (f b).id = b.id) :
    (s.modBlock k f).block? j = (s.block? j).map fun b => if b.id = k then f b else b := by
  unfold State.modBlock State.block?
  exact List.find?_map_id _ _ _ fun x => by split <;> simp [h]

theorem State.block?_modGroup (s : State) (k i j : Nat) (f : Group → Group) :
    (s.modGroup k i f).block? j =
      (s.block? j).map fun b => if b.id = k then { b with groups := b.groups.modify i f } else b := by
  unfold State.modGroup
  exact State.block?_modBlock _ _ _ _ fun _ => rfl

theorem State.block?_id {s : State} {k : Nat} {b : Block} (h : s.block? k = some b) : b.id = k := by
  simpa using List.find?_some h

/-- The group that a change of a group acted on. -/
theorem State.group?_modGroup_same (s : State) (k i : Nat) (f : Group → Group) :
    (s.modGroup k i f).group? k i = (s.group? k i).map f := by
  unfold State.group?
  rw [State.block?_modGroup]
  cases h : s.block? k with
  | none => rfl
  | some b => simp [State.block?_id h]

/-- Every other group is as before. -/
theorem State.group?_modGroup_other (s : State) (k i j n : Nat) (f : Group → Group) (h : ¬ (j = k ∧ n = i)) :
    (s.modGroup k i f).group? j n = s.group? j n := by
  unfold State.group?
  rw [State.block?_modGroup]
  cases hb : s.block? j with
  | none => rfl
  | some b =>
    have := State.block?_id hb
    simp only [Option.map_some, Option.bind_some]
    split
    · have : ¬ i = n := fun e => h ⟨by omega, e.symm⟩
      simp [this]
    · rfl

theorem List.modify_modify_same {α : Type} (l : List α) (i : Nat) (f g : α → α) :
    (l.modify i f).modify i g = l.modify i fun x => g (f x) := by
  apply List.ext_getElem?
  intro n
  simp only [List.getElem?_modify]
  split <;> simp [Option.map_map, Function.comp_def]

/-- Two changes of one group are one change. -/
theorem State.modGroup_modGroup (s : State) (k i : Nat) (f g : Group → Group) :
    (s.modGroup k i f).modGroup k i g = s.modGroup k i fun x => g (f x) := by
  unfold State.modGroup State.modBlock
  simp only [List.map_map]
  congr 1
  apply List.map_congr_left
  intro b _
  simp only [Function.comp_apply]
  split
  · rename_i h
    simp only [h, List.modify_modify_same]
  · rfl

/-! ### An instruction's course -/

/-- What a lane set at the head of the issue list comes with. -/
theorem State.ctx?_some {s : State} {c : Ctx} (h : s.ctx? = some c) :
    ∃ i rest, s.cur = i :: rest ∧ c.iss = i ∧ s.block? i.blk = some c.b ∧ c.b.groups[i.grp]? = some c.g
      ∧ s.launch? c.b.launch = some c.l ∧ c.r = i.old.getD c.g := by
  unfold State.ctx? at h
  split at h
  · contradiction
  · rename_i i rest hc
    split at h
    · contradiction
    · rename_i b hb
      split at h
      · rename_i g l hg hl
        cases h
        exact ⟨i, rest, hc, rfl, hb, hg, hl, rfl⟩
      · contradiction

theorem State.ctx?_block {s : State} {c : Ctx} (h : s.ctx? = some c) : s.block? c.iss.blk = some c.b := by
  obtain ⟨i, _, _, rfl, hb, _⟩ := State.ctx?_some h
  exact hb

theorem State.ctx?_group {s : State} {c : Ctx} (h : s.ctx? = some c) : s.group? c.iss.blk c.iss.grp = some c.g := by
  obtain ⟨i, _, _, rfl, hb, hg, _⟩ := State.ctx?_some h
  simp [State.group?, hb, hg]

theorem State.ctx?_launch {s : State} {c : Ctx} (h : s.ctx? = some c) : s.launch? c.b.launch = some c.l := by
  obtain ⟨i, _, _, rfl, _, _, hl, _⟩ := State.ctx?_some h
  exact hl

/-- An instruction that changes its own group: begin, the change and finish are one update. -/
theorem State.finish_modGroup (s : State) (c : Ctx) (n : Nat) (own : Mask) (f : Group → Group) :
    ((s.begin_ c).modGroup c.iss.blk c.iss.grp f).finish c n own = s.after c n own f := by
  have h : ∀ t : State, t.finish c n own =
      { t.modGroup c.iss.blk c.iss.grp (c.move n own) with cur := t.cur.tail } := fun _ => rfl
  have hb : s.begin_ c = s.modGroup c.iss.blk c.iss.grp c.start := rfl
  rw [h, hb, State.modGroup_modGroup, State.modGroup_modGroup]
  rfl

/-- An instruction that changes nothing but its lanes' places. -/
theorem State.finish_begin (s : State) (c : Ctx) (n : Nat) (own : Mask) :
    (s.begin_ c).finish c n own = s.after c n own id := by
  have h : ∀ t : State, t.finish c n own =
      { t.modGroup c.iss.blk c.iss.grp (c.move n own) with cur := t.cur.tail } := fun _ => rfl
  have hb : s.begin_ c = s.modGroup c.iss.blk c.iss.grp c.start := rfl
  rw [h, hb, State.modGroup_modGroup]
  rfl

/-- The issuing group afterwards. -/
theorem State.after_group {s : State} {c : Ctx} (h : s.ctx? = some c) (n : Nat) (own : Mask) (f : Group → Group) :
    (s.after c n own f).group? c.iss.blk c.iss.grp = some (c.move n own (f (c.start c.g))) := by
  have e : s.after c n own f =
    { s.modGroup c.iss.blk c.iss.grp (fun g => c.move n own (f (c.start g))) with cur := s.cur.tail } := rfl
  have e2 : ∀ (t : State) q, ({ t with cur := q } : State).group? = t.group? := fun _ _ => rfl
  rw [e, e2, State.group?_modGroup_same, State.ctx?_group h]
  rfl

/-- Every other group afterwards. -/
theorem State.after_other (s : State) (c : Ctx) (n : Nat) (own : Mask) (f : Group → Group) (j i : Nat)
    (h : ¬ (j = c.iss.blk ∧ i = c.iss.grp)) : (s.after c n own f).group? j i = s.group? j i := by
  have e : s.after c n own f =
    { s.modGroup c.iss.blk c.iss.grp (fun g => c.move n own (f (c.start g))) with cur := s.cur.tail } := rfl
  have e2 : ∀ (t : State) q, ({ t with cur := q } : State).group? = t.group? := fun _ _ => rfl
  rw [e, e2, State.group?_modGroup_other _ _ _ _ _ _ h]

@[simp] theorem Ctx.shielded_zero (c : Ctx) : c.shielded 0#32 = 0#32 :=
  mask_ext fun l _ => by simp [Ctx.shielded]

/-- No lane of a set outside every SHIELD window is shielded. -/
theorem Ctx.shielded_none {c : Ctx} {m : Mask} (hu : ∀ l, inMask m l = true → (c.g.lane l).shield = 0) :
    c.shielded m = 0#32 :=
  mask_ext fun l hl => by
    simp only [Ctx.shielded, inMask_maskOf, hl, decide_true, Bool.true_and, inMask_zero]
    cases hm : inMask m l
    · rfl
    · simp [hu l hm]

/-- An instruction that takes effect and that no SHIELD window forbids. -/
theorem State.issueN_done {s : State} {c : Ctx} {f : Ctx → State → Res} {n : Nat} {t : State} {own : Mask}
    (hc : s.ctx? = some c) (hf : f c (s.begin_ c) = .done t own) (forbidden : Ctx → Mask)
    (hs : c.shielded (forbidden c) = 0#32) : s.issueN n forbidden f = .next (t.finish c n own) := by
  unfold State.issueN
  simp [hc, hf, hs]

/-- An instruction that takes effect. -/
theorem State.issue_done {s : State} {c : Ctx} {f : Ctx → State → Res} {t : State} {own : Mask}
    (hc : s.ctx? = some c) (hf : f c (s.begin_ c) = .done t own) : s.issue f = .next (t.finish c 1 own) :=
  State.issueN_done hc hf _ c.shielded_zero

/-- An instruction whose whole effect is on its own group. -/
theorem State.issue_doneG {s : State} {c : Ctx} {f : Ctx → State → Res} {h : Group → Group}
    (hc : s.ctx? = some c) (hf : f c (s.begin_ c) = c.doneG (s.begin_ c) h) : s.issue f = .next (s.after c 1 0 h) := by
  rw [State.issue_done hc hf, State.finish_modGroup]

/-- An instruction that raises causes before it issues, with no SHIELD window in its way. -/
theorem State.issue_raise {s : State} {c : Ctx} {f : Ctx → State → Res} {cs : List (Cause × Mask)} {arg : W32}
    (hc : s.ctx? = some c) (hf : f c (s.begin_ c) = .raise cs arg false) :
    s.issue f = .next (({ s.abandon c.iss with cur := s.cur.tail } : State).trap c.iss.blk c.iss.grp
      { causes := cs, set := c.iss.lanes, tepc := c.iss.pc
        hdr := if c.iss.pc = c.iss.nextHdr then c.iss.pc else c.iss.hdr, arg := arg }) := by
  unfold State.issue State.issueN
  simp [hc, hf]

/-- A set that waits leaves the issue list. -/
theorem State.issue_wait {s : State} {c : Ctx} {f : Ctx → State → Res} {t : State}
    (hc : s.ctx? = some c) (hf : f c (s.begin_ c) = .wait t) : s.issue f = .next (t.hold c) := by
  unfold State.issue State.issueN
  simp [hc, hf]

/-- A set that waits and has changed its own group on the way. -/
theorem State.hold_modGroup (s : State) (c : Ctx) (f : Group → Group) :
    ((s.begin_ c).modGroup c.iss.blk c.iss.grp f).hold c = s.waits c f := by
  have h : ∀ t : State, t.hold c = { t.modGroup c.iss.blk c.iss.grp c.stay with cur := t.cur.tail } := fun _ => rfl
  have hb : s.begin_ c = s.modGroup c.iss.blk c.iss.grp c.start := rfl
  rw [h, hb, State.modGroup_modGroup, State.modGroup_modGroup]
  rfl

/-- A set that waits. -/
theorem State.hold_begin (s : State) (c : Ctx) : (s.begin_ c).hold c = s.waits c id := by
  have h : ∀ t : State, t.hold c = { t.modGroup c.iss.blk c.iss.grp c.stay with cur := t.cur.tail } := fun _ => rfl
  have hb : s.begin_ c = s.modGroup c.iss.blk c.iss.grp c.start := rfl
  rw [h, hb, State.modGroup_modGroup]
  rfl

/-- An instruction that waits and that no SHIELD window forbids. -/
theorem State.issueN_wait {s : State} {c : Ctx} {f : Ctx → State → Res} {n : Nat} {t : State}
    (hc : s.ctx? = some c) (hf : f c (s.begin_ c) = .wait t) (forbidden : Ctx → Mask)
    (hs : c.shielded (forbidden c) = 0#32) : s.issueN n forbidden f = .next (t.hold c) := by
  unfold State.issueN
  simp [hc, hf, hs]

/-- Without a lane set only the issue list changes. -/
theorem State.issueN_none {s : State} {f : Ctx → State → Res} {n : Nat} {b : Ctx → Mask} (hc : s.ctx? = none) :
    s.issueN n b f = .next { s with cur := s.cur.tail } := by
  unfold State.issueN
  simp [hc]

/-- Whatever an instruction does, the machine goes on. -/
theorem State.issueN_next (s : State) (n : Nat) (b : Ctx → Mask) (f : Ctx → State → Res) : ∃ t, s.issueN n b f = .next t := by
  unfold State.issueN
  split
  · exact ⟨_, rfl⟩
  · rename_i c _
    cases f c (s.begin_ c) with
    | done t own => dsimp only; split_ifs <;> exact ⟨_, rfl⟩
    | raise cs arg after => exact ⟨_, rfl⟩
    | fail cs q => exact ⟨_, rfl⟩
    | wait t => dsimp only; split_ifs <;> exact ⟨_, rfl⟩

end Sys2Proof.Machine
end

