-- ==== Sys2Proof/Laws/Fetch.lean ====
section
/-!
SUPPORT. Fetching and translating look at no block: an instruction that has begun sees the code as it was.
-/

namespace Sys2Proof.Machine

theorem State.walkFrom_blocks (s : State) (bs : List Block) (c : Context) (va n t : Nat) :
    ({ s with blocks := bs } : State).walkFrom c va n t = s.walkFrom c va n t := by
  induction n generalizing t with
  | zero => rfl
  | succ n ih =>
    unfold State.walkFrom
    simp only [ih]
    rfl

theorem State.translate_blocks (s : State) (bs : List Block) (core : Nat) (c : Context) (va : Nat) :
    ({ s with blocks := bs } : State).translate core c va =
      ((s.translate core c va).1, { (s.translate core c va).2 with blocks := bs }) := by
  unfold State.translate State.walk
  simp only [State.walkFrom_blocks]
  cases s.tlb.find? fun e => e.core == core && e.ctx == c.id && e.page == va / 2 ^ 16 with
  | none => cases s.walkFrom c va 4 c.root <;> rfl
  | some e =>
    dsimp only
    split
    · rfl
    · split
      · rfl
      · cases s.walkFrom c va 4 c.root <;> rfl

theorem State.fetch_blocks (s : State) (bs : List Block) (core : Nat) (l : Launch) (off : Nat) :
    ({ s with blocks := bs } : State).fetch core l off =
      ((s.fetch core l off).1, { (s.fetch core l off).2 with blocks := bs }) := by
  unfold State.fetch
  have hc : ({ s with blocks := bs } : State).context? l.ctx = s.context? l.ctx := rfl
  rw [hc]
  cases s.context? l.ctx with
  | none => rfl
  | some c =>
    dsimp only
    rw [State.translate_blocks]
    generalize s.translate core c (l.codeVa off) = q
    obtain ⟨x, t⟩ := q
    cases x with
    | ok pa key w xb =>
      dsimp only
      have hr : ∀ a b k p n, ({ t with blocks := bs } : State).readHome a b k p n = t.readHome a b k p n := fun _ _ _ _ _ => rfl
      rw [hr]
      split
      · rfl
      · cases t.readHome c.id (l.codeVa off) (Xlat.addr pa (l.codeVa off)) key 8 with
        | remote d o =>
          dsimp only
          cases t.codebuf.find? fun k => k.core == core && k.ctx == c.id && k.line == l.codeVa off / 128 <;> rfl
        | _ => rfl
    | _ => rfl

/-- The checks of R64 look at no block. -/
theorem State.targetOk_blocks (s : State) (bs : List Block) (core : Nat) (l : Launch) (t : Nat) :
    ({ s with blocks := bs } : State).targetOk core l t = s.targetOk core l t := by
  unfold State.targetOk State.peekCode
  rw [State.fetch_blocks]

theorem Ctx.okTarget_begin (c : Ctx) (s : State) (d : Ctx) (a : Opnd) (t : W32) :
    c.okTarget (s.begin_ d) a t = c.okTarget s a t := by
  unfold Ctx.okTarget
  exact congrArg _ (State.targetOk_blocks s _ _ _ _)

end Sys2Proof.Machine
end

