-- ==== Sys2Proof/Laws/Issue.lean ====
section
/-!
SUPPORT. What each shared course of an instruction does, said once: scalar and vector results, floating-point results,
results that land later, transfers of control, and the posting of memory requests.
-/

namespace Sys2Proof.Machine

variable {s : State} {c : Ctx} {f : Ctx → State → Res}

/-- A scalar result is written once if the guard is true in some lane of the set. -/
theorem State.issue_scal {g : BitVec 4} {d : Opnd} {w : W64} (hc : s.ctx? = some c)
    (hf : f c (s.begin_ c) = c.scal (s.begin_ c) g d w) :
    s.issue f = .next (s.after c 1 0 fun gr => if c.on g = 0 then gr else gr.putS d w) := by
  by_cases h : c.on g = 0
  · rw [State.issue_done hc (t := s.begin_ c) (own := 0) (by rw [hf, Ctx.scal, if_pos h]), State.finish_begin]
    simp only [h, if_true]
    rfl
  · rw [State.issue_doneG hc (by rw [hf, Ctx.scal, if_neg h])]
    simp only [h, if_false]

/-- A vector result is written in the guard-true lanes of the set. -/
theorem State.issue_vec {g : BitVec 4} {d : Opnd} {h : Nat → W32} (hc : s.ctx? = some c)
    (hf : f c (s.begin_ c) = c.vec (s.begin_ c) g d h) :
    s.issue f = .next (s.after c 1 0 fun gr => gr.putO (c.on g) d h) := State.issue_doneG hc hf

/-- A pair result is written in the guard-true lanes of the set. -/
theorem State.issue_vec2 {g : BitVec 4} {d : Opnd} {h : Nat → W64} (hc : s.ctx? = some c)
    (hf : f c (s.begin_ c) = c.vec2 (s.begin_ c) g d h) :
    s.issue f = .next (s.after c 1 0 fun gr => gr.putV2 (c.on g) d.vnum h) := State.issue_doneG hc hf

/-- A floating-point result is written in the guard-true lanes, and their flags go to FSTAT. -/
theorem State.issue_flt {x : VForm} {h : Nat → Nat × Nat} (hc : s.ctx? = some c)
    (hf : f c (s.begin_ c) = c.flt (s.begin_ c) x h) :
    s.issue f = .next (s.after c 1 0 fun gr =>
      (gr.putF x.fmt.toNat (c.on x.g) x.d fun l => (h l).1).flags (orFlags (c.on x.g) fun l => (h l).2)) :=
  State.issue_doneG hc hf

/-- An instruction that is guarded off in every lane, or has nothing to do, only moves its lanes on. -/
theorem State.issue_nothing (hc : s.ctx? = some c) (hf : f c (s.begin_ c) = .done (s.begin_ c) 0) :
    s.issue f = .next (s.after c 1 0 id) := by
  rw [State.issue_done hc hf, State.finish_begin]

/-- The lanes of m go to their targets when every target is valid (R30, R64). -/
theorem State.issue_jump {m : Mask} {a : Opnd} {t : Nat → W32} {h : Group → Group} (hc : s.ctx? = some c)
    (hf : f c (s.begin_ c) = c.jump (s.begin_ c) m a t h)
    (ok : ∀ l, inMask m l = true → c.okTarget (s.begin_ c) a (t l) = true) :
    s.issue f = .next (s.after c 1 m fun g => (h g).modLanes m fun l x => x.goto (t l)) := by
  have hb : (maskOf fun l => inMask m l && !c.okTarget (s.begin_ c) a (t l)) = 0#32 := by
    apply mask_ext
    intro l hl
    simp only [inMask_maskOf, hl, decide_true, Bool.true_and, inMask_zero]
    cases hm : inMask m l
    · rfl
    · simp [ok l hm]
  have hj : c.jump (s.begin_ c) m a t h =
      .done ((s.begin_ c).modGroup c.iss.blk c.iss.grp fun g => (h g).modLanes m fun l x => x.goto (t l)) m := by
    unfold Ctx.jump
    simp only [hb]
    simp
  rw [State.issue_done hc (hf.trans hj), State.finish_modGroup]

/-- A result that lands later: its registers are pending until then (R34). -/
theorem State.issue_later {la : BitVec 4} {m : Mask} {vr sr : List Nat} {ws : List (Dest × W64)} {h : Group → Group}
    (hc : s.ctx? = some c) (hf : f c (s.begin_ c) = c.later (s.begin_ c) la m vr sr ws h) (hm : m ≠ 0) :
    s.issue f = .next (({ s with nextId := s.nextId + 1 } : State).after c 1 0 fun g =>
      { h g with insns := g.insns ++ [(⟨s.nextId, .none, c.iss.pc, m, vr, sr, ws, true⟩ : Insn)] }.window (c.windowLanes m sr) s.nextId la) := by
  rw [State.issue_done hc (hf.trans (by unfold Ctx.later; rw [if_neg hm]))]
  exact congrArg _ (State.finish_modGroup ({ s with nextId := s.nextId + 1 } : State) c 1 0 _)

@[simp] theorem length_numberReqs (n : Nat) (rs : List Req) : (numberReqs n rs).length = rs.length := by
  simp [numberReqs]

/-- Posting requests: they get numbers, join the requests in order, and the instruction becomes pending (R21, R143). -/
theorem State.issue_post {la : BitVec 4} {i : Insn} {rs : List Req} (hc : s.ctx? = some c)
    (hf : f c (s.begin_ c) = c.post (s.begin_ c) la i rs) : s.issue f = .next (s.posted c la i rs) := by
  have hp : c.post (s.begin_ c) la i rs = .done
      (State.modGroup (({ s with
        nextId := s.nextId + 1 + (numberReqs s.nextId rs).length
        reqs := s.reqs ++ numberReqs s.nextId rs
        entries := s.entries ++ bankEntries s c (numberReqs s.nextId rs) } : State).begin_ c) c.iss.blk c.iss.grp fun g =>
        ({ g with insns := g.insns ++ [{ i with id := s.nextId }] }.raise i.ctr).window (c.windowLanes i.lanes i.sregs) s.nextId la) 0 := rfl
  rw [State.issue_done hc (hf.trans hp), State.finish_modGroup, length_numberReqs]
  rfl

end Sys2Proof.Machine
end

