-- ==== Sys2Proof/Laws/Memory.lean ====
section
/-!
SUPPORT. The laws of the memories: what a read gives after a write, and that every operation keeps the canonical form.
-/

namespace Sys2Proof.Machine

/-! ### Little-endian bytes -/

theorem leBytes_succ (n x : Nat) : leBytes (n + 1) x = BitVec.ofNat 8 x :: leBytes n (x / 256) := by
  simp only [leBytes, List.range_succ_eq_map, List.map_cons, List.map_map]
  congr 1
  apply List.map_congr_left
  intro i _
  simp only [Function.comp, Nat.shiftRight_eq_div_pow, Nat.div_div_eq_div_mul]
  congr 2
  rw [show 8 * Nat.succ i = 8 + 8 * i by omega, Nat.pow_add]

theorem ofLe_leBytes : ∀ n x, ofLe (leBytes n x) = x % 256 ^ n
  | 0, x => by simp [leBytes, ofLe, Nat.mod_one]
  | n + 1, x => by
    rw [leBytes_succ, ofLe, ofLe_leBytes n, BitVec.toNat_ofNat, show 256 ^ (n + 1) = 256 * 256 ^ n by rw [Nat.pow_succ, Nat.mul_comm],
      Nat.mod_mul]

/-! ### The canonical form -/

theorem Memory.wf_cons (c : Host.Cell) (m : Memory) :
    Memory.wf (c :: m) = true ↔ c.2 ≠ unlisted ∧ (∀ d ∈ m, c.1 < d.1) ∧ Memory.wf m = true := by
  induction m generalizing c with
  | nil => simp [Memory.wf]
  | cons d m ih =>
    simp only [Memory.wf, Bool.and_eq_true, bne_iff_ne, decide_eq_true_eq, List.mem_cons, forall_eq_or_imp, and_assoc]
    constructor
    · rintro ⟨h1, h2, h3⟩
      exact ⟨h1, h2, fun e he => Nat.lt_trans h2 (((ih d).1 h3).2.1 e he), h3⟩
    · rintro ⟨h1, h2, -, h3⟩
      exact ⟨h1, h2, h3⟩

/-- Below the first listed address everything reads as unlisted. -/
theorem Memory.get_below (m : Memory) (a : Nat) (h : ∀ d ∈ m, a < d.1) : m.get a = unlisted := by
  cases m with
  | nil => rfl
  | cons c m =>
    have := h c (by simp)
    simp [Memory.get, this, Nat.ne_of_gt this]

/-- What a write lists was listed, or is the byte written. -/
theorem Memory.mem_put (m : Memory) (a : Nat) (v : Byte) (d : Host.Cell) (h : d ∈ m.put a v) : d ∈ m ∨ d = (a, v) := by
  induction m with
  | nil =>
    unfold Memory.put at h
    split at h <;> simp_all
  | cons c m ih =>
    unfold Memory.put at h
    split at h
    · split at h <;> simp_all
      tauto
    · split at h
      · split at h <;> simp_all
        tauto
      · rcases List.mem_cons.1 h with h | h
        · simp [h]
        · rcases ih h with h | h <;> simp [h]

/-- A write of a byte keeps the canonical form. -/
theorem Memory.wf_put (m : Memory) (a : Nat) (v : Byte) (h : Memory.wf m = true) : Memory.wf (m.put a v) = true := by
  induction m with
  | nil =>
    unfold Memory.put
    split
    · rfl
    · simpa [Memory.wf] using ‹_›
  | cons c m ih =>
    have hc := (Memory.wf_cons c m).1 h
    unfold Memory.put
    split
    · split
      · exact h
      · refine (Memory.wf_cons _ _).2 ⟨‹_›, ?_, h⟩
        simp only [List.mem_cons, forall_eq_or_imp]
        exact ⟨‹_›, fun d hd => Nat.lt_trans ‹_› (hc.2.1 d hd)⟩
    · split
      · split
        · exact hc.2.2
        · refine (Memory.wf_cons _ _).2 ⟨‹_›, fun d hd => ?_, hc.2.2⟩
          have := hc.2.1 d hd
          omega
      · refine (Memory.wf_cons _ _).2 ⟨hc.1, fun d hd => ?_, ih hc.2.2⟩
        rcases Memory.mem_put m a v d hd with h | h
        · exact hc.2.1 d h
        · subst h; simp only; omega

/-- A write of bytes keeps the canonical form. -/
theorem Memory.wf_write (m : Memory) (a : Nat) (bs : List Byte) (h : Memory.wf m = true) :
    Memory.wf (m.write a bs) = true := by
  induction bs generalizing m a with
  | nil => exact h
  | cons b bs ih => exact ih _ _ (Memory.wf_put m a b h)

/-! ### Reads after writes -/

/-- A byte reads as it was written. -/
theorem Memory.get_put_same (m : Memory) (a : Nat) (v : Byte) (h : Memory.wf m = true) : (m.put a v).get a = v := by
  induction m with
  | nil => by_cases h : v = unlisted <;> simp [Memory.put, Memory.get, h]
  | cons c m ih =>
    have hc := (Memory.wf_cons c m).1 h
    unfold Memory.put
    split
    · split
      · rename_i h1 h2
        rw [h2]
        refine Memory.get_below _ _ ?_
        simp only [List.mem_cons, forall_eq_or_imp]
        exact ⟨h1, fun d hd => Nat.lt_trans h1 (hc.2.1 d hd)⟩
      · simp [Memory.get]
    · split
      · split
        · rename_i h1 h2 h3
          rw [h3]
          exact Memory.get_below _ _ fun d hd => h2 ▸ hc.2.1 d hd
        · simp [Memory.get]
      · rename_i h1 h2
        have e : ¬ c.1 = a := fun x => h2 x.symm
        simp only [Memory.get, e, h1, if_false, ih hc.2.2]

/-- Every other byte reads as before. -/
theorem Memory.get_put_other (m : Memory) (a b : Nat) (v : Byte) (h : Memory.wf m = true) (hab : b ≠ a) :
    (m.put a v).get b = m.get b := by
  induction m with
  | nil =>
    unfold Memory.put
    split
    · rfl
    · have : ¬ a = b := fun x => hab x.symm
      simp [Memory.get, this]
  | cons c m ih =>
    have hc := (Memory.wf_cons c m).1 h
    have e : ¬ a = b := fun x => hab x.symm
    unfold Memory.put
    split
    · rename_i h1
      split
      · rfl
      · simp only [Memory.get, e, if_false]
        split
        · have e2 : ¬ c.1 = b := by omega
          have e3 : b < c.1 := by omega
          simp [e2, e3]
        · rfl
    · split
      · rename_i h1 h2
        have e2 : ¬ c.1 = b := by omega
        split
        · simp only [Memory.get, e2, if_false]
          split
          · exact Memory.get_below _ _ fun d hd => Nat.lt_trans ‹_› (hc.2.1 d hd)
          · rfl
        · simp only [Memory.get, e2, h2, if_false]
      · simp only [Memory.get]
        split
        · rfl
        · split
          · rfl
          · exact ih hc.2.2

/-- What a write of bytes leaves at an address: the byte written there, or what was there. -/
theorem Memory.get_write (m : Memory) (a b : Nat) (bs : List Byte) (h : Memory.wf m = true) :
    (m.write a bs).get b = if a ≤ b ∧ b < a + bs.length then bs.getD (b - a) 0 else m.get b := by
  induction bs generalizing m a with
  | nil =>
    have : ¬ (a ≤ b ∧ b < a + ([] : List Byte).length) := by simp
    simp only [Memory.write, this, if_false]
  | cons x bs ih =>
    rw [Memory.write, ih _ _ (Memory.wf_put m a x h)]
    by_cases e : b = a
    · subst e
      have h1 : ¬ (b + 1 ≤ b ∧ b < b + 1 + bs.length) := by omega
      have h2 : b ≤ b ∧ b < b + (x :: bs).length := by simp
      rw [if_neg h1, if_pos h2, Memory.get_put_same m b x h]
      simp
    · rw [Memory.get_put_other m a b x h e]
      by_cases k : a + 1 ≤ b ∧ b < a + 1 + bs.length
      · have h2 : a ≤ b ∧ b < a + (x :: bs).length := by simp only [List.length_cons]; omega
        rw [if_pos k, if_pos h2, show b - a = (b - (a + 1)) + 1 by omega, List.getD_cons_succ]
      · have h2 : ¬ (a ≤ b ∧ b < a + (x :: bs).length) := by simp only [List.length_cons]; omega
        rw [if_neg k, if_neg h2]

@[simp] theorem Memory.length_read (m : Memory) (a n : Nat) : (m.read a n).length = n := by simp [Memory.read]

/-- What the bytes of a list are listed under. -/
theorem Memory.mem_zipIdx_le {bs : List Byte} {n : Nat} {d : Host.Cell}
    (h : d ∈ ((bs.zipIdx n).filter fun p => decide (p.1 ≠ unlisted)).map fun p => (p.2, p.1)) : n ≤ d.1 := by
  simp only [List.mem_map, List.mem_filter] at h
  obtain ⟨q, ⟨hq, _⟩, rfl⟩ := h
  exact List.le_snd_of_mem_zipIdx hq

/-- The memory of a list of bytes from n upward has the canonical form. -/
theorem Memory.wf_zipIdx (bs : List Byte) (n : Nat) :
    Memory.wf (((bs.zipIdx n).filter fun p => decide (p.1 ≠ unlisted)).map fun p => (p.2, p.1)) = true := by
  induction bs generalizing n with
  | nil => rfl
  | cons b bs ih =>
    rw [List.zipIdx_cons, List.filter_cons]
    split
    · rename_i hb
      rw [List.map_cons, Memory.wf_cons]
      refine ⟨by simpa using hb, ?_, ih (n + 1)⟩
      intro d hd
      have := Memory.mem_zipIdx_le hd
      simp only
      omega
    · exact ih (n + 1)

/-- The memory of a list of bytes has the canonical form. -/
theorem Memory.wf_ofBytes (bs : List Byte) : Memory.wf (Memory.ofBytes bs) = true := Memory.wf_zipIdx bs 0

/-- Reading back the bytes of a list that begins at n. -/
theorem Memory.get_zipIdx (bs : List Byte) (n a : Nat) :
    Memory.get (((bs.zipIdx n).filter fun p => decide (p.1 ≠ unlisted)).map fun p => (p.2, p.1)) (n + a) = bs.getD a unlisted := by
  induction bs generalizing n a with
  | nil => rfl
  | cons b bs ih =>
    rw [List.zipIdx_cons, List.filter_cons]
    cases a with
    | zero =>
      split
      · simp [Memory.get]
      · rename_i hb
        rw [Memory.get_below _ _ fun d hd => by have := Memory.mem_zipIdx_le hd; omega]
        simp at hb; simp [hb]
    | succ a =>
      have := ih (n + 1) a
      rw [show n + 1 + a = n + (a + 1) by omega] at this
      split
      · rw [List.map_cons, Memory.get, if_neg (by simp), if_neg (by simp), this]; simp
      · rw [this]; simp

/-- The memory of a list of bytes lists them from address 0. -/
theorem Memory.get_ofBytes (bs : List Byte) (a : Nat) : (Memory.ofBytes bs).get a = bs.getD a unlisted := by
  simpa [Memory.ofBytes] using Memory.get_zipIdx bs 0 a

/-! ### Device memory -/

theorem Store.wf_put (m : Store) (k pa : Nat) (v : Byte) (h : Memory.wf m.cells = true) :
    Memory.wf (m.put k pa v).cells = true := by
  unfold Store.put
  split
  · exact Memory.wf_put _ _ _ h
  · exact Memory.wf_put _ _ _ (Memory.wf_write _ _ _ h)

theorem Store.wf_write (m : Store) (k pa : Nat) (bs : List Byte) (h : Memory.wf m.cells = true) :
    Memory.wf (m.write k pa bs).cells = true := by
  induction bs generalizing m pa with
  | nil => exact h
  | cons b bs ih => exact ih _ _ (Store.wf_put m k pa b h)

@[simp] theorem Store.unpoison_cells (m : Store) (pa n : Nat) : (m.unpoison pa n).cells = m.cells := rfl
@[simp] theorem Store.unpoison_keys (m : Store) (pa n : Nat) : (m.unpoison pa n).keys = m.keys := rfl

/-- The poison of device memory is unchanged by a write of bytes alone. -/
@[simp] theorem Store.put_poison (m : Store) (k pa : Nat) (v : Byte) : (m.put k pa v).poison = m.poison := by
  unfold Store.put
  split <;> rfl

@[simp] theorem Store.write_poison (m : Store) (k pa : Nat) (bs : List Byte) : (m.write k pa bs).poison = m.poison := by
  induction bs generalizing m pa with
  | nil => rfl
  | cons b bs ih => rw [Store.write, ih, Store.put_poison]

end Sys2Proof.Machine
end

