-- ==== Sys2Proof/Tests/Slice0.lean ====
section
/-!
SUPPORT. Tests: words written out from the encodings of the specification and what they decode to; an ill-formed term for
each check of well-formedness; one step of an instruction or event on a small state, with results worked out from the rule
named; and, for each statement with hypotheses, a state and operands that meet them all (the theorems wit_…).
-/

namespace Sys2Proof.Tests

open Sys2Proof Sys2Proof.Machine

/-! ### Decoding -/

/-- Whether a word, with the shape words 7, 0x20001, 0 and 0 after it, decodes to an instruction. -/
def decodesTo (w : W64) (i : Instr) : Bool :=
  match decode w 7 0x20001 0 0 with
  | .ok j => decide (j = i)
  | .error _ => false

/-- Whether a word raises an encoding cause. -/
def refusedAs (w : W64) (c : Cause) : Bool :=
  match decode w 0 0 0 0 with
  | .ok _ => false
  | .error k => decide (k = c)

theorem test_decode_control : List.all (α := W64 × Instr)
  [(0x0000_FFFF_FFFF_0000, .nop ⟨0, 0, .none, .none, .none, .none, 0, 0, 0, 0⟩),
   (0x0109_FFFF_FFFF_FFFF, .bra ⟨0, 9, .none, .none, 0xffffffff⟩),
   (0x0200_FF07_0000_0003, .brc ⟨0, 0, .none, .v 7, 0x3⟩),
   (0x0300_FF89_FFFF_0000, .bri ⟨0, 0, .none, .s 9, .none, .none, 0, 0, 0, 0⟩),
   (0x0400_01FF_0000_0004, .call ⟨0, 0, .v 1, .none, 0x4⟩),
   (0x0500_0102_FFFF_0000, .calli ⟨0, 0, .v 1, .v 2, .none, .none, 0, 0, 0, 0⟩),
   (0x0600_FF01_FFFF_0000, .ret ⟨0, 0, .none, .v 1, .none, .none, 0, 0, 0, 0⟩),
   (0x0700_F1FF_0000_0006, .setmt ⟨0, 0, .mt, .none, 0x6⟩),
   (0x0800_04F1_FFFF_0001, .getmt ⟨0, 0, .v 4, .mt, .none, .none, 0, 0, 0, 1⟩),
   (0x0901_FFFF_0000_0002, .brpk ⟨0, 1, .none, .none, 0x2⟩),
   (0x0A02_FFFF_FFFF_0000, .demote ⟨0, 2, .none, .none, .none, .none, 0, 0, 0, 0⟩),
   (0x0B0F_FFFF_FFFF_0000, .exit ⟨0, 15, .none, .none, .none, .none, 0, 0, 0, 0⟩),
   (0x0C00_FFFF_FFFF_0000, .yield ⟨0, 0, .none, .none, .none, .none, 0, 0, 0, 0⟩),
   (0x0D00_FFFF_0000_0064, .sleep ⟨0, 0, .none, .none, 0x64⟩)]
  (fun p => decodesTo p.1 p.2) = true := by decide

theorem test_decode_scalar : List.all (α := W64 × Instr)
  [(0x1000_8280_81FF_3140, .sadd ⟨0, 0, .s 2, .s 0, .s 1, .none, 3, 0, 5, 0⟩),
   (0x1100_BFF5_81FF_1000, .ssub ⟨0, 0, .s 63, .stage, .s 1, .none, 1, 0, 0, 0⟩),
   (0x1200_8182_83FF_2001, .smul ⟨0, 0, .s 1, .s 2, .s 3, .none, 2, 0, 0, 1⟩),
   (0x13F0_8182_83FF_0001, .sdiv ⟨15, 0, .s 1, .s 2, .s 3, .none, 0, 0, 0, 1⟩),
   (0x1400_8182_83FF_3002, .slog ⟨0, 0, .s 1, .s 2, .s 3, .none, 3, 0, 0, 2⟩),
   (0x1500_8182_83FF_3003, .ssh ⟨0, 0, .s 1, .s 2, .s 3, .none, 3, 0, 0, 3⟩),
   (0x1600_8182_83FF_2001, .smnx ⟨0, 0, .s 1, .s 2, .s 3, .none, 2, 0, 0, 1⟩),
   (0x1700_C382_83FF_2005, .scmp ⟨0, 0, .p 3, .s 2, .s 3, .none, 2, 0, 0, 5⟩),
   (0x1800_8182_8384_3000, .ssel ⟨0, 0, .s 1, .s 2, .s 3, .s 4, 3, 0, 0, 0⟩),
   (0x1900_8585_8000_0001, .smovk ⟨0, 0, .s 5, .s 5, 0x80000001⟩),
   (0x1A00_8102_83FF_1000, .srdl ⟨0, 0, .s 1, .v 2, .s 3, .none, 1, 0, 0, 0⟩),
   (0x1B00_8182_FFFF_0003, .sbit ⟨0, 0, .s 1, .s 2, .none, .none, 0, 0, 0, 3⟩),
   (0x1C00_81FF_FFFF_300D, .sget ⟨0, 0, .s 1, .none, .none, .none, 3, 0, 0, 13⟩)]
  (fun p => decodesTo p.1 p.2) = true := by decide

theorem test_decode_vector_integer : List.all (α := W64 × Instr)
  [(0x2000_0102_03FF_71C0, .viadd ⟨0, 0, .v 1, .v 2, .v 3, .none, 7, 0, 7, 0⟩),
   (0x2100_C102_F3C2_1003, .visub ⟨0, 0, .p 1, .v 2, .laneid, .p 2, 1, 0, 0, 3⟩),
   (0x2200_0182_03FF_5001, .vimul ⟨0, 0, .v 1, .s 2, .v 3, .none, 5, 0, 0, 1⟩),
   (0x2300_0102_03F5_0000, .vimad ⟨0, 0, .v 1, .v 2, .v 3, .stage, 0, 0, 0, 0⟩),
   (0x2430_0102_03FF_4001, .vidiv ⟨3, 0, .v 1, .v 2, .v 3, .none, 4, 0, 0, 1⟩),
   (0x2500_0102_FFFF_1004, .vlog ⟨0, 0, .v 1, .v 2, .none, .none, 1, 0, 0, 4⟩),
   (0x2600_0102_83FF_6002, .vsh ⟨0, 0, .v 1, .v 2, .s 3, .none, 6, 0, 0, 2⟩),
   (0x2700_0102_03FF_0001, .vmnx ⟨0, 0, .v 1, .v 2, .v 3, .none, 0, 0, 0, 1⟩),
   (0x2800_0102_FFFF_5002, .vbit ⟨0, 0, .v 1, .v 2, .none, .none, 5, 0, 0, 2⟩),
   (0x2900_0102_03FF_1000, .vbfx ⟨0, 0, .v 1, .v 2, .v 3, .none, 1, 0, 0, 0⟩),
   (0x2A00_0102_0304_1000, .vbfi ⟨0, 0, .v 1, .v 2, .v 3, .v 4, 1, 0, 0, 0⟩),
   (0x2B00_C702_03FF_0004, .vicmp ⟨0, 0, .p 7, .v 2, .v 3, .none, 0, 0, 0, 4⟩),
   (0x2C00_0102_03C4_1000, .vsel ⟨0, 0, .v 1, .v 2, .v 3, .p 4, 1, 0, 0, 0⟩),
   (0x2D00_7FF4_FFFF_0100, .vmov ⟨0, 0, .v 127, .homelane, .none, .none, 0, 0, 4, 0⟩),
   (0x2E00_05FF_DEAD_BEEF, .vmovk ⟨0, 0, .v 5, .none, 0xdeadbeef⟩),
   (0x2F00_0102_0384_0007, .vlea ⟨0, 0, .v 1, .v 2, .v 3, .s 4, 0, 0, 0, 7⟩),
   (0x3000_0204_86FF_3001, .viadd64 ⟨0, 0, .v 2, .v 4, .s 6, .none, 3, 0, 0, 1⟩),
   (0x3100_0205_07FF_1000, .vimul64 ⟨0, 0, .v 2, .v 5, .v 7, .none, 1, 0, 0, 0⟩),
   (0x3200_0205_FFFF_0000, .viext ⟨0, 0, .v 2, .v 5, .none, .none, 0, 0, 0, 0⟩),
   (0x3300_0102_03FF_6042, .vpack ⟨0, 0, .v 1, .v 2, .v 3, .none, 6, 0, 1, 2⟩)]
  (fun p => decodesTo p.1 p.2) = true := by decide

theorem test_decode_floating : List.all (α := W64 × Instr)
  [(0x4000_0405_06FF_8000, .vfadd ⟨0, 0, .v 4, .v 5, .v 6, .none, 8, 0, 0, 0⟩),
   (0x4100_0406_88FF_9600, .vfsub ⟨0, 0, .v 4, .v 6, .s 8, .none, 9, 3, 0, 0⟩),
   (0x4200_0405_06FF_A800, .vfmul ⟨0, 0, .v 4, .v 5, .v 6, .none, 10, 4, 0, 0⟩),
   (0x4301_0405_0607_8000, .vfma ⟨0, 1, .v 4, .v 5, .v 6, .v 7, 8, 0, 0, 0⟩),
   (0x4400_0405_06FF_B003, .vfmnx ⟨0, 0, .v 4, .v 5, .v 6, .none, 11, 0, 0, 3⟩),
   (0x4500_C105_06FF_8007, .vfcmp ⟨0, 0, .p 1, .v 5, .v 6, .none, 8, 0, 0, 7⟩),
   (0x4600_C205_06FF_8000, .vfclass ⟨0, 0, .p 2, .v 5, .v 6, .none, 8, 0, 0, 0⟩),
   (0x4790_0405_06FF_8000, .vfdiv ⟨9, 0, .v 4, .v 5, .v 6, .none, 8, 0, 0, 0⟩),
   (0x4810_0406_FFFF_9000, .vfsqrt ⟨1, 0, .v 4, .v 6, .none, .none, 9, 0, 0, 0⟩),
   (0x4900_0405_FFFF_8002, .vfapx ⟨0, 0, .v 4, .v 5, .none, .none, 8, 0, 0, 2⟩),
   (0x4A00_0405_86FF_8000, .vfscl ⟨0, 0, .v 4, .v 5, .s 6, .none, 8, 0, 0, 0⟩),
   (0x4B00_0405_FFFF_8401, .vfrnd ⟨0, 0, .v 4, .v 5, .none, .none, 8, 2, 0, 1⟩),
   (0x5000_0406_FFFF_3009, .vcvtf ⟨0, 0, .v 4, .v 6, .none, .none, 3, 0, 0, 9⟩),
   (0x5100_0405_FFFF_8202, .vcvtfi ⟨0, 0, .v 4, .v 5, .none, .none, 8, 1, 0, 2⟩),
   (0x5200_0405_FFFF_9006, .vcvtif ⟨0, 0, .v 4, .v 5, .none, .none, 9, 0, 0, 6⟩),
   (0x5300_0432_FFFF_7000, .vqnt ⟨0, 0, .v 4, .v 50, .none, .none, 7, 0, 0, 0⟩),
   (0x5400_0432_FFFF_1000, .vdqnt ⟨0, 0, .v 4, .v 50, .none, .none, 1, 0, 0, 0⟩)]
  (fun p => decodesTo p.1 p.2) = true := by decide

theorem test_decode_cross_lane : List.all (α := W64 × Instr)
  [(0x6000_0102_83FF_1003, .vshfl ⟨0, 0, .v 1, .v 2, .s 3, .none, 1, 0, 0, 3⟩),
   (0x6100_C1C2_FFFF_1005, .vvote ⟨0, 0, .p 1, .p 2, .none, .none, 1, 0, 0, 5⟩),
   (0x6200_0102_FFFF_400D, .vprfx ⟨0, 0, .v 1, .v 2, .none, .none, 4, 0, 0, 13⟩),
   (0x6300_8102_FFFF_8202, .vred ⟨0, 0, .s 1, .v 2, .none, .none, 8, 1, 0, 2⟩),
   (0x6400_0102_FFFF_6000, .vmatch ⟨0, 0, .v 1, .v 2, .none, .none, 6, 0, 0, 0⟩),
   (0x6500_8102_83FF_1000, .vbcst ⟨0, 0, .s 1, .v 2, .s 3, .none, 1, 0, 0, 0⟩),
   (0x6600_FFFF_FFFF_0000, .fenceg ⟨0, 0, .none, .none, .none, .none, 0, 0, 0, 0⟩)]
  (fun p => decodesTo p.1 p.2) = true := by decide

theorem test_decode_memory : List.all (α := W64 × Instr)
  [(0x7020_0882_09FF_2000, .ld ⟨2, 0, .v 8, .s 2, .reg (.v 9) .none, 2, 0, 0, 0, 0⟩),
   (0x7100_0406_8000_4B40, .st ⟨0, 0, .v 4, .v 6, .imm 0x8000, 4, 5, 2, 0, 0⟩),
   (0x7200_0309_81FF_08A0, .lds ⟨0, 0, .v 3, .v 9, .reg (.s 1) .none, 0, 4, 1, 2, 0⟩),
   (0x7300_02FF_09FF_3010, .sts ⟨0, 0, .v 2, .none, .reg (.v 9) .none, 3, 0, 0, 1, 0⟩),
   (0x7400_8384_0001_3050, .ldu ⟨0, 0, .s 3, .s 4, .imm 0x1, 3, 0, 0, 1, 0⟩),
   (0x7500_8384_85FF_0000, .stu ⟨0, 0, .s 3, .s 4, .reg (.s 5) .none, 0, 0, 0, 0, 0⟩),
   (0x7610_0309_0002_2040, .lda ⟨1, 0, .v 3, .v 9, .imm 0x2, 2, 0, 0, 0, 0⟩),
   (0x7700_0309_0002_2040, .sta ⟨0, 0, .v 3, .v 9, .imm 0x2, 2, 0, 0, 0, 0⟩),
   (0x7800_8384_0586_4000, .ldds ⟨0, 0, .s 3, .s 4, .reg (.v 5) (.s 6), 4, 0, 0, 0, 0⟩),
   (0x7900_FF02_85FF_0000, .pref ⟨0, 0, .none, .v 2, .reg (.s 5) .none, 0, 0, 0, 0, 0⟩),
   (0x7A00_FF82_0003_0040, .cctl ⟨0, 0, .none, .s 2, .imm 0x3, 0, 0, 0, 0, 0⟩),
   (0x7B00_FFFF_0F01_0203, .waitc ⟨0, 0, .none, .none, 0xf010203⟩),
   (0x7C20_83FF_0004_3040, .ldk ⟨2, 0, .s 3, .none, .imm 0x4, 3, 0, 0, 0, 0⟩),
   (0x7D00_83FF_84FF_2000, .stk ⟨0, 0, .s 3, .none, .reg (.s 4) .none, 2, 0, 0, 0, 0⟩)]
  (fun p => decodesTo p.1 p.2) = true := by decide

theorem test_decode_atomics : List.all (α := W64 × Instr)
  [(0x8000_0284_0586_398C, .atom ⟨0, 0, .v 2, .s 4, .reg (.v 5) (.s 6), 3, 4, 3, 0, 12⟩),
   (0x8100_0406_0001_3040, .cas ⟨0, 0, .v 4, .v 6, .imm 0x1, 3, 0, 0, 0, 0⟩),
   (0x8200_0309_05FF_2018, .red ⟨0, 0, .v 3, .v 9, .reg (.v 5) .none, 2, 0, 0, 1, 8⟩),
   (0x8300_8384_0000_2049, .atoms ⟨0, 0, .s 3, .s 4, .imm 0x0, 2, 0, 0, 0, 9⟩),
   (0x8400_BE84_85FF_3000, .cass ⟨0, 0, .s 62, .s 4, .reg (.s 5) .none, 3, 0, 0, 0, 0⟩),
   (0x8500_8384_85FF_3304, .reds ⟨0, 0, .s 3, .s 4, .reg (.s 5) .none, 3, 1, 2, 0, 4⟩),
   (0x8600_8182_0001_4050, .barinit ⟨0, 0, .s 1, .s 2, .imm 0x1, 4, 0, 0, 1, 0⟩),
   (0x8700_8182_83FF_4010, .bararr ⟨0, 0, .s 1, .s 2, .reg (.s 3) .none, 4, 0, 0, 1, 0⟩),
   (0x8800_81FF_0002_4050, .barexp ⟨0, 0, .s 1, .none, .imm 0x2, 4, 0, 0, 1, 0⟩),
   (0x8908_8182_0001_4050, .barwait ⟨0, 8, .s 1, .s 2, .imm 0x1, 4, 0, 0, 1, 0⟩),
   (0x8A00_8182_0001_4050, .bartst ⟨0, 0, .s 1, .s 2, .imm 0x1, 4, 0, 0, 1, 0⟩),
   (0x8B00_FFFF_FF87_0880, .fence ⟨0, 0, .none, .none, .reg .none (.s 7), 0, 4, 1, 0, 0⟩)]
  (fun p => decodesTo p.1 p.2) = true := by decide

theorem test_decode_matrix : List.all (α := W64 × Instr)
  [(0x9000_F281_FFFF_0000, .gangset ⟨0, 0, .gang, .s 1, .none, .none, 0, 0, 0, 0⟩),
   (0x9100_FF01_CAFF_60C0, .mma ⟨0, 0, .none, .v 1, .th 2, .none, 3, 3, 0, 7, 0x20001, 0, 0⟩),
   (0x9200_FF01_FFFF_6700, .mmas ⟨0, 0, .none, .v 1, .none, .none, 3, 28, 0, 7, 0x20001, 0, 0⟩),
   (0x9300_FFFF_FFFF_0000, .acommit ⟨0, 0, .none, .none, .none, .none, 0, 0, 0, 0⟩),
   (0x9400_FFFF_FFFF_0000, .adiscard ⟨0, 0, .none, .none, .none, .none, 0, 0, 0, 0⟩),
   (0x9540_01FF_FFFF_0040, .accld ⟨4, 0, .v 1, .none, .none, .none, 0, 1, 0, 7, 0x20001, 0, 0⟩),
   (0x9600_FFFF_FFFF_0000, .accz ⟨0, 0, .none, .none, .none, .none, 0, 0, 0, 7, 0x20001, 0, 0⟩),
   (0x9700_FFD7_81FF_0040, .tld ⟨0, 0, .none, .th 15, .s 1, .none, 0, 1, 0, 7, 0x20001, 0, 0⟩),
   (0x9800_FFCB_FFFF_0000, .tst ⟨0, 0, .none, .th 3, .none, .none, 0, 0, 0, 7, 0x20001, 0, 0⟩),
   (0x9900_CBBC_FFFF_0000, .thset ⟨0, 0, .th 3, .s 60, .none, .none, 0, 0, 0, 7, 0x20001, 0, 0⟩),
   (0x9A00_81CB_FFFF_0007, .thget ⟨0, 0, .s 1, .th 3, .none, .none, 0, 0, 0, 7⟩)]
  (fun p => decodesTo p.1 p.2) = true := by decide

theorem test_decode_versions : List.all (α := W64 × Instr)
  [(0xA020_0482_0586_4000, .vnld ⟨2, 0, .v 4, .s 2, .reg (.v 5) (.s 6), 4, 0, 0, 0, 0⟩),
   (0xA100_0406_FF86_3000, .vnst ⟨0, 0, .v 4, .v 6, .reg .none (.s 6), 3, 0, 0, 0, 0⟩),
   (0xA200_FF81_82FF_0000, .vnpub ⟨0, 0, .none, .s 1, .s 2, .none, 0, 0, 0, 0⟩),
   (0xA300_FF81_82FF_0000, .vnfloor ⟨0, 0, .none, .s 1, .s 2, .none, 0, 0, 0, 0⟩),
   (0xA400_FF81_82FF_0000, .vnwait ⟨0, 0, .none, .s 1, .s 2, .none, 0, 0, 0, 0⟩),
   (0xA500_8182_FFFF_0006, .vnstat ⟨0, 0, .s 1, .s 2, .none, .none, 0, 0, 0, 6⟩),
   (0xA600_8182_FFFF_0000, .vnopen ⟨0, 0, .s 1, .s 2, .none, .none, 0, 0, 0, 0⟩)]
  (fun p => decodesTo p.1 p.2) = true := by decide

theorem test_decode_retrieval : List.all (α := W64 × Instr)
  [(0xB000_DF81_FFFF_0000, .hfset ⟨0, 0, .hf 7, .s 1, .none, .none, 0, 0, 0, 0⟩),
   (0xB130_0102_D983_0000, .hcode ⟨3, 0, .v 1, .v 2, .hf 1, .s 3, 0, 0, 0, 0⟩),
   (0xB200_0205_D983_0001, .hprobe ⟨0, 0, .v 2, .v 5, .hf 1, .s 3, 0, 0, 0, 1⟩),
   (0xB300_0102_D983_0000, .hins ⟨0, 0, .v 1, .v 2, .hf 1, .s 3, 0, 0, 0, 0⟩),
   (0xB400_FF02_D983_0000, .hdel ⟨0, 0, .none, .v 2, .hf 1, .s 3, 0, 0, 0, 0⟩),
   (0xB500_8182_DA83_0000, .hrehash ⟨0, 0, .s 1, .s 2, .hf 2, .s 3, 0, 0, 0, 0⟩),
   (0xB600_81FF_D983_0000, .hmerge ⟨0, 0, .s 1, .none, .hf 1, .s 3, 0, 0, 0, 0⟩),
   (0xB700_81FF_D9FF_0028, .hstat ⟨0, 0, .s 1, .none, .hf 1, .none, 0, 0, 0, 40⟩)]
  (fun p => decodesTo p.1 p.2) = true := by decide

theorem test_decode_tasks_and_engines : List.all (α := W64 × Instr)
  [(0xC000_C1B8_0000_0000, .spawn ⟨0, 0, .p 1, .s 56, 0, 0, 0⟩),
   (0xC100_F002_E3FF_0000, .bndset ⟨0, 0, .bnd, .v 2, .ic 3, .none, 0, 0, 0, 0⟩),
   (0xC200_02F0_FFFF_0000, .bndget ⟨0, 0, .v 2, .bnd, .none, .none, 0, 0, 0, 0⟩),
   (0xC300_EF81_FFFF_0000, .icupd ⟨0, 0, .ic 15, .s 1, .none, .none, 0, 0, 0, 0⟩),
   (0xC400_81E0_FFFF_0002, .icrd ⟨0, 0, .s 1, .ic 0, .none, .none, 0, 0, 0, 2⟩),
   (0xC500_FFFF_0000_000F, .shield ⟨0, 0, .none, .none, 0xf⟩),
   (0xC600_81FF_FFFF_0008, .tqstat ⟨0, 0, .s 1, .none, .none, .none, 0, 0, 0, 8⟩),
   (0xD000_C188_0000_0500, .push ⟨0, 0, .p 1, .s 8, 0, 5, 0⟩),
   (0xD100_81FF_FFFF_0005, .qstat ⟨0, 0, .s 1, .none, .none, .none, 0, 0, 0, 5⟩)]
  (fun p => decodesTo p.1 p.2) = true := by decide

theorem test_decode_system : List.all (α := W64 × Instr)
  [(0xE000_FFFF_0000_003F, .trap ⟨0, 0, .none, .none, 0x3f⟩),
   (0xE100_FF03_FFFF_0001, .rft ⟨0, 0, .none, .v 3, .none, .none, 0, 0, 0, 1⟩),
   (0xE200_81FF_0041_0000, .csrr ⟨0, 0, .s 1, .none, 0, 0x41, 0, 0⟩),
   (0xE300_FF85_0012_0000, .csrw ⟨0, 0, .none, .s 5, 0, 0x12, 0, 0⟩),
   (0xE403_FFFF_0000_0001, .bkpt ⟨0, 3, .none, .none, 0x1⟩)]
  (fun p => decodesTo p.1 p.2) = true := by decide

theorem test_decode_words_of_the_spec_1 : List.all (α := W64 × Instr)
  [(0x0100_FFFF_0000_0007, .bra ⟨0, 0, .none, .none, 0x7⟩),
   (0x0200_FFF3_0000_0005, .brc ⟨0, 0, .none, .laneid, 0x5⟩),
   (0x0500_0784_FFFF_0000, .calli ⟨0, 0, .v 7, .s 4, .none, .none, 0, 0, 0, 0⟩),
   (0x0700_F105_0000_0000, .setmt ⟨0, 0, .mt, .v 5, 0x0⟩),
   (0x0800_05F1_FFFF_0001, .getmt ⟨0, 0, .v 5, .mt, .none, .none, 0, 0, 0, 1⟩),
   (0x0902_FFFF_0000_000C, .brpk ⟨0, 2, .none, .none, 0xc⟩),
   (0x0D00_FFFF_0000_0100, .sleep ⟨0, 0, .none, .none, 0x100⟩),
   (0x1000_8485_86FF_2000, .sadd ⟨0, 0, .s 4, .s 5, .s 6, .none, 2, 0, 0, 0⟩),
   (0x1900_84FF_FFFF_FFFF, .smovk ⟨0, 0, .s 4, .none, 0xffffffff⟩),
   (0x1A00_8205_81FF_1000, .srdl ⟨0, 0, .s 2, .v 5, .s 1, .none, 1, 0, 0, 0⟩),
   (0x2000_C104_06FF_1002, .viadd ⟨0, 0, .p 1, .v 4, .v 6, .none, 1, 0, 0, 2⟩),
   (0x2410_0304_05FF_1001, .vidiv ⟨1, 0, .v 3, .v 4, .v 5, .none, 1, 0, 0, 1⟩),
   (0x2C00_0102_03C2_1000, .vsel ⟨0, 0, .v 1, .v 2, .v 3, .p 2, 1, 0, 0, 0⟩),
   (0x2F00_0783_06FF_0002, .vlea ⟨0, 0, .v 7, .s 3, .v 6, .none, 0, 0, 0, 2⟩),
   (0x3100_0802_03FF_1000, .vimul64 ⟨0, 0, .v 8, .v 2, .v 3, .none, 1, 0, 0, 0⟩),
   (0x4300_0406_080A_9200, .vfma ⟨0, 0, .v 4, .v 6, .v 8, .v 10, 9, 1, 0, 0⟩),
   (0x4500_C201_83FF_8002, .vfcmp ⟨0, 0, .p 2, .v 1, .s 3, .none, 8, 0, 0, 2⟩),
   (0x5000_0203_FFFF_1008, .vcvtf ⟨0, 0, .v 2, .v 3, .none, .none, 1, 0, 0, 8⟩),
   (0x5100_0607_FFFF_8200, .vcvtfi ⟨0, 0, .v 6, .v 7, .none, .none, 8, 1, 0, 0⟩)]
  (fun p => decodesTo p.1 p.2) = true := by decide

theorem test_decode_words_of_the_spec_2 : List.all (α := W64 × Instr)
  [(0x7100_0586_07FF_2900, .st ⟨0, 0, .v 5, .s 6, .reg (.v 7) .none, 2, 4, 2, 0, 0⟩),
   (0x7300_0601_82FF_3020, .sts ⟨0, 0, .v 6, .v 1, .reg (.s 2) .none, 3, 0, 0, 2, 0⟩),
   (0x7800_1484_1585_4000, .ldds ⟨0, 0, .v 20, .s 4, .reg (.v 21) (.s 5), 4, 0, 0, 0, 0⟩),
   (0x7A00_FF84_85FF_0001, .cctl ⟨0, 0, .none, .s 4, .reg (.s 5) .none, 0, 0, 0, 0, 1⟩),
   (0x8000_0684_0289_2880, .atom ⟨0, 0, .v 6, .s 4, .reg (.v 2) (.s 9), 2, 4, 1, 0, 0⟩),
   (0x8300_8A84_0000_3040, .atoms ⟨0, 0, .s 10, .s 4, .imm 0x0, 3, 0, 0, 0, 0⟩),
   (0x8A00_8682_0002_4050, .bartst ⟨0, 0, .s 6, .s 2, .imm 0x2, 4, 0, 0, 1, 0⟩),
   (0x8B00_FFFF_FF89_0880, .fence ⟨0, 0, .none, .none, .reg .none (.s 9), 0, 4, 1, 0, 0⟩),
   (0xA020_0482_0387_2000, .vnld ⟨2, 0, .v 4, .s 2, .reg (.v 3) (.s 7), 2, 0, 0, 0, 0⟩),
   (0xA500_8581_FFFF_0001, .vnstat ⟨0, 0, .s 5, .s 1, .none, .none, 0, 0, 0, 1⟩),
   (0xB210_1E14_D886_0001, .hprobe ⟨1, 0, .v 30, .v 20, .hf 0, .s 6, 0, 0, 0, 1⟩),
   (0xB500_8C8A_DA8B_0000, .hrehash ⟨0, 0, .s 12, .s 10, .hf 2, .s 11, 0, 0, 0, 0⟩),
   (0xB700_85FF_D8FF_0004, .hstat ⟨0, 0, .s 5, .none, .hf 0, .none, 0, 0, 0, 4⟩),
   (0xC100_F0FF_FFFF_0001, .bndset ⟨0, 0, .bnd, .none, .none, .none, 0, 0, 0, 1⟩),
   (0xC300_E004_FFFF_0000, .icupd ⟨0, 0, .ic 0, .v 4, .none, .none, 0, 0, 0, 0⟩),
   (0xD000_C188_0000_0100, .push ⟨0, 0, .p 1, .s 8, 0, 1, 0⟩),
   (0xE001_FFFF_0000_0003, .trap ⟨0, 1, .none, .none, 0x3⟩),
   (0xE100_FF04_FFFF_0001, .rft ⟨0, 0, .none, .v 4, .none, .none, 0, 0, 0, 1⟩),
   (0xE200_83FF_0010_0000, .csrr ⟨0, 0, .s 3, .none, 0, 0x10, 0, 0⟩),
   (0xE300_FF82_0011_0000, .csrw ⟨0, 0, .none, .s 2, 0, 0x11, 0, 0⟩)]
  (fun p => decodesTo p.1 p.2) = true := by decide
/-- R37, R39: one word for each way in which a V-form word is refused. -/
theorem test_refused_v : List.all (α := W64 × Cause)
  [(0x2010_0102_03FF_0000, .illegalEncoding), (0x2000_0102_03FF_2000, .illegalEncoding), (0x2000_0102_03FF_0800, .illegalEncoding),
   (0x2000_0102_03FF_0200, .illegalEncoding), (0x2D00_0102_03FF_0000, .illegalEncoding), (0x2600_0102_03FF_0100, .illegalEncoding),
   (0x2600_0102_03FF_0080, .illegalEncoding), (0x2700_0102_03FF_0040, .illegalEncoding), (0x2000_0102_03FF_0004, .illegalSubop),
   (0x2000_8102_03FF_0000, .illegalOperand), (0x2000_01FF_03FF_0000, .illegalOperand), (0x2C00_0102_03FF_1000, .illegalOperand),
   (0x3000_0304_06FF_2000, .illegalOperand), (0x2000_01F6_03FF_0000, .illegalOperand), (0x0000_00FF_FFFF_0000, .illegalEncoding),
   (0x0E00_FFFF_FFFF_0000, .illegalOpcode), (0xFF00_FFFF_FFFF_0000, .illegalOpcode)]
  (fun p => refusedAs p.1 p.2) = true := by decide

/-- The same for the K, J, P and S forms. -/
theorem test_refused_kjps : List.all (α := W64 × Cause)
  [(0x0110_FFFF_0000_0001, .illegalEncoding), (0x0100_01FF_0000_0001, .illegalEncoding), (0x0200_FFFF_0000_0001, .illegalOperand),
   (0x0700_F102_0000_0001, .illegalEncoding), (0x1900_8182_0000_0001, .illegalOperand), (0x7B00_FFFF_1000_0000, .illegalEncoding),
   (0xC500_FFFF_0000_0000, .illegalEncoding), (0xC500_FFFF_0000_0010, .illegalEncoding), (0xC000_C180_0000_0100, .illegalEncoding),
   (0xD000_C180_0000_0600, .illegalEncoding), (0xD000_C180_0001_0000, .illegalEncoding), (0xD000_C1B9_0000_0000, .illegalOperand),
   (0xE200_81FF_0012_0001, .illegalSubop), (0xE200_81FF_0016_0000, .illegalOperand), (0xE300_FF81_0010_0000, .illegalOperand),
   (0xE200_81FF_1012_0000, .illegalEncoding)]
  (fun p => refusedAs p.1 p.2) = true := by decide

/-- The same for the memory forms. -/
theorem test_refused_m : List.all (α := W64 × Cause)
  [(0x7110_0482_0000_2040, .illegalEncoding), (0x7000_0482_0000_5040, .illegalEncoding), (0x7000_0482_0000_2050, .illegalEncoding),
   (0x7000_0482_0000_2140, .illegalEncoding), (0x7000_0482_0000_2240, .illegalEncoding), (0x7000_0482_0000_20C0, .illegalEncoding),
   (0x8600_8182_0000_4051, .illegalEncoding), (0x7000_0482_0586_2000, .illegalEncoding), (0x8000_0482_0000_204D, .illegalSubop),
   (0x8200_0482_0000_2049, .illegalSubop), (0x7000_8482_0000_2040, .illegalOperand), (0x7000_0503_0000_2040, .illegalOperand),
   (0x7000_0582_0000_3040, .illegalOperand), (0xA000_0482_0000_2040, .illegalEncoding), (0xA000_0482_05FF_2000, .illegalOperand)]
  (fun p => refusedAs p.1 p.2) = true := by decide

/-- The same for the T form, whose shape words stand after it; and an event for each unit that does not exist. -/
theorem test_ill_formed :
    List.all (α := Instr)
      [.mma ⟨1, 0, .none, .v 1, .none, .none, 0, 0, 0, 0, 0, 0, 0⟩, .accz ⟨0, 0, .none, .none, .none, .none, 1, 0, 0, 0, 0, 0, 0⟩,
       .accz ⟨0, 0, .none, .none, .none, .none, 0, 1, 0, 0, 0, 0, 0⟩, .accz ⟨0, 0, .none, .none, .none, .none, 0, 0, 0, 0xFF40, 0, 0, 0⟩,
       .mma ⟨0, 0, .none, .v 1, .th 1, .none, 0, 4, 0, 0, 0, 0, 0⟩, .accz ⟨0, 0, .v 1, .none, .none, .none, 0, 0, 0, 0, 0, 0, 0⟩,
       .accz ⟨0, 0, .none, .none, .none, .none, 0, 0, 1, 0, 0, 0, 0⟩, .tld ⟨0, 0, .none, .s 1, .none, .none, 0, 0, 0, 0, 0, 0, 0⟩,
       .issueCycle 144 0, .activeSetSwap 0 4, .meetingRelease 0 16 0, .resultLand 0 16 0, .sleepExpiry 0 0 32, .queueAging 4,
       .matrixRetire 144, .copyUpdate 0 16, .taskGroupStart 0 16, .beatReceive 0 [0] 0, .ackTimer 16, .key 0 2, .laneFailure 0 32,
       .peerLossTimeout 16, .sqtail 65 0 [], .cqhead 0 0x10000, .registerWrite 65 0 0, .identify ⟨65, 1, 0, 0, 0, false, 0, 0, 0, 0, 0, 0⟩,
       .thermalEmergency 4, .powerUp 0 4, .memoryLaneFailure 32]
      (fun i => !WellFormed i) = true
    ∧ WellFormed (.mma ⟨0, 0, .none, .v 1, .th 1, .none, 0, 3, 0, 0, 0, 0, 0⟩) = true
    ∧ WellFormed (.issueCycle 143 3) = true := by decide

/-! ### Small states -/

/-- A launch record with a scratchpad, a mirror window and an argument block, of a grid of five. -/
def rec1 : LRec :=
  { placedRecord with
    scratch := 4096
    mirror := 4096
    gangMax := 2
    groups := 2
    gridX := 5
    parSize := 256
    parBase := 0x1000
    tasks := true
    tqBase := 0x10000
    tqRecs := 2048
    slots := #v[⟨7, 0, 0, 0, false, 0⟩, ⟨1, 0, 0, 0, false, 0⟩, ⟨4, 0, 0, 0, false, 0⟩, ⟨5, 1, 0, 0, false, 256⟩,
      ⟨6, 2, 0, 0, false, 256⟩, ⟨2, 0, 0, 0, false, 0⟩, ⟨0, 0, 0, 0, false, 0⟩, ⟨8, 0, 0, 0, false, 0⟩] }

/-- The launch numbered 1 of a record, in context 7. -/
def launch1 (r : LRec) : Launch := ⟨1, 0, 0, 7, r, 1, 1, 0, false, none, none, [], none⟩

/-- Context 7, of function 0, with 64 version records, an image store and a budget of 1,000 µJ. -/
def context7 : Context := ⟨7, 0, 0, 0x10_0000, 64, 0x20_0000, 0x1_0000, 1000, none, 0, 0⟩

/-- A lane that stands at the first word of the clause at 0, with lane numbers 2 to 5 in v2 to v5. -/
def lane1 (v2 v3 v4 v5 : W32) : Lane :=
  { Lane.zero with
    pc := 8
    hdr := some 0
    v := tab 128 fun r => if r = 2 then v2 else if r = 3 then v3 else if r = 4 then v4 else if r = 5 then v5 else 0 }

/-- A group whose lane 0 holds values in v2 to v5; every other lane has exited, and s2 to s4 hold values. -/
def group1 (v2 v3 v4 v5 : W32) (s2 s3 s4 : W64) : Group :=
  { Group.zero with
    lanes := tab 32 fun l => if l = 0 then lane1 v2 v3 v4 v5 else { Lane.zero with st := .exited false }
    s := tab 64 fun r => if r = 2 then s2 else if r = 3 then s3 else if r = 4 then s4 else 0
    active := some 0 }

/-- The block numbered 2 of that launch, with a group and one that has exited. -/
def block2 (g : Group) : Block :=
  { Block.zero with
    id := 2
    launch := 1
    groups := [g, { Group.zero with lanes := Vector.replicate 32 { Lane.zero with st := .exited false } }] }

/-- A state with one block whose first group's lanes m stand at the head of the issue list, in a clause of class GEN. -/
def state1 (b : Block) (m : Mask) : State :=
  { State.reset with
    nextId := 10
    blocks := [b]
    fw := { State.reset.fw with contexts := [context7], launches := [launch1 rec1] }
    cur := [⟨2, 0, m, 8, 0, 0, 15, none⟩] }

/-- Lane 0 alone, with v2 to v5 and s2 to s4. -/
def one (v2 v3 v4 v5 : W32) (s2 s3 s4 : W64) : State := state1 (block2 (group1 v2 v3 v4 v5 s2 s3 s4)) 1

/-- A function of the first group after a step. -/
def after {α : Type} (i : Instr) (s : State) (f : Group → α) : Option α :=
  match exec i s with
  | .next t => (t.group? 2 0).map f
  | _ => none

/-- A vector register of lane 0, and a scalar register, after a step. -/
def vAfter (i : Instr) (s : State) (r : Nat) : Option W32 := after i s fun g => (g.lane 0).vreg r
def sAfter (i : Instr) (s : State) (r : Nat) : Option W64 := after i s fun g => g.sreg r

/-! ### One step: integer and cross-lane instructions (R88 to R93, R97 to R101) -/

set_option maxRecDepth 10000

theorem test_sadd_clamps : sAfter (.sadd ⟨0, 0, .s 1, .s 2, .s 3, .none, 2, 0, 1, 0⟩)
    (one 0 0 0 0 0x7FFF_FFFF_FFFF_FFFF 1 0) 1 = some 0x7FFF_FFFF_FFFF_FFFF := by decide
theorem test_ssub_extends_its_sign : sAfter (.ssub ⟨0, 0, .s 1, .s 2, .s 3, .none, 0, 0, 0, 0⟩)
    (one 0 0 0 0 0x1_0000_0001 2 0) 1 = some 0xFFFF_FFFF_FFFF_FFFF := by decide
theorem test_smul_high : sAfter (.smul ⟨0, 0, .s 1, .s 2, .s 3, .none, 3, 0, 0, 1⟩)
    (one 0 0 0 0 0x8000_0000_0000_0000 6 0) 1 = some 3 := by decide
theorem test_sdiv_by_zero : after (.sdiv ⟨0, 0, .s 1, .s 2, .s 3, .none, 0, 0, 0, 0⟩) (one 0 0 0 0 7 0 0)
    (fun g => g.insns.map fun i => (i.writes, i.sregs)) = some [([(.s 1, 0xFFFF_FFFF_FFFF_FFFF)], [1])] := by decide
theorem test_slog_andn : sAfter (.slog ⟨0, 0, .s 1, .s 2, .s 3, .none, 3, 0, 0, 3⟩) (one 0 0 0 0 0xFF 0x0F 0) 1 = some 0xF0 := by
  decide
theorem test_ssh_past_the_width : sAfter (.ssh ⟨0, 0, .s 1, .s 2, .s 3, .none, 2, 0, 0, 1⟩)
    (one 0 0 0 0 0x8000_0000_0000_0000 64 0) 1 = some 0xFFFF_FFFF_FFFF_FFFF := by decide
theorem test_smnx_signed : sAfter (.smnx ⟨0, 0, .s 1, .s 2, .s 3, .none, 2, 0, 0, 0⟩)
    (one 0 0 0 0 0xFFFF_FFFF_FFFF_FFFF 1 0) 1 = some 0xFFFF_FFFF_FFFF_FFFF := by decide
theorem test_scmp_to_predicate : after (.scmp ⟨0, 0, .p 1, .s 2, .s 3, .none, 3, 0, 0, 2⟩)
    (one 0 0 0 0 1 0xFFFF_FFFF_FFFF_FFFF 0) (fun g => g.preg 1) = some 0xFFFF_FFFF := by decide
theorem test_ssel_zero : sAfter (.ssel ⟨0, 0, .s 1, .s 2, .s 3, .s 4, 3, 0, 0, 0⟩) (one 0 0 0 0 5 6 0) 1 = some 6 := by decide
theorem test_smovk_high : sAfter (.smovk ⟨0, 0, .s 2, .s 2, 0x8000_0000⟩) (one 0 0 0 0 5 0 0) 2 = some 0x8000_0000_0000_0005 := by
  decide
theorem test_smovk_low : sAfter (.smovk ⟨0, 0, .s 2, .none, 0x8000_0000⟩) (one 0 0 0 0 5 0 0) 2 = some 0xFFFF_FFFF_8000_0000 := by
  decide
theorem test_srdl_signed : sAfter (.srdl ⟨0, 0, .s 1, .v 2, .none, .none, 0, 0, 0, 0⟩) (one 0x8000_0000 0 0 0 0 0 0) 1
    = some 0xFFFF_FFFF_8000_0000 := by decide
theorem test_sbit_clz_zero : sAfter (.sbit ⟨0, 0, .s 1, .s 2, .none, .none, 1, 0, 0, 1⟩) (one 0 0 0 0 0xFF_0000_0000 0 0) 1
    = some 32 := by decide
theorem test_sget_grid : sAfter (.sget ⟨0, 0, .s 1, .none, .none, .none, 3, 0, 0, 3⟩) (one 0 0 0 0 0 0 0) 1 = some 5 := by decide
theorem test_viadd_wraps : vAfter (.viadd ⟨0, 0, .v 1, .v 2, .v 3, .none, 1, 0, 0, 0⟩) (one 0xFFFF_FFFF 2 0 0 0 0 0) 1 = some 1 := by
  decide
theorem test_viadd_carry_keeps_other_bits : after (.viadd ⟨0, 0, .p 1, .v 2, .v 3, .none, 1, 0, 0, 2⟩)
    (state1 (block2 ({ group1 0xFFFF_FFFF 1 0 0 0 0 0 with p := Vector.replicate 8 6 } : Group)) 1) (fun g => g.preg 1) = some 7 := by
  decide
theorem test_visub_borrow_in : vAfter (.visub ⟨0, 0, .v 1, .v 2, .v 3, .p 0, 1, 0, 0, 1⟩) (one 5 5 0 0 0 0 0) 1 = some 0xFFFF_FFFF := by
  decide
theorem test_vimul_high_signed : vAfter (.vimul ⟨0, 0, .v 1, .v 2, .v 3, .none, 0, 0, 0, 1⟩) (one 0xFFFF_FFFF 2 0 0 0 0 0) 1
    = some 0xFFFF_FFFF := by decide
theorem test_vimad_byte : vAfter (.vimad ⟨0, 0, .v 1, .v 2, .v 3, .v 4, 6, 0, 0, 0⟩) (one 0x7F 2 1 0 0 0 0) 1 = some 0xFFFF_FFFF := by
  decide
theorem test_vidiv_truncates : after (.vidiv ⟨0, 0, .v 1, .v 2, .v 3, .none, 0, 0, 0, 0⟩) (one 0xFFFF_FFF9 2 0 0 0 0 0)
    (fun g => g.insns.map (·.writes)) = some [[(.v 1 0, 0xFFFF_FFFF_FFFF_FFFD)]] := by decide
theorem test_vlog_not : vAfter (.vlog ⟨0, 0, .v 1, .v 2, .none, .none, 1, 0, 0, 4⟩) (one 0xFF 0 0 0 0 0 0) 1 = some 0xFFFF_FF00 := by
  decide
theorem test_vsh_rotl_byte : vAfter (.vsh ⟨0, 0, .v 1, .v 2, .v 3, .none, 7, 0, 0, 2⟩) (one 0x81 9 0 0 0 0 0) 1 = some 3 := by decide
theorem test_vmnx_max : vAfter (.vmnx ⟨0, 0, .v 1, .v 2, .v 3, .none, 1, 0, 0, 1⟩) (one 0xFFFF_FFFF 1 0 0 0 0 0) 1 = some 0xFFFF_FFFF := by
  decide
theorem test_vbit_ctz : vAfter (.vbit ⟨0, 0, .v 1, .v 2, .none, .none, 5, 0, 0, 2⟩) (one 0x1_0000 0 0 0 0 0 0) 1 = some 16 := by decide
theorem test_vbfx_signed : vAfter (.vbfx ⟨0, 0, .v 1, .v 2, .v 3, .none, 0, 0, 0, 0⟩) (one 0xF0 0x0404 0 0 0 0 0) 1
    = some 0xFFFF_FFFF := by decide
theorem test_vbfi_field : vAfter (.vbfi ⟨0, 0, .v 1, .v 2, .v 3, .v 4, 1, 0, 0, 0⟩) (one 0xFFFF 0x5 0x0404 0 0 0 0) 1 = some 0xFF5F := by
  decide
theorem test_vicmp_predicate_bit : after (.vicmp ⟨0, 0, .p 1, .v 2, .v 3, .none, 0, 0, 0, 2⟩) (one 0xFFFF_FFFF 0 0 0 0 0 0)
    (fun g => g.preg 1) = some 1 := by decide
theorem test_vsel_by_predicate : vAfter (.vsel ⟨0, 0, .v 1, .v 2, .v 3, .p 1, 1, 0, 0, 0⟩) (one 4 5 0 0 0 0 0) 1 = some 5 := by decide
theorem test_vmov_byte_abs : vAfter (.vmov ⟨0, 0, .v 1, .v 2, .none, .none, 6, 0, 2, 0⟩) (one 0x1FB 0 0 0 0 0 0) 1 = some 5 := by decide
theorem test_vmovk : vAfter (.vmovk ⟨0, 0, .v 1, .none, 0xDEAD_BEEF⟩) (one 0 0 0 0 0 0 0) 1 = some 0xDEAD_BEEF := by decide
theorem test_guard_false_writes_nothing : vAfter (.vmovk ⟨0, 8, .v 2, .none, 0xDEAD_BEEF⟩) (one 4 0 0 0 0 0 0) 2 = some 4 := by decide
theorem test_vlea_scales : vAfter (.vlea ⟨0, 0, .v 1, .v 2, .v 3, .none, 1, 0, 0, 3⟩) (one 5 2 0 0 0 0 0) 1 = some 21 := by decide
theorem test_viadd64_carries : after (.viadd64 ⟨0, 0, .v 6, .v 2, .v 4, .none, 3, 0, 0, 0⟩) (one 0xFFFF_FFFF 0 1 0 0 0 0)
    (fun g => ((g.lane 0).vreg 6, (g.lane 0).vreg 7)) = some (0, 1) := by decide
theorem test_vimul64_signed : after (.vimul64 ⟨0, 0, .v 6, .v 2, .v 3, .none, 0, 0, 0, 0⟩) (one 0xFFFF_FFFF 1 0 0 0 0 0)
    (fun g => ((g.lane 0).vreg 6, (g.lane 0).vreg 7)) = some (0xFFFF_FFFF, 0xFFFF_FFFF) := by decide
theorem test_viext_narrows_with_sat : vAfter (.viext ⟨0, 0, .v 1, .v 2, .none, .none, 0, 0, 1, 1⟩) (one 0 1 0 0 0 0 0) 1
    = some 0x7FFF_FFFF := by decide
theorem test_vpack_high_bytes : vAfter (.vpack ⟨0, 0, .v 4, .v 2, .v 3, .none, 7, 0, 0, 2⟩) (one 0x112 0x34 0xAAAA_BBBB 0 0 0 0) 4
    = some 0x3412_BBBB := by decide
theorem test_vshfl_reads_exited_as_zero : vAfter (.vshfl ⟨0, 0, .v 1, .v 2, .s 2, .none, 1, 0, 0, 0⟩) (one 9 0 0 0 33 0 0) 1 = some 0 := by
  decide
theorem test_vvote_mask : sAfter (.vvote ⟨0, 0, .s 1, .v 2, .none, .none, 1, 0, 0, 1⟩) (one 9 0 0 0 33 0 0) 1 = some 1 := by decide
theorem test_vmatch : vAfter (.vmatch ⟨0, 0, .v 1, .v 2, .none, .none, 1, 0, 0, 0⟩) (one 9 0 0 0 33 0 0) 1 = some 1 := by decide
theorem test_vbcst_scalar : sAfter (.vbcst ⟨0, 0, .s 1, .v 2, .none, .none, 1, 0, 0, 0⟩) (one 0x8000_0000 0 0 0 0 0 0) 1
    = some 0x8000_0000 := by decide
theorem test_vred_sum : sAfter (.vred ⟨0, 0, .s 1, .v 2, .none, .none, 0, 0, 0, 0⟩) (one 0xFFFF_FFFF 0 0 0 0 0 0) 1
    = some 0xFFFF_FFFF_FFFF_FFFF := by decide
theorem test_vprfx_exclusive_identity : vAfter (.vprfx ⟨0, 0, .v 1, .v 2, .none, .none, 0, 0, 0, 8⟩) (one 7 0 0 0 0 0 0) 1 = some 0 := by
  decide
/-! ### Floating-point instructions (R104 to R126) -/

theorem test_vfadd_ties_to_even : after (.vfadd ⟨0, 0, .v 1, .v 2, .v 3, .none, 8, 0, 0, 0⟩) (one 0x3F80_0000 0x3380_0000 0 0 0 0 0)
    (fun g => ((g.lane 0).vreg 1, g.fstat)) = some (0x3F80_0000, 0x10) := by decide
theorem test_vfsub_exact_zero_rdn : vAfter (.vfsub ⟨0, 0, .v 1, .v 2, .v 3, .none, 8, 3, 0, 0⟩)
    (one 0x3F80_0000 0x3F80_0000 0 0 0 0 0) 1 = some 0x8000_0000 := by decide
theorem test_vfmul_overflow : after (.vfmul ⟨0, 0, .v 1, .v 2, .v 3, .none, 8, 0, 0, 0⟩) (one 0x7F7F_FFFF 0x4000_0000 0 0 0 0 0)
    (fun g => ((g.lane 0).vreg 1, g.fstat)) = some (0x7F80_0000, 0x14) := by decide
theorem test_vfma_single_rounding : after (.vfma ⟨0, 0, .v 1, .v 2, .v 3, .v 4, 8, 0, 0, 0⟩)
    (one 0x3F80_0001 0x3F80_0001 0xBF80_0002 0 0 0 0) (fun g => ((g.lane 0).vreg 1, g.fstat)) = some (0x2880_0000, 0) := by decide
theorem test_vfmnx_orders_zeros : vAfter (.vfmnx ⟨0, 0, .v 1, .v 2, .v 3, .none, 8, 0, 0, 0⟩) (one 0 0x8000_0000 0 0 0 0 0) 1
    = some 0x8000_0000 := by decide
theorem test_vfcmp_unordered : after (.vfcmp ⟨0, 0, .p 1, .v 2, .v 3, .none, 8, 0, 0, 2⟩) (one 0x7FC0_0000 0 0 0 0 0 0)
    (fun g => (g.preg 1, g.fstat)) = some (0, 1) := by decide
theorem test_vfclass : vAfter (.vfclass ⟨0, 0, .v 1, .v 2, .none, .none, 8, 0, 0, 0⟩) (one 0xFF80_0000 0 0 0 0 0 0) 1 = some 1 := by
  decide
theorem test_vfdiv_by_zero : after (.vfdiv ⟨0, 0, .v 1, .v 2, .v 3, .none, 8, 0, 0, 0⟩) (one 0x3F80_0000 0x8000_0000 0 0 0 0 0)
    (fun g => (g.insns.map (·.writes), g.fstat)) = some ([[(.v 1 0, 0xFF80_0000)]], 2) := by decide
theorem test_vfsqrt_negative : after (.vfsqrt ⟨0, 0, .v 1, .v 2, .none, .none, 8, 0, 0, 0⟩) (one 0xBF80_0000 0 0 0 0 0 0)
    (fun g => (g.insns.map (·.writes), g.fstat)) = some ([[(.v 1 0, 0x7FC0_0000)]], 1) := by decide
theorem test_vfapx_exact_power : after (.vfapx ⟨0, 0, .v 1, .v 2, .none, .none, 8, 0, 0, 0⟩) (one 0x4080_0000 0 0 0 0 0 0)
    (fun g => (g.insns.map (·.writes), g.fstat)) = some ([[(.v 1 0, 0x3E80_0000)]], 0) := by decide
theorem test_vfscl : vAfter (.vfscl ⟨0, 0, .v 1, .v 2, .v 3, .none, 8, 0, 0, 0⟩) (one 0x3F80_0000 0xFFFF_FFFF 0 0 0 0 0) 1
    = some 0x3F00_0000 := by decide
theorem test_vfrnd_inexact : after (.vfrnd ⟨0, 0, .v 1, .v 2, .none, .none, 8, 0, 0, 1⟩) (one 0x4020_0000 0 0 0 0 0 0)
    (fun g => ((g.lane 0).vreg 1, g.fstat)) = some (0x4000_0000, 0x10) := by decide
theorem test_vcvtfi_clamps : after (.vcvtfi ⟨0, 0, .v 1, .v 2, .none, .none, 8, 1, 0, 1⟩) (one 0xBF80_0000 0 0 0 0 0 0)
    (fun g => ((g.lane 0).vreg 1, g.fstat)) = some (0, 1) := by decide
theorem test_vcvtif_rounds : after (.vcvtif ⟨0, 0, .v 1, .v 2, .none, .none, 8, 0, 0, 1⟩) (one 0x0100_0001 0 0 0 0 0 0)
    (fun g => ((g.lane 0).vreg 1, g.fstat)) = some (0x4B80_0000, 0x10) := by decide

/-! ### Control instructions (R62 to R76) -/

/-- What lane 0 stands at after a step. -/
def stands (i : Instr) (s : State) : Option (W32 × Option W32 × LaneSt × W32) :=
  after i s fun g => ((g.lane 0).pc, (g.lane 0).hdr, (g.lane 0).st, (g.lane 0).mt)

theorem test_nop_passes : stands (.nop ⟨0, 0, .none, .none, .none, .none, 0, 0, 0, 0⟩) (one 0 0 0 0 0 0 0)
    = some (16, some 0, .run, 0xFFFF_FFFF) := by decide
theorem test_bra_back_to_its_header : stands (.bra ⟨0, 0, .none, .none, 0⟩) (one 0 0 0 0 0 0 0)
    = some (0, none, .run, 0xFFFF_FFFF) := by decide
theorem test_brc_zero_falls_through : stands (.brc ⟨0, 0, .none, .v 2, 0⟩) (one 0 0 0 0 0 0 0)
    = some (16, some 0, .run, 0xFFFF_FFFF) := by decide
theorem test_call_links_the_next_header : vAfter (.call ⟨0, 0, .v 1, .none, 0⟩) (one 0 0 0 0 0 0 0) 1 = some 136 := by decide
theorem test_setmt_none : stands (.setmt ⟨0, 0, .mt, .v 2, 0⟩) (one 0xFFFF_FFFF 0 0 0 0 0 0)
    = some (16, some 0, .run, 0xFFFF_FFFF) := by decide
theorem test_setmt_target : stands (.setmt ⟨0, 0, .mt, .none, 0⟩) (one 0 0 0 0 0 0 0) = some (16, some 0, .run, 0) := by decide
theorem test_sleep_zero_is_one : stands (.sleep ⟨0, 0, .none, .none, 0⟩) (one 0 0 0 0 0 0 0)
    = some (16, some 0, .sleeping 1, 0xFFFF_FFFF) := by decide
theorem test_exit : stands (.exit ⟨0, 0, .none, .none, .none, .none, 0, 0, 0, 0⟩) (one 0 0 0 0 0 0 0)
    = some (8, some 0, .exited false, 0xFFFF_FFFF) := by decide
theorem test_demote : after (.demote ⟨0, 0, .none, .none, .none, .none, 0, 0, 0, 0⟩) (one 0 0 0 0 0 0 0)
    (fun g => (g.lane 0).helper) = some true := by decide
theorem test_yield : after (.yield ⟨0, 0, .none, .none, .none, .none, 0, 0, 0, 0⟩) (one 0 0 0 0 0 0 0)
    (fun g => (g.lane 0).yielded) = some true := by decide

/-! ### Memory, atomics and barriers (R129 to R178) -/

/-- The address, size and bytes of each request, and the counters, after a step. -/
def posted (i : Instr) (s : State) : Option (List (Nat × Nat × List Byte) × Nat × Nat) :=
  match exec i s with
  | .next t => (t.group? 2 0).map fun g => (t.reqs.map fun r => (r.addr, r.size, (r.parts.map (·.data)).flatten), g.lc, g.sc)
  | _ => none

/-- The cause that a step takes without a handler: the code of the report of the launch that it kills. -/
def killsWith (i : Instr) (s : State) : Option (Option Nat) :=
  match exec i s with
  | .next t => (t.launch? 1).map (·.killed)
  | _ => none

theorem test_ld_scales_its_offset : posted (.ld ⟨0, 0, .v 1, .s 2, .imm 0xFFFF, 2, 0, 0, 0, 0⟩) (one 0 0 0 0 0x104 0 0)
    = some ([(0x100, 4, [])], 1, 0) := by decide
theorem test_ld_pends_its_run : after (.ld ⟨0, 0, .v 4, .s 2, .imm 0, 4, 0, 0, 0, 0⟩) (one 0 0 0 0 0x100 0 0)
    (fun g => g.insns.map (·.vregs)) = some [[4, 5, 6, 7]] := by decide
theorem test_ld_misaligned_kills_unhandled : killsWith (.ld ⟨0, 0, .v 1, .s 2, .imm 0, 2, 0, 0, 0, 0⟩) (one 0 0 0 0 0x102 0 0)
    = some (some 0x3F3) := by decide
theorem test_st_bytes : posted (.st ⟨0, 0, .v 2, .v 4, .reg .none .none, 1, 0, 0, 0, 0⟩) (one 0x1234 0 0x2000 1 0 0 0)
    = some ([(0x1_0000_2000, 2, [0x34, 0x12])], 0, 1) := by decide
theorem test_lds_last_word : posted (.lds ⟨0, 0, .v 1, .v 2, .imm 0, 2, 0, 0, 1, 0⟩) (one 4092 0 0 0 0 0 0)
    = some ([(4092, 4, [])], 1, 0) := by decide
theorem test_sts_past_the_end : killsWith (.sts ⟨0, 0, .v 1, .v 2, .imm 0, 2, 0, 0, 1, 0⟩) (one 4096 0 0 0 0 0 0)
    = some (some 0x3F3) := by decide
theorem test_ldu_pends_scalar : after (.ldu ⟨0, 0, .s 5, .s 2, .imm 1, 3, 0, 0, 0, 0⟩) (one 0 0 0 0 0x100 0 0)
    (fun g => g.insns.map (·.sregs)) = some [[5]] := by decide
theorem test_stu_bytes : posted (.stu ⟨0, 0, .s 3, .s 2, .imm 1, 3, 0, 0, 1, 0⟩) (one 0 0 0 0 0x100 0x0102_0304_0506_0708 0)
    = some ([(0x108, 8, [8, 7, 6, 5, 4, 3, 2, 1])], 0, 1) := by decide
theorem test_ldk_is_relative_to_the_arguments : posted (.ldk ⟨0, 0, .s 5, .none, .imm 2, 3, 0, 0, 0, 0⟩) (one 0 0 0 0 0 0 0)
    = some ([(0x1010, 8, [])], 1, 0) := by decide
theorem test_stk_bytes : posted (.stk ⟨0, 0, .s 2, .none, .imm 255, 0, 0, 0, 0, 0⟩) (one 0 0 0 0 0x1FF 0 0)
    = some ([(0x10FF, 1, [0xFF])], 0, 1) := by decide
theorem test_waitc_passes_at_its_threshold : stands (.waitc ⟨0, 0, .none, .none, 0x0100_0002⟩)
    (state1 (block2 { group1 0 0 0 0 0 0 0 with lc := 2 }) 1) = some (16, some 0, .run, 0xFFFF_FFFF) := by decide
theorem test_waitc_waits_above_it : stands (.waitc ⟨0, 0, .none, .none, 0x0100_0002⟩)
    (state1 (block2 { group1 0 0 0 0 0 0 0 with lc := 3 }) 1) = some (8, some 0, .run, 0xFFFF_FFFF) := by decide
theorem test_atom_posts : posted (.atom ⟨0, 0, .v 2, .s 2, .reg .none .none, 2, 0, 0, 0, 9⟩) (one 7 0 0 0 0x100 0 0)
    = some ([(0x100, 4, [7, 0, 0, 0])], 1, 0) := by decide
theorem test_red_raises_sc : posted (.red ⟨0, 0, .v 2, .s 2, .reg .none .none, 2, 0, 0, 0, 0⟩) (one 7 0 0 0 0x100 0 0)
    = some ([(0x100, 4, [7, 0, 0, 0])], 0, 1) := by decide
theorem test_cass_compares_with_its_first_register : after (.cass ⟨0, 0, .s 2, .s 4, .imm 0, 2, 0, 0, 1, 0⟩) (one 0 0 0 0 1 2 0x40)
    (fun g => g.insns.map (·.sregs)) = some [[2]] := by decide
theorem test_atomic_add_wraps : atomicOp 0 32 0xFFFF_FFFF 2 = (1, 0) := by decide
theorem test_atomic_mini_is_signed : atomicOp 5 32 0xFFFF_FFFF 1 = (0xFFFF_FFFF, 0) := by decide

/-- The sixteen bytes of the barrier object at 0, as count field, arrivals, phase, quota and bytes landed, after a step. -/
def barrier (i : Instr) (s : State) : Option BarObj :=
  match exec i s with
  | .next t => (t.block? 2).map fun b => barRead b.scratch 0
  | _ => none

/-- Lane 0 alone, with a barrier object at 0 and s2. -/
def withBarrier (o : BarObj) (s2 : W64) : State :=
  state1 { block2 (group1 0 0 0 0 s2 0 0) with scratch := barWrite [] 0 o } 1

theorem test_barinit : barrier (.barinit ⟨0, 0, .s 2, .none, .imm 0, 4, 0, 0, 1, 0⟩) (withBarrier ⟨0, 0, 0, 0, 0⟩ 0x7_0000_0002)
    = some ⟨7, 0x8002, 0, 0, 0⟩ := by decide
theorem test_bararr_completes_a_phase : barrier (.bararr ⟨0, 0, .s 2, .none, .imm 0, 4, 0, 0, 1, 0⟩) (withBarrier ⟨7, 0x8002, 1, 0, 0⟩ 2)
    = some ⟨8, 0x8002, 0, 0, 0⟩ := by decide
theorem test_barexp_sets_a_quota : barrier (.barexp ⟨0, 0, .s 2, .none, .imm 0, 4, 0, 0, 1, 0⟩) (withBarrier ⟨7, 0x8002, 0, 0, 0⟩ 512)
    = some ⟨7, 0x8002, 0, 512, 0⟩ := by decide
theorem test_bartst : sAfter (.bartst ⟨0, 0, .s 1, .none, .imm 0, 4, 0, 0, 1, 0⟩) (withBarrier ⟨7, 0x8002, 1, 0, 0⟩ 0) 1
    = some 0x8002_0001_0000_0007 := by decide
theorem test_barwait_of_a_past_phase : stands (.barwait ⟨0, 0, .s 2, .none, .imm 0, 4, 0, 0, 1, 0⟩) (withBarrier ⟨7, 0x8002, 1, 0, 0⟩ 6)
    = some (16, some 0, .run, 0xFFFF_FFFF) := by decide
theorem test_barwait_of_the_present_phase : stands (.barwait ⟨0, 0, .s 2, .none, .imm 0, 4, 0, 0, 1, 0⟩)
    (withBarrier ⟨7, 0x8002, 1, 0, 0⟩ 7) = some (8, some 0, .barwait 0 7 false, 0xFFFF_FFFF) := by decide

/-! ### Matrix, versions, tasks and the system (R183 to R309) -/

theorem test_gangset_clears : after (.gangset ⟨0, 0, .gang, .none, .none, .none, 0, 0, 0, 0⟩)
    (state1 (block2 { group1 0 0 0 0 0 0 0 with gang := 3 }) 1) (fun g => g.gang) = some 0 := by decide
theorem test_gangset_sets : after (.gangset ⟨0, 0, .gang, .s 2, .none, .none, 0, 0, 0, 0⟩) (one 0 0 0 0 3 0 0) (fun g => g.gang)
    = some 3 := by decide
theorem test_integer_dot_product : dotI ⟨7, 0, 0, 0, false, 0⟩ ⟨7, 0, 0, 0, false, 0⟩ 4 ⟨[0x0102_03FF], []⟩ ⟨[0x0101_0101], []⟩ 0
    = 5 := by decide

/-- A live region of launch 1 with P and F. -/
def region1 (pub floor : Nat) : Region := ⟨1, 7, 0, 0x1_0000, 0x1_0000, 4, 8, 8, pub, floor, Vector.replicate 48 (pub, floor), [], [], false, false⟩

theorem test_vnpub_asks_its_home : (match exec (.vnpub ⟨0, 0, .none, .s 2, .s 3, .none, 0, 0, 0, 0⟩)
      { one 0 0 0 0 0 3 0 with regions := [region1 2 0] } with
    | .next t => (t.home.map fun h => (h.ver, h.op, h.done), t.regions.map (·.pub))
    | _ => ([], [])) = ([(3, .publish, false)], [2]) := by decide
theorem test_vnfloor_behind_does_nothing : (match exec (.vnfloor ⟨0, 0, .none, .s 2, .s 3, .none, 0, 0, 0, 0⟩)
      { one 0 0 0 0 0 1 0 with regions := [region1 3 2] } with
    | .next t => t.regions.map (·.floor)
    | _ => []) = [2] := by decide
theorem test_vnstat_free : sAfter (.vnstat ⟨0, 0, .s 1, .s 2, .none, .none, 0, 0, 0, 3⟩)
    { one 0 0 0 0 0 1 0 with regions := [region1 3 2] } 1 = some 8 := by decide
/-- The worked example of R252: projections 0.5, -0.25 and 2.0. -/
theorem test_srp_code_and_order : srpWords [0x3F00_0000, 0xBE80_0000, 0x4000_0000] = (5, 0x3FFF_8801) := by decide
theorem test_shield : after (.shield ⟨0, 0, .none, .none, 4⟩) (one 0 0 0 0 0 0 0) (fun g => (g.lane 0).shield) = some 4 := by decide
theorem test_bndset_clears_ben : after (.bndset ⟨0, 0, .bnd, .none, .none, .none, 0, 0, 0, 1⟩) (one 0 0 0 0 0 0 0)
    (fun g => (g.lane 0).ben) = some false := by decide
theorem test_tqstat_room : sAfter (.tqstat ⟨0, 0, .s 1, .none, .none, .none, 0, 0, 0, 8⟩) (one 0 0 0 0 0 0 0) 1 = some 256 := by
  decide
theorem test_qstat_empty_queue : sAfter (.qstat ⟨0, 0, .s 1, .none, .none, .none, 0, 0, 0, 0⟩) (one 0 0 0 0 0 0 0) 1
    = some 0x20_0020 := by decide

/-- Lane 0 alone, with its handler at 0. -/
def handled : State := state1 (block2 { group1 0 0 0 0 0x55 0 0 with tvec := 0 }) 1

theorem test_trap_enters : after (.trap ⟨0, 0, .none, .none, 0x43⟩) handled (fun g => (g.cause, g.tepc, g.tmask, g.tstat))
    = some (0x43_0050_02C3, 16, 1, 3) := by decide
theorem test_trap_sends_its_lane_to_tvec : stands (.trap ⟨0, 0, .none, .none, 0⟩) handled = some (0, none, .run, 0xFFFF_FFFF) := by decide
theorem test_bkpt_without_handler_kills : killsWith (.bkpt ⟨0, 0, .none, .none, 0⟩) (one 0 0 0 0 0 0 0) = some (some 0x3F3) := by decide
theorem test_csrr_tvec : sAfter (.csrr ⟨0, 0, .s 1, .none, 0, 0x011, 0, 0⟩) (one 0 0 0 0 0 0 0) 1 = some 0xFFFF_FFFF := by decide
theorem test_csrw_clears_flags_written_as_one : after (.csrw ⟨0, 0, .none, .s 2, 0, 0x020, 0, 0⟩)
    (state1 (block2 { group1 0 0 0 0 0x11 0 0 with fstat := 0x13 }) 1) (fun g => g.fstat) = some 2 := by decide
theorem test_rft_outside_a_handler : killsWith (.rft ⟨0, 0, .none, .none, .none, .none, 0, 0, 0, 0⟩) (one 0 0 0 0 0 0 0)
    = some (some 0x3F3) := by decide
theorem test_meeting_release : after (.meetingRelease 2 0 8)
    { state1 (block2 { group1 0 0 0 0 0 0 0 with
        lanes := tab 32 fun l => if l = 0 then { Lane.zero with pc := 8, mt := 8, st := .held } else { Lane.zero with st := .exited false } }) 1
      with cur := [] } (fun g => ((g.lane 0).st, (g.lane 0).mt)) = some (.run, 0xFFFF_FFFF) := by decide

/-! ### Witnesses: states and operands that meet the hypotheses of each statement -/

/-- What is at the head of the issue list of state1 (block2 g) m. -/
def ctx1 (g : Group) (m : Mask) : Ctx := ⟨⟨2, 0, m, 8, 0, 0, 15, none⟩, block2 g, g, g, launch1 rec1⟩

theorem ctx_state1 (g : Group) (m : Mask) : (state1 (block2 g) m).ctx? = some (ctx1 g m) := rfl

/-- The group of the state one. -/
def g1 : Group := group1 0x100 2 3 4 0x100 0 0

/-- Lane 0 alone at the head of the issue list. -/
def s1 : State := state1 (block2 g1) 1
def c1 : Ctx := ctx1 g1 1

theorem ctx_s1 : s1.ctx? = some c1 := rfl

/-- A property of the lanes of a mask is one of thirty-two numbers. -/
theorem for_lanes {m : Mask} {P : Nat → Prop} (h : ∀ l : Fin 32, inMask m l.val = true → P l.val) : ∀ l, inMask m l = true → P l :=
  fun l hl => h ⟨l, by
    rcases Nat.lt_or_ge l 32 with h | h
    · exact h
    · simp [inMask, BitVec.getLsbD_of_ge m l h] at hl⟩ hl

theorem unshielded_c1 : c1.unshielded := for_lanes (by decide)

/-- The ends of each format's range, one past them, and a result congruent to an end. -/
theorem wit_IntegerResultsAreReducedToTheFormat : ∀ fmt : Fin 8, fmtMin fmt ≤ fmtMin fmt ∧ fmtMin fmt ≤ fmtMax fmt
    ∧ (fmtMax fmt + 1) % 2 ^ fmtW fmt = fmtMin fmt % 2 ^ fmtW fmt ∧ fmtMin fmt - 1 < fmtMin fmt ∧ fmtMax fmt < fmtMax fmt + 1 := by
  decide

/-- A divisor other than 0 with a dividend of either sign, the ends of a range, and a signed format. -/
theorem wit_DivisionFollowsTheSpec :
    (∃ x y : Int, y ≠ 0 ∧ 0 ≤ x ∧ y < 0) ∧ (∃ x y : Int, y ≠ 0 ∧ x ≤ 0 ∧ 0 < y)
    ∧ (fmtMin 6 ≤ (-128 : Int) ∧ (127 : Int) ≤ fmtMax 6) ∧ fmtSigned 6 = true :=
  ⟨⟨7, -2, by decide⟩, ⟨-7, 2, by decide⟩, by decide, by decide⟩

/-- The least and greatest values, shifts by the width and by less, and words with leading and trailing zeros. -/
theorem wit_ShiftsProductsAndBitCounts :
    fmtMin 0 ≤ (-2 ^ 31 : Int) ∧ fmtMax 7 = 255 ∧ 7 < fmtW 7 ∧ 8 ≥ fmtW 7 ∧ 0 < clz 8 1 ∧ clz 8 1 < 8 ∧ 0 < ctz 8 0x80
    ∧ ctz 8 0x80 < 8 := by decide

/-- A lane set that issues, with a guard that is true in a lane (p0) and one that is not (p1). -/
theorem wit_ScalarInstructionsWriteOnce : s1.ctx? = some c1 ∧ c1.on 0 ≠ 0 ∧ c1.on 8 = 0 :=
  ⟨ctx_s1, by decide, by decide⟩

theorem wit_SgetReadsTheTable : s1.ctx? = some c1 := ctx_s1

theorem wit_VectorIntegerInstructionsWriteTheirLanes : s1.ctx? = some c1 ∧ c1.on 0 = 1 ∧ (0 : BitVec 6) = 0 :=
  ⟨ctx_s1, by decide, rfl⟩

/-- A carry-in predicate is 0 or 1 in every lane. -/
theorem wit_CarryFormsChainWords : s1.ctx? = some c1 ∧ ∀ l : Fin 32, (c1.val (.p 1) l).toNat ≤ 1 := ⟨ctx_s1, by decide⟩

theorem wit_FieldPairAndPackInstructions : s1.ctx? = some c1 ∧ fmtW 7 = 8 := ⟨ctx_s1, rfl⟩

theorem wit_DivisionsLandLater :
    s1.ctx? = some c1 ∧ c1.on 0 ≠ 0 ∧ c1.on 8 = 0 ∧ ∃ (u : Uses) (j : Insn), j.sregs = [1] ∧ 1 ∈ u.s :=
  ⟨ctx_s1, by decide, by decide, { s := [1] }, ⟨0, .none, 0, 1, [], [1], [], true⟩, rfl, by decide⟩

/-- The clause's own header is a target that passes, since the word there cannot be read; so is the next clause's. -/
theorem wit_TransfersGoToTheirTargets :
    s1.ctx? = some c1 ∧ c1.okTarget s1 .none (c1.iss.hdr + 8#32 * 0) = true ∧ c1.okTarget s1 .none 128 = true ∧ c1.on 8 = 0 :=
  ⟨ctx_s1, by decide, by decide, by decide⟩

theorem wit_targets_of_a_register :
    ∀ l, inMask ((ctx1 (group1 0 0 0 0 0 0 0) 1).on 0) l = true →
      (ctx1 (group1 0 0 0 0 0 0 0) 1).okTarget (state1 (block2 (group1 0 0 0 0 0 0 0)) 1) (.v 2)
        ((ctx1 (group1 0 0 0 0 0 0 0) 1).val (.v 2) l) = true := for_lanes (by decide)

/-- A target at code_size, and one in a register that is no multiple of 8 or past it. -/
theorem wit_BadTargetsTrap :
    s1.ctx? = some c1 ∧ c1.on 0 ≠ 0 ∧ c1.okTarget s1 .none (c1.iss.hdr + 8#32 * 17) = false ∧ c1.okTarget s1 (.v 3) 4 = false
    ∧ (maskOf fun l => inMask (c1.on 0) l && !c1.okTarget s1 (.v 2) (c1.val (.v 2) l)) ≠ 0 :=
  ⟨ctx_s1, by decide, by decide, by decide, by decide⟩

/-- Code that can be read: the words of a placed program. -/
theorem wit_TargetChecks :
    let s := State.reset.place 0 (leBytes 8 0x1000_8280_81FF_3000)
    (match s.ctx? with
      | some c => (s.peekCode c.b.core c.l 0).isSome && c.okTarget s .none 0 && !c.okTarget s .none 8
      | none => false) = true := by decide

/-- A meeting value that is none, and a target that passes. -/
theorem wit_MeetingExitYieldAndDemote :
    s1.ctx? = some c1 ∧ ∀ l, inMask (c1.on 0) l = true →
      c1.iss.hdr + 8#32 * 0 = 0xFFFF_FFFF#32 ∨ c1.okTarget s1 .none (c1.iss.hdr + 8#32 * 0) = true :=
  ⟨ctx_s1, for_lanes (by decide)⟩

theorem wit_SleepAndBrpkWait :
    s1.ctx? = some c1 ∧ c1.unshielded ∧ c1.on 8 = 0 ∧ c1.okTarget s1 .none (c1.iss.hdr + 8#32 * 0) = true ∧ c1.g.task = false
    ∧ ∀ l, inMask c1.iss.lanes l = true → (c1.r.lane l).ben = false ∧ (c1.r.lane l).inTrap = false :=
  ⟨ctx_s1, unshielded_c1, by decide, by decide, by decide, for_lanes (by decide)⟩

/-- A lane that passes the last word of its clause at its meeting value, and one inside its clause. -/
theorem wit_LanesArriveAtTheirMeetingValue :
    (let y := { Lane.zero with mt := 136#32 }
      let i : Issue := ⟨2, 0, 1, 128, 0, 0, 15, none⟩
      y.st = .run ∧ i.pc + BitVec.ofNat 32 (8 * 1) = i.hdr + BitVec.ofNat 32 (8 * (i.cnt + 2)) ∧ i.pc + BitVec.ofNat 32 (8 * 1) = y.mt)
    ∧ (let y := Lane.zero
      let i : Issue := ⟨2, 0, 1, 8, 0, 0, 15, none⟩
      i.pc + BitVec.ofNat 32 (8 * 1) ≠ i.hdr + BitVec.ofNat 32 (8 * (i.cnt + 2)) ∧ i.pc + BitVec.ofNat 32 (8 * 1) ≠ y.mt) := by
  decide

theorem wit_ShufflesVotesAndBroadcasts :
    s1.ctx? = some c1 ∧ c1.on 0 ≠ 0 ∧ (Opnd.v 1).isS = false ∧ (Opnd.p 1).isS = false ∧ (∃ r, Opnd.s 1 = .s r) :=
  ⟨ctx_s1, by decide, rfl, rfl, 1, rfl⟩

theorem wit_VoteResults : ∀ l, inMask (3 : Mask) l = true → (fun k => decide (k < 2)) l = true := for_lanes (by decide)

theorem wit_ReductionsAndPrefixes : s1.ctx? = some c1 ∧ c1.on 0 ≠ 0 ∧ (Opnd.v 1).isS = false ∧ fmtSigned 0 = true :=
  ⟨ctx_s1, by decide, rfl, rfl⟩

/-- An associative operation and thirty-two leaves, one of them empty. -/
theorem wit_TreeReductionIsTheFoldOfItsLeaves :
    (∀ x y z : W32, x &&& y &&& z = x &&& (y &&& z)) ∧ (none :: List.replicate 31 (some (1 : W32))).length = 32 :=
  ⟨BitVec.and_assoc, by decide⟩

/-- Slot 1 gives F64 pairs and slot 2 BF16. -/
theorem wit_FloatInstructionsWriteAndFlag :
    s1.ctx? = some c1 ∧ c1.on 0 ≠ 0 ∧ c1.on 8 = 0 ∧ (c1.slot 1).elem = 1 ∧ (Opnd.v 2).vnum % 2 = 0 ∧ (c1.slot 2).elem = 4 := by
  refine ⟨ctx_s1, ?_⟩; decide

theorem wit_SlowFloatResultsLandLater : s1.ctx? = some c1 ∧ c1.on 0 ≠ 0 ∧ c1.on 8 = 0 := ⟨ctx_s1, by decide, by decide⟩

/-- A KBF8 slot of T16 tiles and a KBF4 slot of T32 tiles, with the last runs that the registers hold. -/
theorem wit_TileQuantisation :
    s1.ctx? = some c1 ∧ tileLayout (c1.slot 3) = some ⟨false, kbf8, 2⟩ ∧ 125 + 2 ≤ 127
    ∧ 120 + (TileLayout.mk false kbf8 2).per ≤ 128 ∧ tileLayout (c1.slot 4) = some ⟨true, kbf4, 4⟩
    ∧ 96 + (TileLayout.mk true kbf4 4).per ≤ 128 ∧ c1.on 0 ≠ 0 ∧ c1.on 8 = 0 :=
  ⟨ctx_s1, by rfl, by decide, by decide, by rfl, by decide, by decide, by decide⟩

/-- A tie, and a value that is exact. -/
theorem wit_RoundingIsToTheNeighbourTheModeNames :
    2 * (roundShift 0 false 3 1).1 * 2 ^ 1 = 2 * 3 + 2 ^ 1 ∧ 4 % 2 ^ 1 = 0 := by decide

/-- A signalling NaN among two operands. -/
theorem wit_NanOperandsGiveTheCanonicalNan : ((FVal.nan true).isNan || (FVal.fin false 0 0).isNan) = true ∧ f32 = f32 := by decide

theorem idle_c1 : c1.idle s1 := ⟨by decide, by decide, by decide⟩

/-- What a per-lane access of a word asks of its addresses, in each space. -/
def GlobalOk (c : Ctx) (a : Opnd) (o : MOff) (size : Nat) : Prop :=
  ∀ l, inMask (c.on 0) l = true → c.eaGlobal a o size l % size = 0 ∧ c.eaGlobal a o size l < 2 ^ 52
def LocalOk (c : Ctx) (a : Opnd) (o : MOff) (size extent : Nat) : Prop :=
  ∀ l, inMask (c.on 0) l = true → c.eaLocal a o size l % size = 0 ∧ 0 ≤ c.eaLocal a o size l ∧ c.eaLocal a o size l + size ≤ extent

/-- Lane 0 with aligned addresses in range: 0x100 in v2 and s2; the mirror window, the scratchpad and the A share present. -/
theorem wit_LaneLoadsPostOneRequestALane :
    s1.ctx? = some c1 ∧ c1.on 0 ≠ 0 ∧ c1.on 8 = 0 ∧ c1.g.lc < 255 ∧ GlobalOk c1 (.s 2) (.imm 0) 4
    ∧ LocalOk c1 (.v 2) (.imm 0xF) 4 c1.l.lr.mirror ∧ LocalOk c1 (.v 2) (.imm 0xF) 4 c1.l.lr.scratch
    ∧ LocalOk c1 (.v 2) (.imm 0xF) 4 (if 2 ≤ c1.l.lr.gangMax then 0x1_0000 else 0) :=
  ⟨ctx_s1, by decide, by decide, by decide, for_lanes (by decide), for_lanes (by decide), for_lanes (by decide), for_lanes (by decide)⟩

theorem wit_LaneStoresPostOneRequestALane :
    s1.ctx? = some c1 ∧ c1.real 0 ≠ 0 ∧ c1.real 8 = 0 ∧ c1.g.sc < 255 ∧ GlobalOk c1 (.s 2) (.imm 0) 4
    ∧ LocalOk c1 (.v 2) (.imm 0xF) 4 c1.l.lr.mirror ∧ LocalOk c1 (.v 2) (.imm 0xF) 4 c1.l.lr.scratch
    ∧ LocalOk c1 (.v 2) (.imm 0xF) 4 (if 2 ≤ c1.l.lr.gangMax then 0x1_0000 else 0) :=
  ⟨ctx_s1, by decide, by decide, by decide, for_lanes (by decide), for_lanes (by decide), for_lanes (by decide), for_lanes (by decide)⟩

/-- The last dword of the arguments, a dword of memory and one of the scratchpad. -/
theorem wit_UniformAccessesPostOneRequest :
    s1.ctx? = some c1 ∧ (Opnd.s 2).isV = false ∧ (∀ b q, MOff.imm 0 = .reg b q → b.isV = false) ∧ c1.on 0 ≠ 0 ∧ c1.on 8 = 0
    ∧ c1.eaGlobal (.s 2) (.imm 0) 8 0 % 8 = 0 ∧ c1.eaGlobal (.s 2) (.imm 0) 8 0 < 2 ^ 52
    ∧ c1.eaLocal (.s 2) (.imm 0) 8 0 % 8 = 0 ∧ 0 ≤ c1.eaLocal (.s 2) (.imm 0) 8 0 ∧ c1.eaLocal (.s 2) (.imm 0) 8 0 + 8 ≤ c1.l.lr.scratch
    ∧ 0 ≤ c1.off (.imm 31) 8 0 ∧ c1.off (.imm 31) 8 0 + 8 ≤ c1.l.lr.parSize
    ∧ (((c1.l.lr.parBase : Int) + c1.off (.imm 31) 8 0) % 2 ^ 64).toNat % 8 = 0
    ∧ (((c1.l.lr.parBase : Int) + c1.off (.imm 31) 8 0) % 2 ^ 64).toNat < 2 ^ 52 ∧ c1.g.lc < 255 ∧ c1.g.sc < 255 ∧ c1.real 0 ≠ 0 := by
  refine ⟨ctx_s1, rfl, (by intro b q h; simp at h), ?_⟩; decide

/-- An LDDS of 16 bytes to the scratchpad at s2, with its barrier object there too. -/
theorem wit_LddsPrefAndCctlPostRequests :
    s1.ctx? = some c1 ∧ GlobalOk c1 (.s 2) (.reg .none (.s 2)) 16
    ∧ (∀ l, inMask (c1.on 0) l = true → (((c1.sval (.s 2)).toNat % 2 ^ 32 + 16 * l : Nat) : Int) % 16 = 0
      ∧ (((c1.sval (.s 2)).toNat % 2 ^ 32 + 16 * l : Nat) : Int) + 16 ≤ c1.l.lr.scratch)
    ∧ (c1.sval (.s 2)).toNat % 2 ^ 32 % 16 = 0 ∧ (c1.sval (.s 2)).toNat % 2 ^ 32 + 16 ≤ c1.l.lr.scratch ∧ c1.on 0 ≠ 0 ∧ c1.on 8 = 0
    ∧ c1.real 0 ≠ 0 ∧ c1.real 8 = 0 ∧ c1.g.sc < 255 :=
  ⟨ctx_s1, for_lanes (by decide), for_lanes (by decide), by decide, by decide, by decide, by decide, by decide, by decide, by decide⟩

/-- v3 holds 2, which is misaligned for a word. -/
theorem wit_MisalignedGlobalAccessesTrap :
    s1.ctx? = some c1
    ∧ (maskOf fun l => inMask (c1.on 0) l && c1.eaGlobal (.s 2) (.reg (.v 3) .none) 4 l % 4 != 0) ≠ 0 := by
  refine ⟨ctx_s1, ?_⟩; decide

theorem wit_AtomicsPostOneRequestAnAddress :
    s1.ctx? = some c1 ∧ c1.real 0 ≠ 0 ∧ c1.g.lc < 255 ∧ c1.g.sc < 255 ∧ GlobalOk c1 (.s 2) (.imm 0) 4
    ∧ LocalOk c1 (.s 2) (.imm 0) 4 c1.l.lr.scratch ∧ (c1.sval (.s 5)).toNat % 2 ^ 32 < 144 :=
  ⟨ctx_s1, by decide, by decide, by decide, for_lanes (by decide), for_lanes (by decide), by decide⟩

theorem wit_UniformAtomicsPostOneRequest :
    s1.ctx? = some c1 ∧ c1.real 0 ≠ 0 ∧ c1.g.lc < 255 ∧ c1.g.sc < 255 ∧ (Opnd.s 2).isV = false
    ∧ (∀ b q, MOff.imm 0 = .reg b q → b.isV = false) ∧ c1.eaGlobal (.s 2) (.imm 0) 8 0 % 8 = 0
    ∧ c1.eaGlobal (.s 2) (.imm 0) 8 0 < 2 ^ 52 ∧ c1.eaLocal (.s 2) (.imm 0) 8 0 % 8 = 0 ∧ 0 ≤ c1.eaLocal (.s 2) (.imm 0) 8 0
    ∧ c1.eaLocal (.s 2) (.imm 0) 8 0 + 8 ≤ c1.l.lr.scratch ∧ (c1.sval (.s 5)).toNat % 2 ^ 32 < 144 := by
  refine ⟨ctx_s1, by decide, by decide, by decide, rfl, (by intro b q h; simp at h), ?_⟩; decide

theorem wit_AtomicOperations : (32 = 32 ∨ 32 = 64) ∧ (64 = 32 ∨ 64 = 64) := by decide

/-- Nothing is outstanding in s1, so every fence passes; with LC at 3 a threshold of 2 is not met. -/
theorem wit_FencesAndWaitcPassWhenTheirConditionHolds :
    s1.ctx? = some c1 ∧ c1.idle s1 ∧ s1.quiet 2 0 (c1.on 0) 1 = true ∧ s1.loadsQuiet 2 0 (c1.on 0) = true
    ∧ s1.quiet 2 0 (c1.on 0) 5 = true ∧ c1.unshielded ∧ c1.on 0 ≠ 0 ∧ c1.on 8 = 0 ∧ s1.fenceMark c1 = none ∧ s1.acceptedAt 0 = []
    ∧ s1.reqs = [] ∧ (c1.sval (.s 5)).toNat % 2 ^ 32 < 144
    ∧ (∃ g : Group, g.lc = 3 ∧ ¬ (Nat.testBit 0x0100_0002 24 = true → g.lc ≤ 0x0100_0002 % 2 ^ 8)) := by
  refine ⟨ctx_s1, idle_c1, by decide, by decide, by decide, unshielded_c1, by decide, by decide, by decide, by decide, rfl, by decide,
    { Group.zero with lc := 3 }, rfl, by decide⟩

/-- A store of lane 0 that has not been performed: FENCEG and FENCE wait. -/
def req1 : Req :=
  { id := 5, insn := 4, core := 0, blk := 2, grp := 0, threads := 1, takers := 1, ordered := 1, helper := false, kind := .store, space := .global,
    addr := 0x100, size := 4, order := 0, scope := 0, owner := none, parts := [⟨0, [1, 2, 3, 4], [], []⟩], dst := none, sdst := none,
    bdst := 0, bar := 0, unit := false, kept := false, acks := [], phase := .issued }

/-- What a remote-scope fence has left at an owner core. -/
def mark1 : Req := { req1 with id := 6, kind := .fence, size := 0, owner := some 1, parts := [], acks := [5] }

/-- Only a load not yet performed keeps a remote-scope fence from leaving its mark; then it waits for what that names. -/
theorem wit_fence_waits :
    { s1 with reqs := [req1] }.ctx? = some c1 ∧ { s1 with reqs := [req1] }.quiet 2 0 (c1.on 0) 1 = false
    ∧ { s1 with reqs := [req1] }.quiet 2 0 (c1.on 0) 4 = false
    ∧ { s1 with reqs := [{ req1 with kind := .load }] }.loadsQuiet 2 0 (c1.on 0) = false
    ∧ { s1 with reqs := [{ req1 with kind := .load }] }.fenceMark c1 = none
    ∧ { s1 with reqs := [{ req1 with core := 1, blk := 3, phase := .accepted 9 }] }.acceptedAt 1 ≠ []
    ∧ { s1 with reqs := [mark1] }.fenceMark c1 = some mark1 ∧ { s1 with reqs := [mark1] }.allPerformed mark1.acks = true
    ∧ { s1 with reqs := [req1, mark1] }.fenceMark c1 = some mark1 ∧ { s1 with reqs := [req1, mark1] }.allPerformed mark1.acks = false := by
  refine ⟨ctx_s1, ?_⟩; decide

/-- A barrier object at the last place of the scratchpad, not yet set up, and one with one arrival to come. -/
theorem wit_BarrierUpdates :
    s1.ctx? = some c1 ∧ c1.eaLocal .none (.imm 255) 16 0 % 16 = 0 ∧ 0 ≤ c1.eaLocal .none (.imm 255) 16 0
    ∧ c1.eaLocal .none (.imm 255) 16 0 + 16 ≤ c1.l.lr.scratch ∧ s1.barFree c1 4080 = true ∧ c1.real 0 ≠ 0
    ∧ 1 ≤ 512 % 2 ^ 16 ∧ 512 % 2 ^ 16 ≤ 512 ∧ ¬ ((barRead c1.b.scratch 4080).valid = true) ∧ s1.quiet 2 0 (c1.real 0) 2 = true
    ∧ (let o : BarObj := ⟨7, 0x8000 + 2, 1, 0, 0⟩;
      o.valid = true ∧ 2 % 2 ^ 16 = o.n ∧ o.arrived + 1 ≤ o.n) := by
  refine ⟨ctx_s1, ?_⟩; decide

/-- The greatest count, all arrived and just the quota landed; one short of the count, and one byte short of the quota. -/
theorem wit_BarrierPhaseCompletes :
    (let o : BarObj := ⟨7, 0x8000 + 512, 512, 16, 16⟩;
      o.count.testBit 15 = true ∧ 1 ≤ o.count % 1024 ∧ o.count % 1024 ≤ 512 ∧ o.arrived = o.count % 1024 ∧ o.quota ≤ o.landed)
    ∧ (let o : BarObj := ⟨7, 0x8000 + 512, 511, 16, 15⟩;
      o.arrived ≠ o.count % 1024 ∧ o.landed < o.quota) := by decide

/-- A valid object in phase 7, of which phase 6 has passed and phase 7 has not. -/
def barred (d : W64) : State := withBarrier ⟨7, 0x8000 + 2, 1, 0, 0⟩ d
def barCtx (d : W64) : Ctx :=
  let b := { block2 (group1 0 0 0 0 d 0 0) with scratch := barWrite [] 0 ⟨7, 0x8000 + 2, 1, 0, 0⟩ }
  ⟨⟨2, 0, 1, 8, 0, 0, 15, none⟩, b, b.group 0, b.group 0, launch1 rec1⟩

theorem wit_BarrierWaits :
    (barred 6).ctx? = some (barCtx 6) ∧ (barCtx 6).eaLocal .none (.imm 0) 16 0 = 0 ∧ 16 ≤ (barCtx 6).l.lr.scratch
    ∧ (barred 6).barFree (barCtx 6) 0 = true ∧ (barCtx 6).on 0 ≠ 0 ∧ (barRead (barCtx 6).b.scratch 0).valid = true
    ∧ (barCtx 6).unshielded ∧ (∀ l, inMask ((barCtx 6).on 0) l = true → ((barCtx 6).r.lane l).ben = false)
    ∧ (let k := fun (d : Nat) => ((barRead (barCtx 6).b.scratch 0).phase + 2 ^ 32 - d) % 2 ^ 32
      (1 ≤ k 6 ∧ k 6 ≤ 2 ^ 31) ∧ ¬ (1 ≤ k 7 ∧ k 7 ≤ 2 ^ 31)) :=
  ⟨rfl, by decide, by decide, by decide, by decide, by decide, for_lanes (by decide), for_lanes (by decide), by decide⟩

/-- A handle of a type over I8 elements in global memory, of 64 rows and columns. -/
def handle1 (type : Nat) : Handle :=
  #v[BitVec.ofNat 64 (type + 64 * 2 ^ 16 + 64 * 2 ^ 48), 64, 0, 0, 0x1_0000, 0, 0, 0]

/-- A family of one table of eight buckets, with its lines from an address. -/
def fam1 (pair : Bool) (base : Nat) : FamImg :=
  #v[if pair then 0x4184 else 0x184, BitVec.ofNat 64 base, BitVec.ofNat 64 (base + 0x1000), BitVec.ofNat 64 (base + 0x2000),
    BitVec.ofNat 64 (base + 0x3000), 0x1_0000_0000, 16, 0]

/-- The block with handles th0 of type 0 and th1 of type 1, and hf0 and hf1 as a pair and hf2 alone. -/
def block3 (g : Group) : Block :=
  { block2 g with
    th := tab 16 fun i => if i = 0 then handle1 0 else if i = 1 then handle1 1 else Vector.replicate 8 0
    hf := tab 8 fun i => if i = 0 then fam1 true 0x1_0000 else if i = 1 then fam1 false 0x1_4000
      else if i = 2 then fam1 false 0x1_8000 else Vector.replicate 8 0 }

/-- A region entry: base 0x20000, size 0x10000, depth 2, pool 1. -/
def entry1 : List Byte := leBytes 8 0x2_0000 ++ leBytes 8 0x1_0000 ++ leBytes 4 2 ++ leBytes 4 1 ++ leBytes 8 0

/-- The 64 bytes of a family image. -/
def image1 : List Byte := ((fam1 false 0x1_8000).toList.map fun w => leBytes 8 w.toNat).flatten

/-- That state with a page table that maps virtual address 0 to a leaf of memory, where an image lies at 0x100 and a region
entry at 0x1000, and a live region with P = 2 and F = 0. -/
def state3 (g : Group) : State :=
  { state1 (block3 g) 1 with
    mem := ((State.reset.place 0 []).mem.write 0 0x200_0100 image1).write 0 0x200_1000 entry1
    regions := [region1 2 0] }

def ctx3 (g : Group) : Ctx := ⟨⟨2, 0, 1, 8, 0, 0, 15, none⟩, block3 g, g, g, launch1 rec1⟩

theorem ctx_state3 (g : Group) : (state3 g).ctx? = some (ctx3 g) := rfl

theorem unshielded_g1 : (ctx3 g1).unshielded := for_lanes (by decide)

theorem idle_g1 : (ctx3 g1).idle (state3 g1) := ⟨by decide, by decide, by decide⟩

/-- The greatest gang of a launch of two groups; with no register the gang is cleared. -/
theorem wit_GangsetSetsTheGang :
    (state3 g1).ctx? = some (ctx3 g1) ∧ (ctx3 g1).on 0 ≠ 0
    ∧ (3 < 2 ^ 16 ∧ 2 ≤ ((List.range 16).filter fun i => Nat.testBit 3 i).length
      ∧ ((List.range 16).filter fun i => Nat.testBit 3 i).length ≤ (ctx3 g1).l.lr.gangMax ∧ Nat.testBit 3 (ctx3 g1).iss.grp = true
      ∧ 3 < 2 ^ (ctx3 g1).l.lr.groups) := by
  refine ⟨rfl, ?_⟩; decide

/-- An MMA of N = 16 and K = 32 with C from 0 and B from 0 of W. -/
def mma1 : TForm := ⟨0, 0, .none, .v 8, .none, .none, 0, 0, 0, 0x0040_0000_0020_0010, 0x0000_0000_0020_0000, 0, 0⟩

/-- The group of the state with a gang, and with another lane set of it at the latch. -/
def ganged1 : Group := { g1 with gang := 3 }
def behind1 : Group := { ganged1 with lanes := tab 32 fun l => if l = 1 then { Lane.zero with st := .latch } else g1.lane l }

theorem wit_MmaIssuesOrWaitsForItsGang :
    (state3 g1).ctx? = some (ctx3 g1) ∧ (ctx3 g1).unshielded ∧ (ctx3 g1).g.gang = 0 ∧ (ctx3 g1).on 0 ≠ 0 ∧ (ctx3 g1).on 8 = 0
    ∧ aPast 8 (rec1.slot 0) 32 = false ∧ (ctx3 g1).idle (state3 g1) ∧ (state3 g1).mtxq = [] ∧ (ctx3 g1).g.mc < 255
    ∧ (∀ q ∈ mmaCauses (ctx3 g1).b rec1 false (rec1.slot 0) (mmaSlotB (ctx3 g1).b rec1 mma1) (mmaHandle (ctx3 g1).b mma1)
        ((ctx3 g1).shapes mma1) 1 ++ (ctx3 g1).g.aCauses 8 0 32, q.1 = false)
    ∧ (∀ q ∈ mmaCauses (ctx3 g1).b rec1 true (rec1.slot 0) (mmaSlotB (ctx3 g1).b rec1 mma1) (mmaHandle (ctx3 g1).b mma1)
        ((ctx3 g1).shapes mma1) 1 ++ (ctx3 g1).g.aCauses 8 0 32, q.1 = false)
    ∧ (ctx3 ganged1).g.gang ≠ 0 ∧ (ctx3 ganged1).g.atLatch = 0 ∧ (ctx3 behind1).g.atLatch ≠ 0 :=
  ⟨rfl, unshielded_g1, by decide, by decide, by decide, by decide, idle_g1, rfl, by decide, by decide, by decide, by decide, by decide,
    by decide⟩

theorem wit_MmaAccumulatesIntoC :
    (state3 g1).block? 2 = some (block3 g1) ∧ (state3 g1).launch? (block3 g1).launch = some (launch1 rec1)
    ∧ (block3 g1).groups[0]? = some g1 ∧ (∀ o ∈ (state3 g1).mtxq, o.blk ≠ (block3 g1).id)
    ∧ Memory.wf (block3 g1).c = true ∧ 4 * ((ctx3 g1).shapes mma1).getD 0 0 ≤ ((ctx3 g1).shapes mma1).getD 3 0
    ∧ (rec1.slot 0).integer = true ∧ (rec1.slot 2).integer = false ∧ (mmaPair (rec1.slot 2).elem (rec1.slot 2).elem).isSome = true :=
  ⟨rfl, rfl, rfl, by decide, rfl, by decide, by decide, by decide, by decide⟩

/-- The B rows of that MMA can be read. -/
theorem wit_mma_rows :
    (match ((state3 g1).mmaIssue (block3 g1) rec1 false mma1 ((ctx3 g1).shapes mma1) [⟨0, 1, 1, 8, mma1⟩]).mtxq with
      | [o] => match o.bRows (block3 g1).w rec1.wExtent with
        | .ok bs => bs.length == 16
        | .error _ => false
      | _ => false) = true := by decide

theorem wit_MatrixElements : 0 < 4 := by decide

/-- Which operands let ACCLD, ACCZ, TLD and TST be accepted: the widest row, one row at the last place, a row of I8 elements. -/
theorem wit_MatrixOperationsAreAccepted :
    let c := ctx3 g1
    (state3 g1).ctx? = some c ∧ (state3 g1).mtxq = [] ∧ (state3 g1).reqs = [] ∧ c.real 0 ≠ 0 ∧ c.on 8 = 0 ∧ c.real 8 = 0
    ∧ (let x : TForm := ⟨0, 0, .v 64, .none, .none, .none, 0, 0, 0, 0x0100_0000_0000_0040, 0, 0, 0⟩
      let sh := c.shapes x
      sh.getD 2 0 % 4 = 0 ∧ sh.getD 3 0 % 4 = 0 ∧ (∀ k : Fin 16, k.val ∉ [0, 2, 3, 8] → sh.getD k.val 0 = 0) ∧ sh.getD 0 0 = 64
      ∧ sh.getD 8 0 ≤ 191 ∧ x.d.vnum + sh.getD 0 0 ≤ 128 ∧ sh.getD 2 0 + sh.getD 8 0 * sh.getD 3 0 + 4 * sh.getD 0 0 ≤ c.l.lr.cExtent)
    ∧ (let x : TForm := ⟨0, 0, .none, .none, .none, .none, 0, 0, 0, 0x0100_0000_0000_0010, 0, 32, 0⟩
      let sh := c.shapes x
      1 ≤ sh.getD 8 0 ∧ sh.getD 8 0 ≤ 192 ∧ sh.getD 2 0 + (sh.getD 8 0 - 1) * sh.getD 3 0 + 4 * sh.getD 0 0 ≤ c.l.lr.cExtent
      ∧ c.b.shadowMeets (sh.getD 2 0) (sh.getD 3 0) (sh.getD 0 0) (sh.getD 8 0) false = false)
    ∧ (let x : TForm := ⟨0, 0, .none, .th 0, .none, .none, 0, 0, 0, 0x0020_0020_0000_0010, 0, 0, 0⟩
      let sh := c.shapes x
      let h := c.handleA x.a
      let f := c.l.lr.slot h.slot
      h.unset = false ∧ h.space = 0 ∧ h.type = 0 ∧ f.elem ≠ 0 ∧ f.tileT = 0
      ∧ (∀ k : Fin 16, k.val ∉ [0, 1, 2, 3, 4, 5] → sh.getD k.val 0 = 0) ∧ 1 ≤ sh.getD 0 0 ∧ 1 ≤ sh.getD 2 0 ∧ sh.getD 5 0 = 0
      ∧ sh.getD 3 0 % 32 = 0 ∧ sh.getD 1 0 * f.bits % 32 = 0 ∧ sh.getD 2 0 * f.bits % 256 = 0 ∧ sh.getD 1 0 + sh.getD 2 0 ≤ h.cols
      ∧ sh.getD 4 0 * 32 + (sh.getD 0 0 - 1) * sh.getD 3 0 + sh.getD 2 0 * f.bits / 8 ≤ c.l.lr.wExtent
      ∧ sh.getD 4 0 * 32 + (sh.getD 0 0 - 1) * sh.getD 3 0 + sh.getD 2 0 * f.bits / 8 ≤ c.l.lr.aExtent
      ∧ (c.sval x.b).toNat % 2 ^ 32 + sh.getD 0 0 ≤ h.rows)
    ∧ c.g.lc < 255 ∧ c.g.sc < 255 ∧ c.g.mc < 255 ∧ c.b.shadows = [] := by
  refine ⟨rfl, rfl, rfl, ?_⟩; decide

theorem wit_ShadowAndClearOperationsOnC :
    (state3 g1).block? 2 = some (block3 g1) ∧ (∀ q ∈ (state3 g1).mtxq, q.blk ≠ 2) ∧ Memory.wf (block3 g1).c = true
    ∧ (let q : Shadow := ⟨64, 8, 2, 1, [7, 9]⟩
      4 * q.n ≤ q.cpitch ∧ q.data[0 * q.n + 1]? = some 9 ∧ ({ block3 g1 with shadows := [q] } : Block).shadows = [] ++ q :: []) := by
  refine ⟨rfl, by decide, rfl, ?_⟩; decide

theorem wit_HandlesAreSetAndRead :
    (state3 g1).ctx? = some (ctx3 g1) ∧ (ctx3 g1).real 0 ≠ 0 ∧ (ctx3 g1).on 0 ≠ 0 ∧ (state3 g1).handleBusy 2 0 = false
    ∧ (handle1 1).ok (rec1.slot (handle1 1).slot) = true := by
  refine ⟨rfl, ?_⟩; decide

theorem wit_VersionAccessesPostOneRequestALane :
    s1.ctx? = some c1 ∧ GlobalOk c1 (.s 2) (.reg .none (.s 3)) 4 ∧ (c1.sval (.s 3)).toNat < 2 ^ 32 ∧ c1.on 0 ≠ 0 ∧ c1.real 0 ≠ 0
    ∧ c1.on 8 = 0 ∧ c1.real 8 = 0 ∧ c1.g.lc < 255 ∧ c1.g.sc < 255 ∧ c1.unshielded :=
  ⟨ctx_s1, for_lanes (by decide), by decide, by decide, by decide, by decide, by decide, by decide, by decide, unshielded_c1⟩

/-- A request of the lane set to the region home, of an operation, that has been answered or not. -/
def home1 (op : HomeOp) (done : Bool) (ans : Option Merged) : HomeReq :=
  { id := 5, blk := 2, grp := 0, lanes := 1, takers := 1, pc := 8, hdr := 0, cnt := 15, region := 0, launch := 1, ver := 3, op := op,
    dst := none, hf := 2, waits := [], done := done, ans := ans }

def asked (op : HomeOp) (done : Bool) (ans : Option Merged) : State := { state3 g1 with home := [home1 op done ans] }

/-- s3 is a register that holds 0, the region's number; a version above F and not above P, one above P, and answered requests. -/
theorem wit_VersionInstructionsAct :
    (state3 g1).ctx? = some (ctx3 g1) ∧ (ctx3 g1).unshielded ∧ (ctx3 g1).real 0 ≠ 0 ∧ ((ctx3 g1).sval (.s 3)).toNat = 0
    ∧ (state3 g1).region? (ctx3 g1).b.launch 0 = some (region1 2 0) ∧ (state3 g1).homeReq (ctx3 g1) = none
    ∧ (asked .publish true none).homeReq (ctx3 g1) = some (home1 .publish true none)
    ∧ (asked .floor true none).homeReq (ctx3 g1) = some (home1 .floor true none)
    ∧ (region1 2 0).floor < 2 ∧ 2 ≤ (region1 2 0).pub ∧ (region1 2 0).pub < 3 :=
  ⟨rfl, unshielded_g1, by decide, by decide, rfl, by decide, by decide, by decide, by decide, by decide, by decide⟩

/-- No live region is numbered 1; version 4 is neither the next one nor open, and its request has nothing to wait for. -/
theorem wit_VersionChecksAreTrapsBeforeIssue :
    (state3 g1).ctx? = some (ctx3 g1) ∧ (ctx3 g1).unshielded ∧ (ctx3 g1).real 0 ≠ 0 ∧ (state3 g1).region? 1 1 = none
    ∧ (state3 g1).region? 1 0 = some (region1 2 0) ∧ (asked .publish false none).homeReq (ctx3 g1) = some (home1 .publish false none)
    ∧ (asked .publish false none).quiet 2 0 1 4 = true ∧ (asked .publish false none).allDone [] = true
    ∧ 4 ≠ (region1 2 0).pub + 1 ∧ (region1 2 0).top < 7 ∧ (region1 2 0).floor < 3 ∧ (region1 2 0).pub < 3 ∧ 2 ^ 32 ≤ 2 ^ 32 :=
  ⟨rfl, unshielded_g1, by decide, by decide, rfl, by decide, by decide, by decide, by decide, by decide, by decide, by decide, by decide⟩

/-- A read of a lane set, of which everything has come. -/
def pre1 (addr : Nat) (bs : List Byte) : PreRead := ⟨6, 2, 0, 1, 8, false, addr, bs.length, [(addr, bs.take 32), (addr + 32, bs.drop 32)], none, none⟩

/-- What a lane set in front of an instruction has sent for. -/
def reads1 (p : PreRead) : Bool := p.blk == 2 && p.grp == 0 && p.pc == 8 && !p.code && (p.lanes &&& 1) != 0

theorem wit_VnopenCreatesARegion :
    (state3 g1).ctx? = some (ctx3 g1) ∧ (ctx3 g1).unshielded ∧ (ctx3 g1).real 0 ≠ 0 ∧ (state3 g1).context? 7 = some context7
    ∧ 0x1000 % 32 = 0 ∧ (ctx3 g1).idle (state3 g1) ∧ ((state3 g1).walk context7 0x1000).reason? = none
    ∧ (state3 g1).pres.find? reads1 = none ∧ reads1 (pre1 0x1000 entry1) = true ∧ (pre1 0x1000 entry1).size = 32
    ∧ (pre1 0x1000 entry1).bytes? = some entry1
    ∧ (state3 g1).regionFull context7 1 (RegionEntry.ofBytes entry1).pool = false
    ∧ (state3 g1).entryReason context7 (RegionEntry.ofBytes entry1) = none :=
  ⟨rfl, unshielded_g1, by decide, rfl, by decide, idle_g1, by decide, by decide, by decide, by decide, by decide, by decide, by decide⟩

/-- A family of another image is admitted, codes of one table fit in the last registers, a probe of the ROWSET handle th1 at
version 2 for one slot. -/
def g4 : Group := group1 0x100 2 3 4 0x100 3 0x0001_0401_0000_0002

theorem unshielded_g4 : (ctx3 g4).unshielded := for_lanes (by decide)

theorem wit_RetrievalInstructionsAct :
    let c := ctx3 g4
    let s := state3 g4
    s.ctx? = some c ∧ c.real 0 ≠ 0 ∧ c.on 0 ≠ 0 ∧ c.real 8 = 0 ∧ s.pres.find? reads1 = none
    ∧ (reads1 (pre1 0x100 image1) = true ∧ (pre1 0x100 image1).size = 64 ∧ (pre1 0x100 image1).bytes? = some image1)
    ∧ (fam1 false 0x1_8000).ok 3 (some (region1 2 0)) = true ∧ 0x100 % 64 = 0
    ∧ (let f := c.b.fam 2
      f.unset = false ∧ f.kind = 0 ∧ f.tables = 1 ∧ 125 + 1 * f.k ≤ 128 ∧ 126 + 2 * 1 ≤ 128)
    ∧ (let p := c.sval (.s 4)
      let h := c.b.handle (bitsOf p.toNat 51 48)
      c.b.fams 2 = some [c.b.fam 2] ∧ s.region? c.b.launch (c.b.fam 2).region = some (region1 2 0)
      ∧ bitsOf p.toNat 47 45 = 0 ∧ bitsOf p.toNat 63 52 = 0 ∧ 1 ≤ bitsOf p.toNat 41 32 ∧ bitsOf p.toNat 41 32 ≤ 512
      ∧ 1 ≤ bitsOf p.toNat 44 42 ∧ 126 + famWords [c.b.fam 2] ≤ 128 ∧ h.unset = false ∧ h.type = 1 ∧ h.space = 0
      ∧ s.handleBusy 2 (bitsOf p.toNat 51 48) = false ∧ c.g.lc < 255) := by
  refine ⟨rfl, ?_⟩; decide

/-- A positive projection and a bit of a code. -/
theorem wit_CodesAreTheSignsOfTheProjections : 0 < 32 ∧ [(0x3F80_0000 : W32)].length ≤ 32 := by decide

def c4 : Ctx := ctx3 g4
def s4 : State := state3 g4

theorem ctx_s4 : s4.ctx? = some c4 := rfl

/-- What an update asks before it is registered, and registered or carried out. -/
theorem wit_UpdatesRegisterAndAct :
    s4.ctx? = some c4 ∧ c4.unshielded ∧ c4.real 0 ≠ 0 ∧ s4.region? c4.b.launch (c4.b.fam 2).region = some (region1 2 0)
    ∧ (c4.sval (.s 3)).toNat < 2 ^ 32 ∧ s4.quiet 2 0 (c4.on 0) 4 = true
    ∧ bitsOf (c4.sval (.s 3)).toNat 31 0 = (region1 2 0).pub + 1 ∧ 3 ≤ (region1 2 0).top ∧ s4.homeReq c4 = none
    ∧ (c4.b.fams 2 = some [c4.b.fam 2] ∧ c4.g.sc < 255 ∧ c4.real 0 = 1 ∧ ((c4.r.lane 0).vreg 3).toNat < (c4.b.fam 2).maxid
      ∧ 126 + famWords [c4.b.fam 2] ≤ 128)
    ∧ ({ s4 with home := [home1 (.side (tab 2 c4.b.fam)) true none] } : State).homeReq c4 = some (home1 (.side (tab 2 c4.b.fam)) true none)
    ∧ ({ s4 with home := [home1 (.merge (c4.b.fam 2)) true (some ⟨none, 0, none, 0, 0⟩)] } : State).homeReq c4
      = some (home1 (.merge (c4.b.fam 2)) true (some ⟨none, 0, none, 0, 0⟩)) :=
  ⟨ctx_s4, unshielded_g4, by decide, by decide, by decide, by decide, by decide, by decide, by decide, by decide, by decide, by decide⟩

theorem wit_rehash :
    (0 : Fin 8).val % 2 = 0 ∧ (c4.b.fam 0).pair = true ∧ c4.b.fams 0 = some [c4.b.fam 0, c4.b.fam 1]
    ∧ Lines.cursor ⟨s4, region1 2 0, 3⟩ (c4.b.fam 0) + 1 ≤ (c4.b.fam 0).maxid ∧ 0x1004 + 4 * 1 * (c4.b.fam 1).tables ≤ 2 ^ 52
    ∧ reads1 (pre1 0x1004 [0, 0, 0, 0]) = true ∧ (pre1 0x1004 [0, 0, 0, 0]).bytes? = some [0, 0, 0, 0] := by decide

/-- A task record of zeros in s8 to s15, an empty queue and a full one. -/
theorem wit_SpawnAppendsARecord :
    s1.ctx? = some c1 ∧ c1.unshielded ∧ c1.real 0 ≠ 0 ∧ c1.real 8 = 0 ∧ c1.l.lr.tasks = true
    ∧ s1.quiet 2 0 (maskOf (· == lowest (c1.real 0))) 3 = true
    ∧ (let dw0 := (c1.r.sreg 8).toNat
      bitsOf dw0 63 37 = 0 ∧ dw0 % 8 = 0 ∧ bitsOf dw0 31 0 < c1.l.lr.codeSize ∧ c1.r.sreg 15 = 0 ∧ bitOf dw0 36 = false)
    ∧ c1.b.q.live < c1.l.lr.segment ∧ c1.b.q.ring = [] ∧ c1.b.q.share.length < 128
    ∧ ({ TaskQ.zero with ring := [(0, 0)] } : TaskQ).ring ≠ [] ∧ ({ TaskQ.zero with ring := [(0, 0)] } : TaskQ).live < c1.l.lr.segment
    ∧ c1.l.lr.segment ≤ ({ TaskQ.zero with ring := List.replicate 256 (0, 0) } : TaskQ).live ∧ (Opnd.p 1) ≠ .p 0 :=
  ⟨ctx_s1, unshielded_c1, by decide, by decide, by decide, by decide, by decide, by decide, by decide, by decide, by decide, by decide,
    by decide, by decide⟩

/-- A core's copy that is bound. -/
def s5 : State :=
  { s1 with cores := s1.cores.setIfInBounds 0 { CoreSt.zero with ic := Vector.replicate 16 ⟨5, 1, 0⟩ } }

theorem wit_BoundsAndIncumbents :
    s5.ctx? = some c1 ∧ (s5.icCopy c1.b.core 15).bound = true ∧ c1.on 0 ≠ 0 ∧ c1.real 0 ≠ 0 ∧ c1.unshielded :=
  ⟨ctx_s1, by decide, by decide, by decide, unshielded_c1⟩

/-- A FILL of four bytes on the copy engine that stores a word when it completes, one of version 3 of the region, and a MERGE
of hf2 on the retrieval queue. -/
def fill1 : Dws := #v[0x1_0002_0302, 0x55, 0x2000, 4, 0, 0x3000, 9, 0]
def fill2 : Dws := #v[0x1_0000_0202, 0x55, 0x1_0000, 4, 0, 0x3_0000_0000, 9, 0]
def merge1 : Dws := #v[0x1_0002_0312, 0, 0, 2, 0, 0x3000, 9, 0]

/-- A command of the block in the queue of the copy engine. -/
def cmd1 : Cmd :=
  { id := 5, queue := 0, core := 0, blk := 2, grp := 0, launch := 1, ctx := 7, threads := 1, fpc := 8, dws := fill1, started := true,
    todo := [(0, 0, 4)], flight := [], regs := [], parked := none, heldAt := [], hf := Vector.replicate 2 (Vector.replicate 8 0),
    next := 0, buf := [], stalled := false, far := [], epoch := 0, wordWait := false, fail := none,
    kept := none }

theorem wit_PushAndQstat :
    s1.ctx? = some c1 ∧ c1.unshielded ∧ c1.real 0 ≠ 0 ∧ fill1.track = false ∧ s1.quiet 2 0 (c1.on 0) 4 = true
    ∧ c1.cmdCause 0 fill1 = none ∧ fill1.mode ≠ 2 ∧ s1.queueUsed 0 0 < queueDepth 0 ∧ s1.homeReq c1 = none
    ∧ (ctx3 g4).cmdCause 5 merge1 = none ∧ merge1.mode ≠ 2 ∧ s4.region? 1 ((ctx3 g4).b.fam merge1.hf).region = some (region1 2 0)
    ∧ (region1 2 0).pub + 1 ≤ (region1 2 0).top ∧ (region1 2 0).enginesOf 3 < 65535
    ∧ (c1.cmdCause 0 fill2 = none ∧ fill2.mode = 2 ∧ (ctx3 g4).regCause s4 0 fill2 = none)
    ∧ ({ s4 with home := [home1 (.push fill2) true none] } : State).homeReq c4 = some (home1 (.push fill2) true none)
    ∧ ({ s1 with home := [home1 (.queued fill1) false none] } : State).homeReq c1 = some (home1 (.queued fill1) false none)
    ∧ queueDepth 0 ≤ ({ s1 with cmds := List.replicate 32 cmd1 } : State).queueUsed 0 0 :=
  ⟨ctx_s1, unshielded_c1, by decide, by decide, by decide, by decide, by decide, by decide, by decide, by decide, by decide, by decide,
    by decide, by decide, by decide, by decide, by decide, by decide⟩

/-- A handler at 0, and a trap on the last word of the clause. -/
theorem wit_TrapAndBkptEnterTheHandler :
    handled.ctx? = some (ctx1 { group1 0 0 0 0 0x55 0 0 with tvec := 0 } 1)
    ∧ (let c := ctx1 { group1 0 0 0 0 0x55 0 0 with tvec := 0 } 1
      c.on 0 ≠ 0 ∧ c.on 8 = 0 ∧ c.g.inTrap = false ∧ c.g.tvec.extractLsb' 0 32 ≠ 0xFFFF_FFFF
      ∧ (c.g.tvec.extractLsb' 0 32).toNat % 8 = 0 ∧ (c.g.tvec.extractLsb' 0 32).toNat < c.l.lr.codeSize)
    ∧ (128#32 + 8 = 0 + BitVec.ofNat 32 (8 * (15 + 2))) := by
  refine ⟨rfl, ?_⟩; decide

/-- A group whose handler runs for lane 0 alone. -/
def g5 : Group :=
  { g1 with
    tstat := 1
    tmask := 1
    tepc := 8
    lanes := tab 32 fun l => if l = 0 then { lane1 0x100 2 3 4 with inTrap := true } else if l = 1 then lane1 0 0 0 0
      else { Lane.zero with st := .exited false } }

theorem wit_TrapsWithoutAHandler :
    (state1 (block2 g5) 1).block? 2 = some (block2 g5) ∧ (state1 (block2 g5) 1).launch? 1 = some (launch1 rec1)
    ∧ pickCause [(.misaligned, 1)] = some (.misaligned, 1) ∧ pickCause [(.misaligned, 2)] = some (.misaligned, 2)
    ∧ (block2 g5).group 0 = g5 ∧ g5.inTrap = true ∧ 1 &&& g5.tmaskLanes ≠ 0 ∧ 2 &&& g5.tmaskLanes = 0
    ∧ ((block2 g1).group 0).inTrap = false ∧ ((block2 g1).group 0).tvec.extractLsb' 0 32 = 0xFFFF_FFFF :=
  ⟨rfl, rfl, by decide, by decide, rfl, by decide, by decide, by decide, by decide, by decide⟩

theorem wit_RftAndTheSpecialRegisters :
    (state1 (block2 g5) 1).ctx? = some (ctx1 g5 1) ∧ (ctx1 g5 1).on 0 ≠ 0 ∧ (ctx1 g5 1).on 8 = 0 ∧ (ctx1 g5 1).g.inTrap = true
    ∧ (ctx1 g5 1).iss.lanes &&& (ctx1 g5 1).g.tmaskLanes ≠ 0 ∧ c1.g.inTrap = false ∧ s1.flagsPending 2 0 = false ∧ c1.g.task = false
    ∧ ({ s1 with reqs := [{ req1 with kind := .atomic 10 false false }] } : State).flagsPending 2 0 = true ∧ c1.real 0 ≠ 0
    ∧ c1.real 8 = 0 ∧ 0x010 ∉ [0x011, 0x012, 0x015, 0x020] := by
  refine ⟨rfl, ?_⟩; decide


/-! ### Witnesses for the events -/

/-- A group whose lanes 0 and 1 are given, the others having exited. -/
def group2 (x y : Lane) : Group :=
  { Group.zero with
    lanes := tab 32 fun l => if l = 0 then x else if l = 1 then y else { Lane.zero with st := .exited false }
    active := some 0 }

/-- A state in which no lane set is chosen, at cycle 1,000. -/
def idle (b : Block) : State := { state1 b 1 with cur := [], cc := 1000 }

/-- Lane 0 waits at 8, which lane 1, a helper, is to meet. -/
def held1 : Group := group2 { Lane.zero with pc := 8, mt := 8, st := .held } { Lane.zero with mt := 8, helper := true }

theorem wit_GroupEventsAct :
    (idle (block2 held1)).block? 2 = some (block2 held1) ∧ (block2 held1).groups[0]? = some held1
    ∧ (block2 held1).st = .resident
    ∧ (∃ l, l < 32 ∧ (held1.lane l).st = .held ∧ (held1.lane l).mt = 8)
    ∧ (∀ l, l < 32 → ((held1.lane l).mt = 8 ∨ ((held1.lane l).inTrap = true ∧ (held1.lane l).smt = 8)) →
      ((held1.lane l).st = .held ∧ (held1.lane l).mt = 8) ∨ (held1.lane l).exited = true ∨ (held1.lane l).helper = true)
    ∧ ({ g1 with forming := true } : Group).forming = true ∧ g1.mayIssue ≤ 1000 :=
  ⟨rfl, rfl, rfl, by decide, by decide, by decide, by decide⟩

/-- Two lanes in the handler, each held at the address at which the other is to meet when it returns. -/
def dead1 : Group :=
  group2 { Lane.zero with pc := 8, mt := 8, st := .held, inTrap := true, smt := 16 }
    { Lane.zero with pc := 16, mt := 16, st := .held, inTrap := true, smt := 8 }

theorem wit_meetingDeadlock :
    dead1.live ≠ 0 ∧ (∀ l, l < 32 → (dead1.lane l).exited = true ∨ (dead1.lane l).st = .held)
    ∧ (∀ l, l < 32 → (dead1.lane l).st = .held → dead1.releases (dead1.lane l).mt = false ∧ (8 : W32).toNat ≤ (dead1.lane l).mt.toNat)
    ∧ (∃ l, l < 32 ∧ (dead1.lane l).st = .held ∧ (dead1.lane l).mt = 8) := by decide

/-- A sleeper whose time has come, in an active group that has had no runnable lane since cycle 0. -/
def asleep1 : Group := group2 { Lane.zero with pc := 8, st := .sleeping 1000 } { Lane.zero with st := .sleeping 2000 }

theorem wit_sleepExpiry :
    (asleep1.lane 0).st = .sleeping 1000 ∧ 1000 ≤ (idle (block2 asleep1)).cc ∧ (block2 asleep1).st = .resident
    ∧ asleep1.active ≠ none ∧ (idle (block2 asleep1)).ready (block2 asleep1) 0 = false ∧ asleep1.idleAt + 16 ≤ (idle (block2 asleep1)).cc := by
  decide

/-- A pending group with a runnable lane, and the last active slot free. -/
def pending1 : Group := { g1 with active := none }

theorem wit_activeSetSwap :
    (leastBy (fun (p : Block × Nat) => (p.1.group p.2).readyAt)
      (((idle (block2 pending1)).quadGroups 0 0).filter fun p =>
        (p.1.group p.2).active.isNone && (idle (block2 pending1)).ready p.1 p.2)) = some (block2 pending1, 0)
    ∧ ∀ q ∈ (idle (block2 pending1)).quadGroups 0 0, (q.1.group q.2).active ≠ some 7 := by decide

/-- Lane 0 waits on a barrier object in phase 7, for a phase that has passed or not, or did pass before now. -/
def waits1 (d : W32) (passed : Bool) : Group :=
  group2 { Lane.zero with pc := 8, hdr := some 0, st := .barwait 0 d passed } { Lane.zero with st := .exited false }
def barred1 (d : W32) (passed : Bool) : Block := { block2 (waits1 d passed) with scratch := barWrite [] 0 ⟨7, 0x8002, 0, 0, 0⟩ }

theorem wit_barwaitResume :
    (idle (barred1 6 false)).launch? 1 = some (launch1 rec1) ∧ ((waits1 6 false).lane 0).st = .barwait 0 6 false
    ∧ barPassed (barRead (barred1 6 false).scratch 0).phase 6 = true
    ∧ ((waits1 7 true).lane 0).st = .barwait 0 7 true ∧ barPassed (barRead (barred1 7 false).scratch 0).phase 7 = false
    ∧ (match ((idle (barred1 6 false)).fetch 0 (launch1 rec1) ((waits1 6 false).lane 0).place.1.toNat).1 with
      | .peer => false
      | _ => true) = true := by
  refine ⟨rfl, ?_⟩; decide

/-- A group outside its handler with a cause that waits, and one whose handler has come to its end. -/
def late1 : Group := { g1 with tvec := 0, after := [⟨4, .misaligned, 1, true, 0x100, 0, 8⟩] }
def ended1 : Group :=
  { group2 { Lane.zero with pc := 64, st := .rejoin 0xFFFF_FFFF, inTrap := true } { Lane.zero with st := .exited false } with
    tstat := 1
    tmask := 1
    tepc := 16 }

theorem wit_TrapEntryAndRejoin :
    (idle (block2 late1)).block? 2 = some (block2 late1) ∧ (idle (block2 late1)).launch? 1 = some (launch1 rec1)
    ∧ (block2 late1).st = .resident ∧ (idle (block2 late1)).cur = [] ∧ late1.active ≠ none
    ∧ (idle (block2 late1)).parked (block2 late1) 0 = false
    ∧ late1.inTrap = false ∧ late1.nextAfter = some ⟨4, .misaligned, 1, true, 0x100, 0, 8⟩
    ∧ late1.tvec.extractLsb' 0 32 ≠ 0xFFFF_FFFF ∧ (launch1 rec1).offsetOk (late1.tvec.extractLsb' 0 32).toNat = true :=
  ⟨rfl, rfl, by decide, rfl, by decide, by decide, by decide, by decide, by decide, by decide⟩

theorem wit_rejoin :
    ended1.inTrap = true ∧ (∃ k, k < 32 ∧ inMask ended1.tmaskLanes k = true ∧ (ended1.lane k).st = .rejoin 0xFFFF_FFFF)
    ∧ (∀ k, k < 32 → inMask ended1.tmaskLanes k = true → (ended1.lane k).exited = true ∨ (ended1.lane k).st = .rejoin 0xFFFF_FFFF)
    ∧ (idle (block2 ended1)).reqs = []
    ∧ ({ idle (block2 ended1) with mem := (State.reset.place 0 []).mem } : State).checkret 0 (launch1 rec1) 0 16 = true := by decide

/-- An update of a copy that has been due since cycle 0 holds the cycle; a skip count of 32 makes a lane overdue. -/
theorem wit_IssueCyclesChooseLaneSets :
    (idle (block2 g1)).cur = [] ∧ (0, 0) ∉ (idle (block2 g1)).served
    ∧ (idle (block2 g1)).allServed (idle (block2 g1)).served = false
    ∧ ({ idle (block2 g1) with served := [(0, 0), (0, 1)] } : State).allServed [(0, 0), (0, 1)] = true
    ∧ ({ idle (block2 g1) with served := [(0, 0), (0, 1)] } : State).due = false
    ∧ ({ idle (block2 g1) with offers := [⟨4, 0, 9, 0, false, 0⟩] } : State).due = true := by decide

/-- An SADD that the first slot of a quadrant can issue, with no other lane set. -/
def placed1 : State := { State.reset.place 0 (leBytes 8 0x1000_8280_81FF_3000) with cur := [] }

/-- The lane sets of the group that a quadrant serves next, in the order of choice. -/
def choices (s : State) (core quad : Nat) : List (LaneSet × Stand) :=
  let u := s.clockGroups core quad
  match u.served? core quad with
  | none => []
  | some (b, k) => match u.launch? b.launch with
    | none => []
    | some l => (b.group k).order ((u.stands b l k (b.group k).runLanes).filter fun x => x.2.runnable)

theorem wit_chosen :
    (match choices placed1 0 0 with
      | [x] => match x.2 with
        | .go _ _ => true
        | _ => false
      | _ => false) = true ∧ placed1.cur = [] ∧ placed1.allServed placed1.served = false
    ∧ (placed1.blocks.all fun b => b.groups.all fun g => !g.hasAfter) = true := by decide

theorem wit_overdue :
    (idle (block2 { g1 with lanes := tab 32 fun l => if l = 0 then { lane1 0 0 0 0 with skip := 32 } else { Lane.zero with st := .exited false } })).overdue
      0 0 = true := by decide

/-- Two lanes at one BRPK with different targets. -/
def brpk1 : Group := group2 { Lane.zero with pc := 8, st := .brpk 136 } { Lane.zero with pc := 8, st := .brpk 0 }

theorem wit_RepackingPacksTheThreads :
    (idle (block2 brpk1)).block? 2 = some (block2 brpk1) ∧ (block2 brpk1).st = .resident ∧ (block2 brpk1).allAtBrpk = true
    ∧ (block2 brpk1).mismatch = none ∧ (idle (block2 brpk1)).packDrained (block2 brpk1) = true
    ∧ (idle (block2 brpk1)).launch? (block2 brpk1).launch = some (launch1 rec1) :=
  ⟨rfl, by decide, by decide, by decide, by decide, rfl⟩

/-- A state with memory mapped, a block, no region, and requests and entries of its group. -/
def busy (rs : List Req) (es : List Entry) : State := { state3 g1 with cur := [], cc := 1000, regions := [], reqs := rs, entries := es }

/-- A load of lane 0 of the word at 0x104, in a phase. -/
def load1 (p : ReqPhase) : Req :=
  { req1 with
    kind := .load
    addr := 0x104
    parts := [⟨0, [], [], [1, 2, 3, 4]⟩]
    dst := some 1
    phase := p }

/-- The entry of its line. -/
def entry2 (kind : EntryKind) (closed sent : Bool) : Entry := ⟨9, 0, 7, 2, kind, 0x200_0100, 0, 968, closed, sent, [5]⟩

theorem wit_SifterEventsAct :
    let s := busy [load1 .issued] []
    s.req? 5 = some (load1 .issued) ∧ s.mayAccept (load1 .issued) = true ∧ (load1 .issued).isAtomic = false
    ∧ (load1 .issued).owner = none ∧ s.block? 2 = some (block3 g1) ∧ s.launch? 1 = some (launch1 rec1)
    ∧ s.context? 7 = some context7 ∧ (s.translate 0 context7 0x104).1 = .ok 0x200_0000 0 true true
    ∧ (load1 .issued).needsW = false ∧ s.refusalOf context7 1 (load1 .issued) (Xlat.addr 0x200_0000 0x104) = none ∧ s.entries = [] :=
  ⟨rfl, by decide, rfl, rfl, rfl, rfl, rfl, by decide, by decide, by decide, rfl⟩

theorem wit_entries :
    let e := entry2 .read true false
    let s := busy [load1 (.accepted 9)] [e]
    (s.entries.find? fun f => f.id == e.id) = some e ∧ e.sent = false ∧ e.kind ≠ .bank ∧ s.tableUsed e.core < 1024
    ∧ (∀ f ∈ s.entries, f.id < e.id → f.core = e.core → f.ctx = e.ctx → f.line = e.line → f.kind ≠ .bank → f.sent = true)
    ∧ e.closed = true ∧ (entry2 .read false false).opened + 32 ≤ s.cc := by decide

/-- A sent entry whose one request is a load, or a store; and a bank request. -/
theorem wit_HomesPerformRequests :
    let r := load1 (.accepted 9)
    let e := entry2 .read true true
    let s := busy [r] [e]
    (s.entries.find? fun f => f.id == e.id) = some e ∧ s.inEntry e.id = [r] ∧ s.req? r.id = some r ∧ s.homeReady e [r] = true
    ∧ targetOf e.pa = .mem e.pa ∧ targetOf (e.pa + r.addr % 128) = .mem (e.pa + r.addr % 128)
    ∧ s.mem.poisoned (e.pa + r.addr % 128) r.size = false ∧ s.mem.wf = true ∧ s.regionAt e.ctx r.addr = none := by decide

theorem wit_bank :
    let r : Req := { load1 (.accepted 9) with space := .scratch }
    let e := entry2 .bank true true
    let s := busy [r] [e]
    (s.entries.find? fun f => f.id == e.id) = some e ∧ s.inEntry e.id = [r] ∧ s.mayPerform r [] = true ∧ s.mirrorHolds r = false
    ∧ s.block? r.blk = some (block3 g1) := ⟨by decide, by decide, by decide, by decide, rfl⟩

theorem wit_RepliesAndLandings :
    let s := busy [load1 .done] []
    s.req? 5 = some (load1 .done) ∧ (load1 .done).phase = .done ∧ (load1 .done).unit = false ∧ (load1 .done).fetches = true
    ∧ s.faultOf (load1 .done) = none ∧ s.allPerformed (load1 .done).acks = true ∧ s.group? 2 0 = some g1
    ∧ (load1 .done).dst = some (1 : Fin 128).val ∧ (load1 .done).parts = [⟨0, [], [], [1, 2, 3, 4]⟩] ∧ (g1.lane 0).cancelled = false :=
  ⟨rfl, rfl, rfl, by decide, rfl, by decide, rfl, rfl, rfl, by decide⟩

theorem wit_acknowledgements :
    let st : Req := { req1 with phase := .done }
    let ldds : Req := { load1 .done with kind := .ldds }
    let mir : Req := { st with space := .mirror, acks := [3] }
    (st.fetches = false ∧ st.owner = none ∧ st.acks = [])
    ∧ (ldds.kind = .ldds ∧ (busy [ldds] []).faultOf ldds = none ∧ (busy [ldds] []).mayLand ldds = true
      ∧ (busy [ldds] []).inImage ldds = false)
    ∧ (mir.acks[0]? = some 3 ∧ mir.space = .mirror
      ∧ ∀ q ∈ (busy [mir] []).reqs, q.space = .mirror → q.isStore = true → q.before mir = true → q.isDone = true ∧ 3 ∉ q.acks) := by
  decide

/-- A region with one record of version 1, at the greatest version. -/
def recs1 : Region := { region1 2 0 with recs := [⟨0x200, 1, Vector.replicate 128 7, 1⟩], free := 7 }

theorem wit_StoredVersionsRead :
    0xFFFF_FFFF ≤ 0xFFFF_FFFF ∧ (∀ x ∈ recs1.recs, x.ver ≤ 0xFFFF_FFFF)
    ∧ (∀ x ∈ recs1.recs, ∀ y ∈ recs1.recs, x.line = y.line → x.ver = y.ver → x = y) ∧ ([1, 2] : List Byte).length = ([3, 4] : List Byte).length
    ∧ 0 < 1 := by decide

theorem wit_ReclamationKeepsValues :
    ({ s1 with regions := [recs1] } : State).region? (256 / 256) (256 % 256) = some recs1
    ∧ ({ s1 with regions := [recs1] } : State).owesLine recs1 0x200 = false
    ∧ (∀ x ∈ recs1.recs, x.ver ≤ 0xFFFF_FFFF) ∧ ∀ x ∈ recs1.recs, ∀ y ∈ recs1.recs, x.line = y.line → x.ver = y.ver → x = y :=
  ⟨rfl, by decide, by decide, by decide⟩

/-- A VNST and a VNLD of a version, whose turn has come; one that is held, one blocked and one that has been told to retry. -/
def vreq (kind : ReqKind) (p : ReqPhase) : Req :=
  { load1 p with
    kind := kind
    addr := 0x1_0004
    parts := [⟨0, [1, 2, 3, 4], [], []⟩] }

def ventry (kind : EntryKind) : Entry := ⟨9, 0, 7, 0x200, kind, 0x201_0000, 0, 968, true, true, [5]⟩

def versions (g : Region) (kind : ReqKind) (p : ReqPhase) (k : EntryKind) : State :=
  { busy [vreq kind p] [ventry k] with regions := [g] }

theorem wit_VersionLinesAtTheirHome :
    let s := versions (region1 2 0) (.vnst 3) (.accepted 9) (.vnst 3)
    let e := ventry (.vnst 3)
    let r := vreq (.vnst 3) (.accepted 9)
    let g := region1 2 0
    (s.entries.find? fun f => f.id == e.id) = some e ∧ s.inEntry e.id = [r] ∧ s.req? r.id = some r
    ∧ (s.reachSlice e.ctx (128 * e.line) e.pa).regionAt e.ctx (128 * e.line) = some g
    ∧ (s.reachSlice e.ctx (128 * e.line) e.pa).region? g.launch g.num = some g ∧ s.homeReady e [r] = true
    ∧ (g.copyAt e.pa).1 < 3 ∧ 3 ≤ g.topOf (g.copyAt e.pa).2 ∧ ((g.store r.addr 3 [1, 2, 3, 4]).charge g).isSome = true := by
  refine ⟨?_, ?_, ?_, ?_, ?_, ?_, ?_, ?_, ?_⟩ <;> decide

theorem wit_vnld :
    let s := versions (region1 2 0) (.vnld 2) (.accepted 9) (.vnld 2)
    let e := ventry (.vnld 2)
    let r := vreq (.vnld 2) (.accepted 9)
    let g := region1 2 0
    s.inEntry e.id = [r] ∧ s.homeReady e [r] = true ∧ (g.copyAt e.pa).2 ≤ 2 ∧ 2 ≤ (g.copyAt e.pa).1 ∧ (g.copyAt e.pa).1 < 3
    ∧ s.mem.poisoned (e.pa + r.addr % 128) r.size = false ∧ 744 + 256 ≤ s.cc ∧ s.tableUsed e.core < 1024 := by decide

/-- A held line of a region that has had records freed, at a slice that has acknowledged P and F. -/
theorem wit_poolRetry :
    let g := { region1 2 0 with signal := true }
    let s := versions g (.vnst 3) (.held 9) (.vnst 3)
    let e := ventry (.vnst 3)
    let r := vreq (.vnst 3) (.held 9)
    s.regionAt e.ctx (128 * e.line) = some g ∧ s.region? g.launch g.num = some g ∧ g.copyAt e.pa = (g.pub, g.floor)
    ∧ g.signal = true ∧ g.pub < 3 ∧ 3 ≤ g.top ∧ s.entries = [e] ∧ s.cmds = []
    ∧ ((({ g with signal := false } : Region).store r.addr 3 [1, 2, 3, 4]).charge { g with signal := false }).isSome = true
    ∧ g.holds (128 * e.line) = true ∧ g.ctx = e.ctx ∧ g.num < 256 := by
  refine ⟨by decide, by decide, by decide, by decide, by decide, by decide, rfl, rfl, ?_⟩; decide

theorem wit_blocked :
    let s := versions (region1 2 0) (.vnld 2) (.blocked 9) (.vnld 2)
    s.regionAt 7 (128 * 0x200) = some (region1 2 0) ∧ s.inEntry 9 = [vreq (.vnld 2) (.blocked 9)] ∧ 2 ≤ (region1 2 0).pub := by decide

/-- A registration that is asked for, one of a merge that stands, and a publication of the next version. -/
theorem wit_PublicationAndLandingEvents :
    let a := { home1 (.push fill2) false none with id := 5 }
    let m := { home1 (.merge (fam1 false 0x1_8000)) true none with id := 6 }
    let p := { home1 .publish false none with id := 7 }
    let s : State := { s4 with home := [a, m, p] }
    (s.home.find? fun x => x.id == 5 && x.reg && x.ans.isNone) = some a ∧ (s.home.find? fun x => x.id == 6 && x.reg && x.ans.isNone) = some m
    ∧ (s.home.find? fun x => x.id == 7 && decide (x.op = .publish) && !x.done) = some p
    ∧ s.region? 1 0 = some (region1 2 0) ∧ (region1 2 0).pub < 3 ∧ 3 ≤ (region1 2 0).top ∧ (region1 2 0).enginesOf 3 < 65535
    ∧ (∃ k, k < 32 ∧ inMask 1 k = true ∧ (g4.lane k).exited = false) ∧ s.quiet 2 0 1 4 = true ∧ s.reqs = []
    ∧ 3 = (region1 2 0).pub + 1 ∧ (region1 2 0).enginesOf 3 = 0
    ∧ Lines.mergePoison ⟨s, region1 2 0, 3⟩ (fam1 false 0x1_8000) = none
    ∧ ((Lines.merge ⟨s, region1 2 0, 3⟩ (fam1 false 0x1_8000)).bind fun o => s.landUpdate (region1 2 0) o.1 3).isSome = true := by
  refine ⟨by decide, by decide, by decide, rfl, by decide, by decide, by decide, by decide, by decide, rfl, by decide, by decide, by decide,
    by decide⟩

theorem wit_registered_rehash :
    Lines.rehashPoison ⟨s4, region1 2 0, 3⟩ (fam1 true 0x1_0000) (fam1 false 0x1_4000) [[0]] = none
    ∧ ((Lines.rehash ⟨s4, region1 2 0, 3⟩ (fam1 true 0x1_0000) (fam1 false 0x1_4000) [[0]]).bind fun o =>
      s4.landUpdate (region1 2 0) o.1 3).isSome = true := by decide

/-- A probe of version 2 that waits. -/
def probe1 : Probe :=
  ⟨5, 2, 0, 1, .probe false, 1, 2, 0x0001_0401_0000_0002, [], Vector.replicate 2 (fam1 false 0x1_8000), false, false, []⟩

theorem wit_probeVersionWake :
    let s : State := { state3 g1 with probes := [probe1] }
    (s.probes.find? fun q => q.id == 5) = some probe1 ∧ s.block? 2 = some (block3 g1)
    ∧ s.region? 1 (FamImg.region (probe1.fam[0]?.getD (Vector.replicate 8 0))) = some (region1 2 0)
    ∧ bitsOf probe1.par.toNat 31 0 ≤ (region1 2 0).pub := ⟨by decide, rfl, by decide, by decide⟩

/-- A quotient on its way to v1 of lane 0. -/
def insn1 : Insn := ⟨4, .none, 8, 1, [1], [], [(.v 1 0, 9)], true⟩

theorem wit_resultLand :
    let g : Group := { g1 with insns := [insn1] }
    let s := idle (block2 g)
    s.group? 2 0 = some g ∧ (s.probes.find? fun p => p.id == 4 && p.blk == 2 && p.grp == 0) = none
    ∧ (g.insns.find? fun j => j.id == 4) = some insn1 ∧ s.insnBusy 2 0 4 = false ∧ insn1.writes = [(.v (1 : Fin 128).val 0, (9 : W32).setWidth 64)]
    ∧ (g.lane 0).cancelled = false := ⟨rfl, rfl, by decide, by decide, by decide, by decide⟩

/-- A state in which only the cores below a number are in service. -/
def fewCores (n : Nat) (s : State) : State :=
  { s with cores := tab 144 fun k => if k < n then CoreSt.zero else { CoreSt.zero with outSvc := true } }

/-- A context with room for the images of blocks with the matrix engine, and a record that fills most of a core. -/
def context8 : Context := { context7 with imageLen := 0x20_0000 }
def rec2 : LRec := { rec1 with scratch := 0x4_8000 }

/-- Launch 1 or block 2 at the head of queue 0 since cycle 1,000, at cycle 700,000. -/
def queued1 (x : QItem) (bs : List Block) : State :=
  { fewCores 1 (idle (block2 g1)) with
    cc := 700000
    time := 700000
    blocks := bs
    fw := { State.reset.fw with
      contexts := [context8]
      launches := [launch1 rec2]
      queues := #v[[x], [], [], []]
      heads := #v[some (x, 1000), none, none, none] } }

theorem wit_BlockAndLaunchEvents :
    let s := queued1 (.launch 1) []
    (s.noteHeads.fw.heads[0]? = some (some (.launch 1, 1000)) ∧ 1000 + micros 400 ≤ s.time)
    ∧ s.noteHeads.headLaunch = some (launch1 rec2, .launch 1) ∧ s.admitting = true
    ∧ s.noteHeads.room (launch1 rec2) (rec2.unit 1).length (((rec2.unit 1).map fun p => rec2.estimate p.2.2.2).foldl (· + ·) 0) []
      = some ([0], [0x20_0000])
    ∧ (rec2.unit 1).length = 1 ∧ ∀ m ∈ s.fw.launches, m.id = 1 → m = launch1 rec2 := by decide

theorem wit_idleSave :
    let b := { block2 { g1 with lanes := tab 32 fun l => if l = 0 then { Lane.zero with pc := 8, hdr := some 0, st := .brpk 0 }
      else { Lane.zero with st := .exited false } } with idleAt := 1000 }
    (queued1 (.launch 1) [b]).block? 2 = some b ∧ ∀ m ∈ (queued1 (.launch 1) [b]).members b, (queued1 (.launch 1) [b]).idleLong m = true := by
  refine ⟨rfl, ?_⟩; decide

theorem wit_preemptionForRoom :
    let s := queued1 (.launch 1) [block2 g1]
    s.noteHeads.nextItem = some (0, .launch 1) ∧ s.noteHeads.headNeeds = some (launch1 rec2, 1, 0) ∧ s.admitting = true
    ∧ s.noteHeads.roomWithout (launch1 rec2) 1 [] = false ∧ (∀ b ∈ s.blocks, b.running = true ∨ b.onCore = false)
    ∧ leastBy (fun (vs : List Block) => vs.length)
        ((List.range 144).map fun c => (s.noteHeads.savesOn (launch1 rec2) 1 c 0).toList).flatten = some [block2 g1] := by
  refine ⟨rfl, ?_, ?_, ?_, ?_, ?_⟩ <;> decide

/-- A block that is being saved since cycle 699,000, and one whose threads have all exited. -/
def saving1 : Block := { block2 g1 with st := .saving 699000 false }
def done1 : Block := block2 { Group.zero with lanes := Vector.replicate 32 { Lane.zero with st := .exited false } }

theorem wit_blockSave :
    let s := queued1 (.launch 1) [saving1]
    s.block? 2 = some saving1 ∧ s.launch? 1 = some (launch1 rec2) ∧ s.complete saving1 = false ∧ s.drained saving1 = true
    ∧ (s.inFlight saving1 || (s.members saving1).any s.mirrorsOut) = false ∧ s.time < 699000 + micros 10
    ∧ s.complete { done1 with st := .saving 5 false } = true := by
  refine ⟨rfl, rfl, ?_⟩; decide

/-- A block that has been saving for longer, with a poisoned sector in the place of its image. -/
def late2 : Block := { saving1 with st := .saving 5 false, imageAt := 0x20_0000 }

theorem wit_saveTimeout :
    let s := { queued1 (.launch 1) [late2] with mem := { State.reset.mem with poison := [0x20_0000 / 32 + 1] } }
    5 + micros 10 ≤ s.time ∧ s.drained late2 = true ∧ s.complete late2 = false ∧ 0x304 ∈ [0x303, 0x304, 0x306, 0x3F2, 0x3F3]
    ∧ s.mem.poisonAt late2.imageAt rec2.imageBytes = some 0x20_0020 := by decide

theorem wit_blockCompletion :
    let s := queued1 (.launch 1) [done1]
    s.block? 2 = some done1 ∧ done1.st = .resident ∧ s.complete done1 = true := by
  refine ⟨rfl, rfl, ?_⟩; decide

theorem wit_launchCompletion :
    let l := { launch1 rec1 with left := 0 }
    let s : State := { State.reset with fw := { State.reset.fw with launches := [l] } }
    s.launch? 1 = some l ∧ l.left = 0 ∧ s.blocks = [] ∧ s.cmds = [] ∧ s.home = [] ∧ s.offersTo l = false := by
  refine ⟨rfl, rfl, rfl, rfl, rfl, ?_⟩; decide

/-- An image of zeros gives back threads that are not prunable. -/
theorem ofLe_zeros : ∀ n, ofLe (List.replicate n 0#8) = 0
  | 0 => rfl
  | n + 1 => by simp [List.replicate_succ, ofLe]; exact ofLe_zeros n

theorem zeros_not_prunable (x : Lane) (n l : Nat) : (x.ofArea (List.replicate n 0#8) l).ben = false := by
  simp [Lane.ofArea, fieldAt, List.drop_replicate, List.take_replicate, ofLe_zeros, bitsOf, bitOf]

theorem blank_memory_reads_zero (a n : Nat) : (⟨[], [], []⟩ : Store).read 0 a n = List.replicate n 0#8 := by
  apply List.ext_getElem <;> simp [Store.read, Store.get, Memory.get, unlisted, assocGet]

/-- The saved block at the head of its queue. -/
def saved1 : Block := { block2 g1 with st := .saved, imageAt := 0x20_0000 }
def restoring1 : State := { queued1 (.block 2) [saved1] with mem := ⟨[], [], []⟩ }

theorem restored_threads :
    ∀ g ∈ (saved1.ofImage rec2 (restoring1.mem.read (restoring1.keySerial context8.key) 0x20_0000 rec2.imageBytes)).groups,
      ∀ k, k < 32 → (g.lane k).ben = false := by
  intro g hg k hk
  rw [show restoring1.mem = ⟨[], [], []⟩ from rfl, show restoring1.keySerial context8.key = 0 by decide,
    blank_memory_reads_zero] at hg
  simp only [Block.ofImage, List.mem_map] at hg
  obtain ⟨p, -, rfl⟩ := hg
  simp only [List.drop_replicate, List.take_replicate, Group.lane, Group.ofArea]
  simp [tab, hk]
  exact zeros_not_prunable _ _ _

theorem wit_SavedBlocksComeBack :
    restoring1.noteHeads.block? 2 = some saved1 ∧ restoring1.launch? 1 = some (launch1 rec2) ∧ restoring1.context? 7 = some context8
    ∧ saved1.st = .saved ∧ restoring1.noteHeads.members saved1 = [saved1]
    ∧ ((List.range 4).any fun i => (restoring1.noteHeads.queue i).contains (.block 2)) = true ∧ restoring1.admitting = true
    ∧ restoring1.noteHeads.nextItem.map (·.2) = some (.block 2) ∧ restoring1.mem.poisoned 0x20_0000 rec2.imageBytes = false
    ∧ restoring1.noteHeads.placeOn rec2 1 [] = some [0] ∧ context8.used + rec2.estimate 0 ≤ context8.budget
    ∧ (∀ g ∈ (saved1.ofImage rec2 (restoring1.mem.read (restoring1.keySerial context8.key) 0x20_0000 rec2.imageBytes)).groups,
      ∀ k, k < 32 → (g.lane k).ben = false) :=
  ⟨rfl, rfl, rfl, rfl, rfl, by decide, by decide, by decide, by decide, by decide, by decide, restored_threads⟩

theorem wit_awake :
    let b := { block2 g1 with st := .saved }
    let s := queued1 (.launch 1) [b]
    ((List.range 4).any fun i => (s.noteHeads.queue i).contains (.block 2)) = false ∧ s.noteHeads.awake b = true := by decide

/-- A TLD of one row of 32 bytes through th0, and it when its effect has been applied or its source has come. -/
def tld1 (started : Bool) (got : List (Nat × List Byte)) : MtxOp :=
  { id := 5, core := 0, blk := 2, kind := .tld, insns := [(0, 4)], lanes := [(0, 1)], fpc := 8, flags := 0, slotA := ⟨7, 0, 0, 0, false, 0⟩,
    slotB := ⟨7, 0, 0, 0, false, 0⟩, sh := [1, 0, 32, 32] ++ List.replicate 12 0, first := 0, d := 0, handle := some 0, h := handle1 0,
    rows := [], clear := 0, latches := [], started := started, asked := [], got := got, newTh := none, aBytes := [], writes := [],
    raises := [] }

def queueOf (o : MtxOp) : State := { state3 g1 with mtxq := [o] }
def heads1 (q : MtxOp) : Bool := q.core == 0 && (q.tldReady || q.tldWhole [q])

theorem wit_MatrixQueueEvents :
    let w := tld1 false [(0x1_0000 / 32, List.replicate 32 7)]
    (queueOf (tld1 false [])).mtxq.find? heads1 = some (tld1 false []) ∧ (tld1 false []).tldReady = true
    ∧ (tld1 false []).needs = [0x1_0000 / 32]
    ∧ ((queueOf { w with asked := [0x1_0000 / 32] }).mtxq.find? heads1 = some { w with asked := [0x1_0000 / 32] }
      ∧ ({ w with asked := [0x1_0000 / 32] } : MtxOp).tldReady = false ∧ bitOf w.flags 0 = false)
    ∧ (∀ o ∈ w.srcRows, (o.getD 64) < w.h.rows)
    ∧ ((queueOf (tld1 true [])).mtxq.find? fun q => q.core == 0 && q.started) = some (tld1 true [])
    ∧ (state3 g1).block? 2 = some (block3 g1) := by
  refine ⟨by decide, by decide, by decide, by decide, by decide, by decide, rfl⟩

/-- Two groups whose lane 0 waits at the latch before the MMA of mma1, with gang values and reuse latches. -/
def latched (gang : W16) (u : Option Reuse) : Group :=
  { g1 with
    gang := gang
    reuse := u
    lanes := tab 32 fun l => if l = 0 then { lane1 0 0 0 0 with st := .latch } else { Lane.zero with st := .exited false } }

def ganged (x y : Group) : State :=
  { idle { block3 g1 with groups := [x, y] } with
    mem := (State.reset.place 3 ((encode (.mma mma1)).map fun w => leBytes 8 w.toNat).flatten).mem }

/-- What a test finds of the lane sets at the latch of a block's two groups, if both wait there. -/
def atLatch (s : State) (f : Block → LRec → Waiting → Waiting → Bool) : Bool :=
  match s.block? 2, s.launch? 1 with
  | some b, some l => match s.waitingAt b l 0, s.waitingAt b l 1 with
    | some v, some w => f b l.lr v w
    | _, _ => false
  | _, _ => false

def cleanWaiting (b : Block) (r : LRec) (v : Waiting) : Bool :=
  ((mmaCauses b r v.shadow (r.slot v.m.x.slot.toNat) (mmaSlotB b r v.m.x) (mmaHandle b v.m.x) v.sh 2).all fun q => !q.1)
    && (((b.group v.m.grp).aCauses v.m.x.a.vnum v.m.x.slot.toNat (v.sh.getD 1 0)).all fun q => !q.1)
    && !aPast v.m.x.a.vnum (r.slot v.m.x.slot.toNat) (v.sh.getD 1 0)

theorem wit_GangsIssueTogether :
    gangList 3 = [0, 1] ∧ (latched 3 none).atLatch ≠ 0 ∧ (latched 3 none).gang = 3
    ∧ (let s := ganged (latched 3 none) (latched 3 none)
      atLatch s (fun b r v w => v.agrees w && w.agrees w && cleanWaiting b r v && cleanWaiting b r w && v.ok && w.ok && !v.pend && !w.pend) = true
      ∧ s.mtxFull 0 = false ∧ s.shadowBusy 2 = false ∧ s.latchBusy 2 0 = false ∧ s.latchBusy 2 1 = false ∧ s.abufQuiet 2 0 = true
      ∧ s.abufQuiet 2 1 = true) := by decide

theorem wit_gangs_differ :
    atLatch (ganged (latched 3 none) (latched 7 none)) (fun b r v w => !w.agrees v && cleanWaiting b r v && cleanWaiting b r w) = true := by
  decide

/-- One member holds a latch that was read from another run. -/
theorem wit_gangs_raise :
    atLatch (ganged (latched 3 (some ⟨0, 0, 32, Vector.replicate 32 []⟩)) (latched 3 none)) (fun b r v w =>
      v.agrees w && decide (v.causes b r 2 = [.reuseMismatch] ∧ w.causes b r 2 = [] ∧ 30 ≤ Cause.reuseMismatch.rank
        ∧ Cause.reuseMismatch.rank ≤ 41)) = true := by decide

theorem wit_gangMemberExited :
    let gone : Group := { Group.zero with lanes := Vector.replicate 32 { Lane.zero with st := .exited false } }
    gone.live = 0 ∧ (latched 3 none).gang = 3 ∧ (latched 3 none).atLatch ≠ 0
    ∧ (match (ganged (latched 3 none) gone).block? 2, (ganged (latched 3 none) gone).launch? 1 with
      | some b, some l => ((ganged (latched 3 none) gone).waitingAt b l 0).isSome
      | _, _ => false) = true := by decide

/-- A command in the queue of the copy engine, or of the retrieval unit with the family hf2 and a registration. -/
def commands (k : Cmd) : State := { state3 g1 with cmds := [k] }

def hx1 (op : Nat) : Cmd :=
  { cmd1 with
    queue := 5
    dws := #v[BitVec.ofNat 64 (0x1_0000_0300 + op), 0x100, 0x100, 2, 0, 0x3000, 9, 0]
    todo := []
    regs := [(0, 3)]
    hf := #v[fam1 false 0x1_8000, Vector.replicate 8 0] }

theorem wit_EngineCommandsRun :
    let k := { cmd1 with started := false }
    (commands k).cmd? 5 = some k ∧ k.started = false
    ∧ (∀ q ∈ (commands k).cmds, q.id < 5 → q.inQueue k.core k.queue = true → q.started = true ∧ k.w.fence = false)
    ∧ (k.queue = 5 ∨ k.w.dspace ≠ 0 ∨ (commands k).peersOf k k.todo = []) :=
  ⟨rfl, rfl, by decide, by decide⟩

/-- A page table whose block 0 is mapped to the memory of device 3: what a command to a peer meets. -/
def mapped3 (k : Cmd) : State :=
  { commands k with
    mem := (commands k).mem.write 0 0x2000 (leBytes 8 (placedLeaf (2 ^ 46 + 3 * 2 ^ 42)))
    fab := { Fabric.zero with wiring := 16 } }

theorem wit_peer_command :
    let k := { cmd1 with started := false }
    k.queue ≠ 5 ∧ k.w.dspace = 0 ∧ (mapped3 k).peersOf k k.todo = [3] ∧ 3 < (mapped3 k).fab.pace.size ∧ 3 ∉ (mapped3 k).fab.lost := by
  decide

/-- A COPY of four bytes of global memory and a REDCOPY of F32 sums. -/
def copying (op : Nat) : Cmd := { cmd1 with dws := (#v[BitVec.ofNat 64 (0x1_0000_0300 + op), 0x40, 0x80, 4, 0, 0x3000, 9, 0] : Dws) }

/-- What a piece of a command over global memory meets: a source and a destination in local memory, outside every region. -/
def reaches (k : Cmd) : Bool :=
  let s := commands k
  match s.reach k 0x40 4 false, s.engineRead k 0x40 4 with
  | (.at _ _, _), .ok (bs, s2) =>
    match (s2.modCmd k.id fun q => q.take 0 0 4).reach k 0x80 4 true with
    | (.at pa _, t) => decide (targetOf pa = .mem pa ∧ (t.regionAt k.ctx 0x80) = none ∧ bs.length = 4) && !t.mem.poisoned pa 4
    | _ => false
  | _, _ => false

theorem wit_global_pieces :
    ((copying 1).w.sspace = 0 ∧ (copying 1).w.dspace = 0 ∧ (copying 1).w.op = 1 ∧ (commands (copying 1)).mayMove (copying 1) 0 0 4 = true
      ∧ reaches (copying 1) = true)
    ∧ ((copying 3).w.op = 3 ∧ (commands (copying 3)).mayMove (copying 3) 0 0 4 = true ∧ reaches (copying 3) = true
      ∧ (commands (copying 3)).peerOf 7 0x80 = none) := by decide

theorem wit_fill :
    let s := commands cmd1
    cmd1.w.op = 2 ∧ s.mayMove cmd1 0 0 4 = true ∧ cmd1.w.dspace = 0
    ∧ (match (s.modCmd 5 fun q => q.take 0 0 4).reach cmd1 0x2000 4 true with
      | (.at pa _, t) => decide (targetOf pa = .mem pa) && decide (t.mem = s.mem) && decide (t.regions = s.regions)
      | _ => false) = true
    ∧ (s.regionAt 7 0x2000) = none := by decide

/-- A COPY from the scratchpad to a local buffer, and a REDCOPY of F32 sums. -/
theorem wit_copy :
    let k := { cmd1 with dws := (#v[0x1_0000_5301, 0x40, 0x80, 4, 0, 0x3000, 9, 0] : Dws) }
    let r := { cmd1 with dws := (#v[0x1_0080_5303, 0x40, 0x80, 4, 0, 0x3000, 9, 0] : Dws) }
    ((commands k).mayMove k 0 0 4 = true ∧ k.w.sspace = 1 ∧ k.w.dspace = 1 ∧ k.w.op = 1)
    ∧ ((commands r).mayMove r 0 0 4 = true ∧ r.w.sspace = 1 ∧ r.w.dspace = 1 ∧ r.w.op = 3)
    ∧ (commands r).peerOf 7 (r.w.dst + 0 * r.w.dpitch + 0) = none ∧ (commands k).block? 2 = some (block3 g1) :=
  ⟨by decide, by decide, by decide, rfl⟩

theorem wit_hx :
    let fs := [fam1 false 0x1_8000]
    (hx1 0x11).hxReady 0x11 = true ∧ (hx1 0x10).hxReady 0x10 = true ∧ (hx1 0x12).hxReady 0x12 = true
    ∧ (hx1 0x11).fams = some fs ∧ (commands (hx1 0x11)).region? 1 0 = some (region1 2 0) := by decide

/-- The list of ids and the codes can be read; an id of 0 is in range of the family, which reserves lines for it; and there
are records for the lines. -/
theorem wit_hx_ids :
    (match (commands (hx1 0x11)).engineRead (hx1 0x11) 0x200 4 with
      | .ok (ib, _) => decide (ofLe ib < (fam1 false 0x1_8000).maxid)
      | .error _ => false) = true
    ∧ (match (commands (hx1 0x10)).engineRead (hx1 0x10) 0x100 8 with
      | .ok _ => true
      | .error _ => false) = true := by decide

theorem wit_hx_reserve :
    (match Lines.reserve ⟨commands (hx1 0x10), region1 2 0, 3⟩ [fam1 false 0x1_8000] 0 (some [0]) with
      | .ok w => (w.r.charge (region1 2 0)).isSome
      | .error _ => false) = true := by decide

theorem wit_hx_clear :
    (match Lines.reserve ⟨commands (hx1 0x11), region1 2 0, 3⟩ [fam1 false 0x1_8000] 0 none with
      | .ok w => (w.r.charge (region1 2 0)).isSome
      | .error _ => false) = true := by decide

theorem wit_hx_merge :
    Lines.mergePoison ⟨commands (hx1 0x12), region1 2 0, 3⟩ (fam1 false 0x1_8000) = none
    ∧ ((Lines.merge ⟨commands (hx1 0x12), region1 2 0, 3⟩ (fam1 false 0x1_8000)).bind fun x =>
      x.1.r.charge (region1 2 0)).isSome = true := by decide

theorem wit_completion :
    let k := { cmd1 with todo := [] }
    let w := { k with dws := (#v[0x1_0800_0302, 0x55, 0x2000, 4, 0, 0x300, 9, 0] : Dws) }
    let f := { k with fail := some (.engineAbort, 0x2000, 0) }
    let n := { k with dws := (#v[0x1_0000_0002, 0x55, 0x2000, 4, 0, 0, 9, 0] : Dws) }
    let v := { k with dws := fill2, regs := [(0, 3)] }
    (n.finished = true ∧ n.w.mode ≠ 3) ∧ (v.finished = true ∧ v.w.mode ≠ 3 ∧ (commands v).region? 1 0 = some (region1 2 0))
    ∧ (k.finished = true ∧ k.w.mode = 3 ∧ k.w.wspace ≠ 1 ∧ k.wordWait = false
      ∧ (match (commands k).reach k k.w.ctarget 8 true with
        | (.at pa _, u) => decide (targetOf pa = .mem pa) && !u.inRegion k.ctx k.w.ctarget pa
        | _ => false) = true)
    ∧ (launch1 rec1).stopping = none ∧ (w.finished = true ∧ w.w.mode = 3 ∧ w.w.wspace = 1 ∧ w.wordWait = false)
    ∧ (block3 g1).st ≠ .saved
    ∧ f.fail = some (.engineAbort, 0x2000, 0) ∧ g1.live ≠ 0 ∧ g1.epoch = f.epoch ∧ g1.epoch ≠ ({ f with epoch := 1 } : Cmd).epoch
    ∧ (launch1 rec1).engErr = none
    ∧ inMask f.threads 0 = true ∧ inMask g1.live 0 = true ∧ (g1.lane 0).helper = false := by decide

/-- An incumbent that is bound as a minimum of numbers of kind 0, and an offer that improves it and one that does not. -/
def bound1 (v : W64) : Incumbent := ⟨v, 1, 0⟩

def task1 : TaskRec := ⟨#v[0, 0, 0, 0, 0, 0, 0, 0], 0, 0⟩

/-- A block of a launch with tasks: records on chip and in the ring, a free slot. -/
def tasked (share : List TaskRec) (ring : List (Nat × Nat)) : Block :=
  { block2 g1 with q := { TaskQ.zero with share := share, ring := ring, due := [0] } }

theorem wit_TaskQueueEvents :
    let s : State := { idle (block2 g1) with ics := Vector.replicate 16 (bound1 5), offers := [⟨4, 0, 9, 0, false, 900⟩, ⟨5, 0, 3, 0, false, 900⟩] }
    (s.offers.find? fun q => q.id == 4) = some ⟨4, 0, 9, 0, false, 900⟩ ∧ (bound1 5).bound = true
    ∧ (bound1 5).improves 3 5 = true ∧ (bound1 5).improves 9 5 = false ∧ (bound1 5).mirror = false
    ∧ (State.reset.ics[0]?.getD Incumbent.zero).bound = false := by decide

theorem wit_copyUpdate :
    let s : State := { idle (block2 g1) with cores := Vector.replicate 144 { CoreSt.zero with pending := [(0, bound1 9, 900)] } }
    (((s.cores[143]?.getD CoreSt.zero).pending.find? fun x => x.1 == 0)) = some (0, bound1 9, 900) := by decide

theorem wit_records :
    let b := tasked [task1] [(7, 0)]
    let s := idle b
    s.block? 2 = some b ∧ s.launch? 1 = some (launch1 rec1) ∧ b.q.ring = [(7, 0)] ∧ b.q.share.length < 128 ∧ b.st = .resident
    ∧ (s.liveRecords (tasked [task1] []) (launch1 rec1)).filter (fun r => r.entry == 0) = [task1] ∧ task1.time + 512 ≤ s.cc := by
  refine ⟨rfl, rfl, rfl, ?_⟩; decide

theorem wit_taskGroupFormation :
    let b := tasked [task1] []
    let s := idle b
    ((List.range b.groups.length).find? fun i => (b.group i).isFree) = some 1 ∧ b.q.refill = false ∧ (launch1 rec1).lr.tasks = true
    ∧ readySet b.q (s.liveRecords b (launch1 rec1)) = some [task1] ∧ b.q.ring = [] ∧ b.q.formed ≠ some s.cc
    ∧ (∀ t ∈ s.liveRecords b (launch1 rec1), t.time + 512 ≤ s.cc → t.index ∈ b.q.due) ∧ s.recordDominated 0 task1 = false := by decide

theorem wit_threadCancellation :
    let y := { Lane.zero with ben := true, bnd := 30 }
    let g := group2 y { Lane.zero with st := .exited false }
    let s : State := { idle (block2 g) with cores := Vector.replicate 144 { CoreSt.zero with ic := Vector.replicate 16 (bound1 9) } }
    s.cur = [] ∧ (g.lane 0).ben = true ∧ (g.lane 0).exited = false ∧ (g.lane 0).shield = 0
    ∧ (s.icCopy 0 (g.lane 0).bndIc.toNat).dominates (g.lane 0).bnd = true := by decide


/-- A trailer of given low bits can be built for any content, and one whose CRC fails. -/
theorem trailer_bits (c : BitVec 24) (b : Byte) : (c ++ b : W32).extractLsb' 0 8 = b ∧ (c ++ b : W32).extractLsb' 8 24 = c := by
  have h : ∀ i, (c ++ b : W32).getLsbD i = if i < 8 then b.getLsbD i else c.getLsbD (i - 8) := fun i => BitVec.getLsbD_append
  constructor
  · ext i hi
    rw [BitVec.getElem_extractLsb', h, if_pos (by omega), BitVec.getLsbD_eq_getElem (by omega)]
    simp
  · ext i hi
    rw [BitVec.getElem_extractLsb', h, if_neg (by omega), show 8 + i - 8 = i by omega, BitVec.getLsbD_eq_getElem (by omega)]

theorem trailer_exists (content : List Byte) (b : Byte) :
    ∃ t : W32, Config.crc24 content (t.extractLsb' 0 8) = t.extractLsb' 8 24 ∧ t.extractLsb' 0 8 = b :=
  ⟨Config.crc24 content b ++ b, by rw [(trailer_bits _ _).1, (trailer_bits _ _).2], (trailer_bits _ _).1⟩

theorem trailer_fails (content : List Byte) : ∃ t : W32, Config.crc24 content (t.extractLsb' 0 8) ≠ t.extractLsb' 8 24 := by
  refine ⟨~~~Config.crc24 content 0 ++ (0 : Byte), ?_⟩
  rw [(trailer_bits _ _).1, (trailer_bits _ _).2]
  intro h
  have := congrArg (fun x => x.getLsbD 0) h
  simp at this

/-- A packet of no bytes for this device, and ports of which one has sent two that are not acknowledged. -/
def packet1 (type : Nat) (payload : List Byte) : Packet :=
  ⟨0, type, false, false, false, 1, 0, payload.length, 0, 0, 0x1000, 0, 0, false, 0, 0, 0, 0, payload⟩

def slot1 : KeySlot := ⟨1, 2, 3, true⟩

def port1 (state : Nat) : Port :=
  { Port.zero with
    state := state
    peer := some (1, 1)
    send := Vector.replicate 2 slot1
    recv := Vector.replicate 2 slot1
    txseq := 2
    replayB := [packet1 1 [1], { packet1 1 [2] with seq := 1 }]
    unackRx := 3
    retrain := true
    keysOk := true }

def linked (x : Port) : State :=
  { State.reset with
    cc := 100000
    time := 100000
    fab := { Fabric.zero with wiring := 16, ports := Vector.replicate 16 x } }

/-- What the last sixteen bytes of a sealed beat give back. -/
theorem tag_of (tag : BitVec 128) (head tail : List Byte) :
    BitVec.ofNat 128 (ofLe (((head ++ leBytes 16 tag.toNat ++ tail).drop head.length).take 16)) = tag := by
  have h : (((head ++ leBytes 16 tag.toNat ++ tail).drop head.length).take 16) = leBytes 16 tag.toNat := by
    rw [List.append_assoc, List.drop_left]; rfl
  rw [h, ofLe_leBytes]
  apply BitVec.eq_of_toNat_eq
  have := tag.isLt
  rw [BitVec.toNat_ofNat, Nat.mod_mod_of_dvd _ (by decide)]
  omega

/-- The beat of a READ of no bytes for this device, with the tag that the cipher gives it; and that of an ACK. -/
def read1 : List Byte := List.replicate 32 0 ++ leBytes 16 (Config.gcmTag 1 2 0 (List.replicate 32 0) []).toNat ++ List.replicate 16 0
def ackHead : List Byte := leBytes 2 1 ++ List.replicate 46 0
def ack1 : List Byte := ackHead ++ leBytes 16 (Config.gcmTag 1 2 0 ackHead []).toNat ++ []

theorem wit_BeatsAreReceived :
    let x := { port1 2 with unackRx := 0 }
    let s := linked x
    let h := Packet.ofHeader read1
    let key := x.recvKey (if h.kidx then 1 else 0)
    (s.port 15).state = 2 ∧ x.up = true ∧ x.frame = 0 ∧ x.beats = [] ∧ read1.length = 64
    ∧ h.type = 0 ∧ h.len ≤ 2048 ∧ key.valid = true ∧ h.seq = x.rxseq ∧ h.ddev = s.fab.device
    ∧ s.fab.lost.contains h.sdev = false ∧ h.orig = false ∧ x.unackRx < 15
    ∧ gcmOpen key.key key.salt h.ctr (read1.take 32) ((read1.drop 32).take 0) (BitVec.ofNat 128 (ofLe ((read1.drop (32 + 0)).take 16)))
      = some []
    ∧ ∃ t : W32, Config.crc24 read1 (t.extractLsb' 0 8) = t.extractLsb' 8 24 ∧ t.extractLsb' 0 8 = 1 := by
  refine ⟨by decide, by decide, by decide, by decide, rfl, rfl, ?_, rfl, rfl, rfl, rfl, rfl, by decide, ?_, trailer_exists _ _⟩
  · exact Nat.zero_le _
  · have h := tag_of (Config.gcmTag 1 2 0 (List.replicate 32 0) []) (List.replicate 32 0) (List.replicate 16 0)
    exact if_pos h

theorem wit_ack_beat :
    let key := (port1 2).recvKey (ofLe ((ack1.drop 10).take 1) % 2)
    key.valid = true ∧ ofLe (ack1.take 2) = 1
    ∧ (gcmOpen key.key key.salt (BitVec.ofNat 64 (ofLe ((ack1.drop 2).take 8))) (ack1.take 48) []
        (BitVec.ofNat 128 (ofLe ((ack1.drop 48).take 16)))).isSome = true
    ∧ ∃ t : W32, Config.crc24 ack1 (t.extractLsb' 0 8) = t.extractLsb' 8 24 ∧ t.extractLsb' 0 8 = 2 := by
  refine ⟨rfl, rfl, ?_, trailer_exists _ _⟩
  have h := tag_of (Config.gcmTag 1 2 0 ackHead []) ackHead []
  have e : gcmOpen 1 2 0 ackHead [] (BitVec.ofNat 128 (ofLe ((ack1.drop 48).take 16))) = some [] := if_pos h
  exact congrArg Option.isSome e

theorem wit_beats (content : List Byte) :
    (∃ t : W32, Config.crc24 content (t.extractLsb' 0 8) ≠ t.extractLsb' 8 24)
    ∧ ∀ b : Byte, ∃ t : W32, Config.crc24 content (t.extractLsb' 0 8) = t.extractLsb' 8 24 ∧ t.extractLsb' 0 8 = b :=
  ⟨trailer_fails content, trailer_exists content⟩

theorem wit_laneFailure :
    (linked (port1 2)).port 15 = port1 2 ∧ (port1 2).up = true ∧ 15 ∈ (port1 2).activeLanes ∧ 17 < 18
    ∧ (port1 2).spare.findIdx? (· == 15) = none := ⟨rfl, by decide, by decide, by decide, by decide⟩

theorem wit_LinksAcknowledgeReplayAndTrain :
    (port1 2).newAck 0 = true ∧ (port1 2).newAck 1 = true ∧ (port1 2).newAck 2 = false
    ∧ (port1 2).up = true ∧ (port1 2).replayB ≠ [] ∧ (port1 2).pickSlot = some 0
    ∧ (port1 2).sinceAck + micros 2 ≤ (linked (port1 2)).time
    ∧ 0 < (port1 2).unackRx ∧ (port1 2).rxAt + 256 ≤ (linked (port1 2)).cc ∧ (port1 2).origUn = 0 := by decide

/-- A replay owed on the port itself, and one of a DOWN port owed on the port of its pair. -/
theorem wit_owed :
    let x := { port1 2 with owed := (port1 2).replayB }
    let s : State := { linked (port1 2) with fab := { Fabric.zero with
      wiring := 8, ports := (Vector.replicate 16 (port1 2)).set 1 { port1 5 with owed := (port1 5).replayB } } }
    x.owed = packet1 1 [1] :: [{ packet1 1 [2] with seq := 1 }]
    ∧ (s.port 1).owed = packet1 1 [1] :: [{ packet1 1 [2] with seq := 1 }] ∧ (s.port 9).owed = []
    ∧ (s.port 9).hasRoom (packet1 1 [1]) = true
    ∧ (s.lenders 9).find? (fun r => !(s.port r).owed.isEmpty) = some 1 := by
  refine ⟨rfl, rfl, rfl, by decide, ?_⟩; decide

theorem wit_training :
    (port1 1).state = 1 ∧ (port1 1).pickSlot.isSome = true ∧ ((port1 1).recvKey 1).valid = true ∧ (port1 1).keysOk = true
    ∧ ({ port1 1 with since := 99999 } : Port).since + micros 8 > (linked (port1 1)).time ∧ (port1 1).width = some 2
    ∧ (port1 1).retrain = true ∧ (port1 1).since + micros 8 ≤ (linked (port1 1)).time
    ∧ ({ port1 1 with failed := 0x100 } : Port).width = some 3 ∧ ({ port1 1 with failed := 1 } : Port).width = some 4 := by decide

theorem wit_origReplayTimeout :
    let s := linked (port1 5)
    (s.port 1).state = 5 ∧ (s.port 1).replayB ≠ [] ∧ (s.port 1).origAt + micros 4 ≤ s.time := by decide

theorem wit_peerLossTimeout :
    let s : State := { linked Port.zero with fab := { Fabric.zero with wiring := 16, noRoute := [(15, 83000)] } }
    s.noteRoutes.fab.noRoute.find? (fun r => r.1 == 15) = some (15, 83000) ∧ 83000 + micros 10 ≤ s.time
    ∧ (∀ t ∈ s.fab.txns, t.dev ≠ 15) ∧ 15 ≠ s.fab.device ∧ s.fab.present 15 = true ∧ s.fab.lost.contains 15 = false := by decide

/-- A store that has been sent to device 15, which is lost. -/
theorem wit_fencePeerTimeout :
    let r := { load1 (.accepted 9) with kind := .store }
    let e := { entry2 .write true true with pa := 2 ^ 46 + 15 * 2 ^ 42 }
    let s : State := { busy [r] [e] with fab := { Fabric.zero with wiring := 16, lost := [15] } }
    s.lostWaits 2 0 = [(r, 15)] ∧ r.fetches = false ∧ r.kind ≠ .cctl := by decide

/-- A packet at the head of port 15's receive buffer, from device 1, with a window for it. -/
def received (q : Packet) : State :=
  let s := linked { port1 2 with inbox := [q] }
  { s with fab := { s.fab with windows := Vector.replicate 64 ⟨true, 1, true, 0, 0, 0x1_0000⟩ } }

theorem wit_PacketsArePerformed :
    let q := { packet1 0 [] with len := 128 }
    (received q).port 15 = { port1 2 with inbox := [q] } ∧ q.sdev < 16 ∧ (received q).holdsInbound = false
    ∧ (received q).notFirst 15 q = false ∧ q.type = 0
    ∧ ((received q).modPort 15 fun x => { x with inbox := [] }.stops).windowFor q 128 false = some ⟨true, 1, true, 0, 0, 0x1_0000⟩
    ∧ ((received q).modPort 15 fun x => { x with inbox := [] }.stops).windowFor { q with sdev := 2 } 128 false = none
    ∧ (received q).mem.poisoned q.addr q.len = false := by
  refine ⟨rfl, ?_⟩; decide

theorem wit_write_and_atom :
    let q := packet1 1 [1, 2, 3, 4]
    let a := packet1 2 [1, 2, 3, 4]
    (q.type = 1 ∧ q.masked = false
      ∧ ((received q).modPort 15 fun x => { x with inbox := [] }.stops).windowFor q 4 true = some ⟨true, 1, true, 0, 0, 0x1_0000⟩
      ∧ (received q).mem.wf = true)
    ∧ (a.type = 2
      ∧ ((received a).modPort 15 fun x => { x with inbox := [] }.stops).windowFor a a.atomSize true = some ⟨true, 1, true, 0, 0, 0x1_0000⟩
      ∧ (received a).mem.poisoned a.addr a.atomSize = false ∧ a.operands a.atomSize = [(none, 0x0403_0201)]) := by decide

theorem wit_mirror_and_oack :
    let c : Incumbent := ⟨5, 0x21, 0⟩
    let q := packet1 9 ([3, 0x21] ++ List.replicate 14 0)
    let o := packet1 10 (leBytes 4 4 ++ leBytes 4 1)
    (q.type = 9 ∧ (q.payload.getD 0 0).toNat % 16 = 3 ∧ c.bound = true ∧ c.mirror = true ∧ c.cfg = q.payload.getD 1 0)
    ∧ (o.type = 10 ∧ (((received o).modPort 15 fun x => { x with inbox := [] }.stops).port (ofLe (o.payload.take 4) % 16)).newAck
      (BitVec.ofNat 32 (ofLe ((o.payload.drop 4).take 4))) = true) := by decide

/-- A load that awaits transaction 0 with device 1, and a reply to it. -/
theorem wit_RepliesResolveTransactions :
    let r := load1 (.remote 9 0)
    let e := { entry2 .read true true with pa := 2 ^ 46 + 2 ^ 42 }
    let x : Txn := ⟨0, 1, 0, 0, 128, false, .entry 9⟩
    let q := packet1 3 (List.replicate 128 7)
    let s : State := { busy [r] [e] with
      fab := { Fabric.zero with txns := [x], ports := Vector.replicate 16 { port1 2 with inbox := [q] } } }
    let u := (s.modPort 15 fun x => { x with inbox := [] }.stops).endTxn x
    (s.port 15).inbox = [q] ∧ s.holdsInbound = false ∧ s.notFirst 15 q = false ∧ s.txnOf q = some x ∧ x.waiter = .entry e.id
    ∧ (u.entries.find? fun f => f.id == e.id) = some e ∧ u.awaiting e.id x.tag = [r]
    ∧ (packet1 6 [4]).payload.getD 0 0 ≠ 6 := by decide

/-- The 64 bytes of a command with identifier 5, and the command. -/
def entryBytes (op ctx a0 a1 a2 a3 : Nat) : List Byte :=
  leBytes 2 op ++ leBytes 2 0 ++ leBytes 4 5 ++ leBytes 2 ctx ++ leBytes 6 0 ++ leBytes 8 a0 ++ leBytes 8 a1 ++ leBytes 8 a2 ++ leBytes 8 a3
    ++ leBytes 8 0x40_0000 ++ leBytes 8 0x2_0000

def cmdOf (op ctx a0 a1 a2 a3 : Nat) : HostCmd :=
  ⟨0, op, 0, 5, ctx, false, BitVec.ofNat 64 a0, BitVec.ofNat 64 a1, BitVec.ofNat 64 a2, BitVec.ofNat 64 a3, 0x40_0000, 0x2_0000⟩

/-- Function 0 with one command in a ring of sixteen. -/
def fn1 : Fn := { Fn.zero with tdisp := 2, sqcfg := 0x24, sqtail := 1 }

def hosted (s : State) (op ctx a0 a1 a2 a3 : Nat) : State :=
  { s with
    host := Memory.write [] 0 (entryBytes op ctx a0 a1 a2 a3)
    fw := { s.fw with fns := (Vector.replicate 65 Fn.zero).set 0 fn1 } }

/-- A memory that maps page 0, context 7 and a key, and no launch. -/
def empty1 : State :=
  { State.reset with
    nextId := 10
    mem := (State.reset.place 0 []).mem
    fw := { State.reset.fw with contexts := [context7], keys := [⟨1, 1, 5⟩] } }

/-- Rings of both sizes, and a queue with nothing to serve or with a command. -/
theorem wit_HostRegistersAct :
    (fn1.events = [] ∧ ringOn fn1.cqcfg = false ∧ ringOn Fn.zero.sqcfg = false)
    ∧ ((0x24 : W64).getLsbD 5 = true ∧ ((0x24 : W64).extractLsb' 0 5).toNat = 4 ∧ ((0x30 : W64).extractLsb' 0 5).toNat = 16)
    ∧ ((State.reset.fn 64).pending = false ∧ ((hosted empty1 9 7 0 0 0 0).fn 0).pending = true
      ∧ ((hosted empty1 9 7 0 0 0 0).oldest 0).op = 9) := by decide

/-- A command of each opcode is served, and denied when its context is none of its function's. -/
theorem wit_ContextCommandsAct : ∀ k : Fin 18,
    (hosted empty1 (k + 1) 7 0 0 0 0).serves (cmdOf (k + 1) 7 0 0 0 0) (k + 1) = true := by decide

theorem wit_denied :
    (∀ k : Fin 18, ((hosted empty1 (k + 1) 7 0 0 0 0).passCmd 0).deny (cmdOf (k + 1) 7 0 0 0 0) .owner = none
      ∧ ((hosted empty1 (k + 1) 7 0 0 0 0).passCmd 0).deny (cmdOf (k + 1) 7 0 0 0 0) .pf0 = none)
    ∧ ((hosted empty1 3 9 0 0 0 0).passCmd 0).deny (cmdOf 3 9 0 0 0 0) .owner = some 7
    ∧ ((hosted empty1 3 7 0 0 0 0).passCmd 0).deny { cmdOf 3 7 0 0 0 0 with res0 := true } .any = some 6
    ∧ ((hosted empty1 10 7 0 0 0 0).passCmd 1).deny { cmdOf 10 7 0 0 0 0 with fn := 1 } .pf0 = some 7 := by decide

/-- CTX_CREATE with tables at 0x3000, no version store, an image store of 128 KiB at 0x400000 and a budget of 100. -/
theorem wit_ctxCreate :
    let c := cmdOf 2 0 0x3000 0 0 100
    let s := hosted empty1 2 0 0x3000 0 0 100
    let k := HostCtx c 0
    s.serves c 2 = true ∧ s.context? 0 = none ∧ k.imageLen ≠ 0 ∧ k.imageLen % 2 ^ 16 = 0 ∧ s.mayName c.fn k.key = true
    ∧ k.root % 4096 = 0 ∧ isLocal k.root 4096 = true
    ∧ (∀ e ∈ k.stores, e.1 % 2 ^ 16 = 0 ∧ isLocal e.1 e.2 = true ∧ ∀ q ∈ s.fw.contexts, ∀ f ∈ q.stores,
      e.1 + e.2 ≤ f.1 ∨ f.1 + f.2 ≤ e.1)
    ∧ s.budgets 256 + k.budget ≤ budgetLimit := by decide

theorem wit_energySet_and_ctxDestroy :
    (empty1.context? 7 = some context7 ∧ context7.fn = 0 ∧ budgetLimit < empty1.budgets 7 + 0xFFFF_FFFF
      ∧ empty1.budgets 7 + 22_000_000 ≤ budgetLimit)
    ∧ (∀ l ∈ empty1.fw.launches, l.ctx ≠ 7) ∧ (∃ l ∈ ({ empty1 with fw := { empty1.fw with launches := [launch1 rec1] } } : State).fw.launches, l.ctx = 7)
    ∧ ((cmdOf 5 7 0 0 4 0).a2.toNat % 4 = 0 ∧ (cmdOf 5 7 0 0 4 0).a2 ≠ 0) := by
  refine ⟨by decide, by decide, ⟨launch1 rec1, by simp, rfl⟩, by decide⟩

/-- A COPY of 132 bytes to virtual address 0x1040 at its first line, and one at its last; from device memory or to it. -/
def copy1 (done : Nat) : HostJob := ⟨4, cmdOf 5 7 0x2000 0x1040 132 0, done, false, none⟩

theorem wit_CopiesMoveBytes :
    let s : State := { empty1 with fw := { empty1.fw with jobs := [copy1 0] } }
    s.job? 4 = some (copy1 0) ∧ (copy1 0).cmd.op = 5 ∧ (copy1 0).wait = false ∧ 0x1040 + 64 ≤ 2 ^ 52 ∧ (∀ i ∈ s.fw.jobs, i.cmd = (copy1 0).cmd → i = copy1 0)
    ∧ s.context? 7 = some context7 ∧ min (132 - 0) (128 - 0x1040 % 128) = 64 ∧ s.walk context7 0x1040 = .ok 0x200_0000 0 true true
    ∧ targetOf (Xlat.addr 0x200_0000 0x1040) = .mem (Xlat.addr 0x200_0000 0x1040)
    ∧ s.inRegion 7 0x1040 (Xlat.addr 0x200_0000 0x1040) = false ∧ s.regionAt 7 0x1040 = none
    ∧ s.mem.poisoned (Xlat.addr 0x200_0000 0x1040) 64 = false ∧ 0 + 64 < 132 ∧ 132 ≤ 64 + 68 := by decide

theorem wit_LaunchCommandsAct :
    let s := hosted empty1 6 7 0x1000 0 0 0
    s.serves (cmdOf 6 7 0x1000 0 0 0) 6 = true ∧ (cmdOf 6 7 0x1000 0 0 0).a0.toNat % 64 = 0 ∧ bitOf (cmdOf 6 7 0x1000 0 0 0).flags 0 = false
    ∧ (s.passCmd 0).deny (cmdOf 6 7 0x1000 0 0 0) .owner = none
    ∧ s.fw.jobs = []
    ∧ (let u := (s.passCmd 0).addJob (cmdOf 6 7 0x1000 0 0 0)
      (u.readAll context7 0x1000 512).isSome = true ∧ u.lineNeeded context7 0x1000 512 = none
      ∧ (u.readAll context7 (2 ^ 40) 512).isNone = true) := by
  refine ⟨?_, ?_, ?_, ?_, rfl, ?_, ?_, ?_⟩ <;> decide

/-- A record of one stage of energy 5 whose code is two words at 0x3000, with the digest of those words. -/
def record1 : List Byte :=
  leBytes 4 0x5A39_4C52 ++ leBytes 4 1 ++ leBytes 8 0x3000 ++ leBytes 4 16 ++ [1, 1, 1, 0] ++ leBytes 4 1 ++ leBytes 2 1 ++ leBytes 2 1
    ++ [128, 64, 0, 0] ++ List.replicate 28 0 ++ leBytes 4 0 ++ leBytes 4 5 ++ List.replicate 0x178 0
    ++ leBytes 64 0x2dba58c4db281103d63cdfb80c3dcc7d0bf5fc1d50d4bd9006477a7dd4de50c7e8573dd363f05ef00bd4b7910cc644e7f3bc9e8383ca8d2691f0d2f76ad68506

/-- That code in memory. -/
def coded1 : State := { empty1 with mem := empty1.mem.write 0 0x200_3000 (leBytes 8 (0xFF * 2 ^ 56)) }

/-- What the validation of that record reads lies at this device. -/
theorem wit_launch_reads :
    ∀ x ∈ coded1.launchReads context7 record1, coded1.lineNeeded context7 x.1 x.2 = none := by decide

theorem wit_launch_valid :
    record1.length = 512
    ∧ (match coded1.validate context7 10 record1 with
      | .ok (_, r) => r.stages == 1 && decide (r.estimate 0 = 5 ∧ r.estimate 0 ≤ context7.budget ∧ r.prio < 4 ∧ r.blocks ≠ 0)
      | .error _ => false) = true
    ∧ (match coded1.validate context7 10 (List.replicate 512 0) with
      | .ok _ => false
      | .error code => code == 1) = true := by decide

/-- The block of launch 1 on its core, and a report of a page of context 7. -/
def running1 (b : Block) : State :=
  { empty1 with
    blocks := [b]
    reports := [⟨3, 7, 0, 0, none⟩]
    fw := { empty1.fw with launches := [launch1 rec1] } }

theorem wit_preempt :
    let s := hosted (running1 (block2 g1)) 7 7 1 0 0 0
    s.serves (cmdOf 7 7 1 0 0 0) 7 = true ∧ s.launch? 1 = some (launch1 rec1) ∧ (launch1 rec1).killed = none ∧ s.block? 2 = some (block2 g1)
    ∧ (s.blocks.find? fun q => q.launch == 1 && q.lin == 0) = some (block2 g1) ∧ 0 < rec1.blocks := by
  refine ⟨by decide, rfl, rfl, rfl, rfl, by decide⟩

theorem wit_faultResolve :
    let s := hosted (running1 (block2 g1)) 8 7 3 0 0 0
    s.serves (cmdOf 8 7 3 0 0 0) 8 = true ∧ (s.reports.find? fun q => q.id == 3 && q.ctx == 7).isSome = true := by decide

/-- KEY_ALLOC for function 64 with identifier 1 in use; KEY_FREE of a key that no context uses and of one that a context
does. -/
theorem wit_DeviceCommandsAct :
    let s := hosted empty1 10 0 64 0 0 0
    (s.serves (cmdOf 10 0 64 0 0 0) 10 = true ∧ (∀ j ∈ s.fw.jobs, j.cmd ≠ cmdOf 10 0 64 0 0 0) ∧ s.fw.ckptBy = none
      ∧ (∀ q ∈ s.fw.keys, q.id ≠ 2) ∧ ∃ q ∈ s.fw.keys, q.id = 1)
    ∧ (∀ x ∈ empty1.fw.contexts, x.key ≠ 1)
    ∧ ∃ x ∈ ({ empty1 with fw := { empty1.fw with contexts := [{ context7 with key := 1 }] } } : State).fw.contexts, x.key = 1 := by
  refine ⟨⟨by decide, by decide, rfl, by decide, ⟨⟨1, 1, 5⟩, by decide, rfl⟩⟩, by decide, ⟨{ context7 with key := 1 }, by decide, rfl⟩⟩

/-- LINK_KEY into slot 1 of port 15, to send under (0x2F) or to receive under (0x3F); into the slot in use; a window at the
greatest number. -/
theorem wit_linkKey_and_window :
    let s := hosted { empty1 with fab := (linked (port1 2)).fab } 12 0 0x2F 0 0 0
    s.serves (cmdOf 12 0 0x2F 0 0 0) 12 = true ∧ (s.port (bitsOf 0x2F 3 0)).state ≠ 1 ∧ bitOf 0x2F 4 = false ∧ bitOf 0x3F 4 = true
    ∧ bitsOf 0x2F 5 5 = 1 ∧ (s.port 15).slot ≠ 1 ∧ (s.port 15).slot = bitsOf 0x0F 5 5 ∧ ((s.port 15).sendKey 0).valid = true
    ∧ bitsOf 0x3F 5 0 = 63 ∧ (0x1_0000 % 2 ^ 16 = 0 ∧ 0x1_0000 ≤ 0x2_0000) ∧ bitsOf 0x003F 25 16 = 0
    ∧ (0 ≠ 15 ∧ s.fab.device ≠ 15 ∧ s.fab.present 15 = true) := by decide

/-- A checkpoint at rest, and one in the safe tier before any context has been created. -/
def ckpt1 : Ckpt :=
  ⟨empty1.mem, [context7], [], [], Vector.replicate 4 [], [], [], State.reset.ics, [], [], [], [], [], [], []⟩

theorem wit_checkpoint_and_restore :
    let s : State := { empty1 with fw := { empty1.fw with quiesce := true, ckptBy := some (0, 5) } }
    let r := hosted { State.reset with ckpt := some ckpt1 } 18 0 0 0 0 0
    (s.fw.ckptBy = some (0, 5) ∧ s.atRest = true ∧ ∀ j ∈ s.fw.jobs, j.cmd ≠ cmdOf 17 0 0 0 0 0)
    ∧ (r.serves (cmdOf 18 0 0 0 0 0) 18 = true ∧ r.ckpt = some ckpt1 ∧ r.fw.created = false) := by
  refine ⟨⟨rfl, by decide, by decide⟩, ⟨by decide, rfl, rfl⟩⟩

/-- A MAINT that has started, ports that are quiet; a power-up of the last device of sixteen. -/
theorem wit_DeviceEventsAct :
    let j : HostJob := ⟨4, cmdOf 16 0 0 0 0 0, 0, false, none⟩
    let s : State := { empty1 with fw := { empty1.fw with jobs := [j] } }
    (s.fw.jobs.find? fun q => decide (q.cmd = j.cmd)) = some j ∧ j.cmd.op = 16 ∧ s.quietPorts = true
    ∧ (16 = 16 ∧ 15 < 16) ∧ s.fw.powered = true ∧ s.fw.quiesce = false := by decide

/-- A worn core of the last die, with its four spares. -/
theorem wit_retire :
    let s : State := { empty1 with cores := State.reset.cores.setIfInBounds 143 { CoreSt.first 143 with worn := true } }
    s.fw.spares[143 / 36]? = some (36 :: [37, 38, 39]) ∧ (s.cores[143]?.getD CoreSt.zero).worn = true := by decide

theorem wit_interfaces :
    (∀ f : Fin 64, (State.reset.fn (f + 1)).tdisp = 0)
    ∧ (∀ n : Fin 4, ((State.reset.setTdisp 64 n).fn 64).tdisp = n)
    ∧ (∀ l ∈ empty1.fw.launches, ∀ k, empty1.context? l.ctx = some k → k.fn ≠ 1) := by
  refine ⟨by decide, by decide, ?_⟩
  intro l h; simp [empty1, State.reset, Firmware.zero] at h

theorem wit_windows_and_heat :
    let s : State := { empty1 with time := 17_000_000, fw := { empty1.fw with thermal := some ([3], 0) } }
    empty1.fw.window + micros 10000 ≤ ({ empty1 with time := 17_000_000 } : State).time
    ∧ empty1.fw.thermal = none ∧ s.fw.thermal = some ([3], 0) ∧ 0 + micros 1000 ≤ s.time := by decide

theorem wit_errors :
    let s := running1 (block2 g1)
    ((s.cores[143]?.getD CoreSt.zero).outSvc = false ∧ ∀ b ∈ s.blocks, b.core ≠ 143)
    ∧ (s.block? 2 = some (block2 g1) ∧ (s.blocks.filter fun q => q.core == 0 && q.onCore) = [block2 g1] ∧ (block2 g1).onCore = true)
    ∧ (running1 { block2 g1 with st := .saved }).block? 2 = some { block2 g1 with st := .saved }
    ∧ memTop - 1 < memTop ∧ s.fw.memspare.contains 0 = false := by
  refine ⟨by decide, ⟨rfl, rfl, by decide⟩, rfl, by decide, by decide⟩

/-! ### Witnesses for the machine as a whole -/

/-- An SADD placed after its header, and no lane set. -/
theorem wit_StepRunsTheDecodedInstruction :
    let s := State.reset.place 0 (leBytes 8 0x1000_8280_81FF_3000)
    (match s.ctx? with
      | some c => match s.context? c.l.ctx with
        | some k =>
          (match s.translate c.b.core k (c.l.codeVa c.iss.pc.toNat) with
            | (.ok base _ _ _, _) => let pa := Xlat.addr base (c.l.codeVa c.iss.pc.toNat)
              decide (targetOf pa = .mem pa) && !s.mem.poisoned pa 8
                && decide (BitVec.ofNat 64 (ofLe (s.mem.read 0 pa 8)) = 0x1000_8280_81FF_3000#64)
            | _ => false)
          && (s.regionAt k.id (c.l.codeVa c.iss.pc.toNat)).isNone
          && decide (c.iss.pc.toNat + 8 ≤ c.l.lr.codeSize ∧ c.iss.hdr.toNat + 8 * (c.iss.cnt + 2) ≤ c.l.lr.codeSize)
          && decide (c.r.violating (c.uses s (.sadd ⟨0, 0, .s 2, .s 0, .s 1, .none, 3, 0, 0, 0⟩)) c.iss.lanes = 0)
          && !c.r.awaits (c.uses s (.sadd ⟨0, 0, .s 2, .s 0, .s 1, .none, 3, 0, 0, 0⟩)) c.iss.lanes
          && (s.unread? c.b c.l c.iss.grp (c.targets (.sadd ⟨0, 0, .s 2, .s 0, .s 1, .none, 3, 0, 0, 0⟩))).isNone
        | none => false
      | none => false) = true
    ∧ isTForm (opOf 0x1000_8280_81FF_3000) = false ∧ classOfOp (opOf 0x1000_8280_81FF_3000) = 0
    ∧ s.cur ≠ [] ∧ State.reset.cur = [] ∧ State.reset.releaseDue = none ∧ State.reset.agenda = [] := by decide

/-- A release at a meeting address that is due, and an MMA whose run ends past the file. -/
theorem wit_due_and_past :
    (idle (block2 held1)).cur = [] ∧ (idle (block2 held1)).releaseDue = some (.meetingRelease 2 0 8)
    ∧ (ctx3 g1).runsPast (.mma { mma1 with a := .v 124 }) = true := by decide

theorem wit_fetchHead :
    ((State.reset.place 0 (leBytes 8 0x1000_8280_81FF_3000)).fetchHead).1 = some (.sadd ⟨0, 0, .s 2, .s 0, .s 1, .none, 3, 0, 0, 0⟩) := by
  decide

/-- A well-formed instruction of one word and one of five. -/
theorem wit_DecodeAndEncodeAgree :
    ((opcode (.sadd ⟨63, 7, .s 63, .s 0, .s 1, .none, 3, 0, 0, 0⟩)).isSome = true
      ∧ encodingCause (.sadd ⟨0, 0, .s 2, .s 0, .s 1, .none, 3, 0, 0, 0⟩) = none)
    ∧ ((opcode (.mma mma1)).isSome = true ∧ encodingCause (.mma mma1) = none ∧ (encode (.mma mma1)).length = 5) := by decide

theorem wit_StepsKeepMemoryCanonical :
    State.reset.canonical ∧ ∃ t, step { State.reset with agenda := [.lockInterface 64] } = .next t :=
  ⟨⟨by decide, by decide, by simp [State.reset]⟩, ⟨_, rfl⟩⟩

theorem wit_RegisterInstructionsWriteNoMemory :
    s1.ctx? = some c1 ∧ opcode (.nop ⟨0, 0, .none, .none, .none, .none, 0, 0, 0, 0⟩) = some 0 := ⟨ctx_s1, by decide⟩
end Sys2Proof.Tests
end

section
/-!
SUPPORT. Events of the device as a whole (R8, R312, R313, R320, R322, R355, R356, R360 to R367): what posting an event,
updating a core and dropping contexts leave as they were, and each event's course; O53 is assembled from these.
-/

namespace Sys2Proof.Machine

/-! ### Posted events and the report of wear -/

/-- A posted entry is written to its function's ring, or changes that function's registers. -/
theorem State.post_cases (s : State) (f : Nat) (e : CEntry) :
    s.post f e = s.ringWrite f e ∨ ∃ x : Fn, s.post f e = s.setFn f x := by
  unfold State.post
  dsimp only
  split_ifs
  · exact .inl rfl
  · exact .inr ⟨_, rfl⟩
  · exact .inr ⟨_, rfl⟩

@[simp] theorem State.post_blocks (s : State) (f : Nat) (e : CEntry) : (s.post f e).blocks = s.blocks := by
  rcases s.post_cases f e with h | ⟨x, h⟩
  · rw [h, State.ringWrite_blocks]
  · rw [h, State.setFn_blocks]

@[simp] theorem State.post_mem (s : State) (f : Nat) (e : CEntry) : (s.post f e).mem = s.mem := by
  rcases s.post_cases f e with h | ⟨x, h⟩
  · rw [h, State.ringWrite_mem]
  · rw [h, State.setFn_mem]

@[simp] theorem State.post_cores (s : State) (f : Nat) (e : CEntry) : (s.post f e).cores = s.cores := by
  rcases s.post_cases f e with h | ⟨x, h⟩
  · rw [h, State.ringWrite_cores]
  · rw [h, State.setFn_cores]

@[simp] theorem State.wearEvent_blocks (s : State) (old : Nat) : (s.wearEvent old).blocks = s.blocks := by
  unfold State.wearEvent
  split <;> simp

@[simp] theorem State.wearEvent_mem (s : State) (old : Nat) : (s.wearEvent old).mem = s.mem := by
  unfold State.wearEvent
  split <;> simp

@[simp] theorem State.wearEvent_cores (s : State) (old : Nat) : (s.wearEvent old).cores = s.cores := by
  unfold State.wearEvent
  split <;> simp

/-! ### The record of a core -/

@[simp] theorem State.modCore_blocks (s : State) (k : Nat) (f : CoreSt → CoreSt) : (s.modCore k f).blocks = s.blocks := rfl
@[simp] theorem State.modCore_mem (s : State) (k : Nat) (f : CoreSt → CoreSt) : (s.modCore k f).mem = s.mem := rfl
@[simp] theorem State.modCore_fw (s : State) (k : Nat) (f : CoreSt → CoreSt) : (s.modCore k f).fw = s.fw := rfl

theorem State.modCore_core_same (s : State) (k : Nat) (f : CoreSt → CoreSt) (hk : k < 144) :
    (s.modCore k f).cores[k]? = some (f (s.cores[k]?.getD CoreSt.zero)) := by
  simp [State.modCore, hk]

/-- The record of a core after an update of it, as the events read it. -/
theorem State.modCore_core (s : State) (k : Nat) (f : CoreSt → CoreSt) (hk : k < 144) :
    (s.modCore k f).cores[k]?.getD CoreSt.zero = f (s.cores[k]?.getD CoreSt.zero) := by
  rw [State.modCore_core_same s k f hk, Option.getD_some]

theorem State.modCore_core_other (s : State) (k n : Nat) (f : CoreSt → CoreSt) (hn : n ≠ k) :
    (s.modCore k f).cores[n]? = s.cores[n]? :=
  Vector.getElem?_setIfInBounds_ne (Ne.symm hn)

@[simp] theorem State.noteWarn_blocks (s : State) : s.noteWarn.blocks = s.blocks := rfl
@[simp] theorem State.noteWarn_mem (s : State) : s.noteWarn.mem = s.mem := rfl
@[simp] theorem State.noteWarn_cores (s : State) : s.noteWarn.cores = s.cores := rfl

theorem State.coreOpen_of_outSvc {s : State} {k : Nat} (h : (s.cores[k]?.getD CoreSt.zero).outSvc = true) :
    s.coreOpen k = false := by
  simp [State.coreOpen, h]

theorem State.coreOpen_of_worn {s : State} {k : Nat} (h : (s.cores[k]?.getD CoreSt.zero).worn = true) :
    s.coreOpen k = false := by
  simp [State.coreOpen, h]

/-- No block of a core that has none is singled out by a further condition. -/
theorem filter_core_eq_nil {bs : List Block} {core : Nat} (h : ∀ b ∈ bs, b.core ≠ core) (p : Block → Bool) :
    (bs.filter fun b => b.core == core && p b) = [] :=
  List.filter_eq_nil_iff.2 fun b hb => by simp [h b hb]

/-! ### Maintenance (R8, R366) -/

/-- A MAINT that has started does its work once the ports are quiet. -/
theorem exec_maint_started {s : State} {j : HostJob} (hj : (s.fw.jobs.find? fun q => decide (q.cmd = j.cmd)) = some j)
    (hop : j.cmd.op = 16) (hq : s.quietPorts = true) :
    exec (.maint j.cmd) s = .next ((s.maintain (bitsOf j.cmd.a0.toNat 15 0)).endJob j 0) := by
  rw [exec_maint]
  unfold execMaint
  simp [hop, hj, hq]

/-- The number of a worn or lost core maps to the first spare of its die, which is then no spare any more. -/
theorem State.retire_of_spare {s : State} {core p : Nat} {rest : List Nat}
    (hs : s.fw.spares[core / 36]? = some (p :: rest))
    (hx : (s.cores[core]?.getD CoreSt.zero).worn = true ∨ (s.cores[core]?.getD CoreSt.zero).outSvc = true) :
    s.retire core = ({ s with fw := { s.fw with spares := s.fw.spares.setIfInBounds (core / 36) rest } } : State).modCore core
      fun x => { x with ecount := 0, outSvc := false, worn := false, phys := p } := by
  have hbad : ((s.cores[core]?.getD CoreSt.zero).worn || (s.cores[core]?.getD CoreSt.zero).outSvc) = true := by
    simpa using hx
  unfold State.retire dieOf
  simp only [hbad, hs, Option.getD_some]

/-- What the retirement of a core leaves: the core open on its new physical core, and every other core as it was. -/
theorem State.retire_spec {s : State} {core p : Nat} {rest : List Nat} (hc : core < 144)
    (hs : s.fw.spares[core / 36]? = some (p :: rest))
    (hx : (s.cores[core]?.getD CoreSt.zero).worn = true ∨ (s.cores[core]?.getD CoreSt.zero).outSvc = true) :
    (s.retire core).cores[core]? =
        some { s.cores[core]?.getD CoreSt.zero with ecount := 0, outSvc := false, worn := false, phys := p }
      ∧ (s.retire core).fw.spares[core / 36]? = some rest ∧ (s.retire core).coreOpen core = true
      ∧ (∀ k, k ≠ core → (s.retire core).cores[k]? = s.cores[k]?) ∧ (s.retire core).blocks = s.blocks := by
  have hd : core / 36 < 4 := by omega
  rw [State.retire_of_spare hs hx]
  have hcore := State.modCore_core_same
    { s with fw := { s.fw with spares := s.fw.spares.setIfInBounds (core / 36) rest } } core
    (fun x => { x with ecount := 0, outSvc := false, worn := false, phys := p }) hc
  refine ⟨hcore, ?_, ?_, fun k hk => State.modCore_core_other _ _ _ _ hk, rfl⟩
  · simp [hd]
  · unfold State.coreOpen
    rw [hcore]
    rfl

/-! ### Power (R355, R367) -/

/-- At power-up the state is that of reset but for the safe tier and the host's memory, and the wired ports train. -/
theorem exec_powerUp_wired (s : State) {d w : Nat} (h : (w = 16 ∧ d < 16) ∨ (w = 8 ∧ d < 8) ∨ (w = 0 ∧ d < 16)) :
    ∃ t : State, exec (.powerUp d w) s = .next t ∧ t.ckpt = s.ckpt ∧ t.host = s.host ∧ t.mem = State.reset.mem ∧ t.cc = 0
      ∧ t.blocks = [] ∧ t.fw.contexts = [] ∧ t.fab.device = d
      ∧ ∀ n, n < 16 → (t.port n).peer = wiredPeer w d n ∧ ((t.port n).state = 1 ↔ (wiredPeer w d n).isSome = true) := by
  have hw : ¬(¬(w = 16 ∧ d < 16) ∧ ¬(w = 8 ∧ d < 8) ∧ ¬(w = 0 ∧ d < 16)) := by omega
  refine ⟨_, (exec_powerUp d w s).trans (if_neg hw), rfl, rfl, rfl, rfl, rfl, rfl, rfl, fun n hn => ?_⟩
  simp only [State.port, tab_getElem?, hn, if_true, Option.getD_some]
  cases wiredPeer w d n with
  | none => simp [Port.zero]
  | some q => simp

/-- The power-fail input begins a checkpoint when none runs. -/
theorem exec_powerFail_begins {s : State} (hp : s.fw.powered = true) (hq : s.fw.quiesce = false) :
    exec .powerFail s = .next (State.quiesceAll { s with fw := { s.fw with powered := false } } none) := by
  rw [exec_powerFail]
  unfold execPowerFail
  simp [hp, hq]

/-! ### Device assignment (R355, R356) -/

/-- A virtual function is in the state that its register gives. -/
theorem State.vfIn_eq (s : State) {fn : Nat} (h1 : 1 ≤ fn) (h2 : fn < 65) (st : Nat) :
    s.vfIn fn st = decide ((s.fn fn).tdisp = st) := by
  simp [State.vfIn, h1, h2]

section VirtualFunction

variable (s : State) {fn : Nat} (h1 : 1 ≤ fn) (h2 : fn < 65)
include h1 h2

theorem exec_lockInterface_unlocked (h : (s.fn fn).tdisp = 0) :
    exec (.lockInterface fn) s = .next (if s.ideKeyed fn = true then s.setTdisp fn 1 else s) := by
  rw [exec_lockInterface]
  unfold execLockInterface
  simp only [s.vfIn_eq h1 h2, h, decide_true, Bool.true_and]
  split <;> rfl

theorem exec_startInterface_locked (h : (s.fn fn).tdisp = 1) :
    exec (.startInterface fn) s = .next (s.setTdisp fn 2) := by
  rw [exec_startInterface]
  unfold execStartInterface
  simp [s.vfIn_eq h1 h2, h]

theorem exec_stopInterface_locked (h : (s.fn fn).tdisp = 1) :
    exec (.stopInterface fn) s = .next (s.setTdisp fn 0) := by
  rw [exec_stopInterface]
  unfold execStopInterface
  simp [s.vfIn_eq h1 h2, h]

/-- From RUN and from ERROR. -/
theorem exec_stopInterface_running (hl : 2 ≤ (s.fn fn).tdisp) (hu : (s.fn fn).tdisp ≤ 3) :
    exec (.stopInterface fn) s = .next ((s.teardown fn).setTdisp fn 0) := by
  have h : (s.fn fn).tdisp = 2 ∨ (s.fn fn).tdisp = 3 := by omega
  rw [exec_stopInterface]
  unfold execStopInterface
  simp [s.vfIn_eq h1 h2, h]

/-- From CONFIG_LOCKED and from RUN. -/
theorem exec_interfaceError_held (hl : 1 ≤ (s.fn fn).tdisp) (hu : (s.fn fn).tdisp ≤ 2) :
    exec (.interfaceError fn) s = .next ((s.teardown fn).setTdisp fn 3) := by
  have h : (s.fn fn).tdisp = 1 ∨ (s.fn fn).tdisp = 2 := by omega
  rw [exec_interfaceError]
  unfold execInterfaceError
  simp [s.vfIn_eq h1 h2, h]

end VirtualFunction

/-- The state without the contexts of a list. -/
def State.dropContexts (s : State) (ks : List Context) : State := ks.foldl (fun (t : State) c => t.dropContext c.id) s

@[simp] theorem State.dropContexts_nil (s : State) : s.dropContexts [] = s := rfl
@[simp] theorem State.dropContexts_cons (s : State) (c : Context) (ks : List Context) :
    s.dropContexts (c :: ks) = (s.dropContext c.id).dropContexts ks := rfl

@[simp] theorem State.dropContexts_blocks (s : State) (ks : List Context) : (s.dropContexts ks).blocks = s.blocks := by
  induction ks generalizing s with
  | nil => rfl
  | cons c ks ih => exact ih _

@[simp] theorem State.dropContexts_mem (s : State) (ks : List Context) : (s.dropContexts ks).mem = s.mem := by
  induction ks generalizing s with
  | nil => rfl
  | cons c ks ih => exact ih _

theorem State.mem_dropContexts_contexts (s : State) (ks : List Context) (k : Context) :
    k ∈ (s.dropContexts ks).fw.contexts ↔ k ∈ s.fw.contexts ∧ ∀ c ∈ ks, k.id ≠ c.id := by
  induction ks generalizing s with
  | nil => simp
  | cons c ks ih => simp [ih, State.dropContext, and_assoc]

/-- A teardown of a function that has no launch ends none: its contexts, keys and commands go. -/
theorem State.teardown_of_no_launch {s : State} {fn : Nat}
    (h : ∀ l ∈ s.fw.launches, ∀ k, s.context? l.ctx = some k → k.fn ≠ fn) :
    let t := s.dropContexts (s.fw.contexts.filter fun c => c.fn == fn)
    s.teardown fn = { t with fw := { t.fw with
      keys := t.fw.keys.filter fun k => k.fn != fn
      jobs := t.fw.jobs.filter fun j => j.cmd.fn != fn
      lines := [] } } := by
  dsimp only [State.teardown]
  rw [List.filter_eq_nil_iff (l := s.fw.launches).2 ?_]
  · rfl
  · intro l hl
    cases hk : s.context? l.ctx with
    | none => simp
    | some k => simpa using h l hl k hk

theorem State.teardown_spec {s : State} {fn : Nat} (h : ∀ l ∈ s.fw.launches, ∀ k, s.context? l.ctx = some k → k.fn ≠ fn) :
    (∀ k ∈ (s.teardown fn).fw.contexts, k.fn ≠ fn) ∧ (∀ k ∈ (s.teardown fn).fw.keys, k.fn ≠ fn)
      ∧ (s.teardown fn).blocks = s.blocks ∧ (s.teardown fn).mem = s.mem := by
  rw [State.teardown_of_no_launch h]
  refine ⟨fun k hk hfn => ?_, fun k hk => ?_, State.dropContexts_blocks _ _, State.dropContexts_mem _ _⟩
  · obtain ⟨hmem, hother⟩ := (State.mem_dropContexts_contexts _ _ _).1 hk
    exact hother k (by simp [hmem, hfn]) rfl
  · simpa using (List.mem_filter.1 hk).2

/-! ### Energy and heat (R362, R363) -/

theorem exec_energyWindowStart_due {s : State} (h : s.fw.window + micros 10000 ≤ s.time) :
    ∃ t : State, exec .energyWindowStart s = .next t ∧ t.fw.window = s.fw.window + micros 10000 ∧ (∀ b ∈ t.blocks, b.credit = 0)
      ∧ (∀ k ∈ t.fw.contexts, k.used = 0 ∧ k.nextBud = none)
      ∧ t.fw.contexts.map (·.budget) = s.fw.contexts.map (fun k => k.nextBud.getD k.budget) ∧ t.mem = s.mem := by
  refine ⟨_, (exec_energyWindowStart s).trans (if_pos h), rfl, ?credit, ?budgets, ?taken, rfl⟩
  case credit => simp
  case budgets => simp
  case taken => simp

theorem exec_thermalEmergency_first {s : State} {die : Nat} (hd : die < 4) (h : s.fw.thermal = none) :
    exec (.thermalEmergency die) s = .next (State.post { s with fw := { s.fw with thermal := some ([die], s.time) } } 0
      (event 0 0x21 [BitVec.ofNat 64 die, 1])) := by
  rw [exec_thermalEmergency]
  unfold execThermalEmergency
  rw [if_neg (by omega), h]

theorem exec_thermalRecovery_due {s : State} {die since : Nat} {ds : List Nat} (h : s.fw.thermal = some (die :: ds, since))
    (hs : since + micros 1000 ≤ s.time) :
    exec .thermalRecovery s = .next (State.post { s with fw := { s.fw with thermal := none } } 0
      (event 0 0x21 [BitVec.ofNat 64 die, 0])) := by
  rw [exec_thermalRecovery]
  unfold execThermalRecovery
  simp [h, hs]

/-! ### Errors and wear (R312, R313, R320, R322, R365) -/

theorem exec_coreLost_in_service {s : State} {core : Nat} (hc : core < 144)
    (hin : (s.cores[core]?.getD CoreSt.zero).outSvc = false) :
    exec (.coreLost core) s = .next (State.wearEvent
      (State.modCore ((s.blocks.filter fun b => b.core == core && b.onCore).foldl
        (fun (t : State) b => if (t.block? b.id).isSome then t.kill b.launch b.id 0 0x306 else t) s) core
        fun x => { x with outSvc := true }) s.sparestat) := by
  rw [exec_coreLost]
  unfold execCoreLost
  rw [if_neg (by rw [hin]; simp [hc])]

/-- The loss of a core with no block takes it out of service. -/
theorem exec_coreLost_empty {s : State} {core : Nat} (hc : core < 144)
    (hin : (s.cores[core]?.getD CoreSt.zero).outSvc = false) (hb : ∀ b ∈ s.blocks, b.core ≠ core) :
    ∃ t : State, exec (.coreLost core) s = .next t ∧ (t.cores[core]?.getD CoreSt.zero).outSvc = true
      ∧ t.coreOpen core = false ∧ t.blocks = s.blocks ∧ t.mem = s.mem := by
  rw [exec_coreLost_in_service hc hin, filter_core_eq_nil hb, List.foldl_nil]
  have hout : (((s.modCore core fun x => { x with outSvc := true }).wearEvent s.sparestat).cores[core]?.getD
      CoreSt.zero).outSvc = true := by
    rw [State.wearEvent_cores, State.modCore_core _ _ _ hc]
  exact ⟨_, rfl, hout, State.coreOpen_of_outSvc hout, by simp, by simp⟩

/-- The loss of a core with one block kills the block's launch. -/
theorem exec_coreLost_one {s : State} {core : Nat} (hc : core < 144) {b : Block}
    (hin : (s.cores[core]?.getD CoreSt.zero).outSvc = false) (hid : s.block? b.id = some b)
    (hb : (s.blocks.filter fun q => q.core == core && q.onCore) = [b]) :
    exec (.coreLost core) s = .next (State.wearEvent ((s.kill b.launch b.id 0 0x306).modCore core fun x =>
      { x with outSvc := true }) s.sparestat) := by
  rw [exec_coreLost_in_service hc hin, hb]
  simp [hid]

theorem State.corrected_eq (s : State) (core : Nat) :
    let t := ({ s with free := s.free + 1 } : State).modCore core fun x => { x with ecount := x.ecount + 1 }
    s.corrected core = (if (Config.freeWord s.free).getLsbD 0 then { t with fw := { t.fw with l2ways := t.fw.l2ways + 1 } }
      else t).wearEvent s.sparestat := rfl

/-- A corrected error counts, whether or not a spare way of the L2 comes into service. -/
theorem State.corrected_spec (s : State) {core : Nat} (hc : core < 144) :
    ((s.corrected core).cores[core]?.getD CoreSt.zero).ecount = (s.cores[core]?.getD CoreSt.zero).ecount + 1
      ∧ (s.corrected core).blocks = s.blocks ∧ (s.corrected core).mem = s.mem := by
  have hcore := State.modCore_core { s with free := s.free + 1 } core (fun x => { x with ecount := x.ecount + 1 }) hc
  rw [State.corrected_eq, State.wearEvent_cores, State.wearEvent_blocks, State.wearEvent_mem]
  split <;> exact ⟨congrArg CoreSt.ecount hcore, rfl, rfl⟩

theorem exec_correctedError_core (s : State) {core : Nat} (hc : core < 144) :
    exec (.correctedError core) s = .next (s.corrected core) := by
  rw [exec_correctedError]
  exact if_neg (by omega)

theorem execWearThreshold_core (s : State) {core : Nat} (hc : core < 144) :
    execWearThreshold core s = .next ((s.blocks.filter fun b => b.core == core && b.running).foldl
      (fun (t : State) b => t.beginSave b false)
      ((s.modCore core fun x => { x with worn := true }).noteWarn.wearEvent s.sparestat)) :=
  if_neg (Nat.not_le.2 hc)

/-- The wear of a core with no block saves none. -/
theorem exec_wearThreshold_empty {s : State} {core : Nat} (hc : core < 144) (hb : ∀ b ∈ s.blocks, b.core ≠ core) :
    exec (.wearThreshold core) s =
      .next ((s.modCore core fun x => { x with worn := true }).noteWarn.wearEvent s.sparestat) := by
  rw [exec_wearThreshold, execWearThreshold_core s hc, filter_core_eq_nil hb, List.foldl_nil]

/-- A worn core with no block is closed from now on. -/
theorem exec_wearThreshold_closes {s : State} {core : Nat} (hc : core < 144) (hb : ∀ b ∈ s.blocks, b.core ≠ core) :
    ∃ t : State, exec (.wearThreshold core) s = .next t ∧ (t.cores[core]?.getD CoreSt.zero).worn = true
      ∧ t.coreOpen core = false ∧ t.blocks = s.blocks ∧ t.mem = s.mem := by
  have hworn : (((s.modCore core fun x => { x with worn := true }).noteWarn.wearEvent s.sparestat).cores[core]?.getD
      CoreSt.zero).worn = true := by
    rw [State.wearEvent_cores, State.noteWarn_cores, State.modCore_core _ _ _ hc]
  exact ⟨_, exec_wearThreshold_empty hc hb, hworn, State.coreOpen_of_worn hworn, by simp, by simp⟩

/-- A range that begins in a poisoned sector is poisoned. -/
theorem Store.poisoned_of_mem {m : Store} {pa n : Nat} (h : pa / 32 ∈ m.poison) (hn : 1 ≤ n) : m.poisoned pa n = true := by
  have hlast : pa / 32 ≤ (pa + n - 1) / 32 := Nat.div_le_div_right (by omega)
  exact List.any_eq_true.2 ⟨_, h, by simpa using hlast⟩

theorem exec_uncorrectableError_sector (s : State) {pa : Nat} (h : pa < memTop) :
    ∃ t : State, exec (.uncorrectableError (.sector pa)) s = .next t ∧ (∀ n, 1 ≤ n → t.mem.poisoned pa n = true)
      ∧ t.mem.cells = s.mem.cells ∧ t.blocks = s.blocks := by
  refine ⟨_, (exec_uncorrectableError _ s).trans (if_neg (by omega)), fun n hn => Store.poisoned_of_mem ?_ hn, rfl, rfl⟩
  dsimp only
  split
  · rename_i hin
    simpa using hin
  · simp

theorem exec_uncorrectableError_blockState {s : State} {b : Block} (hid : s.block? b.id = some b) (hon : b.onCore = true) :
    exec (.uncorrectableError (.blockState b.id)) s = .next (s.kill b.launch b.id 0 0x303) := by
  rw [exec_uncorrectableError]
  simp [execUncorrectableError, hid, hon]

/-- The report names the first poisoned sector of the image. -/
theorem exec_uncorrectableError_image {s : State} {b : Block} {l : Launch} {pa : Nat} (hid : s.block? b.id = some b)
    (hst : b.st = .saved) (hl : s.launch? b.launch = some l) (hpa : s.mem.poisonAt b.imageAt l.lr.imageBytes = some pa) :
    exec (.uncorrectableError (.image b.id)) s =
      .next (State.kill { s with free := s.free + 1 } b.launch b.id 0 0x305 [BitVec.ofNat 64 pa]) := by
  rw [exec_uncorrectableError]
  simp [execUncorrectableError, hid, Block.running, hst, State.killImage, hl, hpa]

theorem exec_memoryLaneFailure_first {s : State} {link : Nat} (h : s.fw.memspare.contains link = false) :
    exec (.memoryLaneFailure link) s =
      .next (State.wearEvent { s with fw := { s.fw with memspare := s.fw.memspare ++ [link] } } s.sparestat) := by
  rw [exec_memoryLaneFailure]
  unfold execMemoryLaneFailure
  rw [if_neg (by rw [h]; simp)]

/-! ### The statement -/

/-- Settles O53: each event's course above, in the order of the statement. -/
theorem deviceEventsAct : Obligations.DeviceEventsAct := by
  intro s
  refine ⟨fun j hj hop hq => exec_maint_started hj hop hq, fun core p rest hc hs hx => State.retire_spec hc hs hx,
    fun d w h => exec_powerUp_wired s h, exec_powerFail_begins, fun fn h1 h2 => ?assignment, fun msg => ⟨_, rfl, rfl⟩,
    exec_energyWindowStart_due, fun die hd h => ?entry, fun die ds since h hs => ?exit, fun core hc => ?cores,
    fun pa h => exec_uncorrectableError_sector s h, fun b hid => ?blocks,
    fun link h => ⟨_, exec_memoryLaneFailure_first h, rfl, rfl, rfl⟩⟩
  case assignment =>
    exact ⟨exec_lockInterface_unlocked s h1 h2, exec_startInterface_locked s h1 h2, exec_stopInterface_locked s h1 h2,
      exec_stopInterface_running s h1 h2, exec_interfaceError_held s h1 h2, State.teardown_spec⟩
  case entry =>
    exact ⟨{ s with fw := { s.fw with thermal := some ([die], s.time) } }, rfl, rfl, rfl, exec_thermalEmergency_first hd h⟩
  case exit =>
    exact ⟨{ s with fw := { s.fw with thermal := none } }, rfl, rfl, rfl, exec_thermalRecovery_due h hs⟩
  case cores =>
    exact ⟨exec_coreLost_empty hc, fun b hin hid hb => exec_coreLost_one hc hin hid hb,
      ⟨_, exec_correctedError_core s hc, s.corrected_spec hc⟩, exec_wearThreshold_closes hc⟩
  case blocks =>
    exact ⟨exec_uncorrectableError_blockState hid,
      fun hst l hl pa hpa => exec_uncorrectableError_image hid hst hl hpa⟩

end Sys2Proof.Machine
end

section
/-!
SUPPORT. Encoding (R24 to R36): operand codes, the words of each form and the opcode map, each direction of each said once;
O56 and O55 are assembled from these.
-/

namespace Sys2Proof

/-! ### Operand codes (R26) -/

@[simp] theorem Opnd.ofCode_code (o : Opnd) : Opnd.ofCode o.code = o := by
  cases o with
  | v i => revert i; decide
  | s i => revert i; decide
  | p i => revert i; decide
  | th i => revert i; decide
  | hf i => revert i; decide
  | ic i => revert i; decide
  | reserved i => revert i; decide
  | bnd | mt | gang | laneid | homelane | stage | none => rfl

@[simp] theorem Opnd.code_ofCode (c : BitVec 8) : (Opnd.ofCode c).code = c := by
  revert c; decide

/-! ### The words of each form (R27): a word is its fields side by side, so a field reads back alone, and adjoining fields
of one word join to a longer field of it -/

section Forms

open BitVec (extractLsb'_append_eq_of_le extractLsb'_append_eq_of_add_le extractLsb'_eq_self
  extractLsb'_append_extractLsb'_eq_extractLsb')

@[simp] theorem VForm.opOf_word (op : BitVec 8) (x : VForm) : opOf (x.word op) = op := by
  simp (disch := omega) only [VForm.word, opOf, fld, extractLsb'_append_eq_of_le, extractLsb'_eq_self, Nat.reduceSub]

@[simp] theorem VForm.ofWord_word (op : BitVec 8) (x : VForm) : VForm.ofWord (x.word op) = x := by
  simp (disch := omega) only [VForm.word, VForm.ofWord, fld, extractLsb'_append_eq_of_add_le, extractLsb'_append_eq_of_le,
    extractLsb'_eq_self, Nat.reduceSub, Opnd.ofCode_code]

@[simp] theorem VForm.word_ofWord (w : W64) : (VForm.ofWord w).word (opOf w) = w := by
  simp (disch := omega) only [VForm.word, VForm.ofWord, opOf, fld, Opnd.code_ofCode,
    extractLsb'_append_extractLsb'_eq_extractLsb']
  exact extractLsb'_eq_self

@[simp] theorem KForm.opOf_word (op : BitVec 8) (x : KForm) : opOf (x.word op) = op := by
  simp (disch := omega) only [KForm.word, opOf, fld, extractLsb'_append_eq_of_le, extractLsb'_eq_self, Nat.reduceSub]

@[simp] theorem KForm.ofWord_word (op : BitVec 8) (x : KForm) : KForm.ofWord (x.word op) = x := by
  simp (disch := omega) only [KForm.word, KForm.ofWord, fld, extractLsb'_append_eq_of_add_le, extractLsb'_append_eq_of_le,
    extractLsb'_eq_self, Nat.reduceSub, Opnd.ofCode_code]

@[simp] theorem KForm.word_ofWord (w : W64) : (KForm.ofWord w).word (opOf w) = w := by
  simp (disch := omega) only [KForm.word, KForm.ofWord, opOf, fld, Opnd.code_ofCode,
    extractLsb'_append_extractLsb'_eq_extractLsb']
  exact extractLsb'_eq_self

@[simp] theorem JForm.opOf_word (op : BitVec 8) (x : JForm) : opOf (x.word op) = op := by
  simp (disch := omega) only [JForm.word, opOf, fld, extractLsb'_append_eq_of_le, extractLsb'_eq_self, Nat.reduceSub]

@[simp] theorem JForm.ofWord_word (op : BitVec 8) (x : JForm) : JForm.ofWord (x.word op) = x := by
  simp (disch := omega) only [JForm.word, JForm.ofWord, fld, extractLsb'_append_eq_of_add_le, extractLsb'_append_eq_of_le,
    extractLsb'_eq_self, Nat.reduceSub, Opnd.ofCode_code]

@[simp] theorem JForm.word_ofWord (w : W64) : (JForm.ofWord w).word (opOf w) = w := by
  simp (disch := omega) only [JForm.word, JForm.ofWord, opOf, fld, Opnd.code_ofCode,
    extractLsb'_append_extractLsb'_eq_extractLsb']
  exact extractLsb'_eq_self

/-- The two readings of bits 31:16 of a memory word (R29), chosen by bit 6, undo the writing of them. -/
theorem MOff.ofBits_bits (o : MOff) :
    (if o.mode = 1#1 then .imm o.bits
      else .reg (.ofCode (o.bits.extractLsb' 8 8)) (.ofCode (o.bits.extractLsb' 0 8))) = o := by
  cases o with
  | imm off => rfl
  | reg b c =>
    rw [MOff.mode, if_neg (by decide : ¬ 0#1 = 1#1)]
    simp (disch := omega) only [MOff.bits, extractLsb'_append_eq_of_add_le, extractLsb'_append_eq_of_le,
      extractLsb'_eq_self, Nat.reduceSub, Opnd.ofCode_code]

theorem MForm.bits_ofWord (w : W64) : (MForm.ofWord w).o.bits = fld w 16 16 := by
  unfold MForm.ofWord
  dsimp only
  split
  · rfl
  · simp (disch := omega) only [MOff.bits, fld, Opnd.code_ofCode, extractLsb'_append_extractLsb'_eq_extractLsb']

theorem MForm.mode_ofWord (w : W64) : (MForm.ofWord w).o.mode = fld w 6 1 := by
  unfold MForm.ofWord
  dsimp only
  split
  · exact ‹_ = 1#1›.symm
  · exact ((BitVec.eq_zero_or_eq_one _).resolve_right ‹_›).symm

@[simp] theorem MForm.opOf_word (op : BitVec 8) (x : MForm) : opOf (x.word op) = op := by
  simp (disch := omega) only [MForm.word, opOf, fld, extractLsb'_append_eq_of_le, extractLsb'_eq_self, Nat.reduceSub]

@[simp] theorem MForm.ofWord_word (op : BitVec 8) (x : MForm) : MForm.ofWord (x.word op) = x := by
  simp (disch := omega) only [MForm.word, MForm.ofWord, fld, extractLsb'_append_eq_of_add_le, extractLsb'_append_eq_of_le,
    extractLsb'_eq_self, Nat.reduceSub, Opnd.ofCode_code, MOff.ofBits_bits]

@[simp] theorem MForm.word_ofWord (w : W64) : (MForm.ofWord w).word (opOf w) = w := by
  rw [MForm.word, MForm.bits_ofWord, MForm.mode_ofWord]
  simp (disch := omega) only [MForm.ofWord, opOf, fld, Opnd.code_ofCode, extractLsb'_append_extractLsb'_eq_extractLsb']
  exact extractLsb'_eq_self

@[simp] theorem TForm.opOf_word (op : BitVec 8) (x : TForm) : opOf (x.word op) = op := by
  simp (disch := omega) only [TForm.word, opOf, fld, extractLsb'_append_eq_of_le, extractLsb'_eq_self, Nat.reduceSub]

@[simp] theorem TForm.ofWords_word (op : BitVec 8) (x : TForm) :
    TForm.ofWords (x.word op) x.sh0 x.sh1 x.sh2 x.sh3 = x := by
  simp (disch := omega) only [TForm.word, TForm.ofWords, fld, extractLsb'_append_eq_of_add_le, extractLsb'_append_eq_of_le,
    extractLsb'_eq_self, Nat.reduceSub, Opnd.ofCode_code]

@[simp] theorem TForm.word_ofWords (w s0 s1 s2 s3 : W64) : (TForm.ofWords w s0 s1 s2 s3).word (opOf w) = w := by
  simp (disch := omega) only [TForm.word, TForm.ofWords, opOf, fld, Opnd.code_ofCode,
    extractLsb'_append_extractLsb'_eq_extractLsb']
  exact extractLsb'_eq_self

theorem TForm.ofWords_shapes (w s0 s1 s2 s3 : W64) : (TForm.ofWords w s0 s1 s2 s3).sh0 = s0
    ∧ (TForm.ofWords w s0 s1 s2 s3).sh1 = s1 ∧ (TForm.ofWords w s0 s1 s2 s3).sh2 = s2
    ∧ (TForm.ofWords w s0 s1 s2 s3).sh3 = s3 := ⟨rfl, rfl, rfl, rfl⟩

@[simp] theorem PForm.opOf_word (op : BitVec 8) (x : PForm) : opOf (x.word op) = op := by
  simp (disch := omega) only [PForm.word, opOf, fld, extractLsb'_append_eq_of_le, extractLsb'_eq_self, Nat.reduceSub]

@[simp] theorem PForm.ofWord_word (op : BitVec 8) (x : PForm) : PForm.ofWord (x.word op) = x := by
  simp (disch := omega) only [PForm.word, PForm.ofWord, fld, extractLsb'_append_eq_of_add_le, extractLsb'_append_eq_of_le,
    extractLsb'_eq_self, Nat.reduceSub, Opnd.ofCode_code]

@[simp] theorem PForm.word_ofWord (w : W64) : (PForm.ofWord w).word (opOf w) = w := by
  simp (disch := omega) only [PForm.word, PForm.ofWord, opOf, fld, Opnd.code_ofCode,
    extractLsb'_append_extractLsb'_eq_extractLsb']
  exact extractLsb'_eq_self

@[simp] theorem SForm.opOf_word (op : BitVec 8) (x : SForm) : opOf (x.word op) = op := by
  simp (disch := omega) only [SForm.word, opOf, fld, extractLsb'_append_eq_of_le, extractLsb'_eq_self, Nat.reduceSub]

@[simp] theorem SForm.ofWord_word (op : BitVec 8) (x : SForm) : SForm.ofWord (x.word op) = x := by
  simp (disch := omega) only [SForm.word, SForm.ofWord, fld, extractLsb'_append_eq_of_add_le, extractLsb'_append_eq_of_le,
    extractLsb'_eq_self, Nat.reduceSub, Opnd.ofCode_code]

@[simp] theorem SForm.word_ofWord (w : W64) : (SForm.ofWord w).word (opOf w) = w := by
  simp (disch := omega) only [SForm.word, SForm.ofWord, opOf, fld, Opnd.code_ofCode,
    extractLsb'_append_extractLsb'_eq_extractLsb']
  exact extractLsb'_eq_self

end Forms

/-! ### The opcode map (R36) -/

/-- The words of an instruction read back as that instruction. -/
theorem instrOfWord_encode {i : Instr} (h : (opcode i).isSome = true) :
    instrOfWord ((encode i).getD 0 0) ((encode i).getD 1 0) ((encode i).getD 2 0) ((encode i).getD 3 0)
      ((encode i).getD 4 0) = some i := by
  cases i with
  | nop x | bri x | calli x | ret x | getmt x | demote x | exit x | yield x | sadd x | ssub x | smul x | sdiv x | slog x
  | ssh x | smnx x | scmp x | ssel x | srdl x | sbit x | sget x | viadd x | visub x | vimul x | vimad x | vidiv x
  | vlog x | vsh x | vmnx x | vbit x | vbfx x | vbfi x | vicmp x | vsel x | vmov x | vlea x | viadd64 x | vimul64 x
  | viext x | vpack x | vfadd x | vfsub x | vfmul x | vfma x | vfmnx x | vfcmp x | vfclass x | vfdiv x | vfsqrt x
  | vfapx x | vfscl x | vfrnd x | vcvtf x | vcvtfi x | vcvtif x | vqnt x | vdqnt x | vshfl x | vvote x | vprfx x
  | vred x | vmatch x | vbcst x | fenceg x | gangset x | acommit x | adiscard x | thget x | vnpub x | vnfloor x
  | vnwait x | vnstat x | vnopen x | hfset x | hcode x | hprobe x | hins x | hdel x | hrehash x | hmerge x | hstat x
  | bndset x | bndget x | icupd x | icrd x | tqstat x | qstat x | rft x =>
    change instrOfWord (x.word _) 0 0 0 0 = _
    unfold instrOfWord
    rw [VForm.opOf_word, VForm.ofWord_word]
    rfl
  | sleep x | smovk x | vmovk x | waitc x | shield x | trap x | bkpt x =>
    change instrOfWord (x.word _) 0 0 0 0 = _
    unfold instrOfWord
    rw [KForm.opOf_word, KForm.ofWord_word]
    rfl
  | bra x | brc x | call x | setmt x | brpk x =>
    change instrOfWord (x.word _) 0 0 0 0 = _
    unfold instrOfWord
    rw [JForm.opOf_word, JForm.ofWord_word]
    rfl
  | ld x | st x | lds x | sts x | ldu x | stu x | lda x | sta x | ldds x | pref x | cctl x | ldk x | stk x | atom x
  | cas x | red x | atoms x | cass x | reds x | barinit x | bararr x | barexp x | barwait x | bartst x | fence x
  | vnld x | vnst x =>
    change instrOfWord (x.word _) 0 0 0 0 = _
    unfold instrOfWord
    rw [MForm.opOf_word, MForm.ofWord_word]
    rfl
  | mma x | mmas x | accld x | accz x | tld x | tst x | thset x =>
    change instrOfWord (x.word _) x.sh0 x.sh1 x.sh2 x.sh3 = _
    unfold instrOfWord
    rw [TForm.opOf_word, TForm.ofWords_word]
    rfl
  | spawn x | push x =>
    change instrOfWord (x.word _) 0 0 0 0 = _
    unfold instrOfWord
    rw [PForm.opOf_word, PForm.ofWord_word]
    rfl
  | csrr x | csrw x =>
    change instrOfWord (x.word _) 0 0 0 0 = _
    unfold instrOfWord
    rw [SForm.opOf_word, SForm.ofWord_word]
    rfl
  | _ => cases h

theorem opOf_eq_ofNat {w : W64} {n : Nat} (h : (opOf w).toNat = n) : opOf w = BitVec.ofNat 8 n := by
  rw [← h, BitVec.ofNat_toNat, BitVec.setWidth_eq]

/-- A word read as an instruction has that instruction's opcode, and its words are that word, followed in the T form by
the shape words. -/
theorem encode_of_instrOfWord {w s0 s1 s2 s3 : W64} {i : Instr} (h : instrOfWord w s0 s1 s2 s3 = some i) :
    opcode i = some (opOf w) ∧ encode i = if isTForm (opOf w) = true then [w, s0, s1, s2, s3] else [w] := by
  have hv := VForm.word_ofWord w
  have hk := KForm.word_ofWord w
  have hj := JForm.word_ofWord w
  have hm := MForm.word_ofWord w
  have ht := TForm.word_ofWords w s0 s1 s2 s3
  have hp := PForm.word_ofWord w
  have hs := SForm.word_ofWord w
  unfold instrOfWord at h
  split at h
  all_goals cases h
  all_goals
    have hop := opOf_eq_ofNat ‹(opOf w).toNat = _›
    refine ⟨congrArg some hop.symm, ?_⟩
    rw [hop] at hv hk hj hm ht hp hs ⊢
    simp [encode, isTForm, hv, hk, hj, hm, ht, hp, hs, TForm.ofWords_shapes]

theorem decode_eq_ok {w s0 s1 s2 s3 : W64} {i : Instr} :
    decode w s0 s1 s2 s3 = .ok i ↔ instrOfWord w s0 s1 s2 s3 = some i ∧ encodingCause i = none := by
  unfold decode
  cases instrOfWord w s0 s1 s2 s3 with
  | none => simp
  | some j =>
    dsimp only
    cases hj : encodingCause j with
    | none =>
      simp only [Except.ok.injEq, Option.some.injEq]
      exact ⟨fun h => ⟨h, h ▸ hj⟩, And.left⟩
    | some c =>
      simp only [reduceCtorEq, Option.some.injEq, false_iff]
      rintro ⟨rfl, hn⟩
      simp [hj] at hn

/-- Settles O56: the opcode map and the words of each form agree in both directions, and the checks are the same. -/
theorem decodeAndEncodeAgree : Obligations.DecodeAndEncodeAgree :=
  ⟨fun _ hop hok => decode_eq_ok.2 ⟨instrOfWord_encode hop, hok⟩,
    fun _ _ _ _ _ _ h => encode_of_instrOfWord (decode_eq_ok.1 h).1⟩

/-- Settles O55: each word is read and checked. -/
theorem wordsDecodeAsTheSpecEncodesThem : Obligations.WordsDecodeAsTheSpecEncodesThem := by
  unfold Obligations.WordsDecodeAsTheSpecEncodesThem
  decide

end Sys2Proof
end

section
/-!
SUPPORT. Scalar instructions (R88, R93, R94, R307): each is one scalar result; O3 is assembled from these.
-/

namespace Sys2Proof.Machine

/-- Settles O3: each instruction gives one scalar result, which is written once. -/
theorem scalarInstructionsWriteOnce : Obligations.ScalarInstructionsWriteOnce := by
  refine ⟨fun s c hc => ⟨fun x => ?forms, fun x => (exec_smovk x s).trans (State.issue_scal hc rfl)⟩, fun s c x hc => ?sget⟩
  case forms =>
    refine ⟨?sadd, ?ssub, ?smul, ?smnx, ?ssh, ?sbit, ?slog, ?scmp, ?ssel, ?srdl⟩
    case sadd => exact (exec_sadd x s).trans (State.issue_scal hc rfl)
    case ssub => exact (exec_ssub x s).trans (State.issue_scal hc rfl)
    case smul => exact (exec_smul x s).trans (State.issue_scal hc rfl)
    case smnx => exact (exec_smnx x s).trans (State.issue_scal hc rfl)
    case ssh => exact (exec_ssh x s).trans (State.issue_scal hc rfl)
    case sbit => exact (exec_sbit x s).trans (State.issue_scal hc rfl)
    case slog => exact (exec_slog x s).trans (State.issue_scal hc rfl)
    case scmp => exact (exec_scmp x s).trans (State.issue_scal hc rfl)
    case ssel => exact (exec_ssel x s).trans (State.issue_scal hc rfl)
    case srdl => exact (exec_srdl x s).trans (State.issue_scal hc rfl)
  case sget => exact (exec_sget x s).trans (State.issue_scal hc rfl)

end Sys2Proof.Machine
end

section
/-!
SUPPORT. Division (R86, R90) and results that land later (R34): how an exact result wraps, and O2, assembled from the laws of
truncated division and from the common course of a later result.
-/

namespace Sys2Proof.Machine

/-! ### The range of a format (R86) -/

theorem fmtW_pos (fmt : Nat) : 0 < fmtW fmt := by
  unfold fmtW
  split <;> decide

theorem two_pow_fmtW (fmt : Nat) : (2 : Int) ^ fmtW fmt = 2 * 2 ^ (fmtW fmt - 1) := by
  conv_lhs => rw [← Nat.sub_add_cancel (fmtW_pos fmt), pow_succ, mul_comm]

/-- An integer of the range of the format wraps to itself. -/
theorem wrapInt_of_mem {fmt : Nat} {x : Int} (h1 : fmtMin fmt ≤ x) (h2 : x ≤ fmtMax fmt) : wrapInt fmt x = x := by
  have hp : (0 : Int) < 2 ^ (fmtW fmt - 1) := by positivity
  unfold fmtMin at h1
  unfold fmtMax at h2
  unfold wrapInt
  rw [two_pow_fmtW] at h2 ⊢
  generalize (2 : Int) ^ (fmtW fmt - 1) = p at *
  by_cases hx : 0 ≤ x
  · have hm : x % (2 * p) = x := Int.emod_eq_of_lt hx (by split at h2 <;> omega)
    cases hs : fmtSigned fmt with
    | false => simp [hm]
    | true =>
      simp only [hs, if_true] at h2
      simp [hm, show ¬ p ≤ x by omega]
  · cases hs : fmtSigned fmt with
    | false => simp only [hs, Bool.false_eq_true, if_false] at h1; omega
    | true =>
      simp only [hs, if_true] at h1
      have hm : x % (2 * p) = x + 2 * p := by
        rw [← Int.add_emod_right]
        exact Int.emod_eq_of_lt (by omega) (by omega)
      simp [hm, show p ≤ x + 2 * p by omega]

/-- It is also what it clamps to, so sat makes no difference. -/
theorem reduceInt_of_mem {fmt : Nat} {x : Int} (sat : Bool) (h1 : fmtMin fmt ≤ x) (h2 : x ≤ fmtMax fmt) :
    reduceInt fmt sat x = BitVec.ofInt 64 x := by
  unfold reduceInt clampInt
  rw [wrapInt_of_mem h1 h2, if_neg (Int.not_lt.2 h1), if_neg (Int.not_lt.2 h2), ite_self]

/-! ### Quotient and remainder (R90) -/

theorem divInt_of_ne {fmt : Nat} {x y : Int} (rem : Bool) (h : y ≠ 0) :
    divInt fmt rem x y = if rem = true then x.tmod y else x.tdiv y := by
  unfold divInt
  rw [if_neg h]

theorem divResult_of_ne {fmt : Nat} {x y : Int} (sat rem : Bool) (h : y ≠ 0) :
    divResult fmt sat rem x y = reduceInt fmt sat (divInt fmt rem x y) := by
  simp [divResult, h]

/-- Truncated division: the remainder has the sign of x and is smaller than y. -/
theorem divInt_spec {fmt : Nat} {x y : Int} (h : y ≠ 0) :
    x = divInt fmt false x y * y + divInt fmt true x y ∧ (divInt fmt true x y).natAbs < y.natAbs
      ∧ (0 ≤ x → 0 ≤ divInt fmt true x y) ∧ (x ≤ 0 → divInt fmt true x y ≤ 0) := by
  simp only [divInt_of_ne _ h, if_true, Bool.false_eq_true, if_false]
  refine ⟨(Int.tdiv_mul_add_tmod x y).symm, ?_, fun hx => Int.tmod_nonneg y hx, fun hx => ?_⟩
  · rw [Int.natAbs_tmod]
    exact Nat.mod_lt _ (Int.natAbs_pos.2 h)
  · have := Int.tmod_nonneg y (show 0 ≤ -x by omega)
    rw [Int.neg_tmod] at this
    omega

theorem divResult_zero (fmt : Nat) (x : Int) (sat : Bool) :
    divResult fmt sat false x 0 = reduceInt fmt false (2 ^ fmtW fmt - 1)
      ∧ (fmtMin fmt ≤ x → x ≤ fmtMax fmt → divResult fmt sat true x 0 = BitVec.ofInt 64 x) := by
  refine ⟨by simp [divResult, divInt], fun h1 h2 => ?_⟩
  simp only [divResult, divInt, if_true, Bool.true_or, Bool.and_true]
  exact reduceInt_of_mem sat h1 h2

/-- The most negative value of a signed format divided by −1. -/
theorem divResult_overflow {fmt : Nat} (h : fmt < 8) (hs : fmtSigned fmt = true) :
    divResult fmt false false (fmtMin fmt) (-1) = BitVec.ofInt 64 (fmtMin fmt)
      ∧ divResult fmt true false (fmtMin fmt) (-1) = BitVec.ofInt 64 (fmtMax fmt)
      ∧ ∀ sat, divResult fmt sat true (fmtMin fmt) (-1) = 0 := by
  revert hs
  revert fmt
  decide

/-! ### The statement -/

/-- Settles O2: the arithmetic above, and a result that lands later, or nothing where no lane's guard is true. -/
theorem divisionsDivideAndLandLater : Obligations.DivisionsDivideAndLandLater := by
  refine ⟨fun fmt hf => ⟨fun x y hy => ?nonzero, fun x sat => divResult_zero fmt x sat, divResult_overflow hf⟩,
    fun s c x hc => ⟨fun hm => ?lands, fun hm => ?nothing, fun u j l hj hu => ?meets⟩⟩
  case nonzero =>
    obtain ⟨hsum, hlt, hpos, hneg⟩ := divInt_spec (fmt := fmt) (x := x) hy
    exact ⟨hsum, hlt, hpos, hneg, fun sat rem => divResult_of_ne sat rem hy⟩
  case lands =>
    exact ⟨(exec_sdiv x s).trans (State.issue_later hc rfl hm), (exec_vidiv x s).trans (State.issue_later hc rfl hm)⟩
  case nothing =>
    exact ⟨(exec_sdiv x s).trans (State.issue_nothing hc (if_pos hm)),
      (exec_vidiv x s).trans (State.issue_nothing hc (if_pos hm))⟩
  case meets => simp [Uses.meets, hj, hu]

end Sys2Proof.Machine
end

section
/-!
SUPPORT. Transfers of control (R30, R63, R64, R73, R74): when a target passes its checks, and what a jump does in either case;
O6 is assembled from these.
-/

namespace Sys2Proof.Machine

/-! ### The checks of a target (R20, R64) -/

theorem headerCause_eq_none (w : W64) (off size : Nat) : headerCause w off size = none ↔
    hdrTag w = 0xFF ∧ hdrCls w < 9 ∧ hdrMask w < 16 ∧ w.extractLsb' 0 16 = 0 ∧ off < size
      ∧ off + 8 * (hdrCnt w + 2) ≤ size := by
  unfold headerCause
  split
  · grind
  · split <;> grind

theorem State.targetOk_iff (s : State) (core : Nat) (l : Launch) (t : Nat) : s.targetOk core l t = true ↔
    t % 8 = 0 ∧ t < l.lr.codeSize ∧ ∀ w, s.peekCode core l t = some w → headerCause w t l.lr.codeSize = none := by
  unfold State.targetOk Launch.offsetOk
  rw [Bool.and_eq_true, decide_eq_true_eq, and_assoc]
  cases s.peekCode core l t with
  | none => simp
  | some w => simp

theorem Ctx.okTarget_iff (s : State) (c : Ctx) (a : Opnd) (t : W32) : c.okTarget s a t = true ↔
    (a.isS = true → (c.sval a).extractLsb' 32 32 = 0) ∧ t.toNat % 8 = 0 ∧ t.toNat < c.l.lr.codeSize
      ∧ ∀ w, s.peekCode c.b.core c.l t.toNat = some w →
        hdrTag w = 0xFF ∧ hdrCls w < 9 ∧ hdrMask w < 16 ∧ w.extractLsb' 0 16 = 0
          ∧ t.toNat + 8 * (hdrCnt w + 2) ≤ c.l.lr.codeSize := by
  have hs : (!a.isS || (c.sval a).extractLsb' 32 32 == 0) = true ↔ (a.isS = true → (c.sval a).extractLsb' 32 32 = 0) := by
    cases a.isS <;> simp
  unfold Ctx.okTarget
  rw [Bool.and_eq_true, hs, State.targetOk_iff]
  simp only [headerCause_eq_none]
  grind

/-! ### The two courses of a jump -/

section Jump

variable {s : State} {c : Ctx} {f : Ctx → State → Res} {m : Mask} {a : Opnd} {t : Nat → W32} {h : Group → Group}

/-- The lanes of m go to their targets when every target passes in the state before the instruction. -/
theorem State.issue_transfer (hc : s.ctx? = some c) (hf : f c (s.begin_ c) = c.jump (s.begin_ c) m a t h)
    (ok : ∀ l, inMask m l = true → c.okTarget s a (t l) = true) :
    s.issue f = .next (s.after c 1 m fun g => (h g).modLanes m fun l x => x.goto (t l)) :=
  State.issue_jump hc hf fun l hl => (c.okTarget_begin s c a (t l)).trans (ok l hl)

/-- One target for all lanes. -/
theorem State.issue_transfer_one {t : W32} (hc : s.ctx? = some c)
    (hf : f c (s.begin_ c) = c.jump (s.begin_ c) m a (fun _ => t) h) (ok : m = 0 ∨ c.okTarget s a t = true) :
    s.issue f = .next (s.after c 1 m fun g => (h g).modLanes m fun _ x => x.goto t) := by
  refine State.issue_transfer hc hf fun l hl => ?_
  rcases ok with rfl | ok
  · simp at hl
  · exact ok

/-- The lanes whose targets fail take BAD_BRANCH_TARGET before the instruction issues. -/
theorem State.issue_badTarget (hc : s.ctx? = some c) (hf : f c (s.begin_ c) = c.jump (s.begin_ c) m a t h)
    (hbad : (maskOf fun l => inMask m l && !c.okTarget s a (t l)) ≠ 0) :
    s.issue f = .next (s.trapsBefore c [(.badBranchTarget, maskOf fun l => inMask m l && !c.okTarget s a (t l))]) := by
  refine State.issue_raise hc (hf.trans ?_)
  unfold Ctx.jump
  simp only [Ctx.okTarget_begin]
  exact if_pos hbad

/-- With one target, all of them. -/
theorem State.issue_badTarget_one {t : W32} (hc : s.ctx? = some c)
    (hf : f c (s.begin_ c) = c.jump (s.begin_ c) m a (fun _ => t) h) (hm : m ≠ 0) (hbad : c.okTarget s a t = false) :
    s.issue f = .next (s.trapsBefore c [(.badBranchTarget, m)]) := by
  have hall : (maskOf fun l => inMask m l && !c.okTarget s a t) = m := by
    simpa [hbad] using maskOf_inMask m
  have key := State.issue_badTarget hc hf (by rwa [hall])
  rwa [hall] at key

end Jump

/-- Settles O6: each transfer is a jump of its lanes, whose targets pass, or some of which fail. -/
theorem transfersGoToTheirTargets : Obligations.TransfersGoToTheirTargets := by
  refine ⟨fun s c hc => ⟨fun x => ⟨fun ok => ?jform, fun ok => ?brc⟩, fun x ok => ?vform⟩, Ctx.okTarget_iff,
    fun s c hc => ⟨fun x hm hbad => ?badOne, fun x hbad => ?bad⟩⟩
  case jform =>
    exact ⟨(exec_bra x s).trans (State.issue_transfer_one hc rfl ok),
      (exec_call x s).trans (State.issue_transfer_one hc rfl ok)⟩
  case brc => exact (exec_brc x s).trans (State.issue_transfer_one hc rfl ok)
  case vform =>
    exact ⟨(exec_bri x s).trans (State.issue_transfer hc rfl ok), (exec_ret x s).trans (State.issue_transfer hc rfl ok),
      (exec_calli x s).trans (State.issue_transfer hc rfl ok)⟩
  case badOne =>
    exact ⟨(exec_bra x s).trans (State.issue_badTarget_one hc rfl hm hbad),
      (exec_call x s).trans (State.issue_badTarget_one hc rfl hm hbad)⟩
  case bad =>
    exact ⟨(exec_bri x s).trans (State.issue_badTarget hc rfl hbad), (exec_ret x s).trans (State.issue_badTarget hc rfl hbad),
      (exec_calli x s).trans (State.issue_badTarget hc rfl hbad)⟩

end Sys2Proof.Machine
end

section
/-!
SUPPORT. How a lane passes an instruction or is sent to a header (R22, R65), and the meeting, sleep, repacking and exit
instructions (R62, R65, R67, R68, R75, R76); O7 is assembled from these.
-/

namespace Sys2Proof.Machine

/-! ### A lane's next place -/

section Arrive

variable {y : Lane}

/-- Inside a clause no lane arrives. -/
theorem Lane.arrive_of_hdr {h : W32} (hh : y.hdr = some h) : y.arrive = y := by
  simp [Lane.arrive, hh]

/-- A runnable lane that stands at a header is held there exactly if that is its meeting value. -/
theorem Lane.arrive_of_run (hh : y.hdr = none) (hr : y.st = .run) :
    y.arrive = if y.pc = y.mt then { y with st := .held } else y := by
  simp [Lane.arrive, Lane.isRun, hh, hr]

/-- A lane that is sent to a header, or comes to the next one. -/
theorem Lane.goto_spec (t : W32) (hr : y.st = .run) :
    (y.goto t).pc = t ∧ (y.goto t).hdr = none ∧ (t = y.mt → (y.goto t).st = .held) ∧ (t ≠ y.mt → (y.goto t).st = .run)
      ∧ (y.goto t).mt = y.mt ∧ (y.goto t).v = y.v ∧ (y.goto t).helper = y.helper := by
  rw [Lane.goto, Lane.arrive_of_run (y := { y with pc := t, hdr := none }) rfl hr]
  dsimp only
  split <;> simp_all

end Arrive

/-- The lane at the end of its clause is sent to the next header. -/
theorem Lane.pass_nextHdr {y : Lane} {i : Issue} {n : Nat} (h : i.pc + BitVec.ofNat 32 (8 * n) = i.nextHdr) :
    y.pass i n = y.goto (i.pc + BitVec.ofNat 32 (8 * n)) := by
  unfold Lane.pass Lane.goto
  simp only [if_pos h]

/-- Before that it stands at the next word inside its clause. -/
theorem Lane.pass_inside {y : Lane} {i : Issue} {n : Nat} (h : i.pc + BitVec.ofNat 32 (8 * n) ≠ i.nextHdr) :
    y.pass i n = { y with pc := i.pc + BitVec.ofNat 32 (8 * n), hdr := some i.hdr } := by
  unfold Lane.pass
  simp only [if_neg h]
  exact Lane.arrive_of_hdr rfl

theorem Lane.pass_spec {y : Lane} (i : Issue) (n : Nat) (hr : y.st = .run) :
    (y.pass i n).pc = i.pc + BitVec.ofNat 32 (8 * n)
      ∧ (i.pc + BitVec.ofNat 32 (8 * n) ≠ i.nextHdr → (y.pass i n).hdr = some i.hdr ∧ (y.pass i n).st = .run)
      ∧ (i.pc + BitVec.ofNat 32 (8 * n) = i.nextHdr → (y.pass i n).hdr = none
        ∧ (i.pc + BitVec.ofNat 32 (8 * n) = y.mt → (y.pass i n).st = .held)
        ∧ (i.pc + BitVec.ofNat 32 (8 * n) ≠ y.mt → (y.pass i n).st = .run))
      ∧ (y.pass i n).mt = y.mt ∧ (y.pass i n).v = y.v ∧ (y.pass i n).helper = y.helper := by
  by_cases h : i.pc + BitVec.ofNat 32 (8 * n) = i.nextHdr
  · rw [Lane.pass_nextHdr h]
    obtain ⟨hpc, hhdr, hheld, hrun, hmt, hv, hhelp⟩ := Lane.goto_spec (i.pc + BitVec.ofNat 32 (8 * n)) hr
    exact ⟨hpc, fun hn => absurd h hn, fun _ => ⟨hhdr, hheld, hrun⟩, hmt, hv, hhelp⟩
  · rw [Lane.pass_inside h]
    exact ⟨rfl, fun _ => ⟨rfl, hr⟩, fun he => absurd he h, rfl, rfl, rfl⟩

/-! ### The instructions -/

/-- An instruction that changes its own group and places the lanes of own itself. -/
theorem State.issueN_modGroup {s : State} {c : Ctx} {f : Ctx → State → Res} {n : Nat} {own : Mask} {h : Group → Group}
    (hc : s.ctx? = some c) (hf : f c (s.begin_ c) = .done ((s.begin_ c).modGroup c.iss.blk c.iss.grp h) own)
    (forbidden : Ctx → Mask) (hs : c.shielded (forbidden c) = 0#32) :
    s.issueN n forbidden f = .next (s.after c n own h) := by
  rw [State.issueN_done hc hf forbidden hs, State.finish_modGroup]

theorem State.issue_modGroup {s : State} {c : Ctx} {f : Ctx → State → Res} {own : Mask} {h : Group → Group}
    (hc : s.ctx? = some c) (hf : f c (s.begin_ c) = .done ((s.begin_ c).modGroup c.iss.blk c.iss.grp h) own) :
    s.issue f = .next (s.after c 1 own h) := State.issueN_modGroup hc hf _ c.shielded_zero

theorem Ctx.on_subset {c : Ctx} {g : BitVec 4} {l : Nat} (h : inMask (c.on g) l = true) : inMask c.iss.lanes l = true := by
  simp only [Ctx.on, inMask_maskOf, Bool.and_eq_true] at h
  exact h.2.1

/-- Outside every SHIELD window an instruction that shielded lanes must not issue is not forbidden. -/
theorem Ctx.shielded_on {c : Ctx} (hu : c.unshielded) (g : BitVec 4) : c.shielded (c.on g) = 0#32 :=
  Ctx.shielded_none fun l hl => hu l (Ctx.on_subset hl)

/-- The lanes of a condition that no lane meets. -/
theorem maskOf_eq_zero {f : Nat → Bool} (h : ∀ l, l < 32 → f l = false) : maskOf f = 0#32 :=
  mask_ext fun l hl => by simp [h l hl]

section Instructions

variable {s : State} {c : Ctx} (hc : s.ctx? = some c)
include hc

theorem exec_exit_spec (x : VForm) : exec (.exit x) s = .next (s.after c 1 (c.on x.g) fun g => g.modLanes (c.on x.g) fun _ y =>
    { y with st := .exited false, wins := [], shield := 0, yielded := false }) :=
  (exec_exit x s).trans (State.issue_modGroup hc rfl)

/-- SETMT when every value is none or passes the checks of a target (R64, R75). -/
theorem exec_setmt_ok (x : JForm)
    (ok : ∀ l, inMask (c.on x.g) l = true → (if x.a = .none then c.iss.hdr + 8#32 * x.off else c.val x.a l) = 0xFFFF_FFFF#32
      ∨ c.okTarget s x.a (if x.a = .none then c.iss.hdr + 8#32 * x.off else c.val x.a l) = true) :
    exec (.setmt x) s = .next (s.after c 1 0 fun g => g.modLanes (c.on x.g) fun l y =>
      { y with mt := if x.a = .none then c.iss.hdr + 8#32 * x.off else c.val x.a l }) := by
  refine (exec_setmt x s).trans (State.issue_doneG hc (if_neg (not_not.2 (maskOf_eq_zero fun l _ => ?_))))
  cases hl : inMask (c.on x.g) l with
  | false => rfl
  | true =>
    rw [Ctx.okTarget_begin]
    rcases ok l hl with h | h
    · simp [Ctx.jTarget, h]
    · simp [Ctx.jTarget, h]

theorem exec_sleep_unshielded (hu : c.unshielded) (x : KForm) :
    exec (.sleep x) s = .next (s.after c 1 0 fun g => g.modLanes (c.on x.g) fun _ y =>
      { y with st := .sleeping (s.cc + max x.imm.toNat 1) }) :=
  (exec_sleep x s).trans (State.issueN_modGroup hc rfl _ (Ctx.shielded_on hu x.g))

/-- BRPK of threads that may wait there, with a target that passes R64 (R68). -/
theorem exec_brpk_ok (hu : c.unshielded) (x : JForm)
    (hok : c.on x.g = 0 ∨ c.okTarget s .none (c.iss.hdr + 8#32 * x.off) = true) (htask : c.g.task = false)
    (hl : ∀ l, inMask c.iss.lanes l = true → (c.r.lane l).ben = false ∧ (c.r.lane l).inTrap = false) :
    exec (.brpk x) s = .next (s.after c 1 c.iss.lanes fun g => g.modLanes c.iss.lanes fun l y =>
      { y with st := .brpk (if inMask (c.on x.g) l then c.iss.hdr + 8#32 * x.off
        else c.iss.hdr + BitVec.ofNat 32 (8 * (c.iss.cnt + 2))) }) := by
  have hbad : (if c.okTarget (s.begin_ c) .none (c.jTarget x.off) = true then 0#32 else c.on x.g) = 0#32 := by
    rw [Ctx.okTarget_begin]
    rcases hok with h | h
    · rw [h]; exact ite_self _
    · exact if_pos h
  have hill : (maskOf fun l => inMask c.iss.lanes l && ((c.r.lane l).ben || c.g.task || (c.r.lane l).inTrap)) = 0#32 := by
    refine maskOf_eq_zero fun l _ => ?_
    cases hm : inMask c.iss.lanes l with
    | false => rfl
    | true => simp [htask, hl l hm]
  refine (exec_brpk x s).trans (State.issueN_modGroup hc (if_neg ?_) _ (Ctx.shielded_none hu))
  rw [not_or, not_not, not_not]
  exact ⟨hbad, hill⟩

end Instructions

/-- Settles O7: the instructions' courses above, and where a lane stands next. -/
theorem meetingSleepAndExit : Obligations.MeetingSleepAndExit := by
  refine ⟨fun s c hc => ⟨fun x => ?vform, fun x ok => exec_setmt_ok hc x ok⟩,
    fun s c hc hu => ⟨exec_sleep_unshielded hc hu, fun x => exec_brpk_ok hc hu x⟩,
    fun y i n t hr => ⟨Lane.pass_spec i n hr, Lane.goto_spec t hr⟩⟩
  exact ⟨(exec_nop x s).trans (State.issue_nothing hc rfl), (exec_getmt x s).trans (State.issue_vec hc rfl),
    (exec_demote x s).trans (State.issue_doneG hc rfl), (exec_yield x s).trans (State.issue_doneG hc rfl),
    exec_exit_spec hc x⟩

end Sys2Proof.Machine
end

section
/-!
SUPPORT. Floating-point and conversion instructions (R109 to R123): a result written at once or later, with flags; O10 is
assembled from these.
-/

namespace Sys2Proof.Machine

/-- A result that lands later, with its flags raised at issue (R34, R128). -/
theorem State.issue_fltLater {s : State} {c : Ctx} {f : Ctx → State → Res} {x : VForm} {v : Nat → Nat × Nat}
    (hc : s.ctx? = some c) (hf : f c (s.begin_ c) = c.fltLater (s.begin_ c) x v) (hm : c.on x.g ≠ 0) :
    s.issue f = .next (({ s with nextId := s.nextId + 1 } : State).after c 1 0 fun g =>
      { g.flags (orFlags (c.on x.g) fun l => (v l).2) with
        insns := g.insns ++ [(⟨s.nextId, .none, c.iss.pc, c.on x.g,
          if x.fmt.toNat = 9 then [x.d.vnum, x.d.vnum + 1] else [x.d.vnum], [],
          ((lanesOf (c.on x.g)).map fun l => floatDests x.fmt.toNat x.d.vnum l (v l).1).flatten, true⟩ : Insn)] }.window
        (c.on x.g) s.nextId x.la) := by
  have hfmt : x.fmt = 9 ↔ x.fmt.toNat = 9 := BitVec.toNat_inj.symm
  rw [State.issue_later hc hf hm]
  simp only [hfmt]
  rfl

/-- What VCVTF gives in a lane: its source, of the format of its sub-op, converted to the slot's format (R121). -/
def Ctx.cvtf (c : Ctx) (x : VForm) (l : Nat) : Nat × Nat :=
  let sl := c.slot (x.fmt.toNat % 8)
  let r : Rnd := ⟨sl.rnd, x.rnd.getLsbD 2, sl.sat⟩
  (fmtOf (elemFmt sl.elem)).convert r ((fmtOf (subN x)).operand r ((fmtOf (subN x)).nas x.nas (c.fbits (subN x) x.a l)))

section Float

variable {s : State} {c : Ctx} (hc : s.ctx? = some c) (x : VForm)
include hc

/-- VFCLASS writes its mask to a vector register (R117). -/
theorem exec_vfclass_v {k : Fin 128} (hd : x.d = .v k) : exec (.vfclass x) s = .next (s.after c 1 0 fun g =>
    g.putV (c.on x.g) k fun l => BitVec.ofNat 32 ((fmtOf x.fmt.toNat).classMask (c.fa x l))) := by
  rw [exec_vfclass, execVfclass, State.issue_vec hc rfl, hd]
  rfl

/-- It writes to a predicate whether the mask meets b (R117). -/
theorem exec_vfclass_p {k : Fin 8} (hd : x.d = .p k) : exec (.vfclass x) s = .next (s.after c 1 0 fun g =>
    g.putP (c.on x.g) k fun l => decide ((fmtOf x.fmt.toNat).classMask (c.fa x l) &&& (c.val x.b l).toNat ≠ 0)) := by
  rw [exec_vfclass, execVfclass, State.issue_vec hc rfl, hd]
  refine congrArg (fun h => Host.Outcome.next (s.after c 1 0 h)) (funext fun g => ?_)
  refine congrArg (g.putP (c.on x.g) k) (funext fun l => ?_)
  dsimp only
  split <;> simp_all

/-- VCVTF with a floating-point slot and a destination that its width admits (R121). -/
theorem exec_vcvtf_ok (h1 : 1 ≤ (c.slot (x.fmt.toNat % 8)).elem) (h4 : (c.slot (x.fmt.toNat % 8)).elem ≤ 4)
    (hp : (c.slot (x.fmt.toNat % 8)).elem = 1 → x.d.vnum % 2 = 0) (hm : c.on x.g ≠ 0) :
    exec (.vcvtf x) s = .next (s.after c 1 0 fun g => (g.putF (elemFmt (c.slot (x.fmt.toNat % 8)).elem) (c.on x.g) x.d
      fun l => (c.cvtf x l).1).flags (orFlags (c.on x.g) fun l => (c.cvtf x l).2)) := by
  refine (exec_vcvtf x s).trans (State.issue_doneG hc ?_)
  dsimp only
  rw [if_neg (by omega), if_neg hm, if_neg (by omega)]
  rfl

theorem exec_vcvtf_nothing (hp : (c.slot (x.fmt.toNat % 8)).elem = 1 → x.d.vnum % 2 = 0) (hm : c.on x.g = 0) :
    exec (.vcvtf x) s = .next (s.after c 1 0 id) := by
  refine (exec_vcvtf x s).trans (State.issue_nothing hc ?_)
  dsimp only
  rw [if_neg (by omega), if_pos hm]

end Float

/-- Settles O10: the forms of fixed latency by the laws of one issue, VFDIV, VFSQRT and VFAPX by the law of a result that
lands later. -/
theorem floatInstructionsWriteAndFlag : Obligations.FloatInstructionsWriteAndFlag := by
  refine ⟨fun s c x hc => ⟨?vfadd, ?vfsub, ?vfmul, ?vfma, ?vfmnx, ?vfscl, ?vfrnd, ?vcvtif, ?vfcmp, ?vcvtfi,
    fun k hd => exec_vfclass_v hc x hd, fun k hd => exec_vfclass_p hc x hd, fun hp => ?vcvtf⟩,
    fun s c x hc => ⟨fun hm => ?later, fun hm => ?nothing⟩⟩
  case vfadd => exact (exec_vfadd x s).trans (State.issue_flt hc rfl)
  case vfsub => exact (exec_vfsub x s).trans (State.issue_flt hc rfl)
  case vfmul => exact (exec_vfmul x s).trans (State.issue_flt hc rfl)
  case vfma => exact (exec_vfma x s).trans (State.issue_flt hc rfl)
  case vfmnx => exact (exec_vfmnx x s).trans (State.issue_flt hc rfl)
  case vfscl => exact (exec_vfscl x s).trans (State.issue_flt hc rfl)
  case vfrnd => exact (exec_vfrnd x s).trans (State.issue_flt hc rfl)
  case vcvtif => exact (exec_vcvtif x s).trans (State.issue_flt hc rfl)
  case vfcmp => exact (exec_vfcmp x s).trans (State.issue_doneG hc rfl)
  case vcvtfi => exact (exec_vcvtfi x s).trans (State.issue_doneG hc rfl)
  case vcvtf => exact ⟨fun h1 h4 hm => exec_vcvtf_ok hc x h1 h4 hp hm, exec_vcvtf_nothing hc x hp⟩
  case later =>
    exact ⟨(exec_vfdiv x s).trans (State.issue_fltLater hc rfl hm),
      (exec_vfsqrt x s).trans (State.issue_fltLater hc rfl hm), (exec_vfapx x s).trans (State.issue_fltLater hc rfl hm)⟩
  case nothing =>
    exact ⟨(exec_vfdiv x s).trans (State.issue_nothing hc (if_pos hm)),
      (exec_vfsqrt x s).trans (State.issue_nothing hc (if_pos hm)),
      (exec_vfapx x s).trans (State.issue_nothing hc (if_pos hm))⟩

end Sys2Proof.Machine
end

section
/-!
SUPPORT. Loads and stores (R130, R132, R138, R139): when an access raises no cause, and what then becomes of it; O13 is
assembled from these.
-/

namespace Sys2Proof.Machine

/-! ### No cause (R130, R132) -/

theorem anyCause_pair {k n : Cause} {f g : Nat → Bool} (hf : ∀ l, l < 32 → f l = false)
    (hg : ∀ l, l < 32 → g l = false) :
    anyCause [(k, maskOf f), (n, maskOf g)] = false := by
  rw [maskOf_eq_zero hf, maskOf_eq_zero hg]
  rfl

/-- Aligned global addresses within the address space raise nothing. -/
theorem anyCause_globalCauses {m : Mask} {size : Nat} {ea : Nat → Nat}
    (h : ∀ l, inMask m l = true → ea l % size = 0 ∧ ea l < 2 ^ 52) : anyCause (globalCauses m size ea) = false := by
  refine anyCause_pair (fun l _ => ?_) (fun l _ => ?_) <;>
  · cases hl : inMask m l with
    | false => rfl
    | true =>
      have := h l hl
      simp only [Bool.true_and, bne_eq_false_iff_eq, decide_eq_false_iff_not]
      omega

/-- Aligned local offsets within the extent raise nothing. -/
theorem anyCause_localCauses {m : Mask} {size extent : Nat} {k : Cause} {ea : Nat → Int}
    (h : ∀ l, inMask m l = true → ea l % size = 0 ∧ 0 ≤ ea l ∧ ea l + size ≤ extent) :
    anyCause (localCauses k extent m size ea) = false := by
  refine anyCause_pair (fun l _ => ?_) (fun l _ => ?_) <;>
  · cases hl : inMask m l with
    | false => rfl
    | true =>
      obtain ⟨ha, hlo, hhi⟩ := h l hl
      simp [ha, hlo, hhi]

theorem Ctx.full_of_lt {c : Ctx} {k : Ctr} (h : c.g.counter k < 255) : c.full k = false := by
  simp [Ctx.full, h]

/-- With no guard-true lane there is none that is no helper. -/
theorem Ctx.real_of_on_zero {c : Ctx} {g : BitVec 4} (h : c.on g = 0) : c.real g = 0#32 :=
  mask_ext fun l hl => by
    have hl' : inMask (c.on g) l = false := by simp [h]
    simp only [Ctx.on, Ctx.real, inMask_maskOf, hl, decide_true, Bool.true_and, inMask_zero] at hl' ⊢
    rw [hl', Bool.false_and]

/-- The space that a scratchpad or mirror access names (R129). -/
theorem Ctx.localSpace_mirror {c : Ctx} {x : MForm} (h : x.space = 2) : c.localSpace x = (.mirror, c.l.lr.mirror) := if_pos h
theorem Ctx.localSpace_scratch {c : Ctx} {x : MForm} (h : x.space ≠ 2) : c.localSpace x = (.scratch, c.l.lr.scratch) :=
  if_neg h

/-! ### The course of each kind of access -/

section Course

variable {s : State} {c : Ctx} {f : Ctx → State → Res} {x : MForm} {sp : Space} {cs : List (Cause × Mask)}
  (hc : s.ctx? = some c)
include hc

theorem State.issue_loadV {ea : Nat → Nat} (hf : f c (s.begin_ c) = c.loadV (s.begin_ c) x sp cs ea)
    (hcs : anyCause cs = false) (hm : c.on x.g ≠ 0) (hfull : c.g.lc < 255) :
    s.issue f = .next (s.posted c x.la (c.insn .lc (c.on x.g) (run x.d.vnum (runLen x.bytes)) [])
      ((lanesOf (c.on x.g)).map fun l =>
        { (c.req x .load sp).lane l with helper := (c.r.lane l).helper, addr := ea l, dst := some x.d.vnum })) := by
  refine State.issue_post hc (hf.trans ?_)
  unfold Ctx.loadV
  simp only [hcs, hm, Ctx.full_of_lt (k := .lc) hfull, Bool.false_eq_true, if_false]

theorem State.issue_loadV_nothing {ea : Nat → Nat} (hf : f c (s.begin_ c) = c.loadV (s.begin_ c) x sp cs ea)
    (hcs : anyCause cs = false) (hm : c.on x.g = 0) : s.issue f = .next (s.after c 1 0 id) := by
  refine State.issue_nothing hc (hf.trans ?_)
  unfold Ctx.loadV
  simp only [hcs, hm, Bool.false_eq_true, if_false, if_true]

theorem State.issue_storeV {ea : Nat → Nat} (hf : f c (s.begin_ c) = c.storeV (s.begin_ c) x sp cs ea)
    (hcs : anyCause cs = false) (hm : c.real x.g ≠ 0) (hfull : c.g.sc < 255) :
    s.issue f = .next (s.posted c x.la (c.insn .sc (c.real x.g) [] []) ((lanesOf (c.real x.g)).map fun l =>
      { (c.req x .store sp).lane l with addr := ea l, parts := [⟨l, c.storeData x.d.vnum x.bytes l, [], []⟩] })) := by
  refine State.issue_post hc (hf.trans ?_)
  unfold Ctx.storeV
  simp only [hcs, hm, Ctx.full_of_lt (k := .sc) hfull, Bool.false_eq_true, if_false]

theorem State.issue_storeV_nothing {ea : Nat → Nat} (hf : f c (s.begin_ c) = c.storeV (s.begin_ c) x sp cs ea)
    (hcs : anyCause cs = false) (hm : c.real x.g = 0) : s.issue f = .next (s.after c 1 0 id) := by
  refine State.issue_nothing hc (hf.trans ?_)
  unfold Ctx.storeV
  simp only [hcs, hm, Bool.false_eq_true, if_false, if_true]

end Course

/-! ### Per-lane accesses -/

/-- The bytes of a store's run, register by register, each from its low byte (R139). -/
theorem Ctx.storeData_sizes (c : Ctx) (d l : Nat) :
    let v := fun (k i : Nat) => ((c.r.lane l).vreg (d + k)).extractLsb' (8 * i) 8
    c.storeData d 1 l = [v 0 0] ∧ c.storeData d 2 l = [v 0 0, v 0 1]
    ∧ c.storeData d 4 l = [v 0 0, v 0 1, v 0 2, v 0 3]
    ∧ c.storeData d 8 l = [v 0 0, v 0 1, v 0 2, v 0 3, v 1 0, v 1 1, v 1 2, v 1 3]
    ∧ c.storeData d 16 l = [v 0 0, v 0 1, v 0 2, v 0 3, v 1 0, v 1 1, v 1 2, v 1 3,
        v 2 0, v 2 1, v 2 2, v 2 3, v 3 0, v 3 1, v 3 2, v 3 3] :=
  ⟨rfl, rfl, rfl, rfl, rfl⟩

/-- The offsets of a local access of the guard-true lanes are aligned and lie in an extent (R132). -/
def Ctx.localOk (c : Ctx) (x : MForm) (extent : Nat) : Prop :=
  ∀ l, inMask (c.on x.g) l = true → c.eaL x l % x.bytes = 0 ∧ 0 ≤ c.eaL x l ∧ c.eaL x l + x.bytes ≤ extent

section Local

variable {s : State} {c : Ctx} {x : MForm} {sp : Space} {extent : Nat} (hc : s.ctx? = some c)
  (hsp : c.localSpace x = (sp, extent)) (h : c.localOk x extent)
include hc hsp h

theorem exec_lds_ok (hm : c.on x.g ≠ 0) (hlc : c.g.lc < 255) :
    exec (.lds x) s = .next (s.posted c x.la (c.insn .lc (c.on x.g) (run x.d.vnum (runLen x.bytes)) [])
      ((lanesOf (c.on x.g)).map fun l => { (c.req x .load sp).lane l with
        helper := (c.r.lane l).helper, addr := (c.eaL x l).toNat, dst := some x.d.vnum })) := by
  refine (exec_lds x s).trans (State.issue_loadV hc (cs := localCauses .scratchRange extent (c.on x.g) x.bytes (c.eaL x)) ?_
    (anyCause_localCauses h) hm hlc)
  dsimp only
  rw [hsp]

theorem exec_lds_nothing (hm : c.on x.g = 0) : exec (.lds x) s = .next (s.after c 1 0 id) := by
  refine (exec_lds x s).trans (State.issue_loadV_nothing hc (sp := sp) (ea := fun l => (c.eaL x l).toNat)
    (cs := localCauses .scratchRange extent (c.on x.g) x.bytes (c.eaL x)) ?_ (anyCause_localCauses h) hm)
  dsimp only
  rw [hsp]

theorem exec_sts_ok (hr : c.real x.g ≠ 0) (hsc : c.g.sc < 255) :
    exec (.sts x) s = .next (s.posted c x.la (c.insn .sc (c.real x.g) [] []) ((lanesOf (c.real x.g)).map fun l =>
      { (c.req x .store sp).lane l with
        addr := (c.eaL x l).toNat, parts := [⟨l, c.storeData x.d.vnum x.bytes l, [], []⟩] })) := by
  refine (exec_sts x s).trans (State.issue_storeV hc (cs := localCauses .scratchRange extent (c.on x.g) x.bytes (c.eaL x)) ?_
    (anyCause_localCauses h) hr hsc)
  dsimp only
  rw [hsp]

theorem exec_sts_nothing (hr : c.real x.g = 0) : exec (.sts x) s = .next (s.after c 1 0 id) := by
  refine (exec_sts x s).trans (State.issue_storeV_nothing hc (sp := sp) (ea := fun l => (c.eaL x l).toNat)
    (cs := localCauses .scratchRange extent (c.on x.g) x.bytes (c.eaL x)) ?_ (anyCause_localCauses h) hr)
  dsimp only
  rw [hsp]

end Local

/-- Settles O13: per instruction, its causes are none, and the common course of a load or a store. -/
theorem laneAccessesPostOneRequestALane : Obligations.LaneAccessesPostOneRequestALane := by
  refine ⟨fun s c x hc => ⟨fun hm hlc => ?loads, fun hm => ?noLoad⟩,
    fun s c x hc => ⟨fun hr hsc => ?stores, fun hr => ?noStore⟩, Ctx.storeData_sizes⟩
  case loads =>
    exact ⟨fun h => (exec_ld x s).trans (State.issue_loadV hc rfl (anyCause_globalCauses h) hm hlc),
      fun hx h => exec_lds_ok hc (Ctx.localSpace_mirror hx) h hm hlc,
      fun hx h => exec_lds_ok hc (Ctx.localSpace_scratch hx) h hm hlc,
      fun h => (exec_lda x s).trans (State.issue_loadV hc rfl (anyCause_localCauses h) hm hlc)⟩
  case noLoad =>
    have none : ∀ {P : Nat → Prop} l, inMask (c.on x.g) l = true → P l := fun l hl => by simp [hm] at hl
    exact ⟨(exec_ld x s).trans (State.issue_loadV_nothing hc rfl (anyCause_globalCauses none) hm),
      exec_lds_nothing hc rfl none hm,
      (exec_lda x s).trans (State.issue_loadV_nothing hc rfl (anyCause_localCauses none) hm)⟩
  case stores =>
    exact ⟨fun h => (exec_st x s).trans (State.issue_storeV hc rfl (anyCause_globalCauses h) hr hsc),
      fun hx h => exec_sts_ok hc (Ctx.localSpace_mirror hx) h hr hsc,
      fun hx h => exec_sts_ok hc (Ctx.localSpace_scratch hx) h hr hsc,
      fun h => (exec_sta x s).trans (State.issue_storeV hc rfl (anyCause_localCauses h) hr hsc)⟩
  case noStore =>
    exact ⟨fun h => (exec_st x s).trans (State.issue_storeV_nothing hc rfl (anyCause_globalCauses h) hr),
      fun hx h => exec_sts_nothing hc (Ctx.localSpace_scratch hx) h hr,
      fun h => (exec_sta x s).trans (State.issue_storeV_nothing hc rfl (anyCause_localCauses h) hr)⟩

end Sys2Proof.Machine
end

section
/-!
SUPPORT. The counterexample of O14 and O16: with the LANEID source in the place of a base, the offset in a local space is
not the same in every lane, so the address of lane 0 does not decide whether a uniform access is aligned (R132). The encoding
admits only a scalar register or none as that base (R138, R155), but both statements speak of every M form whose base is no
vector register.
-/

namespace Sys2Proof
open Machine

/-- A group whose lanes 0 and 1 stand at the first word of the clause at 0; every other lane has exited. -/
def groupOfTwo : Group :=
  { Group.zero with
    lanes := tab 32 fun l => if l < 2 then { Lane.zero with pc := 8, hdr := some 0 } else { Lane.zero with st := .exited false }
    active := some 0 }

/-- The block of that group, and its launch, which has a scratchpad of 4,096 bytes. -/
def blockOfTwo : Block := { Block.zero with id := 2, launch := 1, groups := [groupOfTwo] }
def launchOfTwo : Launch := ⟨1, 0, 0, 7, { placedRecord with scratch := 4096 }, 1, 1, 0, false, none, none, [], none⟩

/-- Lanes 0 and 1 of that group at the head of the issue list, in a clause of class GEN. -/
def headOfTwo : Issue := ⟨2, 0, 3, 8, 0, 0, 15, none⟩
def two : State :=
  { State.reset with
    blocks := [blockOfTwo]
    fw := { State.reset.fw with launches := [launchOfTwo] }
    cur := [headOfTwo] }

/-- What is at the head of its issue list. -/
def ctxOfTwo : Ctx := ⟨headOfTwo, blockOfTwo, groupOfTwo, groupOfTwo, launchOfTwo⟩

theorem ctx_two : two.ctx? = some ctxOfTwo := rfl

/-- A uniform access of four bytes to the scratchpad whose base is LANEID: offset 0 in lane 0, offset 1 in lane 1. -/
def byLaneid : MForm := ⟨0, 0, .s 3, .laneid, .imm 0, 2, 0, 0, 1, 0⟩

/-- The number of requests after an instruction. -/
def requestsAfter (i : Instr) (s : State) : Option Nat :=
  match exec i s with
  | .next t => some t.reqs.length
  | _ => none

theorem requestsAfter_of_next {i : Instr} {s t : State} (h : exec i s = .next t) : requestsAfter i s = some t.reqs.length := by
  rw [requestsAfter, h]

theorem requestsAfter_ldu : requestsAfter (.ldu byLaneid) two = some 0 := by decide

theorem requestsAfter_atoms : requestsAfter (.atoms byLaneid) two = some 0 := by decide

theorem uniform_byLaneid : byLaneid.a.isV = false ∧ ∀ b q, byLaneid.o = .reg b q → b.isV = false :=
  ⟨rfl, fun _ _ h => by cases h⟩

/-- Refutes O14: an LDU of four bytes of the scratchpad by lanes 0 and 1 whose base is LANEID. Lane 0 names offset 0, lane 1
the misaligned offset 1, so MISALIGNED is raised and no request is posted. -/
theorem not_uniformAndOtherAccessesPostRequests : ¬ Obligations.UniformAndOtherAccessesPostRequests := by
  unfold Obligations.UniformAndOtherAccessesPostRequests
  intro ⟨h, _⟩
  obtain ⟨_, hpost⟩ := h two ctxOfTwo byLaneid ctx_two
  obtain ⟨_, hscratch, _⟩ := hpost uniform_byLaneid (by decide)
  obtain ⟨hldu, _⟩ := hscratch (by decide) (by decide) (by decide) (by decide)
  have hone := requestsAfter_of_next (hldu (by decide))
  rw [requestsAfter_ldu] at hone
  exact absurd hone (by decide)

/-- Refutes O16: ATOMS by the same lanes at the same offsets raises MISALIGNED and posts no request. -/
theorem not_atomicsPostOneRequestAnAddress : ¬ Obligations.AtomicsPostOneRequestAnAddress := by
  unfold Obligations.AtomicsPostOneRequestAnAddress
  intro ⟨_, h⟩
  have hpost := h two ctxOfTwo byLaneid ctx_two
  obtain ⟨hfetch, _⟩ := hpost uniform_byLaneid (by decide) (by decide) (by decide)
  obtain ⟨hatoms, _⟩ := hfetch (by decide)
  have hone := requestsAfter_of_next hatoms
  rw [requestsAfter_atoms] at hone
  exact absurd hone (by decide)

end Sys2Proof
end

section
/-!
SUPPORT. Fences and waits for earlier accesses (R103, R142, R171, R172, R177): when nothing of the group is outstanding, and
each course of FENCE; O18 is assembled from these.
-/

namespace Sys2Proof.Machine

/-! ### A group with nothing outstanding -/

theorem Req.ofThreads_eq_false {r : Req} {blk grp : Nat} (h : ¬ (r.blk = blk ∧ r.grp = grp)) (m : Mask) :
    r.ofThreads blk grp m = false := by
  unfold Req.ofThreads
  by_cases hb : r.blk = blk
  · simp [show r.grp ≠ grp from fun hg => h ⟨hb, hg⟩]
  · simp [hb]

theorem MtxOp.ofThreads_eq_false {o : MtxOp} {blk : Nat} (h : o.blk ≠ blk) (grp : Nat) (m : Mask) (n : Nat) :
    o.ofThreads blk grp m n = false := by
  simp [MtxOp.ofThreads, h]

theorem Probe.ofThreads_eq_false {p : Probe} {blk grp : Nat} (h : ¬ (p.blk = blk ∧ p.grp = grp)) (m : Mask) (n : Nat) :
    p.ofThreads blk grp m n = false := by
  unfold Probe.ofThreads
  by_cases hb : p.blk = blk
  · simp [show p.grp ≠ grp from fun hg => h ⟨hb, hg⟩]
  · simp [hb]

/-- Every earlier access of an idle group is performed at every scope. -/
theorem Ctx.idle.quiet {c : Ctx} {s : State} (h : c.idle s) (m : Mask) (scope : Nat) :
    s.quiet c.iss.blk c.iss.grp m scope = true := by
  obtain ⟨hr, ho, hp⟩ := h
  simp only [State.quiet, State.unitsQuiet, Bool.and_eq_true, List.all_eq_true]
  refine ⟨fun r hm => ?_, fun o hm => ?_, fun p hm => ?_⟩
  · simp [Req.ofThreads_eq_false (hr r hm)]
  · simp [MtxOp.ofThreads_eq_false (ho o hm)]
  · simp [Probe.ofThreads_eq_false (hp p hm)]

/-- So is every earlier load and atomic. -/
theorem Ctx.idle.loadsQuiet {c : Ctx} {s : State} (h : c.idle s) (m : Mask) :
    s.loadsQuiet c.iss.blk c.iss.grp m = true := by
  obtain ⟨hr, ho, hp⟩ := h
  simp only [State.loadsQuiet, Bool.and_eq_true, List.all_eq_true]
  refine ⟨⟨fun r hm => ?_, fun o hm => ?_⟩, fun p hm => ?_⟩
  · simp [Req.ofThreads_eq_false (hr r hm)]
  · simp [MtxOp.ofThreads_eq_false (ho o hm)]
  · simp [Probe.ofThreads_eq_false (hp p hm)]

theorem Ctx.idle.fenceOk {c : Ctx} {s : State} (h : c.idle s) (x : MForm) : c.fenceOk s x = true := by
  unfold Ctx.fenceOk
  split
  · exact h.loadsQuiet _
  · exact h.quiet _ _

/-! ### Waits that leave something behind -/

variable {s : State} {c : Ctx}

/-- An instruction that only waits leaves the issue list and nothing else. -/
theorem State.issue_hold {f : Ctx → State → Res} (hc : s.ctx? = some c) (hf : f c (s.begin_ c) = .wait (s.begin_ c)) :
    s.issue f = .next (s.waits c id) := by
  rw [State.issue_wait hc hf, State.hold_begin]

/-- A condition that is met lets the set pass; else it waits. -/
theorem State.issue_pass_or_hold {f : Ctx → State → Res} {p : Prop} [Decidable p] (hc : s.ctx? = some c)
    (hf : f c (s.begin_ c) = if p then .done (s.begin_ c) 0 else .wait (s.begin_ c)) :
    (p → s.issue f = .next (s.after c 1 0 id)) ∧ (¬ p → s.issue f = .next (s.waits c id)) :=
  ⟨fun hp => State.issue_nothing hc (hf.trans (if_pos hp)), fun hp => State.issue_hold hc (hf.trans (if_neg hp))⟩

/-! ### WAITC and FENCEG -/

theorem Group.waitc_iff (g : Group) (imm : W32) :
    g.waitc imm = true ↔ (imm.toNat.testBit 24 = true → g.lc ≤ imm.toNat % 2 ^ 8)
      ∧ (imm.toNat.testBit 25 = true → g.sc ≤ imm.toNat / 2 ^ 8 % 2 ^ 8)
      ∧ (imm.toNat.testBit 26 = true → g.mc ≤ imm.toNat / 2 ^ 16 % 2 ^ 8)
      ∧ (imm.toNat.testBit 27 = true → g.ec = 0) := by
  simp only [Group.waitc, bitOf, bitsOf, Bool.and_eq_true, Bool.or_eq_true, Bool.not_eq_true', beq_iff_eq,
    ← Bool.not_eq_true, imp_iff_not_or, and_assoc]
  simp [Nat.shiftRight_eq_div_pow]

theorem exec_fenceg_spec (hc : s.ctx? = some c) (x : VForm) :
    (c.on x.g = 0 ∨ s.quiet c.iss.blk c.iss.grp (c.on x.g) 1 = true → exec (.fenceg x) s = .next (s.after c 1 0 id))
      ∧ (¬ (c.on x.g = 0 ∨ s.quiet c.iss.blk c.iss.grp (c.on x.g) 1 = true) →
        exec (.fenceg x) s = .next (s.waits c id)) := by
  rw [exec_fenceg]
  exact State.issue_pass_or_hold hc rfl

theorem exec_waitc_spec (hc : s.ctx? = some c) (x : KForm) (hu : x.imm.toNat.testBit 27 = true → c.unshielded) :
    (c.on x.g = 0 ∨ c.g.waitc x.imm = true → exec (.waitc x) s = .next (s.after c 1 0 id))
      ∧ (¬ (c.on x.g = 0 ∨ c.g.waitc x.imm = true) → exec (.waitc x) s = .next (s.waits c id)) := by
  have hs : c.shielded (if x.imm.getLsbD 27 then c.on x.g else 0) = 0 := by
    split
    · exact Ctx.shielded_on (hu ‹_›) _
    · exact Ctx.shielded_zero c
  rw [exec_waitc, ← State.finish_begin, ← State.hold_begin]
  unfold execWaitc
  constructor <;> intro h
  · exact State.issueN_done hc (if_pos h) (fun c => if x.imm.getLsbD 27 then c.on x.g else 0) hs
  · exact State.issueN_wait hc (if_neg h) (fun c => if x.imm.getLsbD 27 then c.on x.g else 0) hs

/-! ### FENCE -/

/-- What FENCE does at a remote owner core k, once some lane takes part and k is a core (R177). -/
def Ctx.remoteFence (c : Ctx) (s : State) (x : MForm) (k : Nat) : Res :=
  match s.fenceMark c with
  | none =>
    if !s.loadsQuiet c.iss.blk c.iss.grp (c.on x.g) then .wait s
    else if c.fenceOk s x && (s.acceptedAt k).isEmpty then .done s 0
    else .wait { s with
      nextId := s.nextId + 1
      reqs := s.reqs ++ [{ c.req x .fence .global with
        id := s.nextId, threads := c.iss.lanes, takers := c.on x.g, size := 0, order := 0, owner := some k
        acks := s.acceptedAt k }] }
  | some r =>
    if c.fenceOk s x && s.allPerformed r.acks then
      .done { s with
        reqs := s.reqs.filter fun q => !(decide (q.kind = .fence) && q.ofThreads c.iss.blk c.iss.grp c.iss.lanes) } 0
    else .wait s

/-- What FENCE does: it passes, raises RSC_BAD_CORE, waits for its own condition, or acts at its owner core (R172, R177). -/
def Ctx.fence (c : Ctx) (s : State) (x : MForm) : Res :=
  if c.on x.g = 0 then .done s 0
  else if anyCause (badOwner (c.owner x.o.c) (c.on x.g)) then .raise (badOwner (c.owner x.o.c) (c.on x.g)) 0 false
  else (c.owner x.o.c).elim (if c.fenceOk s x then .done s 0 else .wait s) (c.remoteFence s x)

theorem exec_fence_eq (x : MForm) (s : State) : exec (.fence x) s = s.issue fun c s => c.fence s x := by
  rw [exec_fence]
  unfold execFence
  congr 1
  funext c s
  unfold Ctx.fence Ctx.remoteFence
  cases c.owner x.o.c <;> rfl

/-- A fence that names no owner core waits for its own condition only. -/
theorem exec_fence_spec (hc : s.ctx? = some c) {x : MForm} (hm : c.on x.g ≠ 0) (ho : x.o.c = .none) :
    (c.fenceOk s x = true → exec (.fence x) s = .next (s.after c 1 0 id))
      ∧ (¬ c.fenceOk s x = true → exec (.fence x) s = .next (s.waits c id)) := by
  rw [exec_fence_eq]
  refine State.issue_pass_or_hold hc ?_
  simp only [Ctx.fence, if_neg hm, Ctx.owner, ho, if_true]
  rfl

theorem exec_fence_off (hc : s.ctx? = some c) {x : MForm} (hm : c.on x.g = 0) :
    exec (.fence x) s = .next (s.after c 1 0 id) :=
  (exec_fence_eq x s).trans (State.issue_nothing hc (if_pos hm))

theorem anyCause_badOwner {k : Nat} (h : k < 144) (m : Mask) : anyCause (badOwner (some k) m) = false := by
  simp [badOwner, show ¬ k ≥ 144 by omega, anyCause]

/-- A fence at a remote owner core passes or waits as remoteFence says. -/
theorem Ctx.fence_eq_remoteFence {x : MForm} (hm : c.on x.g ≠ 0) (ho : x.o.c ≠ .none)
    (hk : (c.sval x.o.c).toNat % 2 ^ 32 < 144) (u : State) :
    c.fence u x = c.remoteFence u x ((c.sval x.o.c).toNat % 2 ^ 32) := by
  have hown : c.owner x.o.c = some ((c.sval x.o.c).toNat % 2 ^ 32) := if_neg ho
  rw [Ctx.fence, if_neg hm, hown, anyCause_badOwner hk]
  rfl

theorem exec_fence_passes (hc : s.ctx? = some c) {x : MForm} {t : State} (h : c.fence (s.begin_ c) x = .done (t.begin_ c) 0) :
    exec (.fence x) s = .next (t.after c 1 0 id) := by
  rw [exec_fence_eq, State.issue_done hc h, State.finish_begin]

theorem exec_fence_waits (hc : s.ctx? = some c) {x : MForm} {t : State} (h : c.fence (s.begin_ c) x = .wait (t.begin_ c)) :
    exec (.fence x) s = .next (t.waits c id) := by
  rw [exec_fence_eq, State.issue_wait hc h, State.hold_begin]

/-! What a remote fence does before it has left its mark, and after (log 25). -/

section Remote

variable {x : MForm} {k : Nat}

theorem Ctx.remoteFence_waits_for_loads (hf : s.fenceMark c = none)
    (hl : s.loadsQuiet c.iss.blk c.iss.grp (c.on x.g) = false) : c.remoteFence (s.begin_ c) x k = .wait (s.begin_ c) := by
  unfold Ctx.remoteFence
  rw [show (s.begin_ c).fenceMark c = none from hf]
  exact if_pos (by rw [show (s.begin_ c).loadsQuiet c.iss.blk c.iss.grp (c.on x.g) = false from hl]; rfl)

theorem Ctx.remoteFence_of_loads (hf : s.fenceMark c = none) (hl : s.loadsQuiet c.iss.blk c.iss.grp (c.on x.g) = true) :
    c.remoteFence (s.begin_ c) x k =
      if c.fenceOk s x = true ∧ s.acceptedAt k = [] then .done (s.begin_ c) 0
      else .wait (({ s with
        nextId := s.nextId + 1
        reqs := s.reqs ++ [{ c.req x .fence .global with
          id := s.nextId, threads := c.iss.lanes, takers := c.on x.g, size := 0, order := 0, owner := some k
          acks := s.acceptedAt k }] } : State).begin_ c) := by
  unfold Ctx.remoteFence
  rw [show (s.begin_ c).fenceMark c = none from hf]
  refine (if_neg (by rw [show (s.begin_ c).loadsQuiet c.iss.blk c.iss.grp (c.on x.g) = true from hl]; simp)).trans ?_
  refine if_congr ?_ rfl rfl
  rw [Bool.and_eq_true, List.isEmpty_iff]
  rfl

theorem Ctx.remoteFence_of_mark {r : Req} (hf : s.fenceMark c = some r) :
    c.remoteFence (s.begin_ c) x k =
      if c.fenceOk s x = true ∧ s.allPerformed r.acks = true then
        .done (({ s with
          reqs := s.reqs.filter fun q => !(decide (q.kind = .fence) && q.ofThreads c.iss.blk c.iss.grp c.iss.lanes) } :
            State).begin_ c) 0
      else .wait (s.begin_ c) := by
  unfold Ctx.remoteFence
  rw [show (s.begin_ c).fenceMark c = some r from hf]
  refine if_congr ?_ rfl rfl
  rw [Bool.and_eq_true]
  rfl

end Remote

end Sys2Proof.Machine

namespace Sys2Proof
open Machine

/-- Settles O18: FENCEG and WAITC by the law of a wait, FENCE by its course with and without an owner core and a mark. -/
theorem fencesAndWaitcPassWhenTheirConditionHolds : Obligations.FencesAndWaitcPassWhenTheirConditionHolds := by
  unfold Obligations.FencesAndWaitcPassWhenTheirConditionHolds
  intro s c hc
  refine ⟨fun x => exec_fenceg_spec hc x, fun x => ?waitc, fun hi => ⟨fun x => ?_, fun x ho => ?idle⟩, fun x => ?fence⟩
  case waitc =>
    intro n ok hu
    obtain ⟨hpass, hwait⟩ := exec_waitc_spec hc x hu
    exact ⟨fun h => hpass (h.imp_right (Group.waitc_iff c.g x.imm).2),
      fun hm h => hwait (not_or.2 ⟨hm, mt (Group.waitc_iff c.g x.imm).1 h⟩)⟩
  · exact (exec_fenceg_spec hc x).1 (.inr (hi.quiet _ _))
  case idle =>
    by_cases hm : c.on x.g = 0
    · exact exec_fence_off hc hm
    by_cases hn : x.o.c = .none
    · exact (exec_fence_spec hc hm hn).1 (hi.fenceOk x)
    obtain ⟨hk, hr⟩ := ho.resolve_left hn
    refine exec_fence_passes hc (t := s) ?_
    have hmark : s.fenceMark c = none := by rw [State.fenceMark, hr]; rfl
    rw [Ctx.fence_eq_remoteFence hm hn hk, Ctx.remoteFence_of_loads hmark (hi.loadsQuiet _)]
    exact if_pos ⟨hi.fenceOk x, by rw [State.acceptedAt, hr]; rfl⟩
  case fence =>
    have hok : c.fenceOk s x = true ↔ (if x.order = 1 then s.loadsQuiet c.iss.blk c.iss.grp (c.on x.g) = true
        else s.quiet c.iss.blk c.iss.grp (c.on x.g) x.scope.toNat = true) := by
      unfold Ctx.fenceOk
      split <;> rfl
    intro m ok
    refine ⟨exec_fence_off hc, fun hm hn h => (exec_fence_spec hc hm hn).1 (hok.2 h),
      fun hm hn h => (exec_fence_spec hc hm hn).2 (mt hok.1 h), fun hm hn hk => ⟨fun hf => ⟨fun hl => ?_, fun hl h => ?_,
        fun hl h => ?_⟩, fun r hf => ⟨fun h => ?_, fun h => ?_⟩⟩⟩
    · exact exec_fence_waits hc ((Ctx.fence_eq_remoteFence hm hn hk _).trans (Ctx.remoteFence_waits_for_loads hf hl))
    · refine exec_fence_passes hc ((Ctx.fence_eq_remoteFence hm hn hk _).trans ((Ctx.remoteFence_of_loads hf hl).trans ?_))
      exact if_pos (h.imp_left hok.2)
    · refine exec_fence_waits hc ((Ctx.fence_eq_remoteFence hm hn hk _).trans ((Ctx.remoteFence_of_loads hf hl).trans ?_))
      exact if_neg (mt (And.imp_left hok.1) h)
    · refine exec_fence_passes hc ((Ctx.fence_eq_remoteFence hm hn hk _).trans ((Ctx.remoteFence_of_mark hf).trans ?_))
      exact if_pos (h.imp_left hok.2)
    · refine exec_fence_waits hc ((Ctx.fence_eq_remoteFence hm hn hk _).trans ((Ctx.remoteFence_of_mark hf).trans ?_))
      exact if_neg (mt (And.imp_left hok.1) h)

end Sys2Proof
end

section
/-!
SUPPORT. Barrier objects (R163 to R168): an update of the scratchpad commutes with the moving of the lanes that issue, a
barrier instruction reaches its object, and the completion check; O19 is assembled from these.
-/

namespace Sys2Proof.Machine

/-! ### Waking the lanes in a BARWAIT, and moving the lanes that issue (R22, R167) -/

/-- The state of a lane when every waiting BARWAIT is evaluated. -/
def LaneSt.wakeBar (m : Memory) : LaneSt → LaneSt
  | .barwait off d p => .barwait off d (p || barPassed (barRead m off).phase d)
  | st => st

theorem Lane.wakeBar_eq (x : Lane) (m : Memory) : x.wakeBar m = { x with st := x.st.wakeBar m } := by
  obtain ⟨pc, mt, smt, hdr, v, st⟩ := x
  cases st <;> rfl

/-- A running lane is left as it is. -/
theorem Lane.wakeBar_of_isRun {x : Lane} (m : Memory) (h : x.isRun = true) : x.wakeBar m = x := by
  obtain ⟨pc, mt, smt, hdr, v, st⟩ := x
  cases st with
  | run => rfl
  | _ => cases h

@[simp] theorem Lane.wakeBar_isRun (x : Lane) (m : Memory) : (x.wakeBar m).isRun = x.isRun := by
  rw [Lane.wakeBar_eq, Lane.isRun, Lane.isRun]
  cases x.st <;> rfl

theorem Lane.wakeBar_arrive (x : Lane) (m : Memory) : x.arrive.wakeBar m = (x.wakeBar m).arrive := by
  cases h : x.isRun with
  | true =>
    rw [Lane.wakeBar_of_isRun m h]
    unfold Lane.arrive
    split
    · rfl
    · exact Lane.wakeBar_of_isRun m h
  | false =>
    have hw : (x.wakeBar m).isRun = false := by rw [Lane.wakeBar_isRun, h]
    simp [Lane.arrive, h, hw]

/-- Placing a lane changes nothing that waking it asks. -/
theorem Lane.wakeBar_place (x : Lane) (m : Memory) (pc : W32) (hdr : Option W32) :
    ({ x with pc := pc, hdr := hdr } : Lane).wakeBar m = { x.wakeBar m with pc := pc, hdr := hdr } := by
  rw [Lane.wakeBar_eq, Lane.wakeBar_eq]

theorem Lane.wakeBar_pass (x : Lane) (m : Memory) (i : Issue) (n : Nat) : (x.pass i n).wakeBar m = (x.wakeBar m).pass i n := by
  rw [Lane.pass, Lane.wakeBar_arrive, Lane.wakeBar_place]
  rfl

/-- Every lane of a group that waits for a phase which has passed may go on. -/
def Group.wakeBar (g : Group) (m : Memory) : Group := g.modLanes (maskOf fun _ => true) fun _ x => x.wakeBar m

theorem Group.lane_wakeBar (g : Group) (m : Memory) {l : Nat} (h : l < 32) : (g.wakeBar m).lane l = (g.lane l).wakeBar m := by
  rw [Group.wakeBar, Group.lane_modLanes _ _ _ _ h]
  simp [h]

theorem Ctx.move_wakeBar (c : Ctx) (n : Nat) (own : Mask) (m : Memory) (g : Group) :
    c.move n own (g.wakeBar m) = (c.move n own g).wakeBar m := by
  apply Group.ext_lanes
  · intro l hl
    have hlane : ∀ g : Group, (c.move n own g).lane l
        = if inMask c.iss.lanes l then (if inMask own l then g.lane l else (g.lane l).pass c.iss n) else g.lane l :=
      fun g => Group.lane_modLanes _ _ _ _ hl
    rw [Group.lane_wakeBar _ _ hl, hlane, hlane, Group.lane_wakeBar _ _ hl]
    split
    · split
      · rfl
      · exact (Lane.wakeBar_pass _ _ _ _).symm
    · rfl
  · rfl

theorem List.map_modify_of_comm {α : Type} (l : List α) (i : Nat) {f g : α → α} (h : ∀ x, f (g x) = g (f x)) :
    (l.map f).modify i g = (l.modify i g).map f := by
  apply List.ext_getElem?
  intro n
  simp only [List.getElem?_modify, List.getElem?_map]
  split <;> cases l[n]? <;> simp [h]

/-- A change of one group of a block. -/
def Block.modGroup (b : Block) (i : Nat) (f : Group → Group) : Block := { b with groups := b.groups.modify i f }

theorem Block.setScratch_modGroup (b : Block) (m : Memory) (c : Ctx) (n : Nat) (own : Mask) :
    (b.setScratch m).modGroup c.iss.grp (c.move n own) = (b.modGroup c.iss.grp (c.move n own)).setScratch m := by
  unfold Block.setScratch Block.modGroup
  congr 1
  exact List.map_modify_of_comm (f := fun g => g.wakeBar m) _ _ fun g => (c.move_wakeBar n own m g).symm

theorem State.modBlock_comm (s : State) (k : Nat) {f g : Block → Block} (hf : ∀ b, (f b).id = b.id)
    (hg : ∀ b, (g b).id = b.id) (h : ∀ b, f (g b) = g (f b)) :
    (s.modBlock k f).modBlock k g = (s.modBlock k g).modBlock k f := by
  unfold State.modBlock
  congr 1
  simp only [List.map_map]
  apply List.map_congr_left
  intro b _
  simp only [Function.comp_apply]
  by_cases hb : b.id = k
  · simp only [hb, hf, hg, if_true, h]
  · simp only [hb, if_false]

/-- An update of the issuing block's scratchpad may as well come after its lanes have moved. -/
theorem State.finish_modBlock_setScratch (s : State) (c : Ctx) (n : Nat) (own : Mask) (f : Memory → Memory) :
    ((s.begin_ c).modBlock c.iss.blk fun b => b.setScratch (f b.scratch)).finish c n own
      = (s.after c n own id).modBlock c.iss.blk fun b => b.setScratch (f b.scratch) := by
  rw [← State.finish_begin]
  have h : ∀ t : State, t.finish c n own =
      { t.modBlock c.iss.blk fun b => b.modGroup c.iss.grp (c.move n own) with cur := t.cur.tail } := fun _ => rfl
  have hcomm := State.modBlock_comm (s.begin_ c) c.iss.blk (f := fun b => b.setScratch (f b.scratch))
    (g := fun b => b.modGroup c.iss.grp (c.move n own)) (fun _ => rfl) (fun _ => rfl)
    fun b => (b.setScratch_modGroup (f b.scratch) c n own).symm
  rw [h, h]
  exact congrArg (fun t : State => { t with cur := t.cur.tail }) hcomm

/-! ### Reaching the object (R164, R152) -/

theorem Ctx.idle.barFree {c : Ctx} {s : State} (h : c.idle s) (off : Nat) : s.barFree c off = true := by
  obtain ⟨hr, _, hp⟩ := h
  simp only [State.barFree, State.probing, Bool.and_eq_true, List.all_eq_true, Bool.not_eq_true', List.any_eq_false]
  refine ⟨fun r hm => ?_, fun p hm => ?_⟩
  · simp [Req.ofThreads_eq_false (hr r hm)]
  · simp [Probe.ofThreads_eq_false (hp p hm)]

/-- The object of a barrier instruction lies in the scratchpad at a multiple of 16 (R164). -/
def Ctx.barOk (c : Ctx) (x : MForm) : Prop :=
  c.barOff x % 16 = 0 ∧ 0 ≤ c.barOff x ∧ c.barOff x + 16 ≤ c.l.lr.scratch

/-- A barrier instruction that reaches its object does what it does to it. -/
theorem Ctx.barrier_of_ok {c : Ctx} {s : State} {x : MForm} (hm : c.on x.g ≠ 0) (hb : c.barOk x)
    (hf : s.barFree c (c.barOff x).toNat = true ∨ c.idle s) (f : Nat → BarObj → Res) :
    c.barrier (s.begin_ c) x f = f (c.barOff x).toNat (barRead c.b.scratch (c.barOff x).toNat) := by
  have hfree : (s.begin_ c).barFree c (c.barOff x).toNat = true := hf.elim id fun hi => hi.barFree _
  have hcauses : anyCause (c.barCauses x) = false := anyCause_localCauses fun _ _ => hb
  rw [Ctx.barrier, if_neg hm, hcauses, hfree]
  rfl

theorem mask_eq_zero_of_length {m : Mask} (h : (lanesOf m).length = 0) : m = 0 := by
  refine mask_ext fun l _ => ?_
  rw [show (0 : Mask) = 0#32 from rfl, inMask_zero, ← Bool.not_eq_true, ← mem_lanesOf, List.length_eq_zero_iff.1 h]
  exact List.not_mem_nil

theorem Ctx.on_of_real {c : Ctx} {g : BitVec 4} (h : c.real g ≠ 0) : c.on g ≠ 0 := mt Ctx.real_of_on_zero h

/-! ### The completion check (R165) -/

theorem BarObj.check_of_complete {o : BarObj} (hv : o.valid = true) (h1 : 1 ≤ o.n) (h2 : o.n ≤ 512) (ha : o.arrived = o.n)
    (hq : o.quota ≤ o.landed) :
    o.check = { o with phase := (o.phase + 1) % 2 ^ 32, arrived := 0, landed := o.landed - o.quota } := by
  rw [BarObj.check, if_pos]
  simp [hv, h1, h2, ha, hq]

theorem BarObj.check_of_incomplete {o : BarObj}
    (h : o.valid = false ∨ o.n = 0 ∨ 512 < o.n ∨ o.arrived ≠ o.n ∨ o.landed < o.quota) : o.check = o := by
  rw [BarObj.check, if_neg]
  simp only [Bool.and_eq_true, decide_eq_true_eq, beq_iff_eq]
  rintro ⟨⟨⟨hv, h1, h2⟩, ha⟩, hq⟩
  rcases h with h | h | h | h | h
  · rw [hv] at h; cases h
  · omega
  · omega
  · exact h ha
  · omega

/-- An object that has just been set up is not complete: its count is not 0 and nothing has arrived. -/
theorem BarObj.check_of_new {k : Nat} (p : Nat) (h1 : 1 ≤ k) (h2 : k ≤ 512) :
    BarObj.check ⟨p, 2 ^ 15 + k, 0, 0, 0⟩ = ⟨p, 2 ^ 15 + k, 0, 0, 0⟩ := by
  refine BarObj.check_of_incomplete (.inr (.inr (.inr (.inl ?_))))
  simp only [BarObj.n]
  omega

/-! ### The instructions -/

/-- What putting an object back leaves. -/
theorem State.issue_barPut {s : State} {c : Ctx} {f : Ctx → State → Res} {off : Nat} {o : BarObj} (hc : s.ctx? = some c)
    (hf : f c (s.begin_ c) = c.barPut (s.begin_ c) off o) :
    s.issue f = .next ((s.after c 1 0 id).modBlock c.iss.blk fun b => b.setScratch (barWrite b.scratch off o.check)) := by
  rw [State.issue_done hc hf]
  exact congrArg _ (s.finish_modBlock_setScratch c 1 0 fun m => barWrite m off o.check)

end Sys2Proof.Machine

namespace Sys2Proof
open Machine

/-- Settles O19: each instruction reaches its object; what it puts back is moved past the moving of the lanes. -/
theorem barriersAct : Obligations.BarriersAct := by
  unfold Obligations.BarriersAct
  refine ⟨fun s c x hc => ?put, fun o => ⟨fun hv h1 h2 ha hq => BarObj.check_of_complete hv h1 h2 ha hq,
    BarObj.check_of_incomplete⟩, fun s c x hc => ?wait⟩
  case put =>
    intro off o d n put ha hlo hhi hfree hr
    have reach := Ctx.barrier_of_ok (Ctx.on_of_real hr) ⟨ha, hlo, hhi⟩ hfree
    refine ⟨fun h1 h2 hlive => ?init, fun hv hd hn hq => ?arr, fun hv hd => ?exp⟩
    case init =>
      have hcount : ¬ (d % 2 ^ 16 = 0 ∨ d % 2 ^ 16 > 512) := by omega
      have hidle : ¬ (o.valid && (o.arrived != 0 || o.landed != 0)) = true := by simpa using hlive
      refine (exec_barinit x s).trans ((State.issue_barPut hc (off := off.toNat)
        (o := ⟨d / 2 ^ 32, 2 ^ 15 + d % 2 ^ 16, 0, 0, 0⟩) ((reach _).trans ?_)).trans ?_)
      · exact (if_neg hr).trans ((if_neg hcount).trans (if_neg hidle))
      · rw [BarObj.check_of_new _ h1 h2]
    case arr =>
      have hn0 : n ≠ 0 := fun h => hr (mask_eq_zero_of_length h)
      have hvalid : ¬ (!o.valid) = true := by simp [hv]
      have hquiet : ¬ (!s.quiet c.iss.blk c.iss.grp (c.real x.g) 2) = true := by
        simp [show s.quiet c.iss.blk c.iss.grp (c.real x.g) 2 = true from hq.elim id fun hi => hi.quiet _ _]
      refine (exec_bararr x s).trans (State.issue_barPut hc ((reach _).trans ?_))
      exact (if_neg hn0).trans ((if_neg hvalid).trans ((if_neg (not_not.2 hd)).trans ((if_neg (Nat.not_lt.2 hn)).trans
        (if_neg hquiet))))
    case exp =>
      have hvalid : ¬ (!o.valid) = true := by simp [hv]
      refine (exec_barexp x s).trans (State.issue_barPut hc ((reach _).trans ?_))
      exact (if_neg hr).trans ((if_neg hvalid).trans (if_neg (Nat.not_le.2 hd)))
  case wait =>
    intro off o d k ha hlo hhi hfree hm hv
    have reach := Ctx.barrier_of_ok hm ⟨ha, hlo, hhi⟩ hfree
    have hvalid : ¬ (!o.valid) = true := by simp [hv]
    refine ⟨?tst, fun hu hben => ?_⟩
    case tst =>
      exact (exec_bartst x s).trans (State.issue_doneG hc ((reach _).trans ((if_neg hvalid).trans (if_neg hm))))
    have hs : c.shielded (c.on x.g) = 0 := Ctx.shielded_on hu x.g
    have hprune : (maskOf fun l => inMask (c.on x.g) l && (c.r.lane l).ben) = 0 := maskOf_eq_zero fun l _ => by
      cases hl : inMask (c.on x.g) l
      · rfl
      · exact hben l hl
    rw [exec_barwait, ← State.finish_begin, ← State.finish_modGroup]
    refine ⟨fun hk => ?pass, fun hk => ?wait⟩
    case pass =>
      refine State.issueN_done hc ((reach _).trans ?_) _ hs
      refine (if_neg hvalid).trans ((if_neg (not_not.2 hprune)).trans (if_pos ?_))
      exact decide_eq_true hk
    case wait =>
      refine State.issueN_done hc ((reach _).trans ?_) _ hs
      refine (if_neg hvalid).trans ((if_neg (not_not.2 hprune)).trans (if_neg ?_))
      exact mt of_decide_eq_true hk

end Sys2Proof
end

section
/-!
SUPPORT. The fetch of the instruction at the head of the issue list (R18, R20, R31, R39, R143): translation, the word at its
home, its decoding, and the step that runs it; O54 is assembled from these.
-/

namespace Sys2Proof.Machine

/-- Translating changes the translation cache and uses up free values, and nothing else. -/
theorem State.translate_frame (s : State) (core : Nat) (k : Context) (va : Nat) :
    (s.translate core k va).2
      = { s with tlb := (s.translate core k va).2.tlb, free := (s.translate core k va).2.free } := by
  unfold State.translate
  dsimp only
  cases s.tlb.find? _ with
  | none => cases s.walk k va <;> rfl
  | some e =>
    dsimp only
    split
    · rfl
    · split
      · rfl
      · cases s.walk k va <;> rfl

theorem State.eq_of_translate {s t : State} {core va : Nat} {k : Context} {x : Xlat} (h : s.translate core k va = (x, t)) :
    t = { s with tlb := t.tlb, free := t.free } := by
  have hf := s.translate_frame core k va
  rw [h] at hf
  exact hf

/-- A read at its home asks neither the translation cache nor the free values. -/
theorem State.readHome_frame (s : State) (tlb : List TlbEntry) (free : Nat) (ctx va pa key n : Nat) :
    ({ s with tlb := tlb, free := free } : State).readHome ctx va pa key n = s.readHome ctx va pa key n := rfl

/-- Bytes of local memory that are not poisoned and lie in no live region read as memory holds them. -/
theorem State.readHome_local {s : State} {ctx va pa key n : Nat} (ht : targetOf pa = .mem pa)
    (hp : s.mem.poisoned pa n = false) (hr : s.regionAt ctx va = none) :
    s.readHome ctx va pa key n = .bytes (s.mem.read (s.keySerial key) pa n) := by
  simp [State.readHome, ht, hp, hr]

/-- A word on an executable page of local memory is fetched as memory holds it. -/
theorem State.fetch_local {s t : State} {core off base key : Nat} {l : Launch} {k : Context} {xw : Bool}
    (hk : s.context? l.ctx = some k) (hx : s.translate core k (l.codeVa off) = (.ok base key xw true, t))
    (ht : targetOf (Xlat.addr base (l.codeVa off)) = .mem (Xlat.addr base (l.codeVa off)))
    (hp : s.mem.poisoned (Xlat.addr base (l.codeVa off)) 8 = false) (hr : s.regionAt k.id (l.codeVa off) = none) :
    s.fetch core l off
      = (.word (BitVec.ofNat 64 (ofLe (s.mem.read (s.keySerial key) (Xlat.addr base (l.codeVa off)) 8))), t) := by
  have hread : t.readHome k.id (l.codeVa off) (Xlat.addr base (l.codeVa off)) key 8
      = .bytes (s.mem.read (s.keySerial key) (Xlat.addr base (l.codeVa off)) 8) := by
    rw [State.eq_of_translate hx, State.readHome_frame, State.readHome_local ht hp hr]
  simp [State.fetch, hk, hx, hread]

/-- A word of one word's length that decodes to an instruction of its clause is that instruction (R23). -/
theorem wordCause_of_decode {w s0 s1 s2 s3 : W64} {cls : Nat} {i : Instr} (h : decode w s0 s1 s2 s3 = .ok i)
    (hk : classOfOp (opOf w) = 0 ∨ classOfOp (opOf w) = cls) : wordCause w s0 s1 s2 s3 cls = .ok i := by
  have hmix : ¬ (classOfOp (w.extractLsb' 56 8) ≠ 0 ∧ classOfOp (w.extractLsb' 56 8) ≠ cls) :=
    fun ⟨h0, h1⟩ => hk.elim h0 h1
  rw [wordCause, h]
  exact if_neg hmix

theorem State.fetchInstr_of_word {s t : State} {core : Nat} {l : Launch} {j : Issue} {w : W64} {i : Instr}
    (hf : s.fetch core l j.pc.toNat = (.word w, t)) (ht : isTForm (opOf w) = false) (hd : decode w 0 0 0 0 = .ok i)
    (hk : classOfOp (opOf w) = 0 ∨ classOfOp (opOf w) = j.cls) (hpc : j.pc.toNat + 8 ≤ l.lr.codeSize)
    (hend : j.hdr.toNat + 8 * (j.cnt + 2) ≤ l.lr.codeSize) : s.fetchInstr core l j = (.run i, t) := by
  have hcode : ¬ l.lr.codeSize < max (j.hdr.toNat + 8 * (j.cnt + 2)) (j.pc.toNat + 8) := by omega
  have hone : ¬ isTForm (w.extractLsb' 56 8) = true := by rw [show w.extractLsb' 56 8 = opOf w from rfl, ht]; simp
  rw [State.fetchInstr]
  simp only [if_neg hcode, hf, if_neg hone, wordCause_of_decode hd hk]

/-- The set executes the instruction that was fetched: it names a run past its file, or nothing keeps it from issuing. -/
theorem State.fetchHead_of_run {s t : State} {c : Ctx} {i : Instr} (hc : s.ctx? = some c)
    (hf : s.fetchInstr c.b.core c.l c.iss = (.run i, t))
    (h : c.runsPast i = true ∨ (c.r.violating (c.uses s i) c.iss.lanes = 0 ∧ c.r.awaits (c.uses s i) c.iss.lanes = false
      ∧ t.unread? c.b c.l c.iss.grp (c.targets i) = none)) : s.fetchHead = (some i, t) := by
  simp only [State.fetchHead, hc, hf, State.settleFetch]
  rcases h with h | ⟨hv, ha, hu⟩
  · rw [if_pos h]
  · simp [hv, ha, State.askFirst, hu]

/-! ### A step -/

theorem step_of_fetchHead {s t : State} {i : Instr} (hcur : s.cur ≠ []) (h : s.fetchHead = (some i, t)) :
    step s = exec i t := by
  obtain ⟨j, rest, hj⟩ := List.exists_cons_of_ne_nil hcur
  rw [step, hj, h]

theorem State.cur_ne_nil {s : State} {c : Ctx} (hc : s.ctx? = some c) : s.cur ≠ [] := by
  intro h
  rw [State.ctx?, h] at hc
  cases hc

end Sys2Proof.Machine

namespace Sys2Proof
open Machine

/-- Settles O54: the fetch gives the word at its home, which decodes to the instruction; the other parts are the branches of
a step. -/
theorem stepRunsTheDecodedInstruction : Obligations.StepRunsTheDecodedInstruction := by
  unfold Obligations.StepRunsTheDecodedInstruction
  refine ⟨?run, fun s t i => step_of_fetchHead, fun s i hcur hdue => ?due, fun s i rest hcur hdue hag => ?agenda,
    fun s hcur hdue hag => ?choice⟩
  case run =>
    intro s t c k base key xw i hc hk va pa w hx htgt hp hr ht hd hcls hpc hend h
    have hfetch := State.fetchInstr_of_word (State.fetch_local hk hx htgt hp hr) ht hd hcls hpc hend
    exact ⟨step_of_fetchHead (State.cur_ne_nil hc) (State.fetchHead_of_run hc hfetch h), State.eq_of_translate hx⟩
  case due => rw [step, hcur, hdue]
  case agenda => rw [step, hcur, hdue, hag]
  case choice => rw [step, hcur, hdue, hag]

end Sys2Proof
end

section
/-!
SUPPORT. What the course of an instruction can reach (R25, R143): a register instruction acts on its own block alone, and
what becomes of it, a trap and the kill of its launch among them, leaves device memory, the checkpoint, the fabric and the
blocks of other launches as they were; O60 is assembled from these.
-/

namespace Sys2Proof.Machine

/-- A fold keeps what each of its steps keeps. -/
theorem State.foldl_of_step {α : Type} {keeps : State → State → Prop} (refl : ∀ s, keeps s s)
    (trans : ∀ {s t u}, keeps s t → keeps t u → keeps s u) {f : State → α → State} (h : ∀ s x, keeps s (f s x)) (xs : List α)
    (s : State) : keeps s (xs.foldl f s) := by
  induction xs generalizing s with
  | nil => exact refl s
  | cons x xs ih => exact trans (h s x) (ih _)

/-! ### Leaving the rest of the device alone -/

/-- Device memory, the checkpoint and the fabric are the same in t, and so is every block but those of a number and those
of a launch. -/
structure State.Spares (blk launch : Nat) (s t : State) : Prop where
  mem : t.mem = s.mem
  ckpt : t.ckpt = s.ckpt
  fab : t.fab = s.fab
  others : ∀ b ∈ s.blocks, b.id ≠ blk → b.launch ≠ launch → b ∈ t.blocks

namespace State.Spares

variable {blk launch : Nat} {s t u : State}

theorem refl (s : State) : s.Spares blk launch s := ⟨rfl, rfl, rfl, fun _ hb _ _ => hb⟩

theorem trans (h : s.Spares blk launch t) (k : t.Spares blk launch u) : s.Spares blk launch u :=
  ⟨k.mem.trans h.mem, k.ckpt.trans h.ckpt, k.fab.trans h.fab, fun b hb hi hl => k.others b (h.others b hb hi hl) hi hl⟩

/-- A step that keeps all blocks spares them. -/
theorem of_blocks (hm : t.mem = s.mem) (hc : t.ckpt = s.ckpt) (hf : t.fab = s.fab) (hb : t.blocks = s.blocks) :
    s.Spares blk launch t := ⟨hm, hc, hf, fun _ h _ _ => hb ▸ h⟩

end State.Spares

theorem State.post_ckpt (s : State) (f : Nat) (e : CEntry) : (s.post f e).ckpt = s.ckpt := by
  rcases s.post_cases f e with h | ⟨x, h⟩
  · rw [h, State.ringWrite_ckpt]
  · rw [h, State.setFn_ckpt]

theorem State.post_fab (s : State) (f : Nat) (e : CEntry) : (s.post f e).fab = s.fab := by
  rcases s.post_cases f e with h | ⟨x, h⟩
  · rw [h, State.ringWrite_fab]
  · rw [h, State.setFn_fab]

/-! ### The kill of a launch (R323) -/

section Kill

variable {blk launch : Nat}

theorem State.spares_post (s : State) (f : Nat) (e : CEntry) : s.Spares blk launch (s.post f e) :=
  .of_blocks (s.post_mem f e) (s.post_ckpt f e) (s.post_fab f e) (s.post_blocks f e)

theorem State.spares_stopBlocks (s : State) : s.Spares blk launch (s.stopBlocks launch) :=
  ⟨rfl, rfl, rfl, fun b hb _ hl => List.mem_filter.2 ⟨hb, by simpa using hl⟩⟩

theorem State.spares_endKill (s : State) (k : Nat) : s.Spares blk launch (s.endKill k) := by
  unfold State.endKill
  split
  · exact .refl s
  · split
    · exact .refl s
    · split
      · exact .refl s
      · rename_i l _ _ e code _ _
        have hpost : s.Spares blk launch
            (((s.resetRegions k).modLaunch k fun l => { l with stopping := none }).post l.fn e) :=
          State.Spares.trans (.of_blocks (t := (s.resetRegions k).modLaunch k fun l => { l with stopping := none })
            rfl rfl rfl rfl) (State.spares_post _ l.fn e)
        split
        · exact hpost.trans (.of_blocks rfl rfl rfl rfl)
        · exact hpost.trans (.of_blocks rfl rfl rfl rfl)

theorem State.spares_kill (s : State) (k grp code : Nat) (more : List W64) :
    s.Spares blk launch (s.kill launch k grp code more) := by
  unfold State.kill
  split
  · exact .refl s
  · dsimp only
    split
    · exact .refl s
    · refine State.Spares.trans ?_ (State.spares_endKill _ launch)
      refine State.Spares.trans (t := List.foldl _ ((s.releaseCredit launch _).stopBlocks launch) _) ?_
        (.of_blocks rfl rfl rfl rfl)
      refine State.Spares.trans ?_ (State.foldl_of_step .refl .trans (fun t a => State.spares_post t _ _) _ _)
      exact State.Spares.trans (.of_blocks (t := s.releaseCredit launch _) rfl rfl rfl rfl) (State.spares_stopBlocks _)

end Kill

/-! ### Acting on one's own block alone -/

/-- The block of a number, if there is one, belongs to a launch. -/
def State.Owned (blk launch : Nat) (s : State) : Prop := ∀ b, s.block? blk = some b → b.launch = launch

/-- What an instruction of a block does on its way: it spares the rest, and its block stays one of its launch. -/
structure State.Within (blk launch : Nat) (s t : State) : Prop extends State.Spares blk launch s t where
  owned : s.Owned blk launch → t.Owned blk launch

namespace State.Within

variable {blk launch : Nat} {s t u : State}

theorem refl (s : State) : s.Within blk launch s := ⟨.refl s, id⟩

theorem trans (h : s.Within blk launch t) (k : t.Within blk launch u) : s.Within blk launch u :=
  ⟨h.toSpares.trans k.toSpares, k.owned ∘ h.owned⟩

theorem of_blocks (hm : t.mem = s.mem) (hc : t.ckpt = s.ckpt) (hf : t.fab = s.fab) (hb : t.blocks = s.blocks) :
    s.Within blk launch t := by
  refine ⟨.of_blocks hm hc hf hb, fun h b hbl => h b ?_⟩
  rw [← hbl, State.block?, State.block?, hb]

/-- A change of the block itself. -/
theorem modBlock (s : State) {f : Block → Block} (hid : ∀ b, (f b).id = b.id) (hl : ∀ b, (f b).launch = b.launch) :
    s.Within blk launch (s.modBlock blk f) := by
  refine ⟨⟨rfl, rfl, rfl, fun b hb hi _ => List.mem_map.2 ⟨b, hb, if_neg hi⟩⟩, fun h b hb => ?_⟩
  rw [State.block?_modBlock _ _ _ _ hid, Option.map_eq_some_iff] at hb
  obtain ⟨b', hb', rfl⟩ := hb
  rw [apply_ite Block.launch, hl, ite_self]
  exact h b' hb'

theorem modGroup (s : State) (i : Nat) (f : Group → Group) : s.Within blk launch (s.modGroup blk i f) :=
  .modBlock s (fun _ => rfl) fun _ => rfl

end State.Within

/-! ### The course of an instruction (R306 to R310) -/

section Course

variable {launch : Nat} {s : State} {c : Ctx}

theorem State.within_begin (s : State) (c : Ctx) : s.Within c.iss.blk launch (s.begin_ c) := .modGroup s _ _

theorem State.within_finish (s : State) (c : Ctx) (n : Nat) (own : Mask) : s.Within c.iss.blk launch (s.finish c n own) :=
  (State.Within.modGroup s _ _).trans (.of_blocks rfl rfl rfl rfl)

theorem State.within_hold (s : State) (c : Ctx) : s.Within c.iss.blk launch (s.hold c) :=
  (State.Within.modGroup s _ _).trans (.of_blocks rfl rfl rfl rfl)

theorem State.within_withdrawHome (s : State) (h : HomeReq) {blk : Nat} : s.Within blk launch (s.withdrawHome h) := by
  unfold State.withdrawHome
  dsimp only
  split <;> exact .of_blocks rfl rfl rfl rfl

theorem State.within_abandon (s : State) (i : Issue) {blk : Nat} : s.Within blk launch (s.abandon i) :=
  (State.foldl_of_step .refl .trans (fun t h => t.within_withdrawHome h) _ s).trans (.of_blocks rfl rfl rfl rfl)

/-- A trap changes the group that takes it, or kills the launch of its block. -/
theorem State.spares_trap {blk : Nat} (hown : s.Owned blk launch) (grp : Nat) (r : Raise) :
    s.Spares blk launch (s.trap blk grp r) := by
  unfold State.trap
  split
  case h_2 => exact .refl s
  case h_1 b k m hb _ =>
    have hne : ∀ x : Block, x.id ≠ blk → ¬ x.id = b.id := fun x hi he => hi (he.trans (State.block?_id hb))
    have hset : ∀ g, s.Spares blk launch (s.setBlock (b.setGroup grp g)) := fun g =>
      ⟨rfl, rfl, rfl, fun x hx hi _ => List.mem_map.2 ⟨x, hx, if_neg (hne x hi)⟩⟩
    rw [hown b hb]
    dsimp only
    split
    · split
      · exact State.spares_kill s _ _ _ _
      · exact hset _
    · split
      · exact .refl s
      · split
        · exact hset _
        · exact (hset _).trans (State.spares_kill _ _ _ _ _)

/-! ### What the meaning of an instruction gives -/

/-- The state that an instruction passes or waits in has changed its own block alone. -/
def Res.Within (c : Ctx) (s : State) : Res → Prop
  | .done t _ => s.Within c.iss.blk c.b.launch t
  | .wait t => s.Within c.iss.blk c.b.launch t
  | .raise .. => True
  | .fail .. => True

/-- Whatever becomes of an instruction whose meaning acts on its own block alone. -/
theorem State.spares_issueN {t : State} {n : Nat} {forbidden : Ctx → Mask} {f : Ctx → State → Res} (hc : s.ctx? = some c)
    (hf : (f c (s.begin_ c)).Within c (s.begin_ c)) (h : s.issueN n forbidden f = .next t) :
    s.Spares c.iss.blk c.b.launch t := by
  have hown : s.Owned c.iss.blk c.b.launch := fun b hb => by
    rw [State.ctx?_block hc] at hb
    rw [Option.some.inj hb]
  have hbegin : s.Within c.iss.blk c.b.launch (s.begin_ c) := s.within_begin c
  have hgone : s.Within c.iss.blk c.b.launch { s.abandon c.iss with cur := s.cur.tail } :=
    (s.within_abandon c.iss).trans (.of_blocks rfl rfl rfl rfl)
  have hskip : s.Within c.iss.blk c.b.launch { s with cur := s.cur.tail } := .of_blocks rfl rfl rfl rfl
  have trapped : ∀ {u : State} (r : Raise), s.Within c.iss.blk c.b.launch u →
      s.Spares c.iss.blk c.b.launch (u.trap c.iss.blk c.iss.grp r) := fun r hu =>
    hu.toSpares.trans (State.spares_trap (hu.owned hown) _ r)
  unfold State.issueN at h
  rw [hc] at h
  dsimp only at h
  cases hr : f c (s.begin_ c) with
  | raise cs arg after =>
    rw [hr] at h
    cases h
    refine trapped _ ?_
    split
    · exact hbegin.trans (State.within_finish _ c n _)
    · exact hgone
  | fail cs fault =>
    rw [hr] at h
    cases h
    exact trapped _ hgone
  | wait u =>
    rw [hr] at h hf
    dsimp only at h
    split at h
    · cases h
      exact trapped _ hskip
    · cases h
      exact (hbegin.trans (State.Within.trans hf (State.within_hold u c))).toSpares
  | done u own =>
    rw [hr] at h hf
    dsimp only at h
    split at h
    · cases h
      exact trapped _ hskip
    · cases h
      exact (hbegin.trans (State.Within.trans hf (State.within_finish u c n own))).toSpares

/-! ### The shared courses -/

namespace Res

theorem within_ite {p : Prop} [Decidable p] {a b : Res} (ha : a.Within c s) (hb : b.Within c s) :
    (if p then a else b).Within c s := by
  split
  · exact ha
  · exact hb

theorem within_nothing (own : Mask) : (Res.done s own).Within c s := State.Within.refl s

theorem within_wait : (Res.wait s).Within c s := State.Within.refl s

theorem within_group (own : Mask) (f : Group → Group) : (Res.done (s.modGroup c.iss.blk c.iss.grp f) own).Within c s :=
  State.Within.modGroup s _ _

theorem within_doneG (f : Group → Group) : (c.doneG s f).Within c s := within_group 0 f

theorem within_cause (k : Cause) (m : Mask) : (Res.cause k m).Within c s := trivial

theorem within_scal (g : BitVec 4) (d : Opnd) (w : W64) : (c.scal s g d w).Within c s :=
  within_ite (within_nothing 0) (within_doneG _)

theorem within_later (la : BitVec 4) (m : Mask) (vr sr : List Nat) (ws : List (Dest × W64)) (f : Group → Group) :
    (c.later s la m vr sr ws f).Within c s :=
  within_ite (within_nothing 0) (State.Within.trans (.of_blocks (t := s.fresh) rfl rfl rfl rfl) (.modGroup _ _ _))

theorem within_jump (m : Mask) (a : Opnd) (t : Nat → W32) (f : Group → Group) : (c.jump s m a t f).Within c s :=
  within_ite (within_cause _ _) (within_group _ _)

end Res

end Course

end Sys2Proof.Machine
end

section
/-!
SUPPORT. Each register instruction's meaning acts on its own block alone (0x00 to 0x66 and 0xE0 to 0xE4); O60.
-/

namespace Sys2Proof.Machine

/-- An instruction issues with a meaning that acts on its own block alone. -/
def Confined (i : Instr) : Prop :=
  ∃ (n : Nat) (forbidden : Ctx → Mask) (f : Ctx → State → Res),
    (∀ s, exec i s = s.issueN n forbidden f) ∧ ∀ c s, (f c s).Within c s

theorem Confined.of_issueN {i : Instr} {n : Nat} {forbidden : Ctx → Mask} {f : Ctx → State → Res}
    (h : ∀ s, exec i s = s.issueN n forbidden f) (hf : ∀ c s, (f c s).Within c s) : Confined i := ⟨n, forbidden, f, h, hf⟩

theorem Confined.of_issue {i : Instr} {f : Ctx → State → Res} (h : ∀ s, exec i s = s.issue f)
    (hf : ∀ c s, (f c s).Within c s) : Confined i := .of_issueN h hf

theorem Confined.spares {i : Instr} (hi : Confined i) {s t : State} {c : Ctx} (hc : s.ctx? = some c) (h : exec i s = .next t) :
    s.Spares c.iss.blk c.b.launch t := by
  obtain ⟨n, forbidden, f, hexec, hf⟩ := hi
  exact State.spares_issueN hc (hf c _) ((hexec s).symm.trans h)

/-! ### The forms with a course of their own -/

namespace Res

variable {s : State} {c : Ctx}

theorem within_addSub (x : VForm) (sub : Bool) : (c.addSub s x sub).Within c s := by
  unfold Ctx.addSub
  split <;> exact within_doneG _

theorem within_fltLater (x : VForm) (f : Nat → Nat × Nat) : (c.fltLater s x f).Within c s := within_later _ _ _ _ _ _

end Res

theorem confined_brpk (x : JForm) : Confined (.brpk x) := by
  refine .of_issueN (n := 1) (forbidden := (·.iss.lanes)) (fun s => exec_brpk x s) fun c s => ?_
  exact Res.within_ite trivial (Res.within_group _ _)

theorem confined_sleep (x : KForm) : Confined (.sleep x) := by
  refine .of_issueN (n := 1) (forbidden := (·.on x.g)) (fun s => exec_sleep x s) fun c s => ?_
  exact Res.within_doneG _

theorem confined_setmt (x : JForm) : Confined (.setmt x) :=
  .of_issue (exec_setmt x) fun _ _ => Res.within_ite (Res.within_cause _ _) (Res.within_doneG _)

theorem confined_viext (x : VForm) : Confined (.viext x) :=
  .of_issue (exec_viext x) fun _ _ => Res.within_ite (Res.within_doneG _) (Res.within_doneG _)

theorem confined_vcvtf (x : VForm) : Confined (.vcvtf x) :=
  .of_issue (exec_vcvtf x) fun _ _ => Res.within_ite (Res.within_cause _ _) (Res.within_ite (Res.within_nothing 0)
    (Res.within_ite (Res.within_cause _ _) (Res.within_doneG _)))

theorem confined_vqnt (x : VForm) : Confined (.vqnt x) := by
  refine .of_issue (exec_vqnt x) fun c s => ?_
  dsimp only
  split
  · exact Res.within_ite (Res.within_nothing 0) (Res.within_cause _ _)
  · exact Res.within_ite (Res.within_cause _ _) (Res.within_ite (Res.within_nothing 0) (Res.within_doneG _))

theorem confined_vdqnt (x : VForm) : Confined (.vdqnt x) := by
  refine .of_issue (exec_vdqnt x) fun c s => ?_
  dsimp only
  split
  · exact Res.within_ite (Res.within_nothing 0) (Res.within_cause _ _)
  · exact Res.within_ite (Res.within_cause _ _) (Res.within_doneG _)

theorem confined_vvote (x : VForm) : Confined (.vvote x) := by
  refine .of_issue (exec_vvote x) fun c s => Res.within_ite (Res.within_nothing 0) ?_
  split
  · exact Res.within_scal _ _ _
  · exact Res.within_doneG _

theorem confined_vbcst (x : VForm) : Confined (.vbcst x) := by
  refine .of_issue (exec_vbcst x) fun c s => ?_
  dsimp only
  split
  · exact Res.within_scal _ _ _
  · exact Res.within_doneG _

theorem confined_rft (x : VForm) : Confined (.rft x) :=
  .of_issue (exec_rft x) fun _ _ => Res.within_ite (Res.within_nothing 0)
    (Res.within_ite (Res.within_cause _ _) (Res.within_group _ _))

theorem confined_csrr (x : SForm) : Confined (.csrr x) :=
  .of_issue (exec_csrr x) fun _ _ => Res.within_ite (Res.within_nothing 0)
    (Res.within_ite Res.within_wait (Res.within_doneG _))

/-- CSRW of TVEC writes the block's own TVEC too. -/
theorem confined_csrw (x : SForm) : Confined (.csrw x) := by
  refine .of_issue (exec_csrw x) fun c s => Res.within_ite (Res.within_nothing 0) ?_
  have hgroup : s.Within c.iss.blk c.b.launch (s.modGroup c.iss.blk c.iss.grp fun g => g.csrWrite x.csr.toNat (c.sval x.a)) :=
    .modGroup s _ _
  dsimp only [Res.Within]
  split
  · exact hgroup.trans (.modBlock _ (fun _ => rfl) fun _ => rfl)
  · exact hgroup

/-! ### By classes of opcodes (R24) -/

section Classes

variable {i : Instr} {op : BitVec 8} (ho : opcode i = some op)
include ho

theorem confined_control (h : op.toNat < 0x10) : Confined i := by
  cases i with
  | nop x => exact .of_issue (exec_nop x) fun _ _ => Res.within_nothing 0
  | bra x => exact .of_issue (exec_bra x) fun _ _ => Res.within_jump _ _ _ _
  | brc x => exact .of_issue (exec_brc x) fun _ _ => Res.within_jump _ _ _ _
  | bri x => exact .of_issue (exec_bri x) fun _ _ => Res.within_jump _ _ _ _
  | call x => exact .of_issue (exec_call x) fun _ _ => Res.within_jump _ _ _ _
  | calli x => exact .of_issue (exec_calli x) fun _ _ => Res.within_jump _ _ _ _
  | ret x => exact .of_issue (exec_ret x) fun _ _ => Res.within_jump _ _ _ _
  | setmt x => exact confined_setmt x
  | getmt x => exact .of_issue (exec_getmt x) fun _ _ => Res.within_doneG _
  | brpk x => exact confined_brpk x
  | demote x => exact .of_issue (exec_demote x) fun _ _ => Res.within_doneG _
  | exit x => exact .of_issue (exec_exit x) fun _ _ => Res.within_group _ _
  | yield x => exact .of_issue (exec_yield x) fun _ _ => Res.within_doneG _
  | sleep x => exact confined_sleep x
  | _ => exact absurd h (by cases ho <;> decide)

theorem confined_scalar (h0 : 0x10 ≤ op.toNat) (h : op.toNat < 0x20) : Confined i := by
  cases i with
  | sadd x => exact .of_issue (exec_sadd x) fun _ _ => Res.within_scal _ _ _
  | ssub x => exact .of_issue (exec_ssub x) fun _ _ => Res.within_scal _ _ _
  | smul x => exact .of_issue (exec_smul x) fun _ _ => Res.within_scal _ _ _
  | sdiv x => exact .of_issue (exec_sdiv x) fun _ _ => Res.within_later _ _ _ _ _ _
  | slog x => exact .of_issue (exec_slog x) fun _ _ => Res.within_scal _ _ _
  | ssh x => exact .of_issue (exec_ssh x) fun _ _ => Res.within_scal _ _ _
  | smnx x => exact .of_issue (exec_smnx x) fun _ _ => Res.within_scal _ _ _
  | scmp x => exact .of_issue (exec_scmp x) fun _ _ => Res.within_scal _ _ _
  | ssel x => exact .of_issue (exec_ssel x) fun _ _ => Res.within_scal _ _ _
  | smovk x => exact .of_issue (exec_smovk x) fun _ _ => Res.within_scal _ _ _
  | srdl x => exact .of_issue (exec_srdl x) fun _ _ => Res.within_scal _ _ _
  | sbit x => exact .of_issue (exec_sbit x) fun _ _ => Res.within_scal _ _ _
  | sget x => exact .of_issue (exec_sget x) fun _ _ => Res.within_scal _ _ _
  | _ => exact absurd (And.intro h0 h) (by cases ho <;> decide)

theorem confined_integer (h0 : 0x20 ≤ op.toNat) (h : op.toNat < 0x40) : Confined i := by
  cases i with
  | viadd x => exact .of_issue (exec_viadd x) fun _ _ => Res.within_addSub x _
  | visub x => exact .of_issue (exec_visub x) fun _ _ => Res.within_addSub x _
  | vimul x => exact .of_issue (exec_vimul x) fun _ _ => Res.within_doneG _
  | vimad x => exact .of_issue (exec_vimad x) fun _ _ => Res.within_doneG _
  | vidiv x => exact .of_issue (exec_vidiv x) fun _ _ => Res.within_later _ _ _ _ _ _
  | vlog x => exact .of_issue (exec_vlog x) fun _ _ => Res.within_doneG _
  | vsh x => exact .of_issue (exec_vsh x) fun _ _ => Res.within_doneG _
  | vmnx x => exact .of_issue (exec_vmnx x) fun _ _ => Res.within_doneG _
  | vbit x => exact .of_issue (exec_vbit x) fun _ _ => Res.within_doneG _
  | vbfx x => exact .of_issue (exec_vbfx x) fun _ _ => Res.within_doneG _
  | vbfi x => exact .of_issue (exec_vbfi x) fun _ _ => Res.within_doneG _
  | vicmp x => exact .of_issue (exec_vicmp x) fun _ _ => Res.within_doneG _
  | vsel x => exact .of_issue (exec_vsel x) fun _ _ => Res.within_doneG _
  | vmov x => exact .of_issue (exec_vmov x) fun _ _ => Res.within_doneG _
  | vmovk x => exact .of_issue (exec_vmovk x) fun _ _ => Res.within_doneG _
  | vlea x => exact .of_issue (exec_vlea x) fun _ _ => Res.within_doneG _
  | viadd64 x => exact .of_issue (exec_viadd64 x) fun _ _ => Res.within_doneG _
  | vimul64 x => exact .of_issue (exec_vimul64 x) fun _ _ => Res.within_doneG _
  | viext x => exact confined_viext x
  | vpack x => exact .of_issue (exec_vpack x) fun _ _ => Res.within_doneG _
  | _ => exact absurd (And.intro h0 h) (by cases ho <;> decide)

theorem confined_float (h0 : 0x40 ≤ op.toNat) (h : op.toNat < 0x60) : Confined i := by
  cases i with
  | vfadd x => exact .of_issue (exec_vfadd x) fun _ _ => Res.within_doneG _
  | vfsub x => exact .of_issue (exec_vfsub x) fun _ _ => Res.within_doneG _
  | vfmul x => exact .of_issue (exec_vfmul x) fun _ _ => Res.within_doneG _
  | vfma x => exact .of_issue (exec_vfma x) fun _ _ => Res.within_doneG _
  | vfmnx x => exact .of_issue (exec_vfmnx x) fun _ _ => Res.within_doneG _
  | vfcmp x => exact .of_issue (exec_vfcmp x) fun _ _ => Res.within_doneG _
  | vfclass x => exact .of_issue (exec_vfclass x) fun _ _ => Res.within_doneG _
  | vfdiv x => exact .of_issue (exec_vfdiv x) fun _ _ => Res.within_fltLater x _
  | vfsqrt x => exact .of_issue (exec_vfsqrt x) fun _ _ => Res.within_fltLater x _
  | vfapx x => exact .of_issue (exec_vfapx x) fun _ _ => Res.within_fltLater x _
  | vfscl x => exact .of_issue (exec_vfscl x) fun _ _ => Res.within_doneG _
  | vfrnd x => exact .of_issue (exec_vfrnd x) fun _ _ => Res.within_doneG _
  | vcvtf x => exact confined_vcvtf x
  | vcvtfi x => exact .of_issue (exec_vcvtfi x) fun _ _ => Res.within_doneG _
  | vcvtif x => exact .of_issue (exec_vcvtif x) fun _ _ => Res.within_doneG _
  | vqnt x => exact confined_vqnt x
  | vdqnt x => exact confined_vdqnt x
  | _ => exact absurd (And.intro h0 h) (by cases ho <;> decide)

theorem confined_cross (h0 : 0x60 ≤ op.toNat) (h : op.toNat < 0x70) : Confined i := by
  cases i with
  | vshfl x => exact .of_issue (exec_vshfl x) fun _ _ => Res.within_doneG _
  | vvote x => exact confined_vvote x
  | vprfx x => exact .of_issue (exec_vprfx x) fun _ _ => Res.within_doneG _
  | vred x => exact .of_issue (exec_vred x) fun _ _ => Res.within_ite (Res.within_nothing 0) (Res.within_doneG _)
  | vmatch x => exact .of_issue (exec_vmatch x) fun _ _ => Res.within_doneG _
  | vbcst x => exact confined_vbcst x
  | fenceg x => exact .of_issue (exec_fenceg x) fun _ _ => Res.within_ite (Res.within_nothing 0) Res.within_wait
  | _ => exact absurd (And.intro h0 h) (by cases ho <;> decide)

theorem confined_system (h : 0xE0 ≤ op.toNat) : Confined i := by
  cases i with
  | trap x => exact .of_issue (exec_trap x) fun _ _ => Res.within_ite (Res.within_nothing 0) trivial
  | rft x => exact confined_rft x
  | csrr x => exact confined_csrr x
  | csrw x => exact confined_csrw x
  | bkpt x => exact .of_issue (exec_bkpt x) fun _ _ => Res.within_ite (Res.within_nothing 0) trivial
  | _ => exact absurd h (by cases ho <;> decide)

/-- Every register instruction is confined to its own block. -/
theorem confined_of_opcode (h : op.toNat < 0x70 ∨ 0xE0 ≤ op.toNat) : Confined i := by
  rcases h with h | h
  · by_cases h1 : op.toNat < 0x10
    · exact confined_control ho h1
    by_cases h2 : op.toNat < 0x20
    · exact confined_scalar ho (Nat.not_lt.1 h1) h2
    by_cases h3 : op.toNat < 0x40
    · exact confined_integer ho (Nat.not_lt.1 h2) h3
    by_cases h4 : op.toNat < 0x60
    · exact confined_float ho (Nat.not_lt.1 h3) h4
    · exact confined_cross ho (Nat.not_lt.1 h4) h
  · exact confined_system ho h

end Classes

end Sys2Proof.Machine

namespace Sys2Proof
open Machine

/-- Settles O60: every register instruction is confined to its block, and whatever becomes of it spares the rest. -/
theorem registerInstructionsWriteNoMemory : Obligations.RegisterInstructionsWriteNoMemory := by
  unfold Obligations.RegisterInstructionsWriteNoMemory
  intro s t c i op hc ho hop h
  obtain ⟨hmem, hckpt, hfab, hothers⟩ := (confined_of_opcode ho hop).spares hc h
  exact ⟨hmem, hckpt, hfab, hothers⟩

end Sys2Proof
end

section
/-!
SUPPORT. Requests on their way (R138, R140, R143 to R145, R166, R175): the acceptance of one request, the sending of an entry,
and what a reply writes; O37 is assembled from these.
-/

namespace Sys2Proof.Machine

/-! ### Translation does not ask the Sifter's entries -/

theorem State.walkFrom_entries (s : State) (es : List Entry) (c : Context) (va n t : Nat) :
    ({ s with entries := es } : State).walkFrom c va n t = s.walkFrom c va n t := by
  induction n generalizing t with
  | zero => rfl
  | succ n ih =>
    unfold State.walkFrom
    simp only [ih]
    rfl

theorem State.translate_entries (s : State) (es : List Entry) (core : Nat) (c : Context) (va : Nat) :
    ({ s with entries := es } : State).translate core c va
      = ((s.translate core c va).1, { (s.translate core c va).2 with entries := es }) := by
  unfold State.translate State.walk
  simp only [State.walkFrom_entries]
  cases s.tlb.find? fun e => e.core == core && e.ctx == c.id && e.page == va / 2 ^ 16 with
  | none => cases s.walkFrom c va 4 c.root <;> rfl
  | some e =>
    dsimp only
    split
    · rfl
    · split
      · rfl
      · cases s.walkFrom c va 4 c.root <;> rfl

/-! ### Requests and entries by number -/

theorem State.req?_modReq {s : State} {id : Nat} {r : Req} {f : Req → Req} (h : s.req? id = some r) (hf : ∀ q, (f q).id = q.id) :
    (s.modReq id f).req? id = some (f r) := by
  have hid : r.id = id := by simpa using List.find?_some h
  unfold State.req? State.modReq at *
  rw [List.find?_map_id _ _ _ fun q => by split <;> simp [hf], h]
  simp [hid]

/-- An entry that is covered closes, when no more requests of its instruction's line are to come. -/
def State.closeFull (s : State) (id : Nat) (more : Bool) : State :=
  s.modEntry id fun e => { e with closed := e.closed || (s.covered e && !more) }

/-- An entry of a number after a change of the entry of that number. -/
theorem State.mem_modEntry {s : State} {e : Entry} (h : e ∈ s.entries) (f : Entry → Entry) :
    f e ∈ (s.modEntry e.id f).entries := List.mem_map.2 ⟨e, h, if_pos rfl⟩

theorem State.mem_closeFull {s : State} {e : Entry} (h : e ∈ s.entries) (more : Bool) :
    ∃ k, { e with closed := k } ∈ (s.closeFull e.id more).entries :=
  ⟨_, State.mem_modEntry h fun e => { e with closed := e.closed || (s.covered e && !more) }⟩

/-! ### Acceptance (R143) -/

section Accept

variable {s : State} {r : Req} {b : Block} {l : Launch} {c : Context}

/-- Whether other requests of a request's instruction are still to come to its line. -/
def State.moreOf (s : State) (r : Req) : Bool :=
  s.reqs.any fun q => q.id != r.id && q.insn == r.insn && decide (q.phase = .issued) && q.addr / 128 == r.addr / 128

/-- Whether an open entry of a request's line takes it in. -/
def Entry.takes (e : Entry) (r : Req) (c : Context) : Bool :=
  (e.isOpen && e.core == r.core && e.ctx == c.id && e.line == r.addr / 128)
    && decide (e.kind = r.entryKind ∧ r.entryKind ≠ EntryKind.single)

/-- The table of unsent entries of a request's core makes room: at 64 the oldest is sent. -/
def State.makeRoom (s : State) (r : Req) : State :=
  let unsent := s.entries.filter fun e => e.core == r.core && !e.sent && decide (e.kind ≠ .bank)
  match unsent with
  | e :: _ =>
    if 64 ≤ unsent.length && decide (r.entryKind ≠ EntryKind.single) then
      s.modEntry e.id fun e => { e with closed := true, sent := true }
    else s
  | [] => s

/-- The entry that a request opens, whose line is at pa's page with a key. -/
def State.newEntry (s : State) (r : Req) (c : Context) (pa key : Nat) : Entry :=
  let line := r.addr / 128
  let alone := decide (r.entryKind = EntryKind.single)
  let behind := s.entries.any fun e => e.core == r.core && e.ctx == c.id && e.line == line && !e.sent && decide (e.kind ≠ .bank)
  ⟨s.nextId, r.core, c.id, line, r.entryKind, Xlat.addr pa (128 * line), key, s.cc, alone, alone && !behind, [r.id]⟩

/-- A request opens an entry of its own. -/
def State.openEntry (s : State) (r : Req) (c : Context) (pa key : Nat) (more : Bool) : State :=
  let u := s.makeRoom r
  (({ u.fresh with entries := u.entries ++ [u.newEntry r c pa key] } : State).modReq r.id fun q =>
    { q with phase := .accepted u.nextId, acks := [] }).closeFull u.nextId more

theorem State.makeRoom_frame (s : State) (r : Req) : s.makeRoom r = { s with entries := (s.makeRoom r).entries } := by
  unfold State.makeRoom
  dsimp only
  split
  · split <;> rfl
  · rfl

/-- In t a request is in an entry of its line, context, core and kind; memory and the blocks are those of s. -/
def State.HasAccepted (s t : State) (r : Req) (c : Context) : Prop :=
  ∃ r' e, t.req? r.id = some r' ∧ r'.phase = .accepted e.id ∧ e ∈ t.entries ∧ e.core = r.core ∧ e.ctx = c.id
    ∧ e.line = r.addr / 128 ∧ e.kind = r.entryKind ∧ r'.addr = r.addr ∧ r'.parts = r.parts ∧ t.mem = s.mem
    ∧ t.blocks = s.blocks

/-- A request of u enters an entry of its line, context, core and kind. -/
theorem State.hasAccepted_of_mem {u : State} {e : Entry} (hm : u.mem = s.mem) (hblk : u.blocks = s.blocks)
    (hreq : u.req? r.id = some r) (hmem : e ∈ u.entries)
    (he : e.core = r.core ∧ e.ctx = c.id ∧ e.line = r.addr / 128 ∧ e.kind = r.entryKind) {f : Req → Req}
    (hf : ∀ q, (f q).id = q.id ∧ (f q).phase = .accepted e.id ∧ (f q).addr = q.addr ∧ (f q).parts = q.parts) (more : Bool) :
    s.HasAccepted ((u.modReq r.id f).closeFull e.id more) r c := by
  obtain ⟨hcore, hctx, hline, hkind⟩ := he
  obtain ⟨_, hphase, haddr, hparts⟩ := hf r
  obtain ⟨k, hk⟩ := State.mem_closeFull (s := u.modReq r.id f) hmem more
  exact ⟨f r, { e with closed := k }, State.req?_modReq hreq fun q => (hf q).1, hphase, hk, hcore, hctx, hline, hkind, haddr,
    hparts, hm, hblk⟩

theorem State.hasAccepted_openEntry {u : State} (hm : u.mem = s.mem) (hblk : u.blocks = s.blocks)
    (hreq : u.req? r.id = some r) (pa key : Nat) (more : Bool) : s.HasAccepted (u.openEntry r c pa key more) r c := by
  have hframe := u.makeRoom_frame r
  have hmem := List.mem_append_right (u.makeRoom r).entries (List.mem_singleton_self ((u.makeRoom r).newEntry r c pa key))
  exact State.hasAccepted_of_mem (s := s) (u := { (u.makeRoom r).fresh with
      entries := (u.makeRoom r).entries ++ [(u.makeRoom r).newEntry r c pa key] })
    (by rw [hframe]; exact hm) (by rw [hframe]; exact hblk) (by rw [hframe]; exact hreq) hmem ⟨rfl, rfl, rfl, rfl⟩
    (by exact fun _ => ⟨rfl, rfl, rfl, rfl⟩) more

variable (hb : s.block? r.blk = some b) (hl : s.launch? b.launch = some l) (hc : s.context? l.ctx = some c)
  (ho : r.owner = none)
include hb hl hc ho

/-- A request joins the open entry of its line and kind. -/
theorem State.accept1_joins {e : Entry} (he : (s.entries.find? fun e => e.takes r c) = some e)
    (hr : s.refusalOf c b.launch r (e.pa + r.addr % 128) = none) :
    s.accept1 r = ((s.modEntry e.id fun e => { e with members := e.members ++ [r.id] }).setPhase r.id
      (.accepted e.id)).closeFull e.id (s.moreOf r) := by
  unfold State.accept1
  simp only [hb, hl, hc, Option.bind_some, ho, Option.getD_none]
  unfold Entry.takes at he
  rw [he]
  dsimp only
  rw [hr]
  rfl

/-- A request that joins none opens an entry of its own, when its line translates to a page that allows it. -/
theorem State.accept1_opens {pa key : Nat} {w xb : Bool} (he : (s.entries.find? fun e => e.takes r c) = none)
    (htr : (s.translate r.core c r.addr).1 = .ok pa key w xb) (hw : r.needsW = true → w = true)
    (hr : s.refusalOf c b.launch r (Xlat.addr pa r.addr) = none) :
    ∃ es : List Entry, s.accept1 r
      = ({ (s.translate r.core c r.addr).2 with entries := es } : State).openEntry r c pa key (s.moreOf r) := by
  have hwrite : ¬ (r.needsW && !w) = true := by
    cases hn : r.needsW
    · simp
    · simp [hw hn]
  have hrefuse : ∀ es, ({ (s.translate r.core c r.addr).2 with entries := es } : State).refusalOf c b.launch r
      (Xlat.addr pa r.addr) = none := fun es => by
    rw [State.translate_frame]
    exact hr
  unfold State.accept1
  simp only [hb, hl, hc, Option.bind_some, ho, Option.getD_none]
  unfold Entry.takes at he
  rw [he]
  dsimp only
  generalize hs1 : (if (r.unit && decide (r.entryKind = EntryKind.single)) = true then s else _) = s1
  obtain ⟨es, rfl⟩ : ∃ es, s1 = { s with entries := es } := by
    rw [← hs1]
    split
    · exact ⟨s.entries, rfl⟩
    · exact ⟨_, rfl⟩
  refine ⟨es, ?_⟩
  rw [State.translate_entries, htr]
  dsimp only
  rw [if_neg hwrite, hrefuse es]
  rfl

theorem State.hasAccepted_accept1 {pa key : Nat} {w xb : Bool} (hreq : s.req? r.id = some r)
    (htr : (s.translate r.core c r.addr).1 = .ok pa key w xb) (hw : r.needsW = true → w = true)
    (hr : s.refusalOf c b.launch r (Xlat.addr pa r.addr) = none)
    (hjoin : ∀ e ∈ s.entries, e.core = r.core → e.ctx = c.id → e.line = r.addr / 128 →
      s.refusalOf c b.launch r (e.pa + r.addr % 128) = none) : s.HasAccepted (s.accept1 r) r c := by
  cases he : s.entries.find? fun e => e.takes r c with
  | some e =>
    have htakes := List.find?_some he
    simp only [Entry.takes, Bool.and_eq_true, beq_iff_eq, decide_eq_true_eq] at htakes
    obtain ⟨⟨⟨⟨_, hcore⟩, hctx⟩, hline⟩, hkind, _⟩ := htakes
    have hmem := List.mem_of_find?_eq_some he
    rw [State.accept1_joins hb hl hc ho he (hjoin e hmem hcore hctx hline)]
    exact State.hasAccepted_of_mem (u := s.modEntry e.id fun e => { e with members := e.members ++ [r.id] }) rfl rfl hreq
      (State.mem_modEntry hmem fun e => { e with members := e.members ++ [r.id] }) ⟨hcore, hctx, hline, hkind⟩
      (by exact fun _ => ⟨rfl, rfl, rfl, rfl⟩) _
  | none =>
    obtain ⟨es, hopen⟩ := State.accept1_opens hb hl hc ho he htr hw hr
    have hframe := s.translate_frame r.core c r.addr
    rw [hopen]
    exact State.hasAccepted_openEntry (by rw [hframe]) (by rw [hframe]) (by rw [hframe]; exact hreq) pa key _

end Accept

end Sys2Proof.Machine
end

section
/-!
SUPPORT. The events of requests after acceptance (R143 to R145, R166, R175): what each does when its request stands as it
needs; O37 is assembled from these.
-/

namespace Sys2Proof.Machine

/-! ### SIFTER_ACCEPT, SIFTER_ENTRY_SEND and SIFTER_WINDOW_EXPIRY -/

section Sifter

variable {s : State}

theorem exec_sifterAccept_one {r : Req} (hreq : s.req? r.id = some r) (hmay : s.mayAccept r = true) (ha : r.isAtomic = false) :
    exec (.sifterAccept r.id) s = .next (s.accept1 r) := by
  simp [execSifterAccept, hreq, hmay, ha]

variable {e : Entry} (hfind : (s.entries.find? fun f => f.id == e.id) = some e)
include hfind

theorem exec_sifterEntrySend_closed (hmay : s.maySend e = true) (hc : e.closed = true) :
    exec (.sifterEntrySend e.id) s = .next (s.sendEntry e) := by
  simp [execSifterEntrySend, hfind, hmay, hc]

theorem exec_sifterWindowExpiry_due (hmay : s.maySend e = true) (ht : e.opened + 32 ≤ s.cc) :
    exec (.sifterWindowExpiry e.id) s = .next (s.sendEntry e) := by
  simp [execSifterWindowExpiry, hfind, hmay, ht]

end Sifter

/-- An entry may leave when the table has room and no earlier entry of its line waits. -/
theorem State.maySend_of {s : State} {e : Entry} (hs : e.sent = false) (hk : e.kind ≠ .bank) (ht : s.tableUsed e.core < 1024)
    (hf : ∀ f ∈ s.entries, f.id < e.id → f.core = e.core → f.ctx = e.ctx → f.line = e.line → f.kind ≠ .bank → f.sent = true) :
    s.maySend e = true := by
  simp only [State.maySend, Bool.and_eq_true, Bool.not_eq_true', decide_eq_true_eq, List.any_eq_false, beq_iff_eq, tableSize]
  refine ⟨⟨⟨hs, hk⟩, decide_eq_true ht⟩, fun f hm => ?_⟩
  rintro ⟨⟨⟨⟨⟨hid, hcore⟩, hctx⟩, hline⟩, hsent⟩, hbank⟩
  rw [hf f hm hid hcore hctx hline hbank] at hsent
  cases hsent

/-! ### Replies and landings -/

section Replies

variable {s : State} {r : Req} (hreq : s.req? r.id = some r) (hdone : r.phase = .done)

theorem Req.isDone_of_phase (h : r.phase = .done) : r.isDone = true := by
  rw [Req.isDone, h]

include hreq hdone

theorem exec_loadSectorReply_done (hf : r.fetches = true) (hk : r.kind ≠ .ldds) (hfault : s.faultOf r = none)
    (hacks : s.allPerformed r.acks = true) :
    exec (.loadSectorReply r.id) s = .next ((s.landRead r).leaveReq r) := by
  simp [execLoadSectorReply, hreq, hf, hk, Req.isDone_of_phase hdone, hfault, hacks]

theorem exec_storeAcknowledgement_done (hf : r.fetches = false)
    (hacks : if r.owner = none then r.acks = [] else s.allPerformed r.acks = true) :
    exec (.storeAcknowledgement r.id) s = .next (s.leaveReq r) := by
  have hans : (if r.owner.isSome then s.allPerformed r.acks else r.acks.isEmpty) = true := by
    cases ho : r.owner <;> simpa [ho] using hacks
  rw [exec_storeAcknowledgement, execStoreAcknowledgement, hreq]
  simp only [Req.isDone_of_phase hdone, hf, Bool.not_false, Bool.true_and, hans, if_true]

theorem exec_bytesLand_ldds (hk : r.kind = .ldds) (hfault : s.faultOf r = none) (hmay : s.mayLand r = true)
    (himage : s.inImage r = false) : exec (.bytesLand r.id) s = .next ((s.landRead r).leaveReq r) := by
  simp [execBytesLand, hreq, hk, Req.isDone_of_phase hdone, hfault, hmay, himage]

theorem exec_mirrorStoreLand_copy {i b : Nat} {p : Part} (hi : i < 16) (hb : r.acks[i]? = some b) (hs : r.space = .mirror)
    (hp : r.parts = [p])
    (hearlier : ∀ q ∈ s.reqs, q.space = .mirror → q.isStore = true → q.before r = true → q.isDone = true ∧ b ∉ q.acks) :
    exec (.mirrorStoreLand (16 * r.id + i)) s = .next ((s.modBlock b fun q =>
      { q with mirror := q.mirror.write r.addr p.data }).modReq r.id fun q => { q with acks := q.acks.filter (· != b) }) := by
  have hnone : (s.reqs.any fun q => decide (q.space = .mirror) && q.isStore && q.before r
      && (!q.isDone || q.acks.contains b)) = false := by
    refine List.any_eq_false.2 fun q hq => ?_
    simp only [Bool.and_eq_true, decide_eq_true_eq]
    rintro ⟨⟨⟨hsp, hst⟩, hbef⟩, hlate⟩
    obtain ⟨hd, hnot⟩ := hearlier q hq hsp hst hbef
    simp [hd, hnot] at hlate
  rw [exec_mirrorStoreLand, execMirrorStoreLand, show (16 * r.id + i) / 16 = r.id by omega,
    show (16 * r.id + i) % 16 = i by omega, hreq]
  dsimp only
  rw [hb]
  dsimp only
  rw [hnone]
  simp [hs, Req.isDone_of_phase hdone, hp]

end Replies

/-! ### What a read writes (R138, R145) -/

theorem State.landRead_ldds {s : State} {r : Req} {p : Part} (hu : r.unit = false) (hk : r.kind = .ldds) (hp : r.parts = [p]) :
    s.landRead r = s.modBlock r.blk fun (b : Block) =>
      b.setScratch (barLand (b.scratch.write r.bdst p.res) r.bar r.size) := by
  simp [State.landRead, hu, hk, hp]

/-- A load of four bytes for one lane writes one register of that lane. -/
theorem State.landRead_load_word {s : State} {r : Req} {p : Part} {d : Nat} (hu : r.unit = false) (hk : r.kind = .load)
    (hd : r.dst = some d) (hsd : r.sdst = none) (hsz : r.size = 4) (hp : r.parts = [p]) (hlen : p.res.length = 4) :
    s.landRead r = s.modGroup r.blk r.grp fun g => g.land (.v d p.lane, BitVec.ofNat 64 (ofLe p.res)) := by
  have htake : p.res.take 4 = p.res := List.take_of_length_le (Nat.le_of_eq hlen)
  simp [State.landRead, hu, hk, hd, hsd, hsz, hp, runLen, htake]

/-- A result lands in its register of its lane, and in no other. -/
theorem Group.land_v_spec (g : Group) {d l : Nat} (w : W64) (hd : d < 128) (hl : l < 32) (hc : (g.lane l).cancelled = false) :
    ((g.land (.v d l, w)).lane l).vreg d = w.setWidth 32
      ∧ (∀ q, q ≠ d → ((g.land (.v d l, w)).lane l).vreg q = (g.lane l).vreg q)
      ∧ ∀ k, k < 32 → k ≠ l → (g.land (.v d l, w)).lane k = g.lane k := by
  have hland : g.land (.v d l, w) = g.modLanes (maskOf (· == l)) fun _ x => x.setV d (w.setWidth 32) := by
    simp [Group.land, hc]
  have hlane : (g.land (.v d l, w)).lane l = (g.lane l).setV d (w.setWidth 32) := by
    rw [hland, Group.lane_modLanes _ _ _ _ hl]
    simp [hl]
  refine ⟨?_, fun q hq => ?_, fun k hk hne => ?_⟩
  · rw [hlane, Lane.vreg_setV _ _ _ _ hd, if_pos rfl]
  · rw [hlane, Lane.vreg_setV _ _ _ _ hd, if_neg hq]
  · rw [hland, Group.lane_modLanes _ _ _ _ hk]
    simp [hne]

end Sys2Proof.Machine

namespace Sys2Proof
open Machine

/-- Settles O37: each event by its own course, acceptance by what accept1 leaves in an entry that it joins or opens. -/
theorem requestsAreAcceptedAndAnswered : Obligations.RequestsAreAcceptedAndAnswered := by
  unfold Obligations.RequestsAreAcceptedAndAnswered
  refine ⟨⟨?accept, ?send⟩, ?reply⟩
  case accept =>
    intro s r b l c pa key w xb hreq hmay ha ho hb hl hc htr hw hr hjoin
    obtain ⟨r', e, haccepted⟩ := State.hasAccepted_accept1 hb hl hc ho hreq htr hw hr hjoin
    exact ⟨s.accept1 r, r', e, exec_sifterAccept_one hreq hmay ha, haccepted⟩
  case send =>
    intro s e hfind hs hk ht hf sent
    have hmay := State.maySend_of hs hk ht hf
    exact ⟨exec_sifterEntrySend_closed hfind hmay, exec_sifterWindowExpiry_due hfind hmay⟩
  case reply =>
    intro s r hreq hdone hu
    refine ⟨fun hf hk hfault hacks => ⟨exec_loadSectorReply_done hreq hdone hf hk hfault hacks, ?write⟩,
      exec_storeAcknowledgement_done hreq hdone, fun p hk hfault hmay himage hp => ?land,
      fun i b p hi hb hs hp => exec_mirrorStoreLand_copy hreq hdone hi hb hs hp⟩
    case write =>
      intro g d p hk hg hd hsd hsz hp hl hlen hc
      refine ⟨g.land (.v d p.lane, BitVec.ofNat 64 (ofLe p.res)), ?_, ?_⟩
      · rw [State.landRead_load_word hu hk hd hsd hsz hp hlen, State.group?_modGroup_same, hg]
        rfl
      · obtain ⟨hsame, hother, hlanes⟩ := g.land_v_spec (BitVec.ofNat 64 (ofLe p.res)) d.isLt hl hc
        refine ⟨?_, fun q hq => hother q fun h => hq (Fin.ext h), hlanes⟩
        rw [hsame]
        simp
    case land => rw [exec_bytesLand_ldds hreq hdone hk hfault hmay himage, State.landRead_ldds hu hk hp]

end Sys2Proof
end

section
/-!
SUPPORT. Tasks, bounds and incumbents (R269, R273, R278 to R282, R287, R288): the record that a SPAWN appends, past the moving
of the lanes that issue, and the best of the values that an ICUPD offers; O29 is assembled from these.
-/

namespace Sys2Proof.Machine

/-! ### Values of an incumbent (R280, R281) -/

/-- What a value is worth to an incumbent: its key in the direction in which it improves (R280). -/
def Incumbent.worth (c : Incumbent) (y : W64) : Int := if c.max then icKey c.kind y else -icKey c.kind y

/-- A value improves another when it is worth more. -/
theorem Incumbent.improves_iff (c : Incumbent) (y z : W64) : c.improves y z = true ↔ c.worth z < c.worth y := by
  unfold Incumbent.improves Incumbent.worth
  split <;> simp

theorem Incumbent.improves_eq_false (c : Incumbent) (y z : W64) : c.improves y z = false ↔ c.worth y ≤ c.worth z := by
  rw [← Bool.not_eq_true, c.improves_iff, Int.not_lt]

/-- Taking the better of each two in turn ends with a value that is among them and worth no less than any. -/
theorem Incumbent.foldl_best_spec (c : Incumbent) (ys : List W64) (b : W64) :
    let r := ys.foldl (fun b y => if c.improves y b then y else b) b
    r ∈ b :: ys ∧ ∀ z ∈ b :: ys, c.worth z ≤ c.worth r := by
  induction ys generalizing b with
  | nil => simp
  | cons y ys ih =>
    obtain ⟨hmem, hbest⟩ := ih (if c.improves y b then y else b)
    have hfirst := hbest _ List.mem_cons_self
    have hrest := fun z hz => hbest z (List.mem_cons_of_mem _ hz)
    rw [List.foldl_cons]
    by_cases h : c.improves y b = true
    · have hworth := (c.improves_iff y b).1 h
      rw [if_pos h] at hmem hfirst hrest ⊢
      exact ⟨List.mem_cons_of_mem _ hmem,
        List.forall_mem_cons.2 ⟨hworth.le.trans hfirst, List.forall_mem_cons.2 ⟨hfirst, hrest⟩⟩⟩
    · have hworth := (c.improves_eq_false y b).1 (Bool.eq_false_iff.2 h)
      rw [if_neg h] at hmem hfirst hrest ⊢
      exact ⟨List.cons_subset_cons b (List.subset_cons_self y ys) hmem,
        List.forall_mem_cons.2 ⟨hfirst, List.forall_mem_cons.2 ⟨hworth.trans hfirst, hrest⟩⟩⟩

/-- The value that is offered is one of those supplied, and none of them improves upon it (R281). -/
theorem bestOffer_spec (c : Incumbent) {ys : List W64} (h : ys ≠ []) :
    ∃ y, bestOffer c ys = some y ∧ y ∈ ys ∧ ∀ z ∈ ys, c.improves z y = false := by
  obtain ⟨b, rest, rfl⟩ := List.exists_cons_of_ne_nil h
  obtain ⟨hmem, hbest⟩ := c.foldl_best_spec rest b
  exact ⟨_, rfl, hmem, fun z hz => (c.improves_eq_false z _).2 (hbest z hz)⟩

/-! ### The spawn queue (R269, R273) -/

@[simp] theorem State.writeHome_blocks (s : State) (pa key : Nat) (bs : List Byte) : (s.writeHome pa key bs).blocks = s.blocks := by
  unfold State.writeHome
  repeat' split
  all_goals rfl

/-- A write at a home looks at no block. -/
theorem State.writeHome_withBlocks (s : State) (q : List Block) (pa key : Nat) (bs : List Byte) :
    ({ s with blocks := q } : State).writeHome pa key bs = { s.writeHome pa key bs with blocks := q } := by
  unfold State.writeHome
  dsimp only
  repeat' split
  all_goals rfl

@[simp] theorem State.ringStore_blocks (s : State) (l : Launch) (va : Nat) (bs : List Byte) :
    (s.ringStore l va bs).blocks = s.blocks := by
  unfold State.ringStore
  repeat' split
  all_goals simp

/-- Writing into a ring looks at no block. -/
theorem State.ringStore_withBlocks (s : State) (q : List Block) (l : Launch) (va : Nat) (bs : List Byte) :
    ({ s with blocks := q } : State).ringStore l va bs = { s.ringStore l va bs with blocks := q } := by
  unfold State.ringStore
  have hc : ({ s with blocks := q } : State).context? l.ctx = s.context? l.ctx := rfl
  rw [hc]
  cases s.context? l.ctx with
  | none => rfl
  | some k =>
    dsimp only
    have hw : ({ s with blocks := q } : State).walk k va = s.walk k va := s.walkFrom_blocks q k va 4 k.root
    rw [hw]
    cases s.walk k va with
    | ok pa key w x => exact s.writeHome_withBlocks q _ key bs
    | _ => rfl

/-- A write into the ring may as well come before the lanes of the set begin. -/
theorem State.ringStore_begin (s : State) (c : Ctx) (l : Launch) (va : Nat) (bs : List Byte) :
    (s.begin_ c).ringStore l va bs = (s.ringStore l va bs).begin_ c := by
  have hb : ∀ t : State, t.begin_ c = { t with blocks := (t.begin_ c).blocks } := fun _ => rfl
  rw [hb s, State.ringStore_withBlocks, hb (s.ringStore l va bs)]
  have hblocks : (s.begin_ c).blocks = ((s.ringStore l va bs).begin_ c).blocks := by
    unfold State.begin_ State.modGroup State.modBlock
    rw [State.ringStore_blocks]
  rw [hblocks]

/-- An update of the issuing block that commutes with changes of its groups may as well come after its lanes have moved. -/
theorem State.finish_modBlock {q : Block → Block} (s : State) (c : Ctx) (n : Nat) (own : Mask) (f : Group → Group)
    (hid : ∀ b, (q b).id = b.id) (hq : ∀ b i h, (q b).modGroup i h = q (b.modGroup i h)) :
    (((s.begin_ c).modBlock c.iss.blk q).modGroup c.iss.blk c.iss.grp f).finish c n own
      = (s.after c n own f).modBlock c.iss.blk q := by
  have hcomm : ∀ (t : State) (h : Group → Group), (t.modBlock c.iss.blk q).modGroup c.iss.blk c.iss.grp h
      = (t.modGroup c.iss.blk c.iss.grp h).modBlock c.iss.blk q :=
    fun t h => t.modBlock_comm c.iss.blk (g := fun b => b.modGroup c.iss.grp h) hid (fun _ => rfl) fun b => (hq b _ h).symm
  have hfin : ∀ t : State, t.finish c n own =
      { t.modGroup c.iss.blk c.iss.grp (c.move n own) with cur := t.cur.tail } := fun _ => rfl
  rw [← State.finish_modGroup, hcomm, hfin, hcomm, hfin]
  rfl

/-- A block with another spawn queue. -/
def Block.setQueue (q : TaskQ) (b : Block) : Block := { b with q := q }

/-- A new queue of the issuing block may as well come after its lanes have moved. -/
theorem State.finish_setQueue {s : State} {c : Ctx} (hc : s.ctx? = some c) (t : State) (q : TaskQ) (f : Group → Group) :
    (((t.begin_ c).modBlock c.b.id (Block.setQueue q)).modGroup c.iss.blk c.iss.grp f).finish c 1 0
      = (t.after c 1 0 f).modBlock c.b.id (Block.setQueue q) := by
  rw [State.block?_id (State.ctx?_block hc)]
  exact State.finish_modBlock t c 1 0 f (fun _ => rfl) fun _ _ _ => rfl

/-- With an empty ring and room in the share a record joins the share (R270). -/
theorem State.appendTask_share {b : Block} (s : State) (l : Launch) (dws : Vector W64 8) (hr : b.q.ring = [])
    (hs : b.q.share.length < 128) :
    s.appendTask b l dws = s.modBlock b.id (Block.setQueue { b.q with
      share := b.q.share ++ [⟨dws, b.q.tail, s.cc⟩]
      tail := b.q.tail + 1
      spawned := b.q.spawned + 1 }) := by
  unfold State.appendTask
  simp only [hr, hs, List.isEmpty_nil, decide_true, Bool.and_self, if_true]
  rfl

/-- Else it goes to the ring in memory (R270). -/
theorem State.appendTask_ring {b : Block} (s : State) (l : Launch) (dws : Vector W64 8)
    (h : b.q.ring ≠ [] ∨ 128 ≤ b.q.share.length) :
    s.appendTask b l dws =
      (s.ringStore l (l.lr.recordAt b.lin b.q.tail) (TaskRec.bytes ⟨dws, b.q.tail, s.cc⟩)).modBlock b.id (Block.setQueue { b.q with
        ring := b.q.ring ++ [(b.q.tail, s.cc)]
        tail := b.q.tail + 1
        spawned := b.q.spawned + 1 }) := by
  have hfull : ¬ (b.q.ring.isEmpty && decide (b.q.share.length < 128)) = true := by
    rw [Bool.and_eq_true, List.isEmpty_iff, decide_eq_true_eq]
    exact fun ⟨hr, hs⟩ => h.elim (absurd hr) hs.not_ge
  exact if_neg hfull

/-! ### SPAWN (R273) -/

/-- A record in eight registers is legal: R269's entry and zero bits, a zero dword 7, and a bound incumbent where it names
one (R273). -/
def Ctx.legalTask (c : Ctx) (s : State) (x : PForm) : Prop :=
  let dw0 := (c.sreg x.a.snum).toNat
  bitsOf dw0 63 37 = 0 ∧ dw0 % 8 = 0 ∧ bitsOf dw0 31 0 < c.l.lr.codeSize ∧ c.sreg (x.a.snum + 7) = 0
    ∧ (bitOf dw0 36 = true → (s.icCopy c.b.core (bitsOf dw0 35 32)).bound = true)

/-- The record as it is queued: the registers, with the parent's tag in dword 7 (R273). -/
def Ctx.taskDws (c : Ctx) (x : PForm) : Vector W64 8 :=
  (tab 8 fun k => c.sreg (x.a.snum + k)).set 7 ((c.r.lane (lowest (c.real x.g))).tag.setWidth 64)

/-- What a SPAWN of a legal record does: with S live records it sets d or waits, else it appends the record (R273). -/
def Ctx.spawn (c : Ctx) (s : State) (x : PForm) : Res :=
  if c.l.lr.segment ≤ c.b.q.live then if x.d = .p 0 then .wait s else c.doneG s fun g => g.putS x.d 1
  else .done ((s.appendTask c.b c.l (c.taskDws x)).modGroup c.iss.blk c.iss.grp fun g => g.putS x.d 0) 0

/-- A legal record raises no cause. -/
theorem Ctx.anyCause_of_legalTask {c : Ctx} {s : State} {x : PForm} (h : c.legalTask s x) (m : Mask) :
    anyCause (causesOf m [
      (!entryOk c.l.lr.codeSize (c.sreg x.a.snum).toNat || c.sreg (x.a.snum + 7) != 0, .taskBadRecord),
      (bitOf (c.sreg x.a.snum).toNat 36 && !(s.icCopy c.b.core (bitsOf (c.sreg x.a.snum).toNat 35 32)).bound,
        .incumbentUnbound)]) = false := by
  obtain ⟨hz, h8, hsize, h7, hic⟩ := h
  cases hben : bitOf (c.sreg x.a.snum).toNat 36 <;> simp_all [anyCause, causesOf, entryOk]

section Spawn

variable {s : State} {c : Ctx} {x : PForm}

/-- A SPAWN with d = p0 is forbidden in shielded lanes, of which there are none (R287). -/
theorem Ctx.shielded_spawn (hu : x.d = .p 0 → c.unshielded) : c.shielded (if x.d = .p 0 then c.on x.g else 0) = 0#32 := by
  split
  · exact Ctx.shielded_on (hu ‹_›) x.g
  · exact c.shielded_zero

variable (hc : s.ctx? = some c) (hu : x.d = .p 0 → c.unshielded)
include hc hu

theorem exec_spawn_off (hr : c.real x.g = 0) : exec (.spawn x) s = .next (s.after c 1 0 id) := by
  rw [exec_spawn, ← State.finish_begin]
  exact State.issueN_done hc (if_pos hr) (fun c => if x.d = .p 0 then c.on x.g else 0) (Ctx.shielded_spawn hu)

/-- A SPAWN of a legal record whose parent's accesses are performed, and which does not wait. -/
theorem exec_spawn_legal {t : State} (hr : c.real x.g ≠ 0) (ht : c.l.lr.tasks = true)
    (hq : s.quiet c.iss.blk c.iss.grp (maskOf (· == lowest (c.real x.g))) 3 = true ∨ c.idle s) (hl : c.legalTask s x)
    (h : c.spawn (s.begin_ c) x = .done t 0) : exec (.spawn x) s = .next (t.finish c 1 0) := by
  have hquiet : (s.begin_ c).quiet c.iss.blk c.iss.grp (maskOf (· == lowest (c.real x.g))) 3 = true :=
    hq.elim id fun hi => hi.quiet _ _
  have hcause := Ctx.anyCause_of_legalTask (s := s.begin_ c) hl (c.on x.g)
  refine (exec_spawn x s).trans (State.issueN_done hc ?_ (fun c => if x.d = .p 0 then c.on x.g else 0) (Ctx.shielded_spawn hu))
  simp only [hr, ht, hquiet, hcause, Bool.not_true, Bool.false_eq_true, if_false]
  exact h

end Spawn

/-! ### The other instructions (R278, R281, R282, R287, R288) -/

section Others

variable {s : State} {c : Ctx} (hc : s.ctx? = some c) {x : VForm}
include hc

theorem exec_bndset_bound {i : Fin 16} (hb : x.b = .ic i) (hs : x.sub ≠ 1) (hm : c.on x.g ≠ 0)
    (hi : (s.icCopy c.b.core i).bound = true) :
    exec (.bndset x) s = .next (s.after c 1 0 fun g => g.modLanes (c.on x.g) fun l y =>
      { y with bnd := c.val64 x.a l, bndIc := BitVec.ofNat 4 i, ben := true }) := by
  have hbound : ((s.begin_ c).icCopy c.b.core i).bound = true := hi
  refine (exec_bndset x s).trans (State.issue_doneG hc ?_)
  simp only [hs, hm, hb, Opnd.icnum, hbound, Bool.not_true, Bool.false_eq_true, if_false]

/-- ICUPD sends the best value of its real lanes (R281). -/
theorem exec_icupd_offers {i : Fin 16} {y : W64} (hd : x.d = .ic i) (hr : c.real x.g ≠ 0)
    (hi : (s.icCopy c.b.core i).bound = true)
    (hy : bestOffer (s.icCopy c.b.core i) ((lanesOf (c.real x.g)).map (c.val64 x.a)) = some y) :
    exec (.icupd x) s = .next (({ s with
      nextId := s.nextId + 1
      offers := s.offers ++ [⟨s.nextId, i, y, c.b.core, false, s.cc⟩] } : State).after c 1 0 id) := by
  have hbound : ((s.begin_ c).icCopy c.b.core i).bound = true := hi
  have hbest : bestOffer ((s.begin_ c).icCopy c.b.core i) ((lanesOf (c.real x.g)).map (c.val64 x.a)) = some y := hy
  rw [exec_icupd, ← State.finish_begin]
  refine State.issue_done hc ?_
  simp only [Ctx.on_of_real hr, hd, Opnd.icnum, hbound, hbest, Bool.not_true, Bool.false_eq_true, if_false]
  rfl

/-- A scalar that is read where some lane's guard is true. -/
theorem State.issue_reads {f : Ctx → State → Res} {d : Opnd} {w : W64} (hm : c.on x.g ≠ 0)
    (hf : f c (s.begin_ c) = c.scal (s.begin_ c) x.g d w) : s.issue f = .next (s.after c 1 0 fun g => g.putS d w) := by
  rw [State.issue_scal hc hf]
  simp only [hm, if_false]

theorem exec_icrd_reads {i : Fin 16} (ha : x.a = .ic i) (hm : c.on x.g ≠ 0) :
    exec (.icrd x) s = .next (s.after c 1 0 fun g => g.putS x.d
      (match x.sub.toNat with
        | 0 => (s.icCopy c.b.core i).value
        | 1 => (s.icCopy c.b.core i).cfg.setWidth 64
        | _ => (s.icCopy c.b.core i).seq)) := by
  refine (exec_icrd x s).trans (State.issue_reads hc hm ?_)
  rw [ha]
  rfl

end Others

end Sys2Proof.Machine

namespace Sys2Proof
open Machine

/-- Settles O29: SPAWN by the room of its block's queue, ICUPD by the best value that its lanes supply, the others by the
courses of a change of the group and of a scalar result. -/
theorem tasksBoundsAndIncumbents : Obligations.TasksBoundsAndIncumbents := by
  unfold Obligations.TasksBoundsAndIncumbents
  refine ⟨fun s c x hc hu => ⟨fun hr ht hq hl => ⟨fun hlive hring hshare => ?share, fun hlive hfull => ?ring,
    fun hlive hd => ?refused⟩, exec_spawn_off hc hu⟩, fun s c hc => ⟨fun x => ⟨?clear, fun i => exec_bndset_bound hc, ?config,
      ?bound, ?offer, fun i => exec_icrd_reads hc, ?counter⟩, fun x hs => ?shield⟩⟩
  case share =>
    refine (exec_spawn_legal hc hu hr ht hq hl (if_neg hlive.not_ge)).trans ?_
    rw [State.appendTask_share _ _ _ hring hshare, State.finish_setQueue hc]
    rfl
  case ring =>
    refine (exec_spawn_legal hc hu hr ht hq hl (if_neg hlive.not_ge)).trans ?_
    rw [State.appendTask_ring _ _ _ hfull, State.ringStore_begin, State.finish_setQueue hc]
    rfl
  case refused =>
    rw [← State.finish_modGroup]
    exact exec_spawn_legal hc hu hr ht hq hl ((if_pos hlive).trans (if_neg hd))
  case clear => exact fun hsub => (exec_bndset x s).trans (State.issue_doneG hc (if_pos hsub))
  case config => exact fun hsub => (exec_bndget x s).trans (State.issue_vec hc (if_pos hsub))
  case bound => exact fun hsub => (exec_bndget x s).trans (State.issue_vec2 hc (if_neg hsub))
  case offer =>
    intro i hd hr hi
    have hlanes : (lanesOf (c.real x.g)).map (c.val64 x.a) ≠ [] := fun h =>
      hr (mask_eq_zero_of_length (List.length_eq_zero_iff.2 (List.map_eq_nil_iff.1 h)))
    obtain ⟨y, hbest, hmem, hnone⟩ := bestOffer_spec (s.icCopy c.b.core i) hlanes
    exact ⟨y, hmem, hnone, exec_icupd_offers hc hd hr hi hbest⟩
  case counter =>
    intro hm
    refine (exec_tqstat x s).trans (State.issue_reads hc hm (congrArg (c.scal (s.begin_ c) x.g x.d) ?_))
    unfold Block.tqstat
    cases c.l.lr.tasks <;> rfl
  case shield => exact (exec_shield x s).trans (State.issueN_modGroup hc rfl (·.on x.g) (Ctx.shielded_on hs x.g))

end Sys2Proof
end

section
/-!
SUPPORT. The counterexample of O51: a LAUNCH whose record is misaligned is answered and leaves the firmware's jobs as they are,
but the statement also says that no job then has the number that the command was given. A state whose numbers have been given out
in turn has no such job; the statement speaks of every state, also of one in which a COPY carries the next number.
-/

namespace Sys2Proof.Machine

@[simp] theorem State.post_fw_jobs (s : State) (f : Nat) (e : CEntry) : (s.post f e).fw.jobs = s.fw.jobs := by
  rcases s.post_cases f e with h | ⟨x, h⟩
  · rw [h]
    exact State.setFn_fw_jobs _ _ _
  · rw [h, State.setFn_fw_jobs]

/-- Answering a command leaves the jobs as they are. -/
@[simp] theorem State.answer_fw_jobs (s : State) (c : HostCmd) (status detail : Nat) (es : List W64) :
    (s.answer c status detail es).fw.jobs = s.fw.jobs := s.post_fw_jobs _ _

/-- A command that is its function's turn and is not turned away is gone on with (R354). -/
theorem State.serve_of_serves {s : State} {c : HostCmd} {op : Nat} {w : Issuer} (hs : s.serves c op = true)
    (hd : (s.passCmd c.fn).deny c w = none) (f : State → State) : s.serve c op w f = .next (f (s.passCmd c.fn)) := by
  unfold State.serve
  rw [if_pos hs]
  dsimp only
  rw [hd]

/-- A LAUNCH whose record does not lie at a multiple of 64 takes a number and is answered BAD_ADDRESS (R354). -/
theorem exec_launch_misaligned {s : State} {c : HostCmd} {k : Context} (hs : s.serves c 6 = true)
    (hd : (s.passCmd c.fn).deny c .owner = none) (hk : s.context? c.ctx = some k) (hj : ∀ j ∈ s.fw.jobs, j.cmd.op ≠ 6)
    (ha : c.a0.toNat % 64 ≠ 0) :
    exec (.launch c) s = .next ((s.passCmd c.fn).fresh.answer c 11 0 [BitVec.ofNat 64 s.nextId]) := by
  have hnone : s.launching c = none := by
    have hfind : (s.fw.jobs.find? fun j => j.cmd.op == 6) = none := List.find?_eq_none.2 fun j hm => by simp [hj j hm]
    rw [State.launching, hfind]
    rfl
  have hctx : (s.passCmd c.fn).context? c.ctx = some k := hk
  rw [exec_launch, execLaunch, hnone, ite_self]
  refine (State.serve_of_serves hs hd _).trans ?_
  rw [hctx, if_neg (by simp), if_pos ha]
  rfl

end Sys2Proof.Machine

namespace Sys2Proof
open Machine

/-- A LAUNCH of function 0 in context 7 whose record would lie at address 1. -/
def misalignedLaunch : HostCmd := ⟨0, 6, 0, 5, 7, false, 1, 0, 0, 0, 0, 0⟩

/-- A COPY of the same context whose number is the first that there is. -/
def copyUnderWay : HostJob := ⟨0, { misalignedLaunch with op := 5 }, 0, false, none⟩

/-- The LAUNCH as the first entry of function 0's ring of sixteen, while that COPY is under way and its number is the next to
be given. -/
def launchBesideCopy : State :=
  { State.reset with
    host := [(0, 6), (4, 5), (8, 7), (16, 1)]
    fw := { State.reset.fw with
      contexts := [⟨7, 0, 0, 0, 0, 0, 0, 0, none, 0, 0⟩]
      fns := State.reset.fw.fns.set 0 { Fn.zero with tdisp := 2, sqcfg := 0x24, sqtail := 1 }
      jobs := [copyUnderWay] } }

theorem serves_misalignedLaunch : launchBesideCopy.serves misalignedLaunch 6 = true := by decide

theorem deny_misalignedLaunch : (launchBesideCopy.passCmd 0).deny misalignedLaunch .owner = none := by decide

/-- Refutes O51: a misaligned LAUNCH is answered while a COPY is under way whose number is the next to be given; the COPY is
still there afterwards, and has the number that the LAUNCH was given. -/
theorem not_launchCommandsAct : ¬ Obligations.LaunchCommandsAct := by
  unfold Obligations.LaunchCommandsAct
  intro h
  have hjobs : ∀ j ∈ launchBesideCopy.fw.jobs, j.cmd.op ≠ 6 := by decide
  have hmis : misalignedLaunch.a0.toNat % 64 ≠ 0 := by decide
  obtain ⟨hlaunch, _⟩ := h launchBesideCopy misalignedLaunch deny_misalignedLaunch
  obtain ⟨hends, _⟩ := hlaunch _ serves_misalignedLaunch rfl hjobs
  obtain ⟨w, ⟨_, _, _, _, _, hfresh⟩, hexec⟩ := hends hmis
  rw [exec_launch_misaligned serves_misalignedLaunch deny_misalignedLaunch rfl hjobs hmis] at hexec
  have hsame : launchBesideCopy.fw.jobs = w.fw.jobs := by
    rw [← w.answer_fw_jobs misalignedLaunch 11 0, ← Host.Outcome.next.inj hexec, State.answer_fw_jobs]
    rfl
  have hcopy : copyUnderWay ∈ launchBesideCopy.fw.jobs := List.mem_singleton_self _
  exact hfresh copyUnderWay (hsame ▸ hcopy) rfl

end Sys2Proof
end

section
/-!
SUPPORT. RFT and the control and status registers (R112, R297, R303, R305): whether a flag is still to come is asked of nothing
that an instruction which begins has changed, and each register's course in CSRR and CSRW; O33 is assembled from these.
-/

namespace Sys2Proof.Machine

/-! ### Flags that are still to come (R112) -/

theorem State.block?_begin (s : State) (c : Ctx) (k : Nat) : (s.begin_ c).block? k =
    (s.block? k).map fun b => if b.id = c.iss.blk then { b with groups := b.groups.modify c.iss.grp c.start } else b :=
  s.block?_modGroup c.iss.blk c.iss.grp k c.start

theorem State.mayReachPeer_begin (s : State) (d : Ctx) (c : Context) (va n : Nat) :
    (s.begin_ d).mayReachPeer c va n = s.mayReachPeer c va n := by
  have hwalk : ∀ a, (s.begin_ d).walk c a = s.walk c a := fun a => s.walkFrom_blocks _ c a _ _
  unfold State.mayReachPeer
  simp only [hwalk]

theorem State.slotsMayGoToPeer_begin (s : State) (c : Ctx) (p : Probe) :
    (s.begin_ c).slotsMayGoToPeer p = s.slotsMayGoToPeer p := by
  have hlaunch : ∀ k, (s.begin_ c).launch? k = s.launch? k := fun _ => rfl
  have hctx : ∀ k, (s.begin_ c).context? k = s.context? k := fun _ => rfl
  unfold State.slotsMayGoToPeer
  rw [State.block?_begin]
  cases s.block? p.blk with
  | none => rfl
  | some b =>
    simp only [Option.map_some, State.mayReachPeer_begin, hlaunch, hctx]
    by_cases hb : b.id = c.iss.blk
    · simp only [if_pos hb]
    · simp only [if_neg hb]

theorem State.flagsPending_begin (s : State) (c : Ctx) (blk grp : Nat) :
    (s.begin_ c).flagsPending blk grp = s.flagsPending blk grp := by
  unfold State.flagsPending
  simp only [State.slotsMayGoToPeer_begin]
  rfl

/-- No flag of an idle group is still to come. -/
theorem Ctx.idle.flagsPending {c : Ctx} {s : State} (h : c.idle s) : s.flagsPending c.iss.blk c.iss.grp = false := by
  obtain ⟨hr, ho, hp⟩ := h
  simp only [State.flagsPending, Bool.or_eq_false_iff, List.any_eq_false]
  refine ⟨⟨fun p hm => ?_, fun r hm => ?_⟩, fun o hm => ?_⟩
  · have := hp p hm
    simp only [Bool.and_eq_true, beq_iff_eq]
    tauto
  · have := hr r hm
    simp only [Bool.and_eq_true, beq_iff_eq]
    tauto
  · simp [ho o hm]

/-- An update of the issuing block that its groups do not meet may as well come after the lanes have moved. -/
theorem State.finish_modBlock_comm {q : Block → Block} (t : State) (c : Ctx) (n : Nat) (own : Mask)
    (hid : ∀ b, (q b).id = b.id) (hq : ∀ b i h, (q b).modGroup i h = q (b.modGroup i h)) :
    (t.modBlock c.iss.blk q).finish c n own = (t.finish c n own).modBlock c.iss.blk q :=
  congrArg (fun u : State => { u with cur := u.cur.tail }) (State.modBlock_comm t c.iss.blk (f := q)
    (g := fun b => b.modGroup c.iss.grp (c.move n own)) hid (fun _ => rfl) fun b => (hq b _ _).symm)

/-! ### The instructions -/

section Instructions

variable {s : State} {c : Ctx} (hc : s.ctx? = some c)
include hc

theorem exec_rft_handler (x : VForm) (hm : c.on x.g ≠ 0) (ht : c.g.inTrap = true) (hl : c.iss.lanes &&& c.g.tmaskLanes ≠ 0) :
    exec (.rft x) s = .next (s.after c 1 (c.on x.g) fun g => g.modLanes (c.on x.g) fun l y =>
      { y with st := .rejoin (if x.sub = 1 then c.val x.a l else y.smt) }) := by
  refine (exec_rft x s).trans (State.issue_modGroup hc ?_)
  simp only [if_neg hm, ht, decide_eq_false hl, Bool.not_true, Bool.or_false, Bool.false_eq_true, if_false]

theorem exec_rft_outside (x : VForm) (hm : c.on x.g ≠ 0) (ht : c.g.inTrap = false) :
    exec (.rft x) s = .next (s.trapsBefore c [(.rftOutsideTrap, c.on x.g)]) := by
  refine (exec_rft x s).trans (State.issue_raise hc ?_)
  simp only [if_neg hm, ht, Bool.not_false, Bool.true_or, if_true]
  rfl

/-- A register that is not FSTAT, or FSTAT when no flag is still to come, is read at once. -/
theorem exec_csrr_reads {x : SForm} (hm : c.on x.g ≠ 0)
    (hf : x.csr = 0x020 → s.flagsPending c.iss.blk c.iss.grp = false) :
    exec (.csrr x) s = .next (s.after c 1 0 fun g => g.putS x.d (c.csr s x.csr.toNat)) := by
  have hno : ¬ (decide (x.csr = 0x020) && s.flagsPending c.iss.blk c.iss.grp) = true := by
    rw [Bool.and_eq_true, decide_eq_true_eq]
    rintro ⟨hx, hp⟩
    rw [hf hx] at hp
    cases hp
  refine (exec_csrr x s).trans (State.issue_doneG hc ?_)
  rw [if_neg hm, State.flagsPending_begin, if_neg hno]
  rfl

theorem exec_csrr_waits {x : SForm} (hm : c.on x.g ≠ 0) (hx : x.csr = 0x020)
    (hf : s.flagsPending c.iss.blk c.iss.grp = true) : exec (.csrr x) s = .next (s.waits c id) := by
  refine (exec_csrr x s).trans (State.issue_hold hc ?_)
  rw [if_neg hm, State.flagsPending_begin, if_pos (by simp [hx, hf])]

/-- A write that leaves the block's TVEC alone. -/
theorem exec_csrw_group {x : SForm} (hm : c.on x.g ≠ 0)
    (hb : x.csr = 0x011 → c.g.task = true ∨ c.real x.g = 0) :
    exec (.csrw x) s = .next (s.after c 1 0 fun g => g.csrWrite x.csr.toNat (c.sval x.a)) := by
  have hno : ¬ (decide (x.csr = 0x011) && !c.g.task && c.real x.g != 0) = true := by
    simp only [Bool.and_eq_true, decide_eq_true_eq, Bool.not_eq_true', bne_iff_ne]
    rintro ⟨⟨hx, ht⟩, hr⟩
    exact (hb hx).elim (by simp [ht]) hr
  refine (exec_csrw x s).trans (State.issue_doneG hc ?_)
  dsimp only
  rw [if_neg hm, if_neg hno]
  rfl

/-- A write of TVEC by a group admitted with its block. -/
theorem exec_csrw_tvec {x : SForm} (hm : c.on x.g ≠ 0) (hx : x.csr = 0x011) (ht : c.g.task = false)
    (hr : c.real x.g ≠ 0) :
    exec (.csrw x) s = .next ((s.after c 1 0 fun g => g.csrWrite 0x011 (c.sval x.a)).modBlock c.iss.blk fun b =>
      { b with btvec := (c.g.csrWrite 0x011 (c.sval x.a)).tvec }) := by
  have hyes : (decide (x.csr = 0x011) && !c.g.task && c.real x.g != 0) = true := by
    rw [decide_eq_true hx, ht, bne_iff_ne.2 hr]
    rfl
  rw [exec_csrw, ← State.finish_modGroup,
    ← State.finish_modBlock_comm (q := fun b => { b with btvec := (c.g.csrWrite 0x011 (c.sval x.a)).tvec }) _ c 1 0
      (fun _ => rfl) fun _ _ _ => rfl]
  refine State.issue_done hc ?_
  dsimp only
  rw [if_neg hm, if_pos hyes, hx]
  rfl

end Instructions

/-- What each register but FSTAT reads as (R297). -/
theorem Ctx.csr_of_mem {c : Ctx} {s : State} {p : Nat × W64}
    (hp : p ∈ [(0x000, BitVec.ofNat 64 s.archid), (0x010, c.g.cause), (0x011, c.g.tvec), (0x012, c.g.tepc),
      (0x013, c.g.tmask), (0x014, c.g.tstatNow), (0x015, c.g.tscratch), (0x018, c.g.faddr), (0x019, c.g.fkind),
      (0x01A, c.g.fpc), (0x030, (s.cores[c.b.core]?.getD CoreSt.zero).ecount),
      (0x031, BitVec.ofNat 64 (((s.context? c.l.ctx).map (·.ebudget)).getD 0)),
      (0x040, BitVec.ofNat 64 s.fab.linkstat), (0x041, BitVec.ofNat 64 s.sparestat)]) :
    p.1 ≠ 0x020 ∧ c.csr s p.1 = p.2 := by
  simp only [List.mem_cons, List.not_mem_nil, or_false] at hp
  rcases hp with rfl | rfl | rfl | rfl | rfl | rfl | rfl | rfl | rfl | rfl | rfl | rfl | rfl | rfl
  all_goals exact ⟨by simp, rfl⟩

/-- A register that cannot be written keeps its value (R303). -/
theorem Group.csrWrite_of_readOnly {n : Nat} (h : n ∉ [0x011, 0x012, 0x015, 0x020]) (g : Group) (w : W64) :
    g.csrWrite n w = g := by
  unfold Group.csrWrite
  split <;> simp_all

/-- Settles O33: the courses above; each register is one case of what CSRR gives and of what CSRW leaves. -/
theorem rftAndTheSpecialRegisters : Obligations.RftAndTheSpecialRegisters := by
  refine fun s c hc => ⟨fun x => ⟨exec_rft_handler hc x, exec_rft_outside hc x, fun hm => ?rftOff⟩,
    fun x hm => ⟨?csrrOff, ?csrwOff⟩, fun x hm => ?registers⟩
  case rftOff => exact (exec_rft x s).trans (State.issue_nothing hc (if_pos hm))
  case csrrOff => exact (exec_csrr x s).trans (State.issue_nothing hc (if_pos hm))
  case csrwOff => exact (exec_csrw x s).trans (State.issue_nothing hc (if_pos hm))
  case registers =>
    have hreads {n : Nat} (hn : x.csr.toNat = n) (hf : n = 0x020 → s.flagsPending c.iss.blk c.iss.grp = false) :
        exec (.csrr x) s = .next (s.after c 1 0 fun g => g.putS x.d (c.csr s n)) :=
      hn ▸ exec_csrr_reads hc hm fun hx => hf (by rw [← hn, hx]; rfl)
    have hwrites {n : Nat} (hn : x.csr.toNat = n) (hb : n = 0x011 → c.g.task = true ∨ c.real x.g = 0) :
        exec (.csrw x) s = .next (s.after c 1 0 fun g => g.csrWrite n (c.sval x.a)) :=
      hn ▸ exec_csrw_group hc hm fun hx => hb (by rw [← hn, hx]; rfl)
    refine ⟨fun p hp hn => ?read, fun hn hf => ?fstatReads, fun hn => exec_csrr_waits hc hm (BitVec.eq_of_toNat_eq hn),
      fun hn => ?tepc, fun hn => ?tscratch, fun hn => ?fstat, fun hn => ?readOnly, fun hn h => ?tvecGroup, fun hn => ?tvec⟩
    case fstatReads =>
      exact hreads (n := 0x020) hn fun _ => hf.elim id Ctx.idle.flagsPending
    case tepc => exact hwrites (n := 0x012) hn (by simp)
    case tscratch => exact hwrites (n := 0x015) hn (by simp)
    case fstat => exact hwrites (n := 0x020) hn (by simp)
    case tvecGroup => exact hwrites (n := 0x011) hn fun _ => h
    case tvec => exact exec_csrw_tvec hc hm (BitVec.eq_of_toNat_eq hn)
    case read =>
      obtain ⟨hne, hval⟩ := Ctx.csr_of_mem hp
      exact hval ▸ hreads hn fun h => absurd h hne
    case readOnly =>
      have hid : (fun g : Group => g.csrWrite x.csr.toNat (c.sval x.a)) = id := funext fun g => Group.csrWrite_of_readOnly hn g _
      exact hid ▸ hwrites rfl fun h => absurd (by rw [h]; decide) hn

end Sys2Proof.Machine
end

section
/-!
SUPPORT. A solo MMA (R183, R190 to R193): the elements of a product, the words that one row of C receives, rows that do not
meet, and an operation that finds its block's engine empty; O22 is assembled from these.
-/

namespace Sys2Proof.Machine

/-! ### One element of the product (R193) -/

/-- A sum taken term by term. -/
theorem foldl_add_sum (f : Nat → Int) (ks : List Nat) (a : Int) :
    ks.foldl (fun (a : Int) e => a + f e) a = a + (ks.map f).sum := by
  induction ks generalizing a with
  | nil => simp
  | cons k ks ih => rw [List.foldl_cons, ih, List.map_cons, List.sum_cons, add_assoc]

theorem dotI_eq (fa fb : FmtSlot) (k : Nat) (ra rb : MRow) (acc : Nat) : ((dotI fa fb k ra rb acc : Nat) : Int) =
    (acc + ((List.range k).map fun e => fa.int (elemOf fa.bits ra.ws e) * fb.int (elemOf fb.bits rb.ws e)).sum) % 2 ^ 32 := by
  unfold dotI
  rw [foldl_add_sum, Int.toNat_of_nonneg (Int.emod_nonneg _ (by decide))]

theorem dotF_zero (fa fb : FmtSlot) (g : Nat) (ra rb : MRow) (acc : Nat) : (dotF fa fb g 0 ra rb acc).1 = acc := by
  simp [dotF]

theorem dotF_succ (fa fb : FmtSlot) {g : Nat} (n : Nat) (ra rb : MRow) (acc : Nat) (hg : 0 < g) :
    (dotF fa fb g ((n + 1) * g) ra rb acc).1 =
      (f32.addV rne (f32.decode (dotF fa fb g (n * g) ra rb acc).1)
        (f32.decode (f32.convert rne (groupSum fa fb ra rb (n * g) g).1).1)).1 := by
  unfold dotF
  rw [Nat.mul_div_cancel _ hg, Nat.mul_div_cancel _ hg, List.range_succ, List.foldl_append]
  rfl

theorem MtxOp.element_of_integer (o : MtxOp) (h : o.slotA.integer = true) (ra : MRow) (rb : Option MRow) (acc : Nat) :
    (o.element ra rb acc).1 = dotI o.slotA o.slotB (o.sh.getD 1 0) ra (rb.getD ⟨[], []⟩) acc := by
  unfold MtxOp.element
  simp only [h, if_true]

theorem MtxOp.element_of_float (o : MtxOp) (h : o.slotA.integer = false) {size lim : Nat}
    (hp : mmaPair o.slotA.elem o.slotB.elem = some (size, lim)) (ra : MRow) (rb : Option MRow) (acc : Nat) :
    (o.element ra rb acc).1 = (dotF o.slotA o.slotB size (o.sh.getD 1 0) ra (rb.getD ⟨[], []⟩) acc).1 := by
  unfold MtxOp.element
  simp [h, hp]

/-! ### The words of a row of C -/

@[simp] theorem length_leBytes (n x : Nat) : (leBytes n x).length = n := by simp [leBytes]

theorem length_flatten_leBytes (xs : List Nat) : (xs.map (leBytes 4)).flatten.length = 4 * xs.length := by
  induction xs with
  | nil => rfl
  | cons x xs ih =>
    rw [List.map_cons, List.flatten_cons, List.length_append, ih, length_leBytes, List.length_cons]
    omega

/-- The bytes of word n in a row of words. -/
theorem getD_flatten_leBytes {xs : List Nat} {n x : Nat} (h : xs[n]? = some x) {i : Nat} (hi : i < 4) :
    (xs.map (leBytes 4)).flatten.getD (4 * n + i) 0 = (leBytes 4 x).getD i 0 := by
  induction xs generalizing n with
  | nil => simp at h
  | cons y ys ih =>
    rw [List.map_cons, List.flatten_cons]
    cases n with
    | zero =>
      obtain rfl : y = x := by simpa using h
      rw [Nat.mul_zero, Nat.zero_add, List.getD_append _ _ _ _ (by simpa using hi)]
    | succ n =>
      rw [List.getD_append_right _ _ _ _ (by simp; omega), length_leBytes, ← ih (n := n) (by simpa using h)]
      congr 1
      omega

/-- Two reads that agree byte by byte. -/
theorem Memory.read_congr {c d : Memory} {a n : Nat} (h : ∀ i, i < n → c.get (a + i) = d.get (a + i)) :
    c.read a n = d.read a n :=
  List.map_congr_left fun i hi => h i (List.mem_range.1 hi)

theorem Memory.read_eq {c : Memory} {a : Nat} {bs : List Byte} (h : ∀ i, i < bs.length → c.get (a + i) = bs.getD i 0) :
    c.read a bs.length = bs := by
  refine List.ext_getElem (by simp) fun i _ hi => ?_
  simp [Memory.read, h i hi, hi]

/-- Where row i of the C region of an operation begins (R182). -/
def MtxOp.rowAt (o : MtxOp) (i : Nat) : Nat := o.sh.getD 2 0 + i * o.sh.getD 3 0

/-- The numbers of the words that an A row leaves in its row of C. -/
def MtxOp.rowWords (o : MtxOp) (bs : List (Option MRow)) (c : Memory) (r : Nat × List W32) : List Nat :=
  (o.rowResult bs r.2 fun n => ofLe (c.read (o.rowAt r.1 + 4 * n) 4)).map (·.1)

/-- C after one row of a product. -/
def MtxOp.putRow (o : MtxOp) (bs : List (Option MRow)) (c : Memory) (r : Nat × List W32) : Memory :=
  c.write (o.rowAt r.1) ((o.rowWords bs c r).map (leBytes 4)).flatten

/-- An MMA changes its block's C by its rows, in order. -/
theorem MtxOp.mmaC_fst (o : MtxOp) (b : Block) (bs : List (Option MRow)) :
    (o.mmaC b bs).1 = { b with c := o.rows.foldl (o.putRow bs) b.c } := by
  unfold MtxOp.mmaC
  suffices h : ∀ (rs : List (Nat × List W32)) (st : Block × Nat),
      (rs.foldl (fun (st : Block × Nat) r =>
        let a := o.sh.getD 2 0 + r.1 * o.sh.getD 3 0
        let res := o.rowResult bs r.2 fun n => ofLe (st.1.c.read (a + 4 * n) 4)
        ({ st.1 with c := st.1.c.write a (res.map fun x => leBytes 4 x.1).flatten },
         res.foldl (fun f x => f ||| x.2) st.2)) st).1 = { st.1 with c := rs.foldl (o.putRow bs) st.1.c } from h _ _
  intro rs
  induction rs with
  | nil => intro st; rfl
  | cons r rs ih =>
    intro st
    rw [List.foldl_cons, ih]
    simp [MtxOp.putRow, MtxOp.rowWords, MtxOp.rowAt, Function.comp_def]

section Rows

variable (o : MtxOp) (bs : List (Option MRow))

theorem MtxOp.rowWords_getElem? (c : Memory) (r : Nat × List W32) {n : Nat} {rb : Option MRow} (h : bs[n]? = some rb) :
    (o.rowWords bs c r)[n]? = some (o.element (aRow o.slotA (o.sh.getD 1 0) r.2) rb
      (if bitOf o.flags 1 then 0 else ofLe (c.read (o.rowAt r.1 + 4 * n) 4))).1 := by
  simp [MtxOp.rowWords, MtxOp.rowResult, h]

theorem MtxOp.length_rowBytes (c : Memory) (r : Nat × List W32) :
    ((o.rowWords bs c r).map (leBytes 4)).flatten.length = 4 * bs.length := by
  rw [length_flatten_leBytes]
  simp [MtxOp.rowWords, MtxOp.rowResult]

/-- The words of a row depend on no more of C than that row. -/
theorem MtxOp.rowWords_congr {c d : Memory} {r : Nat × List W32}
    (h : ∀ i, i < 4 * bs.length → c.get (o.rowAt r.1 + i) = d.get (o.rowAt r.1 + i)) :
    o.rowWords bs c r = o.rowWords bs d r := by
  refine List.ext_getElem? fun n => ?_
  cases hn : bs[n]? with
  | none =>
    have hlen : bs.length ≤ n := List.getElem?_eq_none_iff.1 hn
    rw [List.getElem?_eq_none, List.getElem?_eq_none] <;> simpa [MtxOp.rowWords, MtxOp.rowResult] using hlen
  | some rb =>
    obtain ⟨hlt, -⟩ := List.getElem?_eq_some_iff.1 hn
    have hread : c.read (o.rowAt r.1 + 4 * n) 4 = d.read (o.rowAt r.1 + 4 * n) 4 :=
      Memory.read_congr fun i hi => by
        rw [Nat.add_assoc]
        exact h _ (by omega)
    rw [o.rowWords_getElem? bs c r hn, o.rowWords_getElem? bs d r hn, hread]

theorem MtxOp.get_putRow {c : Memory} (hc : Memory.wf c = true) (r : Nat × List W32) (a : Nat) :
    (o.putRow bs c r).get a = if o.rowAt r.1 ≤ a ∧ a < o.rowAt r.1 + 4 * bs.length
      then ((o.rowWords bs c r).map (leBytes 4)).flatten.getD (a - o.rowAt r.1) 0 else c.get a := by
  rw [MtxOp.putRow, Memory.get_write _ _ _ _ hc, MtxOp.length_rowBytes]

theorem MtxOp.wf_putRow {c : Memory} (hc : Memory.wf c = true) (r : Nat × List W32) : Memory.wf (o.putRow bs c r) = true :=
  Memory.wf_write _ _ _ hc

/-- A byte outside every row keeps its value. -/
theorem MtxOp.get_putRows_other {rs : List (Nat × List W32)} {c : Memory} (hc : Memory.wf c = true) {a : Nat}
    (h : ∀ r ∈ rs, a < o.rowAt r.1 ∨ o.rowAt r.1 + 4 * bs.length ≤ a) : (rs.foldl (o.putRow bs) c).get a = c.get a := by
  induction rs generalizing c with
  | nil => rfl
  | cons r rs ih =>
    have hr := h r (by simp)
    rw [List.foldl_cons, ih (o.wf_putRow bs hc r) fun q hq => h q (by simp [hq]), o.get_putRow bs hc r a, if_neg (by omega)]

/-- Rows of different numbers do not meet when the pitch is at least a row. -/
theorem MtxOp.rowAt_disjoint {i j k : Nat} (hp : 4 * bs.length ≤ o.sh.getD 3 0) (hij : i ≠ j) (hk : k < 4 * bs.length) :
    o.rowAt i + k < o.rowAt j ∨ o.rowAt j + 4 * bs.length ≤ o.rowAt i + k := by
  unfold MtxOp.rowAt
  generalize o.sh.getD 3 0 = p at hp
  rcases Nat.lt_or_gt_of_ne hij with h | h
  · have : i * p + p ≤ j * p := by rw [← Nat.succ_mul]; exact Nat.mul_le_mul_right p h
    omega
  · have : j * p + p ≤ i * p := by rw [← Nat.succ_mul]; exact Nat.mul_le_mul_right p h
    omega

/-- With rows that do not meet, each holds the words of its own product, over what C held before. -/
theorem MtxOp.get_putRows {rs : List (Nat × List W32)} {c : Memory} (hc : Memory.wf c = true)
    (hp : 4 * bs.length ≤ o.sh.getD 3 0) (hd : (rs.map (·.1)).Nodup) {r : Nat × List W32} (hr : r ∈ rs) {k : Nat}
    (hk : k < 4 * bs.length) :
    (rs.foldl (o.putRow bs) c).get (o.rowAt r.1 + k) = ((o.rowWords bs c r).map (leBytes 4)).flatten.getD k 0 := by
  induction rs generalizing c with
  | nil => cases hr
  | cons q rs ih =>
    obtain ⟨hq, hd⟩ := List.nodup_cons.1 hd
    rw [List.foldl_cons]
    rcases List.mem_cons.1 hr with rfl | hr
    · have hother : ∀ x ∈ rs, o.rowAt r.1 + k < o.rowAt x.1 ∨ o.rowAt x.1 + 4 * bs.length ≤ o.rowAt r.1 + k := fun x hx =>
        o.rowAt_disjoint bs hp (fun e => hq (List.mem_map.2 ⟨x, hx, e.symm⟩)) hk
      rw [o.get_putRows_other bs (o.wf_putRow bs hc r) hother, o.get_putRow bs hc, if_pos (by omega), Nat.add_sub_cancel_left]
    · have hne : r.1 ≠ q.1 := fun e => hq (List.mem_map.2 ⟨r, hr, e⟩)
      have hkeep : ∀ i, i < 4 * bs.length → (o.putRow bs c q).get (o.rowAt r.1 + i) = c.get (o.rowAt r.1 + i) := fun i hi => by
        have := o.rowAt_disjoint bs hp hne hi
        rw [o.get_putRow bs hc, if_neg (by omega)]
      rw [ih (o.wf_putRow bs hc q) hd hr, o.rowWords_congr bs hkeep]

/-- So word n of a row is the element of the product of its A row and B row n. -/
theorem MtxOp.read_putRows {rs : List (Nat × List W32)} {c : Memory} (hc : Memory.wf c = true)
    (hp : 4 * bs.length ≤ o.sh.getD 3 0) (hd : (rs.map (·.1)).Nodup) {r : Nat × List W32} (hr : r ∈ rs) {n : Nat}
    {rb : Option MRow} (hn : bs[n]? = some rb) :
    (rs.foldl (o.putRow bs) c).read (o.rowAt r.1 + 4 * n) 4 = leBytes 4 (o.element (aRow o.slotA (o.sh.getD 1 0) r.2) rb
      (if bitOf o.flags 1 then 0 else ofLe (c.read (o.rowAt r.1 + 4 * n) 4))).1 := by
  obtain ⟨hlt, -⟩ := List.getElem?_eq_some_iff.1 hn
  refine (congrArg _ (length_leBytes 4 _).symm).trans (Memory.read_eq fun i hi => ?_)
  rw [length_leBytes] at hi
  rw [Nat.add_assoc, o.get_putRows bs hc hp hd hr (by omega), getD_flatten_leBytes (o.rowWords_getElem? bs c r hn) hi]

end Rows

/-! ### The rows of B (R192) -/

theorem foldr_bRows_length {f : Nat → Except Cause MRow} {ns : List Nat} {bs : List (Option MRow)}
    (h : ns.foldr (fun i (acc : Except Cause (List (Option MRow))) =>
      match f i, acc with
      | .ok r, .ok rs => .ok (some r :: rs)
      | .error c, _ => .error c
      | _, .error c => .error c) (.ok []) = .ok bs) : bs.length = ns.length := by
  induction ns generalizing bs with
  | nil => cases h; rfl
  | cons n ns ih =>
    rw [List.foldr_cons] at h
    split at h
    · rename_i hacc
      cases h
      rw [List.length_cons, ih hacc, List.length_cons]
    · cases h
    · cases h

/-- B has as many rows as the shape names. -/
theorem MtxOp.bRows_length {o : MtxOp} {w : Memory} {ext : Nat} {bs : List (Option MRow)} (h : o.bRows w ext = .ok bs) :
    bs.length = o.sh.getD 0 0 := by
  unfold MtxOp.bRows at h
  dsimp only at h
  split at h
  · cases h; simp
  · split at h
    · cases h; simp
    · split_ifs at h <;> (cases h; simp)
    · rw [foldr_bRows_length h, List.length_range]

/-! ### An operation that finds the engine of its block empty (R183) -/

theorem State.block?_setBlock (s : State) (b : Block) (j : Nat) :
    (s.setBlock b).block? j = (s.block? j).map fun x => if x.id = b.id then b else x := by
  unfold State.setBlock State.block?
  exact List.find?_map_id _ _ _ fun x => by split <;> simp [*]

theorem State.block?_setBlock_other (s : State) (b : Block) {j : Nat} (hj : j ≠ b.id) :
    (s.setBlock b).block? j = s.block? j := by
  rw [State.block?_setBlock]
  cases h : s.block? j with
  | none => rfl
  | some y => simp [State.block?_id h, hj]

/-- The queue with an operation performed: what stands under its number is its last form. -/
def State.started (s : State) (o o' : MtxOp) : State :=
  { s with mtxq := s.mtxq.map fun q => if q.id = o.id then { o' with started := true } else q }

@[simp] theorem State.block?_started (s : State) (o o' : MtxOp) (j : Nat) : (s.started o o').block? j = s.block? j := rfl

/-- It is performed at once, and nothing else of its block is. -/
theorem State.mtxAccept_alone {s u : State} {o o' : MtxOp} (hq : ∀ q ∈ s.mtxq, q.blk ≠ o.blk) (hs : o.started = false)
    (hk : o.kind ≠ .tld) (hperf : ({ s with mtxq := s.mtxq ++ [o] } : State).mtxPerform o = u.started o o')
    (hu : u.mtxq = s.mtxq ++ [o]) : s.mtxAccept o = u.started o o' := by
  have hmay : o.mayStart (s.mtxq ++ [o]) = true := by
    simp only [MtxOp.mayStart, hk, Bool.and_eq_true, List.all_eq_true, ne_eq, not_false_eq_true, decide_true, Bool.true_or,
      and_true]
    intro q hqm
    rcases List.mem_append.1 hqm with h | h
    · simp [hq q h]
    · simp [List.mem_singleton.1 h]
  have hfirst : ((s.mtxq ++ [o]).find? fun q => q.blk == o.blk && !q.started && decide (q.kind ≠ .tld)
      && q.mayStart (s.mtxq ++ [o])) = some o := by
    rw [List.find?_append, List.find?_eq_none.2 fun q hqm => by simp [hq q hqm]]
    simp [hs, hk, hmay]
  have hdone : ∀ (p : MtxOp → Bool), ((u.started o o').mtxq.find? fun q => q.blk == o.blk && !q.started && p q) = none := by
    intro p
    refine List.find?_eq_none.2 fun q hqm => ?_
    simp only [State.started, hu, List.mem_map] at hqm
    obtain ⟨e, he, rfl⟩ := hqm
    split
    · simp
    · rename_i hne
      rcases List.mem_append.1 he with h | h
      · simp [hq e h]
      · exact absurd (congrArg MtxOp.id (List.mem_singleton.1 h)) hne
  unfold State.mtxAccept State.mtxAdvance
  rw [hfirst]
  dsimp only
  rw [hperf]
  cases s.mtxq.length with
  | zero => rfl
  | succ n =>
    unfold State.mtxAdvance
    simp only [Bool.and_assoc] at hdone ⊢
    rw [hdone]

/-! ### What an MMA leaves of its block's groups (R112, R194) -/

/-- The queue and the other blocks are the same in t, and so is the block but for its groups, each of which has the MC that
it had. -/
structure State.Regroups (blk : Nat) (s t : State) : Prop where
  mtxq : t.mtxq = s.mtxq
  others : ∀ j, j ≠ blk → t.block? j = s.block? j
  block : ∀ b, s.block? blk = some b → ∃ gs, t.block? blk = some { b with groups := gs } ∧
    ∀ (i : Nat) (g : Group), b.groups[i]? = some g → ∃ g' : Group, gs[i]? = some g' ∧ g'.mc = g.mc

namespace State.Regroups

variable {blk : Nat} {s t u : State}

theorem refl (s : State) : s.Regroups blk s := ⟨rfl, fun _ _ => rfl, fun b hb => ⟨b.groups, hb, fun _ g hg => ⟨g, hg, rfl⟩⟩⟩

theorem trans (h : s.Regroups blk t) (k : t.Regroups blk u) : s.Regroups blk u := by
  refine ⟨k.mtxq.trans h.mtxq, fun j hj => (k.others j hj).trans (h.others j hj), fun b hb => ?_⟩
  obtain ⟨gs, ht, hgs⟩ := h.block b hb
  obtain ⟨hs, hu, hhs⟩ := k.block _ ht
  refine ⟨hs, hu, fun i g hg => ?_⟩
  obtain ⟨g', hg', hm⟩ := hgs i g hg
  obtain ⟨g'', hg'', hm'⟩ := hhs i g' hg'
  exact ⟨g'', hg'', hm'.trans hm⟩

theorem modGroup (s : State) (i : Nat) {f : Group → Group} (hf : ∀ g, (f g).mc = g.mc) : s.Regroups blk (s.modGroup blk i f) := by
  refine ⟨rfl, fun j hj => ?_, fun b hb => ⟨b.groups.modify i f, ?_, fun n g hg => ?_⟩⟩
  · rw [State.block?_modGroup]
    cases h : s.block? j with
    | none => rfl
    | some b => simp [State.block?_id h, hj]
  · rw [State.block?_modGroup, hb]
    simp [State.block?_id hb]
  · rw [List.getElem?_modify, hg]
    by_cases hi : i = n
    · exact ⟨f g, by simp [hi], hf g⟩
    · exact ⟨g, by simp [hi], rfl⟩

theorem foldl {α : Type} (h : s.Regroups blk t) (i : α → Nat) (f : α → Group → Group) (hf : ∀ x g, (f x g).mc = g.mc)
    (xs : List α) : s.Regroups blk (xs.foldl (fun t x => t.modGroup blk (i x) (f x)) t) :=
  h.trans (State.foldl_of_step refl trans (fun t x => .modGroup t (i x) (hf x)) xs t)

end State.Regroups

section Perform

variable {s : State} {o : MtxOp} {b : Block} {l : Launch} (hb : s.block? o.blk = some b) (hl : s.launch? b.launch = some l)
include hb hl

/-- An MMA whose B rows cannot be read has no effect but its cause. -/
theorem State.mtxPerform_mma_error {shadow : Bool} {k : Cause} (hk : o.kind = .mma shadow)
    (he : o.bRows b.w l.lr.wExtent = .error k) : s.mtxPerform o = s.started o { o with raises := [k] } := by
  unfold State.mtxPerform
  simp only [hb, hl, Option.map_some, Option.getD_some]
  split <;> rename_i heq <;> rw [hk] at heq <;> cases heq
  rw [he]
  rfl

/-- Another writes its rows to C, and then changes flags and latches of groups. -/
theorem State.mtxPerform_mma_ok {bs : List (Option MRow)} (hk : o.kind = .mma false)
    (he : o.bRows b.w l.lr.wExtent = .ok bs) :
    ∃ u : State, s.mtxPerform o = u.started o o ∧ (s.setBlock (o.mmaC b bs).1).Regroups o.blk u := by
  unfold State.mtxPerform
  simp only [hb, hl, Option.map_some, Option.getD_some]
  split <;> rename_i heq <;> rw [hk] at heq <;> cases heq
  rw [he]
  refine ⟨_, rfl, .foldl (.foldl (.refl _) _ _ ?flags _) _ _ ?latches _⟩
  case flags => exact fun _ _ => rfl
  case latches => exact fun _ _ => rfl

end Perform

/-! ### The issue of a solo MMA (R190, R193) -/

/-- The operation that a solo MMA leaves in the queue. -/
def soloMma (id : Nat) (b : Block) (r : LRec) (x : TForm) (sh : List Nat) (m : Member) : MtxOp where
  id := id
  core := b.core
  blk := b.id
  kind := .mma false
  insns := [(m.grp, id + 1)]
  lanes := [(m.grp, if m.on = 0 then m.lanes else m.on)]
  fpc := m.pc
  flags := x.flags.toNat
  slotA := r.slot x.slot.toNat
  slotB := mmaSlotB b r x
  sh := sh
  first := 0
  d := x.a.vnum
  handle := match x.b with | .th i => some i.val | _ => none
  h := (mmaHandle b x).getD (Vector.replicate 8 0)
  rows := (m.supply b).map fun k =>
    (k, (b.group m.grp).aWords m.x.a.vnum (aRegs (r.slot x.slot.toNat) (sh.getD 1 0)) k)
  clear := 0
  latches := ([m].filter fun m => !(m.supply b).isEmpty).map fun m =>
    (m.grp, (b.group m.grp).latch (m.x.flags.getLsbD 0) m.x.a.vnum x.slot.toNat (sh.getD 1 0)
      (aRegs (r.slot x.slot.toNat) (sh.getD 1 0)))
  started := false
  asked := []
  got := []
  newTh := none
  aBytes := []
  writes := []
  raises := []

/-- The state and the group before the engine takes the operation: the instruction is pending, and MC has risen (R21). -/
def Group.mmaPending (g : Group) (id : Nat) (m : Member) : Group :=
  Group.raise { g with
    insns := g.insns ++ [⟨id + 1, .mc, m.pc, if m.on = 0 then m.lanes else m.on, [], [], [], false⟩] } .mc

def State.mmaPending (s : State) (b : Block) (m : Member) : State :=
  ({ s with nextId := s.nextId + 2 } : State).modGroup b.id m.grp fun g => g.mmaPending s.nextId m

theorem State.mmaIssue_solo (s : State) (b : Block) (r : LRec) (x : TForm) (sh : List Nat) (m : Member) :
    s.mmaIssue b r false x sh [m] = (s.mmaPending b m).mtxAccept (soloMma s.nextId b r x sh m) := by
  have hrows : ([m].zipIdx.map fun (p : Member × Nat) => (p.1.supply b).map fun l =>
      (32 * p.2 + l, (b.group p.1.grp).aWords p.1.x.a.vnum (aRegs (r.slot x.slot.toNat) (sh.getD 1 0)) l)).flatten
        = (soloMma s.nextId b r x sh m).rows := by
    simp [soloMma]
  unfold State.mmaIssue
  dsimp only
  rw [hrows]
  rfl

/-- The rows of an operation have the numbers of lanes, each once. -/
theorem soloMma_rows_nodup (id : Nat) (b : Block) (r : LRec) (x : TForm) (sh : List Nat) (m : Member) :
    ((soloMma id b r x sh m).rows.map (·.1)).Nodup := by
  have hids : (soloMma id b r x sh m).rows.map (·.1) = m.supply b := by simp [soloMma, Function.comp_def]
  rw [hids]
  exact (List.nodup_range.filter _).filter _

theorem State.mem_started {s : State} {o : MtxOp} (o' : MtxOp) (h : o ∈ s.mtxq) :
    ({ o' with started := true } : MtxOp) ∈ (s.started o o').mtxq :=
  List.mem_map.2 ⟨o, h, if_pos rfl⟩

/-- The block with its group's instruction pending. -/
def Block.mmaPending (b : Block) (id : Nat) (m : Member) : Block :=
  { b with groups := b.groups.modify m.grp fun g => g.mmaPending id m }

/-- The state with the operation in its queue. -/
def State.mmaQueued (s : State) (b : Block) (r : LRec) (x : TForm) (sh : List Nat) (m : Member) : State :=
  { s.mmaPending b m with mtxq := s.mtxq ++ [soloMma s.nextId b r x sh m] }

section Solo

variable {s : State} {b : Block} {l : Launch} {x : TForm} {sh : List Nat} {m : Member} (hb : s.block? b.id = some b)
  (hl : s.launch? b.launch = some l) (hq : ∀ o ∈ s.mtxq, o.blk ≠ b.id)

theorem State.block?_mmaPending (s : State) (b : Block) (m : Member) (j : Nat) : (s.mmaPending b m).block? j =
    (s.block? j).map fun y => if y.id = b.id then y.mmaPending s.nextId m else y :=
  State.block?_modGroup { s with nextId := s.nextId + 2 } b.id m.grp j _

theorem State.block?_mmaPending_other (s : State) (b : Block) (m : Member) {j : Nat} (hj : j ≠ b.id) :
    (s.mmaPending b m).block? j = s.block? j := by
  rw [State.block?_mmaPending]
  cases h : s.block? j with
  | none => rfl
  | some y => simp [State.block?_id h, hj]

include hb in
theorem State.block?_mmaPending_same : (s.mmaPending b m).block? b.id = some (b.mmaPending s.nextId m) := by
  rw [State.block?_mmaPending, hb]
  simp

include hb hl hq

theorem State.mmaIssue_of_unreadable {k : Cause}
    (he : (soloMma s.nextId b l.lr x sh m).bRows b.w l.lr.wExtent = .error k) :
    s.mmaIssue b l.lr false x sh [m] = (s.mmaQueued b l.lr x sh m).started (soloMma s.nextId b l.lr x sh m)
      { soloMma s.nextId b l.lr x sh m with raises := [k] } := by
  rw [State.mmaIssue_solo]
  refine State.mtxAccept_alone (u := s.mmaQueued b l.lr x sh m) hq rfl (by simp [soloMma]) ?_ rfl
  exact State.mtxPerform_mma_error (s := s.mmaQueued b l.lr x sh m) (o := soloMma s.nextId b l.lr x sh m)
    (b := b.mmaPending s.nextId m) (State.block?_mmaPending_same hb) hl rfl he

theorem State.mmaIssue_of_readable {bs : List (Option MRow)}
    (he : (soloMma s.nextId b l.lr x sh m).bRows b.w l.lr.wExtent = .ok bs) :
    let o := soloMma s.nextId b l.lr x sh m
    ∃ u : State, s.mmaIssue b l.lr false x sh [m] = u.started o o
      ∧ ((s.mmaQueued b l.lr x sh m).setBlock { b.mmaPending s.nextId m with c := o.rows.foldl (o.putRow bs) b.c }).Regroups
          b.id u := by
  dsimp only
  obtain ⟨u, hperf, hu⟩ := State.mtxPerform_mma_ok (s := s.mmaQueued b l.lr x sh m) (o := soloMma s.nextId b l.lr x sh m)
    (b := b.mmaPending s.nextId m) (State.block?_mmaPending_same hb) hl rfl he
  rw [MtxOp.mmaC_fst] at hu
  rw [State.mmaIssue_solo]
  exact ⟨u, State.mtxAccept_alone hq rfl (by simp [soloMma]) hperf hu.mtxq, hu⟩

end Solo

/-- Settles O22: the two courses of a solo MMA, and the words that its rows leave in C. -/
theorem mmaAccumulatesIntoC : Obligations.MmaAccumulatesIntoC := by
  refine ⟨fun s b l g x sh m bs hb hl hg hq => ?performed,
    fun fa fb ra rb acc => ⟨fun k => dotI_eq fa fb k ra rb acc, fun g _ => dotF_zero fa fb g ra rb acc,
      fun g n hg => dotF_succ fa fb n ra rb acc hg⟩⟩
  dsimp only
  have hgroup : b.group m.grp = g := by simp [Block.group, List.getD_eq_getElem?_getD, hg]
  have hpend : (b.mmaPending s.nextId m).groups[m.grp]? = some (g.mmaPending s.nextId m) := by
    simp [Block.mmaPending, hg]
  have hin : soloMma s.nextId b l.lr x sh m ∈ (s.mmaQueued b l.lr x sh m).mtxq := by simp [State.mmaQueued]
  have hrows : (soloMma s.nextId b l.lr x sh m).rows = ((lanesOf m.on).filter fun k => !(g.lane k).helper).map
      fun k => (k, g.aWords m.x.a.vnum (aRegs (l.lr.slot x.slot.toNat) (sh.getD 1 0)) k) := by
    simp only [soloMma, Member.supply, hgroup]
  cases he : (soloMma s.nextId b l.lr x sh m).bRows b.w l.lr.wExtent with
  | error k =>
    rw [State.mmaIssue_of_unreadable hb hl hq he]
    refine ⟨_, _, _, State.mem_started _ hin, rfl, rfl, rfl, rfl, hrows, State.block?_mmaPending_same hb, hpend, rfl,
      rfl, rfl, rfl, rfl, fun h => ?_, fun k' h => ?_, fun j hj => State.block?_mmaPending_other s b m hj⟩
    · exact absurd (he.symm.trans h) (by simp)
    · obtain rfl : k = k' := Except.error.inj (he.symm.trans h)
      exact ⟨rfl, rfl⟩
  | ok bs' =>
    obtain ⟨u, hissue, hqueue, hothers, hblock⟩ := State.mmaIssue_of_readable hb hl hq he
    obtain ⟨gs, hb', hgs⟩ := hblock _ (by
      rw [State.block?_setBlock]
      exact (congrArg _ (State.block?_mmaPending_same hb)).trans (congrArg some (if_pos rfl)))
    obtain ⟨g', hg', hmc⟩ := hgs m.grp _ hpend
    rw [hissue]
    refine ⟨_, _, g', State.mem_started _ (hqueue ▸ hin), rfl, rfl, rfl, rfl, hrows, hb', hg', hmc, rfl, rfl, rfl, rfl,
      fun h => ⟨rfl, fun hc hp => ?words⟩, fun k' h => ?unreadable, fun j hj => ?others⟩
    case unreadable => exact absurd (he.symm.trans h) (by simp)
    case others =>
      rw [State.block?_started, hothers j hj, State.block?_setBlock_other _ _ (by exact hj)]
      exact State.block?_mmaPending_other s b m hj
    case words =>
      obtain rfl : bs' = bs := Except.ok.inj (he.symm.trans h)
      have hlen : bs'.length = sh.getD 0 0 := MtxOp.bRows_length he
      refine ⟨hlen, fun p hpr n rb hn => ?_, fun a ha => ?_⟩
      · have hread := (soloMma s.nextId b l.lr x sh m).read_putRows bs' hc (hlen ▸ hp) (soloMma_rows_nodup _ _ _ _ _ _)
          (rs := (soloMma s.nextId b l.lr x sh m).rows) hpr hn
        exact ⟨fun hint => hread.trans (congrArg _ (MtxOp.element_of_integer _ hint _ _ _)),
          fun size lim hint hpair => hread.trans (congrArg _ (MtxOp.element_of_float _ hint hpair _ _ _))⟩
      · exact (soloMma s.nextId b l.lr x sh m).get_putRows_other bs' hc fun r hr => hlen ▸ ha r hr

end Sys2Proof.Machine
end

section
/-!
SUPPORT. The retrieval instructions that register nothing (R251 to R255, R261): reads that go on before an instruction issues,
codes bit by bit, and each instruction's course; O27 is assembled from these.
-/

namespace Sys2Proof.Machine

/-! ### Codes (R252) -/

/-- The bits of a number that is put together from a list, from bit n upward. -/
theorem testBit_foldl_zipIdx {α : Type} (f : α → Bool) (xs : List α) (n a j : Nat) (ha : a < 2 ^ n) :
    ((xs.zipIdx n).foldl (fun (a : Nat) (p : α × Nat) => if f p.1 then a + 2 ^ p.2 else a) a).testBit j =
      if j < n then a.testBit j else (xs[j - n]?).any f := by
  induction xs generalizing n a with
  | nil =>
    split
    · rfl
    · simpa using Nat.testBit_lt_two_pow (Nat.lt_of_lt_of_le ha (Nat.pow_le_pow_right (by decide) (by omega)))
  | cons x xs ih =>
    rw [List.zipIdx_cons, List.foldl_cons]
    have hpow : 2 ^ (n + 1) = 2 * 2 ^ n := by rw [Nat.pow_succ, Nat.mul_comm]
    have hlt : (if f x = true then a + 2 ^ n else a) < 2 ^ (n + 1) := by
      split
      · omega
      · omega
    dsimp only
    rw [ih (n + 1) _ hlt]
    rcases Nat.lt_trichotomy j n with hj | rfl | hj
    · rw [if_pos (by omega), if_pos hj]
      split
      · rw [Nat.add_comm, Nat.testBit_two_pow_add_gt hj]
      · rfl
    · rw [if_pos (Nat.lt_succ_self j), if_neg (Nat.lt_irrefl j), Nat.sub_self]
      have hbit := Nat.testBit_lt_two_pow ha
      split
      · next hx =>
        rw [Nat.add_comm, Nat.testBit_two_pow_add_eq, hbit]
        exact hx.symm
      · next hx => exact hbit.trans (Bool.eq_false_iff.2 hx).symm
    · rw [if_neg (by omega), if_neg (by omega), show j - n = (j - (n + 1)) + 1 by omega, List.getElem?_cons_succ]

theorem srpWords_bit {ps : List W32} {j : Nat} (hj : j < 32) : (srpWords ps).1.getLsbD j = true ↔
    ∃ p, ps[j]? = some p ∧ p.toNat % 2 ^ 31 ≤ 0x7F80_0000 ∧ (p.getLsbD 31 = false ∨ p.toNat % 2 ^ 31 = 0) := by
  unfold srpWords
  simp only [BitVec.getLsbD_ofNat, hj, decide_true, Bool.true_and]
  rw [testBit_foldl_zipIdx (fun p : W32 => !decide (0x7F80_0000 < p.toNat % 2 ^ 31)
    && !(p.getLsbD 31 && p.toNat % 2 ^ 31 != 0)) ps 0 0 j (by simp)]
  simp only [Nat.not_lt_zero, if_false, Nat.sub_zero, Option.any_eq_true, Bool.and_eq_true, Bool.not_eq_true',
    decide_eq_false_iff_not, Nat.not_lt, Bool.and_eq_false_imp, bne_eq_false_iff_eq]
  refine exists_congr fun p => and_congr_right fun _ => and_congr_right fun _ => ?_
  cases p.getLsbD 31 <;> simp

theorem rawWords_bit {k j : Nat} {w : W32} (hj : j < 32) :
    (rawWords k w).1.getLsbD j = true ↔ j < k ∧ w.getLsbD j = true := by
  unfold rawWords
  simp only [BitVec.getLsbD_ofNat, hj, decide_true, Bool.true_and, Nat.testBit_mod_two_pow, Bool.and_eq_true,
    decide_eq_true_eq]
  rfl

/-- An image that R251 takes in is written to its register whole. -/
theorem Ctx.hfLoaded_of_ok (c : Ctx) (t : State) (m : Mask) {n : Nat} {bs : List Byte} {f : FamImg}
    (hi : f = tab 8 fun i => BitVec.ofNat 64 (ofLe ((bs.drop (8 * i)).take 8)))
    (hok : f.ok n (t.region? c.b.launch f.region) = true) :
    c.hfLoaded m n bs t = .done (t.modBlock c.iss.blk fun b => { b with hf := b.hf.setIfInBounds n f }) 0 := by
  subst hi
  unfold Ctx.hfLoaded State.setFamily
  dsimp only
  rw [if_pos hok]

/-! ### The instructions -/

section Instructions

variable {s : State} {c : Ctx} (hc : s.ctx? = some c)
include hc

theorem exec_hfset_asks {x : VForm} {n : Fin 8} (hd : x.d = .hf n) (hu : c.unshielded) (hr : c.real x.g ≠ 0)
    (ha : (c.sval x.a).toNat % 64 = 0) (ha' : (c.sval x.a).toNat < 2 ^ 52) (hp : s.preAt c = none) :
    exec (.hfset x) s = .next ((s.beginPre ⟨0, c.iss.blk, c.iss.grp, c.on x.g, c.iss.pc, false, (c.sval x.a).toNat, 64, [],
      none, some n⟩ c.b.core (c.on x.g)).waits c id) := by
  rw [← State.hold_begin]
  refine (exec_hfset x s).trans (State.issueN_wait hc ?_ _ (Ctx.shielded_on hu x.g))
  have hp' : (s.begin_ c).preAt c = none := hp
  dsimp only
  rw [hp', hd]
  dsimp only
  rw [if_neg hr, if_neg (by simpa using ha), if_neg (by omega)]
  rfl

theorem exec_hfset_loads {x : VForm} {n : Fin 8} (hd : x.d = .hf n) (hu : c.unshielded) {p : PreRead} {bs : List Byte}
    (hp : s.preAt c = some p) (hf : p.fail = none) (hb : p.bytes? = some bs) {f : FamImg}
    (hi : f = tab 8 fun i => BitVec.ofNat 64 (ofLe ((bs.drop (8 * i)).take 8)))
    (hok : f.ok n (s.region? c.b.launch f.region) = true) :
    exec (.hfset x) s = .next (((s.dropPre p.id).after c 1 0 id).modBlock c.iss.blk fun b =>
      { b with hf := b.hf.setIfInBounds n f }) := by
  have hfin := State.finish_modBlock_comm (q := fun b => { b with hf := b.hf.setIfInBounds n f })
    ((s.dropPre p.id).begin_ c) c 1 0 (fun _ => rfl) fun _ _ _ => rfl
  rw [State.finish_begin] at hfin
  refine ((exec_hfset x s).trans (State.issueN_done hc ?_ _ (Ctx.shielded_on hu x.g))).trans (congrArg _ hfin)
  have hp' : (s.begin_ c).preAt c = some p := hp
  dsimp only
  rw [hp', hd]
  dsimp only
  rw [Ctx.goOnRead, hf, hb]
  dsimp only
  have hcomm : (s.begin_ c).dropPre p.id = (s.dropPre p.id).begin_ c := rfl
  rw [hcomm]
  exact Ctx.hfLoaded_of_ok c _ _ hi hok

theorem exec_hcode_codes {x : VForm} {n : Fin 8} (hb : x.b = .hf n) {f : FamImg} (hf : c.b.fam n = f) {t0 nt : Nat}
    (ht : c.hcodeTables x f = (t0, nt)) (hm : c.on x.g ≠ 0) (hset : f.unset = false) (hnt : nt ≠ 0)
    (htop : t0 + nt ≤ f.tables) (hx : x.c = .none ∨ (c.sval x.c).toNat < 2 ^ 9)
    (ha : x.a.vnum + (if f.kind = 0 then nt * f.k else nt) ≤ 128) (hd : x.d.vnum + 2 * nt ≤ 128) :
    exec (.hcode x) s = .next (({ s with nextId := s.nextId + 1 } : State).after c 1 0 fun g =>
      { g with insns := g.insns ++ [(⟨s.nextId, .none, c.iss.pc, c.on x.g, run x.d.vnum (2 * nt), [],
        ((lanesOf (c.on x.g)).map fun l => ((List.range nt).map fun i =>
          let w := if f.kind = 0 then srpWords ((List.range f.k).map fun j => (c.r.lane l).vreg (x.a.vnum + i * f.k + j))
            else rawWords f.k ((c.r.lane l).vreg (x.a.vnum + i))
          [(Dest.v (x.d.vnum + 2 * i) l, w.1.setWidth 64),
           (Dest.v (x.d.vnum + 2 * i + 1) l, w.2.setWidth 64)]).flatten).flatten, true⟩ : Insn)] }.window
        (c.on x.g) s.nextId x.la) := by
  refine (exec_hcode x s).trans (State.issue_later hc (sr := []) (h := id) ?_ hm)
  have hpar : ¬(nt = 0 ∨ f.tables < t0 + nt ∨ (x.c ≠ .none ∧ 2 ^ 9 ≤ (c.sval x.c).toNat)
      ∨ 128 < x.a.vnum + (if f.kind = 0 then nt * f.k else nt) ∨ 128 < x.d.vnum + 2 * nt) := by
    rintro (h | h | ⟨h, h'⟩ | h | h)
    · exact hnt h
    · omega
    · exact hx.elim h fun h => by omega
    · omega
    · omega
  have hfam : c.b.fam (Opnd.hfnum x.b) = f := by rw [hb]; exact hf
  simp only [hfam, ht]
  rw [if_neg hm, if_neg (by rw [hset]; decide), if_neg hpar]

theorem exec_hprobe_leaves {x : VForm} {n : Fin 8} (hb : x.b = .hf n) (hu : c.unshielded) {fs : List FamImg} {r : Region}
    (hm : c.real x.g ≠ 0) (hfs : c.b.fams n = some fs) (hr : s.region? c.b.launch (c.b.fam n).region = some r)
    (h45 : bitsOf (c.sval x.c).toNat 47 45 = 0) (h52 : bitsOf (c.sval x.c).toNat 63 52 = 0)
    (hm1 : 1 ≤ probeM (c.sval x.c)) (hm512 : probeM (c.sval x.c) ≤ 512) (ht : 1 ≤ probeT (c.sval x.c))
    (ha : x.a.vnum + famWords fs ≤ 128) (hset : (c.b.handle (probeTh (c.sval x.c))).unset = false)
    (htype : (c.b.handle (probeTh (c.sval x.c))).type = 1) (hspace : (c.b.handle (probeTh (c.sval x.c))).space = 0)
    (hfree : s.handleBusy c.iss.blk (probeTh (c.sval x.c)) = false) (hlc : c.g.lc < 255) :
    exec (.hprobe x) s = .next (({ s with
      nextId := s.nextId + 1
      probes := s.probes ++ [c.probe s x (.probe (decide (x.sub = 1))) (c.real x.g)
        ((lanesOf (c.real x.g)).map fun l => (l, 0, (List.range (famWords fs)).map fun i => (c.r.lane l).vreg (x.a.vnum + i)))
        (decide (probeV (c.sval x.c) ≤ r.pub))] } : State).after c 1 0 fun g =>
      { g with
        insns := g.insns ++ [(⟨s.nextId, .lc, c.iss.pc, c.real x.g, if x.sub = 1 then run x.d.vnum 2 else [x.d.vnum], [], [],
          false⟩ : Insn)]
        lc := g.lc + 1 }.window (c.real x.g) s.nextId x.la) := by
  rw [← State.finish_modGroup]
  refine (exec_hprobe x s).trans (State.issueN_done hc ?_ _ (Ctx.shielded_on hu x.g))
  have hfree' : (s.begin_ c).handleBusy c.iss.blk (probeTh (c.sval x.c)) = false := hfree
  have hr' : (s.begin_ c).region? c.b.launch (c.b.fam n).region = some r := hr
  have hfull : c.full .lc = false := Ctx.full_of_lt hlc
  have hpar : (bitsOf (c.sval x.c).toNat 47 45 != 0 || bitsOf (c.sval x.c).toNat 63 52 != 0 || probeM (c.sval x.c) == 0
      || decide (512 < probeM (c.sval x.c)) || probeT (c.sval x.c) == 0 || decide (128 < x.a.vnum + famWords fs)) = false := by
    simp only [Bool.or_eq_false_iff, bne_eq_false_iff_eq, beq_eq_false_iff_ne, decide_eq_false_iff_not]
    omega
  simp only [hb, Opnd.hfnum, hfs, hr', Option.getD_some, hpar, hset, htype, hspace, if_neg hm, hfree', hfull]
  rfl

theorem exec_hstat_reads {x : VForm} {n : Fin 8} (hb : x.b = .hf n) (hm : c.on x.g ≠ 0) (hq : x.sub.toNat < 9) :
    exec (.hstat x) s = .next (s.after c 1 0 fun g =>
      g.putS x.d ((c.b.hfc[n.val]?.getD (Vector.replicate 9 0))[x.sub.toNat]?.getD 0)) := by
  refine (exec_hstat x s).trans (State.issue_doneG hc ?_)
  simp only [hb, Opnd.hfnum, subN]
  rw [if_neg hm, if_pos hq, Ctx.scal, if_neg hm]

theorem exec_hstat_image {x : VForm} {n : Fin 8} (hb : x.b = .hf n) (hm : c.on x.g ≠ 0) (hq : 9 ≤ x.sub.toNat)
    (hq' : x.sub.toNat < 32) :
    exec (.hstat x) s = .next (s.after c 1 0 fun g =>
      g.putS x.d (BitVec.ofNat 64 ((c.b.fam n).dw (x.sub.toNat - 16)))) := by
  refine (exec_hstat x s).trans (State.issue_doneG hc ?_)
  simp only [hb, Opnd.hfnum, subN]
  rw [if_neg hm, if_neg (by omega), if_pos hq', Ctx.scal, if_neg hm]

theorem exec_hstat_helpers {x : VForm} {n : Fin 8} (hb : x.b = .hf n) (hm : c.on x.g ≠ 0) (hq : 32 ≤ x.sub.toNat)
    (hr : c.real x.g = 0) :
    exec (.hstat x) s = .next (s.after c 1 0 fun g =>
      g.putS x.d ((c.b.hfc[n.val]?.getD (Vector.replicate 9 0))[x.sub.toNat - 32]?.getD 0)) := by
  refine (exec_hstat x s).trans (State.issue_doneG hc ?_)
  simp only [hb, Opnd.hfnum, subN]
  rw [if_neg hm, if_neg (by omega), if_neg (by omega), if_pos hr, Ctx.scal, if_neg hm]

theorem exec_hstat_clears {x : VForm} {n : Fin 8} (hb : x.b = .hf n) (hm : c.on x.g ≠ 0) (hq : 32 ≤ x.sub.toNat)
    (hr : c.real x.g ≠ 0) {all : Vector W64 9} (hall : c.b.hfc[n.val]?.getD (Vector.replicate 9 0) = all) :
    exec (.hstat x) s = .next ((s.after c 1 0 fun g => g.putS x.d (all[x.sub.toNat - 32]?.getD 0)).modBlock c.iss.blk
      fun b => { b with hfc := b.hfc.setIfInBounds n (all.setIfInBounds (x.sub.toNat - 32) 0) }) := by
  rw [← State.finish_modBlock (q := fun b => { b with hfc := b.hfc.setIfInBounds n (all.setIfInBounds (x.sub.toNat - 32) 0) })
    s c 1 0 _ (fun _ => rfl) fun _ _ _ => rfl]
  refine (exec_hstat x s).trans (State.issue_done hc ?_)
  simp only [hb, Opnd.hfnum, subN, hall]
  rw [if_neg hm, if_neg (by omega), if_neg (by omega), if_neg hr, Ctx.scal, if_neg hm]
  rfl

end Instructions

/-- Settles O27: the courses above, and the bits of a code. -/
theorem retrievalInstructionsAct : Obligations.RetrievalInstructionsAct := by
  refine ⟨fun s c x hc => ⟨fun n hd hu hr => ?hfset, fun n hb => ?hcode, fun n fs r hb hu => ?hprobe, fun n hb hm => ?hstat⟩,
    fun ps j hj _ => srpWords_bit hj, fun k j w hj => rawWords_bit hj⟩
  case hfset =>
    exact fun ha ha' => ⟨exec_hfset_asks hc hd hu hr ha ha', fun p bs hp hf hbs hok => exec_hfset_loads hc hd hu hp hf hbs rfl hok⟩
  case hcode =>
    refine fun hm hset hnt htop hx ha hd => exec_hcode_codes hc hb rfl ?_ hm hset hnt htop hx ha hd
    unfold Ctx.hcodeTables
    split <;> rfl
  case hprobe =>
    refine fun hm hfs hr h45 h52 hm1 hm512 ht ha hset htype hspace hfree hlc =>
      (exec_hprobe_leaves hc hb hu hm hfs hr h45 h52 hm1 hm512 ht ha hset htype hspace hfree hlc).trans ?_
    unfold Ctx.probe
    rw [hb]
    rfl
  case hstat =>
    exact ⟨exec_hstat_reads hc hb hm, exec_hstat_image hc hb hm, exec_hstat_helpers hc hb hm,
      fun hq hr => exec_hstat_clears hc hb hm hq hr rfl⟩

end Sys2Proof.Machine
end

section
/-!
SUPPORT. The events of groups (R65, R66, R76, R79, R167, R275): each event's course in a resident block; O34 is assembled from
these and from the packing of threads.
-/

namespace Sys2Proof.Machine

/-! ### The least of a list, and a list in order -/

theorem leastBy_eq_none {α : Type} {key : α → Nat} {xs : List α} (h : leastBy key xs = none) : xs = [] := by
  cases xs with
  | nil => rfl
  | cons x xs =>
    rw [leastBy] at h
    split at h
    · cases h
    · split at h <;> cases h

/-- The least element is one of the list, and none is less. -/
theorem leastBy_spec {α : Type} {key : α → Nat} {xs : List α} {x : α} (h : leastBy key xs = some x) :
    x ∈ xs ∧ ∀ y ∈ xs, key x ≤ key y := by
  induction xs generalizing x with
  | nil => cases h
  | cons y ys ih =>
    rw [leastBy] at h
    split at h
    · next hn =>
      cases h
      simp [leastBy_eq_none hn]
    · next z hz =>
      obtain ⟨hmem, hle⟩ := ih hz
      split at h
      · cases h
        exact ⟨.tail _ hmem, List.forall_mem_cons.2 ⟨by omega, hle⟩⟩
      · cases h
        exact ⟨.head _, List.forall_mem_cons.2 ⟨Nat.le_refl _, fun w hw => by have := hle w hw; omega⟩⟩

theorem mem_insertFirst {α : Type} {key : α → Nat} {x z : α} {ys : List α} :
    z ∈ sortBy.insertFirst key x ys ↔ z = x ∨ z ∈ ys := by
  induction ys with
  | nil => simp [sortBy.insertFirst]
  | cons y ys ih =>
    rw [sortBy.insertFirst]
    split
    · simp
    · simp only [List.mem_cons, ih]
      tauto

theorem mem_sortBy {α : Type} {key : α → Nat} {z : α} {xs : List α} : z ∈ sortBy key xs ↔ z ∈ xs := by
  induction xs with
  | nil => rfl
  | cons x xs ih => rw [sortBy, mem_insertFirst, ih, List.mem_cons]

/-- One element precedes another by its key, and by R where their keys are equal. -/
def KeyThen {α : Type} (key : α → Nat) (R : α → α → Prop) (x y : α) : Prop := key x < key y ∨ (key x = key y ∧ R x y)

theorem insertFirst_pairwise {α : Type} {key : α → Nat} {R : α → α → Prop} {x : α} {ys : List α}
    (hx : ∀ y ∈ ys, R x y) (h : ys.Pairwise (KeyThen key R)) : (sortBy.insertFirst key x ys).Pairwise (KeyThen key R) := by
  induction ys with
  | nil => simp [sortBy.insertFirst]
  | cons y ys ih =>
    obtain ⟨hy, hys⟩ := List.pairwise_cons.1 h
    have hkey : ∀ z ∈ y :: ys, key y ≤ key z := List.forall_mem_cons.2
      ⟨Nat.le_refl _, fun z hz => (hy z hz).elim Nat.le_of_lt fun e => Nat.le_of_eq e.1⟩
    rw [sortBy.insertFirst]
    split
    · next hle =>
      refine List.pairwise_cons.2 ⟨fun z hz => ?_, h⟩
      rcases Nat.lt_or_eq_of_le (Nat.le_trans hle (hkey z hz)) with hlt | heq
      · exact .inl hlt
      · exact .inr ⟨heq, hx z hz⟩
    · next hnle =>
      refine List.pairwise_cons.2 ⟨fun z hz => ?_, ih (fun z hz => hx z (.tail _ hz)) hys⟩
      rcases mem_insertFirst.1 hz with rfl | hz
      · exact .inl (Nat.lt_of_not_le hnle)
      · exact hy z hz

/-- Sorting keeps the order of elements of equal keys. -/
theorem sortBy_pairwise {α : Type} {key : α → Nat} {R : α → α → Prop} {xs : List α} (h : xs.Pairwise R) :
    (sortBy key xs).Pairwise (KeyThen key R) := by
  induction xs with
  | nil => exact .nil
  | cons x xs ih =>
    obtain ⟨hx, hxs⟩ := List.pairwise_cons.1 h
    exact insertFirst_pairwise (fun y hy => hx y (mem_sortBy.1 hy)) (ih hxs)

/-! ### Events of one group -/

theorem Lane.heldAt_iff {x : Lane} {m : W32} : x.heldAt m = true ↔ x.st = .held ∧ x.mt = m := by simp [Lane.heldAt]

theorem Group.releases_iff {g : Group} {m : W32} : g.releases m = true ↔ (∃ l, l < 32 ∧ (g.lane l).st = .held ∧ (g.lane l).mt = m)
    ∧ ∀ l, l < 32 → ((g.lane l).mt = m ∨ ((g.lane l).inTrap = true ∧ (g.lane l).smt = m)) →
      ((g.lane l).st = .held ∧ (g.lane l).mt = m) ∨ (g.lane l).exited = true ∨ (g.lane l).helper = true := by
  simp only [Group.releases, Bool.and_eq_true, List.any_eq_true, List.mem_range, Lane.heldAt_iff, Bool.not_eq_true',
    List.any_eq_false, Lane.awaited, Bool.or_eq_true, beq_iff_eq, not_and]
  refine and_congr_right fun _ => forall₂_congr fun l _ => ?_
  rw [← Lane.heldAt_iff]
  cases (g.lane l).heldAt m <;> cases (g.lane l).exited <;> simp

/-- What moves a sleeper at the end of its interval (R76). -/
def Group.wake (g : Group) (n : Nat) : Group :=
  g.modLanes (maskOf fun l => decide ((g.lane l).st = .sleeping n)) fun _ x => { x with st := .run }.arrive

theorem Lane.arrive_st {x : Lane} (h : x.st = .run) : x.arrive.st = .run ∨ x.arrive.st = .held := by
  unfold Lane.arrive
  split
  · exact .inr rfl
  · exact .inl h

theorem Group.lane_wake (g : Group) {n l : Nat} (hl : l < 32) :
    ((g.lane l).st = .sleeping n → ((g.wake n).lane l).st = .run ∨ ((g.wake n).lane l).st = .held)
      ∧ ((g.lane l).st ≠ .sleeping n → (g.wake n).lane l = g.lane l) := by
  rw [Group.wake, Group.lane_modLanes _ _ _ _ hl, inMask_maskOf, decide_eq_true hl, Bool.true_and]
  refine ⟨fun h => ?_, fun h => ?_⟩
  · rw [if_pos (decide_eq_true h)]
    exact Lane.arrive_st rfl
  · rw [if_neg (by simpa using h)]

section Events

variable {s : State} {blk grp : Nat} {b : Block} {g : Group} (hb : s.block? blk = some b) (hg : b.groups[grp]? = some g)

include hg in
theorem Block.group_of_getElem? : b.group grp = g := by simp [Block.group, List.getD_eq_getElem?_getD, hg]

include hb hg in
theorem State.group?_of_block : s.group? blk grp = some g := by simp [State.group?, hb, hg]

include hb hg in
theorem State.group?_modGroup_of_block (f : Group → Group) : (s.modGroup blk grp f).group? blk grp = some (f g) := by
  rw [State.group?_modGroup_same, State.group?_of_block hb hg, Option.map_some]

variable (hr : b.st = .resident)

include hr in
theorem Block.running_of_resident : b.running = true := decide_eq_true hr

include hb hg hr

theorem exec_meetingRelease_of_releases {m : W32} (h : g.releases m = true) :
    exec (.meetingRelease blk grp m) s = .next (s.modGroup blk grp fun q => q.release m) := by
  rw [exec_meetingRelease, execMeetingRelease, hb]
  dsimp only
  rw [Block.group_of_getElem? hg, Block.running_of_resident hr, h]
  rfl

theorem exec_meetingDeadlock_traps {m : W32} (hlive : g.live ≠ 0)
    (hheld : ∀ l, l < 32 → (g.lane l).exited = true ∨ (g.lane l).st = .held)
    (hno : ∀ l, l < 32 → (g.lane l).st = .held → g.releases (g.lane l).mt = false ∧ m.toNat ≤ (g.lane l).mt.toNat)
    (hat : ∃ l, l < 32 ∧ (g.lane l).st = .held ∧ (g.lane l).mt = m) :
    exec (.meetingDeadlock blk grp) s = .next (s.trap blk grp
      { causes := [(.meetingDeadlock, maskOf fun l => (g.lane l).heldAt m)], tepc := m, hdr := m }) := by
  have hmeet {v : W32} : v ∈ g.meetings ↔ ∃ l, l < 32 ∧ (g.lane l).st = .held ∧ (g.lane l).mt = v := by
    simp [Group.meetings, and_assoc]
  have hleast : leastBy (fun (v : W32) => v.toNat) g.meetings = some m := by
    cases h : leastBy (fun (v : W32) => v.toNat) g.meetings with
    | none => exact absurd (leastBy_eq_none h ▸ hmeet.2 hat) (List.not_mem_nil)
    | some v =>
      obtain ⟨hmem, hle⟩ := leastBy_spec h
      obtain ⟨l, hl, hst, rfl⟩ := hmeet.1 hmem
      exact congrArg some (BitVec.eq_of_toNat_eq (Nat.le_antisymm (hle m (hmeet.2 hat)) (hno l hl hst).2))
  have hdead : g.deadlocked = true := by
    simp only [Group.deadlocked, Bool.and_eq_true, bne_iff_ne, List.all_eq_true, mem_lanesOf, Group.live, inMask_maskOf,
      decide_eq_true_eq, Bool.not_eq_true', List.any_eq_false]
    refine ⟨⟨hlive, fun l hl => (hheld l hl.1).resolve_left (by simp [hl.2])⟩, fun v hv => ?_⟩
    obtain ⟨l, hl, hst, rfl⟩ := hmeet.1 hv
    simp [(hno l hl hst).1]
  rw [exec_meetingDeadlock, execMeetingDeadlock, hb]
  dsimp only
  rw [Block.group_of_getElem? hg, hleast, Block.running_of_resident hr, hdead]
  rfl

theorem exec_sleepExpiry_wakes {k n : Nat} (hk : (g.lane k).st = .sleeping n) (hn : n ≤ s.cc) :
    exec (.sleepExpiry blk grp k) s = .next (s.modGroup blk grp fun q => q.wake n) := by
  rw [exec_sleepExpiry, execSleepExpiry, hb]
  dsimp only
  rw [Block.group_of_getElem? hg, hk, Block.running_of_resident hr]
  exact if_pos (decide_eq_true hn)

omit hr in
theorem exec_activeIdleTimeout_notes (ha : g.active ≠ none) (hno : s.ready b grp = false) (hi : g.idleAt + 16 ≤ s.cc) :
    exec (.activeIdleTimeout blk grp) s = .next (s.modGroup blk grp fun q => { q with idleOut := true }) := by
  rw [exec_activeIdleTimeout, execActiveIdleTimeout, hb]
  dsimp only
  rw [Block.group_of_getElem? hg, hno, decide_eq_true hi, Option.isSome_iff_ne_none.2 ha]
  rfl

theorem exec_taskGroupStart_starts (hf : g.forming = true) (hm : g.mayIssue ≤ s.cc) :
    exec (.taskGroupStart blk grp) s = .next (s.modGroup blk grp fun q => { q with forming := false, readyAt := s.cc }) := by
  rw [exec_taskGroupStart, execTaskGroupStart, hb]
  dsimp only
  rw [Block.group_of_getElem? hg, hf, decide_eq_true hm, Block.running_of_resident hr]
  rfl

omit hr in
/-- The longest-ready pending group takes the first empty active slot (R79). -/
theorem exec_activeSetSwap_enters {core quad k : Nat}
    (hleast : leastBy (fun (p : Block × Nat) => (p.1.group p.2).readyAt)
      ((s.quadGroups core quad).filter fun p => (p.1.group p.2).active.isNone && s.ready p.1 p.2) = some (b, grp))
    (hk : k < 8) (hfree : ∀ q ∈ s.quadGroups core quad, (q.1.group q.2).active ≠ some k) :
    ∃ t g' j, exec (.activeSetSwap core quad) s = .next t ∧ t.group? b.id grp = some g' ∧ g'.active = some j ∧ j ≤ k
      ∧ s.cc + 2 ≤ g'.mayIssue := by
  have hslot : (!(s.quadGroups core quad).any fun q => decide ((q.1.group q.2).active = some k)) = true := by
    simpa using fun p i hq => hfree (p, i) hq
  cases hfind : (List.range 8).find? fun k => !(s.quadGroups core quad).any fun q => decide ((q.1.group q.2).active = some k) with
  | none => exact absurd hslot (by simpa using List.find?_eq_none.1 hfind k (List.mem_range.2 hk))
  | some j =>
    refine ⟨_, _, j, ?_, State.group?_modGroup_of_block (State.block?_id hb ▸ hb) hg fun q =>
      { q with active := some j, mayIssue := max q.mayIssue (s.cc + 2) }, rfl, ?_, Nat.le_max_right _ _⟩
    · rw [exec_activeSetSwap, execActiveSetSwap]
      dsimp only
      rw [hleast]
      dsimp only
      rw [hfind]
    · refine Nat.le_of_not_lt fun hlt => ?_
      obtain ⟨_, _, hbefore⟩ := List.find?_range_eq_some.1 hfind
      exact absurd hslot (by simpa using hbefore k hlt)

/-! ### BARWAIT (R167) -/

omit hb hr in
theorem inMask_barPassedLanes {l : Nat} : inMask (b.barPassedLanes grp) l = true ↔ l < 32 ∧ ∃ off d p,
    (g.lane l).st = .barwait off d p ∧ (p = true ∨ barPassed (barRead b.scratch off).phase d = true) := by
  rw [Block.barPassedLanes, inMask_maskOf, Bool.and_eq_true, decide_eq_true_iff, Block.group_of_getElem? hg]
  refine and_congr_right fun _ => ⟨fun h => ?_, ?_⟩
  · split at h
    · next off d p hst => exact ⟨off, d, p, hst, by simpa using h⟩
    · cases h
  · rintro ⟨off, d, p, hst, hp⟩
    rw [hst]
    simpa using hp

end Events

/-- A lane has come past an instruction at c. -/
def Group.Passed (g : Group) (k : Nat) (pc : W32) : Prop :=
  (g.lane k).pc = pc + 8 ∧ ((g.lane k).st = .run ∨ (g.lane k).st = .held)

theorem Lane.passed_pass (y : Lane) (i : Issue) :
    (Lane.pass { y with st := .run } i 1).pc = i.pc + 8
      ∧ ((Lane.pass { y with st := .run } i 1).st = .run ∨ (Lane.pass { y with st := .run } i 1).st = .held) :=
  ⟨Lane.arrive_pc _, Lane.arrive_st rfl⟩

/-- The lanes of a list go on one by one; a lane of the list has then come past its own instruction. -/
theorem State.passLanes_passes {b : Block} {l : Launch} {grp : Nat} {m : Mask} {k : Nat} (hk : k < 32) {pc : W32}
    (hpc : ((b.group grp).lane k).place.2 = pc) (ks : List Nat) {t : State} {g : Group} (hg : t.group? b.id grp = some g)
    (h : k ∈ ks ∨ g.Passed k pc) :
    ∃ g', (ks.foldl (fun (t : State) k =>
      let p := ((b.group grp).lane k).place
      let (cnt, t) := t.cntAt b.core l p.1.toNat
      t.modGroup b.id grp fun g => g.modLanes (maskOf (· == k)) fun _ y =>
        Lane.pass { y with st := .run } ⟨b.id, grp, m, p.2, p.1, 0, cnt, none⟩ 1) t).group? b.id grp = some g'
      ∧ g'.Passed k pc := by
  induction ks generalizing t g with
  | nil => exact ⟨g, hg, h.resolve_left List.not_mem_nil⟩
  | cons j js ih =>
    rw [List.foldl_cons]
    have hcnt : (t.cntAt b.core l ((b.group grp).lane j).place.1.toNat).2.group? b.id grp = some g := by
      rw [← hg, State.cntAt]
      split <;> rfl
    refine ih (by rw [State.group?_modGroup_same, hcnt]; rfl) ?_
    rw [Group.Passed, Group.lane_modLanes _ _ _ _ hk, inMask_maskOf, decide_eq_true hk, Bool.true_and]
    by_cases hj : k = j
    · subst hj
      rw [if_pos (by simp)]
      exact .inr (hpc ▸ Lane.passed_pass _ _)
    · rw [if_neg (by simpa using hj)]
      exact h.imp_left fun hmem => (List.mem_cons.1 hmem).resolve_left hj

section Barriers

variable {s : State} {blk grp : Nat} {b : Block} {g : Group} (hb : s.block? blk = some b) (hg : b.groups[grp]? = some g)
  {l : Launch} (hl : s.launch? b.launch = some l)
include hb hg hl

theorem exec_barwaitResume_of_none (hno : ∀ k off d p, k < 32 → (g.lane k).st = .barwait off d p →
    p = false ∧ barPassed (barRead b.scratch off).phase d = false) : exec (.barwaitResume blk grp) s = .next s := by
  have hm : b.barPassedLanes grp = 0#32 := mask_ext fun k _ => by
    rw [inMask_zero, Bool.eq_false_iff, ne_eq, inMask_barPassedLanes hg]
    rintro ⟨hk, off, d, p, hst, hp⟩
    obtain ⟨rfl, hnot⟩ := hno k off d p hk hst
    simp [hnot] at hp
  rw [exec_barwaitResume, execBarwaitResume, hb]
  dsimp only
  rw [hl]
  dsimp only
  rw [hm, lanesOf_zero]
  split <;> rfl

theorem exec_barwaitResume_passes (hr : b.st = .resident) {k off : Nat} {d : W32} {p : Bool} (hk : k < 32)
    (hst : (g.lane k).st = .barwait off d p) (hp : p = true ∨ barPassed (barRead b.scratch off).phase d = true)
    (hpeer : ∀ j, j < 32 → (∃ off d p, (g.lane j).st = .barwait off d p) →
      (s.fetch b.core l (g.lane j).place.1.toNat).1 ≠ .peer) :
    ∃ t g', exec (.barwaitResume blk grp) s = .next t ∧ t.group? blk grp = some g'
      ∧ (g'.lane k).pc = (g.lane k).place.2 + 8 ∧ ((g'.lane k).st = .run ∨ (g'.lane k).st = .held) := by
  obtain rfl := State.block?_id hb
  have hgrp := Block.group_of_getElem? hg
  have hask : s.askFirst b l grp (b.barPassedLanes grp)
      ((lanesOf (b.barPassedLanes grp)).map fun k => ((b.group grp).lane k).place.1.toNat) = none := by
    rw [State.askFirst, Option.map_eq_none_iff, State.unread?, List.find?_eq_none]
    intro o ho
    obtain ⟨j, hj, rfl⟩ := List.mem_map.1 ho
    obtain ⟨hj32, off, d, p, hst, _⟩ := (inMask_barPassedLanes hg).1 ((mem_lanesOf _ _).1 hj)
    rw [hgrp, decide_eq_false (hpeer j hj32 ⟨off, d, p, hst⟩)]
    simp
  obtain ⟨g', hg', hpassed⟩ := State.passLanes_passes (l := l) (m := b.barPassedLanes grp) hk (b := b) (grp := grp) rfl
    (lanesOf (b.barPassedLanes grp)) (State.group?_of_block hb hg)
    (.inl ((mem_lanesOf _ _).2 ((inMask_barPassedLanes hg).2 ⟨hk, off, d, p, hst, hp⟩)))
  refine ⟨_, g', ?_, hg', hgrp ▸ hpassed⟩
  rw [exec_barwaitResume, execBarwaitResume, hb]
  dsimp only
  rw [hl]
  dsimp only
  rw [Block.running_of_resident hr, hask]
  rfl

end Barriers

/-! ### Repacking (R68, R70) -/

/-- The thread of a lane that waits at a BRPK. -/
def Block.waiterAt (b : Block) (i l : Nat) : List Packed :=
  match ((b.group i).lane l).st with
  | .brpk t => [(⟨i, l, t, (b.group i).lane l, (List.range 8).map fun r => ((b.group i).preg r).getLsbD l⟩ : Packed)]
  | _ => []

theorem Block.waiters_eq (b : Block) : b.waiters = sortBy (fun (p : Packed) => p.target.toNat)
    ((b.packSlots.map fun i => ((List.range 32).map (b.waiterAt i)).flatten).flatten) := rfl

theorem Block.mem_waiterAt {b : Block} {i l : Nat} {p : Packed} (h : p ∈ b.waiterAt i l) : p.grp = i ∧ p.lane = l := by
  unfold Block.waiterAt at h
  split at h
  · cases List.mem_singleton.1 h
    exact ⟨rfl, rfl⟩
  · cases h

/-- The waiting threads stand in the order of target, group and lane. -/
theorem Block.waiters_pairwise (b : Block) : b.waiters.Pairwise fun p q => p.target.toNat < q.target.toNat ∨
    (p.target = q.target ∧ (p.grp < q.grp ∨ (p.grp = q.grp ∧ p.lane < q.lane))) := by
  have hlane (i : Nat) : (((List.range 32).map (b.waiterAt i)).flatten).Pairwise
      fun p q => p.grp < q.grp ∨ (p.grp = q.grp ∧ p.lane < q.lane) := by
    refine List.pairwise_flatten.2 ⟨fun w hw => ?_, List.pairwise_map.2 (List.pairwise_lt_range.imp fun hlt p hp q hq => ?_)⟩
    · obtain ⟨l, _, rfl⟩ := List.mem_map.1 hw
      unfold Block.waiterAt
      split
      · exact List.pairwise_singleton _ _
      · exact .nil
    · obtain ⟨hpg, hpl⟩ := Block.mem_waiterAt hp
      obtain ⟨hqg, hql⟩ := Block.mem_waiterAt hq
      exact .inr ⟨hpg.trans hqg.symm, by omega⟩
  have hslots : b.packSlots.Pairwise (· < ·) := List.Pairwise.filter _ List.pairwise_lt_range
  rw [Block.waiters_eq]
  refine (sortBy_pairwise (R := fun p q => p.grp < q.grp ∨ (p.grp = q.grp ∧ p.lane < q.lane))
    (List.pairwise_flatten.2 ⟨fun w hw => ?_, List.pairwise_map.2 (hslots.imp fun hlt p hp q hq => ?_)⟩)).imp fun h =>
    h.imp_right fun h => ⟨BitVec.eq_of_toNat_eq h.1, h.2⟩
  · obtain ⟨i, _, rfl⟩ := List.mem_map.1 hw
    exact hlane i
  · have hgrp {i : Nat} {p : Packed} (hp : p ∈ ((List.range 32).map (b.waiterAt i)).flatten) : p.grp = i := by
      obtain ⟨w, hw, hp⟩ := List.mem_flatten.1 hp
      obtain ⟨l, _, rfl⟩ := List.mem_map.1 hw
      exact (Block.mem_waiterAt hp).1
    exact .inl (by rw [hgrp hp, hgrp hq]; exact hlt)

/-- A block whose groups differ from another's at most in the records of their instructions. -/
def Block.SameThreads (b' b : Block) : Prop :=
  b'.groups.length = b.groups.length ∧ ∀ i, ∃ is, b'.group i = { b.group i with insns := is }

theorem Block.SameThreads.packSlots {b' b : Block} (h : b'.SameThreads b) : b'.packSlots = b.packSlots := by
  obtain ⟨hlen, hgrp⟩ := h
  rw [Block.packSlots, Block.packSlots, hlen]
  refine List.filter_congr fun i _ => ?_
  obtain ⟨is, hi⟩ := hgrp i
  rw [hi]

theorem Block.SameThreads.waiters {b' b : Block} (h : b'.SameThreads b) : b'.waiters = b.waiters := by
  have hat : b'.waiterAt = b.waiterAt := funext fun i => funext fun l => by
    obtain ⟨is, hi⟩ := h.2 i
    unfold Block.waiterAt
    rw [hi]
    rfl
  rw [Block.waiters_eq, Block.waiters_eq, h.packSlots, hat]

theorem Block.SameThreads.packInto {b' b : Block} (h : b'.SameThreads b) (tasks : Bool) : b'.packInto tasks = b.packInto tasks := by
  rw [Block.packInto, Block.packInto, h.packSlots, h.waiters]

/-- A group of a block whose groups are changed one by one. -/
theorem Block.group_of_zipIdx {b b' : Block} {f : Group × Nat → Group} (h : b'.groups = b.groups.zipIdx.map f) (i : Nat) :
    b'.group i = if i < b.groups.length then f (b.group i, i) else b.group i := by
  simp only [Block.group, List.getD_eq_getElem?_getD, h, List.getElem?_map, List.getElem?_zipIdx]
  split
  · next hi => simp [hi]
  · next hi => simp [List.getElem?_eq_none (Nat.le_of_not_lt hi)]

theorem Block.repackInsns_sameThreads (b : Block) (tasks : Bool) (rs : List Req) : (b.repackInsns tasks rs).SameThreads b := by
  refine ⟨by simp [Block.repackInsns], fun i => ?_⟩
  rw [Block.group_of_zipIdx (b := b) rfl i]
  dsimp only
  split
  · split
    · exact ⟨_, rfl⟩
    · exact ⟨_, rfl⟩
  · exact ⟨_, rfl⟩

theorem Block.repackInsns_other (b : Block) {tasks : Bool} (rs : List Req) {k : Nat} (hk : k ∉ b.packInto tasks) :
    (b.repackInsns tasks rs).group k = b.group k := by
  rw [Block.group_of_zipIdx (b := b) rfl k]
  simp [hk]

theorem Block.repack_other (b : Block) {tasks : Bool} (now : Nat) {k : Nat} (hk : k ∉ b.packInto tasks) :
    (b.repack tasks now).group k = b.group k := by
  rw [Block.group_of_zipIdx (b := b) rfl k]
  simp [hk]

theorem Block.length_repack (b : Block) (tasks : Bool) (now : Nat) : (b.repack tasks now).groups.length = b.groups.length := by
  simp [Block.repack]

theorem State.block?_setBlock_same (s : State) {blk : Nat} {b b' : Block} (hb : s.block? blk = some b) (hid : b'.id = b.id) :
    (s.setBlock b').block? blk = some b' := by
  rw [State.block?_setBlock, hb, Option.map_some, if_pos hid.symm]

theorem Block.packSlots_nodup (b : Block) : b.packSlots.Nodup := List.nodup_range.filter _

theorem Block.packInto_sublist (b : Block) (tasks : Bool) : (b.packInto tasks).Sublist b.packSlots := by
  unfold Block.packInto
  split
  · exact List.filter_sublist
  · exact List.Sublist.refl _

/-- Lane i of the j-th slot receives thread 32 j + i of the order. -/
theorem Block.lane_repack (b : Block) {tasks : Bool} (now : Nat) {j k i : Nat} (hj : (b.packInto tasks)[j]? = some k)
    (hi : i < 32) : ((b.repack tasks now).group k).lane i = ((b.waiters[32 * j + i]?).map Packed.arrive).getD Lane.empty := by
  have hmem : k ∈ b.packInto tasks := List.mem_of_getElem? hj
  have hlen : k < b.groups.length := by
    have := (b.packInto_sublist tasks).subset hmem
    simp only [Block.packSlots, List.mem_filter, List.mem_range] at this
    exact this.1
  obtain ⟨hjlt, hjk⟩ := List.getElem?_eq_some_iff.1 hj
  have hidx : (b.packInto tasks).findIdx (fun i => i == k) = j := by
    have := (b.packSlots_nodup.sublist (b.packInto_sublist tasks)).idxOf_getElem j hjlt
    rwa [hjk] at this
  rw [Block.group_of_zipIdx (b := b) rfl k, if_pos hlen]
  simp only [List.contains_iff_mem.2 hmem, Bool.not_true, Bool.false_eq_true, if_false, hidx, Group.lane]
  rw [tab_getElem?, if_pos hi, Option.getD_some, Nat.mul_comm]

theorem Packed.arrive_spec (p : Packed) : p.arrive.pc = p.target ∧ p.arrive.v = p.x.v ∧ p.arrive.mt = p.x.mt
    ∧ p.arrive.tag = p.x.tag ∧ p.arrive.helper = p.x.helper ∧ p.arrive.bnd = p.x.bnd ∧ p.arrive.hdr = none
    ∧ p.arrive.st = (if p.target = p.x.mt then .held else .run) := by
  refine ⟨Lane.arrive_pc _, Lane.arrive_v _, Lane.arrive_mt _, Lane.arrive_tag _, Lane.arrive_helper _, Lane.arrive_bnd _,
    Lane.arrive_hdr _, ?_⟩
  rw [Packed.arrive, Lane.arrive_of_run rfl rfl]
  dsimp only
  split <;> rfl

/-- The slots that receive the threads of a block of launch l. -/
theorem Block.packInto_eq (b : Block) (tasks : Bool) : b.packInto tasks = (List.range b.groups.length).filter fun k =>
    !(b.group k).task && (!tasks || b.waiters.any fun p => p.grp == k) := by
  cases tasks with
  | false =>
    refine List.filter_congr fun k _ => ?_
    simp
  | true =>
    rw [Block.packInto, if_pos rfl, Block.packSlots, List.filter_filter]
    refine List.filter_congr fun k _ => ?_
    rw [Bool.and_comm]
    simp

theorem exec_repacking_packs {s : State} {blk : Nat} {b : Block} {l : Launch} (hb : s.block? blk = some b)
    (hl : s.launch? b.launch = some l) (hr : b.st = .resident) (hall : b.allAtBrpk = true) (hone : b.mismatch = none)
    (hdrain : s.packDrained b = true) :
    exec (.repacking blk) s = .next (({ s with reqs := s.reqs.map fun r => r.repack b l.lr.tasks } : State).setBlock
      ((b.repackInsns l.lr.tasks (s.reqs.map fun r => r.repack b l.lr.tasks)).repack l.lr.tasks s.cc)) := by
  rw [exec_repacking, execRepacking, hb]
  dsimp only
  rw [hall, Block.running_of_resident hr, hone, hl]
  dsimp only
  rw [hdrain]
  rfl

/-- Settles O34: each event's course above; the packed threads are those of Block.lane_repack. -/
theorem groupEventsAct : Obligations.GroupEventsAct := by
  refine ⟨fun s blk grp b g hb hg hr => ⟨fun m h1 h2 => ?_, fun m hlive hheld hno hat => ?_, fun k n hk hn => ?_,
    fun core quad k hleast hk hfree => exec_activeSetSwap_enters hb hg hleast hk hfree,
    exec_activeIdleTimeout_notes hb hg, fun l hl hno => exec_barwaitResume_of_none hb hg hl hno,
    fun l k off d p hl hk hst hp hpeer => exec_barwaitResume_passes hb hg hl hr hk hst hp hpeer,
    exec_taskGroupStart_starts hb hg hr⟩, fun s blk b l hb hl hr hall hone hdrain => ?_⟩
  · exact exec_meetingRelease_of_releases hb hg hr (Group.releases_iff.2 ⟨h1, h2⟩)
  · exact exec_meetingDeadlock_traps hb hg hr hlive hheld hno hat
  · exact ⟨_, _, exec_sleepExpiry_wakes hb hg hr hk hn, State.group?_modGroup_of_block hb hg _,
      fun l hl => (g.lane_wake hl).1, fun l hl => (g.lane_wake hl).2⟩
  · have hsame := b.repackInsns_sameThreads l.lr.tasks (s.reqs.map fun r => r.repack b l.lr.tasks)
    refine ⟨_, _, exec_repacking_packs hb hl hr hall hone hdrain, State.block?_setBlock_same _ hb rfl,
      (Block.length_repack _ _ _).trans hsame.1, b.waiters_pairwise, fun j k i hj hi => ?_, fun k hk => ?_, rfl, rfl⟩
    · rw [← b.packInto_eq, ← hsame.packInto] at hj
      have hlane := Block.lane_repack _ s.cc hj hi
      rw [hsame.waiters] at hlane
      split
      · next h => rw [hlane, h]; rfl
      · next p h =>
        rw [h] at hlane
        rw [hlane]
        exact p.arrive_spec
    · rw [← b.packInto_eq] at hk
      rw [Block.repack_other _ _ (hsame.packInto l.lr.tasks ▸ hk), Block.repackInsns_other _ _ hk]

end Sys2Proof.Machine
end

section
/-!
SUPPORT. An issue cycle (R59 to R62, R79): nothing but a set that goes joins the issue list, the sets of a vote and their order,
and the lane sets of a mask; O36 is assembled from these.
-/

namespace Sys2Proof.Machine

/-! ### The issue list -/

@[simp] theorem State.post_cur (s : State) (f : Nat) (e : CEntry) : (s.post f e).cur = s.cur := by
  rcases s.post_cases f e with h | ⟨x, h⟩
  · rw [h, State.ringWrite_cur]
  · rw [h, State.setFn_cur]

/-- A fold of steps that leave the issue list alone. -/
theorem State.foldl_cur {α : Type} {f : State → α → State} (h : ∀ s x, (f s x).cur = s.cur) (xs : List α) (s : State) :
    (xs.foldl f s).cur = s.cur :=
  State.foldl_of_step (keeps := fun s t => t.cur = s.cur) (fun _ => rfl) (fun h h' => h'.trans h) h xs s

@[simp] theorem State.endKill_cur (s : State) (launch : Nat) : (s.endKill launch).cur = s.cur := by
  unfold State.endKill
  split
  · rfl
  · split
    · rfl
    · split
      · rfl
      · dsimp only
        split
        · rw [State.bindIcs_cur, State.modLaunch_cur, State.post_cur, State.modLaunch_cur, State.resetRegions_cur]
        · exact State.post_cur _ _ _

@[simp] theorem State.kill_cur (s : State) (launch blk grp code : Nat) (more : List W64) :
    (s.kill launch blk grp code more).cur = s.cur := by
  unfold State.kill
  split
  · rfl
  · dsimp only
    split
    · rfl
    · rw [State.endKill_cur]
      exact State.foldl_cur (fun t a => State.post_cur t _ _) _ _

@[simp] theorem State.trap_cur (s : State) (blk grp : Nat) (r : Raise) : (s.trap blk grp r).cur = s.cur := by
  unfold State.trap
  split
  · dsimp only
    split
    · split
      · exact State.kill_cur _ _ _ _ _ _
      · rfl
    · split
      · rfl
      · split
        · rfl
        · exact State.kill_cur _ _ _ _ _ _
  · rfl

@[simp] theorem State.abandon_cur (s : State) (i : Issue) : (s.abandon i).cur = s.cur :=
  State.foldl_cur (fun t h => by unfold State.withdrawHome; dsimp only; split <;> rfl) _ _

@[simp] theorem State.report_cur (s : State) (ctx core va : Nat) (kind : W64) (cmd : Option Nat) (tag : Nat) :
    (s.report ctx core va kind cmd tag).cur = s.cur := by
  unfold State.report
  split
  · rfl
  · exact State.post_cur _ _ _

@[simp] theorem State.parkFetch_cur (s : State) (b : Block) (l : Launch) (grp : Nat) (m : Mask) (off reason : Nat) :
    (s.parkFetch b l grp m off reason).cur = s.cur := by
  unfold State.parkFetch
  split
  · rfl
  · exact State.report_cur _ _ _ _ _ _ _

@[simp] theorem State.lateFetch_cur (s : State) (blk grp : Nat) (l : Launch) (m : Mask) (off : Nat) (c : Cause) :
    (s.lateFetch blk grp l m off c).cur = s.cur := by
  unfold State.lateFetch
  dsimp only
  split <;> rfl

@[simp] theorem State.askCode_cur (s : State) (b : Block) (l : Launch) (grp : Nat) (m : Mask) (off : Nat) :
    (s.askCode b l grp m off).cur = s.cur := by
  unfold State.askCode
  dsimp only
  split <;> rfl

@[simp] theorem State.clockGroups_cur (s : State) (core quad : Nat) : (s.clockGroups core quad).cur = s.cur :=
  State.foldl_cur (fun t p => by dsimp only; split <;> split <;> rfl) _ _

/-! ### A vote -/

/-- The instruction that a set issues, when its word decodes to one. -/
def Stand.op : Stand → Option Instr
  | .go _ i => i
  | _ => none

/-- What a chosen set adds to the issue list. -/
def Stand.issues (old : Option Group) : Stand → List Issue
  | .go i _ => [{ i with old := old }]
  | _ => []

theorem State.letGo_cur (s : State) (b : Block) (l : Launch) (grp : Nat) (x : LaneSet × Stand) (old : Option Group) :
    (s.letGo b l grp x old).cur = s.cur ++ x.2.issues old := by
  obtain ⟨y, stand⟩ := x
  cases stand with
  | go i op => rfl
  | wait c => exact (List.append_nil _).symm
  | trap c m => exact (State.trap_cur _ _ _ _).trans (List.append_nil _).symm
  | unhandled => exact (State.kill_cur _ _ _ _ _ _).trans (List.append_nil _).symm
  | stop f => cases f <;> simp [State.letGo, Stand.issues]

/-- The runnable sets of some lanes. -/
def State.runnable (s : State) (b : Block) (l : Launch) (grp : Nat) (m : Mask) : List (LaneSet × Stand) :=
  (s.stands b l grp m).filter fun x => x.2.runnable

/-- The sets that a vote chooses from, in the order of choice: those of the unflagged lanes, or, when none of these can run, all
(R59, R61, R62). -/
def State.choice (s : State) (b : Block) (l : Launch) (grp : Nat) : List (LaneSet × Stand) :=
  let g := b.group grp
  let free := s.runnable b l grp (maskOf fun n => inMask g.runLanes n && !(g.lane n).yielded)
  g.order (if free.isEmpty then s.runnable b l grp g.runLanes else free)

theorem inMask_unflagged (g : Group) : g.runLanes &&& ~~~(maskOf fun k => (g.lane k).yielded) =
    maskOf fun n => inMask g.runLanes n && !(g.lane n).yielded :=
  mask_ext fun l hl => by
    have h : inMask (g.runLanes &&& ~~~(maskOf fun k => (g.lane k).yielded)) l =
        (inMask g.runLanes l && !inMask (maskOf fun k => (g.lane k).yielded) l) := by
      simp [inMask, hl]
    rw [h, inMask_maskOf, inMask_maskOf, decide_eq_true hl, Bool.true_and, Bool.true_and]

/-- A vote that finds no runnable set changes nothing. -/
theorem State.vote_of_nil {s : State} {b : Block} {l : Launch} {grp : Nat} (h : s.choice b l grp = []) :
    s.vote b l grp = s := by
  unfold State.choice State.runnable at h
  dsimp only at h
  unfold State.vote
  dsimp only
  rw [inMask_unflagged, h]

/-- The set that a cycle's second instruction comes from: the next one, when both instructions may share the cycle (R60). -/
def Stand.second (first : LaneSet × Stand) : List (LaneSet × Stand) → Option (LaneSet × Stand)
  | y :: _ => if pairs first.2.op && pairs y.2.op then some y else none
  | [] => none

/-- The first set of the order goes, and then the second, if there is one. -/
theorem State.vote_of_cons {s : State} {b : Block} {l : Launch} {grp : Nat} {first : LaneSet × Stand}
    {more : List (LaneSet × Stand)} (h : s.choice b l grp = first :: more) : ∃ (t : State) (start : Group), t.cur = s.cur ∧
      s.vote b l grp = match Stand.second first more with
        | none => t.letGo b l grp first none
        | some y => (t.letGo b l grp first none).letGo b l grp y (some start) := by
  unfold State.choice State.runnable at h
  dsimp only at h
  unfold State.vote
  dsimp only
  rw [inMask_unflagged, h]
  exact ⟨_, _, State.modGroup_cur s b.id grp _, rfl⟩

/-! ### What a set that goes issues -/

theorem State.standAt_go {s : State} {i j : Issue} {op : Option Instr} (h : s.standAt i = .go j op) : j = i := by
  unfold State.standAt at h
  split at h
  · cases h
  · split at h
    · dsimp only at h
      split at h
      · cases h; rfl
      · split at h
        · cases h
        · split at h
          · split at h <;> cases h
          · split at h <;> cases h
            rfl
    · split at h <;> cases h
    · cases h
    · cases h
    · cases h
    · cases h; rfl

/-- An issue is of the group whose set goes. -/
theorem State.stand_go {s : State} {b : Block} {l : Launch} {grp : Nat} {x : LaneSet} {i : Issue} {op : Option Instr}
    (h : s.stand b l grp x = .go i op) : i.blk = b.id ∧ i.grp = grp := by
  have hbad (p : Bool) (c : Cause) (m : Mask) : (if p then Stand.unhandled else .trap c m) ≠ .go i op := by
    cases p <;> exact nofun
  unfold State.stand at h
  dsimp only at h
  split at h
  · exact absurd h (hbad _ _ _)
  · split at h
    · split at h
      · cases State.standAt_go h
        exact ⟨rfl, rfl⟩
      · split at h
        · exact absurd h (hbad _ _ _)
        · split at h
          · cases h
          · split at h
            · cases h
            · cases State.standAt_go h
              exact ⟨rfl, rfl⟩
    · split at h <;> cases h
    · split at h <;> cases h

/-! ### The order of choice (R59, R61) -/

/-- The highest skip count in a set. -/
def Group.skipOf (g : Group) (y : LaneSet) : Nat := ((lanesOf y.lanes).map fun l => (g.lane l).skip).foldl max 0

/-- The greatest of some numbers is one of them, if it is not 0, and none is greater. -/
theorem foldl_max_spec (ns : List Nat) (a : Nat) :
    a ≤ ns.foldl max a ∧ (∀ n ∈ ns, n ≤ ns.foldl max a) ∧ (ns.foldl max a = a ∨ ns.foldl max a ∈ ns) := by
  induction ns generalizing a with
  | nil => simp
  | cons n ns ih =>
    obtain ⟨hge, hall, hmem⟩ := ih (max a n)
    rw [List.foldl_cons]
    refine ⟨by omega, List.forall_mem_cons.2 ⟨by omega, hall⟩, ?_⟩
    rcases hmem with heq | hin
    · rcases Nat.le_total a n with h | h
      · exact .inr (by rw [heq, Nat.max_eq_right h]; exact .head _)
      · exact .inl (by rw [heq, Nat.max_eq_left h])
    · exact .inr (.tail _ hin)

/-- The highest skip count of some sets. -/
def Group.top (g : Group) (xs : List (LaneSet × Stand)) : Nat := (xs.map fun x => g.skipOf x.1).foldl max 0

theorem Group.order_eq (g : Group) (xs : List (LaneSet × Stand)) : g.order xs =
    if g.top xs < 32 then xs
    else match xs.find? fun x => g.skipOf x.1 == g.top xs with
      | none => xs
      | some x => x :: xs.filter fun y => decide (y.1 ≠ x.1) := rfl

/-- No set's skip count is above the top, which a set has if it is not 0. -/
theorem Group.skipOf_le_top (g : Group) (xs : List (LaneSet × Stand)) :
    (∀ y ∈ xs, g.skipOf y.1 ≤ g.top xs) ∧ (g.top xs = 0 ∨ ∃ y ∈ xs, g.skipOf y.1 = g.top xs) := by
  obtain ⟨_, hall, hmem⟩ := foldl_max_spec (xs.map fun x => g.skipOf x.1) 0
  exact ⟨fun y hy => hall _ (List.mem_map.2 ⟨y, hy, rfl⟩), hmem.imp_right fun h => List.mem_map.1 h⟩

theorem Group.order_of_below {g : Group} {xs : List (LaneSet × Stand)} (h : ∀ y ∈ xs, g.skipOf y.1 < 32) : g.order xs = xs := by
  rw [Group.order_eq, if_pos]
  rcases (g.skipOf_le_top xs).2 with h0 | ⟨y, hy, htop⟩
  · omega
  · exact htop ▸ h y hy

/-- With an overdue set, one of the highest skip count stands first, and the others behind it. -/
theorem Group.order_of_overdue {g : Group} {xs : List (LaneSet × Stand)} (h : ∃ y ∈ xs, 32 ≤ g.skipOf y.1) :
    ∃ x ∈ xs, (∀ y ∈ xs, g.skipOf y.1 ≤ g.skipOf x.1) ∧ g.order xs = x :: xs.filter fun y => decide (y.1 ≠ x.1) := by
  obtain ⟨y, hy, hskip⟩ := h
  obtain ⟨hall, hmem⟩ := g.skipOf_le_top xs
  have hle := Nat.le_trans hskip (hall y hy)
  obtain ⟨z, hz, htop⟩ := hmem.resolve_left (by omega)
  cases hfind : xs.find? fun x => g.skipOf x.1 == g.top xs with
  | none => exact absurd (List.find?_eq_none.1 hfind z hz) (by simpa using htop)
  | some x =>
    have hxtop : g.skipOf x.1 = g.top xs := by simpa using List.find?_some hfind
    exact ⟨x, List.mem_of_find?_eq_some hfind, fun y hy => hxtop.symm ▸ hall y hy,
      by rw [Group.order_eq, if_neg (Nat.not_lt.2 hle), hfind]⟩

theorem Group.mem_of_mem_order {g : Group} {xs : List (LaneSet × Stand)} {x : LaneSet × Stand} (h : x ∈ g.order xs) : x ∈ xs := by
  by_cases hover : ∃ y ∈ xs, 32 ≤ g.skipOf y.1
  · obtain ⟨z, hz, _, horder⟩ := Group.order_of_overdue hover
    rw [horder] at h
    rcases List.mem_cons.1 h with rfl | hx
    · exact hz
    · exact List.mem_of_mem_filter hx
  · rwa [Group.order_of_below fun y hy => Nat.lt_of_not_le fun hle => hover ⟨y, hy, hle⟩] at h

/-! ### Lane sets (R59) -/

theorem Lane.together_iff {x y : Lane} : x.together y = true ↔ x.pc = y.pc ∧ x.inTrap = y.inTrap := by simp [Lane.together]

/-- The lane set of a lane. -/
def Group.laneSet (g : Group) (m : Mask) (l : Nat) : LaneSet :=
  ⟨maskOf fun k => inMask m k && (g.lane k).together (g.lane l), (g.lane l).pc, (g.lane l).hdr, (g.lane l).inTrap⟩

/-- Whether no lower lane of a mask stands with a lane. -/
def Group.leads (g : Group) (m : Mask) (l : Nat) : Bool :=
  !((lanesOf m).any fun k => decide (k < l) && (g.lane k).together (g.lane l))

theorem Group.laneSets_eq (g : Group) (m : Mask) :
    g.laneSets m = sortBy (fun (x : LaneSet) => x.pc.toNat) (((lanesOf m).filter (g.leads m)).map (g.laneSet m)) := rfl

theorem Group.mem_laneSets {g : Group} {m : Mask} {y : LaneSet} :
    y ∈ g.laneSets m ↔ ∃ l, inMask m l = true ∧ g.leads m l = true ∧ g.laneSet m l = y := by
  rw [Group.laneSets_eq, mem_sortBy]
  simp [mem_lanesOf, and_assoc]

theorem Group.laneSets_pairwise (g : Group) (m : Mask) : (g.laneSets m).Pairwise fun y z => y.pc.toNat ≤ z.pc.toNat :=
  (sortBy_pairwise (R := fun _ _ => True) (List.pairwise_of_forall fun _ _ => trivial)).imp fun h =>
    h.elim Nat.le_of_lt fun h => Nat.le_of_eq h.1

theorem Group.inMask_laneSet {g : Group} {m : Mask} {l n : Nat} : inMask (g.laneSet m l).lanes n = true ↔
    inMask m n = true ∧ (g.lane n).pc = (g.lane l).pc ∧ (g.lane n).inTrap = (g.lane l).inTrap := by
  rw [Group.laneSet, inMask_maskOf, Bool.and_eq_true, Bool.and_eq_true, Lane.together_iff, decide_eq_true_iff]
  exact ⟨fun h => h.2, fun h => ⟨inMask_lt h.1, h⟩⟩

/-- Every lane of the mask stands with one that leads. -/
theorem Group.exists_leads (g : Group) (m : Mask) (n : Nat) (hn : inMask m n = true) :
    ∃ l, inMask m l = true ∧ g.leads m l = true ∧ inMask (g.laneSet m l).lanes n = true := by
  induction n using Nat.strongRecOn with
  | _ n ih =>
    by_cases hlead : g.leads m n = true
    · exact ⟨n, hn, hlead, Group.inMask_laneSet.2 ⟨hn, rfl, rfl⟩⟩
    · simp only [Group.leads, Bool.not_eq_true', Bool.not_eq_false, List.any_eq_true, mem_lanesOf, Bool.and_eq_true,
        decide_eq_true_eq, Lane.together_iff] at hlead
      obtain ⟨k, hk, hlt, hpc, htrap⟩ := hlead
      obtain ⟨l, hl, hll, hin⟩ := ih k hlt hk
      obtain ⟨_, hpc', htrap'⟩ := Group.inMask_laneSet.1 hin
      exact ⟨l, hl, hll, Group.inMask_laneSet.2 ⟨hn, hpc.symm.trans hpc', htrap.symm.trans htrap'⟩⟩

theorem State.stands_sets (s : State) (b : Block) (l : Launch) (k : Nat) (m : Mask) :
    (s.stands b l k m).map (·.1) = (b.group k).laneSets m := by
  simp [State.stands, Function.comp_def]

/-! ### One issue cycle -/

/-- A choice has sets of the group alone. -/
theorem State.issues_of_mem_choice {s : State} {b : Block} {l : Launch} {grp : Nat} {x : LaneSet × Stand} {old : Option Group}
    (hx : x ∈ s.choice b l grp) {i : Issue} (hi : i ∈ x.2.issues old) : i.blk = b.id ∧ i.grp = grp := by
  have hstands : ∃ m, x ∈ s.stands b l grp m := by
    have h := Group.mem_of_mem_order hx
    split at h
    · exact ⟨_, List.mem_of_mem_filter h⟩
    · exact ⟨_, List.mem_of_mem_filter h⟩
  obtain ⟨m, hm⟩ := hstands
  obtain ⟨y, _, rfl⟩ := List.mem_map.1 hm
  unfold Stand.issues at hi
  dsimp only at hi
  split at hi
  · next j op hgo =>
    cases List.mem_singleton.1 hi
    have hat := State.stand_go hgo
    exact hat
  · cases hi

theorem Stand.length_issues_le (x : Stand) (old : Option Group) : (x.issues old).length ≤ 1 := by
  cases x <;> simp [Stand.issues]

/-- What a vote adds to the issue list: what its first set issues, and then its second. -/
theorem State.vote_cur (s : State) (b : Block) (l : Launch) (grp : Nat) : ∃ start : Group, (s.vote b l grp).cur = s.cur ++
    match s.choice b l grp with
    | [] => []
    | first :: more => first.2.issues none ++ ((Stand.second first more).map fun y => y.2.issues (some start)).getD [] := by
  cases h : s.choice b l grp with
  | nil => exact ⟨b.group grp, by rw [State.vote_of_nil h]; exact (List.append_nil _).symm⟩
  | cons first more =>
    obtain ⟨t, start, hcur, hvote⟩ := State.vote_of_cons h
    refine ⟨start, ?_⟩
    rw [hvote]
    dsimp only
    cases Stand.second first more with
    | none => simp [State.letGo_cur, hcur]
    | some y => simp [State.letGo_cur, hcur]

theorem Stand.second_mem {first y : LaneSet × Stand} {more : List (LaneSet × Stand)} (h : Stand.second first more = some y) :
    y ∈ more := by
  unfold Stand.second at h
  split at h
  · split at h
    · cases h
      exact .head _
    · cases h
  · cases h

/-- With an empty issue list, a vote leaves at most two sets of its group. -/
theorem State.vote_chooses {s : State} {b : Block} {l : Launch} {grp : Nat} (hcur : s.cur = []) :
    (s.vote b l grp).cur.length ≤ 2 ∧ ∀ i ∈ (s.vote b l grp).cur, i.blk = b.id ∧ i.grp = grp := by
  obtain ⟨start, h⟩ := s.vote_cur b l grp
  rw [h, hcur, List.nil_append]
  split
  · exact ⟨Nat.zero_le _, fun i hi => absurd hi List.not_mem_nil⟩
  · next first more hchoice =>
    have hfirst : first ∈ s.choice b l grp := hchoice ▸ .head _
    cases hsec : Stand.second first more with
    | none =>
      have hlen := Stand.length_issues_le first.2 none
      refine ⟨by simp; omega, fun i hi => State.issues_of_mem_choice hfirst (by simpa using hi)⟩
    | some y =>
      have hlen := Stand.length_issues_le first.2 none
      have hlen' := Stand.length_issues_le y.2 (some start)
      have hy : y ∈ s.choice b l grp := hchoice ▸ List.mem_cons_of_mem _ (Stand.second_mem hsec)
      refine ⟨by simp; omega, fun i hi => ?_⟩
      rcases List.mem_append.1 hi with hi | hi
      · exact State.issues_of_mem_choice hfirst hi
      · exact State.issues_of_mem_choice hy hi

/-- The state in which a served group votes: the slot of its quadrant has come to it (R79). -/
def State.slotted (s : State) (core quad k : Nat) : State :=
  let c := s.cores[core]?.getD CoreSt.zero
  { s with cores := s.cores.setIfInBounds core { c with slot := c.slot.setIfInBounds quad k } }

@[simp] theorem State.tickQuad_cur (s : State) (core quad : Nat) : (s.tickQuad core quad).cur = s.cur := rfl

section Cycle

variable {s : State} {core quad : Nat}

theorem State.issueCycle_of_none (h : (s.clockGroups core quad).served? core quad = none) :
    s.issueCycle core quad = (s.clockGroups core quad).tickQuad core quad := by
  unfold State.issueCycle
  dsimp only
  rw [h]

theorem State.issueCycle_of_served {b : Block} {grp : Nat}
    (h : (s.clockGroups core quad).served? core quad = some (b, grp)) :
    let v := (s.clockGroups core quad).slotted core quad ((b.group grp).active.getD 0)
    s.issueCycle core quad = State.tickQuad (match v.launch? b.launch with
      | none => v
      | some l => if (b.group grp).hasAfter then { v with agenda := .trapEntry b.id grp :: v.agenda } else v.vote b l grp)
      core quad := by
  unfold State.issueCycle
  dsimp only
  rw [h]
  rfl

/-- A cycle leaves the list that the vote of the served group leaves, or none. -/
theorem State.issueCycle_cur (hcur : s.cur = []) : (s.issueCycle core quad).cur = [] ∨
    ∃ b grp l, (s.clockGroups core quad).served? core quad = some (b, grp) ∧ (s.issueCycle core quad).cur =
      (((s.clockGroups core quad).slotted core quad ((b.group grp).active.getD 0)).vote b l grp).cur := by
  have hclock : (s.clockGroups core quad).cur = [] := (State.clockGroups_cur _ _ _).trans hcur
  cases h : (s.clockGroups core quad).served? core quad with
  | none =>
    rw [State.issueCycle_of_none h]
    exact .inl hclock
  | some p =>
    obtain ⟨b, grp⟩ := p
    rw [State.issueCycle_of_served h]
    split
    · exact .inl hclock
    · next l _ =>
      split
      · exact .inl hclock
      · exact .inr ⟨b, grp, l, rfl, rfl⟩

theorem State.issueCycle_chooses (hcur : s.cur = []) : (s.issueCycle core quad).cur.length ≤ 2
    ∧ ∀ i ∈ (s.issueCycle core quad).cur, ∃ b g, (s.clockGroups core quad).served? core quad = some (b, g)
      ∧ i.blk = b.id ∧ i.grp = g := by
  rcases State.issueCycle_cur (core := core) (quad := quad) hcur with h | ⟨b, grp, l, hserved, h⟩
  · rw [h]
    exact ⟨Nat.zero_le _, fun i hi => absurd hi List.not_mem_nil⟩
  · have hclock : (s.clockGroups core quad).cur = [] := (State.clockGroups_cur _ _ _).trans hcur
    obtain ⟨hlen, hall⟩ := State.vote_chooses (b := b) (l := l) (grp := grp)
      (s := (s.clockGroups core quad).slotted core quad ((b.group grp).active.getD 0)) hclock
    rw [h]
    exact ⟨hlen, fun i hi => ⟨b, grp, hserved, hall i hi⟩⟩

/-- The cycle of a served group with no cause to take is its vote. -/
theorem State.issueCycle_votes {b : Block} {grp : Nat} {l : Launch}
    (h : (s.clockGroups core quad).served? core quad = some (b, grp))
    (hl : (s.clockGroups core quad).launch? b.launch = some l) (ha : (b.group grp).hasAfter = false) :
    s.issueCycle core quad =
      (((s.clockGroups core quad).slotted core quad ((b.group grp).active.getD 0)).vote b l grp).tickQuad core quad := by
  have hl' : ((s.clockGroups core quad).slotted core quad ((b.group grp).active.getD 0)).launch? b.launch = some l := hl
  have hcycle := State.issueCycle_of_served h
  dsimp only at hcycle
  rwa [hl', ha] at hcycle

end Cycle

/-! ### The next cc -/

theorem State.meter_keeps (s : State) : s.meter.cur = s.cur ∧ s.meter.mem = s.mem ∧ s.meter.reqs = s.reqs := by
  unfold State.meter
  refine State.foldl_of_step (keeps := fun s t => t.cur = s.cur ∧ t.mem = s.mem ∧ t.reqs = s.reqs) (fun _ => ⟨rfl, rfl, rfl⟩)
    (fun ⟨hc, hm, hr⟩ ⟨hc', hm', hr'⟩ => ⟨hc'.trans hc, hm'.trans hm, hr'.trans hr⟩) (fun _ _ => ?_) _ _
  exact ⟨rfl, rfl, rfl⟩

theorem State.sense_keeps (s : State) : s.sense.cur = s.cur ∧ s.sense.mem = s.mem ∧ s.sense.reqs = s.reqs := by
  unfold State.sense
  split
  · exact ⟨rfl, rfl, rfl⟩
  · split <;> exact ⟨rfl, rfl, rfl⟩

theorem State.nextCc_keeps (s : State) : s.nextCc.cur = s.cur ∧ s.nextCc.mem = s.mem ∧ s.nextCc.reqs = s.reqs := by
  obtain ⟨hc, hm, hr⟩ := s.sense_keeps
  obtain ⟨hc', hm', hr'⟩ := s.sense.meter_keeps
  exact ⟨hc'.trans hc, hm'.trans hm, hr'.trans hr⟩

theorem exec_issueCycle_serves {s : State} {core quad : Nat} (hcur : s.cur = []) (hcore : core < 144) (hquad : quad < 4)
    (hs : (core, quad) ∉ s.served) (hall : s.allServed s.served = false) :
    exec (.issueCycle core quad) s = .next (s.issueCycle core quad) := by
  rw [exec_issueCycle, execIssueCycle, hcur, hall, decide_eq_true (And.intro hcore hquad)]
  simp [hs]

theorem exec_laneOverdue_serves {s : State} {core quad : Nat} (hcur : s.cur = []) (hcore : core < 144) (hquad : quad < 4)
    (hs : (core, quad) ∉ s.served) (ho : s.overdue core quad = true) :
    exec (.laneOverdue core quad) s = .next (s.issueCycle core quad) := by
  rw [exec_laneOverdue, execLaneOverdue, hcur, ho, decide_eq_true (And.intro hcore hquad)]
  simp [hs]

theorem exec_issueCycle_allServed {s : State} {core quad : Nat} (hcur : s.cur = []) (hall : s.allServed s.served = true) :
    exec (.issueCycle core quad) s = .next (if s.due then s else s.nextCc) := by
  rw [exec_issueCycle, execIssueCycle, hcur, hall]
  rfl

/-- Settles O36: a cycle is the vote of the served group; its list is what the first set of the order and its partner issue. -/
theorem issueCyclesChooseLaneSets : Obligations.IssueCyclesChooseLaneSets := by
  refine ⟨fun s core quad hcur hcore hquad hs hall => ?cycle, fun s core quad hcur hall => ?nextCc, fun g xs x rest => ?order⟩
  case cycle =>
    obtain ⟨hlen, hmem⟩ := State.issueCycle_chooses (core := core) (quad := quad) hcur
    refine ⟨s.issueCycle core quad, exec_issueCycle_serves hcur hcore hquad hs hall, hlen, hmem,
      fun b k l x rest i op hserved hl ha hchoice hgo => ?_, exec_laneOverdue_serves hcur hcore hquad hs⟩
    obtain ⟨start, hvote⟩ := State.vote_cur
      ((s.clockGroups core quad).slotted core quad ((b.group k).active.getD 0)) b l k
    have hclock : (s.clockGroups core quad).cur = [] := (State.clockGroups_cur _ _ _).trans hcur
    have hchoice' : ((s.clockGroups core quad).slotted core quad ((b.group k).active.getD 0)).choice b l k = x :: rest := hchoice
    have hslotted : ((s.clockGroups core quad).slotted core quad ((b.group k).active.getD 0)).cur = [] := hclock
    have hlist : (s.issueCycle core quad).cur =
        { i with old := none } :: ((Stand.second x rest).map fun y => y.2.issues (some start)).getD [] := by
      rw [State.issueCycle_votes hserved hl ha, State.tickQuad_cur, hvote, hslotted, hchoice']
      dsimp only
      rw [hgo]
      rfl
    have hop : x.2.op = op := by rw [hgo]; rfl
    cases rest with
    | nil => exact ⟨fun y j oq hy => (by cases hy), fun _ => hlist⟩
    | cons y ys =>
      refine ⟨fun z j oq hz hj hp hq => ?_, fun hno => ?_⟩
      · obtain rfl : y = z := Option.some.inj hz
        have hsec : Stand.second x (y :: ys) = some y := by
          refine if_pos ?_
          rw [hop, hp, hj]
          exact hq
        rw [hsec] at hlist
        refine ⟨some start, hlist.trans ?_⟩
        rw [Option.map_some, Option.getD_some, hj]
        rfl
      · have hsec : Stand.second x (y :: ys) = none := by
          refine if_neg ?_
          rw [hop]
          cases hy : y.2 with
          | go j oq => rw [show (Stand.go j oq).op = oq from rfl, hno y j oq rfl hy]; decide
          | wait _ | trap _ _ | unhandled | stop _ => simp [Stand.op, pairs]
        rw [hsec] at hlist
        exact hlist
  case nextCc =>
    obtain ⟨hc, hm, hr⟩ := s.nextCc_keeps
    exact ⟨fun hd => (exec_issueCycle_allServed hcur hall).trans (congrArg _ (if_pos hd)), fun hd =>
      ⟨_, (exec_issueCycle_allServed hcur hall).trans (congrArg _ (if_neg (by simp [hd]))), rfl, rfl, rfl, hc.trans hcur, hm, hr⟩⟩
  case order =>
    refine ⟨fun m => ⟨g.laneSets_pairwise m, fun n _ hn => ?_, fun y hy n hn => ?_, fun s b l k hg => ?_⟩, Group.order_of_below,
      fun horder hover => ?_⟩
    · obtain ⟨l, hl, hlead, hin⟩ := g.exists_leads m n hn
      exact ⟨_, Group.mem_laneSets.2 ⟨l, hl, hlead, rfl⟩, hin⟩
    · obtain ⟨l, _, _, rfl⟩ := Group.mem_laneSets.1 hy
      exact Group.inMask_laneSet.1 hn
    · exact hg ▸ s.stands_sets b l k m
    · obtain ⟨z, hz, hle, hz'⟩ := Group.order_of_overdue hover
      obtain rfl : x = z := (List.cons.inj (horder.symm.trans hz')).1
      exact ⟨hz, hle⟩

end Sys2Proof.Machine
end

section
/-!
SUPPORT. Blocks from admission to completion (R80 to R84, R315, R319 to R323): the queues, the blocks of a unit, saving and its
image, the end of a block and of a launch, and restoration; O42 is assembled from these.
-/

namespace Sys2Proof.Machine

/-! ### What leaves the blocks alone -/

/-- A fold of steps that leave the blocks alone. -/
theorem State.foldl_blocks {α : Type} {f : State → α → State} (h : ∀ s x, (f s x).blocks = s.blocks) (xs : List α) (s : State) :
    (xs.foldl f s).blocks = s.blocks :=
  State.foldl_of_step (keeps := fun s t => t.blocks = s.blocks) (fun _ => rfl) (fun h h' => h'.trans h) h xs s

/-- A block that is found is one of the blocks. -/
theorem State.mem_of_block? {s : State} {k : Nat} {b : Block} (h : s.block? k = some b) : b ∈ s.blocks := List.mem_of_find?_eq_some h

theorem State.block?_congr {s t : State} (h : t.blocks = s.blocks) (k : Nat) : t.block? k = s.block? k := by
  rw [State.block?, State.block?, h]

@[simp] theorem State.dequeue_blocks (s : State) (x : QItem) : (s.dequeue x).blocks = s.blocks := rfl
@[simp] theorem State.dequeue_launches (s : State) (x : QItem) : (s.dequeue x).fw.launches = s.fw.launches := rfl
@[simp] theorem State.servedItem_blocks (s : State) (x : QItem) : (s.servedItem x).blocks = s.blocks := rfl
@[simp] theorem State.servedItem_launches (s : State) (x : QItem) : (s.servedItem x).fw.launches = s.fw.launches := rfl
@[simp] theorem State.storeImage_blocks (s : State) (b : Block) (l : Launch) (waits : Nat → Mask) :
    (s.storeImage b l waits).blocks = s.blocks := by rw [State.storeImage]

@[simp] theorem State.dropPre_blocks (s : State) (id : Nat) : (s.dropPre id).blocks = s.blocks := rfl

@[simp] theorem State.post_launches (s : State) (f : Nat) (e : CEntry) : (s.post f e).fw.launches = s.fw.launches := by
  rcases s.post_cases f e with h | ⟨x, h⟩
  · rw [h]
    rfl
  · rw [h]
    rfl

@[simp] theorem State.endKill_blocks (s : State) (launch : Nat) : (s.endKill launch).blocks = s.blocks := by
  unfold State.endKill
  split
  · rfl
  · split
    · rfl
    · split
      · rfl
      · dsimp only
        split
        · rw [State.bindIcs_blocks, State.modLaunch_blocks, State.post_blocks, State.modLaunch_blocks, State.resetRegions_blocks]
        · exact State.post_blocks _ _ _

@[simp] theorem State.closeRegion_blocks (s : State) (g : Region) : (s.closeRegion g).blocks = s.blocks := by
  unfold State.closeRegion
  split
  · rfl
  · refine State.foldl_blocks (fun t line => ?_) _ _
    split
    · refine State.foldl_blocks (fun t i => ?_) _ _
      split
      · rfl
      · exact State.writeHome_blocks _ _ _ _
    · rfl

/-! ### The queues (R80, R82) -/

theorem exec_queueAging_ages {s : State} {q n : Nat} {x : QItem} (h : s.noteHeads.fw.heads[q]? = some (some (x, n)))
    (hn : n + micros 400 ≤ s.time) :
    ∃ t, exec (.queueAging q) s = .next t ∧ x ∈ t.fw.aged ∧ t.blocks = s.blocks ∧ t.mem = s.mem := by
  rw [exec_queueAging, execQueueAging, h]
  dsimp only [Option.join]
  by_cases hx : s.noteHeads.fw.aged.contains x = true
  · exact ⟨s.noteHeads, if_neg (by rw [hx]; simp), by simpa using hx, rfl, rfl⟩
  · exact ⟨_, if_pos (by simpa [hn] using hx), by simp, rfl, rfl⟩

/-! ### Admission (R80, R81) -/

/-- A block as a unit brings it in: of the launch, on its core, at its place. -/
def Launch.Brings (l : Launch) (b : Block) (p : (Nat × Nat × Nat × Nat) × Nat × Nat) : Prop :=
  b.launch = l.id ∧ b.core = p.2.1 ∧ (b.x, b.y, b.z, b.stage) = p.1

/-- The blocks of a unit come behind those there are, and of the launches only what the savers have asked changes. -/
theorem State.bringIn_spec (s : State) (l : Launch) (ps : List (Nat × Nat × Nat × Nat)) (cs is : List Nat) :
    ∃ bs, (s.bringIn l ps cs is).blocks = s.blocks ++ bs ∧ List.Forall₂ l.Brings bs (ps.zip (cs.zip is))
      ∧ ∀ m ∈ (s.bringIn l ps cs is).fw.launches, ∃ m0 ∈ s.fw.launches, m.id = m0.id ∧ m.next = m0.next := by
  unfold State.bringIn
  dsimp only
  generalize ps.zip (cs.zip is) = zs
  induction zs generalizing s with
  | nil => exact ⟨[], (List.append_nil _).symm, .nil, fun m hm => ⟨m, hm, rfl, rfl⟩⟩
  | cons z zs ih =>
    rw [List.foldl_cons]
    obtain ⟨bs, hbs, hall, hlaunch⟩ := ih _
    refine ⟨_ :: bs, hbs.trans (List.append_assoc _ [_] bs), .cons ⟨rfl, rfl, rfl⟩ hall, fun m hm => ?_⟩
    obtain ⟨m1, hm1, hid, hnext⟩ := hlaunch m hm
    obtain ⟨m0, hm0, rfl⟩ := List.mem_map.1 hm1
    refine ⟨m0, hm0, hid.trans ?_, hnext.trans ?_⟩
    · split <;> rfl
    · split <;> rfl

/-- The head launch's next unit comes in where there is room for it, and the launch goes on to its next one. -/
theorem exec_blockAdmission_bringsIn {s : State} {l : Launch} {x : QItem} {cs is : List Nat}
    (hhead : s.noteHeads.headLaunch = some (l, x)) (hadm : s.admitting = true)
    (hroom : s.noteHeads.room l (l.lr.unit l.next).length
      (((l.lr.unit l.next).map fun p => l.lr.estimate p.2.2.2).foldl (· + ·) 0) [] = some (cs, is)) :
    ∃ t, exec .blockAdmission s = .next t ∧ t.blocks = (s.noteHeads.bringIn l (l.lr.unit l.next) cs is).blocks
      ∧ ∀ m ∈ t.fw.launches, m.id = l.id →
        ∃ m0 ∈ (s.noteHeads.bringIn l (l.lr.unit l.next) cs is).fw.launches, m0.id = l.id ∧ m.next = m0.next + 1 := by
  have hadm' : s.noteHeads.admitting = true := hadm
  rw [exec_blockAdmission, execBlockAdmission]
  dsimp only
  rw [hhead]
  dsimp only
  rw [hroom, hadm']
  have hlaunch : ∀ m ∈ ((s.noteHeads.bringIn l (l.lr.unit l.next) cs is).modLaunch l.id fun k =>
      { k with next := k.next + 1, queued := decide (k.next + 1 < k.lr.units) }).fw.launches, m.id = l.id →
      ∃ m0 ∈ (s.noteHeads.bringIn l (l.lr.unit l.next) cs is).fw.launches, m0.id = l.id ∧ m.next = m0.next + 1 := by
    intro m hm hid
    obtain ⟨m0, hm0, rfl⟩ := List.mem_map.1 hm
    split at hid
    · next h => exact ⟨m0, hm0, h, by rw [if_pos h]⟩
    · next h => exact absurd hid h
  simp only [Bool.not_true, Bool.false_eq_true, if_false]
  split
  · refine ⟨_, rfl, State.servedItem_blocks _ _, ?_⟩
    rw [State.servedItem_launches]
    exact hlaunch
  · refine ⟨_, rfl, State.dequeue_blocks _ _, ?_⟩
    rw [State.dequeue_launches]
    exact hlaunch

theorem exec_blockAdmission_admits {s : State} {l : Launch} {x : QItem} {cs is : List Nat}
    (hhead : s.noteHeads.headLaunch = some (l, x)) (hadm : s.admitting = true)
    (hroom : s.noteHeads.room l (l.lr.unit l.next).length
      (((l.lr.unit l.next).map fun p => l.lr.estimate p.2.2.2).foldl (· + ·) 0) [] = some (cs, is))
    (honly : ∀ m ∈ s.fw.launches, m.id = l.id → m = l) (hcs : cs.length = (l.lr.unit l.next).length)
    (his : is.length = (l.lr.unit l.next).length) :
    ∃ t, exec .blockAdmission s = .next t ∧ t.blocks.length = s.blocks.length + (l.lr.unit l.next).length
      ∧ (∀ b ∈ s.blocks, b ∈ t.blocks) ∧ (∀ m ∈ t.fw.launches, m.id = l.id → m.next = l.next + 1)
      ∧ ∀ k, k < (l.lr.unit l.next).length → ∃ b ∈ t.blocks, b.launch = l.id ∧ b.core = cs.getD k 0
        ∧ (b.x, b.y, b.z, b.stage) = (l.lr.unit l.next).getD k (0, 0, 0, 0) := by
  obtain ⟨t, hexec, hblocks, hnext⟩ := exec_blockAdmission_bringsIn hhead hadm hroom
  obtain ⟨bs, hbs, hall, hlaunch⟩ := s.noteHeads.bringIn_spec l (l.lr.unit l.next) cs is
  have hzip : ((l.lr.unit l.next).zip (cs.zip is)).length = (l.lr.unit l.next).length := by simp [hcs, his]
  have hlen : bs.length = (l.lr.unit l.next).length := hall.length_eq.trans hzip
  have htb : t.blocks = s.blocks ++ bs := hblocks.trans hbs
  refine ⟨t, hexec, by rw [htb, List.length_append, hlen], fun b hb => htb ▸ List.mem_append_left _ hb, fun m hm hid => ?_,
    fun k hk => ?_⟩
  · obtain ⟨m1, hm1, hid1, hm1next⟩ := hnext m hm hid
    obtain ⟨m0, hm0, hid0, hm0next⟩ := hlaunch m1 hm1
    rw [hm1next, hm0next, honly m0 hm0 (hid0.symm.trans hid1)]
  · obtain ⟨hl, hcore, hplace⟩ := hall.get (hlen ▸ hk) (hzip ▸ hk)
    simp only [List.get_eq_getElem, List.getElem_zip] at hl hcore hplace
    refine ⟨bs[k]'(hlen ▸ hk), htb ▸ List.mem_append_right _ (List.getElem_mem _), hl, ?_, ?_⟩
    · rw [hcore, List.getD_eq_getElem _ _ (hcs ▸ hk)]
    · rw [hplace, List.getD_eq_getElem _ _ hk]

/-! ### Requests to save (R82, R83) -/

theorem exec_idleSave_begins {s : State} {b : Block} (hb : s.block? b.id = some b)
    (h : ∀ m ∈ s.members b, s.idleLong m = true) : exec (.idleSave b.id) s = .next (s.beginSave b true) := by
  rw [exec_idleSave, execIdleSave, hb]
  exact if_pos (List.all_eq_true.2 h)

/-- Victims of one core whose saves are chosen make room. -/
theorem State.roomWithout_of_savesOn {s : State} {l : Launch} {n core prio : Nat} {vs : List Block}
    (h : s.savesOn l n core prio = some vs) : s.roomWithout l n (vs.map (·.id)) = true := by
  unfold State.savesOn at h
  obtain ⟨k, hk, rfl⟩ := Option.map_eq_some_iff.1 h
  have hroom := List.find?_some hk
  exact (Bool.and_eq_true_iff.1 hroom).2

theorem exec_preemptionForRoom_saves {s : State} {prio n est : Nat} {x : QItem} {l : Launch} {vs : List Block}
    (hitem : s.noteHeads.nextItem = some (prio, x)) (hneeds : s.noteHeads.headNeeds = some (l, n, est))
    (hadm : s.admitting = true) (hno : s.noteHeads.roomWithout l n [] = false)
    (hnone : ∀ b ∈ s.blocks, b.running = true ∨ b.onCore = false)
    (hleast : leastBy (fun (vs : List Block) => vs.length)
      ((List.range 144).map fun c => (s.noteHeads.savesOn l n c prio).toList).flatten = some vs) :
    exec .preemptionForRoom s = .next (vs.foldl (fun (t : State) b => t.beginSave b false) s.noteHeads)
      ∧ s.noteHeads.roomWithout l n (vs.map (·.id)) = true := by
  have hadm' : s.noteHeads.admitting = true := hadm
  have hquiet : (s.noteHeads.blocks.any fun b => !b.running && b.onCore) = false :=
    List.any_eq_false.2 fun b hb => by rcases hnone b hb with h | h <;> simp [h]
  constructor
  · rw [exec_preemptionForRoom, execPreemptionForRoom]
    dsimp only
    rw [hitem, hneeds]
    dsimp only
    rw [hadm', hno, hquiet, hleast]
    rfl
  · obtain ⟨w, hw, hvs⟩ := List.mem_flatten.1 (leastBy_spec hleast).1
    obtain ⟨c, _, rfl⟩ := List.mem_map.1 hw
    exact State.roomWithout_of_savesOn (Option.mem_toList.1 hvs)

/-! ### The end of a block, and of a launch (R77, R238, R323) -/

theorem State.completeBlock_blocks (s : State) (b : Block) :
    (s.completeBlock b).blocks = s.blocks.filter fun x => x.id != b.id :=
  State.foldl_blocks (fun t _ => State.post_blocks t _ _) _ _

theorem State.block?_completeBlock (s : State) (b : Block) (k : Nat) :
    (s.completeBlock b).block? k = if k = b.id then none else s.block? k := by
  rw [State.block?, State.completeBlock_blocks, List.find?_filter]
  split
  · next h => exact List.find?_eq_none.2 fun x _ => by simp [h]
  · next h =>
    refine congrArg (fun p => s.blocks.find? p) (funext fun x => ?_)
    by_cases hx : x.id = k
    · simp [hx, h]
    · simp [hx]

theorem exec_blockCompletion_completes {s : State} {b : Block} (hb : s.block? b.id = some b) (hr : b.st = .resident)
    (hc : s.complete b = true) : exec (.blockCompletion b.id) s = .next (s.completeBlock b) := by
  rw [exec_blockCompletion, execBlockCompletion, hb]
  dsimp only
  rw [Block.running_of_resident hr, hc]
  rfl

theorem exec_launchCompletion_completes {s : State} {l : Launch} (hl : s.launch? l.id = some l)
    (hdone : l.killed.isSome = true ∨ l.left = 0) (hblocks : ∀ b ∈ s.blocks, b.launch ≠ l.id)
    (hcmds : ∀ k ∈ s.cmds, k.launch ≠ l.id) (hhome : ∀ h ∈ s.home, h.launch ≠ l.id) (hoffers : s.offersTo l = false) :
    ∃ t, exec (.launchCompletion l.id) s = .next t ∧ t.launch? l.id = none ∧ t.blocks = s.blocks := by
  have hb : (s.blocks.any fun b => b.launch == l.id) = false := List.any_eq_false.2 fun b h => by simpa using hblocks b h
  have hk : (s.cmds.any fun k => k.launch == l.id) = false := List.any_eq_false.2 fun k h => by simpa using hcmds k h
  have hh : (s.home.any fun h => h.launch == l.id) = false := List.any_eq_false.2 fun k h => by simpa using hhome k h
  rw [exec_launchCompletion, execLaunchCompletion, hl]
  dsimp only
  rw [hb, hk, hh, hoffers, decide_eq_true hdone]
  refine ⟨_, rfl, ?_, ?_⟩
  · rw [State.launch?, State.post_launches]
    exact List.find?_eq_none.2 fun m hm => by simpa using (List.mem_filter.1 hm).2
  · rw [State.post_blocks]
    refine (State.foldl_blocks (fun t _ => State.post_blocks t _ _) _ _).trans ?_
    exact State.foldl_blocks (fun t g => State.closeRegion_blocks t g) _ _

/-- A launch with a block that has not completed is stopped with all of its blocks. -/
theorem State.kill_stops {s : State} {b : Block} {l : Launch} (hb : b ∈ s.blocks) (hl : s.launch? b.launch = some l)
    (hc : s.complete b = false) (blk grp code : Nat) (more : List W64) :
    ∀ x ∈ (s.kill b.launch blk grp code more).blocks, x.launch ≠ b.launch := by
  have hnot : (s.blocks.filter fun x => x.launch == b.launch).all s.complete = false :=
    List.all_eq_false.2 ⟨b, List.mem_filter.2 ⟨hb, beq_self_eq_true _⟩, by simp [hc]⟩
  unfold State.kill
  rw [hl]
  dsimp only
  rw [if_neg (by rw [hnot]; simp), State.endKill_blocks]
  intro x hx
  have hstop : x ∈ (List.foldl _ ((s.releaseCredit b.launch l.ctx).stopBlocks b.launch) _).blocks := hx
  rw [State.foldl_blocks (fun t _ => State.post_blocks t _ _)] at hstop
  simpa using (List.mem_filter.1 hstop).2

theorem exec_launchKill_kills {s : State} {b : Block} {grp code : Nat} (hb : s.block? b.id = some b)
    (hcode : code ∈ [0x303, 0x304, 0x306, 0x3F2, 0x3F3]) :
    exec (.launchKill b.id grp code) s = .next (s.kill b.launch b.id grp code) := by
  rw [exec_launchKill, execLaunchKill, hb]
  simp only [List.mem_cons, List.not_mem_nil, or_false] at hcode
  dsimp only
  rw [if_neg (by omega), if_pos]
  unfold codeDoubleFault codeUnhandled
  omega

/-- A report of SAVE_FAULT names the poisoned sector of the image, if there is one (R322). -/
theorem exec_launchKill_saveFault {s : State} {b : Block} {grp : Nat} {l : Launch} (hb : s.block? b.id = some b)
    (hl : s.launch? b.launch = some l) : ∃ pa, exec (.launchKill b.id grp 0x305) s =
        .next (({ s with free := s.free + 1 } : State).kill b.launch b.id grp 0x305 [BitVec.ofNat 64 pa])
      ∧ ∀ q, s.mem.poisonAt b.imageAt l.lr.imageBytes = some q → pa = q := by
  refine ⟨(s.mem.poisonAt b.imageAt l.lr.imageBytes).getD (b.imageAt + Config.pick s.free % max 1 l.lr.imageBytes), ?_,
    fun q hq => ?_⟩
  · rw [exec_launchKill, execLaunchKill, hb]
    dsimp only
    rw [if_pos rfl, State.killImage, hl]
  · rw [hq, Option.getD_some]

/-! ### Saving (R84, R319) -/

/-- What the preparations of a save leave of a block: its stores and its groups' number. -/
structure Block.SameStores (b b' : Block) : Prop where
  id : b'.id = b.id
  scratch : b'.scratch = b.scratch
  w : b'.w = b.w
  a : b'.a = b.a
  c : b'.c = b.c
  groups : b'.groups.length = b.groups.length

theorem Block.SameStores.refl (b : Block) : b.SameStores b := ⟨rfl, rfl, rfl, rfl, rfl, rfl⟩

theorem Block.SameStores.trans {b c d : Block} (h : b.SameStores c) (k : c.SameStores d) : b.SameStores d :=
  ⟨k.id.trans h.id, k.scratch.trans h.scratch, k.w.trans h.w, k.a.trans h.a, k.c.trans h.c, k.groups.trans h.groups⟩

/-- Every block that is found in s is found in t, with its stores. -/
def State.KeepsStores (s t : State) : Prop := ∀ (k : Nat) (b : Block), s.block? k = some b → ∃ b', t.block? k = some b' ∧ b.SameStores b'

namespace State.KeepsStores

variable {s t u : State}

theorem refl (s : State) : s.KeepsStores s := fun _ b hb => ⟨b, hb, .refl b⟩

theorem trans (h : s.KeepsStores t) (k : t.KeepsStores u) : s.KeepsStores u := fun n b hb => by
  obtain ⟨b', hb', hsame⟩ := h n b hb
  obtain ⟨b'', hb'', hsame'⟩ := k n b' hb'
  exact ⟨b'', hb'', hsame.trans hsame'⟩

theorem of_blocks (h : t.blocks = s.blocks) : s.KeepsStores t := fun k b hb => ⟨b, (State.block?_congr h k).trans hb, .refl b⟩

theorem modBlock (s : State) (n : Nat) {f : Block → Block} (hf : ∀ b : Block, b.SameStores (f b)) : s.KeepsStores (s.modBlock n f) :=
  fun k b hb => by
    refine ⟨_, (State.block?_modBlock s n k f fun b => (hf b).id).trans (congrArg _ hb), ?_⟩
    dsimp only
    split
    · exact hf b
    · exact .refl b

theorem modGroup (s : State) (n i : Nat) (f : Group → Group) : s.KeepsStores (s.modGroup n i f) :=
  modBlock s n fun _ => ⟨rfl, rfl, rfl, rfl, rfl, List.length_modify _ _ _⟩

end State.KeepsStores

theorem State.keepsStores_homeEffect (s : State) (h : HomeReq) : s.KeepsStores (s.homeEffect h) := by
  unfold State.homeEffect
  dsimp only
  split
  · exact .of_blocks rfl
  · exact .of_blocks rfl
  · exact .of_blocks rfl
  · split
    · exact .of_blocks rfl
    · refine State.KeepsStores.trans (t := State.modBlock _ h.blk _) ?_ (.modGroup _ _ _ _)
      exact State.KeepsStores.modBlock { s with home := s.home.filter fun x => x.id != h.id } h.blk fun _ => ⟨rfl, rfl, rfl, rfl, rfl, rfl⟩

theorem State.keepsStores_withdrawHome (s : State) (h : HomeReq) : s.KeepsStores (s.withdrawHome h) := by
  unfold State.withdrawHome
  dsimp only
  split
  · exact .of_blocks rfl
  · exact .of_blocks rfl

theorem State.keepsStores_withdraw (s : State) (b : Block) : s.KeepsStores (s.withdraw b) := by
  have hhome : s.KeepsStores ((s.home.filter fun h => h.blk == b.id).foldl (fun (t : State) h =>
      if h.answered then t.homeIssue h else t.withdrawHome h) s) := by
    refine State.foldl_of_step .refl .trans (fun t h => ?_) _ _
    split
    · exact (State.keepsStores_homeEffect t h).trans (.modGroup _ _ _ _)
    · exact State.keepsStores_withdrawHome t h
  exact hhome.trans (.of_blocks (State.foldl_blocks (fun t (p : PreRead) => State.dropPre_blocks t p.id) _ _))

theorem State.keepsStores_saveQueue (s : State) (b : Block) : s.KeepsStores (s.saveQueue b) := by
  unfold State.saveQueue
  split
  · exact .refl s
  · split
    · exact .refl s
    · refine State.KeepsStores.trans (t := List.foldl _ s _) (.of_blocks ?_) (.modBlock _ _ fun _ => ⟨rfl, rfl, rfl, rfl, rfl, rfl⟩)
      exact State.foldl_blocks (fun t _ => State.ringStore_blocks t _ _ _) _ _

/-- A block as its image is written: it has left its core and its slots, and its threads are as an image keeps them. -/
def Block.leaving (s : State) (b : Block) : Block :=
  { b with
    st := .saved
    residence := b.residence + (s.time - b.since)
    credit := 0
    savers := []
    groups := b.groups.map fun g =>
      { g with active := none, idleOut := false }.modLanes (maskOf fun _ => true) fun _ x => x.saved s.cc }

/-- The state in which a block's image stands in memory. -/
def State.imaged (s : State) (b q : Block) (l : Launch) : State :=
  (((s.withdraw b).saveQueue b).modBlock b.id (Block.leaving s)).storeImage q l fun i =>
    ((List.range b.groups.length).map (s.waiting b)).getD i 0

theorem State.writeImage_of_found {s : State} {b q : Block} {l : Launch} (idle : Bool)
    (hq : (((s.withdraw b).saveQueue b).modBlock b.id (Block.leaving s)).block? b.id = some q) :
    s.writeImage b l idle =
      let t := b.savers.foldl (fun (t : State) a => t.post a.1 ⟨a.2, 4, 0, []⟩)
        ((s.imaged b q l).modContext l.ctx fun c => { c with used := c.used - b.credit })
      if idle then t else t.enqueueItem l.lr.prio (.block b.id) := by
  unfold State.writeImage
  dsimp only
  rw [show (((s.withdraw b).saveQueue b).modBlock b.id fun b => Block.leaving s b) = _ from rfl] at hq
  unfold Block.leaving at hq
  rw [hq]
  rfl

@[simp] theorem State.imaged_blocks (s : State) (b q : Block) (l : Launch) : (s.imaged b q l).blocks =
    (((s.withdraw b).saveQueue b).modBlock b.id (Block.leaving s)).blocks := State.storeImage_blocks _ _ _ _

/-- The image stands at its place under its context's key, and its sectors are no longer poisoned (R313, R319). -/
theorem State.imaged_mem (s : State) (b q : Block) (l : Launch) : (s.imaged b q l).mem =
    let u := (s.withdraw b).saveQueue b
    let image := q.image l.lr (fun i => ((List.range b.groups.length).map (s.waiting b)).getD i 0) u.free
    (u.mem.write (u.keySerial (((u.context? l.ctx).map (·.key)).getD 0)) q.imageAt image).unpoison q.imageAt image.length := by
  rw [State.imaged, State.storeImage]
  rfl

theorem State.mem_enqueueItem (s : State) (prio : Nat) (x : QItem) :
    x ∈ ((s.enqueueItem prio x).fw.queues[prio]?.getD [] : List QItem) ∨ 4 ≤ prio := by
  rcases Nat.lt_or_ge prio 4 with h | h
  · refine .inl ?_
    rw [show (s.enqueueItem prio x).fw.queues = s.fw.queues.setIfInBounds prio (s.queue prio ++ [x]) from rfl]
    simp [h]
  · exact .inr h

/-- What a save leaves: the block off its core, with its image in memory and its stores as they were. -/
theorem State.writeImage_spec {s : State} {b : Block} {l : Launch} (hb : s.block? b.id = some b) (idle : Bool) :
    ∃ b', (s.writeImage b l idle).block? b.id = some b' ∧ b'.st = .saved ∧ b'.savers = [] ∧ b'.credit = 0
      ∧ b.SameStores b' ∧ (s.writeImage b l idle).mem = (s.imaged b b' l).mem
      ∧ (idle = false → QItem.block b.id ∈ ((s.writeImage b l idle).fw.queues[l.lr.prio]?.getD [] : List QItem) ∨ 4 ≤ l.lr.prio) := by
  obtain ⟨q, hq, hsame⟩ := ((s.keepsStores_withdraw b).trans (State.keepsStores_saveQueue _ b)) b.id b hb
  have hfound : (((s.withdraw b).saveQueue b).modBlock b.id (Block.leaving s)).block? b.id = some (Block.leaving s q) := by
    rw [State.block?_modBlock _ _ _ (Block.leaving s) fun _ => rfl, hq, Option.map_some, if_pos (State.block?_id hq)]
  have hposts : ∀ t : State, (b.savers.foldl (fun (t : State) a => t.post a.1 ⟨a.2, 4, 0, []⟩) t).blocks = t.blocks
      ∧ (b.savers.foldl (fun (t : State) a => t.post a.1 ⟨a.2, 4, 0, []⟩) t).mem = t.mem := fun t =>
    State.foldl_of_step (keeps := fun s t => t.blocks = s.blocks ∧ t.mem = s.mem) (fun _ => ⟨rfl, rfl⟩)
      (fun ⟨hb, hm⟩ ⟨hb', hm'⟩ => ⟨hb'.trans hb, hm'.trans hm⟩) (fun t _ => ⟨State.post_blocks t _ _, State.post_mem t _ _⟩) _ t
  obtain ⟨hblocks, hmem⟩ := hposts ((s.imaged b (Block.leaving s q) l).modContext l.ctx fun c => { c with used := c.used - b.credit })
  rw [State.modContext_blocks, State.imaged_blocks] at hblocks
  rw [State.modContext_mem] at hmem
  have hleft : b.SameStores (Block.leaving s q) :=
    hsame.trans ⟨rfl, rfl, rfl, rfl, rfl, List.length_map _⟩
  rw [State.writeImage_of_found idle hfound]
  dsimp only
  refine ⟨Block.leaving s q, ?_, rfl, rfl, rfl, hleft, ?_, fun hidle => ?_⟩
  · refine (State.block?_congr (t := ite _ _ _) ?_ b.id).trans hfound
    split
    · exact hblocks
    · exact hblocks
  · split
    · exact hmem
    · exact hmem
  · rw [hidle]
    exact State.mem_enqueueItem _ _ _

section Save

variable {s : State} {b : Block} {l : Launch} {n : Nat} {idle : Bool} (hb : s.block? b.id = some b)
  (hl : s.launch? b.launch = some l) (hst : b.st = .saving n idle) (hd : s.drained b = true)
include hb hst hd

theorem exec_saveTimeout_kills (ht : n + micros 10 ≤ s.time) :
    exec (.saveTimeout b.id) s = .next (s.kill b.launch b.id 0 0x304) := by
  rw [exec_saveTimeout, execSaveTimeout, hb]
  dsimp only
  rw [hst]
  dsimp only
  rw [hd, decide_eq_true (show n + saveLimit ≤ s.time from ht)]
  rfl

include hl in
/-- A block that may be saved, and in time: it completes, or its image is written. -/
theorem exec_blockSave_of_savable (hf : (s.inFlight b || (s.members b).any s.mirrorsOut) = false) (ht : s.time < n + micros 10) :
    exec (.blockSave b.id) s = .next (if s.complete b then s.completeBlock b else s.writeImage b l idle) := by
  obtain ⟨hfly, hmirrors⟩ := Bool.or_eq_false_iff.1 hf
  have hsave : s.savable b = true := by rw [State.savable, hd, hmirrors, hfly]; rfl
  rw [exec_blockSave, execBlockSave, hb]
  dsimp only
  rw [hl, hst]
  dsimp only
  rw [hsave, decide_eq_false (show ¬ n + saveLimit ≤ s.time from Nat.not_le.2 ht)]
  cases s.complete b
  · rfl
  · rfl

end Save

/-! ### Restoration (R82, R320) -/

/-- A block as it comes back on a core: as its image gives it, from now on. -/
def Block.restored (s : State) (l : Launch) (core q0 : Nat) (image : List Byte) (b : Block) : Block :=
  let b := b.ofImage l.lr image
  { b with
    core := core
    st := .resident
    since := s.time
    idleAt := s.time
    credit := l.lr.estimate b.stage
    groups := b.groups.zipIdx.map fun (p : Group × Nat) =>
      { p.1 with quad := (q0 + p.2) % 4, readyAt := s.cc, idleAt := s.cc }.modLanes (maskOf fun _ => true) fun _ x =>
        x.restored s.cc }

/-- With no held line among a block's requests nothing is sent again. -/
theorem State.reenter_blocks {s : State} {b : Block} (h : ∀ r ∈ s.reqs, r.blk = b.id → r.isHeld = false) :
    (s.reenter b).blocks = s.blocks := by
  unfold State.reenter
  dsimp only
  have hnone : (s.reqs.filter fun r => r.blk == b.id && r.isHeld) = [] :=
    List.filter_eq_nil_iff.2 fun r hr => by
      by_cases hb : r.blk = b.id
      · simp [h r hr hb]
      · simp [hb]
  rw [hnone]
  simp

theorem Req.isHeld_released {r : Req} (h : r.isHeld = false) (core : Nat) (p : Prop) [Decidable p] :
    ({ r with core := core, phase := if p then .issued else r.phase } : Req).isHeld = false := by
  by_cases hp : p
  · simp [Req.isHeld, hp]
  · simpa [Req.isHeld, hp] using h

theorem State.restoreOn_blocks {s : State} {b : Block} {l : Launch} {core : Nat}
    (h : ∀ r ∈ s.reqs, r.blk = b.id → r.isHeld = false) : (s.restoreOn b l core).blocks =
      (s.modBlock b.id (Block.restored s l core (firstQuad (s.onCore core []))
        (s.mem.read (s.keySerial (((s.context? l.ctx).map (·.key)).getD 0)) b.imageAt l.lr.imageBytes))).blocks := by
  unfold State.restoreOn
  dsimp only
  refine (State.reenter_blocks fun r hr hblk => ?_).trans rfl
  obtain ⟨r0, hr0, rfl⟩ := List.mem_map.1 hr
  have hr0' : r0 ∈ s.reqs := hr0
  split at hblk
  · next hne => exact absurd hblk hne
  · next hblk0 =>
    rw [if_neg hblk0]
    exact Req.isHeld_released (h r0 hr0' (not_not.1 hblk0)) core _

theorem Block.ofImage_scratch (b : Block) (r : LRec) (bs : List Byte) : (b.ofImage r bs).scratch =
    .ofBytes ((bs.drop (0x1000 + 0x9000 * b.groups.length + if r.matrix then 0x3A000 else 0)).take r.scratch) := by
  unfold Block.ofImage
  dsimp only
  cases r.matrix
  · rfl
  · rfl

theorem Block.length_ofImage (b : Block) (r : LRec) (bs : List Byte) : (b.ofImage r bs).groups.length = b.groups.length := by
  simp [Block.ofImage]

section Restored

variable (s : State) (l : Launch) (core q0 : Nat) (image : List Byte) (b : Block)

theorem Block.length_restored : (Block.restored s l core q0 image b).groups.length = b.groups.length := by
  simp [Block.restored, Block.length_ofImage]

/-- A restored group is the image's, but for its times and places, and what its sleepers wait for. -/
theorem Block.group_restored {i : Nat} (hi : i < b.groups.length) :
    let g := (b.ofImage l.lr image).group i
    let g' := (Block.restored s l core q0 image b).group i
    g'.s = g.s ∧ g'.p = g.p ∧ ∀ k, k < 32 → (g'.lane k).v = (g.lane k).v ∧ (g'.lane k).pc = (g.lane k).pc
      ∧ (g'.lane k).mt = (g.lane k).mt ∧ (g'.lane k).ben = (g.lane k).ben := by
  dsimp only
  rw [Block.group_of_zipIdx (b := b.ofImage l.lr image) rfl i, if_pos ((Block.length_ofImage b l.lr image).symm ▸ hi)]
  refine ⟨rfl, rfl, fun k hk => ?_⟩
  dsimp only
  rw [Group.lane_modLanes _ _ _ _ hk]
  split
  · exact ⟨rfl, rfl, rfl, rfl⟩
  · exact ⟨rfl, rfl, rfl, rfl⟩

end Restored

/-- A fold stands still where each of its steps does. -/
theorem foldl_of_fixed {α β : Type} {f : β → α → β} {a : β} {xs : List α} (h : ∀ x ∈ xs, f a x = a) : xs.foldl f a = a := by
  induction xs with
  | nil => rfl
  | cons x xs ih => rw [List.foldl_cons, h x (.head _), ih fun y hy => h y (.tail _ hy)]

/-- Where no thread of a block is prunable none is cancelled (R289). -/
theorem State.cancelDominated_of_none {s : State} {b q : Block} (l : Launch) (hq : s.block? b.id = some q)
    (h : ∀ g, g < b.groups.length → ∀ k, k < 32 → ((q.group g).lane k).ben = false) : s.cancelDominated b l = s :=
  foldl_of_fixed fun g hg => foldl_of_fixed fun k hk => by
    have hben := h g (List.mem_range.1 hg) k (List.mem_range.1 hk)
    have hno : s.toCancel q ((q.group g).lane k) = false := by
      rw [State.toCancel, State.threadDominated, hben, Bool.false_and, Bool.false_and, Bool.and_false]
    rw [hq]
    dsimp only
    rw [hno]
    rfl

section Restoration

variable {s : State} {b : Block} {l : Launch} {c : Context} {core : Nat} (hb : s.noteHeads.block? b.id = some b)
  (hl : s.launch? b.launch = some l) (hst : b.st = .saved) (hms : s.noteHeads.members b = [b])
include hb hl hst hms

/-- A block that R83 has saved joins its queue when something that it waited for has come. -/
theorem exec_blockRestoration_queues
    (hq : ((List.range 4).any fun i => (s.noteHeads.queue i).contains (.block b.id)) = false) (hw : s.noteHeads.awake b = true) :
    exec (.blockRestoration b.id) s = .next (s.noteHeads.enqueueItem l.lr.prio (.block b.id)) := by
  have hl' : s.noteHeads.launch? b.launch = some l := hl
  rw [exec_blockRestoration, execBlockRestoration]
  dsimp only
  rw [hb]
  dsimp only
  rw [hl']
  dsimp only
  rw [hms, List.filter_cons_of_pos (by simp [hst]), if_neg (not_not.2 hst)]
  simp only [List.filter_nil, List.any_cons, List.any_nil, Bool.or_false, hq, hw, Bool.not_false, if_true]

/-- The saved block at the head of the queues comes back on the core that has room for it. -/
theorem exec_blockRestoration_restores (hctx : s.context? l.ctx = some c)
    (hq : ((List.range 4).any fun i => (s.noteHeads.queue i).contains (.block b.id)) = true) (hadm : s.admitting = true)
    (hnext : s.noteHeads.nextItem.map (·.2) = some (.block b.id)) (hheld : ∀ r ∈ s.reqs, r.blk = b.id → r.isHeld = false)
    (hpoison : s.mem.poisoned b.imageAt l.lr.imageBytes = false) (hplace : s.noteHeads.placeOn l.lr 1 [] = some [core])
    (hbudget : c.used + l.lr.estimate b.stage ≤ c.budget) {image : List Byte}
    (himage : s.mem.read (s.keySerial c.key) b.imageAt l.lr.imageBytes = image)
    (hben : ∀ g ∈ (b.ofImage l.lr image).groups, ∀ k, k < 32 → (g.lane k).ben = false) :
    ∃ t, exec (.blockRestoration b.id) s = .next t
      ∧ t.block? b.id = some (Block.restored s.noteHeads l core (firstQuad (s.noteHeads.onCore core [])) image b) := by
  have hl' : s.noteHeads.launch? b.launch = some l := hl
  have hctx' : s.noteHeads.context? l.ctx = some c := hctx
  have hadm' : s.noteHeads.admitting = true := hadm
  have hpoison' : s.noteHeads.mem.poisoned b.imageAt l.lr.imageBytes = false := hpoison
  have hfound : ((s.noteHeads.restoreOn b l core).dequeue (.block b.id)).block? b.id =
      some (Block.restored s.noteHeads l core (firstQuad (s.noteHeads.onCore core [])) image b) := by
    rw [State.block?_congr (State.dequeue_blocks _ _), State.block?_congr (State.restoreOn_blocks (s := s.noteHeads) hheld), hctx',
      State.block?_modBlock _ _ _ (Block.restored _ _ _ _ _) fun _ => rfl, hb, Option.map_some, if_pos rfl]
    exact congrArg _ (congrArg (fun i => Block.restored _ _ _ _ i b) himage)
  have hstill : ((s.noteHeads.restoreOn b l core).dequeue (.block b.id)).cancelDominated b l =
      (s.noteHeads.restoreOn b l core).dequeue (.block b.id) := by
    refine State.cancelDominated_of_none l hfound fun g hg k hk => ?_
    obtain ⟨_, _, hlanes⟩ := Block.group_restored s.noteHeads l core (firstQuad (s.noteHeads.onCore core [])) image b hg
    obtain ⟨_, _, _, hsame⟩ := hlanes k hk
    have hg' : g < (b.ofImage l.lr image).groups.length := (Block.length_ofImage b l.lr image).symm ▸ hg
    rw [hsame, Block.group, List.getD_eq_getElem _ _ hg']
    exact hben _ (List.getElem_mem hg') k hk
  refine ⟨_, ?_, hfound⟩
  rw [exec_blockRestoration, execBlockRestoration]
  dsimp only
  rw [hb]
  dsimp only
  rw [hl']
  dsimp only
  rw [hms, List.filter_cons_of_pos (by simp [hst]), if_neg (not_not.2 hst)]
  simp only [List.filter_nil, List.any_cons, List.any_nil, Bool.or_false, hq, hadm', hnext, Bool.not_true, Bool.false_eq_true,
    if_false, ne_eq, not_true_eq_false, decide_false, Block.onCore, hst, Bool.and_false, List.find?_cons, hpoison',
    List.find?_nil, hctx', List.length_cons, List.length_nil, Nat.zero_add, hplace, List.map_cons, List.map_nil,
    List.foldl_cons, List.foldl_nil, List.zip_cons_cons, List.zip_nil_right, Nat.not_lt.2 hbudget, hstill]

end Restoration

/-- Settles O42: the courses of the events above. -/
theorem blockAndLaunchEvents : Obligations.BlockAndLaunchEvents := by
  refine ⟨fun s => ⟨fun q x n _ h hn => exec_queueAging_ages h hn,
    fun l x cs is hhead hadm hroom honly hcs his => exec_blockAdmission_admits hhead hadm hroom honly hcs his,
    fun b hb h => exec_idleSave_begins hb h,
    fun prio n est x l vs hitem hneeds hadm hno hnone hleast => exec_preemptionForRoom_saves hitem hneeds hadm hno hnone hleast,
    fun b l n idle hb hl hst => ⟨fun hc hd hf ht => ?save, fun hc hd hf ht => ?complete,
      fun ht hd => exec_saveTimeout_kills hb hst hd ht⟩,
    fun b hb hr hc => ⟨exec_blockCompletion_completes hb hr hc, ?gone, fun k hk => ?others⟩,
    fun l hl hdone hblocks hcmds hhome hoffers => exec_launchCompletion_completes hl hdone hblocks hcmds hhome hoffers,
    fun b grp code hb => ⟨exec_launchKill_kills hb, fun l hl => ⟨exec_launchKill_saveFault hb hl,
      fun hc more => State.kill_stops (State.mem_of_block? hb) hl hc _ _ _ more⟩⟩⟩,
    fun s b l c core hb hl hctx hst hms => ⟨fun hq hadm hnext hheld hpoison hplace hbudget hben => ?restore,
      fun hq hw => exec_blockRestoration_queues hb hl hst hms hq hw⟩⟩
  case save =>
    obtain ⟨b', hfound, hsaved, hsavers, hcredit, hsame, hmem, hqueue⟩ := State.writeImage_spec (l := l) hb idle
    refine ⟨_, b', (exec_blockSave_of_savable hb hl hst hd hf ht).trans (congrArg _ (if_neg (by simp [hc]))), hfound, hsaved,
      hsavers, hcredit, ⟨_, hmem.trans (State.imaged_mem s b b' l)⟩, hsame.scratch, hsame.w, hsame.a, hsame.c, hsame.groups, hqueue⟩
  case complete => exact (exec_blockSave_of_savable hb hl hst hd hf ht).trans (congrArg _ (if_pos hc))
  case gone => exact (State.block?_completeBlock s b b.id).trans (if_pos rfl)
  case others => exact (State.block?_completeBlock s b k).trans (if_neg hk)
  case restore =>
    obtain ⟨t, hexec, hfound⟩ := exec_blockRestoration_restores hb hl hst hms hctx hq hadm hnext hheld hpoison hplace hbudget
      rfl hben
    refine ⟨t, _, hexec, hfound, rfl, rfl, rfl, rfl, rfl, rfl, rfl, rfl, Block.ofImage_scratch b l.lr _, rfl, rfl,
      Block.length_restored _ _ _ _ _ b, fun i hi => ?_⟩
    obtain ⟨hs, hp, hlanes⟩ := Block.group_restored s.noteHeads l core (firstQuad (s.noteHeads.onCore core []))
      (s.mem.read (s.keySerial c.key) b.imageAt l.lr.imageBytes) b hi
    refine ⟨hs, hp, fun k hk => ?_⟩
    obtain ⟨hv, hpc, hmt, _⟩ := hlanes k hk
    exact ⟨hv, hpc, hmt⟩

end Sys2Proof.Machine
end

section
/-!
SUPPORT. Integer arithmetic (R86, R88): the range of a format and what wraps or clamps to it, shifts and rotations, and the
counts and the reversal of bits; O1 is assembled from these.
-/

namespace Sys2Proof.Machine

/-! ### Reading and reducing (R86) -/

theorem fmtMin_le_fmtMax (fmt : Nat) : fmtMin fmt ≤ fmtMax fmt := by
  have hp : (0 : Int) < 2 ^ (fmtW fmt - 1) := by positivity
  unfold fmtMin fmtMax
  rw [two_pow_fmtW]
  split <;> omega

/-- A wrapped integer is in the range of the format. -/
theorem wrapInt_mem (fmt : Nat) (x : Int) : fmtMin fmt ≤ wrapInt fmt x ∧ wrapInt fmt x ≤ fmtMax fmt := by
  have hp : (0 : Int) < 2 ^ (fmtW fmt - 1) := by positivity
  unfold fmtMin fmtMax wrapInt
  rw [two_pow_fmtW]
  generalize (2 : Int) ^ (fmtW fmt - 1) = p at *
  have h0 := Int.emod_nonneg x (show 2 * p ≠ 0 by omega)
  have h1 := Int.emod_lt_of_pos x (show 0 < 2 * p by omega)
  cases fmtSigned fmt with
  | false =>
    simp only [Bool.false_and, Bool.false_eq_true, if_false]
    omega
  | true =>
    simp only [Bool.true_and, decide_eq_true_eq, if_true]
    split <;> omega

/-- It is congruent to the integer that it was made of. -/
theorem wrapInt_emod (fmt : Nat) (x : Int) : wrapInt fmt x % 2 ^ fmtW fmt = x % 2 ^ fmtW fmt := by
  unfold wrapInt
  dsimp only
  split
  · rw [Int.sub_emod_right, Int.emod_emod]
  · exact Int.emod_emod _ _

/-- Congruent integers wrap alike. -/
theorem wrapInt_congr {fmt : Nat} {x y : Int} (h : x % 2 ^ fmtW fmt = y % 2 ^ fmtW fmt) : wrapInt fmt x = wrapInt fmt y := by
  unfold wrapInt
  rw [h]

/-- The one integer of the range that is congruent to a result is what the result wraps to. -/
theorem reduceInt_false_of_congr {fmt : Nat} {r y : Int} (h1 : fmtMin fmt ≤ y) (h2 : y ≤ fmtMax fmt)
    (h : r % 2 ^ fmtW fmt = y % 2 ^ fmtW fmt) : reduceInt fmt false r = BitVec.ofInt 64 y := by
  rw [← reduceInt_of_mem false h1 h2]
  exact congrArg (BitVec.ofInt 64) (wrapInt_congr h)

theorem reduceInt_true_of_lt {fmt : Nat} {r : Int} (h : r < fmtMin fmt) :
    reduceInt fmt true r = BitVec.ofInt 64 (fmtMin fmt) := by
  rw [reduceInt, if_pos rfl, clampInt, if_pos h]

theorem reduceInt_true_of_gt {fmt : Nat} {r : Int} (h : fmtMax fmt < r) :
    reduceInt fmt true r = BitVec.ofInt 64 (fmtMax fmt) := by
  have hmin : ¬ r < fmtMin fmt := not_lt.2 ((fmtMin_le_fmtMax fmt).trans h.le)
  rw [reduceInt, if_pos rfl, clampInt, if_neg hmin, if_pos h]

/-! ### Shifts and rotations (R88) -/

/-- The sign fill is the quotient toward minus infinity by any power of two past the width. -/
theorem shiftInt_shr {fmt : Nat} {x : Int} {n : Nat} (h1 : fmtMin fmt ≤ x) (h2 : x ≤ fmtMax fmt) :
    shiftInt fmt 1 x n = x / 2 ^ n := by
  change (if n ≥ fmtW fmt then (if x < 0 then -1 else 0) else x / 2 ^ n) = x / 2 ^ n
  by_cases hn : n ≥ fmtW fmt
  · rw [if_pos hn]
    have hp : (0 : Int) < 2 ^ (fmtW fmt - 1) := by positivity
    have hle : (2 : Int) ^ fmtW fmt ≤ 2 ^ n := pow_le_pow_right₀ (by decide) hn
    have hmin : -(2 : Int) ^ n ≤ fmtMin fmt := by
      unfold fmtMin
      rw [two_pow_fmtW] at hle
      split <;> omega
    have hmax : fmtMax fmt < (2 : Int) ^ n := by
      unfold fmtMax
      rw [two_pow_fmtW] at hle ⊢
      split <;> omega
    by_cases hx : x < 0
    · rw [if_pos hx, Int.ediv_eq_neg_one_of_neg_of_le hx (by omega)]
    · rw [if_neg hx, Int.ediv_eq_zero_of_lt (by omega) (by omega)]
  · exact if_neg hn

/-- The low bits of a word moved up by k places, with its high bits below them: bit i was bit i − k modulo w. -/
theorem testBit_rotate {w k u i : Nat} (hk : k ≤ w) (hu : u < 2 ^ w) (hi : i < w) :
    ((u * 2 ^ k) % 2 ^ w + u / 2 ^ (w - k)).testBit i = u.testBit ((i + (w - k)) % w) := by
  have hw : (2 : Nat) ^ w = 2 ^ (w - k) * 2 ^ k := by rw [← pow_add, Nat.sub_add_cancel hk]
  have hhigh : u / 2 ^ (w - k) < 2 ^ k := by
    rw [Nat.div_lt_iff_lt_mul (by positivity), mul_comm, ← hw]
    exact hu
  have hlow : (u * 2 ^ k) % 2 ^ w = 2 ^ k * (u % 2 ^ (w - k)) := by rw [hw, Nat.mul_mod_mul_right, mul_comm]
  rw [hlow, Nat.testBit_two_pow_mul_add _ hhigh]
  by_cases hik : i < k
  · rw [if_pos hik, Nat.testBit_div_two_pow, Nat.mod_eq_of_lt (by omega)]
  · have hwrap : (i + (w - k)) % w = i - k := by
      rw [show i + (w - k) = i - k + w by omega, Nat.add_mod_right, Nat.mod_eq_of_lt (by omega)]
    rw [if_neg hik, Nat.testBit_mod_two_pow, hwrap, decide_eq_true (show i - k < w - k by omega), Bool.true_and]

theorem emod_toNat_lt (fmt : Nat) (x : Int) : (x % 2 ^ fmtW fmt).toNat < 2 ^ fmtW fmt := by
  have := Int.emod_lt_of_pos x (show (0 : Int) < 2 ^ fmtW fmt by positivity)
  zify
  rw [Int.toNat_of_nonneg (Int.emod_nonneg x (by positivity))]
  exact this

section Rotations

variable {fmt n i : Nat} (x : Int) (hi : i < fmtW fmt)
include hi

theorem shiftInt_rotl : (shiftInt fmt 2 x n).toNat.testBit ((i + n) % fmtW fmt) = (x % 2 ^ fmtW fmt).toNat.testBit i := by
  have hr : n % fmtW fmt < fmtW fmt := Nat.mod_lt _ (fmtW_pos fmt)
  have hback : ((i + n) % fmtW fmt + (fmtW fmt - n % fmtW fmt)) % fmtW fmt = i := by
    rw [Nat.mod_add_mod, show i + n + (fmtW fmt - n % fmtW fmt) = i + fmtW fmt + (n - n % fmtW fmt) by
      have := Nat.mod_le n (fmtW fmt)
      omega, ← Nat.div_mul_self_eq_mod_sub_self]
    rw [Nat.add_mul_mod_self_right, Nat.add_mod_right, Nat.mod_eq_of_lt hi]
  exact (testBit_rotate hr.le (emod_toNat_lt fmt x) (Nat.mod_lt _ (fmtW_pos fmt))).trans (by rw [hback])

theorem shiftInt_rotr : (shiftInt fmt 3 x n).toNat.testBit i = (x % 2 ^ fmtW fmt).toNat.testBit ((i + n) % fmtW fmt) := by
  have hr : n % fmtW fmt ≤ fmtW fmt := (Nat.mod_lt _ (fmtW_pos fmt)).le
  have h := testBit_rotate (Nat.sub_le (fmtW fmt) (n % fmtW fmt)) (emod_toNat_lt fmt x) hi
  rw [Nat.sub_sub_self hr, Nat.add_mod_mod, Nat.add_comm (_ % _)] at h
  exact h

end Rotations

/-! ### Counts and reversal of bits (R88) -/

/-- The first index below w at which p holds, or w. -/
theorem findRange_spec (w : Nat) (p : Nat → Bool) :
    (∀ k, k < ((List.range w).find? p).getD w → p k = false)
      ∧ (((List.range w).find? p).getD w < w → p (((List.range w).find? p).getD w) = true)
      ∧ ((List.range w).find? p).getD w ≤ w := by
  cases h : (List.range w).find? p with
  | none =>
    refine ⟨fun k hk => ?_, fun hlt => absurd hlt (lt_irrefl w), le_refl w⟩
    simpa using List.find?_eq_none.1 h k (List.mem_range.2 hk)
  | some i =>
    obtain ⟨hp, hi, hbelow⟩ := List.find?_range_eq_some.1 h
    exact ⟨fun k hk => by simpa using hbelow k hk, fun _ => hp, (List.mem_range.1 hi).le⟩

theorem clz_eq (w x : Nat) : clz w x = ((List.range w).find? fun i => x.testBit (w - 1 - i)).getD w := by
  unfold clz
  split <;> simp [*]

theorem ctz_eq (w x : Nat) : ctz w x = ((List.range w).find? fun i => x.testBit i).getD w := by
  unfold ctz
  split <;> simp [*]

theorem brev_succ (w x : Nat) : brev (w + 1) x = 2 * brev w x + (x.testBit w).toNat := by
  unfold brev
  rw [List.range_succ, List.foldl_append]
  cases h : x.testBit w <;> simp [h]

theorem testBit_brev (w x : Nat) : ∀ i, i < w → (brev w x).testBit i = x.testBit (w - 1 - i) := by
  induction w with
  | zero => exact fun i hi => absurd hi (Nat.not_lt_zero i)
  | succ w ih =>
    intro i hi
    rw [brev_succ]
    cases i with
    | zero => cases h : x.testBit w <;> simp [h]
    | succ i =>
      have hhalf : (2 * brev w x + (x.testBit w).toNat) / 2 = brev w x := by
        have := Bool.toNat_lt (x.testBit w)
        omega
      rw [Nat.testBit_succ, hhalf, ih i (by omega)]
      exact congrArg _ (by omega)

/-- Settles O1: what integers are read and reduced to, and the values of the shifts, products and bit counts. -/
theorem integerArithmeticFollowsTheSpec : Obligations.IntegerArithmeticFollowsTheSpec := by
  refine ⟨fun fmt _ => ⟨fun x => ?read, fun r y h1 h2 h => reduceInt_false_of_congr h1 h2 h,
    fun r h1 h2 => reduceInt_of_mem true h1 h2, fun r => reduceInt_true_of_lt, fun r => reduceInt_true_of_gt⟩,
    fun fmt _ => ⟨fun x n h1 h2 => ⟨rfl, shiftInt_shr h1 h2, fun i hi => ⟨shiftInt_rotl x hi, shiftInt_rotr x hi⟩⟩,
      fun x y => ⟨rfl, rfl⟩, fun x => ?bits⟩⟩
  case read =>
    obtain ⟨hmin, hmax⟩ := wrapInt_mem fmt x.toNat
    exact ⟨hmin, hmax, wrapInt_emod fmt x.toNat⟩
  case bits =>
    obtain ⟨hlead, hfirst, hle⟩ := findRange_spec (fmtW fmt) fun i => x.testBit (fmtW fmt - 1 - i)
    obtain ⟨htrail, hlast, hle'⟩ := findRange_spec (fmtW fmt) fun i => x.testBit i
    rw [← clz_eq] at hlead hfirst hle
    rw [← ctz_eq] at htrail hlast hle'
    exact ⟨rfl, hlead, hfirst, hle, htrail, hlast, hle', testBit_brev (fmtW fmt) x⟩

end Sys2Proof.Machine
end

section
/-!
SUPPORT. Vector integer instructions (R88, R92, R93): each is one vector result; O4 is assembled from these.
-/

namespace Sys2Proof.Machine

/-- Settles O4: each instruction gives one vector result, which is written in the guard-true lanes. VIADD and VISUB are those
without a carry. -/
theorem vectorIntegerInstructionsWriteTheirLanes : Obligations.VectorIntegerInstructionsWriteTheirLanes := by
  refine fun s c hc => ⟨fun x => ⟨fun h0 => ?viadd, fun h0 => ?visub, ?vimul, ?vimad, ?vmnx, ?vbit, ?vmov, ?vlea, ?vsh, ?vlog,
    ?vicmp, ?vsel⟩, fun x => (exec_vmovk x s).trans (State.issue_vec hc rfl)⟩
  case viadd =>
    refine (exec_viadd x s).trans (State.issue_vec hc ?_)
    rw [Ctx.addSub, subN, h0]
    rfl
  case visub =>
    refine (exec_visub x s).trans (State.issue_vec hc ?_)
    rw [Ctx.addSub, subN, h0]
    rfl
  case vimul => exact (exec_vimul x s).trans (State.issue_vec hc rfl)
  case vimad => exact (exec_vimad x s).trans (State.issue_vec hc rfl)
  case vmnx => exact (exec_vmnx x s).trans (State.issue_vec hc rfl)
  case vbit => exact (exec_vbit x s).trans (State.issue_vec hc rfl)
  case vmov => exact (exec_vmov x s).trans (State.issue_vec hc rfl)
  case vlea => exact (exec_vlea x s).trans (State.issue_vec hc rfl)
  case vsh => exact (exec_vsh x s).trans (State.issue_vec hc rfl)
  case vlog => exact (exec_vlog x s).trans (State.issue_vec hc rfl)
  case vicmp => exact (exec_vicmp x s).trans (State.issue_vec hc rfl)
  case vsel => exact (exec_vsel x s).trans (State.issue_vec hc rfl)

end Sys2Proof.Machine
end

section
/-!
SUPPORT. Carry chains, bit fields, pairs and packing (R89, R91): what the carry forms write, the field that a word names and
its bits, and the packed word; O5 is assembled from these.
-/

namespace Sys2Proof.Machine

/-! ### Carry chains (R89) -/

section Carry

variable (c : Ctx) (s : State) {x : VForm} (sub : Bool)

theorem Ctx.carrySum_of_cin (h : subN x = 1 ∨ subN x = 3) (l : Nat) : c.carrySum x sub l =
    if sub then ((c.val x.a l).toNat : Int) - (c.val x.b l).toNat - (c.val x.c l).toNat
    else ((c.val x.a l).toNat : Int) + (c.val x.b l).toNat + (c.val x.c l).toNat := by
  unfold Ctx.carrySum
  rw [if_pos h]

theorem Ctx.carrySum_of_no_cin (h : ¬ (subN x = 1 ∨ subN x = 3)) (l : Nat) : c.carrySum x sub l =
    if sub then ((c.val x.a l).toNat : Int) - (c.val x.b l).toNat else ((c.val x.a l).toNat : Int) + (c.val x.b l).toNat := by
  unfold Ctx.carrySum
  rw [if_neg h]
  simp

theorem Ctx.addSub_word (h : x.sub = 1) :
    c.addSub s x sub = c.vec s x.g x.d fun l => BitVec.ofInt 32 (c.carrySum x sub l) := by
  rw [Ctx.addSub, subN, h]
  rfl

theorem Ctx.addSub_carry (h : x.sub = 2 ∨ x.sub = 3) : c.addSub s x sub =
    c.vec s x.g x.d fun l => if c.carrySum x sub l < 0 ∨ c.carrySum x sub l ≥ 2 ^ 32 then 1 else 0 := by
  rcases h with h | h
  all_goals
    rw [Ctx.addSub, subN, h]
    rfl

end Carry

section CarryForms

variable {s : State} {c : Ctx} {x : VForm} (hc : s.ctx? = some c)
include hc

/-- The words of a sum and of a difference with the carry or borrow in. -/
theorem exec_addSub_ci (h : x.sub = 1) :
    exec (.viadd x) s = .next (s.after c 1 0 fun g => g.putO (c.on x.g) x.d fun l =>
        BitVec.ofInt 32 ((c.val x.a l).toNat + (c.val x.b l).toNat + (c.val x.c l).toNat))
      ∧ exec (.visub x) s = .next (s.after c 1 0 fun g => g.putO (c.on x.g) x.d fun l =>
        BitVec.ofInt 32 ((c.val x.a l).toNat - (c.val x.b l).toNat - (c.val x.c l).toNat)) := by
  have hcin : subN x = 1 ∨ subN x = 3 := .inl (by rw [subN, h]; rfl)
  refine ⟨(exec_viadd x s).trans (State.issue_vec hc ?_), (exec_visub x s).trans (State.issue_vec hc ?_)⟩
  all_goals
    rw [Ctx.addSub_word c _ _ h]
    simp only [Ctx.carrySum_of_cin c _ hcin]
    rfl

/-- The carry of a sum and the borrow of a difference. -/
theorem exec_addSub_co (h : x.sub = 2) :
    exec (.viadd x) s = .next (s.after c 1 0 fun g => g.putO (c.on x.g) x.d fun l =>
        if ((c.val x.a l).toNat : Int) + (c.val x.b l).toNat ≥ 2 ^ 32 then 1 else 0)
      ∧ exec (.visub x) s = .next (s.after c 1 0 fun g => g.putO (c.on x.g) x.d fun l =>
        if ((c.val x.a l).toNat : Int) < (c.val x.b l).toNat then 1 else 0) := by
  have hcin : ¬ (subN x = 1 ∨ subN x = 3) := by rw [subN, h]; decide
  refine ⟨(exec_viadd x s).trans (State.issue_vec hc ?_), (exec_visub x s).trans (State.issue_vec hc ?_)⟩
  all_goals
    rw [Ctx.addSub_carry c _ _ (.inl h)]
    refine congrArg (c.vec _ x.g x.d) (funext fun l => if_congr ?_ rfl rfl)
    rw [Ctx.carrySum_of_no_cin c _ hcin]
    have := (c.val x.a l).isLt
    simp only [if_true, Bool.false_eq_true, if_false]
    omega

/-- The same with a carry or borrow in. -/
theorem exec_addSub_cio (h : x.sub = 3) :
    exec (.viadd x) s = .next (s.after c 1 0 fun g => g.putO (c.on x.g) x.d fun l =>
        if ((c.val x.a l).toNat : Int) + (c.val x.b l).toNat + (c.val x.c l).toNat ≥ 2 ^ 32 then 1 else 0)
      ∧ exec (.visub x) s = .next (s.after c 1 0 fun g => g.putO (c.on x.g) x.d fun l =>
        if ((c.val x.a l).toNat : Int) < (c.val x.b l).toNat + (c.val x.c l).toNat then 1 else 0) := by
  have hcin : subN x = 1 ∨ subN x = 3 := .inr (by rw [subN, h]; rfl)
  refine ⟨(exec_viadd x s).trans (State.issue_vec hc ?_), (exec_visub x s).trans (State.issue_vec hc ?_)⟩
  all_goals
    rw [Ctx.addSub_carry c _ _ (.inr h)]
    refine congrArg (c.vec _ x.g x.d) (funext fun l => if_congr ?_ rfl rfl)
    rw [Ctx.carrySum_of_cin c _ hcin]
    have := (c.val x.a l).isLt
    simp only [if_true, Bool.false_eq_true, if_false]
    omega

end CarryForms

/-! ### Bit fields (R91) -/

/-- A word names the field at its low byte, of the length in its next byte and within the word; none of no length. -/
theorem fieldOf_eq (w : W32) : fieldOf w =
    if min (w.toNat / 256 % 256) (32 - w.toNat % 256) = 0 then none
    else some (w.toNat % 256, min (w.toNat / 256 % 256) (32 - w.toNat % 256)) := by
  have hpos : (w.extractLsb' 0 8).toNat = w.toNat % 256 := by simp
  have hlen : (w.extractLsb' 8 8).toNat = w.toNat / 256 % 256 := by simp [Nat.shiftRight_eq_div_pow]
  unfold fieldOf
  dsimp only
  rw [hpos, hlen]
  exact if_congr (by omega) rfl rfl

/-- The highest bit of a field is set exactly if its value is in the upper half. -/
theorem testBit_top_iff {v n : Nat} (hn : n ≠ 0) (hv : v < 2 ^ n) : v.testBit (n - 1) = true ↔ v ≥ 2 ^ (n - 1) := by
  obtain ⟨k, rfl⟩ := Nat.exists_eq_succ_of_ne_zero hn
  rw [Nat.succ_sub_one]
  refine ⟨fun h => ?_, fun h => Nat.testBit_of_two_pow_le_and_two_pow_add_one_gt h hv⟩
  exact Nat.ge_two_pow_of_testBit h

theorem getLsbD_fieldMask {i : Nat} (hi : i < 32) (pos len : Nat) :
    (BitVec.ofNat 32 ((2 ^ len - 1) * 2 ^ pos)).getLsbD i = decide (pos ≤ i ∧ i < pos + len) := by
  rw [BitVec.getLsbD_ofNat, Nat.testBit_mul_two_pow, Nat.testBit_two_pow_sub_one]
  simp only [hi, decide_true, Bool.true_and]
  by_cases hp : pos ≤ i
  · simp only [hp, decide_true, Bool.true_and, true_and]
    exact decide_eq_decide.2 (by omega)
  · simp [hp]

/-- A word with a field of it, given by its mask, replaced by the low bits of another. -/
theorem getLsbD_insert {mask : W32} {i pos len : Nat} (hi : i < 32) (hm : mask.getLsbD i = decide (pos ≤ i ∧ i < pos + len))
    (a b : W32) : ((a &&& ~~~mask) ||| ((b <<< pos) &&& mask)).getLsbD i =
      if pos ≤ i ∧ i < pos + len then b.getLsbD (i - pos) else a.getLsbD i := by
  rw [BitVec.getLsbD_or, BitVec.getLsbD_and, BitVec.getLsbD_and, BitVec.getLsbD_not, hm, BitVec.getLsbD_shiftLeft]
  by_cases h : pos ≤ i ∧ i < pos + len
  · simp [h, hi, Nat.not_lt.2 h.1]
  · simp [h, hi]

section Fields

variable {s : State} {c : Ctx} (hc : s.ctx? = some c) (x : VForm)
include hc

theorem exec_vbfx_spec :
    let pos := fun (w : W32) => w.toNat % 256
    let len := fun (w : W32) => min (w.toNat / 256 % 256) (32 - pos w)
    exec (.vbfx x) s = .next (s.after c 1 0 fun g => g.putO (c.on x.g) x.d fun l =>
      let v := (c.val x.a l).toNat / 2 ^ pos (c.val x.b l) % 2 ^ len (c.val x.b l)
      if len (c.val x.b l) = 0 then 0
      else if x.fmt = 0 ∧ v.testBit (len (c.val x.b l) - 1) then BitVec.ofInt 32 ((v : Int) - 2 ^ len (c.val x.b l))
      else BitVec.ofNat 32 v) := by
  refine (exec_vbfx x s).trans (State.issue_vec hc (congrArg (c.vec _ x.g x.d) (funext fun l => ?_)))
  dsimp only
  rw [fieldOf_eq]
  by_cases hn : min ((c.val x.b l).toNat / 256 % 256) (32 - (c.val x.b l).toNat % 256) = 0
  · simp only [if_pos hn]
  · simp only [if_neg hn]
    exact if_congr (and_congr_right fun _ => (testBit_top_iff hn (Nat.mod_lt _ (by positivity))).symm) rfl rfl

theorem exec_vbfi_spec :
    let pos := fun (w : W32) => w.toNat % 256
    let len := fun (w : W32) => min (w.toNat / 256 % 256) (32 - pos w)
    ∃ r : Nat → W32, exec (.vbfi x) s = .next (s.after c 1 0 fun g => g.putO (c.on x.g) x.d r)
      ∧ ∀ l i, i < 32 → (r l).getLsbD i =
        if pos (c.val x.c l) ≤ i ∧ i < pos (c.val x.c l) + len (c.val x.c l)
        then (c.val x.b l).getLsbD (i - pos (c.val x.c l)) else (c.val x.a l).getLsbD i := by
  refine ⟨_, (exec_vbfi x s).trans (State.issue_vec hc rfl), fun l i hi => ?_⟩
  dsimp only
  rw [fieldOf_eq]
  by_cases hn : min ((c.val x.c l).toNat / 256 % 256) (32 - (c.val x.c l).toNat % 256) = 0
  · rw [if_pos hn]
    exact (if_neg (by omega)).symm
  · rw [if_neg hn]
    exact getLsbD_insert hi (getLsbD_fieldMask hi _ _) _ _

/-! ### Packing (R91) -/

theorem exec_vpack_spec : ∃ r : Nat → W32, exec (.vpack x) s = .next (s.after c 1 0 fun g => g.putO (c.on x.g) x.d r)
    ∧ ∀ l, let w := fmtW x.fmt.toNat
      let two := (c.narrow x x.a l + c.narrow x x.b l * 2 ^ w) % 2 ^ 32
      (x.sub = 0 → (r l).toNat = two)
      ∧ (x.sub = 1 → w = 8 → (r l).toNat % 2 ^ 16 = two ∧ (r l).toNat / 2 ^ 16 = (c.val x.d l).toNat / 2 ^ 16)
      ∧ (x.sub = 2 → w = 8 → (r l).toNat / 2 ^ 16 = two ∧ (r l).toNat % 2 ^ 16 = (c.val x.d l).toNat % 2 ^ 16) := by
  refine ⟨_, (exec_vpack x s).trans (State.issue_vec hc rfl), fun l => ?_⟩
  have hnarrow {o : Opnd} (hw : fmtW x.fmt.toNat = 8) : c.narrow x o l < 2 ^ 8 := by
    rw [← hw]
    exact Nat.mod_lt _ (by positivity)
  have hold := (c.val x.d l).isLt
  dsimp only
  refine ⟨fun h => ?_, fun h hw => ?_, fun h hw => ?_⟩
  · rw [subN, h]
    exact BitVec.toNat_ofNat _ _
  all_goals
    have ha := hnarrow (o := x.a) hw
    have hb := hnarrow (o := x.b) hw
    rw [subN, h, hw, BitVec.toNat_ofNat]
    simp only [BitVec.ofNat_eq_ofNat, BitVec.toNat_ofNat, Nat.reducePow, Nat.reduceMod]
    omega

end Fields

/-- Settles O5: the carry forms, the fields and the packed words above; the pair forms are one pair result each. -/
theorem carryFieldPairAndPackInstructions : Obligations.CarryFieldPairAndPackInstructions := by
  refine ⟨fun s c x hc => ⟨exec_addSub_ci hc, exec_addSub_co hc, fun h _ => exec_addSub_cio hc h⟩,
    fun s c x hc => ⟨exec_vbfx_spec hc x, exec_vbfi_spec hc x, ?viadd64, ?vimul64, fun h => ?widens, fun h => ?narrows,
      exec_vpack_spec hc x⟩⟩
  case viadd64 => exact (exec_viadd64 x s).trans (State.issue_vec2 hc rfl)
  case vimul64 => exact (exec_vimul64 x s).trans (State.issue_vec2 hc rfl)
  case widens =>
    have h0 : subN x = 0 := by rw [subN, h]; rfl
    exact (exec_viext x s).trans (State.issue_vec2 hc (if_pos h0))
  case narrows =>
    have h0 : subN x ≠ 0 := fun e => h (BitVec.eq_of_toNat_eq e)
    exact (exec_viext x s).trans (State.issue_vec hc (if_neg h0))

end Sys2Proof.Machine
end

section
/-!
SUPPORT. Shuffles, votes, matches and broadcasts (R97, R99 to R101): results that go to lanes or to one scalar register, and the
value of a vote; O8 is assembled from these.
-/

namespace Sys2Proof.Machine

/-! ### The value of a vote (R101) -/

section Votes

variable (m : Mask) (f : Nat → Bool)

/-- Every participating lane votes true exactly if the true votes are the whole mask. -/
theorem votes_eq_mask_iff : (maskOf fun l => inMask m l && f l) = m ↔ ∀ l, inMask m l = true → f l = true := by
  refine ⟨fun h l hl => ?_, fun h => mask_ext fun l hl => ?_⟩
  · have hv : inMask (maskOf fun l => inMask m l && f l) l = true := by rw [h, hl]
    simp only [inMask_maskOf, Bool.and_eq_true] at hv
    exact hv.2.2
  · rw [inMask_maskOf, decide_eq_true hl, Bool.true_and]
    cases hm : inMask m l with
    | false => rfl
    | true => exact h l hm

theorem votes_eq_zero_iff : (maskOf fun l => inMask m l && f l) = 0#32 ↔ ∀ l, inMask m l = true → f l = false := by
  refine ⟨fun h l hl => ?_, fun h => maskOf_eq_zero fun l _ => ?_⟩
  · have hv : inMask (maskOf fun l => inMask m l && f l) l = false := by rw [h, inMask_zero]
    simpa [hl, inMask_lt hl] using hv
  · cases hm : inMask m l with
    | false => rfl
    | true => exact h l hm

theorem lanesOf_votes : lanesOf (maskOf fun l => inMask m l && f l) = (List.range 32).filter fun l => inMask m l && f l := by
  refine List.filter_congr fun l hl => ?_
  exact (inMask_maskOf _ l).trans (by rw [decide_eq_true (List.mem_range.1 hl), Bool.true_and])

theorem ite_one_zero_iff (b : Bool) : (if b then 1 else 0) = 1 ↔ b = true := by cases b <;> simp

theorem votes_agree_iff : ((∀ l, inMask m l = true → f l = true) ∨ ∀ l, inMask m l = true → f l = false) ↔
    ∀ k l, inMask m k = true → inMask m l = true → f k = f l := by
  constructor
  · rintro (h | h) k l hk hl
    · rw [h k hk, h l hl]
    · rw [h k hk, h l hl]
  · intro h
    by_cases hall : ∀ l, inMask m l = true → f l = true
    · exact .inl hall
    · push Not at hall
      obtain ⟨k, hk, hf⟩ := hall
      exact .inr fun l hl => (h l k hl hk).trans (by simpa using hf)

theorem voteResult_spec :
    let t := maskOf fun l => inMask m l && f l
    (voteResult 0 m t = 1 ↔ ∀ l, inMask m l = true → f l = true)
    ∧ voteResult 1 m t = t.toNat
    ∧ (voteResult 2 m t = 1 ↔ ∃ l, inMask m l = true ∧ f l = true)
    ∧ (voteResult 3 m t = 1 ↔ ∀ k l, inMask m k = true → inMask m l = true → f k = f l)
    ∧ voteResult 4 m t = ((List.range 32).filter fun l => inMask m l && f l).length
    ∧ (voteResult 5 m t = 1 ↔ ∀ l, inMask m l = true → f l = false) := by
  intro t
  have hevery : decide (t = m) = true ↔ ∀ l, inMask m l = true → f l = true :=
    decide_eq_true_iff.trans (votes_eq_mask_iff m f)
  have hnone : decide (t = 0) = true ↔ ∀ l, inMask m l = true → f l = false :=
    decide_eq_true_iff.trans (votes_eq_zero_iff m f)
  refine ⟨(ite_one_zero_iff _).trans hevery, rfl, (ite_one_zero_iff _).trans ?some, (ite_one_zero_iff _).trans ?same,
    congrArg List.length (lanesOf_votes m f), (ite_one_zero_iff _).trans hnone⟩
  case some =>
    rw [Bool.not_eq_true', ← Bool.not_eq_true, hnone]
    push Not
    simp only [ne_eq, Bool.not_eq_false]
  case same =>
    rw [Bool.or_eq_true, hevery, hnone]
    exact votes_agree_iff m f

end Votes

/-! ### Results to lanes or to a scalar register -/

section Results

variable {s : State} {c : Ctx} {f : Ctx → State → Res} (hc : s.ctx? = some c) {x : VForm}
include hc

/-- A result that goes to one scalar register, with the guard true in some lane. -/
theorem State.issue_scal_on {r : Fin 64} {w : W64} (hd : x.d = .s r) (hm : c.on x.g ≠ 0)
    (hf : f c (s.begin_ c) = c.scal (s.begin_ c) x.g x.d w) : s.issue f = .next (s.after c 1 0 fun g => g.setS r w) := by
  rw [State.issue_scal hc hf]
  simp only [if_neg hm, hd]
  rfl

theorem exec_vvote_lanes (hd : x.d.isS = false) (hm : c.on x.g ≠ 0) :
    exec (.vvote x) s = .next (s.after c 1 0 fun g => g.putO (c.on x.g) x.d fun _ =>
      BitVec.ofNat 32 (voteResult x.sub.toNat (c.on x.g) (maskOf fun l => inMask (c.on x.g) l && c.val x.a l != 0))) := by
  refine (exec_vvote x s).trans (State.issue_vec hc ((if_neg hm).trans ?_))
  split
  · next h => rw [h] at hd; cases hd
  · rfl

theorem exec_vvote_scalar {r : Fin 64} (hd : x.d = .s r) (hm : c.on x.g ≠ 0) :
    exec (.vvote x) s = .next (s.after c 1 0 fun g => g.setS r
      (BitVec.ofNat 64 (voteResult x.sub.toNat (c.on x.g) (maskOf fun l => inMask (c.on x.g) l && c.val x.a l != 0)))) := by
  refine (exec_vvote x s).trans (State.issue_scal_on hc hd hm ((if_neg hm).trans ?_))
  split
  · rfl
  · next h => exact absurd hd (h r)

theorem exec_vbcst_lanes (hd : x.d.isS = false) :
    exec (.vbcst x) s = .next (s.after c 1 0 fun g => g.putO (c.on x.g) x.d fun _ => c.supply x.a.vnum (c.lane1 x.g x.b)) := by
  refine (exec_vbcst x s).trans (State.issue_vec hc ?_)
  dsimp only
  split
  · next h => rw [h] at hd; cases hd
  · rfl

theorem exec_vbcst_scalar {r : Fin 64} (hd : x.d = .s r) (hm : c.on x.g ≠ 0) :
    exec (.vbcst x) s = .next (s.after c 1 0 fun g => g.setS r ((c.supply x.a.vnum (c.lane1 x.g x.b)).setWidth 64)) := by
  refine (exec_vbcst x s).trans (State.issue_scal_on hc hd hm ?_)
  dsimp only
  split
  · rfl
  · next h => exact absurd hd (h r)

end Results

/-- Settles O8: VSHFL and VMATCH are one vector result each; VVOTE and VBCST go to lanes or to a scalar register. -/
theorem shufflesVotesAndBroadcasts : Obligations.ShufflesVotesAndBroadcasts := by
  exact ⟨fun s c x hc => ⟨(exec_vshfl x s).trans (State.issue_vec hc rfl), (exec_vmatch x s).trans (State.issue_vec hc rfl),
    fun hd hm => ⟨exec_vvote_lanes hc hd hm, exec_vbcst_lanes hc hd⟩,
    fun r hd hm => ⟨exec_vvote_scalar hc hd hm, exec_vbcst_scalar hc hd hm⟩⟩, voteResult_spec⟩

end Sys2Proof.Machine
end

section
/-!
SUPPORT. Reductions and prefixes (R98): each level of the tree folds aligned segments of the leaves, for a combination that is
associative, and the prefixes fold the leaves before a lane; O9 is assembled from these.
-/

namespace Sys2Proof.Machine

/-! ### Nodes -/

theorem Node.value_eq (n : Node) (i : W32) : n.value i = (n.map (·.1)).getD i := by cases n <;> rfl

theorem Node.flags_eq (n : Node) : n.flags = (n.map (·.2)).getD 0 := by cases n <;> rfl

@[simp] theorem Node.join_none_left (op : W32 → W32 → W32 × Nat) (n : Node) : Node.join op none n = n := by cases n <;> rfl

@[simp] theorem Node.join_none_right (op : W32 → W32 → W32 × Nat) (n : Node) : Node.join op n none = n := by cases n <;> rfl

/-- An operation on words that raises no flag. -/
def flagless (op : W32 → W32 → W32) (x y : W32) : W32 × Nat := (op x y, 0)

/-- Joining is associative where the operation is and raises no flag. -/
theorem Node.join_assoc {op : W32 → W32 → W32} (h : ∀ x y z, op (op x y) z = op x (op y z)) (a b d : Node) :
    Node.join (flagless op) (Node.join (flagless op) a b) d = Node.join (flagless op) a (Node.join (flagless op) b d) := by
  cases a with
  | none => simp
  | some a =>
    cases b with
    | none => simp
    | some b =>
      cases d with
      | none => simp
      | some d => simp [Node.join, flagless, h, Nat.or_assoc]

/-- The leaves joined in lane order. -/
def joinAll (op : W32 → W32 → W32) (xs : List Node) : Node := xs.foldl (Node.join (flagless op)) none

section Tree

variable {op : W32 → W32 → W32} (h : ∀ x y z, op (op x y) z = op x (op y z))

include h in
theorem joinAll_append (xs ys : List Node) :
    joinAll op (xs ++ ys) = Node.join (flagless op) (joinAll op xs) (joinAll op ys) := by
  have hassoc : Std.Associative (Node.join (flagless op)) := ⟨Node.join_assoc h⟩
  unfold joinAll
  rw [List.foldl_append, ← List.foldl_assoc (op := Node.join (flagless op)), Node.join_none_right]

/-- The one leaf at a place, or nothing past the last. -/
theorem joinAll_one (op : W32 → W32 → W32) (xs : List Node) (i : Nat) : joinAll op ((xs.drop i).take 1) = xs.getD i none := by
  rw [List.take_one, List.head?_drop, List.getD_eq_getElem?_getD]
  cases xs[i]? with
  | none => rfl
  | some x => exact Node.join_none_left (flagless op) x

/-! ### The tree -/

/-- A level joins the nodes of the one below in pairs; a last node without a neighbour goes up alone. -/
theorem getD_treeLevel (f : W32 → W32 → W32 × Nat) : ∀ (xs : List Node) (i : Nat),
    (treeLevel f xs).getD i none = Node.join f (xs.getD (2 * i) none) (xs.getD (2 * i + 1) none)
  | [], i => by simp [treeLevel]
  | [x], i => by cases i <;> simp [treeLevel, Nat.mul_add]
  | x :: y :: xs, 0 => rfl
  | x :: y :: xs, i + 1 => getD_treeLevel f xs i

include h

/-- A node at level j joins its 2^j leaves in lane order. -/
theorem getD_treeAt (leaves : List Node) (j : Nat) : ∀ i,
    (treeAt (flagless op) leaves j).getD i none = joinAll op ((leaves.drop (i * 2 ^ j)).take (2 ^ j)) := by
  induction j with
  | zero => exact fun i => by simpa [treeAt] using (joinAll_one op leaves i).symm
  | succ j ih =>
    intro i
    have hright : (2 * i + 1) * 2 ^ j = i * 2 ^ (j + 1) + 2 ^ j := by ring
    have hleft : 2 * i * 2 ^ j = i * 2 ^ (j + 1) := by ring
    rw [treeAt, getD_treeLevel, ih, ih, hleft, hright, ← List.drop_drop, ← joinAll_append h, ← List.take_add, pow_succ, mul_two]

/-- A node joins on to the leaves before it. -/
theorem join_getD_treeAt (leaves : List Node) (j q : Nat) :
    Node.join (flagless op) (joinAll op (leaves.take (q * 2 ^ j))) ((treeAt (flagless op) leaves j).getD q none) =
      joinAll op (leaves.take ((q + 1) * 2 ^ j)) := by
  rw [getD_treeAt h, ← joinAll_append h, ← List.take_add, Nat.succ_mul]

/-- Once the segments larger than 2^j have been joined, the fold goes on to join all of the first n leaves. -/
theorem prefixFold_eq {leaves : List Node} {levels : List (List Node)} (n : Nat) : ∀ j,
    (∀ k, k ≤ j → levels.getD k [] = treeAt (flagless op) leaves k) →
    prefixFold (flagless op) levels n j (n / 2 ^ (j + 1) * 2 ^ (j + 1)) (joinAll op (leaves.take (n / 2 ^ (j + 1) * 2 ^ (j + 1)))) =
      joinAll op (leaves.take n) := by
  intro j
  induction j with
  | zero =>
    intro hlev
    have hjoin := join_getD_treeAt h leaves 0 (n / 2 * 2)
    rw [pow_zero, Nat.mul_one, Nat.mul_one] at hjoin
    rw [prefixFold, hlev 0 le_rfl, zero_add, pow_one, hjoin]
    split
    · next hodd => rw [show n / 2 * 2 + 1 = n by omega]
    · next heven => rw [show n / 2 * 2 = n by omega]
  | succ j ih =>
    intro hlev
    have ih := ih fun k hk => hlev k (by omega)
    have hhalf : n / 2 ^ (j + 1 + 1) = n / 2 ^ (j + 1) / 2 := by rw [pow_succ, Nat.div_div_eq_div_mul]
    have hwhole : n / 2 ^ (j + 1 + 1) * 2 ^ (j + 1 + 1) = n / 2 ^ (j + 1) / 2 * 2 * 2 ^ (j + 1) := by rw [hhalf]; ring
    rw [prefixFold, hlev (j + 1) le_rfl, hwhole, Nat.mul_div_cancel _ (by positivity), join_getD_treeAt h, ← Nat.succ_mul,
      Nat.testBit_eq_decide_div_mod_eq]
    generalize n / 2 ^ (j + 1) = q at ih ⊢
    by_cases hodd : q % 2 = 1
    · rw [if_pos (decide_eq_true hodd), show (q / 2 * 2).succ = q by omega, show q / 2 * 2 + 1 = q by omega]
      exact ih
    · rw [if_neg (by simpa using hodd), show q / 2 * 2 = q by omega]
      exact ih

theorem prefixOf_eq (leaves : List Node) {n : Nat} (hn : n < 64) :
    prefixOf (flagless op) leaves n = joinAll op (leaves.take n) := by
  have hzero : n / 2 ^ (5 + 1) * 2 ^ (5 + 1) = 0 := by omega
  have hlev : ∀ k, k ≤ 5 → ((List.range 6).map (treeAt (flagless op) leaves)).getD k [] = treeAt (flagless op) leaves k :=
    fun k hk => by simp [show k < 6 by omega]
  have hfold := prefixFold_eq h n 5 hlev
  rw [hzero] at hfold
  exact hfold

end Tree

/-! ### Leaves without flags -/

/-- Two words combined, an absent one left out. -/
def joinWords (op : W32 → W32 → W32) (a b : Option W32) : Option W32 :=
  match a, b with
  | none, y => y
  | x, none => x
  | some x, some y => some (op x y)

theorem joinAll_words (op : W32 → W32 → W32) (xs : List (Option W32)) :
    joinAll op (xs.map fun o => o.map fun w => (w, 0)) = (xs.foldl (joinWords op) none).map fun w => (w, 0) := by
  unfold joinAll
  rw [List.foldl_map]
  refine List.foldl_hom (init := none) (g₁ := joinWords op) (Option.map fun w => (w, 0)) fun a b => ?_
  cases a with
  | none => exact Node.join_none_left (flagless op) _
  | some a =>
    cases b with
    | none => rfl
    | some b => simp [Node.join, flagless, joinWords]

/-! ### The instructions -/

section Instructions

variable {s : State} {c : Ctx} (hc : s.ctx? = some c) (x : VForm)
include hc

theorem exec_vred_lanes (hm : c.on x.g ≠ 0) (hd : x.d.isS = false) :
    let red := (treeAt (combine x.fmt.toNat x.sub.toNat x.sat (rndOf x)) (c.leaves x) 5).getD 0 none
    exec (.vred x) s = .next (s.after c 1 0 fun g =>
      (g.putO (c.on x.g) x.d fun _ => red.value (identity x.fmt.toNat x.sub.toNat)).flags red.flags) := by
  refine (exec_vred x s).trans (State.issue_doneG hc ((if_neg hm).trans (congrArg _ (funext fun g => ?_))))
  split
  · next h => rw [h] at hd; cases hd
  · rfl

theorem exec_vred_scalar (hm : c.on x.g ≠ 0) {r : Fin 64} (hd : x.d = .s r) :
    let red := (treeAt (combine x.fmt.toNat x.sub.toNat x.sat (rndOf x)) (c.leaves x) 5).getD 0 none
    let w := red.value (identity x.fmt.toNat x.sub.toNat)
    exec (.vred x) s = .next (s.after c 1 0 fun g =>
      (g.setS r (if x.fmt.toNat < 8 ∧ fmtSigned x.fmt.toNat = true then w.signExtend 64 else w.setWidth 64)).flags red.flags) := by
  refine (exec_vred x s).trans (State.issue_doneG hc ((if_neg hm).trans (congrArg _ (funext fun g => ?_))))
  rw [hd]
  rfl

theorem exec_vprfx_spec :
    let p := fun (l : Nat) => prefixOf (combine x.fmt.toNat (x.sub.toNat % 8) x.sat (rndOf x)) (c.leaves x)
      (if x.sub.toNat ≥ 8 then l else l + 1)
    exec (.vprfx x) s = .next (s.after c 1 0 fun g =>
      (g.putO (c.on x.g) x.d fun l => (p l).value (identity x.fmt.toNat (x.sub.toNat % 8))).flags
        (orFlags (c.on x.g) fun l => (p l).flags)) :=
  (exec_vprfx x s).trans (State.issue_doneG hc rfl)

end Instructions

/-- Settles O9: the instructions give the tree's and the prefixes' nodes, and for an associative operation these join the
leaves in lane order. -/
theorem reductionsAndPrefixes : Obligations.ReductionsAndPrefixes := by
  refine ⟨fun s c x hc hm => ?instructions, fun op leaves h hlen => ⟨?tree, fun n hn => ?prefixes⟩⟩
  case instructions =>
    dsimp only
    simp only [← Node.value_eq, ← Node.flags_eq]
    exact ⟨exec_vred_lanes hc x hm, fun r => exec_vred_scalar hc x hm, exec_vprfx_spec hc x⟩
  case tree =>
    refine (getD_treeAt h _ 5 0).trans (Eq.trans (congrArg (joinAll op) ?_) (joinAll_words op leaves))
    exact List.take_of_length_le (by simp [hlen])
  case prefixes =>
    refine (prefixOf_eq h _ (by omega)).trans (Eq.trans (congrArg (joinAll op) ?_) (joinAll_words op (leaves.take n)))
    exact List.map_take.symm

end Sys2Proof.Machine
end

section
/-!
SUPPORT. The scale tiles of VQNT and VDQNT (R124 to R126): each with the layout of its slot and runs that the registers hold;
O11 is assembled from these.
-/

namespace Sys2Proof.Machine

/-- The tile that VQNT reads: the elements of a lane from register a in the guard-true lanes of m, +0 in the others (R125). -/
def Ctx.tileElems (c : Ctx) (m : Mask) (a per : Nat) : List FVal :=
  ((List.range 32).map fun l => (List.range per).map fun e =>
    if inMask m l then f32.decode ((c.r.lane l).vreg (a + e)).toNat else FVal.fin false 0 0).flatten

section Tile

variable {s : State} {c : Ctx} (hc : s.ctx? = some c) (x : VForm) {t : TileLayout}
  (ht : tileLayout (c.slot (x.fmt.toNat % 8)) = some t)
include hc ht

/-- VQNT in some lane: packed elements and scale pair, all of them of the tile as it stood before (R125). -/
theorem exec_vqnt_tile (hd : x.d.vnum + t.nd ≤ 127) (ha : x.a.vnum + t.per ≤ 128) (hm : c.on x.g ≠ 0) :
    let q := t.k.quantise (c.tileElems (c.on x.g) x.a.vnum t.per)
    exec (.vqnt x) s = .next (s.after c 1 0 fun g => (g.modLanes (c.on x.g) fun l y =>
      ((List.range t.nd).foldl (fun y j =>
        y.setV (x.d.vnum + j) (t.pack ((q.2.2.1.drop (l * t.per)).take t.per) j)) y).setV
        (x.d.vnum + t.nd) (BitVec.ofNat 32 (q.1 * 256 + q.2.1))).flags q.2.2.2) := by
  refine (exec_vqnt x s).trans (State.issue_doneG hc ?_)
  dsimp only
  rw [ht]
  dsimp only
  rw [if_neg (by omega), if_neg hm]
  rfl

theorem exec_vqnt_nothing (hd : x.d.vnum + t.nd ≤ 127) (ha : x.a.vnum + t.per ≤ 128) (hm : c.on x.g = 0) :
    exec (.vqnt x) s = .next (s.after c 1 0 id) := by
  refine (exec_vqnt x s).trans (State.issue_nothing hc ?_)
  dsimp only
  rw [ht]
  dsimp only
  rw [if_neg (by omega), if_pos hm]

/-- VDQNT: the exact value of each packed element of the lane (R126). -/
theorem exec_vdqnt_tile (ha : x.a.vnum + t.nd ≤ 127) (hd : x.d.vnum + t.per ≤ 128) :
    exec (.vdqnt x) s = .next (s.after c 1 0 fun g => g.modLanes (c.on x.g) fun l y =>
      let ex := ((c.r.lane l).vreg (x.a.vnum + t.nd)).toNat
      (List.range t.per).foldl (fun y e => y.setV (x.d.vnum + e)
        (BitVec.ofNat 32 (kbfToF32 (t.k.decode (ex % 256) (ex / 256 % 256) (c.packed t x.a.vnum l e))))) y) := by
  refine (exec_vdqnt x s).trans (State.issue_doneG hc ?_)
  dsimp only
  rw [ht]
  dsimp only
  rw [if_neg (by omega)]

end Tile

/-- Settles O11: VQNT quantises its tile, or passes where no lane's guard is true; VDQNT decodes its own. -/
theorem tileQuantisation : Obligations.TileQuantisation :=
  fun _ _ x _ hc ht => ⟨exec_vqnt_tile hc x ht, exec_vqnt_nothing hc x ht, exec_vdqnt_tile hc x ht⟩

end Sys2Proof.Machine
end

section
/-!
SUPPORT. Rounding to an integer and operations on NaNs (R105, R108, R110): what each rounding mode gives, and the canonical NaN
of each operation with a NaN operand; O12 is assembled from these.
-/

namespace Sys2Proof.Machine

/-! ### Rounding (R108) -/

section Rounding

variable (neg : Bool) (m k : Nat)

theorem roundShift_inexact (mode : Nat) : (roundShift mode neg m k).2 = true ↔ ¬ m % 2 ^ k = 0 := by
  simp [roundShift]

/-- RNE rounds up the upper half of a unit, and the middle of an odd one. -/
theorem roundShift_rne : (roundShift 0 neg m k).1 =
    if 2 ^ k < 2 * (m % 2 ^ k) ∨ (2 * (m % 2 ^ k) = 2 ^ k ∧ m / 2 ^ k % 2 = 1) then m / 2 ^ k + 1 else m / 2 ^ k := by
  simp [roundShift]

theorem roundShift_rtz : (roundShift 1 neg m k).1 = m / 2 ^ k := rfl

theorem roundShift_rup : (roundShift 2 neg m k).1 =
    if m % 2 ^ k = 0 ∨ neg = true then m / 2 ^ k else m / 2 ^ k + 1 := by
  cases neg <;> simp [roundShift]

theorem roundShift_rdn : (roundShift 3 neg m k).1 =
    if m % 2 ^ k = 0 ∨ neg = false then m / 2 ^ k else m / 2 ^ k + 1 := by
  cases neg <;> simp [roundShift]

/-- RNE on a quotient q and a remainder r below the unit u: at most half a unit away, and even on a tie. -/
theorem rne_nearest {u q r : Nat} (hr : r < u) :
    let n := if u < 2 * r ∨ (2 * r = u ∧ q % 2 = 1) then q + 1 else q
    (2 * n * u ≤ 2 * (u * q + r) + u ∧ 2 * (u * q + r) ≤ 2 * n * u + u)
    ∧ (2 * n * u = 2 * (u * q + r) + u ∨ 2 * (u * q + r) = 2 * n * u + u → n % 2 = 0) := by
  have hq : 2 * q * u = 2 * (u * q) := by ring
  have hq1 : 2 * (q + 1) * u = 2 * (u * q) + 2 * u := by ring
  dsimp only
  split
  case isTrue hup => rw [hq1]; omega
  case isFalse hdown => rw [hq]; omega

theorem roundShift_nearest :
    let near := (roundShift 0 neg m k).1
    (2 * near * 2 ^ k ≤ 2 * m + 2 ^ k ∧ 2 * m ≤ 2 * near * 2 ^ k + 2 ^ k)
    ∧ (2 * near * 2 ^ k = 2 * m + 2 ^ k ∨ 2 * m = 2 * near * 2 ^ k + 2 ^ k → near % 2 = 0) := by
  have h := rne_nearest (q := m / 2 ^ k) (Nat.mod_lt m (Nat.two_pow_pos k))
  rw [Nat.div_add_mod, ← roundShift_rne neg m k] at h
  exact h

end Rounding

/-! ### NaNs (R105, R110) -/

section Nans

variable (f : FloatFmt) (r : Rnd) {x y : FVal}

theorem FVal.isNan_iff : x.isNan = true ↔ ∃ sig, x = .nan sig := by
  cases x <;> simp [FVal.isNan]

theorem snanFlag_pair (x y : FVal) : snanFlag [x, y] = if x.isSnan || y.isSnan then flagNV else 0 := by
  simp [snanFlag]

/-- A binary operation with a NaN operand, from its value with a NaN on either side. -/
theorem FloatFmt.op_nan {op : FVal → FVal → Nat × Nat}
    (left : ∀ sig y, op (.nan sig) y = (f.nan, snanFlag [.nan sig, y]))
    (right : ∀ x sig, op x (.nan sig) = (f.nan, snanFlag [x, .nan sig])) (h : (x.isNan || y.isNan) = true) :
    op x y = (f.nan, if x.isSnan || y.isSnan then flagNV else 0) := by
  rw [← snanFlag_pair]
  rw [Bool.or_eq_true, FVal.isNan_iff, FVal.isNan_iff] at h
  obtain ⟨sig, rfl⟩ | ⟨sig, rfl⟩ := h
  · exact left sig y
  · exact right x sig

theorem FloatFmt.addV_nan (h : (x.isNan || y.isNan) = true) :
    f.addV r x y = (f.nan, if x.isSnan || y.isSnan then flagNV else 0) :=
  f.op_nan (fun _ _ => rfl) (fun x _ => by cases x <;> rfl) h

theorem FloatFmt.mulV_nan (h : (x.isNan || y.isNan) = true) :
    f.mulV r x y = (f.nan, if x.isSnan || y.isSnan then flagNV else 0) :=
  f.op_nan (fun _ _ => rfl) (fun x _ => by cases x <;> rfl) h

theorem FloatFmt.divV_nan (h : (x.isNan || y.isNan) = true) :
    f.divV r x y = (f.nan, if x.isSnan || y.isSnan then flagNV else 0) :=
  f.op_nan (fun _ _ => rfl) (fun x _ => by cases x <;> rfl) h

@[simp] theorem FloatFmt.sqrtV_nan (sig : Bool) : f.sqrtV r (.nan sig) = (f.nan, if sig then flagNV else 0) := rfl
@[simp] theorem FloatFmt.convert_nan (sig : Bool) : f.convert r (.nan sig) = (f.nan, if sig then flagNV else 0) := rfl

end Nans

@[simp] theorem nan_f32 : f32.nan = 0x7FC0_0000 := by decide
@[simp] theorem nan_f16 : f16.nan = 0x7E00 := by decide
@[simp] theorem nan_bf16 : bf16.nan = 0x7FC0 := by decide
@[simp] theorem nan_f64 : f64.nan = 0x7FF8_0000_0000_0000 := by decide

/-- Settles O12: the integer that each mode gives, and the result of each operation on a NaN. -/
theorem floatResultsRoundAndNansAreCanonical : Obligations.FloatResultsRoundAndNansAreCanonical := by
  refine ⟨fun neg m k => ?rounding, fun f r x y h => ?nans⟩
  case rounding =>
    obtain ⟨hnear, heven⟩ := roundShift_nearest neg m k
    exact ⟨hnear, heven, roundShift_rtz neg m k, roundShift_rup neg m k, roundShift_rdn neg m k,
      roundShift_inexact neg m k⟩
  case nans =>
    exact ⟨f.addV_nan r h, f.mulV_nan r h, f.divV_nan r h, fun sig => ⟨f.sqrtV_nan r sig, f.convert_nan r sig⟩,
      fun hf => hf ▸ nan_f32, fun hf => hf ▸ nan_f16, fun hf => hf ▸ nan_bf16, fun hf => hf ▸ nan_f64⟩

end Sys2Proof.Machine
end

section
/-!
SUPPORT. The canonical form of memory (log 1): writes keep that of device memory's bytes and keys, and a state has it by its two
memories and its checkpoint alone.
-/

namespace Sys2Proof.Machine

/-! ### Device memory -/

theorem assocWf_cons (c : Nat × Nat) (m : List (Nat × Nat)) :
    assocWf (c :: m) = true ↔ c.2 ≠ 0 ∧ (∀ d ∈ m, c.1 < d.1) ∧ assocWf m = true := by
  induction m generalizing c with
  | nil => simp [assocWf]
  | cons d m ih =>
    simp only [assocWf, Bool.and_eq_true, bne_iff_ne, decide_eq_true_eq, List.mem_cons, forall_eq_or_imp, and_assoc]
    constructor
    · rintro ⟨hc, hd, hm⟩
      exact ⟨hc, hd, fun e he => Nat.lt_trans hd (((ih d).1 hm).2.1 e he), hm⟩
    · rintro ⟨hc, hd, -, hm⟩
      exact ⟨hc, hd, hm⟩

/-- What is stored under a key lists what was listed, or the entry stored. -/
theorem mem_assocPut {m : List (Nat × Nat)} {a v : Nat} {d : Nat × Nat} (h : d ∈ assocPut m a v) : d ∈ m ∨ d = (a, v) := by
  induction m with
  | nil => by_cases hv : v = 0 <;> simp_all [assocPut]
  | cons c m ih =>
    unfold assocPut at h
    split at h
    · by_cases hv : v = 0
      · exact Or.inl (by simpa [hv] using h)
      · simpa [hv, or_comm, or_assoc, or_left_comm] using h
    · split at h
      · by_cases hv : v = 0
        · exact Or.inl (List.mem_cons_of_mem _ (by simpa [hv] using h))
        · rcases List.mem_cons.1 (by simpa [hv] using h : d ∈ (a, v) :: m) with h | h
          · exact Or.inr h
          · exact Or.inl (List.mem_cons_of_mem _ h)
      · rcases List.mem_cons.1 h with h | h
        · exact Or.inl (h ▸ List.mem_cons_self)
        · exact (ih h).imp_left (List.mem_cons_of_mem _)

theorem assocWf_assocPut {m : List (Nat × Nat)} (a v : Nat) (h : assocWf m = true) : assocWf (assocPut m a v) = true := by
  induction m with
  | nil => by_cases hv : v = 0 <;> simp [assocPut, assocWf, hv]
  | cons c m ih =>
    obtain ⟨hc, hm, hwf⟩ := (assocWf_cons c m).1 h
    unfold assocPut
    split
    next hlt =>
      split
      · exact h
      next hv =>
        refine (assocWf_cons _ _).2 ⟨hv, ?_, h⟩
        rintro d (_ | ⟨_, hd⟩)
        · exact hlt
        · exact Nat.lt_trans hlt (hm d hd)
    next =>
      split
      next he =>
        split
        · exact hwf
        next hv => exact (assocWf_cons _ _).2 ⟨hv, he ▸ hm, hwf⟩
      next hlt hne =>
        refine (assocWf_cons _ _).2 ⟨hc, fun d hd => ?_, ih hwf⟩
        rcases mem_assocPut hd with hd | rfl
        · exact hm d hd
        · dsimp only; omega

namespace Store

variable {m : Store} {k pa : Nat}

theorem wf_iff : m.wf = true ↔ Memory.wf m.cells = true ∧ assocWf m.keys = true := Bool.and_eq_true_iff

theorem put_keeps_wf {v : Byte} (h : m.wf = true) : (m.put k pa v).wf = true := by
  obtain ⟨hcells, hkeys⟩ := wf_iff.1 h
  refine wf_iff.2 ⟨Store.wf_put m k pa v hcells, ?_⟩
  unfold Store.put
  split
  · exact hkeys
  · exact assocWf_assocPut _ _ hkeys

theorem write_keeps_wf {bs : List Byte} (h : m.wf = true) : (m.write k pa bs).wf = true := by
  induction bs generalizing m pa with
  | nil => exact h
  | cons b bs ih => exact ih (put_keeps_wf h)

theorem unpoison_write_keeps_wf {a n : Nat} {bs : List Byte} (h : m.wf = true) : ((m.write k pa bs).unpoison a n).wf = true :=
  write_keeps_wf (m := m) h

theorem writeMasked_keeps_wf {n : Nat} {bs : List Byte} (h : m.wf = true) : (m.writeMasked k pa bs n).wf = true := by
  unfold Store.writeMasked
  refine List.foldlRecOn (motive := fun m : Store => m.wf = true) _ _
    (List.foldlRecOn (motive := fun m : Store => m.wf = true) _ _ h fun m hm i _ => ?_) fun m hm i _ => ?_
  · split
    · exact put_keeps_wf hm
    · exact hm
  · split <;> exact hm

end Store

/-! ### States that are put together -/

namespace State

section Fields

variable (s : State) (cur : List Issue) (agenda : List Instr) (free nextId cc time : Nat) (served : List (Nat × Nat))
  (blocks : List Block) (reqs : List Req) (entries : List Entry) (faults : List FaultEntry) (reports : List Report)
  (tlb : List TlbEntry) (regions : List Region) (home : List HomeReq) (cmds : List Cmd) (probes : List Probe)
  (pres : List PreRead) (codebuf : List CodeLine) (mtxq : List MtxOp) (ics : Vector Incumbent 16) (offers : List Offer)
  (cores : Vector CoreSt 144) (fab : Fabric) (fw : Firmware)

/-- Only the two memories and the checkpoint count, so a state with any of its other fields changed has the form as before. -/
@[simp] theorem canonical_mk : State.canonical ⟨cur, agenda, free, nextId, cc, time, served, blocks, s.mem, s.host, reqs,
    entries, faults, reports, tlb, regions, home, cmds, probes, pres, codebuf, mtxq, ics, offers, cores, fab, fw, s.ckpt⟩ ↔
    s.canonical := Iff.rfl

end Fields

@[simp] theorem canonical_ite {p : Prop} [Decidable p] {s t : State} :
    (if p then s else t).canonical ↔ if p then s.canonical else t.canonical := by split <;> rfl

theorem canonical_foldl {α : Type} {f : State → α → State} (hf : ∀ t x, (f t x).canonical ↔ t.canonical) {s : State}
    {xs : List α} : (xs.foldl f s).canonical ↔ s.canonical :=
  State.foldl_of_step (keeps := fun s t => t.canonical ↔ s.canonical) (fun _ => Iff.rfl) (fun a b => b.trans a) hf xs s

theorem canonical.foldl {α : Type} {f : State → α → State} (hf : ∀ t x, t.canonical → (f t x).canonical) {s : State}
    {xs : List α} (h : s.canonical) : (xs.foldl f s).canonical :=
  State.foldl_of_step (keeps := fun s t => s.canonical → t.canonical) (fun _ => id) (fun a b => b ∘ a) hf xs s h

theorem canonical_of_snd_eq {α : Type} {p : α × State} {x : α} {t : State} (e : p = (x, t)) : t.canonical ↔ p.2.canonical := by
  rw [e]

variable {s : State}

theorem canonical.storeMem (h : s.canonical) (key pa : Nat) (bs : List Byte) :
    State.canonical { s with mem := s.mem.write key pa bs } := by
  obtain ⟨hm, hrest⟩ := h
  exact ⟨Store.write_keeps_wf hm, hrest⟩

theorem canonical.writeMem (h : s.canonical) (key pa n : Nat) (bs : List Byte) :
    State.canonical { s with mem := (s.mem.write key pa bs).unpoison pa n } := by
  obtain ⟨hm, hrest⟩ := h
  exact ⟨Store.unpoison_write_keeps_wf hm, hrest⟩

@[simp] theorem canonical.writeHost (h : s.canonical) (a : Nat) (bs : List Byte) :
    State.canonical { s with host := s.host.write a bs } := by
  obtain ⟨hm, hh, hc⟩ := h
  exact ⟨hm, Memory.wf_write _ _ _ hh, hc⟩

end State

/-- What an engine has read, or the state in which its command has stopped, is canonical. -/
def EngineRead.canonical : Except State (List Byte × State) → Prop
  | .error t => t.canonical
  | .ok (_, t) => t.canonical

theorem EngineRead.canonical_foldl {α : Type} {f : Except State (List Byte × State) → α → Except State (List Byte × State)}
    (hf : ∀ st x, EngineRead.canonical st → EngineRead.canonical (f st x)) {s : State} {xs : List α}
    (h : s.canonical) : EngineRead.canonical (xs.foldl f (.ok ([], s))) :=
  List.foldlRecOn (motive := EngineRead.canonical) xs f (b := .ok ([], s)) h fun st hst x _ => hf st x hst

/-- A check that fails leaves no result. -/
theorem ok_of_ite_error {ε α : Type} {p : Prop} [Decidable p] {x : ε} {y : Except ε α} {z : α}
    (e : (if p then .error x else y) = Except.ok z) : y = .ok z := by
  split at e
  · cases e
  · exact e

end Sys2Proof.Machine
end

section
/-!
SUPPORT. The canonical form of memory under the model's operations on a state, in the order in which the model defines them:
canonical_f where f writes no memory, canonical.f where f may write memory, the host's memory or the checkpoint.
-/

namespace Sys2Proof.Machine
namespace State

variable {s : State}

/-! ### Blocks, rings, kills, traps and the course of an instruction -/

@[simp] theorem canonical_setBlock {b} : (s.setBlock b).canonical ↔ s.canonical := Iff.rfl
@[simp] theorem canonical_modBlock {id f} : (s.modBlock id f).canonical ↔ s.canonical := Iff.rfl
@[simp] theorem canonical_modGroup {id i f} : (s.modGroup id i f).canonical ↔ s.canonical := Iff.rfl
@[simp] theorem canonical_modLaunch {id f} : (s.modLaunch id f).canonical ↔ s.canonical := Iff.rfl
@[simp] theorem canonical_modContext {id f} : (s.modContext id f).canonical ↔ s.canonical := Iff.rfl
@[simp] theorem canonical_modRegion {launch num f} : (s.modRegion launch num f).canonical ↔ s.canonical := Iff.rfl
@[simp] theorem canonical_setFn {f x} : (s.setFn f x).canonical ↔ s.canonical := Iff.rfl
@[simp] theorem canonical.ringWrite (h : s.canonical) {f e} : (s.ringWrite f e).canonical := canonical_setFn.2 (h.writeHost ..)

@[simp] theorem canonical.post (h : s.canonical) {f e} : (s.post f e).canonical := by
  simp [State.post, h]

@[simp] theorem canonical.drainEvents (h : s.canonical) {f n} : (s.drainEvents f n).canonical := by
  induction n generalizing s with
  | zero => exact h
  | succ n ih =>
    unfold State.drainEvents
    split
    · exact h
    · simp [h, ih]

@[simp] theorem canonical_bindIcs {r} : (s.bindIcs r).canonical ↔ s.canonical := Iff.rfl
@[simp] theorem canonical_stopBlocks {launch} : (s.stopBlocks launch).canonical ↔ s.canonical := Iff.rfl
@[simp] theorem canonical_resetRegions {launch} : (s.resetRegions launch).canonical ↔ s.canonical := Iff.rfl
@[simp] theorem canonical_releaseCredit {launch ctx} : (s.releaseCredit launch ctx).canonical ↔ s.canonical := Iff.rfl
@[simp] theorem canonical_unqueue {launch} : (s.unqueue launch).canonical ↔ s.canonical := Iff.rfl

@[simp] theorem canonical.endKill (h : s.canonical) {launch} : (s.endKill launch).canonical := by
  unfold State.endKill
  split
  · exact h
  · split
    · exact h
    · simp [h, -State.post_mem]

@[simp] theorem canonical.kill (h : s.canonical) {launch blk grp code more} : (s.kill launch blk grp code more).canonical := by
  have answers : ∀ {t : State} {as : List (Nat × W32 × Bool)}, t.canonical → (as.foldl (fun t a =>
      t.post a.1 (if a.2.2 then ⟨a.2.1, 5, 0, []⟩ else ⟨a.2.1, 3, code, []⟩)) t).canonical :=
    fun ht => State.canonical.foldl (fun _ _ hu => hu.post) ht
  unfold State.kill
  split
  · exact h
  · dsimp only
    split
    · exact h
    · exact canonical.endKill (by simp [h, answers])

@[simp] theorem canonical.trap (h : s.canonical) {blk grp r} : (s.trap blk grp r).canonical := by
  unfold State.trap
  split
  · dsimp only
    split
    · simp [h]
    · split <;> simp [h]
  · exact h

@[simp] theorem canonical_fresh : s.fresh.canonical ↔ s.canonical := Iff.rfl
@[simp] theorem canonical_freeVal : s.freeVal.2.canonical ↔ s.canonical := Iff.rfl
@[simp] theorem canonical_finish {c n own} : (s.finish c n own).canonical ↔ s.canonical := Iff.rfl
@[simp] theorem canonical_begin {c} : (s.begin_ c).canonical ↔ s.canonical := Iff.rfl
@[simp] theorem canonical_hold {c} : (s.hold c).canonical ↔ s.canonical := Iff.rfl
@[simp] theorem canonical_unregister {launch num v} : (s.unregister launch num v).canonical ↔ s.canonical := Iff.rfl
@[simp] theorem canonical_withdrawHome {q} : (s.withdrawHome q).canonical ↔ s.canonical := by simp [State.withdrawHome]

@[simp] theorem canonical_homeEffect {q} : (s.homeEffect q).canonical ↔ s.canonical := by
  unfold State.homeEffect
  split <;> simp

@[simp] theorem canonical_homeIssue {q} : (s.homeIssue q).canonical ↔ s.canonical := by simp [State.homeIssue]
@[simp] theorem canonical_abandon {i} : (s.abandon i).canonical ↔ s.canonical := by simp [State.abandon, canonical_foldl]

/-! ### Translation and homes -/

@[simp] theorem canonical_translate {core c va} : (s.translate core c va).2.canonical ↔ s.canonical := by
  unfold State.translate
  dsimp only
  split
  · split <;> exact Iff.rfl
  · split
    · exact Iff.rfl
    · split
      · exact Iff.rfl
      · dsimp only
        split <;> exact Iff.rfl

@[simp] theorem canonical_reachSlice {ctx va pa} : (s.reachSlice ctx va pa).canonical ↔ s.canonical := by
  unfold State.reachSlice
  split <;> simp

@[simp] theorem canonical.writeHome (h : s.canonical) {pa key bs} : (s.writeHome pa key bs).canonical := by
  unfold State.writeHome
  split
  · exact h.writeHost ..
  · split
    · split
      · exact h
      · exact h.writeMem ..
    · exact h
  · exact h.writeMem ..

@[simp] theorem canonical.report (h : s.canonical) {ctx core va kind launch blk} :
    (s.report ctx core va kind launch blk).canonical := by
  simp [State.report, h]

@[simp] theorem canonical_fetch {core l off} : (s.fetch core l off).2.canonical ↔ s.canonical := by
  unfold State.fetch
  split
  · exact Iff.rfl
  · rename_i c hc
    have ht : (s.translate core c (l.codeVa off)).2.canonical ↔ s.canonical := canonical_translate
    dsimp only
    cases (s.translate core c (l.codeVa off)).1 with
    | invalid => exact ht
    | malformed => exact ht
    | unmapped => exact ht
    | ok pa key w xb =>
      dsimp only
      split
      · exact ht
      · split <;> try exact ht
        split <;> exact ht

/-! ### Reads before an instruction issues -/

@[simp] theorem canonical_dropPre {id} : (s.dropPre id).canonical ↔ s.canonical := Iff.rfl
@[simp] theorem canonical_beginPre {p core m} : (s.beginPre p core m).canonical ↔ s.canonical := Iff.rfl

@[simp] theorem canonical_askCode {b l grp m off} : (s.askCode b l grp m off).canonical ↔ s.canonical := by
  simp [State.askCode]

/-! ### Versions -/

@[simp] theorem canonical_publish {launch num v} : (s.publish launch num v).canonical ↔ s.canonical := Iff.rfl
@[simp] theorem canonical_dropHome {id} : (s.dropHome id).canonical ↔ s.canonical := Iff.rfl

@[simp] theorem canonical_askHome {c : Ctx} {m region ver op done waits dst hf} :
    (c.askHome s m region ver op done waits dst hf).canonical ↔ s.canonical := by
  simp [Ctx.askHome]

/-! ### Matrix operations -/

@[simp] theorem canonical_tstStores {o} : (s.tstStores o).canonical ↔ s.canonical := by
  unfold State.tstStores
  split <;> simp

@[simp] theorem canonical_mtxPerform {o} : (s.mtxPerform o).canonical ↔ s.canonical := by
  unfold State.mtxPerform
  split
  · exact Iff.rfl
  · dsimp only
    split
    · split <;> simp [canonical_foldl]
    · simp
    · simp
    · simp
    · simp [canonical_foldl]
    · simp
    · simp

@[simp] theorem canonical_mtxAdvance {blk n} : (s.mtxAdvance blk n).canonical ↔ s.canonical := by
  induction n generalizing s with
  | zero => exact Iff.rfl
  | succ n ih =>
    unfold State.mtxAdvance
    split
    · exact Iff.rfl
    · rw [ih, canonical_mtxPerform]

@[simp] theorem canonical_mtxAccept {o} : (s.mtxAccept o).canonical ↔ s.canonical := by simp [State.mtxAccept]

@[simp] theorem canonical_mmaIssue {b r shadow x sh ms} : (s.mmaIssue b r shadow x sh ms).canonical ↔ s.canonical := by
  simp [State.mmaIssue, canonical_foldl]

/-! ### Retrieval -/

theorem canonical_setFamily {t : State} {blk launch n bs} (e : s.setFamily blk launch n bs = some t) :
    t.canonical ↔ s.canonical := by
  unfold State.setFamily at e
  dsimp only at e
  split at e
  · cases e; simp
  · cases e

theorem canonical_landUpdate {t : State} {old w v} (e : s.landUpdate old w v = some t) : t.canonical ↔ s.canonical := by
  obtain ⟨r, -, rfl⟩ := Option.map_eq_some_iff.1 e
  simp

@[simp] theorem canonical_runProbe {p pack r} : (s.runProbe p pack r).canonical ↔ s.canonical := by
  unfold State.runProbe
  split <;> simp

theorem canonical_runSide {t : State} {p r} (e : s.runSide p r = some t) : t.canonical ↔ s.canonical := by
  unfold State.runSide at e
  split at e
  · cases e; exact Iff.rfl
  · obtain ⟨u, hu, rfl⟩ := Option.map_eq_some_iff.1 e
    simp [canonical_foldl, canonical_landUpdate hu]

@[simp] theorem canonical_settle {blk grp id} : (s.settle blk grp id).canonical ↔ s.canonical := by
  unfold State.settle
  split
  · simp
  · split <;> simp

@[simp] theorem canonical_modHome {id f} : (s.modHome id f).canonical ↔ s.canonical := Iff.rfl
@[simp] theorem canonical_answered {q} : (s.answered q).canonical ↔ s.canonical := by simp [State.answered]

/-! ### Tasks -/

@[simp] theorem canonical.ringStore (h : s.canonical) {l va bs} : (s.ringStore l va bs).canonical := by
  unfold State.ringStore
  split
  · exact h
  · split <;> simp [h]

@[simp] theorem canonical.appendTask (h : s.canonical) {b l dws} : (s.appendTask b l dws).canonical := by
  simp [State.appendTask, h]

/-! ### Fetching an instruction -/

@[simp] theorem canonical_fetchWords {core l off n} : (s.fetchWords core l off n).2.canonical ↔ s.canonical := by
  induction n generalizing s off with
  | zero => exact Iff.rfl
  | succ n ih =>
    have hf : (s.fetch core l off).2.canonical ↔ s.canonical := canonical_fetch
    unfold State.fetchWords
    split
    · rename_i w t e
      rw [e] at hf
      have hr := (ih (s := t) (off := off + 8)).trans hf
      split <;> rename_i e' <;> rw [e'] at hr <;> exact hr
    · rename_i e; rw [e] at hf; exact hf

@[simp] theorem canonical_fetchInstr {core l i} : (s.fetchInstr core l i).2.canonical ↔ s.canonical := by
  have hf : (s.fetch core l i.pc.toNat).2.canonical ↔ s.canonical := canonical_fetch
  unfold State.fetchInstr
  dsimp only
  split
  · exact Iff.rfl
  · split
    · rename_i w t e
      rw [e] at hf
      split
      · split
        · exact hf
        · have hr : (t.fetchWords core l (i.pc.toNat + 8) 4).2.canonical ↔ s.canonical := canonical_fetchWords.trans hf
          split
          · rename_i e'
            rw [e'] at hr
            split <;> exact hr
          · rename_i e'; rw [e'] at hr; exact hr
          · rename_i e'; rw [e'] at hr; exact hr
      · split <;> exact hf
    · rename_i e; rw [e] at hf; exact hf

@[simp] theorem canonical.parkFetch (h : s.canonical) {b l grp m off reason} :
    (s.parkFetch b l grp m off reason).canonical := by
  simp [State.parkFetch, h]

@[simp] theorem canonical_lateFetch {blk grp l m off c} : (s.lateFetch blk grp l m off c).canonical ↔ s.canonical := by
  unfold State.lateFetch
  dsimp only
  rw [canonical_modGroup, canonical_fresh]
  split <;> simp

theorem canonical_askFirst {t : State} {b l grp m offs} (e : s.askFirst b l grp m offs = some t) :
    t.canonical ↔ s.canonical := by
  obtain ⟨o, -, rfl⟩ := Option.map_eq_some_iff.1 e
  simp

@[simp] theorem canonical.fetchHead (h : s.canonical) : s.fetchHead.2.canonical := by
  unfold State.fetchHead
  dsimp only
  split
  · exact h
  · rename_i c hc
    have hf : (s.fetchInstr c.b.core c.l c.iss).2.canonical := by simpa using h
    split
    · split
      · exact hf
      · split
        · simp [hf]
        · split
          · exact hf
          · split
            next e => exact (canonical_askFirst e).2 hf
            next => exact hf
    · simp [hf]
    · simp [hf]
    · simp [hf]
    · exact hf
    · simp [hf]

/-! ### Issue cycles -/

@[simp] theorem canonical_clockGroups {core quad} : (s.clockGroups core quad).canonical ↔ s.canonical := by
  simp [State.clockGroups, canonical_foldl]

@[simp] theorem canonical.deliver (h : s.canonical) {b grp} : (s.deliver b grp).canonical := by
  unfold State.deliver
  dsimp only
  split
  · simp [h]
  · split <;> simp [h]

@[simp] theorem canonical.letGo (h : s.canonical) {b l grp x old} : (s.letGo b l grp x old).canonical := by
  unfold State.letGo
  split <;> simp [h]

@[simp] theorem canonical.vote (h : s.canonical) {b l grp} : (s.vote b l grp).canonical := by
  unfold State.vote
  dsimp only
  split
  · exact h
  · split <;> simp [h]

@[simp] theorem canonical_meter : s.meter.canonical ↔ s.canonical := by
  simp [State.meter, canonical_foldl]

@[simp] theorem canonical_sense : s.sense.canonical ↔ s.canonical := by
  unfold State.sense
  split <;> simp

@[simp] theorem canonical_nextCc : s.nextCc.canonical ↔ s.canonical := by simp [State.nextCc]
@[simp] theorem canonical_tickQuad {core quad} : (s.tickQuad core quad).canonical ↔ s.canonical := Iff.rfl

@[simp] theorem canonical.issueCycle (h : s.canonical) {core quad} : (s.issueCycle core quad).canonical := by
  unfold State.issueCycle
  rw [canonical_tickQuad]
  split
  · simp [h]
  · dsimp only
    split <;> simp [h]

/-! ### Groups -/

@[simp] theorem canonical_cntAt {core l n} : (s.cntAt core l n).2.canonical ↔ s.canonical := by
  unfold State.cntAt
  split <;> simp

@[simp] theorem canonical_passLanes {b l grp m n} : (s.passLanes b l grp m n).canonical ↔ s.canonical := by
  simp [State.passLanes, canonical_foldl]

/-! ### Ports, pacing and sending -/

@[simp] theorem canonical_modPort {p f} : (s.modPort p f).canonical ↔ s.canonical := Iff.rfl
@[simp] theorem canonical_modPace {d f} : (s.modPace d f).canonical ↔ s.canonical := Iff.rfl

@[simp] theorem canonical.linkEvent (h : s.canonical) {port state reason} : (s.linkEvent port state reason).canonical := by
  simp [State.linkEvent, h]

@[simp] theorem canonical.wearEvent (h : s.canonical) {old} : (s.wearEvent old).canonical := by simp [State.wearEvent, h]
@[simp] theorem canonical_noteRoutes : s.noteRoutes.canonical ↔ s.canonical := Iff.rfl

@[simp] theorem canonical_reroute {p} : (s.reroute p).canonical ↔ s.canonical := by
  simp [State.reroute]

@[simp] theorem canonical.goDown (h : s.canonical) {p reason} : (s.goDown p reason).canonical := by simp [State.goDown, h]
@[simp] theorem canonical_sendNew {a k q} : (s.sendNew a k q).canonical ↔ s.canonical := Iff.rfl

theorem canonical_send1 {t : State} {a k} (e : s.send1 a k = some t) : t.canonical ↔ s.canonical := by
  unfold State.send1 at e
  dsimp only at e
  split at e
  · cases e; simp
  · split at e
    · split at e
      · split at e
        · cases e; simp
        · cases e
      · cases e
    · split at e
      · cases e
      · split at e
        · cases e
        · split at e <;> cases e <;> simp

@[simp] theorem canonical.flush (h : s.canonical) {a n} : (s.flush a n).canonical := by
  induction n generalizing s with
  | zero => exact h
  | succ n ih =>
    unfold State.flush
    split
    · exact h
    · split
      · simp [h]
      · split
        · exact h
        next e => exact ih ((canonical_send1 e).2 h)

@[simp] theorem canonical.flushAll (h : s.canonical) : s.flushAll.canonical := by
  unfold State.flushAll
  refine State.canonical.foldl (fun t a ht => ?_) (by simp [canonical_foldl, h])
  simp [ht]

@[simp] theorem canonical_enqueue {p q} : (s.enqueue p q).canonical ↔ s.canonical := Iff.rfl

@[simp] theorem canonical.send (h : s.canonical) {q} : (s.send q).canonical := by
  unfold State.send
  split
  · simp [h]
  · split <;> simp [h]

@[simp] theorem canonical_useWindow {dev n} : (s.useWindow dev n).canonical ↔ s.canonical := Iff.rfl
@[simp] theorem canonical_useGrant {dev n} : (s.useGrant dev n).canonical ↔ s.canonical := Iff.rfl

@[simp] theorem canonical.demandMore (h : s.canonical) {dev n} : (s.demandMore dev n).canonical := by
  simp [State.demandMore, h]

@[simp] theorem canonical.drain (h : s.canonical) {dev n} : (s.drain dev n).canonical := by
  induction n generalizing s with
  | zero => exact h
  | succ n ih =>
    unfold State.drain
    split
    · exact h
    · split
      · exact h
      · exact ih (by simp [h])

@[simp] theorem canonical_addTxn {x} : (s.addTxn x).canonical ↔ s.canonical := Iff.rfl
@[simp] theorem canonical.ask (h : s.canonical) {q tag w} : (s.ask q tag w).canonical := by simp [State.ask, h]

@[simp] theorem canonical.regrant (h : s.canonical) : s.regrant.canonical := by
  unfold State.regrant
  split
  · exact h
  · refine State.canonical.foldl (fun t d ht => ?_) (by simp [h])
    simp [ht]

@[simp] theorem canonical_payloadLeaves {dev n} : (s.payloadLeaves dev n).canonical ↔ s.canonical := Iff.rfl

@[simp] theorem canonical.ingressDone (h : s.canonical) {dev n} : (s.ingressDone dev n).canonical := by
  simp [State.ingressDone, h]

@[simp] theorem canonical.ingressFreed (h : s.canonical) {dev n} : (s.ingressFreed dev n).canonical := by
  simp [State.ingressFreed, h]

@[simp] theorem canonical.endTxn (h : s.canonical) {x} : (s.endTxn x).canonical := by simp [State.endTxn, h]

/-! ### Requests and replies -/

@[simp] theorem canonical_modReq {id f} : (s.modReq id f).canonical ↔ s.canonical := Iff.rfl
@[simp] theorem canonical_setPhase {id p} : (s.setPhase id p).canonical ↔ s.canonical := Iff.rfl
@[simp] theorem canonical_parkIn {id f} : (s.parkIn id f).canonical ↔ s.canonical := Iff.rfl
@[simp] theorem canonical_modEntry {id f} : (s.modEntry id f).canonical ↔ s.canonical := Iff.rfl
@[simp] theorem canonical_pruneEntries : s.pruneEntries.canonical ↔ s.canonical := Iff.rfl

@[simp] theorem canonical_orphanPre {p} : (s.orphanPre p).canonical ↔ s.canonical := by
  unfold State.orphanPre
  split
  · rename_i n bs b _ _ _
    cases e : s.setFamily p.blk b.launch n bs with
    | none => simp
    | some t => simp [canonical_setFamily e]
  · simp
  · simp

@[simp] theorem canonical_tidyPre {id} : (s.tidyPre id).canonical ↔ s.canonical := by
  unfold State.tidyPre
  split <;> simp

@[simp] theorem canonical_landPre {p r} : (s.landPre p r).canonical ↔ s.canonical := by
  unfold State.landPre
  dsimp only
  split <;> simp

@[simp] theorem canonical_landRead {r} : (s.landRead r).canonical ↔ s.canonical := by
  unfold State.landRead
  split
  · split
    · split <;> simp
    · split <;> simp
  · split
    · split <;> simp
    · split <;> simp

@[simp] theorem canonical_leaveReq {r} : (s.leaveReq r).canonical ↔ s.canonical := by simp [State.leaveReq]
@[simp] theorem canonical_endZero {r} : (s.endZero r).canonical ↔ s.canonical := by simp [State.endZero]
@[simp] theorem canonical_failPre {p r c reason} : (s.failPre p r c reason).canonical ↔ s.canonical := by simp [State.failPre]

@[simp] theorem canonical_lateRefuse {r c reason} : (s.lateRefuse r c reason).canonical ↔ s.canonical := by
  unfold State.lateRefuse
  split <;> simp

@[simp] theorem canonical.park (h : s.canonical) {c r reason} : (s.park c r reason).canonical := by
  unfold State.park
  dsimp only
  split
  · simp [h]
  · split
    · simp [h]
    · split <;> simp [h]

@[simp] theorem canonical.accept1 (h : s.canonical) {r} : (s.accept1 r).canonical := by
  unfold State.accept1
  split
  · exact h
  · split
    · exact h
    · dsimp only
      split
      · split <;> simp [h]
      · split
        · simp [h]
        · simp [h]
        · simp [h]
        · split
          · simp [h]
          · split
            · simp [h]
            · split <;> simp [h]

@[simp] theorem canonical_atomicFlags {r fl} : (s.atomicFlags r fl).canonical ↔ s.canonical := by simp [State.atomicFlags]

@[simp] theorem canonical_peerLostFate {r dev} : (s.peerLostFate r dev).canonical ↔ s.canonical := by
  simp [State.peerLostFate]

/-! ### Entries, homes and version lines -/

@[simp] theorem canonical_sendEntry {e} : (s.sendEntry e).canonical ↔ s.canonical := Iff.rfl
@[simp] theorem canonical_performed {r} : (s.performed r).canonical ↔ s.canonical := Iff.rfl
@[simp] theorem canonical_gotBytes {r bs} : (s.gotBytes r bs).canonical ↔ s.canonical := Iff.rfl

@[simp] theorem canonical_performRead {e r} : (s.performRead e r).canonical ↔ s.canonical := by
  unfold State.performRead
  dsimp only
  split <;> simp

@[simp] theorem canonical.performStore (h : s.canonical) {e r} : (s.performStore e r).canonical := by
  simp [State.performStore, h]

@[simp] theorem canonical.performAtomic (h : s.canonical) {e r} : (s.performAtomic e r).canonical := by
  unfold State.performAtomic
  split <;> simp [h]

@[simp] theorem canonical.performHostCas (h : s.canonical) {e r} : (s.performHostCas e r).canonical := by
  unfold State.performHostCas
  split <;> simp [h]

@[simp] theorem canonical.performRedAdd (h : s.canonical) {e r} : (s.performRedAdd e r).canonical := by
  unfold State.performRedAdd
  split
  · simp [h]
  · dsimp only
    rw [canonical_foldl fun _ _ => canonical_performed, canonical_performed]
    exact canonical.writeHome (by simp [h])

@[simp] theorem canonical.performReq (h : s.canonical) {e r} : (s.performReq e r).canonical := by
  unfold State.performReq
  split
  all_goals try simp [h]
  split <;> simp [h]

@[simp] theorem canonical.askEntry (h : s.canonical) {e rs dev off} : (s.askEntry e rs dev off).canonical := by
  unfold State.askEntry
  split
  · simp [canonical_foldl, h]
  · split <;> simp [canonical_foldl, h]

@[simp] theorem canonical_performBank {r} : (s.performBank r).canonical ↔ s.canonical := by
  unfold State.performBank
  split
  · exact Iff.rfl
  · dsimp only
    split <;> simp

@[simp] theorem canonical.clearCovered (h : s.canonical) {e rs} : (s.clearCovered e rs).canonical := by
  obtain ⟨hm, hrest⟩ := h
  exact ⟨List.foldlRecOn (motive := fun m : Store => m.wf = true) _ _ hm fun _ hm _ _ => hm, hrest⟩

@[simp] theorem canonical.performEntry (h : s.canonical) {e rs} : (s.performEntry e rs).canonical := by
  have performed : (rs.foldl (fun (t : State) r => t.performReq e r) s).canonical :=
    State.canonical.foldl (fun _ _ ht => ht.performReq) h
  simp [State.performEntry, performed]

theorem canonical_applyVnst {t : State} {e rs g v} (a : s.applyVnst e rs g v = some t) : t.canonical ↔ s.canonical := by
  unfold State.applyVnst at a
  dsimp only at a
  split at a
  · cases a; simp [canonical_foldl]
  · split at a
    · cases a; simp [canonical_foldl]
    · obtain ⟨g2, -, rfl⟩ := Option.map_eq_some_iff.1 a
      simp [canonical_foldl]

@[simp] theorem canonical_retryLine {e} : (s.retryLine e).canonical ↔ s.canonical := by
  unfold State.retryLine
  dsimp only
  split
  · split
    · simp
    · generalize a : State.applyVnst _ _ _ _ _ = o
      cases o with
      | none => simp
      | some t => simp [canonical_applyVnst a]
  · simp

@[simp] theorem canonical_retryHeld {k g} : (s.retryHeld k g).canonical ↔ s.canonical := by
  refine canonical_foldl fun t x => ?_
  split
  · exact Iff.rfl
  · split
    · exact Iff.rfl
    · split
      · simp
      · split <;> simp

@[simp] theorem canonical_answerVnld {e rs g v} : (s.answerVnld e rs g v).canonical ↔ s.canonical := by
  simp [State.answerVnld, canonical_foldl]

/-! ### The matrix queue -/

@[simp] theorem canonical_askSectors {o ss} : (s.askSectors o ss).canonical ↔ s.canonical := by
  unfold State.askSectors
  split <;> simp

@[simp] theorem canonical_mtxRetire {o} : (s.mtxRetire o).canonical ↔ s.canonical := by
  simp [State.mtxRetire, canonical_foldl]

@[simp] theorem canonical_unlatch {blk ms} : (s.unlatch blk ms).canonical ↔ s.canonical := by
  simp [State.unlatch, canonical_foldl]

@[simp] theorem canonical.gangRaise (h : s.canonical) {b ws} : (s.gangRaise b ws).canonical :=
  State.canonical.foldl (fun _ _ ht => ht.trap) (canonical_unlatch.2 h)

@[simp] theorem canonical_gangIssue {b l ws} : (s.gangIssue b l ws).canonical ↔ s.canonical := by
  unfold State.gangIssue
  split
  · exact Iff.rfl
  · simp [canonical_foldl]

/-! ### Engine commands -/

@[simp] theorem canonical_modCmd {id f} : (s.modCmd id f).canonical ↔ s.canonical := Iff.rfl
@[simp] theorem canonical.engage (h : s.canonical) {k ts dev} : (s.engage k ts dev).canonical := by simp [State.engage, h]

@[simp] theorem canonical_reach {k va n write} : (s.reach k va n write).2.canonical ↔ s.canonical := by
  unfold State.reach
  split
  · exact Iff.rfl
  · rename_i c _
    have ht : (s.translate k.core c va).2.canonical ↔ s.canonical := canonical_translate
    dsimp only
    split <;> try exact ht
    split
    · exact ht
    · split
      · exact ht
      · split
        · split
          · split <;> exact ht
          · split <;> exact ht
        · exact ht

@[simp] theorem canonical.parkCmd (h : s.canonical) {k va access reason} : (s.parkCmd k va access reason).canonical := by
  simp [State.parkCmd, h]

@[simp] theorem canonical_failCmd {k c va access reason} : (s.failCmd k c va access reason).canonical ↔ s.canonical := Iff.rfl

@[simp] theorem canonical.askIds (h : s.canonical) {k va dev off n} : (s.askIds k va dev off n).canonical := by
  unfold State.askIds
  split
  · simp [h]
  · split <;> simp [h]

theorem canonical.engineRead (h : s.canonical) {k va n} : EngineRead.canonical (s.engineRead k va n) := by
  refine EngineRead.canonical_foldl (fun st p hst => ?_) h
  split
  · exact hst
  · rename_i bs t
    replace hst : t.canonical := hst
    split
    next e => simp [EngineRead.canonical, canonical_of_snd_eq e, hst]
    next e => simp [EngineRead.canonical, canonical_of_snd_eq e, hst]
    next e =>
      split
      · simp [EngineRead.canonical, canonical_of_snd_eq e, hst]
      · split <;> simp [EngineRead.canonical, canonical_of_snd_eq e, hst]
    next e =>
      dsimp only
      split <;> simp [EngineRead.canonical, canonical_of_snd_eq e, hst]

theorem canonical.of_engineRead_error (h : s.canonical) {t k va n} (e : s.engineRead k va n = .error t) : t.canonical := by
  have hr := h.engineRead (k := k) (va := va) (n := n)
  rwa [e] at hr

theorem canonical.of_engineRead_ok (h : s.canonical) {t k va n bs} (e : s.engineRead k va n = .ok (bs, t)) : t.canonical := by
  have hr := h.engineRead (k := k) (va := va) (n := n)
  rwa [e] at hr

@[simp] theorem canonical.engageLate (h : s.canonical) {id dev row lo len} : (s.engageLate id dev row lo len).canonical := by
  unfold State.engageLate
  split <;> simp [h]

@[simp] theorem canonical_modFar {id dev f} : (s.modFar id dev f).canonical ↔ s.canonical := Iff.rfl

theorem canonical_letBytes {t : State} {u id dev n} (e : s.letBytes id dev n = some (t, u)) : t.canonical ↔ s.canonical := by
  unfold State.letBytes at e
  split at e
  · cases e
  · split at e
    · split at e <;> cases e
      simp
    · split at e <;> cases e
      simp

@[simp] theorem canonical.engineStore (h : s.canonical) {k row lo bs} : (s.engineStore k row lo bs).canonical := by
  unfold State.engineStore
  dsimp only
  split
  next e => simp [canonical_of_snd_eq e, h]
  next e => simp [canonical_of_snd_eq e, h]
  next e =>
    split
    next e' => simp [canonical_letBytes e', canonical_of_snd_eq e, h]
    next => simp [canonical_of_snd_eq e, h]
  next t e =>
    have ht : t.canonical := by simp [canonical_of_snd_eq e, h]
    split
    · split
      · simp [ht]
      · split
        · simp [ht]
        · split <;> simp [ht]
    · split
      · simp [ht]
      · split <;> simp [ht]

@[simp] theorem canonical.enginePut (h : s.canonical) {k row lo bs} : (s.enginePut k row lo bs).canonical := by
  simp [State.enginePut, h]

@[simp] theorem canonical.movePiece (h : s.canonical) {k row lo len} : (s.movePiece k row lo len).canonical := by
  unfold State.movePiece
  dsimp only
  split
  · simp [h]
  · split
    · simp [h]
    · split
      next e => split <;> simp [canonical_of_snd_eq e, h]
      next =>
        split
        next e => exact h.of_engineRead_error e
        next t e => simp [h.of_engineRead_ok e]

@[simp] theorem canonical_hxNext {k stats} : (s.hxNext k stats).canonical ↔ s.canonical := Iff.rfl

@[simp] theorem canonical_hxLand {k old w stats} : (s.hxLand k old w stats).canonical ↔ s.canonical := by
  unfold State.hxLand
  split <;> simp

@[simp] theorem canonical.hxOne (h : s.canonical) {k insert} : (s.hxOne k insert).canonical := by
  unfold State.hxOne
  dsimp only
  split
  · split
    · simp [h]
    · split
      next e => exact h.of_engineRead_error e
      next t e =>
        have ht : t.canonical := h.of_engineRead_ok e
        split
        next e' =>
          split at e'
          · exact ht.of_engineRead_error e'
          · cases e'
        next cb u e' =>
          have hu : u.canonical := by
            split at e'
            · exact ht.of_engineRead_ok e'
            · cases e'; exact ht
          split
          · simp [hu]
          · split <;> simp [hu]
  · simp [h]

@[simp] theorem canonical.lowerEc (h : s.canonical) {k} : (s.lowerEc k).canonical := by
  unfold State.lowerEc
  dsimp only
  split
  · simp [h]
  · split
    · obtain ⟨hm, hrest⟩ := h
      exact ⟨Store.write_keeps_wf hm, hrest⟩
    · simp [h]

@[simp] theorem canonical.endCmd (h : s.canonical) {k} : (s.endCmd k).canonical := by
  unfold State.endCmd
  dsimp only
  split
  · exact canonical.endKill (canonical.lowerEc (by simp [canonical_foldl, h]))
  · exact canonical.endKill (by simp [canonical_foldl, h])

/-! ### Offers, records and cancellation -/

@[simp] theorem canonical.acceptOffer (h : s.canonical) {o c} : (s.acceptOffer o c).canonical := by
  unfold State.acceptOffer
  dsimp only
  split
  · exact State.canonical.foldl (fun _ _ ht => ht.send) (by simp [h])
  · simp [h]

@[simp] theorem canonical_doom {before core ic} : (s.doom before core ic).canonical ↔ s.canonical := Iff.rfl

@[simp] theorem canonical_formGroup {b l slot set} : (s.formGroup b l slot set).canonical ↔ s.canonical := by
  simp [State.formGroup]

@[simp] theorem canonical_tidyFaults {blk grp g} : (s.tidyFaults blk grp g).canonical ↔ s.canonical := Iff.rfl

@[simp] theorem canonical_tidyHome {b grp g} : (s.tidyHome b grp g).canonical ↔ s.canonical := by
  simp [State.tidyHome, canonical_foldl]

@[simp] theorem canonical_tidyPres {blk grp} : (s.tidyPres blk grp).canonical ↔ s.canonical := by
  simp [State.tidyPres, canonical_foldl]

@[simp] theorem canonical.orphan (h : s.canonical) {b l tag} : (s.orphan b l tag).canonical :=
  canonical_modBlock.2 (State.canonical.foldl (fun _ _ ht => ht.ringStore) h)

@[simp] theorem canonical.cancel (h : s.canonical) {b l grp lane} : (s.cancel b l grp lane).canonical := by
  unfold State.cancel
  dsimp only
  split <;> simp [canonical_foldl, h]

/-! ### Beats, packets and the loss of a peer -/

@[simp] theorem canonical.control (h : s.canonical) {p code v} : (s.control p code v).canonical := by
  unfold State.control
  split <;> simp [h]

@[simp] theorem canonical.showTraining (h : s.canonical) {p} : (s.showTraining p).canonical := by simp [State.showTraining, h]
@[simp] theorem canonical_replay {p} : (s.replay p).canonical ↔ s.canonical := by simp [State.replay]
@[simp] theorem canonical.sendAck (h : s.canonical) {p} : (s.sendAck p).canonical := by simp [State.sendAck, h]

@[simp] theorem canonical.sendOack (h : s.canonical) {p} : (s.sendOack p).canonical := by
  unfold State.sendOack
  split <;> simp [h]

@[simp] theorem canonical.authFail (h : s.canonical) {p} : (s.authFail p).canonical := by simp [State.authFail, h]

@[simp] theorem canonical.passOn (h : s.canonical) {p q} : (s.passOn p q).canonical := by
  unfold State.passOn
  split
  · split <;> simp [h]
  · split
    · exact h
    · split
      · simp [h]
      · split <;> simp [h]

@[simp] theorem canonical.takePacket (h : s.canonical) {p bs} : (s.takePacket p bs).canonical := by
  unfold State.takePacket
  dsimp only
  split
  · exact h
  · split
    · simp [h]
    · split
      · exact canonical.passOn (by simp [h])
      · simp [h]

@[simp] theorem canonical.dataBeat (h : s.canonical) {p content} : (s.dataBeat p content).canonical := by
  simp [State.dataBeat, h]

@[simp] theorem canonical.controlBeat (h : s.canonical) {p c} : (s.controlBeat p c).canonical := by
  unfold State.controlBeat
  dsimp only
  split
  · simp [h]
  · split <;> simp [h]

theorem canonical_arrived {t : State} {port type q} (e : s.arrived port type q = some t) : t.canonical ↔ s.canonical := by
  unfold State.arrived at e
  split at e
  · cases e
  · split at e <;> cases e
    simp

@[simp] theorem canonical.reply (h : s.canonical) {q type payload} : (s.reply q type payload).canonical := by
  simp [State.reply, h]

@[simp] theorem canonical.refusePacket (h : s.canonical) {q reason n} : (s.refusePacket q reason n).canonical := by
  simp [State.refusePacket, h]

@[simp] theorem canonical_landed {id tag} : (s.landed id tag).canonical ↔ s.canonical := Iff.rfl
@[simp] theorem canonical_modJob {id f} : (s.modJob id f).canonical ↔ s.canonical := Iff.rfl

@[simp] theorem canonical_lineCame {job dev line bs} : (s.lineCame job dev line bs).canonical ↔ s.canonical := by
  simp [State.lineCame]

@[simp] theorem canonical.endJob (h : s.canonical) {j status} : (s.endJob j status).canonical := by simp [State.endJob, h]
@[simp] theorem canonical.copied (h : s.canonical) {j n} : (s.copied j n).canonical := by simp [State.copied, h]
@[simp] theorem canonical.retrain (h : s.canonical) {p} : (s.retrain p).canonical := by simp [State.retrain, h]

@[simp] theorem canonical.laneLoss (h : s.canonical) {p lost} : (s.laneLoss p lost).canonical := by
  unfold State.laneLoss
  dsimp only
  simp [h]

@[simp] theorem canonical.loseTxn (h : s.canonical) {x} : (s.loseTxn x).canonical := by
  unfold State.loseTxn
  split
  · simp [canonical_foldl, h]
  · split <;> simp [h]
  · split <;> simp [h]
  · split <;> simp [h]
  · simp [h]

@[simp] theorem canonical_stopCmds {dev} : (s.stopCmds dev).canonical ↔ s.canonical :=
  canonical_foldl fun t k => by split <;> simp

@[simp] theorem canonical.declareLost (h : s.canonical) {dev} : (s.declareLost dev).canonical := by
  unfold State.declareLost
  dsimp only
  split
  · exact h
  · have ports : ∀ {t : State} {ns : List Nat} {f : Port → Port}, t.canonical →
        (ns.foldl (fun (t : State) n => (t.modPort n f).linkEvent n 6 3) t).canonical :=
      fun ht => State.canonical.foldl (fun t n ht => by simp [ht]) ht
    rw [canonical_noteRoutes]
    refine canonical.flushAll (canonical.regrant (canonical_stopCmds.2 ?_))
    refine State.canonical.foldl (fun _ _ ht => ht.loseTxn) (ports ?_)
    simp [canonical_foldl, h]

/-! ### Blocks from admission to the end of a launch -/

@[simp] theorem canonical.storeImage (h : s.canonical) {b l waits} : (s.storeImage b l waits).canonical := by
  unfold State.storeImage
  obtain ⟨hm, hrest⟩ := h
  exact ⟨Store.unpoison_write_keeps_wf hm, hrest⟩

@[simp] theorem canonical_noteHeads : s.noteHeads.canonical ↔ s.canonical := Iff.rfl
@[simp] theorem canonical_enqueueItem {prio x} : (s.enqueueItem prio x).canonical ↔ s.canonical := Iff.rfl
@[simp] theorem canonical_dequeue {x} : (s.dequeue x).canonical ↔ s.canonical := Iff.rfl
@[simp] theorem canonical_servedItem {x} : (s.servedItem x).canonical ↔ s.canonical := Iff.rfl

@[simp] theorem canonical.bringIn (h : s.canonical) {l ps cores images} : (s.bringIn l ps cores images).canonical := by
  refine State.canonical.foldl (fun t p ht => ?_) h
  simp [ht]

@[simp] theorem canonical_beginSave {b idle} : (s.beginSave b idle).canonical ↔ s.canonical := by
  simp [State.beginSave, canonical_foldl]

@[simp] theorem canonical.completeBlock (h : s.canonical) {b} : (s.completeBlock b).canonical := by
  unfold State.completeBlock
  exact State.canonical.foldl (fun _ _ ht => ht.post) (by simp [h])

@[simp] theorem canonical.saveQueue (h : s.canonical) {b} : (s.saveQueue b).canonical := by
  unfold State.saveQueue
  split
  · exact h
  · split
    · exact h
    · exact canonical_modBlock.2 (State.canonical.foldl (fun _ _ ht => ht.ringStore) h)

@[simp] theorem canonical_withdraw {b} : (s.withdraw b).canonical ↔ s.canonical := by
  simp [State.withdraw, canonical_foldl]

@[simp] theorem canonical.writeImage (h : s.canonical) {b l idle} : (s.writeImage b l idle).canonical := by
  have stored : ∀ {t : State} {waits : Nat → Mask}, t.canonical → State.canonical (match t.block? b.id with
      | none => t
      | some q => t.storeImage q l waits) := fun ht => by split <;> simp [ht]
  have posted : ∀ {t : State}, t.canonical →
      (b.savers.foldl (fun (t : State) a => t.post a.1 ⟨a.2, 4, 0, []⟩) t).canonical :=
    fun ht => State.canonical.foldl (fun _ _ ht => ht.post) ht
  have saved : ((s.withdraw b).saveQueue b).canonical := canonical.saveQueue (canonical_withdraw.2 h)
  unfold State.writeImage
  dsimp only
  split
  · exact posted (canonical_modContext.2 (stored (canonical_modBlock.2 saved)))
  · exact canonical_enqueueItem.2 (posted (canonical_modContext.2 (stored (canonical_modBlock.2 saved))))

@[simp] theorem canonical.killImage (h : s.canonical) {b grp} : (s.killImage b grp).canonical := by
  unfold State.killImage
  split <;> simp [h]

@[simp] theorem canonical_reenter {b} : (s.reenter b).canonical ↔ s.canonical := by
  simp [State.reenter, canonical_foldl]

@[simp] theorem canonical_restoreOn {b l core} : (s.restoreOn b l core).canonical ↔ s.canonical := by
  simp [State.restoreOn]

@[simp] theorem canonical.cancelDominated (h : s.canonical) {b l} : (s.cancelDominated b l).canonical := by
  refine State.canonical.foldl (fun t g ht => State.canonical.foldl (fun u k hu => ?_) ht) h
  split
  · exact hu
  · simp [hu]

@[simp] theorem canonical.closeRegion (h : s.canonical) {g} : (s.closeRegion g).canonical := by
  unfold State.closeRegion
  split
  · exact h
  · refine (canonical_mk ..).2 (State.canonical.foldl (fun t line ht => ?_) h)
    split
    · exact State.canonical.foldl (fun u i hu => by simp [hu]) ht
    · exact ht

@[simp] theorem canonical_unbindIcs {l} : (s.unbindIcs l).canonical ↔ s.canonical := Iff.rfl

/-! ### Commands of the host -/

@[simp] theorem canonical_passCmd {f} : (s.passCmd f).canonical ↔ s.canonical := Iff.rfl

@[simp] theorem canonical.answer (h : s.canonical) {c status detail es} : (s.answer c status detail es).canonical := by
  simp [State.answer, h]

@[simp] theorem canonical_dropContext {id} : (s.dropContext id).canonical ↔ s.canonical := Iff.rfl
@[simp] theorem canonical_addJob {c} : (s.addJob c).canonical ↔ s.canonical := Iff.rfl
@[simp] theorem canonical_dropTlb {ctx va n} : (s.dropTlb ctx va n).canonical ↔ s.canonical := Iff.rfl

@[simp] theorem canonical.copyPiece (h : s.canonical) {j} : (s.copyPiece j).canonical := by
  unfold State.copyPiece
  dsimp only
  split
  · simp [h]
  · split
    · simp [h]
    · split
      · split
        · simp [h]
        · split
          · split
            · split
              · simp [h]
              · split
                · simp [h]
                · split <;> simp [h]
            · split
              · simp [h]
              · split <;> simp [h]
          · split
            · simp [h]
            · split <;> simp [h]
      · simp [h]

theorem canonical_makeRegions {t : State} {c launch bs n i} (e : s.makeRegions c launch bs n i = some t) :
    t.canonical ↔ s.canonical := by
  induction n generalizing s i with
  | zero => cases e; exact Iff.rfl
  | succ n ih =>
    unfold State.makeRegions at e
    dsimp only at e
    split at e
    · cases e
    · exact (ih e).trans (canonical_mk ..)

theorem canonical_launchTables {t : State} {fs c launch raw} (e : s.launchTables c launch raw = some (t, fs)) :
    t.canonical ↔ s.canonical := by
  unfold State.launchTables at e
  dsimp only at e
  split at e
  · cases e
  · split at e
    · split at e
      · cases e
      next e' =>
        obtain ⟨fs', -, hfs⟩ := Option.map_eq_some_iff.1 e
        cases hfs
        exact canonical_makeRegions e'
    · cases e

theorem canonical_validate {t : State} {r c launch raw} (e : s.validate c launch raw = .ok (t, r)) :
    t.canonical ↔ s.canonical := by
  unfold State.validate at e
  have e := ok_of_ite_error (ok_of_ite_error (ok_of_ite_error (ok_of_ite_error (ok_of_ite_error e))))
  generalize s.groupTiles c (lrOf raw) raw = tiles at e
  cases tiles with
  | none => cases e
  | some tiles =>
    have e := ok_of_ite_error (ok_of_ite_error e)
    generalize hl : s.launchTables c launch raw = tables at e
    match tables, e with
    | some (u, fs), e =>
      have e := ok_of_ite_error (ok_of_ite_error e)
      generalize s.readAll c _ _ = code at e
      match code, e with
      | some code, e =>
        cases ok_of_ite_error e
        exact canonical_launchTables hl

@[simp] theorem canonical.askLine (h : s.canonical) {job x} : (s.askLine job x).canonical := by
  unfold State.askLine
  split <;> simp [h]

@[simp] theorem canonical.endLaunch (h : s.canonical) {j status detail} : (s.endLaunch j status detail).canonical := by
  simp [State.endLaunch, h]

@[simp] theorem canonical.launchNow (h : s.canonical) {c j raw} : (s.launchNow c j raw).canonical := by
  unfold State.launchNow
  split
  · simp [h]
  next e =>
    have hu := (canonical_validate e).2 h
    split <;> simp [h, hu]

@[simp] theorem canonical.launchCheck (h : s.canonical) {c j raw} : (s.launchCheck c j raw).canonical := by
  unfold State.launchCheck
  split <;> simp [h]

@[simp] theorem canonical.launchGo (h : s.canonical) {j} : (s.launchGo j).canonical := by
  unfold State.launchGo
  split
  · simp [h]
  · simp [h]
  · split
    · simp [h]
    · split
      · simp [h]
      · dsimp only
        split <;> simp [h]

@[simp] theorem canonical_answerPage {blks page} : (s.answerPage blks page).canonical ↔ s.canonical := Iff.rfl

@[simp] theorem canonical.keepImages (h : s.canonical) {blks} : (s.keepImages blks).canonical := by
  refine State.canonical.foldl (fun t i ht => ?_) h
  split
  · exact ht
  · split <;> simp [ht]

@[simp] theorem canonical_replayPage {ctx page} : (s.replayPage ctx page).canonical ↔ s.canonical := by
  unfold State.replayPage
  dsimp only
  simp [canonical_foldl]

@[simp] theorem canonical.abortPage (h : s.canonical) {ctx page} : (s.abortPage ctx page).canonical := by
  unfold State.abortPage
  dsimp only
  refine canonical.keepImages ((canonical_foldl fun t k => ?_).2 (canonical_answerPage.2
    ((canonical_foldl fun t f => ?_).2 ?_)))
  · split <;> simp
  · split <;> simp
  · simp [canonical_foldl, h]

/-! ### The firmware -/

@[simp] theorem canonical_modCore {k f} : (s.modCore k f).canonical ↔ s.canonical := Iff.rfl
@[simp] theorem canonical_noteWarn : s.noteWarn.canonical ↔ s.canonical := Iff.rfl

@[simp] theorem canonical_retire {k} : (s.retire k).canonical ↔ s.canonical := by
  unfold State.retire
  dsimp only
  split <;> simp

@[simp] theorem canonical_mapPorts {lost} : (s.mapPorts lost).canonical ↔ s.canonical := by
  unfold State.mapPorts
  dsimp only
  rw [canonical_foldl fun t q => by split <;> simp]
  simp [canonical_foldl]

@[simp] theorem canonical.restorePort (h : s.canonical) {n} : (s.restorePort n).canonical := by
  unfold State.restorePort
  dsimp only
  split <;> simp [h]

@[simp] theorem canonical.maintain (h : s.canonical) {again} : (s.maintain again).canonical := by
  have demands : ∀ {t : State}, t.canonical → State.canonical ((List.range 16).foldl (fun (t : State) d =>
      let t := t.modPace d Pace.restart
      if (t.pace d).queue.isEmpty then t else t.send (t.packet typeDemand d 0 (leBytes 8 (t.pace d).demand))) t) :=
    fun ht => State.canonical.foldl (fun t d ht => by simp [ht]) ht
  have ports : ∀ {t : State}, t.canonical → ((List.range 16).foldl State.restorePort t).canonical :=
    fun ht => State.canonical.foldl (fun _ _ ht => ht.restorePort) ht
  unfold State.maintain
  refine canonical.wearEvent ((canonical_mk ..).2 (canonical_noteRoutes.2 (canonical.flushAll (demands (ports ?_)))))
  simp [canonical_foldl, h]

@[simp] theorem canonical_quiesceAll {who} : (s.quiesceAll who).canonical ↔ s.canonical := by
  unfold State.quiesceAll
  dsimp only
  simp [canonical_foldl]

@[simp] theorem canonical.writeOut (h : s.canonical) : s.writeOut.canonical := by
  unfold State.writeOut
  refine canonical.wearEvent ?_
  obtain ⟨hm, hh, hc⟩ := h
  refine ⟨hm, hh, fun k hk => ?_⟩
  cases hk
  exact hm

@[simp] theorem canonical.bringBack (h : s.canonical) {k : Ckpt} (hk : k.mem.wf = true) : (s.bringBack k).canonical := by
  unfold State.bringBack
  obtain ⟨-, hh, hc⟩ := h
  exact canonical_noteHeads.2 ⟨hk, hh, hc⟩

@[simp] theorem canonical.teardown (h : s.canonical) {fn} : (s.teardown fn).canonical := by
  unfold State.teardown
  dsimp only
  rw [canonical_mk, canonical_foldl fun _ _ => canonical_dropContext]
  refine State.canonical.foldl (fun t l ht => ?_) h
  exact canonical.post (by simp [ht])

@[simp] theorem canonical_setTdisp {fn st} : (s.setTdisp fn st).canonical ↔ s.canonical := Iff.rfl

@[simp] theorem canonical_keyStream {msg} : (s.keyStream msg).canonical ↔ s.canonical := by
  unfold State.keyStream
  split <;> simp

@[simp] theorem canonical.corrected (h : s.canonical) {core} : (s.corrected core).canonical := by
  unfold State.corrected
  exact canonical.wearEvent (by simp [h, -State.modCore_mem])

/-! ### Returns from a handler -/

@[simp] theorem canonical_retryAtRft {blk grp} : (s.retryAtRft blk grp).canonical ↔ s.canonical := by
  simp [State.retryAtRft, canonical_foldl]

end State
end Sys2Proof.Machine
end

section
/-!
SUPPORT. Every instruction keeps the canonical form of memory, whatever becomes of it: its meaning writes no memory, and a trap
or a kill may write the host's completion rings.
-/

namespace Sys2Proof.Machine

/-- What the meaning of an instruction gives is canonical. -/
def Res.canonical : Res → Prop
  | .done t _ => t.canonical
  | .wait t => t.canonical
  | .raise .. => True
  | .fail .. => True

/-- If a step gives a next state, that state is canonical. -/
def Outcome.canonical (o : Host.Outcome State Fault Refusal) : Prop := ∀ t, o = .next t → t.canonical

variable {s t : State} {c : Ctx}

@[simp] theorem Res.canonical_done {own : Mask} : (Res.done t own).canonical ↔ t.canonical := Iff.rfl
@[simp] theorem Res.canonical_wait : (Res.wait t).canonical ↔ t.canonical := Iff.rfl
@[simp] theorem Res.canonical_raise {cs arg after} : (Res.raise cs arg after).canonical := trivial
@[simp] theorem Res.canonical_cause {k m} : (Res.cause k m).canonical := trivial
@[simp] theorem Res.canonical_fail {cs fault} : (Res.fail cs fault).canonical := trivial

@[simp] theorem Res.canonical_ite {p : Prop} [Decidable p] {a b : Res} :
    (if p then a else b).canonical ↔ if p then a.canonical else b.canonical := by split <;> rfl

@[simp] theorem Outcome.canonical_next : Outcome.canonical (.next t) ↔ t.canonical :=
  ⟨fun h => h t rfl, fun h _ e => by cases e; exact h⟩

@[simp] theorem Outcome.canonical_ite {p : Prop} [Decidable p] {a b : Host.Outcome State Fault Refusal} :
    Outcome.canonical (if p then a else b) ↔ if p then Outcome.canonical a else Outcome.canonical b := by split <;> rfl

/-- The course of an instruction whose meaning keeps the canonical form. -/
theorem State.canonical.issueN (h : s.canonical) {n : Nat} {forbidden : Ctx → Mask} {f : Ctx → State → Res}
    (hf : ∀ c t, t.canonical → (f c t).canonical) : Outcome.canonical (s.issueN n forbidden f) := by
  unfold State.issueN
  split
  · simp [h]
  · rename_i c _
    have hr := hf c _ ((State.canonical_begin (c := c)).2 h)
    dsimp only
    split
    · split <;> simp [h]
    · simp [h]
    next e =>
      rw [e] at hr
      split
      · simp [h]
      · simpa using hr
    next e =>
      rw [e] at hr
      split
      · simp [h]
      · simpa using hr

theorem State.canonical.issue (h : s.canonical) {f : Ctx → State → Res}
    (hf : ∀ c t, t.canonical → (f c t).canonical) : Outcome.canonical (s.issue f) := h.issueN hf

/-! ### Blocks, rings, kills, traps and the course of an instruction -/

@[simp] theorem Res.canonical_doneG (h : s.canonical) {f} : (c.doneG s f).canonical := by simp [Ctx.doneG, h]

/-! ### Results -/

@[simp] theorem Res.canonical_vec (h : s.canonical) {g d f} : (c.vec s g d f).canonical := by simp [Ctx.vec, h]
@[simp] theorem Res.canonical_vec2 (h : s.canonical) {g d f} : (c.vec2 s g d f).canonical := by simp [Ctx.vec2, h]
@[simp] theorem Res.canonical_scal (h : s.canonical) {g d w} : (c.scal s g d w).canonical := by simp [Ctx.scal, h]

/-! ### Control instructions -/

@[simp] theorem Res.canonical_jump (h : s.canonical) {m a a4 f} : (c.jump s m a a4 f).canonical := by simp [Ctx.jump, h]
@[simp] theorem canonical_execNop (h : s.canonical) {a0} : Outcome.canonical (execNop a0 s) := h.issue fun _ _ ht => ht

@[simp] theorem canonical_execBra (h : s.canonical) {x} : Outcome.canonical (execBra x s) :=
  h.issue fun _ _ ht => by simp [ht]

@[simp] theorem canonical_execBrc (h : s.canonical) {x} : Outcome.canonical (execBrc x s) :=
  h.issue fun _ _ ht => by simp [ht]

@[simp] theorem canonical_execBri (h : s.canonical) {x} : Outcome.canonical (execBri x s) :=
  h.issue fun _ _ ht => by simp [ht]

@[simp] theorem canonical_execCall (h : s.canonical) {x} : Outcome.canonical (execCall x s) :=
  h.issue fun _ _ ht => by simp [ht]

@[simp] theorem canonical_execCalli (h : s.canonical) {x} : Outcome.canonical (execCalli x s) :=
  h.issue fun _ _ ht => by simp [ht]

@[simp] theorem canonical_execRet (h : s.canonical) {x} : Outcome.canonical (execRet x s) :=
  h.issue fun _ _ ht => by simp [ht]

@[simp] theorem canonical_execSetmt (h : s.canonical) {x} : Outcome.canonical (execSetmt x s) :=
  h.issue fun _ _ ht => by simp [ht]

@[simp] theorem canonical_execGetmt (h : s.canonical) {x} : Outcome.canonical (execGetmt x s) := h.issue fun _ _ ht => ht

@[simp] theorem canonical_execBrpk (h : s.canonical) {x} : Outcome.canonical (execBrpk x s) :=
  h.issueN fun _ _ ht => by simp [ht]

@[simp] theorem canonical_execDemote (h : s.canonical) {x} : Outcome.canonical (execDemote x s) := h.issue fun _ _ ht => ht
@[simp] theorem canonical_execExit (h : s.canonical) {x} : Outcome.canonical (execExit x s) := h.issue fun _ _ ht => ht
@[simp] theorem canonical_execYield (h : s.canonical) {x} : Outcome.canonical (execYield x s) := h.issue fun _ _ ht => ht
@[simp] theorem canonical_execSleep (h : s.canonical) {x} : Outcome.canonical (execSleep x s) := h.issueN fun _ _ ht => ht

/-! ### Integer instructions -/

@[simp] theorem Res.canonical_later (h : s.canonical) {la m vregs sregs writes f} :
    (c.later s la m vregs sregs writes f).canonical := by
  simp [Ctx.later, h]

@[simp] theorem Res.canonical_sres (h : s.canonical) {x r} : (c.sres s x r).canonical := by simp [Ctx.sres, h]
@[simp] theorem Res.canonical_vres (h : s.canonical) {x r} : (c.vres s x r).canonical := by simp [Ctx.vres, h]

@[simp] theorem canonical_execSadd (h : s.canonical) {x} : Outcome.canonical (execSadd x s) :=
  h.issue fun _ _ ht => by simp [ht]

@[simp] theorem canonical_execSsub (h : s.canonical) {x} : Outcome.canonical (execSsub x s) :=
  h.issue fun _ _ ht => by simp [ht]

@[simp] theorem canonical_execSmul (h : s.canonical) {x} : Outcome.canonical (execSmul x s) :=
  h.issue fun _ _ ht => by simp [ht]

@[simp] theorem canonical_execSdiv (h : s.canonical) {x} : Outcome.canonical (execSdiv x s) :=
  h.issue fun _ _ ht => by simp [ht]

@[simp] theorem canonical_execSlog (h : s.canonical) {x} : Outcome.canonical (execSlog x s) :=
  h.issue fun _ _ ht => by simp [ht]

@[simp] theorem canonical_execSsh (h : s.canonical) {x} : Outcome.canonical (execSsh x s) :=
  h.issue fun _ _ ht => by simp [ht]

@[simp] theorem canonical_execSmnx (h : s.canonical) {x} : Outcome.canonical (execSmnx x s) :=
  h.issue fun _ _ ht => by simp [ht]

@[simp] theorem canonical_execScmp (h : s.canonical) {x} : Outcome.canonical (execScmp x s) :=
  h.issue fun _ _ ht => by simp [ht]

@[simp] theorem canonical_execSsel (h : s.canonical) {x} : Outcome.canonical (execSsel x s) :=
  h.issue fun _ _ ht => by simp [ht]

@[simp] theorem canonical_execSmovk (h : s.canonical) {x} : Outcome.canonical (execSmovk x s) :=
  h.issue fun _ _ ht => by simp [ht]

@[simp] theorem canonical_execSrdl (h : s.canonical) {x} : Outcome.canonical (execSrdl x s) :=
  h.issue fun _ _ ht => by simp [ht]

@[simp] theorem canonical_execSbit (h : s.canonical) {x} : Outcome.canonical (execSbit x s) :=
  h.issue fun _ _ ht => by simp [ht]

@[simp] theorem canonical_execSget (h : s.canonical) {x} : Outcome.canonical (execSget x s) :=
  h.issue fun _ _ ht => by simp [ht]

@[simp] theorem Res.canonical_addSub (h : s.canonical) {x sub} : (c.addSub s x sub).canonical := by
  unfold Ctx.addSub
  split <;> simp [h]

@[simp] theorem canonical_execViadd (h : s.canonical) {x} : Outcome.canonical (execViadd x s) :=
  h.issue fun _ _ ht => by simp [ht]

@[simp] theorem canonical_execVisub (h : s.canonical) {x} : Outcome.canonical (execVisub x s) :=
  h.issue fun _ _ ht => by simp [ht]

@[simp] theorem canonical_execVimul (h : s.canonical) {x} : Outcome.canonical (execVimul x s) := h.issue fun _ _ ht => ht
@[simp] theorem canonical_execVimad (h : s.canonical) {x} : Outcome.canonical (execVimad x s) := h.issue fun _ _ ht => ht

@[simp] theorem canonical_execVidiv (h : s.canonical) {x} : Outcome.canonical (execVidiv x s) :=
  h.issue fun _ _ ht => by simp [ht]

@[simp] theorem canonical_execVlog (h : s.canonical) {x} : Outcome.canonical (execVlog x s) := h.issue fun _ _ ht => ht
@[simp] theorem canonical_execVsh (h : s.canonical) {x} : Outcome.canonical (execVsh x s) := h.issue fun _ _ ht => ht
@[simp] theorem canonical_execVmnx (h : s.canonical) {x} : Outcome.canonical (execVmnx x s) := h.issue fun _ _ ht => ht
@[simp] theorem canonical_execVbit (h : s.canonical) {x} : Outcome.canonical (execVbit x s) := h.issue fun _ _ ht => ht
@[simp] theorem canonical_execVbfx (h : s.canonical) {x} : Outcome.canonical (execVbfx x s) := h.issue fun _ _ ht => ht
@[simp] theorem canonical_execVbfi (h : s.canonical) {x} : Outcome.canonical (execVbfi x s) := h.issue fun _ _ ht => ht
@[simp] theorem canonical_execVicmp (h : s.canonical) {x} : Outcome.canonical (execVicmp x s) := h.issue fun _ _ ht => ht
@[simp] theorem canonical_execVsel (h : s.canonical) {x} : Outcome.canonical (execVsel x s) := h.issue fun _ _ ht => ht
@[simp] theorem canonical_execVmov (h : s.canonical) {x} : Outcome.canonical (execVmov x s) := h.issue fun _ _ ht => ht
@[simp] theorem canonical_execVmovk (h : s.canonical) {x} : Outcome.canonical (execVmovk x s) := h.issue fun _ _ ht => ht
@[simp] theorem canonical_execVlea (h : s.canonical) {x} : Outcome.canonical (execVlea x s) := h.issue fun _ _ ht => ht
@[simp] theorem canonical_execViadd64 (h : s.canonical) {x} : Outcome.canonical (execViadd64 x s) := h.issue fun _ _ ht => ht
@[simp] theorem canonical_execVimul64 (h : s.canonical) {x} : Outcome.canonical (execVimul64 x s) := h.issue fun _ _ ht => ht

@[simp] theorem canonical_execViext (h : s.canonical) {x} : Outcome.canonical (execViext x s) :=
  h.issue fun _ _ ht => by simp [ht]

@[simp] theorem canonical_execVpack (h : s.canonical) {x} : Outcome.canonical (execVpack x s) := h.issue fun _ _ ht => ht

/-! ### Reads before an instruction issues -/

@[simp] theorem Res.canonical_beginRead (h : s.canonical) {m va n hf} : (c.beginRead s m va n hf).canonical := by
  simp [Ctx.beginRead, h]

@[simp] theorem Res.canonical_goOnRead (h : s.canonical) {m p access name} {f : List Byte → State → Res}
    (hf : ∀ bs t, t.canonical → (f bs t).canonical) : (c.goOnRead s m p access name f).canonical := by
  unfold Ctx.goOnRead
  split
  · trivial
  · exact hf _ _ (State.canonical_dropPre.2 h)
  · exact h

@[simp] theorem Res.canonical_reading (h : s.canonical) {m va n access name} {f : List Byte → State → Res}
    (hf : ∀ bs t, t.canonical → (f bs t).canonical) : (c.reading s m va n access name f).canonical := by
  unfold Ctx.reading
  split
  · simp [h]
  · split
    · simp [h]
    · exact Res.canonical_goOnRead h hf

/-! ### Cross-lane instructions -/

@[simp] theorem canonical_execVshfl (h : s.canonical) {x} : Outcome.canonical (execVshfl x s) := h.issue fun _ _ ht => ht

@[simp] theorem canonical_execVvote (h : s.canonical) {x} : Outcome.canonical (execVvote x s) := by
  refine h.issue fun c t ht => ?_
  split <;> simp [ht]

@[simp] theorem canonical_execVprfx (h : s.canonical) {x} : Outcome.canonical (execVprfx x s) := h.issue fun _ _ ht => ht

@[simp] theorem canonical_execVred (h : s.canonical) {x} : Outcome.canonical (execVred x s) :=
  h.issue fun _ _ ht => by simp [ht]

@[simp] theorem canonical_execVmatch (h : s.canonical) {x} : Outcome.canonical (execVmatch x s) := h.issue fun _ _ ht => ht

@[simp] theorem canonical_execVbcst (h : s.canonical) {x} : Outcome.canonical (execVbcst x s) := by
  refine h.issue fun c t ht => ?_
  split <;> simp [ht]

@[simp] theorem canonical_execFenceg (h : s.canonical) {x} : Outcome.canonical (execFenceg x s) :=
  h.issue fun _ _ ht => by simp [ht]

/-! ### Floating-point instructions -/

@[simp] theorem Res.canonical_flt (h : s.canonical) {x f} : (c.flt s x f).canonical := by simp [Ctx.flt, h]
@[simp] theorem canonical_execVfadd (h : s.canonical) {x} : Outcome.canonical (execVfadd x s) := h.issue fun _ _ ht => ht
@[simp] theorem canonical_execVfsub (h : s.canonical) {x} : Outcome.canonical (execVfsub x s) := h.issue fun _ _ ht => ht
@[simp] theorem canonical_execVfmul (h : s.canonical) {x} : Outcome.canonical (execVfmul x s) := h.issue fun _ _ ht => ht
@[simp] theorem canonical_execVfma (h : s.canonical) {x} : Outcome.canonical (execVfma x s) := h.issue fun _ _ ht => ht
@[simp] theorem canonical_execVfmnx (h : s.canonical) {x} : Outcome.canonical (execVfmnx x s) := h.issue fun _ _ ht => ht
@[simp] theorem canonical_execVfcmp (h : s.canonical) {x} : Outcome.canonical (execVfcmp x s) := h.issue fun _ _ ht => ht
@[simp] theorem canonical_execVfclass (h : s.canonical) {x} : Outcome.canonical (execVfclass x s) := h.issue fun _ _ ht => ht
@[simp] theorem Res.canonical_fltLater (h : s.canonical) {x f} : (c.fltLater s x f).canonical := by simp [Ctx.fltLater, h]

@[simp] theorem canonical_execVfdiv (h : s.canonical) {x} : Outcome.canonical (execVfdiv x s) :=
  h.issue fun _ _ ht => by simp [ht]

@[simp] theorem canonical_execVfsqrt (h : s.canonical) {x} : Outcome.canonical (execVfsqrt x s) :=
  h.issue fun _ _ ht => by simp [ht]

@[simp] theorem canonical_execVfapx (h : s.canonical) {x} : Outcome.canonical (execVfapx x s) :=
  h.issue fun _ _ ht => by simp [ht]

@[simp] theorem canonical_execVfscl (h : s.canonical) {x} : Outcome.canonical (execVfscl x s) := h.issue fun _ _ ht => ht
@[simp] theorem canonical_execVfrnd (h : s.canonical) {x} : Outcome.canonical (execVfrnd x s) := h.issue fun _ _ ht => ht

@[simp] theorem canonical_execVcvtf (h : s.canonical) {x} : Outcome.canonical (execVcvtf x s) :=
  h.issue fun _ _ ht => by simp [ht]

@[simp] theorem canonical_execVcvtfi (h : s.canonical) {x} : Outcome.canonical (execVcvtfi x s) := h.issue fun _ _ ht => ht
@[simp] theorem canonical_execVcvtif (h : s.canonical) {x} : Outcome.canonical (execVcvtif x s) := h.issue fun _ _ ht => ht

@[simp] theorem canonical_execVqnt (h : s.canonical) {x} : Outcome.canonical (execVqnt x s) := by
  refine h.issue fun c t ht => ?_
  split <;> simp [ht]

@[simp] theorem canonical_execVdqnt (h : s.canonical) {x} : Outcome.canonical (execVdqnt x s) := by
  refine h.issue fun c t ht => ?_
  split <;> simp [ht]

/-! ### Loads, stores and waits -/

@[simp] theorem Res.canonical_post (h : s.canonical) {la i rs} : (c.post s la i rs).canonical := by simp [Ctx.post, h]

@[simp] theorem Res.canonical_loadV (h : s.canonical) {x space causes ea} : (c.loadV s x space causes ea).canonical := by
  simp [Ctx.loadV, h]

@[simp] theorem Res.canonical_storeV (h : s.canonical) {x space causes ea} : (c.storeV s x space causes ea).canonical := by
  simp [Ctx.storeV, h]

@[simp] theorem Res.canonical_loadS (h : s.canonical) {x space causes ea} : (c.loadS s x space causes ea).canonical := by
  simp [Ctx.loadS, h]

@[simp] theorem Res.canonical_storeS (h : s.canonical) {x space causes ea} : (c.storeS s x space causes ea).canonical := by
  simp [Ctx.storeS, h]

@[simp] theorem canonical_execLd (h : s.canonical) {x} : Outcome.canonical (execLd x s) := h.issue fun _ _ ht => by simp [ht]
@[simp] theorem canonical_execSt (h : s.canonical) {x} : Outcome.canonical (execSt x s) := h.issue fun _ _ ht => by simp [ht]

@[simp] theorem canonical_execLds (h : s.canonical) {x} : Outcome.canonical (execLds x s) :=
  h.issue fun _ _ ht => by simp [ht]

@[simp] theorem canonical_execSts (h : s.canonical) {x} : Outcome.canonical (execSts x s) :=
  h.issue fun _ _ ht => by simp [ht]

@[simp] theorem canonical_execLdu (h : s.canonical) {x} : Outcome.canonical (execLdu x s) :=
  h.issue fun _ _ ht => by simp [ht]

@[simp] theorem canonical_execStu (h : s.canonical) {x} : Outcome.canonical (execStu x s) :=
  h.issue fun _ _ ht => by simp [ht]

@[simp] theorem canonical_execLda (h : s.canonical) {x} : Outcome.canonical (execLda x s) :=
  h.issue fun _ _ ht => by simp [ht]

@[simp] theorem canonical_execSta (h : s.canonical) {x} : Outcome.canonical (execSta x s) :=
  h.issue fun _ _ ht => by simp [ht]

@[simp] theorem canonical_execLdds (h : s.canonical) {x} : Outcome.canonical (execLdds x s) :=
  h.issue fun _ _ ht => by simp [ht]

@[simp] theorem canonical_execPref (h : s.canonical) {x} : Outcome.canonical (execPref x s) :=
  h.issue fun _ _ ht => by simp [ht]

@[simp] theorem canonical_execCctl (h : s.canonical) {x} : Outcome.canonical (execCctl x s) :=
  h.issue fun _ _ ht => by simp [ht]

@[simp] theorem canonical_execWaitc (h : s.canonical) {x} : Outcome.canonical (execWaitc x s) :=
  h.issueN fun _ _ ht => by simp [ht]

@[simp] theorem canonical_execLdk (h : s.canonical) {x} : Outcome.canonical (execLdk x s) :=
  h.issue fun _ _ ht => by simp [ht]

@[simp] theorem canonical_execStk (h : s.canonical) {x} : Outcome.canonical (execStk x s) :=
  h.issue fun _ _ ht => by simp [ht]

/-! ### Atomics, barriers and fences -/

@[simp] theorem Res.canonical_atomV (h : s.canonical) {x cas fetch} : (c.atomV s x cas fetch).canonical := by
  simp [Ctx.atomV, h]

@[simp] theorem Res.canonical_atomS (h : s.canonical) {x cas fetch} : (c.atomS s x cas fetch).canonical := by
  simp [Ctx.atomS, h]

@[simp] theorem canonical_execAtom (h : s.canonical) {x} : Outcome.canonical (execAtom x s) :=
  h.issue fun _ _ ht => by simp [ht]

@[simp] theorem canonical_execCas (h : s.canonical) {x} : Outcome.canonical (execCas x s) :=
  h.issue fun _ _ ht => by simp [ht]

@[simp] theorem canonical_execRed (h : s.canonical) {x} : Outcome.canonical (execRed x s) :=
  h.issue fun _ _ ht => by simp [ht]

@[simp] theorem canonical_execAtoms (h : s.canonical) {x} : Outcome.canonical (execAtoms x s) :=
  h.issue fun _ _ ht => by simp [ht]

@[simp] theorem canonical_execCass (h : s.canonical) {x} : Outcome.canonical (execCass x s) :=
  h.issue fun _ _ ht => by simp [ht]

@[simp] theorem canonical_execReds (h : s.canonical) {x} : Outcome.canonical (execReds x s) :=
  h.issue fun _ _ ht => by simp [ht]

@[simp] theorem Res.canonical_barrier (h : s.canonical) {x} {f : Nat → BarObj → Res}
    (hf : ∀ off o, (f off o).canonical) : (c.barrier s x f).canonical := by
  simp [Ctx.barrier, h, hf]

@[simp] theorem Res.canonical_barPut (h : s.canonical) {off o} : (c.barPut s off o).canonical := by simp [Ctx.barPut, h]

@[simp] theorem canonical_execBarinit (h : s.canonical) {x} : Outcome.canonical (execBarinit x s) :=
  h.issue fun _ _ ht => by simp [ht]

@[simp] theorem canonical_execBararr (h : s.canonical) {x} : Outcome.canonical (execBararr x s) :=
  h.issue fun _ _ ht => by simp [ht]

@[simp] theorem canonical_execBarexp (h : s.canonical) {x} : Outcome.canonical (execBarexp x s) :=
  h.issue fun _ _ ht => by simp [ht]

@[simp] theorem canonical_execBarwait (h : s.canonical) {x} : Outcome.canonical (execBarwait x s) :=
  h.issueN fun _ _ ht => by simp [ht]

@[simp] theorem canonical_execBartst (h : s.canonical) {x} : Outcome.canonical (execBartst x s) :=
  h.issue fun _ _ ht => by simp [ht]

@[simp] theorem canonical_execFence (h : s.canonical) {x} : Outcome.canonical (execFence x s) := by
  refine h.issue fun c t ht => ?_
  dsimp only
  split
  · simp [ht]
  · split
    · simp
    · split
      · simp [ht]
      · split <;> simp [ht]

/-! ### System instructions -/

@[simp] theorem canonical_execTrap (h : s.canonical) {x} : Outcome.canonical (execTrap x s) :=
  h.issue fun _ _ ht => by simp [ht]

@[simp] theorem canonical_execRft (h : s.canonical) {x} : Outcome.canonical (execRft x s) :=
  h.issue fun _ _ ht => by simp [ht]

@[simp] theorem canonical_execCsrr (h : s.canonical) {x} : Outcome.canonical (execCsrr x s) :=
  h.issue fun _ _ ht => by simp [ht]

@[simp] theorem canonical_execCsrw (h : s.canonical) {x} : Outcome.canonical (execCsrw x s) :=
  h.issue fun _ _ ht => by simp [ht]

@[simp] theorem canonical_execBkpt (h : s.canonical) {x} : Outcome.canonical (execBkpt x s) :=
  h.issue fun _ _ ht => by simp [ht]

/-! ### Versions -/

@[simp] theorem canonical_execVnld (h : s.canonical) {x} : Outcome.canonical (execVnld x s) :=
  h.issueN fun _ _ ht => by simp [ht]

@[simp] theorem canonical_execVnst (h : s.canonical) {x} : Outcome.canonical (execVnst x s) :=
  h.issue fun _ _ ht => by simp [ht]

@[simp] theorem Res.canonical_onRegion (h : s.canonical) {g a} {f : Region → Res}
    (hf : ∀ r, (f r).canonical) : (c.onRegion s g a f).canonical := by
  unfold Ctx.onRegion
  split
  · exact h
  · split
    · trivial
    · exact hf _

@[simp] theorem Res.canonical_issuesFor {q} {k : Res} (hk : k.canonical) : (c.issuesFor q k).canonical := by
  cases k <;> exact hk

@[simp] theorem Res.canonical_answerOr (h : s.canonical) {go : HomeReq → Res} {k : Res}
    (hgo : ∀ q, (go q).canonical) (hk : k.canonical) : (c.answerOr s go k).canonical := by
  unfold Ctx.answerOr
  split
  · exact Res.canonical_issuesFor (by simp [h, hgo])
  · exact hk

@[simp] theorem Res.canonical_publishing (h : s.canonical) {a2} : (c.publishing s a2).canonical := by
  unfold Ctx.publishing
  split <;> simp [h]

@[simp] theorem canonical_execVnpub (h : s.canonical) {x} : Outcome.canonical (execVnpub x s) := by
  refine h.issueN fun c t ht => Res.canonical_answerOr ht (fun q => by simp [ht]) (Res.canonical_onRegion ht fun r => ?_)
  simp [ht]

@[simp] theorem canonical_execVnfloor (h : s.canonical) {x} : Outcome.canonical (execVnfloor x s) :=
  h.issueN fun _ _ ht => by simp [ht]

@[simp] theorem canonical_execVnwait (h : s.canonical) {x} : Outcome.canonical (execVnwait x s) :=
  h.issueN fun _ _ ht => by simp [ht]

@[simp] theorem canonical_execVnstat (h : s.canonical) {x} : Outcome.canonical (execVnstat x s) :=
  h.issueN fun _ _ ht => by simp [ht]

@[simp] theorem canonical_execVnopen (h : s.canonical) {x} : Outcome.canonical (execVnopen x s) := by
  refine h.issueN fun c t ht => ?_
  dsimp only
  split
  · exact ht
  · split
    · exact ht
    · split
      · trivial
      · split
        · exact ht
        · split
          · trivial
          · refine Res.canonical_reading ht fun bs u hu => ?_
            split
            · trivial
            · split
              · trivial
              · simp [hu]

/-! ### Matrix operations -/

@[simp] theorem Res.canonical_accept (h : s.canonical) {i la o f} : (c.accept s i la o f).canonical := by simp [Ctx.accept, h]

@[simp] theorem canonical_execGangset (h : s.canonical) {x} : Outcome.canonical (execGangset x s) :=
  h.issue fun _ _ ht => by simp [ht]

@[simp] theorem Res.canonical_mma (h : s.canonical) {x shadow} : (c.mma s x shadow).canonical := by simp [Ctx.mma, h]

@[simp] theorem canonical_execMma (h : s.canonical) {x} : Outcome.canonical (execMma x s) :=
  h.issueN fun _ _ ht => by simp [ht]

@[simp] theorem canonical_execMmas (h : s.canonical) {x} : Outcome.canonical (execMmas x s) :=
  h.issueN fun _ _ ht => by simp [ht]

@[simp] theorem canonical_execAcommit (h : s.canonical) {x} : Outcome.canonical (execAcommit x s) :=
  h.issue fun _ _ ht => by simp [ht]

@[simp] theorem canonical_execAdiscard (h : s.canonical) {x} : Outcome.canonical (execAdiscard x s) :=
  h.issue fun _ _ ht => by simp [ht]

@[simp] theorem canonical_execAccld (h : s.canonical) {x} : Outcome.canonical (execAccld x s) :=
  h.issueN fun _ _ ht => by simp [ht]

@[simp] theorem canonical_execAccz (h : s.canonical) {x} : Outcome.canonical (execAccz x s) :=
  h.issueN fun _ _ ht => by simp [ht]

@[simp] theorem canonical_execTld (h : s.canonical) {x} : Outcome.canonical (execTld x s) :=
  h.issueN fun _ _ ht => by simp [ht]

@[simp] theorem canonical_execTst (h : s.canonical) {x} : Outcome.canonical (execTst x s) :=
  h.issueN fun _ _ ht => by simp [ht]

@[simp] theorem canonical_execThset (h : s.canonical) {x} : Outcome.canonical (execThset x s) :=
  h.issueN fun _ _ ht => by simp [ht]

@[simp] theorem canonical_execThget (h : s.canonical) {x} : Outcome.canonical (execThget x s) :=
  h.issue fun _ _ ht => by simp [ht]

/-! ### Retrieval -/

@[simp] theorem Res.canonical_hfLoaded (h : s.canonical) {m n bs} : (c.hfLoaded m n bs s).canonical := by
  unfold Ctx.hfLoaded
  split
  next e => exact (State.canonical_setFamily e).2 h
  · trivial

@[simp] theorem canonical_execHfset (h : s.canonical) {x} : Outcome.canonical (execHfset x s) := by
  refine h.issueN fun c t ht => ?_
  dsimp only
  split
  · exact Res.canonical_goOnRead ht fun _ _ hu => Res.canonical_hfLoaded hu
  · simp [ht]

@[simp] theorem canonical_execHcode (h : s.canonical) {x} : Outcome.canonical (execHcode x s) :=
  h.issue fun _ _ ht => by simp [ht]

@[simp] theorem Res.canonical_leave (h : s.canonical) {i la p} : (c.leave s i la p).canonical := by simp [Ctx.leave, h]

@[simp] theorem canonical_execHprobe (h : s.canonical) {x} : Outcome.canonical (execHprobe x s) :=
  h.issueN fun _ _ ht => by simp [ht]

@[simp] theorem Res.canonical_update (h : s.canonical) {x v high f late} {send : State → Res}
    (hs : (send s).canonical) : (c.update s x v high f late send).canonical := by
  simp [Ctx.update, h, hs]

@[simp] theorem Res.canonical_updating (h : s.canonical) {a2} : (c.updating s a2).canonical := by simp [Ctx.updating, h]

@[simp] theorem Res.canonical_merging (h : s.canonical) {a2} : (c.merging s a2).canonical := by
  unfold Ctx.merging
  split <;> simp [h]

@[simp] theorem Res.canonical_sideIssue (h : s.canonical) {x kind fam a5} : (c.sideIssue s x kind fam a5).canonical := by
  simp [Ctx.sideIssue, h]

@[simp] theorem Res.canonical_sideUpdate (h : s.canonical) {x kind} : (c.sideUpdate s x kind).canonical := by
  refine Res.canonical_answerOr h (fun q => ?_) ?_
  · split <;> simp [h]
  · split <;> simp [h]

@[simp] theorem canonical_execHins (h : s.canonical) {x} : Outcome.canonical (execHins x s) :=
  h.issueN fun _ _ ht => by simp [ht]

@[simp] theorem canonical_execHdel (h : s.canonical) {x} : Outcome.canonical (execHdel x s) :=
  h.issueN fun _ _ ht => by simp [ht]

@[simp] theorem canonical_execHrehash (h : s.canonical) {x} : Outcome.canonical (execHrehash x s) := by
  refine h.issueN fun c t ht => Res.canonical_answerOr ht (fun q => by simp [ht]) ?_
  split
  · exact ht
  · split
    · trivial
    · split
      · trivial
      · split
        · exact Res.canonical_update ht (Res.canonical_reading ht fun bs u hu => by simp [hu])
        · trivial

@[simp] theorem canonical_execHmerge (h : s.canonical) {x} : Outcome.canonical (execHmerge x s) := by
  refine h.issueN fun c t ht => Res.canonical_answerOr ht (fun q => by simp [ht]) ?_
  simp [ht]

@[simp] theorem canonical_execHstat (h : s.canonical) {x} : Outcome.canonical (execHstat x s) :=
  h.issue fun _ _ ht => by simp [ht]

/-! ### Tasks -/

@[simp] theorem canonical_execSpawn (h : s.canonical) {x} : Outcome.canonical (execSpawn x s) :=
  h.issueN fun _ _ ht => by simp [ht]

@[simp] theorem canonical_execBndset (h : s.canonical) {x} : Outcome.canonical (execBndset x s) :=
  h.issue fun _ _ ht => by simp [ht]

@[simp] theorem canonical_execBndget (h : s.canonical) {x} : Outcome.canonical (execBndget x s) :=
  h.issue fun _ _ ht => by simp [ht]

@[simp] theorem canonical_execIcupd (h : s.canonical) {x} : Outcome.canonical (execIcupd x s) := by
  refine h.issue fun c t ht => ?_
  dsimp only
  split
  · simp [ht]
  · split
    · simp
    · split <;> simp [ht]

@[simp] theorem canonical_execIcrd (h : s.canonical) {x} : Outcome.canonical (execIcrd x s) :=
  h.issue fun _ _ ht => by simp [ht]

@[simp] theorem canonical_execShield (h : s.canonical) {x} : Outcome.canonical (execShield x s) := h.issueN fun _ _ ht => ht

@[simp] theorem canonical_execTqstat (h : s.canonical) {x} : Outcome.canonical (execTqstat x s) :=
  h.issue fun _ _ ht => by simp [ht]

/-! ### Commands that are pushed -/

@[simp] theorem Res.canonical_acceptCmd (h : s.canonical) {x threads w regs} :
    (c.acceptCmd s x threads w regs).canonical := by
  simp [Ctx.acceptCmd, h]

@[simp] theorem Res.canonical_enqueue (h : s.canonical) {x m threads w regs away hold} (ha : away.canonical)
    (hh : hold.canonical) : (c.enqueue s x m threads w regs away hold).canonical := by
  unfold Ctx.enqueue
  dsimp only
  split
  · exact hh
  · split
    · simp [ha, hh]
    · split
      · simp [h]
      · split <;> simp [h, hh]

@[simp] theorem Res.canonical_pushing (h : s.canonical) {x q} : (c.pushing s x q).canonical := by
  unfold Ctx.pushing
  dsimp only
  split
  · split
    · simp [h]
    · split <;> simp [h]
  · simp [h]
  · exact h

@[simp] theorem canonical_execPush (h : s.canonical) {x} : Outcome.canonical (execPush x s) := by
  refine h.issueN fun c t ht => Res.canonical_answerOr ht (fun q => Res.canonical_pushing ht) ?_
  dsimp only
  split
  · exact ht
  · split
    · exact ht
    · split
      · exact ht
      · split
        · trivial
        · split
          · split <;> simp [ht]
          · simp [ht]

@[simp] theorem canonical_execQstat (h : s.canonical) {x} : Outcome.canonical (execQstat x s) :=
  h.issue fun _ _ ht => by simp [ht]

/-! ### Issue cycles -/

@[simp] theorem canonical_execIssueCycle (h : s.canonical) {core quad} : Outcome.canonical (execIssueCycle core quad s) := by
  unfold execIssueCycle
  split
  · simp [h]
  · split
    · simp [h]
    · split <;> simp [h]

@[simp] theorem canonical_execLaneOverdue (h : s.canonical) {core quad} : Outcome.canonical (execLaneOverdue core quad s) := by
  unfold execLaneOverdue
  split <;> simp [h]

/-! ### Entries, homes and version lines -/

@[simp] theorem canonical_execSifterAccept (h : s.canonical) {req} : Outcome.canonical (execSifterAccept req s) := by
  have accepted : ∀ {rs : List Req}, (rs.foldl (fun t q => t.accept1 q) s).canonical :=
    State.canonical.foldl (fun _ _ ht => ht.accept1) h
  unfold execSifterAccept
  split
  · simp [h]
  · dsimp only
    split
    · simp [h]
    · split
      · simp [State.canonical_foldl, h, accepted]
      · simp [h]

end Sys2Proof.Machine
end

section
/-!
SUPPORT. Every event keeps the canonical form of memory, and with the instructions every step does; O58.
-/

namespace Sys2Proof.Machine

variable {s : State}

/-- A command of the host is served, or answered with its refusal. -/
theorem canonical_serve (h : s.canonical) {c op w} {f : State → State} (hf : ∀ t, t.canonical → (f t).canonical) :
    Outcome.canonical (s.serve c op w f) := by
  unfold State.serve
  dsimp only
  split
  · split
    · simp [h]
    · simp [h, hf]
  · simp [h]

/-! ### Retrieval -/

@[simp] theorem canonical_execResultLand (h : s.canonical) {blk grp pend} :
    Outcome.canonical (execResultLand blk grp pend s) := by
  have side : ∀ {p : Probe} {r : Region}, (((s.runSide p r).map fun t => t.settle blk grp pend).getD s).canonical := by
    intro p r
    cases e : s.runSide p r with
    | none => exact h
    | some t => simp [State.canonical_runSide e, h]
  unfold execResultLand
  dsimp only
  split
  · split
    · simp [h]
    · split
      · simp [h]
      · split <;> simp [h, side]
  · split <;> simp [h]
  · simp [h]

@[simp] theorem canonical_execProbeVersionWake (h : s.canonical) {probe} :
    Outcome.canonical (execProbeVersionWake probe s) := by
  unfold execProbeVersionWake
  split <;> simp [h]

@[simp] theorem canonical_execRegistration (h : s.canonical) {req} : Outcome.canonical (execRegistration req s) := by
  have landed : ∀ {r : Region} {w : Lines} {q q' : HomeReq},
      (((s.landUpdate r w q.ver).map fun t => t.answered q').getD s).canonical := by
    intro r w q q'
    cases e : s.landUpdate r w q.ver with
    | none => exact h
    | some t => simp [State.canonical_landUpdate e, h]
  unfold execRegistration
  split
  · simp [h]
  · split
    · simp [h]
    · split
      · split <;> simp [h, landed]
      · simp [h]

@[simp] theorem canonical_execPublicationPoint (h : s.canonical) {req} : Outcome.canonical (execPublicationPoint req s) := by
  unfold execPublicationPoint
  split
  · simp [h]
  · split <;> simp [h]

/-! ### Groups -/

@[simp] theorem canonical_execMeetingRelease (h : s.canonical) {blk grp m} :
    Outcome.canonical (execMeetingRelease blk grp m s) := by
  unfold execMeetingRelease
  split <;> simp [h]

@[simp] theorem canonical_execMeetingDeadlock (h : s.canonical) {blk grp} :
    Outcome.canonical (execMeetingDeadlock blk grp s) := by
  unfold execMeetingDeadlock
  dsimp only
  split
  · simp [h]
  · split <;> simp [h]

@[simp] theorem canonical_execRepacking (h : s.canonical) {blk} : Outcome.canonical (execRepacking blk s) := by
  unfold execRepacking
  split
  · simp [h]
  · split
    · simp [h]
    · split
      · exact Outcome.canonical_next.2 (State.canonical.foldl (fun t i ht => by simp [ht]) h)
      · simp [h]

@[simp] theorem canonical_execSleepExpiry (h : s.canonical) {blk grp lane} :
    Outcome.canonical (execSleepExpiry blk grp lane s) := by
  unfold execSleepExpiry
  split
  · simp [h]
  · split <;> simp [h]

@[simp] theorem canonical_execActiveSetSwap (h : s.canonical) {core quad} :
    Outcome.canonical (execActiveSetSwap core quad s) := by
  unfold execActiveSetSwap
  dsimp only
  split
  · simp [h]
  · split
    · simp [h]
    · split <;> simp [h]

@[simp] theorem canonical_execActiveIdleTimeout (h : s.canonical) {blk grp} :
    Outcome.canonical (execActiveIdleTimeout blk grp s) := by
  unfold execActiveIdleTimeout
  split <;> simp [h]

@[simp] theorem canonical_execTrapEntry (h : s.canonical) {blk grp} : Outcome.canonical (execTrapEntry blk grp s) := by
  unfold execTrapEntry
  split <;> simp [h]

@[simp] theorem canonical_execBarwaitResume (h : s.canonical) {blk grp} : Outcome.canonical (execBarwaitResume blk grp s) := by
  unfold execBarwaitResume
  split
  · simp [h]
  · split
    · simp [h]
    · dsimp only
      split
      · simp [h]
      · split
        next e => exact Outcome.canonical_next.2 ((State.canonical_askFirst e).2 h)
        next => simp [h]

/-! ### Entries, homes and version lines -/

@[simp] theorem canonical_execSifterEntrySend (h : s.canonical) {entry} :
    Outcome.canonical (execSifterEntrySend entry s) := by
  unfold execSifterEntrySend
  split <;> simp [h]

@[simp] theorem canonical_execSifterWindowExpiry (h : s.canonical) {entry} :
    Outcome.canonical (execSifterWindowExpiry entry s) := by
  unfold execSifterWindowExpiry
  split <;> simp [h]

@[simp] theorem canonical_execHomeRequest (h : s.canonical) {entry} : Outcome.canonical (execHomeRequest entry s) := by
  unfold execHomeRequest
  split
  · simp [h]
  · dsimp only
    split
    · simp [h]
    · simp [h]
    · simp [State.canonical_foldl, h]
    · split
      · simp [h]
      · split
        · simp [h]
        · simp [h]

@[simp] theorem canonical_execLoadSectorReply (h : s.canonical) {req} : Outcome.canonical (execLoadSectorReply req s) := by
  unfold execLoadSectorReply
  split <;> simp [h]

@[simp] theorem canonical_execStoreAcknowledgement (h : s.canonical) {req} :
    Outcome.canonical (execStoreAcknowledgement req s) := by
  unfold execStoreAcknowledgement
  split <;> simp [h]

@[simp] theorem canonical_execBytesLand (h : s.canonical) {item} : Outcome.canonical (execBytesLand item s) := by
  unfold execBytesLand
  split
  · simp [h]
  · split
    · simp [h]
    · split <;> simp [h]

@[simp] theorem canonical_execMirrorStoreLand (h : s.canonical) {item} : Outcome.canonical (execMirrorStoreLand item s) := by
  unfold execMirrorStoreLand
  split
  · simp [h]
  · split <;> simp [h]

@[simp] theorem canonical_execVnstApply (h : s.canonical) {entry} : Outcome.canonical (execVnstApply entry s) := by
  unfold execVnstApply
  split
  · simp [h]
  · dsimp only
    split
    · split
      · simp [h]
      · split
        · simp [State.canonical_foldl, h]
        · split
          next a => simp [State.canonical_applyVnst a, h]
          next => simp [State.canonical_foldl, h]
    · simp [h]

@[simp] theorem canonical_execPoolRetry (h : s.canonical) {region} : Outcome.canonical (execPoolRetry region s) := by
  unfold execPoolRetry
  split
  · simp [h]
  · split
    · simp [h]
    · dsimp only
      simp [State.canonical_foldl, h]

@[simp] theorem canonical_execVnldHome (h : s.canonical) {entry} : Outcome.canonical (execVnldHome entry s) := by
  unfold execVnldHome
  split
  · simp [h]
  · dsimp only
    split
    · split
      · simp [h]
      · split <;> simp [State.canonical_foldl, h]
    · simp [h]

@[simp] theorem canonical_execVnldWake (h : s.canonical) {entry} : Outcome.canonical (execVnldWake entry s) := by
  unfold execVnldWake
  split
  · simp [h]
  · dsimp only
    split <;> simp [State.canonical_foldl, h]

@[simp] theorem canonical_execVnldRetry (h : s.canonical) {entry} : Outcome.canonical (execVnldRetry entry s) := by
  unfold execVnldRetry
  split <;> simp [h]

@[simp] theorem canonical_execReclamation (h : s.canonical) {region line} :
    Outcome.canonical (execReclamation region line s) := by
  unfold execReclamation
  split <;> simp [h]

/-! ### The matrix queue -/

@[simp] theorem canonical_execMatrixAccept (h : s.canonical) {core} : Outcome.canonical (execMatrixAccept core s) := by
  unfold execMatrixAccept
  split <;> simp [h]

@[simp] theorem canonical_execMatrixRetire (h : s.canonical) {core} : Outcome.canonical (execMatrixRetire core s) := by
  unfold execMatrixRetire
  split <;> simp [h]

@[simp] theorem canonical_execGangRendezvous (h : s.canonical) {blk gang} :
    Outcome.canonical (execGangRendezvous blk gang s) := by
  have asked : ∀ {b l i m offs ms}, ((s.askFirst b l i m offs).getD (s.unlatch blk ms)).canonical := by
    intro b l i m offs ms
    cases e : s.askFirst b l i m offs with
    | none => simp [h]
    | some t => exact (State.canonical_askFirst e).2 h
  unfold execGangRendezvous
  split
  · simp [h]
  · split
    · simp [h]
    · dsimp only
      split
      · simp [h]
      · split
        · exact Outcome.canonical_next.2 asked
        · split
          · simp [h]
          · split <;> simp [h]

@[simp] theorem canonical_execGangMemberExited (h : s.canonical) {blk gang} :
    Outcome.canonical (execGangMemberExited blk gang s) := by
  unfold execGangMemberExited
  split
  · simp [h]
  · split <;> simp [h]

/-! ### Engine commands -/

@[simp] theorem canonical_execEngineCommandStart (h : s.canonical) {cmd} :
    Outcome.canonical (execEngineCommandStart cmd s) := by
  unfold execEngineCommandStart
  split
  · simp [h]
  · dsimp only
    split
    · simp [h]
    · exact Outcome.canonical_next.2 (State.canonical.foldl (fun _ _ ht => ht.engage) (State.canonical_modCmd.2 h))

@[simp] theorem canonical_execCopyCommand (h : s.canonical) {cmd row lo len} :
    Outcome.canonical (execCopyCommand cmd row lo len s) := by
  unfold execCopyCommand
  split <;> simp [h]

@[simp] theorem canonical_execFill (h : s.canonical) {cmd row lo len} : Outcome.canonical (execFill cmd row lo len s) := by
  unfold execFill
  split <;> simp [h]

@[simp] theorem canonical_execRedcopy (h : s.canonical) {cmd row lo len} :
    Outcome.canonical (execRedcopy cmd row lo len s) := by
  unfold execRedcopy
  split <;> simp [h]

@[simp] theorem canonical_execInsert (h : s.canonical) {cmd} : Outcome.canonical (execInsert cmd s) := by
  unfold execInsert
  split <;> simp [h]

@[simp] theorem canonical_execDelete (h : s.canonical) {cmd} : Outcome.canonical (execDelete cmd s) := by
  unfold execDelete
  split <;> simp [h]

@[simp] theorem canonical_execMerge (h : s.canonical) {cmd} : Outcome.canonical (execMerge cmd s) := by
  unfold execMerge
  dsimp only
  split
  · simp [h]
  · split
    · simp [h]
    · split
      · simp [h]
      · split
        · simp [h]
        · split <;> simp [h]

@[simp] theorem canonical_execEngineCommandCompletion (h : s.canonical) {cmd} :
    Outcome.canonical (execEngineCommandCompletion cmd s) := by
  unfold execEngineCommandCompletion
  split
  · simp [h]
  · dsimp only
    split
    · simp [h]
    · split
      · simp [h]
      · split
        · simp [h]
        · split
          next e => simp [State.canonical_of_snd_eq e, h]
          next e => simp [State.canonical_of_snd_eq e, h]
          next t e =>
            have ht : t.canonical := by simp [State.canonical_of_snd_eq e, h]
            simp [ht]
          next t e =>
            have ht : t.canonical := by simp [State.canonical_of_snd_eq e, h]
            split <;> simp [ht]

@[simp] theorem canonical_execEngineCommandStop (h : s.canonical) {cmd} :
    Outcome.canonical (execEngineCommandStop cmd s) := by
  unfold execEngineCommandStop
  split
  · simp [h]
  · split
    · simp [h]
    · split <;> simp [h]

/-! ### Offers, records and cancellation -/

@[simp] theorem canonical_execOfferAtRoot (h : s.canonical) {offer} : Outcome.canonical (execOfferAtRoot offer s) := by
  unfold execOfferAtRoot
  split <;> simp [h]

@[simp] theorem canonical_execCopyUpdate (h : s.canonical) {core ic} : Outcome.canonical (execCopyUpdate core ic s) := by
  unfold execCopyUpdate
  dsimp only
  split <;> simp [h]

@[simp] theorem canonical_execRecordPruning (h : s.canonical) {blk} : Outcome.canonical (execRecordPruning blk s) := by
  simp [execRecordPruning, h]

@[simp] theorem canonical_execRingReadback (h : s.canonical) {blk} : Outcome.canonical (execRingReadback blk s) := by
  unfold execRingReadback
  split
  · simp [h]
  · split <;> simp [h]

@[simp] theorem canonical_execRecordWaitExpiry (h : s.canonical) {blk entry} :
    Outcome.canonical (execRecordWaitExpiry blk entry s) := by
  unfold execRecordWaitExpiry
  split
  · simp [h]
  · split <;> simp [h]

@[simp] theorem canonical_execTaskGroupFormation (h : s.canonical) {blk} :
    Outcome.canonical (execTaskGroupFormation blk s) := by
  unfold execTaskGroupFormation
  split
  · simp [h]
  · split
    · simp [h]
    · split <;> simp [h]

@[simp] theorem canonical_execTaskGroupStart (h : s.canonical) {blk slot} :
    Outcome.canonical (execTaskGroupStart blk slot s) := by
  unfold execTaskGroupStart
  split <;> simp [h]

@[simp] theorem canonical_execThreadCancellation (h : s.canonical) {blk grp lane} :
    Outcome.canonical (execThreadCancellation blk grp lane s) := by
  unfold execThreadCancellation
  split
  · simp [h]
  · split <;> simp [h]

/-! ### Beats, packets and the loss of a peer -/

@[simp] theorem canonical_execBeatReceive (h : s.canonical) {port content trailer} :
    Outcome.canonical (execBeatReceive port content trailer s) := by
  unfold execBeatReceive
  dsimp only
  split
  · simp [h]
  · split
    · simp [h]
    · split
      · simp [h]
      · split <;> simp [h]

@[simp] theorem canonical_execRead (h : s.canonical) {port p} : Outcome.canonical (execRead port p s) := by
  unfold execRead
  split
  · simp [h]
  next t e =>
    have ht := (State.canonical_arrived e).2 h
    split <;> simp [ht]

@[simp] theorem canonical_execWrite (h : s.canonical) {port p} : Outcome.canonical (execWrite port p s) := by
  unfold execWrite
  split
  · simp [h]
  next t e =>
    have ht := (State.canonical_arrived e).2 h
    dsimp only
    split
    · simp [ht]
    · refine Outcome.canonical_next.2 (State.canonical.ingressDone (State.canonical.reply ?_))
      obtain ⟨hm, hrest⟩ := ht
      refine ⟨?_, hrest⟩
      split
      · exact Store.writeMasked_keeps_wf hm
      · exact Store.unpoison_write_keeps_wf hm

@[simp] theorem canonical_execAtomPacket (h : s.canonical) {port p} : Outcome.canonical (execAtomPacket port p s) := by
  unfold execAtomPacket
  split
  · simp [h]
  next t e =>
    have ht := (State.canonical_arrived e).2 h
    dsimp only
    split
    · simp [ht]
    · split
      · simp [ht]
      · refine Outcome.canonical_next.2 (State.canonical.ingressDone ?_)
        split <;> exact State.canonical.reply (ht.storeMem ..)

@[simp] theorem canonical_execRdata (h : s.canonical) {port p} : Outcome.canonical (execRdata port p s) := by
  unfold execRdata
  split
  · simp [h]
  next t e =>
    have ht := (State.canonical_arrived e).2 h
    split
    · simp [ht]
    · have hu : ∀ {x}, (t.endTxn x).canonical := ht.endTxn
      dsimp only
      split
      · split
        · simp [hu]
        · simp [State.canonical_foldl, hu]
      · split
        · simp [hu]
        · split <;> simp [hu]
      · split <;> simp [hu]
      · simp [hu]
      · simp [hu]

@[simp] theorem canonical_execAdata (h : s.canonical) {port p} : Outcome.canonical (execAdata port p s) := by
  unfold execAdata
  split
  · simp [h]
  next t e =>
    have ht := (State.canonical_arrived e).2 h
    split
    · simp [ht]
    · dsimp only
      split <;> simp [State.canonical_foldl, ht]

@[simp] theorem canonical_execDoneReply (h : s.canonical) {port p} : Outcome.canonical (execDoneReply port p s) := by
  unfold execDoneReply
  split
  · simp [h]
  next t e =>
    have ht := (State.canonical_arrived e).2 h
    split
    · simp [ht]
    · dsimp only
      split
      · simp [State.canonical_foldl, ht]
      · simp [ht]
      · split <;> simp [ht]
      · simp [ht]
      · simp [ht]

@[simp] theorem canonical_execRefused (h : s.canonical) {port p} : Outcome.canonical (execRefused port p s) := by
  unfold execRefused
  split
  · simp [h]
  next t e =>
    have ht := (State.canonical_arrived e).2 h
    split
    · simp [ht]
    · dsimp only
      split
      · split <;> simp [State.canonical_foldl, ht]
      · split <;> simp [ht]
      · split <;> simp [ht]
      · split <;> simp [ht]
      · simp [ht]

@[simp] theorem canonical_execDemand (h : s.canonical) {port p} : Outcome.canonical (execDemand port p s) := by
  unfold execDemand
  split
  · simp [h]
  next t e => simp [(State.canonical_arrived e).2 h]

@[simp] theorem canonical_execGrant (h : s.canonical) {port p} : Outcome.canonical (execGrant port p s) := by
  unfold execGrant
  split
  · simp [h]
  next t e => simp [(State.canonical_arrived e).2 h]

@[simp] theorem canonical_execMirror (h : s.canonical) {port p} : Outcome.canonical (execMirror port p s) := by
  unfold execMirror
  split
  · simp [h]
  next t e =>
    dsimp only
    split <;> simp [(State.canonical_arrived e).2 h]

@[simp] theorem canonical_execOack (h : s.canonical) {port p} : Outcome.canonical (execOack port p s) := by
  unfold execOack
  split
  · simp [h]
  next t e =>
    dsimp only
    split <;> simp [(State.canonical_arrived e).2 h]

@[simp] theorem canonical_execAck (h : s.canonical) {port seq} : Outcome.canonical (execAck port seq s) := by
  simp [execAck, h]

@[simp] theorem canonical_execNak (h : s.canonical) {port a1} : Outcome.canonical (execNak port a1 s) := by simp [execNak, h]

@[simp] theorem canonical_execTraining (h : s.canonical) {port good} : Outcome.canonical (execTraining port good s) := by
  simp [execTraining, h]

@[simp] theorem canonical_execKey (h : s.canonical) {port slot} : Outcome.canonical (execKey port slot s) := by
  simp [execKey, h]

@[simp] theorem canonical_execAckTimer (h : s.canonical) {port} : Outcome.canonical (execAckTimer port s) := by
  simp [execAckTimer, h]

@[simp] theorem canonical_execReplayTimeout (h : s.canonical) {port} : Outcome.canonical (execReplayTimeout port s) := by
  simp [execReplayTimeout, h]

@[simp] theorem canonical_execOrigReplayTimeout (h : s.canonical) {port} :
    Outcome.canonical (execOrigReplayTimeout port s) := by
  simp [execOrigReplayTimeout, h]

@[simp] theorem canonical_execLaneFailure (h : s.canonical) {port lane} :
    Outcome.canonical (execLaneFailure port lane s) := by
  simp [execLaneFailure, h]

@[simp] theorem canonical_execTrainingComplete (h : s.canonical) {port} :
    Outcome.canonical (execTrainingComplete port s) := by
  unfold execTrainingComplete
  dsimp only
  split
  · simp [h]
  · split <;> simp [h]

@[simp] theorem canonical_execRetrainingTimeout (h : s.canonical) {port} :
    Outcome.canonical (execRetrainingTimeout port s) := by
  simp [execRetrainingTimeout, h]

@[simp] theorem canonical_execPeerLossTimeout (h : s.canonical) {dev} : Outcome.canonical (execPeerLossTimeout dev s) := by
  unfold execPeerLossTimeout
  dsimp only
  split <;> simp [h]

@[simp] theorem canonical_execFencePeerTimeout (h : s.canonical) {blk grp} :
    Outcome.canonical (execFencePeerTimeout blk grp s) := by
  simp [execFencePeerTimeout, State.canonical_foldl, h]

/-! ### Blocks from admission to the end of a launch -/

@[simp] theorem canonical_execQueueAging (h : s.canonical) {prio} : Outcome.canonical (execQueueAging prio s) := by
  unfold execQueueAging
  dsimp only
  split <;> simp [h]

@[simp] theorem canonical_execBlockAdmission (h : s.canonical) : Outcome.canonical (execBlockAdmission s) := by
  unfold execBlockAdmission
  dsimp only
  split
  · simp [h]
  · split
    · simp [h]
    · split <;> simp [h]

@[simp] theorem canonical_execIdleSave (h : s.canonical) {blk} : Outcome.canonical (execIdleSave blk s) := by
  unfold execIdleSave
  split <;> simp [h]

@[simp] theorem canonical_execPreemptionForRoom (h : s.canonical) : Outcome.canonical (execPreemptionForRoom s) := by
  unfold execPreemptionForRoom
  dsimp only
  split
  · split
    · simp [h]
    · split <;> simp [State.canonical_foldl, h]
  · simp [h]

@[simp] theorem canonical_execBlockCompletion (h : s.canonical) {blk} : Outcome.canonical (execBlockCompletion blk s) := by
  unfold execBlockCompletion
  split <;> simp [h]

@[simp] theorem canonical_execBlockSave (h : s.canonical) {blk} : Outcome.canonical (execBlockSave blk s) := by
  unfold execBlockSave
  split
  · simp [h]
  · split <;> simp [h]

@[simp] theorem canonical_execSaveTimeout (h : s.canonical) {blk} : Outcome.canonical (execSaveTimeout blk s) := by
  unfold execSaveTimeout
  split
  · simp [h]
  · split <;> simp [h]

@[simp] theorem canonical_execBlockRestoration (h : s.canonical) {blk} : Outcome.canonical (execBlockRestoration blk s) := by
  have hn : s.noteHeads.canonical := State.canonical_noteHeads.2 h
  unfold execBlockRestoration
  generalize s.noteHeads = s at hn
  dsimp only
  split
  · simp [hn]
  · split
    · simp [hn]
    · split
      · simp [hn]
      · split
        · simp [hn]
        · split
          · simp [hn]
          · split
            · simp [hn]
            · split
              · split
                · simp [hn]
                · refine Outcome.canonical_next.2 (State.canonical.foldl (fun _ _ ht => ht.cancelDominated) ?_)
                  simp [State.canonical_foldl, hn]
              · simp [hn]

@[simp] theorem canonical_execLaunchCompletion (h : s.canonical) {launch} :
    Outcome.canonical (execLaunchCompletion launch s) := by
  have closed : ∀ {gs : List Region}, (gs.foldl State.closeRegion s).canonical :=
    State.canonical.foldl (fun _ _ ht => ht.closeRegion) h
  have posted : ∀ {t : State} {ps : List (Nat × W32 × Nat)}, t.canonical →
      (ps.foldl (fun (t : State) p => t.post p.1 ⟨p.2.1, 5, 0, []⟩) t).canonical :=
    fun ht => State.canonical.foldl (fun _ _ hu => hu.post) ht
  unfold execLaunchCompletion
  split
  · simp [h]
  · dsimp only
    split
    · simp [h]
    · refine Outcome.canonical_next.2 (State.canonical.post ((State.canonical_mk ..).2 (posted ?_)))
      simp [closed]

@[simp] theorem canonical_execLaunchKill (h : s.canonical) {blk grp code} :
    Outcome.canonical (execLaunchKill blk grp code s) := by
  unfold execLaunchKill
  split <;> simp [h]

/-! ### Commands of the host -/

@[simp] theorem canonical_execSqtail (h : s.canonical) {fn tail dma} : Outcome.canonical (execSqtail fn tail dma s) := by
  obtain ⟨hm, hh, hc⟩ := h
  have ht : State.canonical { s with host := dma.foldl (fun (m : Memory) p => m.put (hostAddr p.1) p.2) s.host } :=
    ⟨hm, List.foldlRecOn (motive := fun m => Memory.wf m = true) _ _ hh fun _ hm _ _ => Memory.wf_put _ _ _ hm, hc⟩
  unfold execSqtail
  dsimp only
  split <;> simp [ht]

@[simp] theorem canonical_execCqhead (h : s.canonical) {fn head} : Outcome.canonical (execCqhead fn head s) := by
  simp [execCqhead, h]

@[simp] theorem canonical_execRegisterWrite (h : s.canonical) {fn off val} :
    Outcome.canonical (execRegisterWrite fn off val s) := by
  simp [execRegisterWrite, h]

@[simp] theorem canonical_execIdentify (h : s.canonical) {c} : Outcome.canonical (execIdentify c s) := by
  unfold execIdentify
  split
  · simp [h]
  · exact canonical_serve h fun t ht => by simp [ht]

@[simp] theorem canonical_execCtxCreate (h : s.canonical) {c} : Outcome.canonical (execCtxCreate c s) :=
  canonical_serve h fun t ht => by simp [ht]

@[simp] theorem canonical_execCtxDestroy (h : s.canonical) {c} : Outcome.canonical (execCtxDestroy c s) :=
  canonical_serve h fun t ht => by simp [ht]

@[simp] theorem canonical_execEnergySet (h : s.canonical) {c} : Outcome.canonical (execEnergySet c s) := by
  refine canonical_serve h fun t ht => ?_
  dsimp only
  split <;> simp [ht]

@[simp] theorem canonical_execTlbInval (h : s.canonical) {c} : Outcome.canonical (execTlbInval c s) := by
  unfold execTlbInval
  split
  · simp [h]
  · exact canonical_serve h fun t ht => by simp [ht]

@[simp] theorem canonical_execCopy (h : s.canonical) {c} : Outcome.canonical (execCopy c s) := by
  unfold execCopy
  split
  · simp [h]
  · exact canonical_serve h fun t ht => by simp [ht]

@[simp] theorem canonical_execLaunch (h : s.canonical) {c} : Outcome.canonical (execLaunch c s) := by
  unfold execLaunch
  split
  · simp [h]
  · exact canonical_serve h fun t ht => by simp [ht]

@[simp] theorem canonical_execPreempt (h : s.canonical) {c} : Outcome.canonical (execPreempt c s) := by
  refine canonical_serve h fun t ht => ?_
  dsimp only
  split
  · simp [ht]
  · split
    · simp [ht]
    · split
      · simp [ht]
      · split <;> simp [ht]

@[simp] theorem canonical_execFaultResolve (h : s.canonical) {c} : Outcome.canonical (execFaultResolve c s) := by
  refine canonical_serve h fun t ht => ?_
  split
  · simp [ht]
  · dsimp only
    split <;> simp [ht]

/-! ### The firmware -/

@[simp] theorem canonical_execKeyAlloc (h : s.canonical) {c} : Outcome.canonical (execKeyAlloc c s) := by
  refine canonical_serve h fun t ht => ?_
  dsimp only
  split
  · simp [ht]
  · split <;> simp [ht]

@[simp] theorem canonical_execKeyFree (h : s.canonical) {c} : Outcome.canonical (execKeyFree c s) :=
  canonical_serve h fun t ht => by simp [ht]

@[simp] theorem canonical_execLinkKey (h : s.canonical) {c} : Outcome.canonical (execLinkKey c s) :=
  canonical_serve h fun t ht => by simp [ht]

@[simp] theorem canonical_execFabricWindow (h : s.canonical) {c} : Outcome.canonical (execFabricWindow c s) :=
  canonical_serve h fun t ht => by simp [ht]

@[simp] theorem canonical_execLinkQuery (h : s.canonical) {c} : Outcome.canonical (execLinkQuery c s) :=
  canonical_serve h fun t ht => by simp [ht]

@[simp] theorem canonical_execPeerLost (h : s.canonical) {c} : Outcome.canonical (execPeerLost c s) :=
  canonical_serve h fun t ht => by simp [ht]

@[simp] theorem canonical_execMaint (h : s.canonical) {c} : Outcome.canonical (execMaint c s) := by
  unfold execMaint
  split
  · simp [h]
  · split
    · simp [h]
    · exact canonical_serve h fun t ht => by simp [ht]

@[simp] theorem canonical_execCheckpoint (h : s.canonical) {c} : Outcome.canonical (execCheckpoint c s) := by
  unfold execCheckpoint
  split
  · simp [h]
  · exact canonical_serve h fun t ht => by simp [ht]

@[simp] theorem canonical_execPowerFail (h : s.canonical) : Outcome.canonical (execPowerFail s) := by simp [execPowerFail, h]

@[simp] theorem canonical_execRestore (h : s.canonical) {c} : Outcome.canonical (execRestore c s) := by
  refine canonical_serve h fun t ht => ?_
  split
  next k e =>
    obtain ⟨-, -, hc⟩ := id ht
    simp [ht, hc k e]
  · simp [ht]

@[simp] theorem canonical_execPowerUp (h : s.canonical) {device wiring} : Outcome.canonical (execPowerUp device wiring s) := by
  obtain ⟨-, hh, hc⟩ := id h
  unfold execPowerUp
  split
  · simp [h]
  · exact Outcome.canonical_next.2 ⟨rfl, hh, hc⟩

@[simp] theorem canonical_execLockInterface (h : s.canonical) {fn} : Outcome.canonical (execLockInterface fn s) := by
  simp [execLockInterface, h]

@[simp] theorem canonical_execStartInterface (h : s.canonical) {fn} : Outcome.canonical (execStartInterface fn s) := by
  simp [execStartInterface, h]

@[simp] theorem canonical_execStopInterface (h : s.canonical) {fn} : Outcome.canonical (execStopInterface fn s) := by
  simp [execStopInterface, h]

@[simp] theorem canonical_execInterfaceError (h : s.canonical) {fn} : Outcome.canonical (execInterfaceError fn s) := by
  simp [execInterfaceError, h]

@[simp] theorem canonical_execSpdmRequest (h : s.canonical) {msg} : Outcome.canonical (execSpdmRequest msg s) := by
  simp [execSpdmRequest, h]

@[simp] theorem canonical_execEnergyWindowStart (h : s.canonical) : Outcome.canonical (execEnergyWindowStart s) := by
  simp [execEnergyWindowStart, h]

@[simp] theorem canonical_execThermalEmergency (h : s.canonical) {die} : Outcome.canonical (execThermalEmergency die s) := by
  unfold execThermalEmergency
  split
  · simp [h]
  · split <;> simp [h]

@[simp] theorem canonical_execThermalRecovery (h : s.canonical) : Outcome.canonical (execThermalRecovery s) := by
  unfold execThermalRecovery
  split <;> simp [h]

@[simp] theorem canonical_execCoreLost (h : s.canonical) {core} : Outcome.canonical (execCoreLost core s) := by
  have killed : ∀ {bs : List Block}, State.canonical (bs.foldl (fun (t : State) b =>
      if (t.block? b.id).isSome then t.kill b.launch b.id 0 0x306 else t) s) :=
    State.canonical.foldl (fun t b ht => by simp [ht]) h
  simp [execCoreLost, h, killed]

@[simp] theorem canonical_execCorrectedError (h : s.canonical) {core} : Outcome.canonical (execCorrectedError core s) := by
  simp [execCorrectedError, h]

@[simp] theorem canonical_execUncorrectableError (h : s.canonical) {site} :
    Outcome.canonical (execUncorrectableError site s) := by
  unfold execUncorrectableError
  split
  · split
    · simp [h]
    · obtain ⟨hm, hrest⟩ := h
      exact Outcome.canonical_next.2 ⟨hm, hrest⟩
  · split <;> simp [h]
  · simp [h]
  · split <;> simp [h]

@[simp] theorem canonical_execMemoryLaneFailure (h : s.canonical) {link} :
    Outcome.canonical (execMemoryLaneFailure link s) := by
  simp [execMemoryLaneFailure, h]

@[simp] theorem canonical_execWearThreshold (h : s.canonical) {core} : Outcome.canonical (execWearThreshold core s) := by
  simp [execWearThreshold, State.canonical_foldl, h]

/-! ### Returns from a handler -/

@[simp] theorem canonical_execRftRejoin (h : s.canonical) {blk grp} : Outcome.canonical (execRftRejoin blk grp s) := by
  unfold execRftRejoin
  split
  · simp [h]
  · split
    · simp [h]
    · dsimp only
      split
      · simp [h]
      · split
        next e =>
          split at e
          · cases e
          · exact Outcome.canonical_next.2 ((State.canonical_askFirst e).2 h)
        next => simp [h]

/-! ### Every step -/

/-- Each instruction and event by the law of its meaning. -/
theorem canonical_exec (h : s.canonical) (i : Instr) : Outcome.canonical (exec i s) := by
  cases i <;> simp [h]

theorem canonical_step (h : s.canonical) : Outcome.canonical (step s) := by
  unfold step
  split
  · have hf : s.fetchHead.2.canonical := h.fetchHead
    split
    next e => exact canonical_exec ((State.canonical_of_snd_eq e).2 hf) _
    next e => simpa [State.canonical_of_snd_eq e] using hf
  · split
    · exact canonical_exec h _
    · exact canonical_exec (State.canonical_mk _ .. |>.2 h) _
    · exact canonical_exec (State.canonical_mk _ .. |>.2 h) _

end Sys2Proof.Machine

namespace Sys2Proof
open Machine

/-- Settles O58: a step is the fetch of an instruction and its meaning, or an event, and each of these keeps the form. -/
theorem stepsKeepMemoryCanonical : Obligations.StepsKeepMemoryCanonical := by
  unfold Obligations.StepsKeepMemoryCanonical
  exact fun s t h e => canonical_step h t e

end Sys2Proof
end

section
/-!
SUPPORT. Effective addresses and the misaligned access (R130, R132, R138, R306, R310); O15 is assembled from these.
-/

namespace Sys2Proof.Machine

/-! ### Effective addresses (R130, R132) -/

/-- A global address with a base operand, as an integer. -/
theorem Ctx.eaGlobal_base (c : Ctx) {a : Opnd} (o : MOff) (size l : Nat) (ha : a ≠ .none) :
    (c.eaGlobal a o size l : Int) = ((c.val64 a l).toNat + c.off o size l) % 2 ^ 64 := by
  cases a with
  | none => exact absurd rfl ha
  | _ => exact Int.toNat_of_nonneg (Int.emod_nonneg _ (by decide))

/-- A global address without a base operand, as an integer. -/
theorem Ctx.eaGlobal_noBase (c : Ctx) (o : MOff) (size l : Nat) :
    (c.eaGlobal .none o size l : Int) = c.off o size l % 2 ^ 64 := by
  have h : (c.eaGlobal .none o size l : Int) = (0 + c.off o size l) % 2 ^ 64 :=
    Int.toNat_of_nonneg (Int.emod_nonneg _ (by decide))
  rw [h, Int.zero_add]

/-- The pair of registers from r: its first register is the low half (R85). -/
theorem Ctx.val64_pair (c : Ctx) (r : Fin 128) (l : Nat) :
    ((c.val64 (.v r) l).toNat : Int)
      = ((c.r.lane l).vreg r).toNat + ((c.r.lane l).vreg (r + 1)).toNat * 2 ^ 32 := by
  have hlo := ((c.r.lane l).vreg r).isLt
  have h : (c.val64 (.v r) l).toNat = ((c.r.lane l).vreg (r + 1)).toNat <<< 32 ||| ((c.r.lane l).vreg r).toNat :=
    BitVec.toNat_append _ _
  rw [h, ← Nat.shiftLeft_add_eq_or_of_lt hlo, Nat.shiftLeft_eq]
  omega

/-- What a scalar base of a local access supplies: its bits 31:0 (R85, R132). -/
theorem Ctx.val_sreg (c : Ctx) (a : Fin 64) (l : Nat) :
    ((c.val (.s a) l).toNat : Int) = ((c.r.sreg a).toNat : Int) % 2 ^ 32 := by
  have h : (c.val (.s a) l).toNat = (c.r.sreg a).toNat % 2 ^ 32 := BitVec.toNat_setWidth ..
  rw [h]
  norm_cast

/-! ### The misaligned access (R138, R306, R310) -/

theorem anyCause_cons_of_ne {k : Cause} {m : Mask} (cs : List (Cause × Mask)) (h : m ≠ 0#32) :
    anyCause ((k, m) :: cs) = true := by
  simp [anyCause, h]

/-- MISALIGNED is taken before ADDRESS_NONCANONICAL, whether or not some lane raises the latter. -/
theorem pickCause_misaligned {bad far : Mask} (h : bad ≠ 0#32) :
    pickCause [(.misaligned, bad), (.addressNoncanonical, far)] = some (.misaligned, bad) := by
  by_cases hfar : far = 0#32
  · simp [pickCause, leastBy, h, hfar]
  · simp [pickCause, leastBy, h, hfar, Cause.rank]

section Raised

variable {s : State} {c : Ctx} {f : Ctx → State → Res} {x : MForm} {sp : Space} {cs : List (Cause × Mask)} {ea : Nat → Nat}
  (hc : s.ctx? = some c) (hcs : anyCause cs = true)
include hc hcs

/-- A load of which a lane raises a cause: the trap before issue, and nothing else. -/
theorem State.issue_loadV_raise (hf : f c (s.begin_ c) = c.loadV (s.begin_ c) x sp cs ea) :
    s.issue f = .next (s.trapsBefore c cs) :=
  State.issue_raise hc (hf.trans (if_pos hcs))

/-- A store of which a lane raises a cause. -/
theorem State.issue_storeV_raise (hf : f c (s.begin_ c) = c.storeV (s.begin_ c) x sp cs ea) :
    s.issue f = .next (s.trapsBefore c cs) :=
  State.issue_raise hc (hf.trans (if_pos hcs))

end Raised

/-- Settles O15: an address is the integer sum taken modulo 2^64 in global memory only, and a misaligned lane is a cause
of the common course of loads and stores. -/
theorem addressesAreComputedAndChecked : Obligations.AddressesAreComputedAndChecked := by
  refine ⟨fun c size l a b r w q => ⟨?baseImm, ?baseReg, ?pairReg, ?pair, ?imm, ?localImm, ?localReg, ?nothing⟩,
    fun s c x hc => ?misaligned⟩
  case baseImm => exact c.eaGlobal_base _ size l (by simp)
  case baseReg => exact c.eaGlobal_base _ size l (by simp)
  case pairReg =>
    rw [c.eaGlobal_base _ size l (by simp), c.val64_pair r l]
    rfl
  case pair =>
    rw [c.eaGlobal_base _ size l (by simp), ← c.val64_pair r l]
    have hlt := (c.val64 (.v r) l).isLt
    simp only [Ctx.off]
    omega
  case imm => exact c.eaGlobal_noBase _ size l
  case localImm => exact congrArg (· + w.toInt * size) (c.val_sreg a l)
  case localReg => rfl
  case nothing => rfl
  case misaligned =>
    intro size ea bad far hbad
    have hcs : anyCause (globalCauses (c.on x.g) x.bytes (c.eaG x)) = true := anyCause_cons_of_ne _ hbad
    exact ⟨(exec_ld x s).trans (State.issue_loadV_raise hc hcs rfl),
      (exec_st x s).trans (State.issue_storeV_raise hc hcs rfl), pickCause_misaligned hbad⟩

end Sys2Proof.Machine
end

section
/-!
SUPPORT. The counterexample of O38: a write entry that holds a load whose part carries data. Every request is performed by its
kind, so the load reads the bytes and writes none; but a write entry, when its requests have been performed, clears the poison
of each sector that their data covers (R313), and the statement says that memory is as it was. A load is never merged into a
write entry and its parts carry no data before it is performed (R138, R143), so that no run comes to this; the statement speaks
of every state.
-/

namespace Sys2Proof
open Machine

/-- A load of the four bytes at 0, accepted into entry 1, whose one part carries 64 bytes. -/
def loadWithData : Req :=
  { unitReq 0 0 0 0 0 1 .load 0 4 with parts := [⟨0, List.replicate 64 0, [], []⟩], phase := .accepted 1 }

/-- A write entry of the line at 0 that has been sent and holds that load. -/
def writeEntryOfLoad : Entry := ⟨1, 0, 0, 0, .write, 0, 0, 0, true, true, [0]⟩

/-- That entry in a device whose sector 1, outside the four bytes, is poisoned. -/
def loadInWriteEntry : State :=
  { State.reset with
    reqs := [loadWithData]
    entries := [writeEntryOfLoad]
    mem := { State.reset.mem with poison := [1] } }

/-- The poisoned sectors after an event. -/
def poisonAfter (i : Instr) (s : State) : Option (List Nat) :=
  match exec i s with
  | .next t => some t.mem.poison
  | _ => none

theorem poisonAfter_of_next {i : Instr} {s t : State} (h : exec i s = .next t) : poisonAfter i s = some t.mem.poison := by
  rw [poisonAfter, h]

theorem poisonAfter_homeRequest : poisonAfter (.homeRequest 1) loadInWriteEntry = some [] := by decide

/-- Refutes O38: HOME_REQUEST of a write entry with one load whose part carries 64 bytes clears the poison of sector 1, so that
memory is not what it was. -/
theorem not_homesPerformRequests : ¬ Obligations.HomesPerformRequests := by
  unfold Obligations.HomesPerformRequests
  intro h
  obtain ⟨atMemory, -⟩ := h loadInWriteEntry writeEntryOfLoad loadWithData rfl (by decide) rfl rfl
  obtain ⟨load, -⟩ := atMemory 0 (by decide) (fun _ => ⟨nofun, nofun⟩) rfl (by decide) rfl rfl rfl
  obtain ⟨t, _, hnext, -, -, -, -, hmem, -⟩ := load rfl (by decide)
  have hpoison := poisonAfter_of_next hnext
  rw [hmem] at hpoison
  exact absurd (poisonAfter_homeRequest.symm.trans hpoison) (by decide)

end Sys2Proof
end

section
/-!
SUPPORT. The events of versioned lines, registrations and publications at their homes (R144, R211 to R216, R236, R255, R256,
R259, R260): what each does when its turn has come; O41 is assembled from these.
-/

namespace Sys2Proof.Machine

/-! ### Regions by launch and number -/

/-- After a change of every element the first that passes is the first one changed, when the change keeps failing elements
failing. -/
theorem List.find?_map_of_first {α : Type} {l : List α} {p : α → Bool} {f : α → α} {a : α} (h : l.find? p = some a)
    (hf : ∀ x, p x = false → p (f x) = false) (ha : p (f a) = true) : (l.map f).find? p = some (f a) := by
  induction l with
  | nil => cases h
  | cons x l ih =>
    rw [List.map_cons]
    cases hx : p x with
    | true =>
      obtain rfl : x = a := by simpa [List.find?_cons, hx] using h
      exact List.find?_cons_of_pos ha
    | false =>
      rw [List.find?_cons_of_neg (by simp [hf x hx])]
      exact ih (by simpa [List.find?_cons, hx] using h)

theorem State.region?_spec {s : State} {l n : Nat} {g : Region} (h : s.region? l n = some g) : g.launch = l ∧ g.num = n := by
  simpa using List.find?_some h

/-- The region of a number after a change of it that keeps its number. -/
theorem State.region?_modRegion {s : State} {l n : Nat} {g : Region} (h : s.region? l n = some g) {f : Region → Region}
    (hl : (f g).launch = l) (hn : (f g).num = n) : (s.modRegion l n f).region? l n = some (f g) := by
  have hg := State.region?_spec h
  have hfg : (if g.launch = l ∧ g.num = n then f g else g) = f g := if_pos hg
  have key := List.find?_map_of_first (f := fun x => if x.launch = l ∧ x.num = n then f x else x) h (fun x hx => ?_)
    (by simp [hfg, hl, hn])
  · exact key.trans (congrArg some hfg)
  · rw [if_neg (by simpa using hx)]
    exact hx

/-- The region that holds an address after a change of it that leaves contexts and extents alone. -/
theorem State.regionAt_modRegion {s : State} {ctx va : Nat} {g : Region} (h : s.regionAt ctx va = some g) {f : Region → Region}
    (hf : ∀ x, (f x).ctx = x.ctx ∧ (f x).holds va = x.holds va) :
    (s.modRegion g.launch g.num f).regionAt ctx va = some (f g) := by
  unfold State.regionAt State.modRegion at *
  rw [List.find?_map_id _ _ _ fun x => by split <;> simp [hf], h]
  simp

/-! ### What reaching a slice changes -/

/-- Reaching a slice changes the regions' copies and takes a free value, and nothing else. -/
theorem State.reachSlice_eq (s : State) (ctx va pa : Nat) :
    ∃ rs n, s.reachSlice ctx va pa = { s with regions := rs, free := n } := by
  unfold State.reachSlice
  split
  · dsimp only
    split
    · exact ⟨_, _, rfl⟩
    · split
      · exact ⟨_, _, rfl⟩
      · exact ⟨_, _, rfl⟩
  · exact ⟨_, _, rfl⟩

theorem targetOf_mem {pa a : Nat} (h : targetOf pa = .mem a) : a = pa := by
  unfold targetOf at h
  split at h <;> cases h
  rfl

/-- A slice that has acknowledged P and F learns nothing. -/
theorem State.reachSlice_acknowledged {s : State} {ctx va pa : Nat} {g : Region} (h : s.regionAt ctx va = some g)
    (hc : g.copyAt pa = (g.pub, g.floor)) : s.reachSlice ctx va pa = s := by
  unfold State.reachSlice
  split
  next a r ht hr =>
    obtain rfl := targetOf_mem ht
    obtain rfl : g = r := by simpa [h] using hr
    exact if_pos hc
  · rfl

/-! ### Storing in a version (R211) -/

/-- Storing bytes in a version changes the records of a region only. -/
theorem Region.store_eq (g : Region) (va v : Nat) (bs : List Byte) : ∃ recs, g.store va v bs = { g with recs := recs } := by
  have one : ∀ (g : Region) (a : Nat) (b : Byte), ∃ recs, g.store1 a v b = { g with recs := recs } := fun g a b => by
    unfold Region.store1
    dsimp only
    split <;> exact ⟨_, rfl⟩
  unfold Region.store
  induction bs.zipIdx generalizing g with
  | nil => exact ⟨_, rfl⟩
  | cons p ps ih =>
    obtain ⟨recs, hg⟩ := one g (va + p.2) p.1
    obtain ⟨recs', hgs⟩ := ih (g.store1 (va + p.2) v p.1)
    exact ⟨recs', by rw [List.foldl_cons, hgs, hg]⟩

/-- A region that has been charged for its new records is the same region. -/
theorem Region.charge_store {g h q : Region} {va v : Nat} {bs : List Byte} (hq : (g.store va v bs).charge h = some q) :
    q.launch = g.launch ∧ q.num = g.num := by
  obtain ⟨recs, hs⟩ := g.store_eq va v bs
  rw [hs] at hq
  unfold Region.charge at hq
  dsimp only at hq
  split at hq
  · cases hq
  · cases hq
    exact ⟨rfl, rfl⟩

/-! ### One request of an entry -/

section Line

variable {s : State} {e : Entry} {r : Req} {g : Region} {v : Nat}

/-- Only the request that the entry holds waits in it, in the phase that an event looks for. -/
theorem State.inEntry_filter (hr : s.inEntry e.id = [r]) {p : Req → Bool} (hp : p r = true) :
    (s.inEntry e.id).filter p = [r] := by
  simp [hr, hp]

/-- A line of an open version, with records for it, is stored in its version and performed. -/
theorem State.applyVnst_stores {p : Part} {q : Region} (hlo : (g.copyAt e.pa).1 < v) (hhi : v ≤ g.topOf (g.copyAt e.pa).2)
    (hp : r.parts = [p]) (hq : (g.store r.addr v p.data).charge g = some q) :
    s.applyVnst e [r] g v = some ((s.modRegion g.launch g.num fun _ => q).performed r) := by
  unfold State.applyVnst
  simp [Nat.not_le.2 hlo, Nat.not_lt.2 hhi, hp, hq]

/-- One line of an unpoisoned place is answered with the values of its version. -/
theorem State.answerVnld_one (hp : s.mem.poisoned (e.paOf r) r.size = false) :
    s.answerVnld e [r] g v = s.gotBytes r (g.valueAt r.addr v (s.mem.read (s.keySerial e.key) (e.paOf r) r.size)) := by
  simp [State.answerVnld, hp]

theorem State.req?_performed (hq : s.req? r.id = some r) :
    (s.performed r).req? r.id = some { r with phase := .done } :=
  State.req?_modReq hq fun _ => rfl

/-- The request that has received its bytes. -/
theorem State.req?_gotBytes (hq : s.req? r.id = some r) (bs : List Byte) :
    (s.gotBytes r bs).req? r.id = some { r with phase := .done, parts := r.parts.map fun (p : Part) => { p with res := bs } } :=
  State.req?_modReq hq fun _ => rfl

theorem State.req?_setPhase (hq : s.req? r.id = some r) (p : ReqPhase) :
    (s.setPhase r.id p).req? r.id = some { r with phase := p } :=
  State.req?_modReq hq fun _ => rfl

/-- Every part of a request that has received its bytes holds them. -/
theorem Part.res_of_mem_map {ps : List Part} {bs : List Byte} :
    ∀ p ∈ ps.map fun (p : Part) => { p with res := bs }, p.res = bs := by
  intro p hp
  obtain ⟨_, _, rfl⟩ := List.mem_map.1 hp
  rfl

section Arrival

variable (he : (s.entries.find? fun f => f.id == e.id) = some e) (hr : s.inEntry e.id = [r])
  (hsent : e.sent = true) (hph : r.phase = .accepted e.id) (hready : s.homeReady e [r] = true)
  (hg : (s.reachSlice e.ctx (128 * e.line) e.pa).regionAt e.ctx (128 * e.line) = some g)
include he hr hsent hph hready hg

/-- VNST_APPLY of a line whose turn has come. -/
theorem exec_vnstApply_turn (hk : e.kind = .vnst v) {t : State}
    (ht : (s.reachSlice e.ctx (128 * e.line) e.pa).applyVnst e [r] g v = some t) :
    exec (.vnstApply e.id) s = .next t.pruneEntries := by
  have hrs := State.inEntry_filter hr (p := fun r => decide (r.phase = .accepted e.id)) (decide_eq_true hph)
  simp [execVnstApply, he, hrs, hk, hsent, hready, State.entryRegion, hg, ht]

/-- VNLD_HOME of a line of a version that the slice can read is answered. -/
theorem exec_vnldHome_answers (hk : e.kind = .vnld v) (hlo : (g.copyAt e.pa).2 ≤ v) (hhi : v ≤ (g.copyAt e.pa).1) :
    exec (.vnldHome e.id) s = .next ((s.reachSlice e.ctx (128 * e.line) e.pa).answerVnld e [r] g v).pruneEntries := by
  have hrs := State.inEntry_filter hr (p := fun r => decide (r.phase = .accepted e.id)) (decide_eq_true hph)
  simp [execVnldHome, he, hrs, hk, hsent, hready, State.entryRegion, hg, Nat.not_lt.2 hlo, hhi]

/-- VNLD_HOME of a line of a version above P waits at the slice, or at its core when the slice's wait list is full. -/
theorem exec_vnldHome_waits (hk : e.kind = .vnld v) (hlo : (g.copyAt e.pa).2 ≤ v) (hhi : (g.copyAt e.pa).1 < v) :
    exec (.vnldHome e.id) s = .next ((s.reachSlice e.ctx (128 * e.line) e.pa).setPhase r.id
      (if s.waitListed (sliceOf e.pa) < 512 then .blocked e.id else .retry e.id s.cc)) := by
  have hrs := State.inEntry_filter hr (p := fun r => decide (r.phase = .accepted e.id)) (decide_eq_true hph)
  obtain ⟨rs, n, hreach⟩ := s.reachSlice_eq e.ctx (128 * e.line) e.pa
  have hlist : (s.reachSlice e.ctx (128 * e.line) e.pa).waitListed (sliceOf e.pa) = s.waitListed (sliceOf e.pa) := by
    rw [hreach]
    rfl
  have hcc : (s.reachSlice e.ctx (128 * e.line) e.pa).cc = s.cc := by rw [hreach]
  by_cases hroom : s.waitListed (sliceOf e.pa) < 512 <;>
    simp [execVnldHome, he, hrs, hk, hsent, hready, State.entryRegion, hg, Nat.not_lt.2 hlo, Nat.not_le.2 hhi, hlist, hcc,
      hroom]

end Arrival

section Waiting

variable (he : (s.entries.find? fun f => f.id == e.id) = some e) (hr : s.inEntry e.id = [r])
  (hg : s.regionAt e.ctx (128 * e.line) = some g)
include hr hg

include he in
/-- VNLD_WAKE of a blocked line whose version has been published. -/
theorem exec_vnldWake_answers (hk : e.kind = .vnld v) (hph : r.phase = .blocked e.id) (hpub : v ≤ g.pub) :
    exec (.vnldWake e.id) s =
      .next ((s.modRegion g.launch g.num fun r => r.syncAt e.pa).answerVnld e [r] g v).pruneEntries := by
  have hrs := State.inEntry_filter hr (p := Req.isBlocked) (by simp [Req.isBlocked, hph])
  simp [execVnldWake, he, hrs, hk, State.entryRegion, hg, Nat.not_lt.2 hpub]

/-- A held line at a slice that has acknowledged P and F is stored when there are records for it. -/
theorem State.retryLine_stores {p : Part} {q : Region} (hk : e.kind = .vnst v) (hph : r.phase = .held e.id)
    (himg : s.inImage r = false) (hc : g.copyAt e.pa = (g.pub, g.floor)) (hlo : g.pub < v) (hhi : v ≤ g.top)
    (hp : r.parts = [p]) (hq : (g.store r.addr v p.data).charge g = some q) :
    s.retryLine e = ((s.modRegion g.launch g.num fun _ => q).performed r).pruneEntries := by
  have hrs := State.inEntry_filter hr (p := fun r => r.isHeld && !s.inImage r) (by simp [Req.isHeld, hph, himg])
  have happ : s.applyVnst e [r] g v = some ((s.modRegion g.launch g.num fun _ => q).performed r) :=
    State.applyVnst_stores (by rwa [hc]) (by rwa [hc]) hp hq
  simp [State.retryLine, hrs, State.reachSlice_acknowledged hg hc, hk, State.entryRegion, hg, happ]

end Waiting

/-- VNLD_RETRY of a line whose 256 cc are over. -/
theorem exec_vnldRetry_sends (he : (s.entries.find? fun f => f.id == e.id) = some e) (hq : s.req? r.id = some r) {n : Nat}
    (hph : r.phase = .retry e.id n) (hn : n + 256 ≤ s.cc) (hroom : s.tableUsed e.core < 1024) :
    ∃ t, exec (.vnldRetry e.id) s = .next t ∧ t.req? r.id = some { r with phase := .accepted e.id } := by
  have hfree : ¬ tableSize ≤ s.tableUsed e.core := Nat.not_le.2 hroom
  refine ⟨_, (exec_vnldRetry e.id s).trans (by unfold execVnldRetry; rw [he]; exact if_neg hfree), ?_⟩
  unfold State.req? at *
  rw [List.find?_map_id _ _ _ fun q => by split <;> [split <;> rfl; rfl], hq]
  simp [hph, hn]

/-- A region whose home has signalled its free records. -/
def Region.unsignal (g : Region) : Region := { g with signal := false }

/-- POOL_RETRY of a region with one entry in the table: that entry's line is sent again. -/
theorem exec_poolRetry_one (hreg : s.region? g.launch g.num = some g) (hsig : g.signal = true) (hnum : g.num < 256)
    (hes : s.entries = [e]) (hctx : g.ctx = e.ctx) (hholds : g.holds (128 * e.line) = true)
    (hcmds : ((s.modRegion g.launch g.num Region.unsignal).retryLine e).cmds = []) :
    ∃ ks bs, exec (.poolRetry (256 * g.launch + g.num)) s =
      .next { (s.modRegion g.launch g.num Region.unsignal).retryLine e with cmds := ks, blocks := bs } := by
  have hdiv : (256 * g.launch + g.num) / 256 = g.launch := by omega
  have hmod : (256 * g.launch + g.num) % 256 = g.num := by omega
  have hone : ((s.modRegion g.launch g.num Region.unsignal).entries.filter fun e => e.ctx == g.ctx && g.holds (128 * e.line))
      = [e] := by
    simp [State.modRegion, hes, hctx, hholds]
  have hfun : (fun r : Region => { r with signal := false }) = Region.unsignal := rfl
  rw [exec_poolRetry]
  unfold execPoolRetry
  rw [hdiv, hmod, hreg]
  dsimp only
  rw [if_neg (by simp [hsig]), hfun, hone]
  simp only [List.foldl_cons, List.foldl_nil]
  rw [hcmds]
  exact ⟨_, _, rfl⟩

end Line

end Sys2Proof.Machine
end

section
/-!
SUPPORT. The events of a region's home and of the retrieval unit (R34, R213, R236, R255, R256, R259, R260): a home request by
its number, its answer, and each event's course; with them O41 is assembled.
-/

namespace Sys2Proof.Machine

/-! ### REGISTRATION and PUBLICATION_POINT -/

/-- A home request that is changed by its own number stands changed in the list. -/
theorem State.mem_modHome {s : State} {h : HomeReq} (hm : h ∈ s.home) (f : HomeReq → HomeReq) :
    f h ∈ (s.modHome h.id f).home :=
  List.mem_map.2 ⟨h, hm, if_pos rfl⟩

/-- Some guard-true lane of the request's lane set has not exited. -/
def State.awaited (s : State) (h : HomeReq) : Prop :=
  ∃ g k, s.group? h.blk h.grp = some g ∧ k < 32 ∧ inMask h.takers k = true ∧ (g.lane k).exited = false

theorem State.awaited.unawaited {s : State} {h : HomeReq} (ha : s.awaited h) : s.unawaited h = false := by
  obtain ⟨g, k, hg, hk, ht, hx⟩ := ha
  have hlane : inMask (h.takers &&& g.live) k = true := by
    have hlive : inMask g.live k = true := by simp [Group.live, hk, hx]
    simp only [inMask, BitVec.getLsbD_and] at ht hlive ⊢
    rw [ht, hlive]
    rfl
  have hne : h.takers &&& g.live ≠ 0#32 := fun h0 => by simp [h0] at hlane
  simp [State.unawaited, hg, hne]

/-- The answer to a request that a lane waits for. -/
theorem State.answered_of_awaited {s : State} {h : HomeReq} (ha : s.awaited h) : s.answered h = s.modHome h.id fun _ => h :=
  if_neg (by simp [ha.unawaited])

/-- Landing an update changes the regions only. -/
theorem State.landUpdate_eq {s u : State} {r : Region} {w : Lines} {v : Nat} (h : s.landUpdate r w v = some u) :
    ∃ rs, u = { s with regions := rs } := by
  obtain ⟨_, _, rfl⟩ := Option.map_eq_some_iff.1 h
  exact ⟨_, rfl⟩

/-- The home's work of a merge that meets no poison and a sound table. -/
theorem HomeReq.work_merge {h : HomeReq} {w w' : Lines} {f : FamImg} {d ev : Nat} {why : List (Cause × Nat)}
    (hop : h.op = .merge f) (hp : w.mergePoison f = none) (hw : w.merge f = some (w', d, why, ev)) :
    h.work w = (w', ⟨none, d, why.head?, ev, why.length⟩) := by
  simp [HomeReq.work, hop, hp, hw]

/-- The home's work of a rehash whose cursor has its ids left. -/
theorem HomeReq.work_rehash {h : HomeReq} {w w' : Lines} {old new : FamImg} {rows : List (List Nat)} {d ev : Nat}
    {why : Option (Cause × Nat)} (hop : h.op = .rehash old new rows) (hhead : w.headPoison old = none)
    (hleft : w.cursor old + rows.length ≤ old.maxid) (hp : w.rehashPoison old new rows = none)
    (hw : w.rehash old new rows = some (w', d, why, ev)) :
    h.work w = (w', ⟨none, d, why, ev, if why.isSome then 1 else 0⟩) := by
  simp [HomeReq.work, hop, hhead, Nat.not_lt.2 hleft, hp, hw]

section Registration

variable {s : State} {h : HomeReq} {r : Region}
  (hh : (s.home.find? fun x => x.id == h.id && x.reg && x.ans.isNone) = some h) (hr : s.region? h.launch h.region = some r)
include hh hr

/-- A registration that the home's checks take in. -/
theorem exec_registration_passes (hd : h.done = false) (hlo : r.pub < h.ver) (hhi : h.ver ≤ r.top)
    (he : r.enginesOf h.ver < 65535) :
    exec (.registration h.id) s = .next ((s.modRegion h.launch h.region fun r =>
        { r with engines := assocPut r.engines h.ver (r.enginesOf h.ver + 1) }).modHome h.id
      fun h => { h with done := true }) := by
  simp [execRegistration, hh, hr, hd, hlo, hhi, he]

/-- A registered merge or rehash that the home carries out. -/
theorem exec_registration_works (hd : h.done = true) (ha : s.awaited h)
    (hop : (∃ f, h.op = .merge f) ∨ ∃ old new rows, h.op = .rehash old new rows) {w : Lines} {m : Merged} {u : State}
    (hw : h.work ⟨s, r, h.ver⟩ = (w, m)) (hu : s.landUpdate r w h.ver = some u) :
    exec (.registration h.id) s = .next (u.modHome h.id fun _ => { h with ans := some m }) := by
  have hau : u.awaited { h with ans := some m } := by
    obtain ⟨rs, rfl⟩ := State.landUpdate_eq hu
    exact ha
  have hcourse : exec (.registration h.id) s = .next (((s.landUpdate r (h.work ⟨s, r, h.ver⟩).1 h.ver).map fun t =>
      t.answered { h with ans := some (h.work ⟨s, r, h.ver⟩).2 }).getD s) := by
    rw [exec_registration]
    unfold execRegistration
    rw [hh]
    dsimp only
    rw [hr]
    dsimp only
    rw [if_pos hd]
    rcases hop with ⟨f, hop⟩ | ⟨old, new, rows, hop⟩
    · rw [hop]
    · rw [hop]
  rw [hcourse, hw, hu]
  exact congrArg Host.Outcome.next (State.answered_of_awaited hau)

end Registration

/-- PUBLICATION_POINT of the next version, when the accesses before it are performed and no engine stores in it. -/
theorem exec_publicationPoint_publishes {s : State} {h : HomeReq} {r : Region}
    (hh : (s.home.find? fun x => x.id == h.id && decide (x.op = .publish) && !x.done) = some h)
    (hr : s.region? h.launch h.region = some r) (hquiet : s.quiet h.blk h.grp h.takers 4 = true)
    (hwaits : ∀ q ∈ s.reqs, q.id ∈ h.waits → q.phase = .done) (hnext : h.ver = r.pub + 1) (htop : h.ver ≤ r.top)
    (he : r.enginesOf h.ver = 0) (ha : s.awaited h) :
    exec (.publicationPoint h.id) s =
      .next ((s.publish h.launch h.region h.ver).modHome h.id fun _ => { h with done := true }) := by
  have hop : h.op = .publish := by
    have := List.find?_some hh
    simp only [Bool.and_eq_true, decide_eq_true_eq] at this
    exact this.1.2
  have hall : s.allDone h.waits = true := by
    simp only [State.allDone, List.all_eq_true]
    intro q hq
    by_cases hw : q.id ∈ h.waits
    · simp [Req.isDone, hwaits q hq hw]
    · simp [hw]
  have hsent : s.homeSent h = true := by simp [State.homeSent, hop, hquiet, hall]
  obtain ⟨hl, hn⟩ := State.region?_spec hr
  have hau : (s.publish r.launch r.num h.ver).awaited { h with done := true } := ha
  have hcourse : exec (.publicationPoint h.id) s =
      .next ((s.publish r.launch r.num h.ver).answered { h with done := true }) := by
    rw [exec_publicationPoint]
    unfold execPublicationPoint
    rw [hh]
    dsimp only
    rw [hr]
    dsimp only
    rw [if_neg (by simp [hsent]), if_pos ⟨hnext, htop⟩, if_pos he]
  rw [hcourse, State.answered_of_awaited hau, hl, hn]

/-! ### The retrieval unit -/

/-- PROBE_VERSION_WAKE of a probe whose version has been published. -/
theorem exec_probeVersionWake_ready {s : State} {p : Probe} {b : Block} {r : Region}
    (hp : (s.probes.find? fun q => q.id == p.id) = some p) (hb : s.block? p.blk = some b) (hst : b.st ≠ .saved)
    (hr : s.region? b.launch (FamImg.region (p.fam[0]?.getD (Vector.replicate 8 0))) = some r)
    (hpub : bitsOf p.par.toNat 31 0 ≤ r.pub) :
    exec (.probeVersionWake p.id) s =
      .next { s with probes := s.probes.map fun q => if q.id = p.id then { q with ready := true } else q } := by
  have hpublished : s.published p = true := by
    simp only [State.published, hb, Option.map_some, Option.getD_some, hr]
    exact decide_eq_true hpub
  simp [execProbeVersionWake, hp, hpublished, hb, hst]

/-- RESULT_LAND of a computed result of which nothing is left to do. -/
theorem exec_resultLand_completes {s : State} {blk grp : Nat} {g : Group} {i : Insn} (hg : s.group? blk grp = some g)
    (hp : (s.probes.find? fun p => p.id == i.id && p.blk == blk && p.grp == grp) = none)
    (hi : (g.insns.find? fun j => j.id == i.id) = some i) (ht : i.timed = true) (hb : s.insnBusy blk grp i.id = false) :
    exec (.resultLand blk grp i.id) s = .next (s.modGroup blk grp fun g => g.complete i.id) := by
  simp [execResultLand, hg, hp, hi, ht, hb]

/-- Completing an instruction with one result and no counter lands the result and drops the instruction. -/
theorem Group.complete_one {g : Group} {i : Insn} {w : Dest × W64} (hi : (g.insns.find? fun j => j.id == i.id) = some i)
    (hw : i.writes = [w]) (hc : i.ctr = .none) :
    g.complete i.id = { g.land w with insns := g.insns.filter fun j => j.id != i.id } := by
  simp [Group.complete, hi, hw, hc, Group.lower]

/-- Landing in a vector register changes the lanes of the group only. -/
theorem Group.land_v_eq (g : Group) (d l : Nat) (w : W64) : ∃ ls, g.land (.v d l, w) = { g with lanes := ls } := by
  cases hc : (g.lane l).cancelled with
  | true => exact ⟨g.lanes, by simp [Group.land, hc]⟩
  | false => exact ⟨_, by simp [Group.land, hc, Group.modLanes]; rfl⟩

end Sys2Proof.Machine

namespace Sys2Proof
open Machine

/-- Settles O41: each event by its own course, in the state that a slice's copies give when the line arrives there. -/
theorem versionEventsAct : Obligations.VersionEventsAct := by
  unfold Obligations.VersionEventsAct
  refine ⟨fun s e r v he hr hq =>
      ⟨fun g hg hreg hsent hph hready => ⟨?store, fun hk hlo => ⟨?answer, ?wait⟩⟩, ?pool, ?wake, ?again⟩,
    fun s => ⟨fun h r hh hreg => ⟨?register, fun hd ha => ⟨?merge, ?rehash⟩⟩, ?publish, ?probe, ?result⟩⟩
  case store =>
    intro hk hlo hhi p q hp hq'
    obtain ⟨rs, n, hreach⟩ := s.reachSlice_eq e.ctx (128 * e.line) e.pa
    have happ := State.applyVnst_stores (s := s.reachSlice e.ctx (128 * e.line) e.pa) hlo hhi hp hq'
    obtain ⟨hl, hn⟩ := Region.charge_store hq'
    refine ⟨_, _, exec_vnstApply_turn he hr hsent hph hready hg hk happ, State.region?_modRegion hreg hl hn,
      State.req?_performed ?_, rfl, ?_, ?_⟩ <;> rw [hreach]
    · exact hq
    · rfl
    · rfl
  case answer =>
    intro hhi hp
    obtain ⟨rs, n, hreach⟩ := s.reachSlice_eq e.ctx (128 * e.line) e.pa
    have course := exec_vnldHome_answers he hr hsent hph hready hg hk hlo hhi
    rw [hreach, State.answerVnld_one (s := { s with regions := rs, free := n }) hp] at course
    exact ⟨_, _, course, State.req?_gotBytes hq _, rfl, Part.res_of_mem_map, rfl, rfl⟩
  case wait =>
    intro hhi
    obtain ⟨rs, n, hreach⟩ := s.reachSlice_eq e.ctx (128 * e.line) e.pa
    have course := exec_vnldHome_waits he hr hsent hph hready hg hk hlo hhi
    rw [hreach] at course
    exact ⟨_, _, course, State.req?_setPhase hq _, rfl, rfl⟩
  case pool =>
    intro g hg hreg hc hsig hk hph himg hlo hhi hes hcmds p q hp hq' hholds hctx hnum
    have hg1 := State.regionAt_modRegion hg (f := Region.unsignal) fun _ => ⟨rfl, rfl⟩
    have hreg1 : (s.modRegion g.launch g.num Region.unsignal).region? g.launch g.num = some g.unsignal :=
      State.region?_modRegion hreg rfl rfl
    have hline := State.retryLine_stores (s := s.modRegion g.launch g.num Region.unsignal) (g := g.unsignal) hr hg1 hk hph himg
      hc hlo hhi hp hq'
    obtain ⟨ks, bs, course⟩ := exec_poolRetry_one hreg hsig hnum hes hctx hholds (hline ▸ hcmds)
    obtain ⟨hl, hn⟩ := Region.charge_store hq'
    rw [hline] at course
    exact ⟨_, _, course, State.region?_modRegion hreg1 hl hn, State.req?_performed hq, rfl⟩
  case wake =>
    intro g hg hk hph hpub hp
    have course := exec_vnldWake_answers he hr hg hk hph hpub
    rw [State.answerVnld_one (s := s.modRegion g.launch g.num fun q => q.syncAt e.pa) hp] at course
    exact ⟨_, _, course, State.req?_gotBytes hq _, rfl, Part.res_of_mem_map, rfl, rfl⟩
  case again =>
    intro n hph hn hroom
    obtain ⟨t, ht, hreq⟩ := exec_vnldRetry_sends he hq hph hn hroom
    exact ⟨t, _, ht, hreq, rfl⟩
  case register =>
    intro hd hlo hhi hen
    exact ⟨_, _, exec_registration_passes hh hreg hd hlo hhi hen,
      State.region?_modRegion hreg (State.region?_spec hreg).1 (State.region?_spec hreg).2, rfl, rfl,
      State.mem_modHome (List.mem_of_find?_eq_some hh) _⟩
  case merge =>
    intro f hop hp w d why ev u hw hu
    exact exec_registration_works hh hreg hd ha (.inl ⟨f, hop⟩) (HomeReq.work_merge hop hp hw) hu
  case rehash =>
    intro old new rows hop hhead hleft hp w d why ev u hw hu
    exact exec_registration_works hh hreg hd ha (.inr ⟨old, new, rows, hop⟩) (HomeReq.work_rehash hop hhead hleft hp hw) hu
  case publish =>
    intro h r hh hreg hquiet hwaits hnext htop hen ha
    refine ⟨_, _, exec_publicationPoint_publishes hh hreg hquiet hwaits hnext htop hen ha,
      State.region?_modRegion hreg (State.region?_spec hreg).1 (State.region?_spec hreg).2, rfl, rfl, rfl,
      State.mem_modHome (List.mem_of_find?_eq_some hh) _, rfl, rfl⟩
  case probe =>
    intro p b r hp hb hst hr hpub
    exact exec_probeVersionWake_ready hp hb hst hr hpub
  case result =>
    intro blk grp l g d w i hg hp hi ht hb hl hw hc hcan
    obtain ⟨hsame, hothers, hlanes⟩ := Group.land_v_spec g (w.setWidth 64) d.isLt hl hcan
    obtain ⟨ls, hland⟩ := Group.land_v_eq g d.val l (w.setWidth 64)
    have hgroup : (s.modGroup blk grp fun g => g.complete i.id).group? blk grp = some (g.complete i.id) := by
      rw [State.group?_modGroup_same, hg]
      rfl
    refine ⟨_, _, exec_resultLand_completes hg hp hi ht hb, hgroup, ?_⟩
    rw [Group.complete_one hi hw hc]
    refine ⟨hsame.trans ?_, fun r hr => hothers r (fun h => hr (Fin.ext h)), hlanes, rfl, ?_, ?_, ?_⟩
    · simp
    all_goals rw [hland]

end Sys2Proof
end

section
/-!
SUPPORT. The integer sub-ops of the atomics (R156): the model combines numbers below 2 ^ w, the statement w-bit words; what
differs is how a difference wraps and how a sign is read. O17 is assembled from these.
-/

namespace Sys2Proof.Machine

section AtomicWords

variable {w : Nat} (x y : BitVec w)

/-- A number of w bits read as two's complement, as MINI and MAXI read it, is the signed value of its word. -/
theorem signedOfNat_toNat :
    (if x.toNat ≥ 2 ^ (w - 1) then (x.toNat : Int) - 2 ^ w else (x.toNat : Int)) = x.toInt := by
  rw [BitVec.toInt_eq_msb_cond, BitVec.msb_eq_decide]
  simp

/-- SUB adds 2 ^ w before it takes y away, so that the difference of naturals is not cut off at 0. -/
theorem atomicOp_sub : atomicOp 1 w x.toNat y.toNat = ((x - y).toNat, 0) := by
  have hy : y.toNat < 2 ^ w := y.isLt
  have hcut : x.toNat + 2 ^ w - y.toNat = 2 ^ w - y.toNat + x.toNat := by omega
  rw [BitVec.toNat_sub, ← hcut]
  rfl

theorem atomicOp_mini : atomicOp 5 w x.toNat y.toNat = ((if x.toInt ≤ y.toInt then x else y).toNat, 0) := by
  rw [apply_ite BitVec.toNat, ← signedOfNat_toNat x, ← signedOfNat_toNat y]
  rfl

theorem atomicOp_maxi : atomicOp 6 w x.toNat y.toNat = ((if x.toInt ≤ y.toInt then y else x).toNat, 0) := by
  rw [apply_ite BitVec.toNat, ← signedOfNat_toNat x, ← signedOfNat_toNat y]
  rfl

end AtomicWords

/-- Settles O17: a wrapped difference and the signed comparisons by their lemmas; the other sub-ops are the operations of
`BitVec` on its numbers, and no width is excluded. -/
theorem atomicOperations : Obligations.AtomicOperations := by
  unfold Obligations.AtomicOperations
  intro w x y _
  refine ⟨?add, atomicOp_sub x y, ?and, ?or, ?xor, atomicOp_mini x y, atomicOp_maxi x y, ?minn, ?maxn, ?xchg⟩
  case add => exact congrArg (·, 0) (BitVec.toNat_add x y).symm
  case and => exact congrArg (·, 0) (BitVec.toNat_and x y).symm
  case or => exact congrArg (·, 0) (BitVec.toNat_or x y).symm
  case xor => exact congrArg (·, 0) (BitVec.toNat_xor x y).symm
  all_goals rfl

end Sys2Proof.Machine
end

section
/-!
SUPPORT. GANGSET, THSET and THGET (R189, R198): which values a gang and a handle may take, and the course of each instruction;
O20 is assembled from these.
-/

namespace Sys2Proof.Machine

/-- A gang is none, or a mask of two to gang_max groups of the block, the issuing one among them (R189). -/
def Ctx.legalGang (c : Ctx) (v : Nat) : Prop :=
  v = 0 ∨ (v < 2 ^ 16 ∧ 2 ≤ popCount 16 v ∧ popCount 16 v ≤ c.l.lr.gangMax ∧ v.testBit c.iss.grp = true ∧ v < 2 ^ c.l.lr.groups)

/-- A weighted sum of four terms. -/
theorem foldl_range_four (f p : Nat → Nat) :
    (List.range 4).foldl (fun a j => a + f j * p j) 0 = f 0 * p 0 + f 1 * p 1 + f 2 * p 2 + f 3 * p 3 := by
  simp [List.range_succ]

/-- A dword of four shape fields, summed field by field. -/
theorem foldl_shapes_dword (sh : List Nat) (k : Nat) :
    (List.range 4).foldl (fun a j => a + sh.getD (4 * k + j) 0 * 2 ^ (16 * j)) 0
      = sh.getD (4 * k) 0 + sh.getD (4 * k + 1) 0 * 2 ^ 16 + sh.getD (4 * k + 2) 0 * 2 ^ 32 + sh.getD (4 * k + 3) 0 * 2 ^ 48 := by
  rw [foldl_range_four (fun j => sh.getD (4 * k + j) 0) fun j => 2 ^ (16 * j), mul_zero, pow_zero, mul_one]
  rfl

/-- The value that THSET gives a handle: four dwords of shape fields, then those of a run of registers (R198). -/
def Ctx.thsetValue (c : Ctx) (x : TForm) : Handle := tab 8 fun k =>
  if k < 4 then BitVec.ofNat 64 ((c.shapes x).getD (4 * k) 0 + (c.shapes x).getD (4 * k + 1) 0 * 2 ^ 16
    + (c.shapes x).getD (4 * k + 2) 0 * 2 ^ 32 + (c.shapes x).getD (4 * k + 3) 0 * 2 ^ 48)
  else c.r.sreg (x.a.snum + (k - 4))

section Instructions

variable {s : State} {c : Ctx} (hc : s.ctx? = some c)
include hc

theorem exec_gangset_legal {x : VForm} {v : Nat} (hm : c.on x.g ≠ 0) (hx : (if x.a = .none then 0 else (c.sval x.a).toNat) = v)
    (hv : c.legalGang v) : exec (.gangset x) s = .next (s.after c 1 0 fun g => { g with gang := BitVec.ofNat 16 v }) := by
  have hgood : (decide (2 ^ 16 ≤ v) || (v != 0 && (decide (popCount 16 v < 2) || decide (c.l.lr.gangMax < popCount 16 v)
      || !bitOf v c.iss.grp || decide (2 ^ c.l.lr.groups ≤ v)))) = false := by
    rcases hv with rfl | ⟨h16, h2, hmax, hown, hgroups⟩
    · simp
    · have hbits : bitOf v c.iss.grp = true := hown
      rw [decide_eq_false (by omega), decide_eq_false (by omega), decide_eq_false (by omega), decide_eq_false (by omega), hbits]
      simp
  refine (exec_gangset x s).trans (State.issue_doneG hc ?_)
  dsimp only
  rw [if_neg hm, hx, hgood]
  rfl

theorem exec_thset_legal {x : TForm} {i : Fin 16} (hd : x.d = .th i) (hr : c.real x.g ≠ 0)
    (hb : s.handleBusy c.iss.blk i = false) (hok : (c.thsetValue x).ok (c.l.lr.slot (c.thsetValue x).slot) = true) :
    exec (.thset x) s = .next ((s.after c 5 0 id).modBlock c.iss.blk fun b =>
      { b with th := b.th.setIfInBounds i (c.thsetValue x) }) := by
  have hbusy : (s.begin_ c).handleBusy c.iss.blk i = false := hb
  rw [exec_thset, ← State.finish_begin,
    ← State.finish_modBlock_comm (q := fun b => { b with th := b.th.setIfInBounds i (c.thsetValue x) }) _ c 5 0
      (fun _ => rfl) fun _ _ _ => rfl]
  refine State.issueN_done hc ?_ _ c.shielded_zero
  simp only [foldl_shapes_dword, hd, Opnd.thnum, if_neg hr, hbusy, Bool.false_eq_true, if_false]
  exact if_neg (by rw [Bool.not_eq_true', Bool.not_eq_false]; exact hok)

theorem exec_thget_free {x : VForm} {i : Fin 16} (ha : x.a = .th i) (hm : c.on x.g ≠ 0)
    (hb : s.handleBusy c.iss.blk i = false) :
    exec (.thget x) s = .next (s.after c 1 0 fun g => g.putS x.d (BitVec.ofNat 64 ((c.b.handle i).dw x.sub.toNat))) := by
  have hbusy : (s.begin_ c).handleBusy c.iss.blk i = false := hb
  refine (exec_thget x s).trans (State.issue_doneG hc ?_)
  simp only [ha, Opnd.thnum, Ctx.handleA, Ctx.scal, if_neg hm, hbusy, Bool.false_eq_true, if_false]
  rfl

end Instructions

/-- Settles O20: the courses of the three instructions. -/
theorem gangsAndHandlesAreSet : Obligations.GangsAndHandlesAreSet :=
  ⟨fun _ _ _ hc hm hv => exec_gangset_legal hc hm rfl hv,
    fun _ _ hc => ⟨fun _ _ hd hr hb hok => exec_thset_legal hc hd hr hb hok, fun _ _ ha hm hb => exec_thget_free hc ha hm hb⟩⟩

end Sys2Proof.Machine
end

section
/-!
SUPPORT. What keeps a matrix instruction from being accepted (R183, R194), and MMA and MMAS, alone or of a gang (R190 to R195); O21
is assembled from these.
-/

namespace Sys2Proof.Machine

/-! ### What holds a matrix instruction back -/

/-- Checks that find nothing raise nothing. -/
theorem anyCause_causesOf {cs : List (Bool × Cause)} (h : ∀ q ∈ cs, q.1 = false) (m : Mask) : anyCause (causesOf m cs) = false := by
  simp only [anyCause, causesOf, List.any_eq_false, List.mem_map]
  rintro _ ⟨q, hq, rfl⟩
  simp [h q hq]

/-- The operations of a block that have all been performed leave its shadows known (R195). -/
theorem State.shadowBusy_of_started {s : State} {blk : Nat} (h : ∀ o ∈ s.mtxq, o.blk = blk → o.started = true) :
    s.shadowBusy blk = false := by
  simp only [State.shadowBusy, List.any_eq_false, Bool.and_eq_true, beq_iff_eq, Bool.not_eq_true']
  rintro o ho ⟨⟨hblk, hst⟩, -⟩
  rw [h o ho hblk] at hst
  cases hst

/-- They leave its reuse latches known too (R194). -/
theorem State.latchBusy_of_started {s : State} {blk : Nat} (h : ∀ o ∈ s.mtxq, o.blk = blk → o.started = true) (grp : Nat) :
    s.latchBusy blk grp = false := by
  simp only [State.latchBusy, List.any_eq_false, Bool.and_eq_true, beq_iff_eq, Bool.not_eq_true']
  rintro o ho ⟨⟨⟨hblk, hst⟩, -⟩, -⟩
  rw [h o ho hblk] at hst
  cases hst

theorem State.mtxFull_of_lt {s : State} {core : Nat} (h : (s.mtxq.filter fun o => o.core == core).length < 16) :
    s.mtxFull core = false :=
  decide_eq_false (Nat.not_le.2 h)

theorem State.abufQuiet_of_done {s : State} {blk grp : Nat}
    (h : ∀ r ∈ s.reqs, r.blk = blk → r.grp = grp → r.space = .abuf → r.phase = .done) : s.abufQuiet blk grp = true := by
  simp only [State.abufQuiet, List.all_eq_true]
  intro r hr
  by_cases hmine : r.blk = blk ∧ r.grp = grp ∧ r.space = .abuf
  · obtain ⟨hblk, hgrp, hsp⟩ := hmine
    simp [Req.isDone_of_phase (h r hr hblk hgrp hsp)]
  · have hother : (r.blk == blk && r.grp == grp && decide (r.space = .abuf)) = false := by
      simpa [← Bool.not_eq_true, and_assoc] using hmine
    rw [hother]
    rfl

/-! ### MMA and MMAS -/

section Mma

variable {s : State} {c : Ctx} {x : TForm} (hpast : aPast x.a.vnum (c.l.lr.slot x.slot.toNat) ((c.shapes x).getD 1 0) = false)
include hpast

/-- What an MMA of one group issues when no check raises a cause and the engine can take it. -/
theorem Ctx.mma_alone {shadow : Bool} (hg : c.g.gang = 0) (hm : c.on x.g ≠ 0)
    (hs : ∀ o ∈ s.mtxq, o.blk = c.iss.blk → o.started = true)
    (hroom : (s.mtxq.filter fun o => o.core == c.b.core).length < 16)
    (ha : ∀ r ∈ s.reqs, r.blk = c.iss.blk → r.grp = c.iss.grp → r.space = .abuf → r.phase = .done) (hmc : c.g.mc < 255)
    (hclean : ∀ q ∈ mmaCauses c.b c.l.lr shadow (c.l.lr.slot x.slot.toNat) (mmaSlotB c.b c.l.lr x) (mmaHandle c.b x) (c.shapes x) 1
      ++ c.g.aCauses x.a.vnum x.slot.toNat ((c.shapes x).getD 1 0), q.1 = false) :
    c.mma s x shadow = .done (s.mmaIssue c.b c.l.lr shadow x (c.shapes x) [⟨c.iss.grp, c.iss.lanes, c.on x.g, c.iss.pc, x⟩]) 0 := by
  have hfull : c.full .mc = false := Ctx.full_of_lt hmc
  unfold Ctx.mma
  simp only [hpast, hg, hm, State.shadowBusy_of_started hs, State.latchBusy_of_started hs, anyCause_causesOf hclean,
    State.mtxFull_of_lt hroom, State.abufQuiet_of_done ha, hfull, Bool.or_false, Bool.not_true, Bool.false_eq_true, ne_eq,
    not_true_eq_false, if_false]

theorem Ctx.mma_off (shadow : Bool) (hg : c.g.gang = 0) (hm : c.on x.g = 0) : c.mma s x shadow = .done s 0 := by
  unfold Ctx.mma
  simp only [hpast, hg, hm, Bool.false_eq_true, ne_eq, not_true_eq_false, if_false, if_true]

/-- A lane set of a gang goes to the latch of its group. -/
theorem Ctx.mma_latches (shadow : Bool) (hg : c.g.gang ≠ 0) (hl : c.g.atLatch = 0) : c.mma s x shadow =
    .wait (s.modGroup c.iss.blk c.iss.grp fun g => g.modLanes c.iss.lanes fun _ y => { y with st := .latch }) := by
  unfold Ctx.mma
  simp only [hpast, hg, hl, Bool.false_eq_true, ne_eq, not_true_eq_false, not_false_eq_true, if_false, if_true]

/-- Behind another lane set at the latch it waits. -/
theorem Ctx.mma_queues (shadow : Bool) (hg : c.g.gang ≠ 0) (hl : c.g.atLatch ≠ 0) : c.mma s x shadow = .wait s := by
  unfold Ctx.mma
  simp only [hpast, hg, hl, Bool.false_eq_true, ne_eq, not_false_eq_true, if_false, if_true]

end Mma

section Course

variable {s : State} {c : Ctx} (hc : s.ctx? = some c) (hu : c.unshielded) (x : TForm) {shadow : Bool}
include hc hu

/-- MMA and MMAS differ in whether they act on a shadow. -/
theorem State.issue_mma_done {t : State} (h : c.mma (s.begin_ c) x shadow = .done t 0) :
    s.issueN 5 (·.on x.g) (fun c s => c.mma s x shadow) = .next (t.finish c 5 0) :=
  State.issueN_done hc h _ (Ctx.shielded_on hu x.g)

theorem State.issue_mma_wait {t : State} (h : c.mma (s.begin_ c) x shadow = .wait t) :
    s.issueN 5 (·.on x.g) (fun c s => c.mma s x shadow) = .next (t.hold c) :=
  State.issueN_wait hc h _ (Ctx.shielded_on hu x.g)

end Course

/-- Settles O21: the courses of an MMA, each the same for both instructions. -/
theorem mmaIssuesOrWaitsForItsGang : Obligations.MmaIssuesOrWaitsForItsGang := by
  intro s c x hc hu m sh fa fb clean issued hpast
  refine ⟨fun hg hm hs hroom ha hmc => ?alone, fun hg hm => ?off, fun hg hl => ?latches, fun hg hl => ?queues⟩
  case alone =>
    have hissue (shadow : Bool) (hclean : clean shadow) :
        s.issueN 5 (·.on x.g) (fun c s => c.mma s x shadow) = .next (issued shadow) :=
      State.issue_mma_done hc hu x (Ctx.mma_alone hpast hg hm hs hroom ha hmc hclean)
    exact ⟨hissue false, hissue true⟩
  case off =>
    have hpass (shadow : Bool) : s.issueN 5 (·.on x.g) (fun c s => c.mma s x shadow) = .next (s.after c 5 0 id) := by
      rw [State.issue_mma_done hc hu x (Ctx.mma_off hpast shadow hg hm), State.finish_begin]
    exact ⟨hpass false, hpass true⟩
  case latches =>
    have hlatch (shadow : Bool) : s.issueN 5 (·.on x.g) (fun c s => c.mma s x shadow)
        = .next (s.waits c fun g => g.modLanes c.iss.lanes fun _ y => { y with st := .latch }) := by
      rw [State.issue_mma_wait hc hu x (Ctx.mma_latches hpast shadow hg hl), State.hold_modGroup]
    exact ⟨hlatch false, hlatch true⟩
  case queues =>
    have hwait (shadow : Bool) : s.issueN 5 (·.on x.g) (fun c s => c.mma s x shadow) = .next (s.waits c id) := by
      rw [State.issue_mma_wait hc hu x (Ctx.mma_queues hpast shadow hg hl), State.hold_begin]
    exact ⟨hwait false, hwait true⟩

end Sys2Proof.Machine
end

section
/-!
SUPPORT. The matrix instructions that enter the engine's queue (R183, R195 to R200): accepting an operation, when the checks of each
instruction find nothing, and the course of each.
-/

namespace Sys2Proof.Machine

/-! ### Acceptance (R183) -/

/-- The state after an instruction of n words whose operation o the engine has accepted: its number is recorded with the
registers that it leaves pending, its counter has risen, and the operation is in the queue. -/
def State.accepted (s : State) (c : Ctx) (n : Nat) (i : Insn) (la : BitVec 4) (o : MtxOp) : State :=
  (((({ s with nextId := s.nextId + 1 } : State).begin_ c).modGroup c.iss.blk c.iss.grp fun g =>
    if i.ctr = .none then g
    else (({ g with insns := g.insns ++ [{ i with id := s.nextId }] } : Group).raise i.ctr).window i.lanes s.nextId la).mtxAccept o).finish
      c n 0

section Accept

variable {s : State} {c : Ctx} (hc : s.ctx? = some c) (hroom : (s.mtxq.filter fun o => o.core == c.b.core).length < 16)
  (ha : ∀ r ∈ s.reqs, r.blk = c.iss.blk → r.grp = c.iss.grp → r.space = .abuf → r.phase = .done)
include hc hroom ha

theorem State.issueN_accepted {f : Ctx → State → Res} {n : Nat} {i : Insn} {la : BitVec 4} {o : MtxOp}
    (hctr : i.ctr ≠ .none → c.g.counter i.ctr < 255) (hf : f c (s.begin_ c) = c.accept (s.begin_ c) i la o id) :
    s.issueN n (fun _ => 0) f = .next (s.accepted c n i la o) := by
  have hfull : (decide (i.ctr ≠ .none) && c.full i.ctr) = false := by
    by_cases hn : i.ctr = .none
    · rw [decide_eq_false (not_not_intro hn), Bool.false_and]
    · rw [Ctx.full_of_lt (hctr hn), Bool.and_false]
  have hqueue : (s.begin_ c).mtxFull c.b.core = false := State.mtxFull_of_lt hroom
  have habuf : (s.begin_ c).abufQuiet c.iss.blk c.iss.grp = true := State.abufQuiet_of_done ha
  refine State.issueN_done hc (hf.trans ?_) _ c.shielded_zero
  unfold Ctx.accept
  rw [hqueue, habuf, hfull]
  rfl

theorem State.issue_accepted {f : Ctx → State → Res} {i : Insn} {la : BitVec 4} {o : MtxOp}
    (hctr : i.ctr ≠ .none → c.g.counter i.ctr < 255) (hf : f c (s.begin_ c) = c.accept (s.begin_ c) i la o id) :
    s.issue f = .next (s.accepted c 1 i la o) := State.issueN_accepted hc hroom ha hctr hf

/-! ### The instructions -/

theorem exec_acommit_accepted {x : VForm} (hr : c.real x.g ≠ 0) :
    exec (.acommit x) s = .next (s.accepted c 1 (c.insn .none 0 [] []) 0 (c.mtx s .acommit (c.on x.g) [])) :=
  (exec_acommit x s).trans (State.issue_accepted hc hroom ha (fun h => absurd rfl h) (if_neg hr))

theorem exec_adiscard_accepted {x : VForm} (hr : c.real x.g ≠ 0) :
    exec (.adiscard x) s = .next (s.accepted c 1 (c.insn .none 0 [] []) 0 (c.mtx s .adiscard (c.on x.g) [])) :=
  (exec_adiscard x s).trans (State.issue_accepted hc hroom ha (fun h => absurd rfl h) (if_neg hr))

end Accept

/-! ### Shapes that pass their checks (R187, R197) -/

theorem shapeUnused_eq_false {sh used : List Nat} (h : ∀ k, k < 16 → k ∉ used → sh.getD k 0 = 0) : shapeUnused sh used = false := by
  simp only [shapeUnused, List.any_eq_false, List.mem_range, Bool.and_eq_true, bne_iff_ne, Bool.not_eq_true', not_and, not_not,
    List.contains_eq_mem, decide_eq_false_iff_not]
  exact h

theorem accShape_eq_false {sh : List Nat} (h2 : sh.getD 2 0 % 4 = 0) (h3 : sh.getD 3 0 % 4 = 0)
    (hu : ∀ k, k < 16 → k ∉ [0, 2, 3, 8] → sh.getD k 0 = 0) : accShape sh = false := by
  rw [accShape, h2, h3, shapeUnused_eq_false hu]
  rfl

/-- What lets an ACCLD of some lanes pass its checks: rows that lie in C and registers that exist; with CLEAR, no shadow operation
still to come, and rows outside the open shadow regions (R196, R197). -/
structure Ctx.AccldOk (c : Ctx) (s : State) (x : TForm) (sh : List Nat) : Prop where
  coff : sh.getD 2 0 % 4 = 0
  pitch : sh.getD 3 0 % 4 = 0
  unused : ∀ k, k < 16 → k ∉ [0, 2, 3, 8] → sh.getD k 0 = 0
  columns : 1 ≤ sh.getD 0 0
  columnsAtMost : sh.getD 0 0 ≤ 64
  row : sh.getD 8 0 ≤ 191
  fits : x.d.vnum + sh.getD 0 0 ≤ 128
  inside : ∀ l, inMask (c.on x.g) l = true →
    sh.getD 2 0 + (sh.getD 8 0 + l) * sh.getD 3 0 + 4 * sh.getD 0 0 ≤ c.l.lr.cExtent
  clears : x.flags.getLsbD 0 = true → (∀ o ∈ s.mtxq, o.blk = c.iss.blk → o.started = true) ∧ ∀ l, inMask (c.on x.g) l = true →
    c.b.shadowMeets (sh.getD 2 0 + (sh.getD 8 0 + l) * sh.getD 3 0) 0 (sh.getD 0 0) 1 false = false

/-- The same of an ACCZ, whose region lies in C and outside the open shadow regions. -/
structure Ctx.AcczOk (c : Ctx) (s : State) (sh : List Nat) : Prop where
  settled : ∀ o ∈ s.mtxq, o.blk = c.iss.blk → o.started = true
  apart : c.b.shadowMeets (sh.getD 2 0) (sh.getD 3 0) (sh.getD 0 0) (sh.getD 8 0) false = false
  coff : sh.getD 2 0 % 4 = 0
  pitch : sh.getD 3 0 % 4 = 0
  unused : ∀ k, k < 16 → k ∉ [0, 2, 3, 8] → sh.getD k 0 = 0
  columns : 1 ≤ sh.getD 0 0
  columnsAtMost : sh.getD 0 0 ≤ 2048
  rows : 1 ≤ sh.getD 8 0
  rowsAtMost : sh.getD 8 0 ≤ 192
  inside : sh.getD 2 0 + (sh.getD 8 0 - 1) * sh.getD 3 0 + 4 * sh.getD 0 0 ≤ c.l.lr.cExtent

/-- What the handle and the shape of a TLD and of a TST have in common: a tensor in global memory with the columns that are named
(R187, R199, R200). -/
structure TensorOk (h : Handle) (f : FmtSlot) (sh : List Nat) : Prop where
  set : h.unset = false
  global : h.space = 0
  format : f.elem ≠ 0
  unused : ∀ k, k < 16 → k ∉ [0, 1, 2, 3, 4, 5] → sh.getD k 0 = 0
  rows : 1 ≤ sh.getD 0 0
  columns : 1 ≤ sh.getD 2 0
  width : sh.getD 1 0 + sh.getD 2 0 ≤ h.cols

/-- What lets a TLD from row first into a share of ext bytes pass its other checks (R199). -/
structure TldOk (h : Handle) (f : FmtSlot) (sh : List Nat) (first ext : Nat) : Prop extends TensorOk h f sh where
  type : h.type ≤ 3
  atMost : sh.getD 0 0 ≤ 4096
  pitch : sh.getD 3 0 % 32 = 0
  aligned : sh.getD 1 0 * f.bits % 32 = 0
  whole : sh.getD 2 0 * f.bits % 256 = 0
  inside : sh.getD 4 0 * 32 + (sh.getD 0 0 - 1) * sh.getD 3 0 + sh.getD 2 0 * f.bits / 8 ≤ ext
  scaleless : f.tileT = 0 → sh.getD 5 0 = 0
  tiles : f.tileT ≠ 0 → sh.getD 1 0 % f.tileT = 0 ∧ sh.getD 5 0 * 32 + 2 * sh.getD 0 0 * (sh.getD 2 0 / f.tileT) ≤ ext
  source : h.type = 1 ∨ first + sh.getD 0 0 ≤ h.rows

/-- What lets a TST of a share of ext bytes to row first pass its other checks (R200). -/
structure TstOk (h : Handle) (f : FmtSlot) (sh : List Nat) (first ext : Nat) : Prop extends TensorOk h f sh where
  type : h.type = 0 ∨ h.type = 2 ∨ h.type = 3
  scaleless : f.tileT = 0
  unused5 : sh.getD 5 0 = 0
  inside : sh.getD 4 0 * 32 + (sh.getD 0 0 - 1) * sh.getD 3 0 + sh.getD 2 0 * f.bits / 8 ≤ ext
  whole : h.type ≠ 0 → sh.getD 1 0 = 0 ∧ sh.getD 2 0 = h.cols
  tiled : h.type = 3 → first % 16 = 0 ∧ sh.getD 0 0 % 16 = 0
  target : first + sh.getD 0 0 ≤ (if h.type = 3 then 16 * ceilDiv h.rows 16 else h.rows)

section Instructions

variable {s : State} {c : Ctx} (hc : s.ctx? = some c) {x : TForm}

section Off

include hc

/-- An instruction of n words that has nothing to do only moves its lanes on. -/
theorem State.issueN_nothing {f : Ctx → State → Res} {n : Nat} (hf : f c (s.begin_ c) = .done (s.begin_ c) 0) :
    s.issueN n (fun _ => 0) f = .next (s.after c n 0 id) := by
  rw [State.issueN_done hc hf _ c.shielded_zero, State.finish_begin]

theorem exec_accld_off (hm : c.on x.g = 0) (hd : x.d.vnum + (c.shapes x).getD 0 0 ≤ 128) :
    exec (.accld x) s = .next (s.after c 5 0 id) :=
  (exec_accld x s).trans (State.issueN_nothing hc ((if_neg (Nat.not_lt.2 hd)).trans (if_pos hm)))

theorem exec_accz_off (hm : c.on x.g = 0) : exec (.accz x) s = .next (s.after c 5 0 id) :=
  (exec_accz x s).trans (State.issueN_nothing hc (if_pos hm))

theorem exec_tld_off (hm : c.on x.g = 0) : exec (.tld x) s = .next (s.after c 5 0 id) :=
  (exec_tld x s).trans (State.issueN_nothing hc (if_pos hm))

theorem exec_tst_off (hm : c.on x.g = 0) : exec (.tst x) s = .next (s.after c 5 0 id) :=
  (exec_tst x s).trans (State.issueN_nothing hc (if_pos hm))

end Off

section Accepted

variable (hroom : (s.mtxq.filter fun o => o.core == c.b.core).length < 16)
  (ha : ∀ r ∈ s.reqs, r.blk = c.iss.blk → r.grp = c.iss.grp → r.space = .abuf → r.phase = .done)
include hc hroom ha

theorem exec_accld_accepted (hm : c.on x.g ≠ 0) (hlc : c.g.lc < 255) (hok : c.AccldOk s x (c.shapes x)) :
    exec (.accld x) s = .next (s.accepted c 5 (c.insn .lc (c.on x.g) (run x.d.vnum ((c.shapes x).getD 0 0)) []) x.la
      { c.mtx s .accld (c.on x.g) [(c.iss.grp, s.nextId)] with
        clear := if x.flags.getLsbD 0 = true then c.real x.g else 0
        sh := c.shapes x
        d := x.d.vnum
        rows := (lanesOf (c.on x.g)).map fun l => (l, []) }) := by
  obtain ⟨h2, h3, hunused, hn, hn', h8, hd, hin, hclear⟩ := hok
  have hbusy : ¬ (x.flags.getLsbD 0 && (s.begin_ c).shadowBusy c.iss.blk) = true := by
    rw [Bool.and_eq_true]
    rintro ⟨hcl, hs⟩
    obtain ⟨hst, -⟩ := hclear hcl
    exact Bool.false_ne_true ((State.shadowBusy_of_started (s := s.begin_ c) hst).symm.trans hs)
  refine (exec_accld x s).trans (State.issueN_accepted hc hroom ha (fun _ => hlc) ?_)
  dsimp only
  rw [if_neg (Nat.not_lt.2 hd), if_neg hm, if_neg hbusy, if_neg ?nocause]
  rfl
  case nocause =>
    rw [Bool.not_eq_true, anyCause, List.any_append, Bool.or_eq_false_iff]
    refine ⟨anyCause_causesOf ?_ _, ?outside⟩
    · simp only [List.forall_mem_cons, List.not_mem_nil, false_imp_iff, forall_true_iff, and_true]
      refine ⟨?shape, ?shadow⟩
      case shape =>
        rw [accShape_eq_false h2 h3 hunused]
        simp only [Bool.false_or, Bool.or_eq_false_iff, decide_eq_false_iff_not]
        omega
      case shadow =>
        cases hcl : x.flags.getLsbD 0 with
        | false => rfl
        | true =>
          obtain ⟨-, hmeets⟩ := hclear hcl
          rw [Bool.true_and, List.any_eq_false]
          intro l hl
          rw [hmeets l ((mem_lanesOf _ l).1 hl)]
          exact Bool.false_ne_true
    case outside =>
      rw [maskOf_eq_zero fun l _ => ?_]
      · rfl
      · cases hl : inMask (c.on x.g) l with
        | false => rfl
        | true => exact decide_eq_false (Nat.not_lt.2 (hin l hl))

theorem exec_accz_accepted (hr : c.real x.g ≠ 0) (hmc : c.g.mc < 255) (hok : c.AcczOk s (c.shapes x)) :
    exec (.accz x) s = .next (s.accepted c 5 (c.insn .mc (c.on x.g) [] []) 0
      { c.mtx s .accz (c.on x.g) [(c.iss.grp, s.nextId)] with sh := c.shapes x }) := by
  obtain ⟨hst, hmeets, h2, h3, hunused, hn, hn', h8, h8', hin⟩ := hok
  have hbusy : ¬ (s.begin_ c).shadowBusy c.iss.blk = true :=
    fun hs => Bool.false_ne_true ((State.shadowBusy_of_started (s := s.begin_ c) hst).symm.trans hs)
  refine (exec_accz x s).trans (State.issueN_accepted hc hroom ha (fun _ => hmc) ?_)
  dsimp only
  rw [if_neg (Ctx.on_of_real hr), if_neg hbusy, if_neg ?nocause, if_neg hr]
  rfl
  case nocause =>
    rw [Bool.not_eq_true]
    refine anyCause_causesOf ?_ _
    simp only [List.forall_mem_cons, List.not_mem_nil, false_imp_iff, forall_true_iff, and_true]
    refine ⟨?shape, decide_eq_false (Nat.not_lt.2 hin), ?shadow⟩
    case shape =>
      rw [accShape_eq_false h2 h3 hunused]
      simp only [Bool.false_or, Bool.or_eq_false_iff, decide_eq_false_iff_not]
      omega
    case shadow => rw [hmeets, Bool.and_false]

theorem exec_tld_accepted (hr : c.real x.g ≠ 0) (hmc : c.g.mc < 255)
    (hok : TldOk (c.handleA x.a) (c.l.lr.slot (c.handleA x.a).slot) (c.shapes x) ((c.sval x.b).toNat % 2 ^ 32)
      (if x.flags.getLsbD 0 = true then c.l.lr.aExtent else c.l.lr.wExtent)) :
    exec (.tld x) s = .next (s.accepted c 5 (c.insn .mc (c.on x.g) [] []) 0
      { c.mtx s .tld (c.on x.g) [(c.iss.grp, s.nextId)] with
        flags := x.flags.toNat
        slotB := c.l.lr.slot (c.handleA x.a).slot
        sh := c.shapes x
        first := (c.sval x.b).toNat % 2 ^ 32
        handle := some (Opnd.thnum x.a)
        h := c.handleA x.a }) := by
  obtain ⟨⟨hset, hspace, helem, hunused, hn, hnc, hcols⟩, htype, hn', hpitch, hcol, hwhole, hin, hno5, htiles, hrows⟩ := hok
  refine (exec_tld x s).trans (State.issueN_accepted hc hroom ha (fun _ => hmc) ?_)
  dsimp only
  rw [if_neg (Ctx.on_of_real hr), if_neg ?nocause, if_neg hr]
  rfl
  case nocause =>
    rw [Bool.not_eq_true]
    refine anyCause_causesOf ?_ _
    simp only [List.forall_mem_cons, List.not_mem_nil, false_imp_iff, forall_true_iff, and_true]
    refine ⟨hset, ?type, ?shape, ?range, ?rows⟩
    all_goals simp only [hset, hspace, shapeUnused_eq_false hunused, Bool.or_eq_false_iff, Bool.and_eq_false_iff,
      decide_eq_false_iff_not, bne_eq_false_iff_eq, beq_eq_false_iff_ne, Bool.not_false, Bool.true_and, and_true, and_assoc]
    case type => exact ⟨Nat.not_lt.2 htype, helem⟩
    case shape =>
      exact ⟨by omega, by omega, by omega, hcol, or_iff_not_imp_left.2 fun ht => (htiles ht).1, hwhole, hpitch,
        Decidable.not_or_of_imp hno5, by omega⟩
    case range => exact ⟨Nat.not_lt.2 hin, or_iff_not_imp_left.2 fun ht => Nat.not_lt.2 (htiles ht).2⟩
    case rows => exact hrows.imp_right Nat.not_lt.2

theorem exec_tst_accepted (hr : c.real x.g ≠ 0) (hsc : c.g.sc < 255)
    (hok : TstOk (c.handleA x.a) (c.l.lr.slot (c.handleA x.a).slot) (c.shapes x) ((c.sval x.b).toNat % 2 ^ 32) c.l.lr.aExtent) :
    exec (.tst x) s = .next (s.accepted c 5 (c.insn .sc (c.real x.g) [] []) 0
      { c.mtx s .tst (c.real x.g) [(c.iss.grp, s.nextId)] with
        slotB := c.l.lr.slot (c.handleA x.a).slot
        sh := c.shapes x
        first := (c.sval x.b).toNat % 2 ^ 32
        handle := some (Opnd.thnum x.a)
        h := c.handleA x.a }) := by
  obtain ⟨⟨hset, hspace, helem, hunused, hn, hnc, hcols⟩, htype, hscale, h5, hin, hwhole, htiled, hrows⟩ := hok
  have hunused' : ∀ k, k < 16 → k ∉ [0, 1, 2, 3, 4] → (c.shapes x).getD k 0 = 0 := fun k hk hno => by
    by_cases h : k = 5
    · rw [h, h5]
    · exact hunused k hk (by simp_all)
  refine (exec_tst x s).trans (State.issueN_accepted hc hroom ha (fun _ => hsc) ?_)
  dsimp only
  rw [if_neg (Ctx.on_of_real hr), if_neg ?nocause, if_neg hr]
  rfl
  case nocause =>
    rw [Bool.not_eq_true]
    refine anyCause_causesOf ?_ _
    simp only [List.forall_mem_cons, List.not_mem_nil, false_imp_iff, forall_true_iff, and_true]
    refine ⟨hset, ?type, ?shape, decide_eq_false (Nat.not_lt.2 hin), ?rows⟩
    all_goals simp only [hset, hspace, shapeUnused_eq_false hunused', Bool.or_eq_false_iff, Bool.and_eq_false_iff,
      decide_eq_false_iff_not, bne_eq_false_iff_eq, beq_eq_false_iff_ne, Bool.not_false, Bool.true_and, true_and, and_assoc]
    case type => exact ⟨by omega, by omega, helem, hscale⟩
    case shape =>
      exact ⟨by omega, by omega, by omega, or_iff_not_imp_left.2 hwhole, Decidable.not_or_of_imp htiled⟩
    case rows => exact Nat.not_lt.2 hrows

end Accepted

end Instructions

end Sys2Proof.Machine
end

section
/-!
SUPPORT. Operations on the shares (R183, R195 to R197): performing one leaves no block out, and what ADISCARD, ACOMMIT and ACCZ leave
of a block with nothing else in the engine; O23 is assembled from these and from the courses of the instructions.
-/

namespace Sys2Proof.Machine

/-! ### Performing an operation leaves no block out -/

/-- The numbers of the blocks of a state. -/
def State.blockIds (s : State) : List Nat := s.blocks.map (·.id)

/-- A block is found when its number is one of them. -/
theorem State.block?_isSome_iff (s : State) (k : Nat) : (s.block? k).isSome = true ↔ k ∈ s.blockIds := by
  simp [State.block?, State.blockIds]

@[simp] theorem State.blockIds_setBlock (s : State) (b : Block) : (s.setBlock b).blockIds = s.blockIds := by
  simp only [State.blockIds, State.setBlock, List.map_map]
  refine List.map_congr_left fun x _ => ?_
  rw [Function.comp_apply]
  split
  · exact Eq.symm ‹_›
  · rfl

@[simp] theorem State.blockIds_modGroup (s : State) (k i : Nat) (f : Group → Group) : (s.modGroup k i f).blockIds = s.blockIds := by
  simp only [State.blockIds, State.modGroup, State.modBlock, List.map_map]
  refine List.map_congr_left fun x _ => ?_
  rw [Function.comp_apply]
  split <;> rfl

theorem State.blockIds_foldl {α : Type} {f : State → α → State} (h : ∀ s x, (f s x).blockIds = s.blockIds) (xs : List α) (s : State) :
    (xs.foldl f s).blockIds = s.blockIds :=
  State.foldl_of_step (keeps := fun s t => t.blockIds = s.blockIds) (fun _ => rfl) (fun h h' => h'.trans h) h xs s

@[simp] theorem State.blockIds_tstStores (s : State) (o : MtxOp) : (s.tstStores o).blockIds = s.blockIds := by
  unfold State.tstStores
  split <;> rfl

@[simp] theorem State.blockIds_mtxPerform (s : State) (o : MtxOp) : (s.mtxPerform o).blockIds = s.blockIds := by
  unfold State.mtxPerform
  split
  · rfl
  · dsimp only
    split
    · split
      · rfl
      · exact (State.blockIds_foldl (fun _ _ => State.blockIds_modGroup _ _ _ _) _ _).trans
          ((State.blockIds_foldl (fun _ _ => State.blockIds_modGroup _ _ _ _) _ _).trans (State.blockIds_setBlock _ _))
    · exact State.blockIds_setBlock _ _
    · exact State.blockIds_setBlock _ _
    · exact State.blockIds_setBlock _ _
    · exact (State.blockIds_foldl (fun _ _ => State.blockIds_modGroup _ _ _ _) _ _).trans (State.blockIds_setBlock _ _)
    · split_ifs
      · rfl
      · rfl
      · exact State.blockIds_setBlock _ _
    · exact State.blockIds_tstStores _ _

@[simp] theorem State.blockIds_mtxAdvance (s : State) (blk n : Nat) : (s.mtxAdvance blk n).blockIds = s.blockIds := by
  induction n generalizing s with
  | zero => rfl
  | succ n ih =>
    unfold State.mtxAdvance
    split
    · rfl
    · rw [ih, State.blockIds_mtxPerform]

theorem State.blockIds_mtxAccept (s : State) (o : MtxOp) : (s.mtxAccept o).blockIds = s.blockIds := by
  rw [State.mtxAccept, State.blockIds_mtxAdvance]
  rfl

/-- So the block of an operation is still there when it has been accepted. -/
theorem State.exists_block?_mtxAccept {s : State} {k : Nat} {b : Block} (hb : s.block? k = some b) (o : MtxOp) :
    ∃ b', (s.mtxAccept o).block? k = some b' := by
  rw [← Option.isSome_iff_exists, State.block?_isSome_iff, State.blockIds_mtxAccept, ← State.block?_isSome_iff, hb]
  rfl

/-! ### ACOMMIT, ADISCARD and ACCZ on a block with nothing else in the engine (R196, R197) -/

/-- C after row i of a shadow region has been copied to its place. -/
def Shadow.putRow (q : Shadow) (c : Memory) (i : Nat) : Memory :=
  c.write (q.coff + i * q.cpitch) (((q.data.drop (i * q.n)).take q.n).map fun w => leBytes 4 w.toNat).flatten

/-- C after all of them. -/
def Shadow.put (q : Shadow) (c : Memory) : Memory := (List.range q.rows).foldl q.putRow c

theorem Block.commit_eq (b : Block) : b.commit = { b with shadows := [], c := b.shadows.foldl (fun c q => q.put c) b.c } := rfl

/-- The numbers of the words of row i. -/
def Shadow.rowWords (q : Shadow) (i : Nat) : List Nat := ((q.data.drop (i * q.n)).take q.n).map BitVec.toNat

theorem Shadow.putRow_eq (q : Shadow) (c : Memory) (i : Nat) :
    q.putRow c i = c.write (q.coff + i * q.cpitch) ((q.rowWords i).map (leBytes 4)).flatten := by
  rw [Shadow.rowWords, List.map_map]
  rfl

theorem Shadow.length_rowWords_le (q : Shadow) (i : Nat) : (q.rowWords i).length ≤ q.n := by
  simp [Shadow.rowWords]

theorem Shadow.rowWords_getElem? (q : Shadow) {i j : Nat} {w : W32} (hj : j < q.n) (hw : q.data[i * q.n + j]? = some w) :
    (q.rowWords i)[j]? = some w.toNat := by
  simp [Shadow.rowWords, hj, hw]

/-- The bytes of C that a shadow region stands for. -/
def Shadow.covers (q : Shadow) (a : Nat) : Prop :=
  ∃ i, i < q.rows ∧ q.coff + i * q.cpitch ≤ a ∧ a < q.coff + i * q.cpitch + 4 * q.n

section Commit

variable (q : Shadow) {c : Memory} (hc : Memory.wf c = true)
include hc

theorem Shadow.wf_putRow (i : Nat) : Memory.wf (q.putRow c i) = true := Memory.wf_write _ _ _ hc

theorem Shadow.get_putRow_other {i a : Nat} (h : a < q.coff + i * q.cpitch ∨ q.coff + i * q.cpitch + 4 * q.n ≤ a) :
    (q.putRow c i).get a = c.get a := by
  have hlen := q.length_rowWords_le i
  rw [Shadow.putRow_eq, Memory.get_write _ _ _ _ hc, length_flatten_leBytes, if_neg (by omega)]

/-- Byte k of word j of a row, after that row. -/
theorem Shadow.get_putRow {i j k : Nat} {w : W32} (hj : j < q.n) (hw : q.data[i * q.n + j]? = some w) (hk : k < 4) :
    (q.putRow c i).get (q.coff + i * q.cpitch + (4 * j + k)) = (leBytes 4 w.toNat).getD k 0 := by
  have hword := q.rowWords_getElem? hj hw
  obtain ⟨hlen, -⟩ := List.getElem?_eq_some_iff.1 hword
  rw [Shadow.putRow_eq, Memory.get_write _ _ _ _ hc, length_flatten_leBytes, if_pos (by omega), Nat.add_sub_cancel_left,
    getD_flatten_leBytes hword hk]

theorem Shadow.wf_putRows (n : Nat) : Memory.wf ((List.range n).foldl q.putRow c) = true := by
  induction n with
  | zero => exact hc
  | succ n ih =>
    rw [List.range_succ, List.foldl_append]
    exact q.wf_putRow ih n

theorem Shadow.wf_put : Memory.wf (q.put c) = true := q.wf_putRows hc q.rows

theorem Shadow.get_putRows_other {n a : Nat}
    (h : ∀ i, i < n → a < q.coff + i * q.cpitch ∨ q.coff + i * q.cpitch + 4 * q.n ≤ a) :
    ((List.range n).foldl q.putRow c).get a = c.get a := by
  induction n with
  | zero => rfl
  | succ n ih =>
    rw [List.range_succ, List.foldl_append]
    exact (q.get_putRow_other (q.wf_putRows hc n) (h n (Nat.lt_succ_self n))).trans (ih fun i hi => h i (by omega))

/-- With rows that do not meet, byte k of word j of row i stays what row i has made it. -/
theorem Shadow.get_putRows {n i j k : Nat} {w : W32} (hp : 4 * q.n ≤ q.cpitch) (hi : i < n) (hj : j < q.n)
    (hw : q.data[i * q.n + j]? = some w) (hk : k < 4) :
    ((List.range n).foldl q.putRow c).get (q.coff + i * q.cpitch + (4 * j + k)) = (leBytes 4 w.toNat).getD k 0 := by
  induction n with
  | zero => omega
  | succ n ih =>
    rw [List.range_succ, List.foldl_append]
    by_cases hlast : i = n
    · subst hlast
      exact q.get_putRow (q.wf_putRows hc i) hj hw hk
    · have hrows : i * q.cpitch + q.cpitch ≤ n * q.cpitch := by
        rw [← Nat.succ_mul]
        exact Nat.mul_le_mul_right _ (by omega)
      exact (q.get_putRow_other (q.wf_putRows hc n) (by omega)).trans (ih (by omega))

end Commit

theorem Shadow.wf_puts (qs : List Shadow) {c : Memory} (hc : Memory.wf c = true) : Memory.wf (qs.foldl (fun c q => q.put c) c) = true := by
  induction qs generalizing c with
  | nil => exact hc
  | cons q qs ih => exact ih (q.wf_put hc)

theorem Shadow.get_puts_other {qs : List Shadow} {c : Memory} (hc : Memory.wf c = true) {a : Nat} (h : ∀ q ∈ qs, ¬ q.covers a) :
    (qs.foldl (fun c q => q.put c) c).get a = c.get a := by
  induction qs generalizing c with
  | nil => rfl
  | cons q qs ih =>
    have hq : ∀ i, i < q.rows → a < q.coff + i * q.cpitch ∨ q.coff + i * q.cpitch + 4 * q.n ≤ a := fun i hi => by
      by_contra hno
      exact h q List.mem_cons_self ⟨i, hi, by omega, by omega⟩
    exact (ih (q.wf_put hc) fun z hz => h z (List.mem_cons_of_mem _ hz)).trans (q.get_putRows_other hc hq)

/-- A word of a region that no later region covers is in C after ACOMMIT. -/
theorem Shadow.read_puts {before after : List Shadow} {q : Shadow} {c : Memory} (hc : Memory.wf c = true) (hp : 4 * q.n ≤ q.cpitch)
    {i j : Nat} {w : W32} (hi : i < q.rows) (hj : j < q.n) (hw : q.data[i * q.n + j]? = some w)
    (h : ∀ z ∈ after, ∀ n, n < 4 → ¬ z.covers (q.coff + i * q.cpitch + 4 * j + n)) :
    ((before ++ q :: after).foldl (fun c q => q.put c) c).read (q.coff + i * q.cpitch + 4 * j) 4 = leBytes 4 w.toNat := by
  have hbefore := Shadow.wf_puts before hc
  refine (congrArg _ (length_leBytes 4 w.toNat).symm).trans (Memory.read_eq fun k hk => ?_)
  rw [length_leBytes] at hk
  rw [List.foldl_append, List.foldl_cons,
    Shadow.get_puts_other (q.wf_put hbefore) fun z hz => h z hz k hk, Nat.add_assoc]
  exact q.get_putRows hbefore hp hi hj hw hk

/-- C after a region of n rows of zero words (R197). -/
def zeroRows (coff cpitch nc : Nat) (c : Memory) (n : Nat) : Memory :=
  (List.range n).foldl (fun c r => c.write (coff + r * cpitch) (List.replicate (4 * nc) 0)) c

theorem zeroRows_succ (coff cpitch nc : Nat) (c : Memory) (n : Nat) : zeroRows coff cpitch nc c (n + 1) =
    (zeroRows coff cpitch nc c n).write (coff + n * cpitch) (List.replicate (4 * nc) 0) := by
  rw [zeroRows, List.range_succ, List.foldl_append]
  rfl

theorem wf_zeroRows (coff cpitch nc : Nat) {c : Memory} (hc : Memory.wf c = true) (n : Nat) :
    Memory.wf (zeroRows coff cpitch nc c n) = true := by
  induction n with
  | zero => exact hc
  | succ n ih =>
    rw [zeroRows_succ]
    exact Memory.wf_write _ _ _ ih

theorem get_zeroRows (coff cpitch nc : Nat) {c : Memory} (hc : Memory.wf c = true) (n a : Nat) :
    (zeroRows coff cpitch nc c n).get a =
      if ∃ r, r < n ∧ coff + r * cpitch ≤ a ∧ a < coff + r * cpitch + 4 * nc then 0 else c.get a := by
  induction n with
  | zero => simp [zeroRows]
  | succ n ih =>
    rw [zeroRows_succ, Memory.get_write _ _ _ _ (wf_zeroRows coff cpitch nc hc n), ih, List.length_replicate]
    by_cases hlast : coff + n * cpitch ≤ a ∧ a < coff + n * cpitch + 4 * nc
    · rw [if_pos hlast, if_pos ⟨n, Nat.lt_succ_self n, hlast⟩]
      rw [List.getD_eq_getElem?_getD, List.getElem?_replicate]
      split <;> rfl
    · have hrows : (∃ r, r < n + 1 ∧ coff + r * cpitch ≤ a ∧ a < coff + r * cpitch + 4 * nc)
          ↔ ∃ r, r < n ∧ coff + r * cpitch ≤ a ∧ a < coff + r * cpitch + 4 * nc := by
        refine ⟨fun ⟨r, hr, hin⟩ => ⟨r, ?_, hin⟩, fun ⟨r, hr, hin⟩ => ⟨r, by omega, hin⟩⟩
        by_contra hno
        obtain rfl : r = n := by omega
        exact hlast hin
      simp only [if_neg hlast, hrows]

section Alone

variable {s : State} {b : Block} {o : MtxOp} (hb : s.block? o.blk = some b)

section Perform

include hb

theorem State.mtxPerform_acommit (hk : o.kind = .acommit) : s.mtxPerform o = (s.setBlock b.commit).started o o := by
  unfold State.mtxPerform
  rw [hb]
  dsimp only
  split <;> rename_i heq <;> cases hk.symm.trans heq
  rfl

theorem State.mtxPerform_adiscard (hk : o.kind = .adiscard) :
    s.mtxPerform o = (s.setBlock { b with shadows := [] }).started o o := by
  unfold State.mtxPerform
  rw [hb]
  dsimp only
  split <;> rename_i heq <;> cases hk.symm.trans heq
  rfl

theorem State.mtxPerform_accz (hk : o.kind = .accz) : s.mtxPerform o =
    (s.setBlock { b with c := zeroRows (o.sh.getD 2 0) (o.sh.getD 3 0) (o.sh.getD 0 0) b.c (o.sh.getD 8 0) }).started o o := by
  unfold State.mtxPerform
  rw [hb]
  dsimp only
  split <;> rename_i heq <;> cases hk.symm.trans heq
  rfl

end Perform

variable (hq : ∀ q ∈ s.mtxq, q.blk ≠ o.blk) (hs : o.started = false)
include hb hq hs

/-- An operation that changes its block alone has changed it once it is accepted. -/
theorem State.block?_mtxAccept_alone {b' : Block} (hk : o.kind ≠ .tld) (hid : b'.id = b.id)
    (hperf : ({ s with mtxq := s.mtxq ++ [o] } : State).mtxPerform o =
      (({ s with mtxq := s.mtxq ++ [o] } : State).setBlock b').started o o) : (s.mtxAccept o).block? o.blk = some b' := by
  rw [State.mtxAccept_alone hq hs hk hperf rfl, State.block?_started]
  exact State.block?_setBlock_same { s with mtxq := s.mtxq ++ [o] } hb hid

theorem State.block?_mtxAccept_acommit (hk : o.kind = .acommit) : (s.mtxAccept o).block? o.blk = some b.commit :=
  State.block?_mtxAccept_alone hb hq hs (by simp [hk]) rfl
    (State.mtxPerform_acommit (s := { s with mtxq := s.mtxq ++ [o] }) hb hk)

theorem State.block?_mtxAccept_adiscard (hk : o.kind = .adiscard) :
    (s.mtxAccept o).block? o.blk = some { b with shadows := [] } :=
  State.block?_mtxAccept_alone hb hq hs (by simp [hk]) rfl
    (State.mtxPerform_adiscard (s := { s with mtxq := s.mtxq ++ [o] }) hb hk)

theorem State.block?_mtxAccept_accz (hk : o.kind = .accz) : (s.mtxAccept o).block? o.blk =
    some { b with c := zeroRows (o.sh.getD 2 0) (o.sh.getD 3 0) (o.sh.getD 0 0) b.c (o.sh.getD 8 0) } :=
  State.block?_mtxAccept_alone hb hq hs (by simp [hk]) rfl
    (State.mtxPerform_accz (s := { s with mtxq := s.mtxq ++ [o] }) hb hk)

end Alone

/-- Settles O23: the courses of the six instructions, and what the three that act on C alone leave of their block. -/
theorem matrixOperationsAreAccepted : Obligations.MatrixOperationsAreAccepted := by
  refine ⟨fun s c hc hroom ha => ?courses, fun s b o hb hq hs hwf => ?effects⟩
  case courses =>
    refine ⟨fun x hr => ⟨exec_acommit_accepted hc hroom ha hr, exec_adiscard_accepted hc hroom ha hr⟩,
      fun x hr => ⟨?commitOff, ?discardOff⟩,
      fun x hm => ⟨exec_accz_off hc hm, exec_tld_off hc hm, exec_tst_off hc hm, exec_accld_off hc hm⟩,
      fun x => ⟨fun hm hlc h2 h3 hu hn hn' h8 hd hin hclear => ?accld, fun hr hmc hst hmeets h2 h3 hu hn hn' h8 h8' hin => ?accz,
        fun hr hset hspace helem hu hn hnc hcols => ?tensors⟩⟩
    case commitOff => exact (exec_acommit x s).trans (State.issue_nothing hc (if_pos hr))
    case discardOff => exact (exec_adiscard x s).trans (State.issue_nothing hc (if_pos hr))
    case accld => exact exec_accld_accepted hc hroom ha hm hlc ⟨h2, h3, hu, hn, hn', h8, hd, hin, hclear⟩
    case accz => exact exec_accz_accepted hc hroom ha hr hmc ⟨hst, hmeets, h2, h3, hu, hn, hn', h8, h8', hin⟩
    case tensors =>
      have htensor : TensorOk (c.handleA x.a) (c.l.lr.slot (c.handleA x.a).slot) (c.shapes x) :=
        ⟨hset, hspace, helem, hu, hn, hnc, hcols⟩
      exact ⟨fun hmc htype hn' hpitch hcol hwhole hin hno5 htiles hrows =>
          exec_tld_accepted hc hroom ha hr hmc ⟨htensor, htype, hn', hpitch, hcol, hwhole, hin, hno5, htiles, hrows⟩,
        fun hsc htype hscale h5 hin hwhole htiled hrows =>
          exec_tst_accepted hc hroom ha hr hsc ⟨htensor, htype, hscale, h5, hin, hwhole, htiled, hrows⟩⟩
  case effects =>
    obtain ⟨b', hb'⟩ := State.exists_block?_mtxAccept hb o
    have hcommit (hk : o.kind = .acommit) : b' = b.commit :=
      Option.some.inj (hb'.symm.trans (State.block?_mtxAccept_acommit hb hq hs hk))
    have hdiscard (hk : o.kind = .adiscard) : b' = { b with shadows := [] } :=
      Option.some.inj (hb'.symm.trans (State.block?_mtxAccept_adiscard hb hq hs hk))
    have hzero (hk : o.kind = .accz) :
        b' = { b with c := zeroRows (o.sh.getD 2 0) (o.sh.getD 3 0) (o.sh.getD 0 0) b.c (o.sh.getD 8 0) } :=
      Option.some.inj (hb'.symm.trans (State.block?_mtxAccept_accz hb hq hs hk))
    refine ⟨b', hb', ?others, fun hk => ?discarded, fun hk => ?committed, fun hk => ?zeroed⟩
    case others =>
      rintro (hk | hk | hk)
      · rw [hcommit hk]
        exact ⟨rfl, rfl, rfl, rfl⟩
      · rw [hdiscard hk]
        exact ⟨rfl, rfl, rfl, rfl⟩
      · rw [hzero hk]
        exact ⟨rfl, rfl, rfl, rfl⟩
    case discarded =>
      rw [hdiscard hk]
      exact ⟨rfl, rfl⟩
    case committed =>
      rw [hcommit hk, Block.commit_eq]
      refine ⟨rfl, fun before q after hsplit hp i j w hi hj hw hlater => ?_, fun a ha => Shadow.get_puts_other hwf ha⟩
      dsimp only
      rw [hsplit]
      exact Shadow.read_puts hwf hp hi hj hw hlater
    case zeroed =>
      rw [hzero hk]
      exact ⟨rfl, fun a => get_zeroRows _ _ _ hwf _ a⟩

end Sys2Proof.Machine
end

section
/-!
SUPPORT. The counterexample of O43: an ACCZ that waits in the engine's queue under the number that is the next to be given. The
rendezvous gives its operation that number too; the ACCZ is performed first, and what stands under its number is its last form,
so that no MMA is left in the queue. A state whose numbers have been given out in turn has no such operation; the statement speaks
of every state.
-/

namespace Sys2Proof.Machine

/-- Whether a lane set at the latch is that of group 0 before an MMA that raises nothing and that nothing of its own holds back. -/
def Waiting.mayIssue (w : Waiting) (b : Block) (r : LRec) : Bool :=
  w.m.grp == 0 && !w.shadow && !w.pend && w.ok
    && ((mmaCauses b r w.shadow (r.slot w.m.x.slot.toNat) (mmaSlotB b r w.m.x) (mmaHandle b w.m.x) w.sh 1).all fun q => !q.1)
    && (((b.group w.m.grp).aCauses w.m.x.a.vnum w.m.x.slot.toNat (w.sh.getD 1 0)).all fun q => !q.1)
    && !aPast w.m.x.a.vnum (r.slot w.m.x.slot.toNat) (w.sh.getD 1 0)

/-- Every instruction agrees with itself. -/
theorem Waiting.agrees_self (w : Waiting) : w.agrees w = true := by simp [Waiting.agrees]

end Sys2Proof.Machine

namespace Sys2Proof
open Machine

/-- A group whose lane 0 waits at the latch before the first instruction of the clause at 0, in a gang of its group alone; every
other lane has exited. -/
def groupAtLatch : Group :=
  { Group.zero with
    gang := 1
    lanes := tab 32 fun l => if l = 0 then { Lane.zero with pc := 8, hdr := some 0, st := .latch } else
      { Lane.zero with st := .exited false } }

/-- The block of that group, and its launch, whose slots are all of format I8. -/
def blockAtLatch : Block := { Block.zero with id := 2, launch := 1, groups := [groupAtLatch] }
def launchAtLatch : Launch :=
  ⟨1, 0, 0, 7, { placedRecord with gangMax := 2, slots := Vector.replicate 8 ⟨7, 0, 0, 0, false, 0⟩ }, 1, 1, 0, false, none, none,
    [], none⟩

/-- An MMA of N = 16 and K = 32, with C from 0 at a pitch of 64 and B from 0 of W at a pitch of 32. -/
def mmaAtLatch : TForm := ⟨0, 0, .none, .v 8, .none, .none, 0, 0, 0, 0x0040_0000_0020_0010, 0x0000_0000_0020_0000, 0, 0⟩

/-- An ACCZ of no rows that has not been performed and has number n. -/
def acczUnderWay (n : Nat) : MtxOp where
  id := n
  core := 0
  blk := 2
  kind := .accz
  insns := []
  lanes := []
  fpc := 0
  flags := 0
  slotA := ⟨0, 0, 0, 0, false, 0⟩
  slotB := ⟨0, 0, 0, 0, false, 0⟩
  sh := []
  first := 0
  d := 0
  handle := none
  h := Vector.replicate 8 0
  rows := []
  clear := 0
  latches := []
  started := false
  asked := []
  got := []
  newTh := none
  aBytes := []
  writes := []
  raises := []

/-- A header of class MTX and the words of that MMA, from 0, and the tables that map virtual addresses to themselves. -/
def codeOfMma : Memory :=
  [(6, 0x3F), (7, 0xFF), (10, 0xFF), (11, 0xFF), (12, 0x08), (13, 0xFF), (15, 0x91), (16, 0x10), (18, 0x20), (22, 0x40), (26, 0x20),
    (0x1000, 0x01), (0x1001, 0x20), (0x2000, 0x0F)]

/-- The MMA as the code of that launch, while the ACCZ has the number that is the next to be given. -/
def latchBesideAccz : State :=
  { State.reset with
    nextId := 10
    mem := ⟨codeOfMma, [], []⟩
    blocks := [blockAtLatch]
    mtxq := [acczUnderWay 10]
    fw := { State.reset.fw with contexts := [⟨7, 0, 0x1000, 0, 0, 0, 0, 0, none, 0, 0⟩], launches := [launchAtLatch] } }

theorem mayIssue_atLatch :
    ((latchBesideAccz.waitingAt blockAtLatch launchAtLatch 0).any fun w => w.mayIssue blockAtLatch launchAtLatch.lr) = true := by
  decide

/-- Whether an MMA on C stands in the engine's queue after an event. -/
def queuesMma (i : Instr) (s : State) : Bool :=
  match exec i s with
  | .next t => t.mtxq.any fun o => decide (o.kind = .mma false)
  | _ => false

theorem queuesMma_of_next {i : Instr} {s t : State} (h : exec i s = .next t) {o : MtxOp} (ho : o ∈ t.mtxq) (hk : o.kind = .mma false) :
    queuesMma i s = true := by
  rw [queuesMma, h]
  exact List.any_eq_true.2 ⟨o, ho, decide_eq_true hk⟩

theorem not_queuesMma_gangRendezvous : queuesMma (.gangRendezvous 2 1) latchBesideAccz = false := by decide

/-- Refutes O43: the one lane set of a gang stands at the latch before an MMA that nothing holds back, while an ACCZ of its block with
the next number has still to be performed; after GANG_RENDEZVOUS no MMA is in the queue. -/
theorem not_matrixQueueAndGangs : ¬ Obligations.MatrixQueueAndGangs := by
  unfold Obligations.MatrixQueueAndGangs
  intro ⟨_, h⟩
  obtain ⟨w, hw, hmay⟩ := (Option.any_eq_true _ _).1 mayIssue_atLatch
  simp only [Waiting.mayIssue, Bool.and_eq_true, beq_iff_eq, Bool.not_eq_true', List.all_eq_true] at hmay
  obtain ⟨⟨⟨⟨⟨⟨hgrp, hshadow⟩, hpend⟩, hok⟩, hcauses⟩, hreuse⟩, hpast⟩ := hmay
  have hall : ((gangList 1).map fun i => (latchBesideAccz.waitingAt blockAtLatch launchAtLatch i).toList).flatten = [w] := by
    rw [show gangList 1 = [0] by decide, List.map_singleton, hw]
    rfl
  obtain ⟨hmeet, _⟩ := h latchBesideAccz 2 1 blockAtLatch launchAtLatch w [] rfl rfl rfl
  dsimp only at hmeet
  rw [hall] at hmeet
  obtain ⟨_, _, hissue⟩ := hmeet (by decide) ⟨0, by decide, rfl⟩ rfl rfl (by decide)
    (List.forall_mem_singleton.2 ⟨hpend, by rw [hgrp]; decide⟩)
  obtain ⟨t, hnext, ⟨o, ho, -, -, hkind, -⟩, -⟩ := hissue (List.forall_mem_singleton.2 w.agrees_self)
    (List.forall_mem_singleton.2 ⟨hcauses, hreuse, hpast⟩) (by decide)
    (List.forall_mem_singleton.2 ⟨hok, by rw [hgrp]; decide, by rw [hgrp]; decide⟩)
  rw [hshadow] at hkind
  exact Bool.false_ne_true (not_queuesMma_gangRendezvous.symm.trans (queuesMma_of_next hnext ho hkind))

end Sys2Proof
end

section
/-!
SUPPORT. The value of a byte at a version (R210) by the newest record that holds it: storing in a version (R211) and
reclaiming a line (R214) both put one record in the place of others, and one lemma says when that changes no value.
-/

namespace Sys2Proof.Machine

/-! ### The newest record -/

/-- Whether a record holds the byte at an address for a version (R210). -/
def VRec.holdsAt (x : VRec) (a v : Nat) : Prop := x.line = a / 128 ∧ x.ver ≤ v ∧ x.mask.getLsbD (a % 128) = true

/-- The records are of 32-bit versions, and no two are of one line and version (R206, R211). -/
structure Region.Sound (r : Region) : Prop where
  bound : ∀ x ∈ r.recs, x.ver ≤ 0xFFFF_FFFF
  single : ∀ x ∈ r.recs, ∀ y ∈ r.recs, x.line = y.line → x.ver = y.ver → x = y

/-- The record that gives a byte its value at a version. -/
structure Region.Newest (r : Region) (a v : Nat) (x : VRec) : Prop where
  mem : x ∈ r.recs
  holds : x.holdsAt a v
  bound : x.ver ≤ 0xFFFF_FFFF
  newer : ∀ y ∈ r.recs, y.holdsAt a v → y ≠ x → y.ver < x.ver

theorem Region.Newest.ver_le {r : Region} {a v : Nat} {x y : VRec} (h : r.Newest a v x) (hy : y ∈ r.recs)
    (hh : y.holdsAt a v) : y.ver ≤ x.ver := by
  by_cases he : y = x
  · rw [he]
  · exact Nat.le_of_lt (h.newer y hy hh he)

/-- The records among which a byte's value is chosen. -/
theorem VRec.mem_holding {r : Region} {a v : Nat} {x : VRec} :
    (x ∈ r.recs.filter fun x => x.line == a / 128 && decide (x.ver ≤ v) && x.mask.getLsbD (a % 128)) ↔
      x ∈ r.recs ∧ x.holdsAt a v := by
  simp [VRec.holdsAt, and_assoc]

theorem Region.byteAt_of_newest {r : Region} {a v : Nat} {x : VRec} (h : r.Newest a v x) (m : Byte) :
    r.byteAt a v m = x.data[a % 128]?.getD 0 := by
  have hx := VRec.mem_holding.2 ⟨h.mem, h.holds⟩
  unfold Region.byteAt
  split
  · next hnone => simp [leastBy_eq_none hnone] at hx
  · next y hy =>
    obtain ⟨hmem, hle⟩ := leastBy_spec hy
    obtain ⟨hyr, hyh⟩ := VRec.mem_holding.1 hmem
    have hkey := hle x hx
    have hbound := h.bound
    suffices heq : y = x by rw [heq]
    by_contra hne
    have hlt := h.newer y hyr hyh hne
    omega

theorem Region.byteAt_of_unheld {r : Region} {a v : Nat} (h : ∀ x ∈ r.recs, ¬ x.holdsAt a v) (m : Byte) :
    r.byteAt a v m = m := by
  unfold Region.byteAt
  split
  · rfl
  · next y hy =>
    obtain ⟨hyr, hyh⟩ := VRec.mem_holding.1 (leastBy_spec hy).1
    exact absurd hyh (h y hyr)

/-- A byte has a newest record, or none holds it. -/
theorem Region.Sound.newest_or_unheld {r : Region} (hr : r.Sound) (a v : Nat) :
    (∃ x, r.Newest a v x) ∨ ∀ x ∈ r.recs, ¬ x.holdsAt a v := by
  cases hleast : leastBy (fun (x : VRec) => 0xFFFF_FFFF - x.ver)
    (r.recs.filter fun x => x.line == a / 128 && decide (x.ver ≤ v) && x.mask.getLsbD (a % 128)) with
  | none =>
    refine .inr fun x hx hh => ?_
    have hmem := VRec.mem_holding.2 ⟨hx, hh⟩
    simp [leastBy_eq_none hleast] at hmem
  | some x =>
    obtain ⟨hmem, hle⟩ := leastBy_spec hleast
    obtain ⟨hx, hh⟩ := VRec.mem_holding.1 hmem
    refine .inl ⟨x, hx, hh, hr.bound x hx, fun y hy hyh hne => ?_⟩
    have hkey := hle y (VRec.mem_holding.2 ⟨hy, hyh⟩)
    have hver : y.ver ≠ x.ver := fun he => hne (hr.single y hy x hx (hyh.1.trans hh.1.symm) he)
    have hbx := hr.bound x hx
    have hby := hr.bound y hy
    omega

/-! ### One record in the place of others -/

/-- In q the record w stands in the place of the records of r that satisfy K, and at address a and version v it gives what the
newest of those gave. -/
structure Region.Replaced (r q : Region) (K : VRec → Prop) (w : VRec) (a v : Nat) : Prop where
  mem : ∀ y, y ∈ q.recs ↔ y = w ∨ (y ∈ r.recs ∧ ¬ K y)
  bound : w.ver ≤ 0xFFFF_FFFF
  takesOver : ∀ x, r.Newest a v x → K x → w.holdsAt a v ∧ x.ver ≤ w.ver ∧ w.data[a % 128]? = x.data[a % 128]?
  stemsFrom : w.holdsAt a v → ∃ z ∈ r.recs, K z ∧ z.holdsAt a v
  older : w.holdsAt a v → ∀ x, r.Newest a v x → ¬ K x → w.ver < x.ver

theorem Region.Replaced.byteAt_eq {r q : Region} {K : VRec → Prop} {w : VRec} {a v : Nat} (h : r.Replaced q K w a v)
    (hr : r.Sound) (m : Byte) : q.byteAt a v m = r.byteAt a v m := by
  rcases hr.newest_or_unheld a v with ⟨x, hx⟩ | hun
  · by_cases hk : K x
    · obtain ⟨hw, hle, hdata⟩ := h.takesOver x hx hk
      have hnew : q.Newest a v w := by
        refine ⟨(h.mem w).2 (.inl rfl), hw, h.bound, fun y hy hyh hne => ?_⟩
        obtain ⟨hyr, hyk⟩ := ((h.mem y).1 hy).resolve_left hne
        exact Nat.lt_of_lt_of_le (hx.newer y hyr hyh fun he => hyk (he ▸ hk)) hle
      rw [Region.byteAt_of_newest hnew, Region.byteAt_of_newest hx, hdata]
    · have hnew : q.Newest a v x := by
        refine ⟨(h.mem x).2 (.inr ⟨hx.mem, hk⟩), hx.holds, hx.bound, fun y hy hyh hne => ?_⟩
        rcases (h.mem y).1 hy with rfl | ⟨hyr, -⟩
        · exact h.older hyh x hx hk
        · exact hx.newer y hyr hyh hne
      rw [Region.byteAt_of_newest hnew, Region.byteAt_of_newest hx]
  · have hq : ∀ y ∈ q.recs, ¬ y.holdsAt a v := fun y hy hyh => by
      rcases (h.mem y).1 hy with rfl | ⟨hyr, -⟩
      · obtain ⟨z, hz, -, hzh⟩ := h.stemsFrom hyh
        exact hun z hz hzh
      · exact hun y hyr hyh
    rw [Region.byteAt_of_unheld hq, Region.byteAt_of_unheld hun]

/-! ### Storing in a version (R211) -/

/-- A record with one byte stored in it. -/
def VRec.put (x : VRec) (va : Nat) (b : Byte) : VRec :=
  { x with
    data := x.data.setIfInBounds (va % 128) b
    mask := x.mask ||| BitVec.ofNat 128 (2 ^ (va % 128)) }

theorem VRec.put_bit (x : VRec) (va i : Nat) (b : Byte) :
    (x.put va b).mask.getLsbD i = (x.mask.getLsbD i || decide (va % 128 = i)) := by
  have hi : va % 128 < 128 := Nat.mod_lt _ (by decide)
  simp only [VRec.put, BitVec.getLsbD_or, BitVec.getLsbD_ofNat, Nat.testBit_two_pow]
  by_cases he : va % 128 = i
  · simp [he, he ▸ hi]
  · simp [he]

theorem VRec.put_data_same (x : VRec) (va : Nat) (b : Byte) : (x.put va b).data[va % 128]? = some b := by
  have hi : va % 128 < 128 := Nat.mod_lt _ (by decide)
  simp [VRec.put, hi]

theorem VRec.put_data_other (x : VRec) {va i : Nat} (b : Byte) (h : va % 128 ≠ i) : (x.put va b).data[i]? = x.data[i]? := by
  simp [VRec.put, h]

/-- Whether a record is the one of a line and version. -/
def VRec.isOf (va v : Nat) (x : VRec) : Prop := x.line = va / 128 ∧ x.ver = v

/-- The record into which a byte of a version is stored: an empty one when there is none (R211). -/
def Region.recordOf (r : Region) (va v : Nat) : VRec :=
  (r.recs.find? fun x => x.line == va / 128 && x.ver == v).getD ⟨va / 128, v, Vector.replicate 128 0, 0⟩

/-- It is a record of the region, or empty. -/
theorem Region.recordOf_cases (r : Region) (va v : Nat) : (r.recordOf va v).isOf va v ∧ (r.recordOf va v ∈ r.recs
    ∨ (∀ x ∈ r.recs, ¬ x.isOf va v) ∧ r.recordOf va v = ⟨va / 128, v, Vector.replicate 128 0, 0⟩) := by
  unfold Region.recordOf
  cases hf : r.recs.find? fun x => x.line == va / 128 && x.ver == v with
  | none =>
    refine ⟨⟨rfl, rfl⟩, .inr ⟨fun x hx hof => ?_, rfl⟩⟩
    have := List.find?_eq_none.1 hf x hx
    simp [hof.1, hof.2] at this
  | some x =>
    have hx := List.find?_some hf
    simp only [Bool.and_eq_true, beq_iff_eq] at hx
    exact ⟨hx, .inl (List.mem_of_find?_eq_some hf)⟩

/-- Storing a byte puts one record in the place of that of its line and version. -/
theorem Region.mem_store1 {r : Region} (hr : r.Sound) (va v : Nat) (b : Byte) (y : VRec) :
    y ∈ (r.store1 va v b).recs ↔ y = (r.recordOf va v).put va b ∨ (y ∈ r.recs ∧ ¬ y.isOf va v) := by
  obtain ⟨hof, hin | ⟨hnone, hempty⟩⟩ := r.recordOf_cases va v
  · have hany : (r.recs.any fun x => x.line == va / 128 && x.ver == v) = true :=
      List.any_eq_true.2 ⟨_, hin, by simp [hof.1, hof.2]⟩
    have hone : ∀ x ∈ r.recs, x.isOf va v → x = r.recordOf va v := fun x hx hxo =>
      hr.single x hx _ hin (hxo.1.trans hof.1.symm) (hxo.2.trans hof.2.symm)
    have hrecs : (r.store1 va v b).recs = r.recs.map fun x => if x.line = va / 128 ∧ x.ver = v then x.put va b else x := by
      unfold Region.store1
      rw [if_pos hany]
      rfl
    rw [hrecs, List.mem_map]
    constructor
    · rintro ⟨x, hx, rfl⟩
      split
      · next hxo => exact .inl (by rw [hone x hx hxo])
      · next hxo => exact .inr ⟨hx, hxo⟩
    · rintro (rfl | ⟨hy, hyo⟩)
      · exact ⟨_, hin, if_pos hof⟩
      · exact ⟨y, hy, if_neg hyo⟩
  · have hany : ¬ (r.recs.any fun x => x.line == va / 128 && x.ver == v) = true := fun h => by
      obtain ⟨x, hx, hxo⟩ := List.any_eq_true.1 h
      exact hnone x hx (by simpa [VRec.isOf] using hxo)
    have hrecs : (r.store1 va v b).recs = (r.recordOf va v).put va b :: r.recs := by
      unfold Region.store1
      rw [if_neg hany, hempty]
      rfl
    rw [hrecs, List.mem_cons]
    exact or_congr_right ⟨fun hy => ⟨hy, hnone y hy⟩, And.left⟩

theorem Region.Sound.store1 {r : Region} (hr : r.Sound) {va v : Nat} (hv : v ≤ 0xFFFF_FFFF) (b : Byte) :
    (r.store1 va v b).Sound := by
  obtain ⟨hof, -⟩ := r.recordOf_cases va v
  refine ⟨fun x hx => ?_, fun x hx y hy hl he => ?_⟩
  · rcases (Region.mem_store1 hr va v b x).1 hx with rfl | ⟨hx, -⟩
    · exact hof.2.trans_le hv
    · exact hr.bound x hx
  · rcases (Region.mem_store1 hr va v b x).1 hx with rfl | ⟨hx, hxo⟩ <;>
      rcases (Region.mem_store1 hr va v b y).1 hy with rfl | ⟨hy, hyo⟩
    · rfl
    · exact absurd ⟨hl.symm.trans hof.1, he.symm.trans hof.2⟩ hyo
    · exact absurd ⟨hl.trans hof.1, he.trans hof.2⟩ hxo
    · exact hr.single x hx y hy hl he

/-- A stored byte reads as stored in its version. -/
theorem Region.byteAt_store1_same {r : Region} (hr : r.Sound) {va v : Nat} (hv : v ≤ 0xFFFF_FFFF) (b m : Byte) :
    (r.store1 va v b).byteAt va v m = b := by
  obtain ⟨⟨hline, hver⟩, -⟩ := r.recordOf_cases va v
  have hnew : (r.store1 va v b).Newest va v ((r.recordOf va v).put va b) := by
    refine ⟨(Region.mem_store1 hr va v b _).2 (.inl rfl), ⟨hline, hver.le, by simp [VRec.put_bit]⟩, hver.trans_le hv,
      fun y hy hyh hne => ?_⟩
    obtain ⟨-, hyo⟩ := ((Region.mem_store1 hr va v b y).1 hy).resolve_left hne
    exact (Nat.lt_of_le_of_ne hyh.2.1 fun he => hyo ⟨hyh.1, he⟩).trans_eq hver.symm
  rw [Region.byteAt_of_newest hnew, VRec.put_data_same]
  rfl

/-- Every other byte, and every version below, keeps its value. -/
theorem Region.byteAt_store1_other {r : Region} (hr : r.Sound) {va v : Nat} (hv : v ≤ 0xFFFF_FFFF) (b : Byte) {a u : Nat}
    (h : a ≠ va ∨ u < v) (m : Byte) : (r.store1 va v b).byteAt a u m = r.byteAt a u m := by
  obtain ⟨hof, hcases⟩ := r.recordOf_cases va v
  have hother : a / 128 = va / 128 → v ≤ u → va % 128 ≠ a % 128 := by omega
  have hholds : ((r.recordOf va v).put va b).holdsAt a u ↔ (r.recordOf va v).holdsAt a u := by
    refine and_congr_right fun hl => and_congr_right fun hle => ?_
    rw [VRec.put_bit, decide_eq_false (hother (hl.symm.trans hof.1) (hof.2.symm.trans_le hle)), Bool.or_false]
  have hstems : ((r.recordOf va v).put va b).holdsAt a u → r.recordOf va v ∈ r.recs := fun hw =>
    hcases.resolve_right fun ⟨_, hempty⟩ => by simpa [hempty, VRec.holdsAt] using hholds.1 hw
  refine Region.Replaced.byteAt_eq (K := VRec.isOf va v) ⟨Region.mem_store1 hr va v b, hof.2.trans_le hv, fun x hx hxo => ?_,
    fun hw => ⟨_, hstems hw, hof, hholds.1 hw⟩, fun hw x hx hxo => ?_⟩ hr m
  · have hin := hcases.resolve_right fun ⟨hnone, _⟩ => hnone x hx.mem hxo
    obtain rfl : x = r.recordOf va v := hr.single x hx.mem _ hin (hxo.1.trans hof.1.symm) (hxo.2.trans hof.2.symm)
    exact ⟨hholds.2 hx.holds, Nat.le_refl _,
      VRec.put_data_other _ b (hother (hx.holds.1.symm.trans hof.1) (hof.2.symm.trans_le hx.holds.2.1))⟩
  · exact hx.newer (r.recordOf va v) (hstems hw) (hholds.1 hw) fun he => hxo (he ▸ hof)

/-- Storing bytes one after the other from the n-th address on. -/
def Region.storeFrom (r : Region) (va v : Nat) (bs : List Byte) (n : Nat) : Region :=
  (bs.zipIdx n).foldl (fun r (p : Byte × Nat) => r.store1 (va + p.2) v p.1) r

theorem Region.storeFrom_cons (r : Region) (va v : Nat) (b : Byte) (bs : List Byte) (n : Nat) :
    r.storeFrom va v (b :: bs) n = (r.store1 (va + n) v b).storeFrom va v bs (n + 1) := rfl

/-- Bytes below the first one stored, and versions below, keep their values. -/
theorem Region.byteAt_storeFrom_other {r : Region} (hr : r.Sound) {va v : Nat} (hv : v ≤ 0xFFFF_FFFF) {bs : List Byte}
    {n a u : Nat} (h : a < va + n ∨ u < v) (m : Byte) : (r.storeFrom va v bs n).byteAt a u m = r.byteAt a u m := by
  induction bs generalizing r n with
  | nil => rfl
  | cons b bs ih =>
    rw [Region.storeFrom_cons, ih (hr.store1 hv b) (by omega), Region.byteAt_store1_other hr hv b (by omega)]

/-- What is stored reads as stored. -/
theorem Region.byteAt_storeFrom_same {r : Region} (hr : r.Sound) {va v : Nat} (hv : v ≤ 0xFFFF_FFFF) {bs : List Byte}
    {n i : Nat} (hi : i < bs.length) (m : Byte) : (r.storeFrom va v bs n).byteAt (va + n + i) v m = bs[i] := by
  induction bs generalizing r n i with
  | nil => simp at hi
  | cons b bs ih =>
    rw [Region.storeFrom_cons]
    cases i with
    | zero =>
      rw [Region.byteAt_storeFrom_other (hr.store1 hv b) hv (by omega)]
      exact Region.byteAt_store1_same hr hv b m
    | succ i =>
      have haddr : va + n + (i + 1) = va + (n + 1) + i := by omega
      rw [haddr]
      exact ih (hr.store1 hv b) (Nat.lt_of_succ_lt_succ hi)

/-- Settles O39: byte by byte along the stored list. -/
theorem storedVersionsRead : Obligations.StoredVersionsRead := by
  intro r va v bs old hv hbound hsingle
  have hr : r.Sound := ⟨hbound, hsingle⟩
  have hstore : r.store va v bs = r.storeFrom va v bs 0 := rfl
  rw [hstore]
  refine ⟨fun hlen => List.ext_getElem (by simp [Region.valueAt, hlen]) fun i hi hi' => ?_, fun a u hu => ?_⟩
  · simp only [Region.valueAt, List.getElem_map, List.getElem_range]
    exact Region.byteAt_storeFrom_same (n := 0) hr hv hi' _
  · exact List.map_congr_left fun i _ => Region.byteAt_storeFrom_other hr hv (.inr hu) _

end Sys2Proof.Machine
end

section
/-!
SUPPORT. RECLAMATION (R214): the records that a line loses are merged into one of theirs, which gives every byte what they gave
at each version that may still be read; with the replacement lemma of the values O40 is settled.
-/

namespace Sys2Proof.Machine

/-! ### Merging the records of a line (R214) -/

/-- A record with the bytes that it lacks taken from an older one. -/
def VRec.fillFrom (x o : VRec) : VRec :=
  { x with
    data := tab 128 fun i =>
      if x.mask.getLsbD i then x.data[i]?.getD 0 else if o.mask.getLsbD i then o.data[i]?.getD 0 else x.data[i]?.getD 0
    mask := x.mask ||| o.mask }

theorem VRec.fillFrom_bit (x o : VRec) (i : Nat) :
    (x.fillFrom o).mask.getLsbD i = (x.mask.getLsbD i || o.mask.getLsbD i) := BitVec.getLsbD_or

/-- The byte comes from the first of the two that holds it. -/
theorem VRec.fillFrom_data {x o : VRec} {i : Nat} (hi : i < 128) (h : x.mask.getLsbD i = true ∨ o.mask.getLsbD i = true) :
    (x.fillFrom o).data[i]? = if x.mask.getLsbD i = true then x.data[i]? else o.data[i]? := by
  have htab : (x.fillFrom o).data[i]? = some (if x.mask.getLsbD i then x.data[i]?.getD 0 else
      if o.mask.getLsbD i then o.data[i]?.getD 0 else x.data[i]?.getD 0) := (tab_getElem? 128 _ i).trans (if_pos hi)
  have hget : ∀ z : VRec, z.data[i]? = some (z.data[i]?.getD 0) := fun z => by simp [hi]
  rw [htab]
  split
  · exact (hget x).symm
  · next hx =>
    rw [if_pos (h.resolve_left hx)]
    exact (hget o).symm

/-- A record with the bytes that it lacks taken from older ones, in order. -/
def VRec.merged (x : VRec) (os : List VRec) : VRec := os.foldl VRec.fillFrom x

theorem VRec.merged_place (x : VRec) (os : List VRec) : (x.merged os).line = x.line ∧ (x.merged os).ver = x.ver := by
  induction os generalizing x with
  | nil => exact ⟨rfl, rfl⟩
  | cons o os ih => exact ih (x.fillFrom o)

/-- It holds the bytes that any of them holds. -/
theorem VRec.merged_bit {x : VRec} {os : List VRec} {i : Nat} :
    (x.merged os).mask.getLsbD i = true ↔ ∃ z ∈ x :: os, z.mask.getLsbD i = true := by
  induction os generalizing x with
  | nil => simp [VRec.merged]
  | cons o os ih =>
    have hcons : x.merged (o :: os) = (x.fillFrom o).merged os := rfl
    rw [hcons, ih]
    simp only [List.exists_mem_cons_iff, VRec.fillFrom_bit, Bool.or_eq_true, or_assoc]

/-- Each byte comes from the first that holds it. -/
theorem VRec.merged_data {x z : VRec} {os : List VRec} {i : Nat} (hi : i < 128)
    (h : (x :: os).find? (fun y => y.mask.getLsbD i) = some z) : (x.merged os).data[i]? = z.data[i]? := by
  induction os generalizing x z with
  | nil =>
    obtain rfl : x = z := List.mem_singleton.1 (List.mem_of_find?_eq_some h) ▸ rfl
    rfl
  | cons o os ih =>
    have hcons : x.merged (o :: os) = (x.fillFrom o).merged os := rfl
    rw [hcons]
    by_cases hheld : x.mask.getLsbD i = true ∨ o.mask.getLsbD i = true
    · have hfill : (x.fillFrom o).mask.getLsbD i = true := by simpa [VRec.fillFrom_bit] using hheld
      rw [ih (List.find?_cons_of_pos hfill), VRec.fillFrom_data hi hheld]
      split
      · next hx =>
        obtain rfl : x = z := by simpa [hx] using h
        rfl
      · next hx =>
        obtain rfl : o = z := by simpa [hx, hheld.resolve_left hx] using h
        rfl
    · obtain ⟨hx, ho⟩ := not_or.1 hheld
      exact ih (by simpa [VRec.fillFrom_bit, hx, ho] using h)

theorem length_insertFirst {α : Type} (key : α → Nat) (x : α) (ys : List α) :
    (sortBy.insertFirst key x ys).length = ys.length + 1 := by
  induction ys with
  | nil => rfl
  | cons y ys ih =>
    rw [sortBy.insertFirst]
    split
    · rfl
    · rw [List.length_cons, ih, List.length_cons]

theorem length_sortBy {α : Type} (key : α → Nat) (xs : List α) : (sortBy key xs).length = xs.length := by
  induction xs with
  | nil => rfl
  | cons x xs ih =>
    rw [sortBy, List.length_cons, ← ih]
    exact length_insertFirst key x _

/-! ### Reclaiming a line (R214) -/

/-- The newest record of a line that the floor has passed. -/
def Region.passed (g : Region) (line : Nat) : Option VRec :=
  leastBy (fun (x : VRec) => 0xFFFF_FFFF - x.ver) (g.recs.filter fun x => x.line == line && decide (x.ver ≤ g.floor))

/-- The records of a line that are merged into the newest that the floor has passed, the newest first. -/
def Region.olderThan (g : Region) (line : Nat) (x : VRec) : List VRec :=
  sortBy (fun (x : VRec) => 0xFFFF_FFFF - x.ver)
    ((g.recs.filter fun x => x.line == line && decide (x.ver ≤ g.floor)).filter fun y => y.ver != x.ver)

theorem Region.reclaim_of_none {g : Region} {line : Nat} (h : g.passed line = none) : g.reclaim line = g := by
  rw [Region.passed] at h
  rw [Region.reclaim, h]

theorem Region.reclaim_of_some {g : Region} {line : Nat} {x : VRec} (h : g.passed line = some x) :
    g.reclaim line = { g with
      recs := (g.recs.filter fun y => !(y.line == line && decide (y.ver < x.ver))).map fun y =>
        if y.line = line ∧ y.ver = x.ver then x.merged (g.olderThan line x) else y
      free := g.free + (g.olderThan line x).length } := by
  rw [Region.passed] at h
  rw [Region.reclaim, h]
  rfl

/-- Reclamation changes the records and their number only. -/
theorem Region.reclaim_eq (g : Region) (line : Nat) : ∃ rs n, g.reclaim line = { g with recs := rs, free := n } := by
  cases h : g.passed line with
  | none => exact ⟨g.recs, g.free, Region.reclaim_of_none h⟩
  | some x => exact ⟨_, _, Region.reclaim_of_some h⟩

section Reclaim

variable {g : Region} {line : Nat} {x : VRec} (hg : g.Sound) (h : g.passed line = some x)
include hg h

/-- It is a record of the line, and the newest of those up to the floor. -/
theorem Region.passed_spec : x ∈ g.recs ∧ x.line = line ∧ x.ver ≤ g.floor
    ∧ ∀ y ∈ g.recs, y.line = line → y.ver ≤ g.floor → y.ver ≤ x.ver := by
  obtain ⟨hmem, hle⟩ := leastBy_spec h
  have hold : ∀ y, (y ∈ g.recs.filter fun x => x.line == line && decide (x.ver ≤ g.floor)) ↔
      y ∈ g.recs ∧ y.line = line ∧ y.ver ≤ g.floor := fun y => by simp
  obtain ⟨hx, hline, hver⟩ := (hold x).1 hmem
  refine ⟨hx, hline, hver, fun y hy hyl hyv => ?_⟩
  have hkey := hle y ((hold y).2 ⟨hy, hyl, hyv⟩)
  have hbound := hg.bound y hy
  omega

theorem Region.mem_olderThan (y : VRec) : y ∈ g.olderThan line x ↔ y ∈ g.recs ∧ y.line = line ∧ y.ver < x.ver := by
  obtain ⟨-, -, hver, hnewest⟩ := Region.passed_spec hg h
  rw [Region.olderThan, mem_sortBy]
  simp only [List.mem_filter, Bool.and_eq_true, beq_iff_eq, decide_eq_true_eq, bne_iff_ne]
  constructor
  · rintro ⟨⟨hy, hyl, hyv⟩, hne⟩
    exact ⟨hy, hyl, Nat.lt_of_le_of_ne (hnewest y hy hyl hyv) hne⟩
  · rintro ⟨hy, hyl, hlt⟩
    exact ⟨⟨hy, hyl, by omega⟩, hlt.ne⟩

/-- The record and those merged into it are the line's records of its version and below. -/
theorem Region.mem_merging (y : VRec) : y ∈ x :: g.olderThan line x ↔ y ∈ g.recs ∧ y.line = line ∧ y.ver ≤ x.ver := by
  obtain ⟨hx, hline, -, -⟩ := Region.passed_spec hg h
  rw [List.mem_cons, Region.mem_olderThan hg h]
  constructor
  · rintro (rfl | ⟨hy, hyl, hlt⟩)
    · exact ⟨hx, hline, Nat.le_refl _⟩
    · exact ⟨hy, hyl, Nat.le_of_lt hlt⟩
  · rintro ⟨hy, hyl, hle⟩
    rcases Nat.lt_or_eq_of_le hle with hlt | heq
    · exact .inr ⟨hy, hyl, hlt⟩
    · exact .inl (hg.single y hy x hx (hyl.trans hline.symm) heq)

/-- They stand in falling order of their versions. -/
theorem Region.merging_descends : (x :: g.olderThan line x).Pairwise fun y z => z.ver ≤ y.ver := by
  refine List.pairwise_cons.2 ⟨fun y hy => ((Region.mem_merging hg h y).1 (.tail _ hy)).2.2, ?_⟩
  have hsorted : (g.olderThan line x).Pairwise (KeyThen (fun y : VRec => 0xFFFF_FFFF - y.ver) fun _ _ => True) :=
    sortBy_pairwise (List.pairwise_of_forall fun _ _ => trivial)
  refine hsorted.imp_of_mem fun {y z} hy hz hkey => ?_
  have hby := hg.bound y ((Region.mem_olderThan hg h y).1 hy).1
  have hbz := hg.bound z ((Region.mem_olderThan hg h z).1 hz).1
  dsimp only [KeyThen] at hkey
  omega

/-- Reclamation puts the merged record in the place of the line's records that the floor has passed. -/
theorem Region.mem_reclaim (y : VRec) : y ∈ (g.reclaim line).recs ↔
    y = x.merged (g.olderThan line x) ∨ (y ∈ g.recs ∧ ¬ (y.line = line ∧ y.ver ≤ x.ver)) := by
  obtain ⟨hx, hline, -, -⟩ := Region.passed_spec hg h
  rw [Region.reclaim_of_some h]
  simp only [List.mem_map, List.mem_filter, Bool.not_eq_true', Bool.and_eq_false_imp, beq_iff_eq, decide_eq_false_iff_not]
  constructor
  · rintro ⟨z, ⟨hz, hkeep⟩, rfl⟩
    split
    · exact .inl rfl
    · next hne =>
      refine .inr ⟨hz, fun ⟨hl, hle⟩ => hkeep hl (Nat.lt_of_le_of_ne hle fun he => hne ⟨hl, he⟩)⟩
  · rintro (rfl | ⟨hy, hnot⟩)
    · exact ⟨x, ⟨hx, fun _ => Nat.lt_irrefl _⟩, if_pos ⟨hline, rfl⟩⟩
    · exact ⟨y, ⟨hy, fun hl hlt => hnot ⟨hl, Nat.le_of_lt hlt⟩⟩, if_neg fun ⟨hl, he⟩ => hnot ⟨hl, he.le⟩⟩

/-- What the merged record gives is what the newest of those merged gave. -/
theorem Region.Newest.merged_data {a v : Nat} {y : VRec} (hy : g.Newest a v y) (hyl : y.line = line) (hle : y.ver ≤ x.ver)
    (hv : x.ver ≤ v) : (x.merged (g.olderThan line x)).data[a % 128]? = y.data[a % 128]? := by
  obtain ⟨hya, -, hybit⟩ := hy.holds
  have hmem := (Region.mem_merging hg h y).2 ⟨hy.mem, hyl, hle⟩
  obtain ⟨z, hz⟩ := Option.isSome_iff_exists.1
    (List.find?_isSome (p := fun y : VRec => y.mask.getLsbD (a % 128)).2 ⟨y, hmem, hybit⟩)
  rw [VRec.merged_data (Nat.mod_lt _ (by decide)) hz]
  obtain ⟨hzbit, before, after, hsplit, hbefore⟩ := List.find?_eq_some_iff_append.1 hz
  obtain ⟨hzr, hzl, hzle⟩ := (Region.mem_merging hg h z).1 (List.mem_of_find?_eq_some hz)
  have hzholds : z.holdsAt a v := ⟨hzl.trans (hyl.symm.trans hya), hzle.trans hv, hzbit⟩
  suffices heq : z = y by rw [heq]
  by_contra hne
  have hlater : y ∈ after := by
    rw [hsplit] at hmem
    rcases List.mem_append.1 hmem with hb | hb
    · exact absurd hybit (by simpa using hbefore y hb)
    · exact (List.mem_cons.1 hb).resolve_left (Ne.symm hne)
  have hdesc := Region.merging_descends hg h
  rw [hsplit] at hdesc
  have hge := (List.pairwise_cons.1 (List.pairwise_append.1 hdesc).2.1).1 y hlater
  exact absurd (hy.newer z hzr hzholds hne) (Nat.not_lt.2 hge)

/-- At or above the floor the merged record gives what those merged gave. -/
theorem Region.replaced_reclaim {a v : Nat} (hv : g.floor ≤ v) : g.Replaced (g.reclaim line)
    (fun y => y.line = line ∧ y.ver ≤ x.ver) (x.merged (g.olderThan line x)) a v := by
  obtain ⟨hx, hline, hver, -⟩ := Region.passed_spec hg h
  obtain ⟨hml, hmv⟩ := x.merged_place (g.olderThan line x)
  refine ⟨Region.mem_reclaim hg h, hmv.trans_le (hg.bound x hx), fun y hy ⟨hyl, hle⟩ => ?_, fun ⟨hwl, _, hwbit⟩ => ?_,
    fun ⟨hwl, _, _⟩ y hy hnot => ?_⟩
  · refine ⟨⟨hml.trans (hline.trans (hyl.symm.trans hy.holds.1)), hmv.trans_le (hver.trans hv), ?_⟩, hle.trans_eq hmv.symm,
      hy.merged_data hg h hyl hle (hver.trans hv)⟩
    exact VRec.merged_bit.2 ⟨y, (Region.mem_merging hg h y).2 ⟨hy.mem, hyl, hle⟩, hy.holds.2.2⟩
  · obtain ⟨z, hz, hzbit⟩ := VRec.merged_bit.1 hwbit
    obtain ⟨hzr, hzl, hzle⟩ := (Region.mem_merging hg h z).1 hz
    exact ⟨z, hzr, ⟨hzl, hzle⟩, hzl.trans (hline.symm.trans (hml.symm.trans hwl)), hzle.trans (hver.trans hv), hzbit⟩
  · have hyl : y.line = line := hy.holds.1.trans (hwl.symm.trans (hml.trans hline))
    rw [hmv]
    exact Nat.lt_of_not_le fun hle => hnot ⟨hyl, hle⟩

/-- As many records leave the line as have been merged into its newest. -/
theorem Region.length_olderThan : (g.olderThan line x).length =
    (g.recs.filter fun y => y.line == line && decide (y.ver < x.ver)).length := by
  obtain ⟨-, -, hver, hnewest⟩ := Region.passed_spec hg h
  rw [Region.olderThan, length_sortBy, List.filter_filter]
  refine congrArg List.length (List.filter_congr fun y hy => ?_)
  rw [Bool.eq_iff_iff]
  simp only [Bool.and_eq_true, beq_iff_eq, decide_eq_true_eq, bne_iff_ne]
  constructor
  · rintro ⟨hne, hyl, hyv⟩
    exact ⟨hyl, Nat.lt_of_le_of_ne (hnewest y hy hyl hyv) hne⟩
  · rintro ⟨hyl, hlt⟩
    exact ⟨hlt.ne, hyl, by omega⟩

end Reclaim

/-- Reclamation changes no value at or above the floor (R214). -/
theorem Region.valueAt_reclaim {g : Region} (hg : g.Sound) (line va v : Nat) (old : List Byte) (hv : g.floor ≤ v) :
    (g.reclaim line).valueAt va v old = g.valueAt va v old := by
  cases h : g.passed line with
  | none => rw [Region.reclaim_of_none h]
  | some x => exact List.map_congr_left fun i _ => (Region.replaced_reclaim hg h hv).byteAt_eq hg _

/-- Every record that leaves becomes free (R212, R214). -/
theorem Region.free_reclaim {g : Region} (hg : g.Sound) (line : Nat) :
    g.free ≤ (g.reclaim line).free ∧ (g.reclaim line).free + (g.reclaim line).recs.length = g.free + g.recs.length := by
  cases h : g.passed line with
  | none =>
    rw [Region.reclaim_of_none h]
    exact ⟨Nat.le_refl _, rfl⟩
  | some x =>
    have hcount := List.length_eq_length_filter_add (l := g.recs) fun y : VRec => y.line == line && decide (y.ver < x.ver)
    have holder := Region.length_olderThan hg h
    rw [Region.reclaim_of_some h]
    simp only [List.length_map]
    omega

/-! ### RECLAMATION -/

/-- A region whose home notes that records have come free since it was g (R212). -/
def Region.signalled (q g : Region) : Region := { q with signal := q.signal || decide (g.free < q.free) }

/-- A region whose slices' copies of P and F are cs. -/
def Region.withCopies (g : Region) (cs : Vector (Nat × Nat) 48) : Region := { g with copies := cs }

/-- RECLAMATION of a line that owes nothing, at a slice that has acknowledged the floor. -/
theorem exec_reclamation_reclaims {s : State} {region line : Nat} {g : Region}
    (hg : s.region? (region / 256) (region % 256) = some g) (ho : s.owesLine g line = false) :
    ∃ cs, exec (.reclamation region line) s =
      .next (s.modRegion g.launch g.num fun _ => ((g.withCopies cs).reclaim line).signalled g) := by
  rw [exec_reclamation, execReclamation, hg]
  dsimp only
  rw [ho, if_neg Bool.false_ne_true]
  split
  · exact ⟨_, rfl⟩
  · exact ⟨g.copies, rfl⟩

/-- Settles O40: by what reclaiming a line does to the records and their values. -/
theorem reclamationKeepsValues : Obligations.ReclamationKeepsValues := by
  intro s region line g hg hbound hsingle
  refine ⟨fun ho => ?_, fun ho => ?_⟩
  · rw [exec_reclamation, execReclamation, hg]
    exact if_pos ho
  · obtain ⟨cs, hexec⟩ := exec_reclamation_reclaims hg ho
    obtain ⟨hl, hn⟩ := State.region?_spec hg
    have hsound : (g.withCopies cs).Sound := ⟨hbound, hsingle⟩
    obtain ⟨hfree, hsum⟩ := Region.free_reclaim hsound line
    have hvalue := Region.valueAt_reclaim hsound line
    rw [hl, hn] at hexec
    obtain ⟨rs, n, hrec⟩ := (g.withCopies cs).reclaim_eq line
    rw [hrec] at hexec hfree hsum hvalue
    refine ⟨_, _, hexec, State.region?_modRegion hg hl hn, rfl, rfl, hfree, hsum, fun hlt => ?_, hvalue, rfl, rfl⟩
    simp only [Region.signalled, Bool.or_eq_true, decide_eq_true_eq]
    exact .inr hlt

end Sys2Proof.Machine
end

section
/-!
SUPPORT. VNLD and VNST (R216): an instruction outside every SHIELD window issues like any other, and with no cause a version
access posts one request for each of its lanes; O24 is assembled from these.
-/

namespace Sys2Proof.Machine

/-! ### An instruction outside every SHIELD window -/

section Course

variable {s u : State} {c : Ctx} {f : Ctx → State → Res}

/-- An instruction that no SHIELD window forbids issues like any other. -/
theorem State.issueN_unshielded (hc : s.ctx? = some c) {forbidden : Ctx → Mask} (hs : c.shielded (forbidden c) = 0#32) :
    s.issueN 1 forbidden f = s.issue f := by
  have h0 : c.shielded (0 : Mask) = 0#32 := c.shielded_zero
  unfold State.issue State.issueN
  simp only [hc, hs, h0]

theorem State.issueN_on (hc : s.ctx? = some c) (hu : c.unshielded) (g : BitVec 4) : s.issueN 1 (·.on g) f = s.issue f :=
  State.issueN_unshielded hc (Ctx.shielded_on hu g)

/-- An instruction that takes effect on the machine, which it leaves as u, and on its group. -/
theorem State.issue_leaves {own : Mask} {h : Group → Group} (hc : s.ctx? = some c)
    (hf : f c (s.begin_ c) = .done ((u.begin_ c).modGroup c.iss.blk c.iss.grp h) own) :
    s.issue f = .next (u.after c 1 own h) := by
  rw [State.issue_done hc hf, State.finish_modGroup]

/-- An instruction that waits and leaves the machine as u. -/
theorem State.issue_waits (hc : s.ctx? = some c) (hf : f c (s.begin_ c) = .wait (u.begin_ c)) :
    s.issue f = .next (u.waits c id) := by
  rw [State.issue_wait hc hf, State.hold_begin]

/-- Causes that are raised before issue, without an argument. -/
theorem State.issue_traps {cs : List (Cause × Mask)} (hc : s.ctx? = some c) (hf : f c (s.begin_ c) = .raise cs 0 false) :
    s.issue f = .next (s.trapsBefore c cs) := State.issue_raise hc hf

end Course

/-! ### VNLD and VNST -/

section Accesses

variable {s : State} {c : Ctx} {x : MForm}
  (hea : ∀ l, inMask (c.on x.g) l = true → c.eaG x l % x.bytes = 0 ∧ c.eaG x l < 2 ^ 52)
  (hv : (c.sval x.o.c).toNat < 2 ^ 32)

include hea hv in
/-- A version below 2^32 and aligned global addresses raise nothing. -/
theorem Ctx.anyCause_version :
    anyCause (globalCauses (c.on x.g) x.bytes (c.eaG x) ++ c.verCauses x) = false := by
  have hg := anyCause_globalCauses hea
  unfold anyCause at *
  rw [List.any_append, hg, Ctx.verCauses, if_pos hv]
  rfl

variable (hc : s.ctx? = some c)
include hea hv hc

theorem exec_vnld_posts (hm : c.on x.g ≠ 0) (hlc : c.g.lc < 255) (hu : c.unshielded) :
    exec (.vnld x) s = .next (s.posted c x.la (c.insn .lc (c.on x.g) (run x.d.vnum (runLen x.bytes)) [])
      ((lanesOf (c.on x.g)).map fun l => { (c.req x (.vnld (c.sval x.o.c).toNat) .global).lane l with
        helper := (c.r.lane l).helper, addr := c.eaG x l, dst := some x.d.vnum })) := by
  refine ((exec_vnld x s).trans (State.issueN_on hc hu x.g)).trans (State.issue_post hc ?_)
  have hfull := Ctx.full_of_lt (k := .lc) hlc
  dsimp only
  rw [Ctx.anyCause_version hea hv, if_neg Bool.false_ne_true, if_neg hm, hfull, if_neg Bool.false_ne_true]

theorem exec_vnld_nothing (hm : c.on x.g = 0) : exec (.vnld x) s = .next (s.after c 1 0 id) := by
  refine ((exec_vnld x s).trans (State.issueN_unshielded hc ?_)).trans (State.issue_nothing hc ?_)
  · rw [hm]
    exact c.shielded_zero
  · dsimp only
    rw [Ctx.anyCause_version hea hv, if_neg Bool.false_ne_true, if_pos hm]

theorem exec_vnst_posts (hr : c.real x.g ≠ 0) (hsc : c.g.sc < 255) :
    exec (.vnst x) s = .next (s.posted c x.la (c.insn .sc (c.real x.g) [] [])
      ((lanesOf (c.real x.g)).map fun l => { (c.req x (.vnst (c.sval x.o.c).toNat) .global).lane l with
        addr := c.eaG x l, parts := [⟨l, c.storeData x.d.vnum x.bytes l, [], []⟩] })) := by
  refine (exec_vnst x s).trans (State.issue_post hc ?_)
  have hfull := Ctx.full_of_lt (k := .sc) hsc
  dsimp only
  rw [Ctx.anyCause_version hea hv, if_neg Bool.false_ne_true, if_neg hr, hfull, if_neg Bool.false_ne_true]

theorem exec_vnst_nothing (hr : c.real x.g = 0) : exec (.vnst x) s = .next (s.after c 1 0 id) := by
  refine (exec_vnst x s).trans (State.issue_nothing hc ?_)
  dsimp only
  rw [Ctx.anyCause_version hea hv, if_neg Bool.false_ne_true, if_pos hr]

end Accesses

/-- Settles O24: with no cause, VNLD and VNST post their requests, or have nothing to do. -/
theorem versionAccessesPostOneRequestALane : Obligations.VersionAccessesPostOneRequestALane :=
  fun _ _ _ hc hea hv => ⟨exec_vnld_posts hea hv hc, exec_vnst_posts hea hv hc, exec_vnld_nothing hea hv hc,
    exec_vnst_nothing hea hv hc⟩

end Sys2Proof.Machine
end

section
/-!
SUPPORT. The uniform version instructions (R213, R214, R217 to R220): what the region register names, what a lane set has asked
of the region home, and each instruction's course; O25 and O26 are assembled from these.
-/

namespace Sys2Proof.Machine

/-! ### The uniform instructions: their region and their request -/

section Uniform

variable {s : State} {c : Ctx} {x : VForm}

theorem State.homeReq_begin (s : State) (c : Ctx) : (s.begin_ c).homeReq c = s.homeReq c := rfl

/-- A register that names a live region of the launch. -/
theorem Ctx.onRegion_live {g : BitVec 4} {a : Opnd} {r : Region} {k : Region → Res} (hr : c.real g ≠ 0)
    (hn : (c.sval a).toNat < 256) (hreg : s.region? c.b.launch (c.sval a).toNat = some r) :
    c.onRegion (s.begin_ c) g a k = k r := by
  have hlive : c.region (s.begin_ c) a = some r := (if_pos hn).trans hreg
  rw [Ctx.onRegion, if_neg hr, hlive]

/-- A register that names no live region of the launch. -/
theorem Ctx.onRegion_dead {g : BitVec 4} {a : Opnd} {k : Region → Res} (hr : c.real g ≠ 0)
    (h : 256 ≤ (c.sval a).toNat ∨ s.region? c.b.launch (c.sval a).toNat = none) :
    c.onRegion (s.begin_ c) g a k = .cause .regionInvalid (c.on g) := by
  have hdead : c.region (s.begin_ c) a = none := by
    unfold Ctx.region
    split
    · next hn => exact h.resolve_left (Nat.not_le.2 hn)
    · rfl
  rw [Ctx.onRegion, if_neg hr, hdead]

/-- A lane set that has sent no request does what its instruction says. -/
theorem Ctx.answerOr_none {go : HomeReq → Res} {k : Res} (h : s.homeReq c = none) : c.answerOr (s.begin_ c) go k = k := by
  rw [Ctx.answerOr, State.homeReq_begin, h]

/-- A request that has not been answered says how it stands. -/
theorem Ctx.answerOr_open {go : HomeReq → Res} {k : Res} {h : HomeReq} (hh : s.homeReq c = some h)
    (ho : h.answered = false) : c.answerOr (s.begin_ c) go k = c.issuesFor h (go h) := by
  rw [Ctx.answerOr, State.homeReq_begin, hh]
  dsimp only
  rw [if_neg (by simp [ho])]

/-- The state in which an answered publication or floor leaves the machine: the request is gone, and every slice has the P
and F of its region (R213, R214). -/
def State.acknowledged (s : State) (h : HomeReq) : State :=
  ({ s with home := s.home.filter fun y => y.id != h.id } : State).modRegion h.launch h.region Region.sync

/-- That state, with the lanes of the request past their instruction; those that have come since stay before it (log 37). -/
def State.issued (s : State) (c : Ctx) (h : HomeReq) : State :=
  (s.acknowledged h).after c 1 (c.iss.lanes &&& ~~~h.lanes) (c.stayOf (c.iss.lanes &&& ~~~h.lanes))

theorem HomeReq.answered_of_done {h : HomeReq} (ho : h.op = .publish ∨ h.op = .floor) (hd : h.done = true) :
    h.answered = true := by
  unfold HomeReq.answered
  obtain ho | ho := ho <;> rw [ho] <;> exact hd

theorem State.homeEffect_eq_acknowledged {h : HomeReq} (ho : h.op = .publish ∨ h.op = .floor) :
    s.homeEffect h = s.acknowledged h := by
  unfold State.homeEffect
  obtain ho | ho := ho <;> rw [ho] <;> rfl

theorem Ctx.issuesFor_done (c : Ctx) (h : HomeReq) (t : State) : c.issuesFor h (.done t 0) =
    .done (t.modGroup c.iss.blk c.iss.grp (c.stayOf (c.iss.lanes &&& ~~~h.lanes))) (c.iss.lanes &&& ~~~h.lanes) :=
  congrArg (Res.done _) BitVec.zero_or

/-- The instruction of an answered publication or floor issues for the lanes of its request; those that have come since stay. -/
theorem State.issue_answered {f : Ctx → State → Res} {h : HomeReq} {go : HomeReq → Res} {k : Res} (hc : s.ctx? = some c)
    (hf : f c (s.begin_ c) = c.answerOr (s.begin_ c) go k) (hh : s.homeReq c = some h) (ho : h.op = .publish ∨ h.op = .floor)
    (hd : h.done = true) :
    s.issue f = .next (s.issued c h) := by
  refine State.issue_leaves hc (hf.trans ?_)
  rw [Ctx.answerOr, State.homeReq_begin, hh]
  dsimp only
  rw [if_pos (HomeReq.answered_of_done ho hd), State.homeEffect_eq_acknowledged ho, Ctx.issuesFor_done]
  rfl

end Uniform

/-! ### VNPUB, VNFLOOR, VNWAIT and VNSTAT (R213, R214, R218, R220) -/

section Act

variable {s : State} {c : Ctx} {x : VForm} (hc : s.ctx? = some c) (hu : c.unshielded)
include hc hu

section Live

variable {r : Region} (hr : c.real x.g ≠ 0) (hn : (c.sval x.a).toNat < 256)
  (hreg : s.region? c.b.launch (c.sval x.a).toNat = some r)
include hr hn hreg

theorem exec_vnpub_asks (hh : s.homeReq c = none) (hv : (c.sval x.b).toNat < 2 ^ 32) :
    exec (.vnpub x) s =
      .next ((c.askHome s (c.on x.g) r.num (c.sval x.b).toNat .publish false (s.vnstsAt c.b.core)).waits c id) := by
  refine ((exec_vnpub x s).trans (State.issueN_on hc hu x.g)).trans (State.issue_waits hc ?_)
  dsimp only
  rw [Ctx.answerOr_none hh, Ctx.onRegion_live hr hn hreg, if_neg (Nat.not_le.2 hv)]
  rfl

theorem exec_vnfloor_asks (hh : s.homeReq c = none) (hlo : r.floor < (c.sval x.b).toNat) (hhi : (c.sval x.b).toNat ≤ r.pub)
    (hv : (c.sval x.b).toNat < 2 ^ 32) :
    exec (.vnfloor x) s = .next (((c.askHome s (c.on x.g) r.num (c.sval x.b).toNat .floor true).modRegion r.launch r.num
      fun q => { q with floor := (c.sval x.b).toNat }).waits c id) := by
  refine ((exec_vnfloor x s).trans (State.issueN_on hc hu x.g)).trans (State.issue_waits hc ?_)
  dsimp only
  rw [Ctx.answerOr_none hh, Ctx.onRegion_live hr hn hreg, if_neg (Nat.not_le.2 hv), if_neg (Nat.not_le.2 hlo),
    if_neg (Nat.not_lt.2 hhi)]
  rfl

theorem exec_vnfloor_nothing (hh : s.homeReq c = none) (hlo : (c.sval x.b).toNat ≤ r.floor)
    (hv : (c.sval x.b).toNat < 2 ^ 32) : exec (.vnfloor x) s = .next (s.after c 1 0 id) := by
  refine ((exec_vnfloor x s).trans (State.issueN_on hc hu x.g)).trans (State.issue_nothing hc ?_)
  dsimp only
  rw [Ctx.answerOr_none hh, Ctx.onRegion_live hr hn hreg, if_neg (Nat.not_le.2 hv), if_pos hlo]

theorem exec_vnfloor_aboveP (hh : s.homeReq c = none) (hlo : r.floor < (c.sval x.b).toNat) (hhi : r.pub < (c.sval x.b).toNat) :
    exec (.vnfloor x) s = .next (s.trapsBefore c [(.versionRange, c.on x.g)]) := by
  refine ((exec_vnfloor x s).trans (State.issueN_on hc hu x.g)).trans (State.issue_traps hc ?_)
  dsimp only
  rw [Ctx.answerOr_none hh, Ctx.onRegion_live hr hn hreg, if_neg (Nat.not_le.2 hlo), if_pos hhi]
  exact ite_self _

theorem exec_vnwait_passes_or_waits (hv : (c.sval x.b).toNat < 2 ^ 32) :
    ((c.sval x.b).toNat ≤ r.pub → exec (.vnwait x) s = .next (s.after c 1 0 id))
      ∧ (¬ (c.sval x.b).toNat ≤ r.pub → exec (.vnwait x) s = .next (s.waits c id)) := by
  rw [exec_vnwait, execVnwait, State.issueN_on hc hu]
  refine State.issue_pass_or_hold hc ?_
  rw [Ctx.onRegion_live hr hn hreg, if_neg (Nat.not_le.2 hv)]

theorem exec_vnstat_reads : exec (.vnstat x) s =
    .next (s.after c 1 0 fun g => g.putS x.d (BitVec.ofNat 64 (r.stat x.sub.toNat))) := by
  refine ((exec_vnstat x s).trans (State.issueN_on hc hu x.g)).trans (State.issue_doneG hc ?_)
  rw [Ctx.onRegion_live hr hn hreg, Ctx.scal, if_neg (Ctx.on_of_real hr)]
  rfl

section Range

variable (hv : 2 ^ 32 ≤ (c.sval x.b).toNat)
include hv

theorem exec_vnpub_versionRange (hh : s.homeReq c = none) :
    exec (.vnpub x) s = .next (s.trapsBefore c [(.versionRange, c.on x.g)]) := by
  refine ((exec_vnpub x s).trans (State.issueN_on hc hu x.g)).trans (State.issue_traps hc ?_)
  dsimp only
  rw [Ctx.answerOr_none hh, Ctx.onRegion_live hr hn hreg, if_pos hv]
  rfl

theorem exec_vnfloor_versionRange (hh : s.homeReq c = none) :
    exec (.vnfloor x) s = .next (s.trapsBefore c [(.versionRange, c.on x.g)]) := by
  refine ((exec_vnfloor x s).trans (State.issueN_on hc hu x.g)).trans (State.issue_traps hc ?_)
  dsimp only
  rw [Ctx.answerOr_none hh, Ctx.onRegion_live hr hn hreg, if_pos hv]
  rfl

theorem exec_vnwait_versionRange : exec (.vnwait x) s = .next (s.trapsBefore c [(.versionRange, c.on x.g)]) := by
  refine ((exec_vnwait x s).trans (State.issueN_on hc hu x.g)).trans (State.issue_traps hc ?_)
  rw [Ctx.onRegion_live hr hn hreg, if_pos hv]
  rfl

end Range

end Live

section Dead

variable (hr : c.real x.g ≠ 0) (hdead : 256 ≤ (c.sval x.a).toNat ∨ s.region? c.b.launch (c.sval x.a).toNat = none)
include hr hdead

theorem exec_vnpub_regionInvalid (hh : s.homeReq c = none) :
    exec (.vnpub x) s = .next (s.trapsBefore c [(.regionInvalid, c.on x.g)]) :=
  ((exec_vnpub x s).trans (State.issueN_on hc hu x.g)).trans
    (State.issue_traps hc ((Ctx.answerOr_none hh).trans (Ctx.onRegion_dead hr hdead)))

theorem exec_vnfloor_regionInvalid (hh : s.homeReq c = none) :
    exec (.vnfloor x) s = .next (s.trapsBefore c [(.regionInvalid, c.on x.g)]) :=
  ((exec_vnfloor x s).trans (State.issueN_on hc hu x.g)).trans
    (State.issue_traps hc ((Ctx.answerOr_none hh).trans (Ctx.onRegion_dead hr hdead)))

theorem exec_vnwait_regionInvalid : exec (.vnwait x) s = .next (s.trapsBefore c [(.regionInvalid, c.on x.g)]) :=
  ((exec_vnwait x s).trans (State.issueN_on hc hu x.g)).trans (State.issue_traps hc (Ctx.onRegion_dead hr hdead))

theorem exec_vnstat_regionInvalid : exec (.vnstat x) s = .next (s.trapsBefore c [(.regionInvalid, c.on x.g)]) :=
  ((exec_vnstat x s).trans (State.issueN_on hc hu x.g)).trans (State.issue_traps hc (Ctx.onRegion_dead hr hdead))

end Dead

section Asked

variable {h : HomeReq} (hh : s.homeReq c = some h)
include hh

theorem exec_vnpub_issues (ho : h.op = .publish) (hd : h.done = true) : exec (.vnpub x) s = .next (s.issued c h) :=
  ((exec_vnpub x s).trans (State.issueN_on hc hu x.g)).trans (State.issue_answered hc rfl hh (.inl ho) hd)

theorem exec_vnfloor_issues (ho : h.op = .floor) (hd : h.done = true) : exec (.vnfloor x) s = .next (s.issued c h) :=
  ((exec_vnfloor x s).trans (State.issueN_on hc hu x.g)).trans (State.issue_answered hc rfl hh (.inr ho) hd)

/-- A publication whose waits are over and whose version the home turns away (R213). -/
theorem exec_vnpub_refused {r : Region} (hreg : s.region? h.launch h.region = some r) (ho : h.op = .publish)
    (hd : h.done = false) (hq : s.quiet h.blk h.grp h.takers 4 = true) (hw : s.allDone h.waits = true)
    (hbad : h.ver ≠ r.pub + 1 ∨ r.top < h.ver) :
    exec (.vnpub x) s = .next (s.trapsBefore c [(.versionOrder, if h.ver ≠ r.pub + 1 then h.takers &&& c.iss.lanes else 0),
      (.versionRange, if r.top < h.ver then h.takers &&& c.iss.lanes else 0)]) := by
  refine ((exec_vnpub x s).trans (State.issueN_on hc hu x.g)).trans (State.issue_traps hc ?_)
  have hopen : h.answered = false := by
    rw [HomeReq.answered, ho]
    exact hd
  have hsent : (s.begin_ c).homeSent h = true := by
    have hsent : s.homeSent h = true := by simp [State.homeSent, ho, hq, hw]
    exact hsent
  have hreg' : (s.begin_ c).region? h.launch h.region = some r := hreg
  have hgo : c.publishing (s.begin_ c) h = .raise [(.versionOrder, if h.ver ≠ r.pub + 1 then c.askedOn h else 0),
      (.versionRange, if h.ver > r.top then c.askedOn h else 0)] 0 false := by
    unfold Ctx.publishing
    rw [hreg', hsent]
    exact if_pos hbad
  dsimp only
  rw [Ctx.answerOr_open hh hopen, hgo]
  rfl

end Asked

end Act

/-- Settles O25: each instruction's course on a live region, and the course of an answered request. -/
theorem versionInstructionsAct : Obligations.VersionInstructionsAct := by
  rintro s c x _ r hc hu hr rfl hn hreg
  obtain ⟨hl, hnum⟩ := State.region?_spec hreg
  refine ⟨fun hh hv => ?asksP, fun h hh ho hd => exec_vnpub_issues hc hu hh ho hd, fun hh hlo hhi hv => ?asksF,
    fun h hh ho hd => exec_vnfloor_issues hc hu hh ho hd, fun hh => exec_vnfloor_nothing hc hu hr hn hreg hh,
    fun hle hv => (exec_vnwait_passes_or_waits hc hu hr hn hreg hv).1 hle,
    fun hlt hv => (exec_vnwait_passes_or_waits hc hu hr hn hreg hv).2 (Nat.not_le.2 hlt), exec_vnstat_reads hc hu hr hn hreg⟩
  case asksP =>
    rw [exec_vnpub_asks hc hu hr hn hreg hh hv, hnum]
    rfl
  case asksF =>
    rw [exec_vnfloor_asks hc hu hr hn hreg hh hlo hhi hv, hl, hnum]
    rfl

/-! ### VNOPEN (R205, R219) -/

/-- Whether a page may be held depends on the translation alone. -/
theorem State.badPage_of_walk {s t : State} {k : Context} (h : ∀ va, t.walk k va = s.walk k va) (va n : Nat) :
    t.badPage k va n = s.badPage k va n := by
  induction n generalizing va with
  | zero => rfl
  | succ n ih => simp only [State.badPage, State.pageReason, h, ih]

/-- What breaks R205 in an entry depends on the translation and on the live regions. -/
theorem State.entryReason_of_walk {s t : State} {k : Context} (h : ∀ va, t.walk k va = s.walk k va)
    (hr : t.regions = s.regions) (e : RegionEntry) : t.entryReason k e = s.entryReason k e := by
  simp only [State.entryReason, State.badPage_of_walk h, hr]

/-- What VNOPEN does with the 32 bytes of its entry (R205, R219). -/
def Ctx.opening (c : Ctx) (k : Context) (x : VForm) (bs : List Byte) (s : State) : Res :=
  let e := RegionEntry.ofBytes bs
  if s.regionFull k c.b.launch e.pool then .cause .regionLimit (c.on x.g)
  else match s.entryReason k e with
    | some (r, va) => .fail [(.regionBadEntry, c.on x.g)] (BitVec.ofNat 64 va, fkindOf 10 r 32, c.iss.pc)
    | none =>
      let n := s.freeNumber c.b.launch
      c.scal { s with regions := s.regions ++ [e.region c.b.launch k.id n true] } x.g x.d (BitVec.ofNat 64 n)

/-- A read that has not begun begins, and its lane set waits. -/
theorem Ctx.reading_begins {s : State} {c : Ctx} (hp : s.preAt c = none) (m : Mask) (va n access : Nat) (name : Cause → Cause)
    (f : List Byte → State → Res) : c.reading (s.begin_ c) m va n access name f =
      .wait ((s.beginPre ⟨0, c.iss.blk, c.iss.grp, m, c.iss.pc, false, va, n, [], none, none⟩ c.b.core m).begin_ c) := by
  have hp' : (s.begin_ c).preAt c = none := hp
  rw [Ctx.reading, hp']
  rfl

/-- A read of which every byte has come goes on without it. -/
theorem Ctx.reading_goesOn {s : State} {c : Ctx} {p : PreRead} {bs : List Byte} (hp : s.preAt c = some p)
    (hfail : p.fail = none) (hbs : p.bytes? = some bs) (m : Mask) (access : Nat) (name : Cause → Cause)
    (f : List Byte → State → Res) :
    c.reading (s.begin_ c) m p.addr p.size access name f = f bs ((s.dropPre p.id).begin_ c) := by
  have hp' : (s.begin_ c).preAt c = some p := hp
  rw [Ctx.reading, hp']
  dsimp only
  rw [if_neg (by simp), Ctx.goOnRead, hfail, hbs]
  rfl

section Vnopen

variable {s : State} {c : Ctx} {x : VForm} {k : Context} (hc : s.ctx? = some c) (hu : c.unshielded) (hr : c.real x.g ≠ 0)
  (hk : s.context? c.l.ctx = some k) (ha : (c.sval x.a).toNat % 32 = 0) (ha' : (c.sval x.a).toNat < 2 ^ 52)
  (hq : s.quiet c.iss.blk c.iss.grp (c.on x.g) 4 = true) (hw : (s.walk k (c.sval x.a).toNat).reason? = none)
include hc hu hr hk ha ha' hq hw

/-- At an aligned address that the tables map, after the set's accesses, VNOPEN reads its entry. -/
theorem exec_vnopen_reads : ∃ f, exec (.vnopen x) s = s.issue f ∧ f c (s.begin_ c) =
    c.reading (s.begin_ c) (c.on x.g) (c.sval x.a).toNat 32 10 entryCause (c.opening k x) := by
  refine ⟨_, (exec_vnopen x s).trans (State.issueN_on hc hu x.g), ?_⟩
  have hk' : (s.begin_ c).context? c.l.ctx = some k := hk
  have hq' : (s.begin_ c).quiet c.iss.blk c.iss.grp (c.on x.g) 4 = true := hq
  have hw' : ((s.begin_ c).walk k (c.sval x.a).toNat).reason? = none := hw
  have hok : anyCause (globalCauses (c.on x.g) 32 fun _ => (c.sval x.a).toNat) = false :=
    anyCause_globalCauses fun _ _ => ⟨ha, ha'⟩
  dsimp only
  rw [hk']
  dsimp only
  rw [if_neg hr, hok, hq', hw']
  rfl

theorem exec_vnopen_asks (hp : s.preAt c = none) : exec (.vnopen x) s = .next ((s.beginPre ⟨0, c.iss.blk, c.iss.grp, c.on x.g,
    c.iss.pc, false, (c.sval x.a).toNat, 32, [], none, none⟩ c.b.core (c.on x.g)).waits c id) := by
  obtain ⟨f, hexec, hf⟩ := exec_vnopen_reads hc hu hr hk ha ha' hq hw
  exact hexec.trans (State.issue_waits hc (hf.trans (Ctx.reading_begins hp _ _ _ _ _ _)))

theorem exec_vnopen_creates {p : PreRead} {bs : List Byte} (hp : s.preAt c = some p) (haddr : p.addr = (c.sval x.a).toNat)
    (hsize : p.size = 32) (hfail : p.fail = none) (hbs : p.bytes? = some bs)
    (hroom : s.regionFull k c.b.launch (RegionEntry.ofBytes bs).pool = false)
    (hentry : s.entryReason k (RegionEntry.ofBytes bs) = none) :
    exec (.vnopen x) s = .next (({ s.dropPre p.id with
      regions := s.regions ++ [(RegionEntry.ofBytes bs).region c.b.launch k.id (s.freeNumber c.b.launch) true] } : State).after
      c 1 0 fun g => g.putS x.d (BitVec.ofNat 64 (s.freeNumber c.b.launch))) := by
  obtain ⟨f, hexec, hf⟩ := exec_vnopen_reads hc hu hr hk ha ha' hq hw
  rw [← haddr, ← hsize, Ctx.reading_goesOn hp hfail hbs] at hf
  refine hexec.trans (State.issue_leaves hc (hf.trans ?_))
  have hroom' : ((s.dropPre p.id).begin_ c).regionFull k c.b.launch (RegionEntry.ofBytes bs).pool = false := hroom
  have hentry' : ((s.dropPre p.id).begin_ c).entryReason k (RegionEntry.ofBytes bs) = none :=
    (State.entryReason_of_walk (s := s) (t := (s.dropPre p.id).begin_ c) (fun _ => rfl) rfl _).trans hentry
  unfold Ctx.opening
  dsimp only
  rw [hroom', if_neg Bool.false_ne_true, hentry']
  exact if_neg (Ctx.on_of_real hr)

end Vnopen

/-- Settles O26: each check's cause, and VNOPEN before and after its read of the entry. -/
theorem versionChecksAndNewRegions : Obligations.VersionChecksAndNewRegions := by
  refine ⟨fun s c x hc hu hr => ⟨fun r h hh hreg ho hd hq hw hbad => exec_vnpub_refused hc hu hh hreg ho hd hq hw hbad,
    fun r hn hreg => ⟨exec_vnfloor_aboveP hc hu hr hn hreg, fun hv => ?range⟩, fun hdead => ?dead⟩,
    fun s c x k hc hu hr hk ha ha' hidle hw => ?opens⟩
  case range =>
    exact ⟨exec_vnwait_versionRange hc hu hr hn hreg hv, fun hh =>
      ⟨exec_vnpub_versionRange hc hu hr hn hreg hv hh, exec_vnfloor_versionRange hc hu hr hn hreg hv hh⟩⟩
  case dead =>
    exact ⟨fun hh => ⟨exec_vnpub_regionInvalid hc hu hr hdead hh, exec_vnfloor_regionInvalid hc hu hr hdead hh⟩,
      exec_vnwait_regionInvalid hc hu hr hdead, exec_vnstat_regionInvalid hc hu hr hdead⟩
  case opens =>
    have hq : s.quiet c.iss.blk c.iss.grp (c.on x.g) 4 = true := hidle.elim id fun h => h.quiet _ _
    exact ⟨exec_vnopen_asks hc hu hr hk ha ha' hq hw, fun p bs hp haddr hsize hfail hbs hroom hentry =>
      exec_vnopen_creates hc hu hr hk ha ha' hq hw hp haddr hsize hfail hbs hroom hentry⟩

end Sys2Proof.Machine
end

section
/-!
SUPPORT. PUSH and QSTAT (R229, R230, R237): what becomes of a command that is handed to its queue, and each course of a PUSH,
first or after a wait; O30 is assembled from these.
-/

namespace Sys2Proof.Machine

/-! ### Handing a command to its queue (R229, steps 5 and 6) -/

/-- The eight dwords that a PUSH reads. -/
def Ctx.cmdDws (c : Ctx) (x : PForm) : Dws := tab 8 fun k => c.sreg (x.a.snum + k)

/-- The command that a PUSH has accepted. -/
def Ctx.command (c : Ctx) (x : PForm) (id : Nat) (threads : Mask) (w : Dws) (regs : List (Nat × Nat)) : Cmd where
  id := id
  queue := x.queue.toNat
  core := c.b.core
  blk := c.iss.blk
  grp := c.iss.grp
  launch := c.b.launch
  ctx := c.l.ctx
  threads := threads
  fpc := c.iss.pc
  dws := w
  started := false
  todo := w.pieces x.queue.toNat
  flight := []
  regs := regs
  parked := none
  heldAt := []
  hf := tab 2 fun i => c.b.fam (w.hf + i)
  next := 0
  buf := []
  stalled := false
  far := []
  epoch := c.g.epoch
  wordWait := false
  fail := none
  kept := none

/-- What acceptance does to the group: d is cleared, and a TRACK raises EC. -/
def Group.accept (g : Group) (x : PForm) (w : Dws) : Group :=
  { g.putS x.d 0 with ec := if w.track = true then g.ec + 1 else g.ec }

/-- The machine with one command more, which takes the next number. -/
def State.withCmd (s : State) (k : Cmd) : State := { s with nextId := s.nextId + 1, cmds := s.cmds ++ [k] }

theorem Ctx.acceptCmd_eq (c : Ctx) (s : State) (x : PForm) (threads : Mask) (w : Dws) (regs : List (Nat × Nat)) :
    c.acceptCmd s x threads w regs =
      .done ((s.withCmd (c.command x s.nextId threads w regs)).modGroup c.iss.blk c.iss.grp fun g => g.accept x w) 0 := rfl

section Enqueue

variable {s away hold : State} {c : Ctx} {x : PForm} {m threads : Mask} {w : Dws} {regs : List (Nat × Nat)}
  (hec : w.track = true → c.g.ec < 255)
include hec

/-- A command that may raise EC is not held back by it. -/
theorem Ctx.enqueue_track : ¬ (w.track && decide (255 ≤ c.g.ec)) = true := by
  simpa using hec

/-- A queue with a free entry accepts a command that needs no registration as it is accepted. -/
theorem Ctx.enqueue_accepts (hroom : s.queueUsed c.b.core x.queue.toNat < queueDepth x.queue.toNat)
    (hq : x.queue.toNat ≠ 5 ∨ w.mode = modeVer) :
    c.enqueue s x m threads w regs away hold = c.acceptCmd s x threads w regs := by
  unfold Ctx.enqueue
  dsimp only
  rw [if_neg (Ctx.enqueue_track hec), if_neg (Nat.not_le.2 hroom), if_pos hq]

/-- An HX command in WORD mode registers the next version of its family's region (R262). -/
theorem Ctx.enqueue_registers (hroom : s.queueUsed c.b.core x.queue.toNat < queueDepth x.queue.toNat)
    (hq : x.queue.toNat = 5) (hm : w.mode ≠ modeVer) {r : Region} (hr : s.region? c.b.launch (c.b.fam w.hf).region = some r)
    (htop : r.pub + 1 ≤ r.top) (heng : r.enginesOf (r.pub + 1) < 65535) :
    c.enqueue s x m threads w regs away hold =
      c.acceptCmd (s.modRegion c.b.launch (c.b.fam w.hf).region fun y =>
        { y with engines := assocPut y.engines (r.pub + 1) (y.enginesOf (r.pub + 1) + 1) }) x threads w
        [((c.b.fam w.hf).region, r.pub + 1)] := by
  have hver : ¬ (x.queue.toNat ≠ 5 ∨ w.mode = modeVer) := not_or.2 ⟨not_not.2 hq, hm⟩
  unfold Ctx.enqueue
  dsimp only
  rw [if_neg (Ctx.enqueue_track hec), if_neg (Nat.not_le.2 hroom), if_neg hver, hr]
  dsimp only
  rw [if_neg (Nat.not_lt.2 htop), if_neg (Nat.not_le.2 heng)]

/-- A full queue sets d, or has a PUSH with d = p0 wait. -/
theorem Ctx.enqueue_full (hfull : queueDepth x.queue.toNat ≤ s.queueUsed c.b.core x.queue.toNat) :
    c.enqueue s x m threads w regs away hold =
      if x.d = .p 0 then .wait hold else .done (away.modGroup c.iss.blk c.iss.grp fun g => g.putS x.d 1) 0 := by
  unfold Ctx.enqueue
  dsimp only
  rw [if_neg (Ctx.enqueue_track hec), if_pos hfull]

end Enqueue

/-- The threads of a request: the lanes that it takes in, without helpers. -/
def Ctx.pushers (c : Ctx) (h : HomeReq) : Mask := maskOf fun l => inMask h.takers l && !(c.g.lane l).helper

section Pushing

variable {s : State} {c : Ctx} {x : PForm} {h : HomeReq} {w : Dws}

/-- A command that has its registration is handed to its queue. -/
theorem Ctx.pushing_registered (ho : h.op = .push w) (hd : h.done = true) : c.pushing s x h =
    c.enqueue (s.dropHome h.id) x (c.askedOn h) (c.pushers h) w [(h.region, h.ver)] (s.withdrawHome h) s := by
  rw [Ctx.pushing, ho]
  exact if_pos hd

/-- A command that waits for an entry is handed to its queue again. -/
theorem Ctx.pushing_queued (ho : h.op = .queued w) : c.pushing s x h =
    c.enqueue (s.dropHome h.id) x (c.askedOn h) (c.pushers h) w [] (s.dropHome h.id) s := by
  rw [Ctx.pushing, ho]
  rfl

end Pushing

/-! ### PUSH (R229, R237) -/

section Push

variable {s : State} {c : Ctx} {x : PForm} (hc : s.ctx? = some c) (hu : x.d = .p 0 → c.unshielded)
include hc hu

/-- A PUSH outside every SHIELD window that forbids it issues like any other instruction. -/
theorem exec_push_issues {f : Ctx → State → Res} :
    s.issueN 1 (fun c => if x.d = .p 0 then c.on x.g else 0) f = s.issue f :=
  State.issueN_unshielded hc (Ctx.shielded_spawn hu)

section First

variable (hr : c.real x.g ≠ 0) (hh : s.homeReq c = none) (hec : (c.cmdDws x).track = true → c.g.ec < 255)
  (hq : s.quiet c.iss.blk c.iss.grp (c.on x.g) 4 = true) (hcause : c.cmdCause x.queue.toNat (c.cmdDws x) = none)
include hr hh hec hq hcause

/-- A PUSH that has sent no request, whose threads' accesses are performed and whose command passes R234, either sends the
registration of a VER command or hands the command to its queue. -/
theorem exec_push_reads : ∃ f, exec (.push x) s = s.issue f ∧ f c (s.begin_ c) =
    if (c.cmdDws x).mode = modeVer then
      match c.regCause s x.queue.toNat (c.cmdDws x) with
      | some k => .cause k (c.on x.g)
      | none => .wait ((c.askHome s (c.on x.g) ((c.cmdDws x).ctarget % 256) (c.cmdDws x).ver (.push (c.cmdDws x))).begin_ c)
    else c.enqueue (s.begin_ c) x (c.on x.g) (c.real x.g) (c.cmdDws x) [] (s.begin_ c)
      ((c.askHome s (c.on x.g) 0 0 (.queued (c.cmdDws x))).begin_ c) := by
  refine ⟨_, (exec_push x s).trans (exec_push_issues hc hu), ?_⟩
  have hq' : (s.begin_ c).quiet c.iss.blk c.iss.grp (c.on x.g) 4 = true := hq
  have hw : (tab 8 fun k => c.sreg (x.a.snum + k)) = c.cmdDws x := rfl
  dsimp only
  rw [Ctx.answerOr_none hh, if_neg hr, hw, if_neg (Ctx.enqueue_track hec), hq', hcause]
  rfl

theorem exec_push_sendsRegistration (hm : (c.cmdDws x).mode = modeVer) (hreg : c.regCause s x.queue.toNat (c.cmdDws x) = none) :
    exec (.push x) s = .next ((c.askHome s (c.on x.g) ((c.cmdDws x).ctarget % 256) (c.cmdDws x).ver
      (.push (c.cmdDws x))).waits c id) := by
  obtain ⟨f, hexec, hf⟩ := exec_push_reads hc hu hr hh hec hq hcause
  refine hexec.trans (State.issue_waits hc (hf.trans ?_))
  rw [if_pos hm, hreg]

variable (hm : (c.cmdDws x).mode ≠ modeVer)
include hm

theorem exec_push_accepts (hn : x.queue.toNat ≠ 5) (hroom : s.queueUsed c.b.core x.queue.toNat < queueDepth x.queue.toNat) :
    exec (.push x) s = .next ((s.withCmd (c.command x s.nextId (c.real x.g) (c.cmdDws x) [])).after c 1 0 fun g =>
      g.accept x (c.cmdDws x)) := by
  obtain ⟨f, hexec, hf⟩ := exec_push_reads hc hu hr hh hec hq hcause
  rw [if_neg hm, Ctx.enqueue_accepts (s := s.begin_ c) hec hroom (.inl hn)] at hf
  exact hexec.trans (State.issue_leaves hc hf)

theorem exec_push_registers (h5 : x.queue.toNat = 5) (hroom : s.queueUsed c.b.core x.queue.toNat < queueDepth x.queue.toNat)
    {r : Region} (hreg : s.region? c.b.launch (c.b.fam (c.cmdDws x).hf).region = some r)
    (htop : r.pub + 1 ≤ r.top) (heng : r.enginesOf (r.pub + 1) < 65535) :
    exec (.push x) s = .next (((s.modRegion c.b.launch (c.b.fam (c.cmdDws x).hf).region fun y =>
        { y with engines := assocPut y.engines (r.pub + 1) (y.enginesOf (r.pub + 1) + 1) }).withCmd
      (c.command x s.nextId (c.real x.g) (c.cmdDws x) [((c.b.fam (c.cmdDws x).hf).region, r.pub + 1)])).after c 1 0
        fun g => g.accept x (c.cmdDws x)) := by
  obtain ⟨f, hexec, hf⟩ := exec_push_reads hc hu hr hh hec hq hcause
  rw [if_neg hm, Ctx.enqueue_registers (s := s.begin_ c) hec hroom h5 hm hreg htop heng] at hf
  exact hexec.trans (State.issue_leaves hc hf)

variable (hfull : queueDepth x.queue.toNat ≤ s.queueUsed c.b.core x.queue.toNat)
include hfull

theorem exec_push_setsD (hd : x.d ≠ .p 0) : exec (.push x) s = .next (s.after c 1 0 fun g => g.putS x.d 1) := by
  obtain ⟨f, hexec, hf⟩ := exec_push_reads hc hu hr hh hec hq hcause
  rw [if_neg hm, Ctx.enqueue_full (s := s.begin_ c) hec hfull, if_neg hd] at hf
  exact hexec.trans (State.issue_leaves hc hf)

theorem exec_push_waits (hd : x.d = .p 0) : exec (.push x) s =
    .next ((c.askHome s (c.on x.g) 0 0 (.queued (c.cmdDws x))).waits c id) := by
  obtain ⟨f, hexec, hf⟩ := exec_push_reads hc hu hr hh hec hq hcause
  rw [if_neg hm, Ctx.enqueue_full (s := s.begin_ c) hec hfull, if_pos hd] at hf
  exact hexec.trans (State.issue_waits hc hf)

end First

section Later

variable {h : HomeReq} {w : Dws} (hh : s.homeReq c = some h) (hec : w.track = true → c.g.ec < 255)
  (hroom : s.queueUsed c.b.core x.queue.toNat < queueDepth x.queue.toNat)
include hh hec hroom

/-- A PUSH that goes on queues its command for the lanes that it began with; those that have come since stay (log 37). -/
theorem exec_push_goesOn {regs : List (Nat × Nat)} {away hold : State} (ho : h.answered = false)
    (hq : x.queue.toNat ≠ 5 ∨ w.mode = modeVer) (hgo : c.pushing (s.begin_ c) x h =
      c.enqueue ((s.begin_ c).dropHome h.id) x (c.askedOn h) (c.pushers h) w regs away hold) :
    exec (.push x) s = .next (((s.dropHome h.id).withCmd (c.command x s.nextId (c.pushers h) w regs)).after c 1
      (c.iss.lanes &&& ~~~h.lanes) fun g => c.stayOf (c.iss.lanes &&& ~~~h.lanes) (g.accept x w)) := by
  refine ((exec_push x s).trans (exec_push_issues hc hu)).trans ?_
  rw [Ctx.enqueue_accepts (s := (s.begin_ c).dropHome h.id) hec hroom hq, Ctx.acceptCmd_eq] at hgo
  refine State.issue_leaves hc ((Ctx.answerOr_open hh ho).trans ?_)
  rw [hgo, Ctx.issuesFor_done, State.modGroup_modGroup]
  rfl

theorem exec_push_afterRegistration (ho : h.op = .push w) (hd : h.done = true)
    (hq : x.queue.toNat ≠ 5 ∨ w.mode = modeVer) :
    exec (.push x) s = .next (((s.dropHome h.id).withCmd (c.command x s.nextId (c.pushers h) w [(h.region, h.ver)])).after c 1
      (c.iss.lanes &&& ~~~h.lanes) fun g => c.stayOf (c.iss.lanes &&& ~~~h.lanes) (g.accept x w)) :=
  exec_push_goesOn hc hu hh hec hroom (by rw [HomeReq.answered, ho]) hq (Ctx.pushing_registered ho hd)

theorem exec_push_afterWait (ho : h.op = .queued w) (hn : x.queue.toNat ≠ 5) :
    exec (.push x) s = .next (((s.dropHome h.id).withCmd (c.command x s.nextId (c.pushers h) w [])).after c 1
      (c.iss.lanes &&& ~~~h.lanes) fun g => c.stayOf (c.iss.lanes &&& ~~~h.lanes) (g.accept x w)) :=
  exec_push_goesOn hc hu hh hec hroom (by rw [HomeReq.answered, ho]) (.inl hn) (Ctx.pushing_queued ho)

end Later

end Push

theorem exec_qstat_reads {s : State} {c : Ctx} {x : VForm} (hc : s.ctx? = some c) (hm : c.on x.g ≠ 0) :
    exec (.qstat x) s = .next (s.after c 1 0 fun g => g.putS x.d (BitVec.ofNat 64 (queueDepth x.sub.toNat
      - s.queueUsed c.b.core x.sub.toNat + queueDepth x.sub.toNat * 2 ^ 16
      + (s.cmds.filter fun k => k.inQueue c.b.core x.sub.toNat && k.blk == c.iss.blk).length * 2 ^ 32))) :=
  (exec_qstat x s).trans (State.issue_reads hc hm rfl)

/-- Settles O30: a PUSH that reads its command, one that goes on after a wait, and QSTAT. -/
theorem pushAndQstat : Obligations.PushAndQstat := by
  refine fun s c hc => ⟨fun x hu hr => ⟨fun hh hec hidle hcause => ?first, fun h w hh hec hroom => ?later⟩,
    fun x hm => exec_qstat_reads hc hm⟩
  case first =>
    have hq : s.quiet c.iss.blk c.iss.grp (c.on x.g) 4 = true := hidle.elim id fun hi => hi.quiet _ _
    exact ⟨exec_push_sendsRegistration hc hu hr hh hec hq hcause,
      fun hm hn hroom => ⟨_, rfl, rfl, rfl, rfl, rfl, rfl, rfl, rfl, rfl, rfl, rfl, rfl, rfl, rfl,
        exec_push_accepts hc hu hr hh hec hq hcause hm hn hroom⟩,
      fun hm hfull => ⟨exec_push_setsD hc hu hr hh hec hq hcause hm hfull, exec_push_waits hc hu hr hh hec hq hcause hm hfull⟩,
      fun r hm h5 hroom hreg htop heng => ⟨_, rfl, rfl, rfl, rfl, rfl, rfl, rfl, rfl, rfl, rfl, rfl, rfl, rfl, rfl,
        exec_push_registers hc hu hr hh hec hq hcause hm h5 hroom hreg htop heng⟩⟩
  case later =>
    exact ⟨fun ho hd hq => ⟨_, rfl, rfl, rfl, rfl, rfl, rfl, rfl, rfl, rfl, rfl, rfl, rfl, rfl, rfl,
        exec_push_afterRegistration hc hu hh hec hroom ho hd hq⟩,
      fun ho hn => ⟨_, rfl, rfl, rfl, rfl, rfl, rfl, rfl, rfl, rfl, rfl, rfl, rfl, rfl, rfl,
        exec_push_afterWait hc hu hh hec hroom ho hn⟩⟩

end Sys2Proof.Machine
end

section
/-!
SUPPORT. The start of an engine command (R235, R347). What it sends into the fabric (R330, R331, R334, R344) may change host
memory, the functions' rings and the ports, and nothing that translation, pacing or the engines' queues read; so each peer's
share is what it would be for that peer alone.
-/

namespace Sys2Proof.Machine

/-! ### Sending -/

/-- From s to t there are changes of host memory, of the functions, of the ports and of the routes alone. -/
def State.Sends (s t : State) : Prop := ∃ host fns ports routes,
  t = { s with
    host := host
    fw := { s.fw with fns := fns }
    fab := { s.fab with ports := ports, noRoute := routes } }

namespace State.Sends

variable {s t u : State}

theorem refl (s : State) : s.Sends s := ⟨s.host, s.fw.fns, s.fab.ports, s.fab.noRoute, rfl⟩

theorem trans (h : s.Sends t) (k : t.Sends u) : s.Sends u := by
  obtain ⟨_, _, _, _, rfl⟩ := h
  obtain ⟨_, _, _, _, rfl⟩ := k
  exact ⟨_, _, _, _, rfl⟩

theorem foldl {α : Type} {f : State → α → State} (h : ∀ (s : State) (x : α), s.Sends (f s x)) (xs : List α)
    (s : State) :
    s.Sends (xs.foldl f s) := State.foldl_of_step refl trans h xs s

theorem cmds (h : s.Sends t) : t.cmds = s.cmds := by
  obtain ⟨_, _, _, _, rfl⟩ := h
  rfl

theorem pace (h : s.Sends t) (d : Nat) : t.pace d = s.pace d := by
  obtain ⟨_, _, _, _, rfl⟩ := h
  rfl

end State.Sends

section Steps

variable (s : State)

theorem State.sends_modPort (p : Nat) (f : Port → Port) : s.Sends (s.modPort p f) := ⟨s.host, s.fw.fns, _, s.fab.noRoute, rfl⟩

theorem State.sends_post (f : Nat) (e : CEntry) : s.Sends (s.post f e) := by
  rcases s.post_cases f e with h | ⟨x, h⟩
  · exact ⟨_, _, s.fab.ports, s.fab.noRoute, h⟩
  · exact ⟨s.host, _, s.fab.ports, s.fab.noRoute, h⟩

theorem State.sends_noteRoutes : s.Sends s.noteRoutes := ⟨s.host, s.fw.fns, s.fab.ports, _, rfl⟩

theorem State.sends_reroute (p : Nat) : s.Sends (s.reroute p) := by
  unfold State.reroute
  dsimp only
  split_ifs
  · exact s.sends_modPort ..
  · exact .refl s
  · exact .refl s
  · exact s.sends_modPort ..

theorem State.sends_goDown (p reason : Nat) : s.Sends (s.goDown p reason) :=
  (((s.sends_modPort ..).trans (State.sends_reroute _ p)).trans (State.sends_post _ 0 _)).trans (State.sends_noteRoutes _)

theorem State.sends_sendNew (a k : Nat) (q : Packet) : s.Sends (s.sendNew a k q) := by
  unfold State.sendNew
  exact s.sends_modPort ..

theorem State.sends_send1 {s t : State} {a k : Nat} (h : s.send1 a k = some t) : s.Sends t := by
  unfold State.send1 at h
  dsimp only at h
  split at h
  · cases h
    exact s.sends_modPort ..
  · split at h
    · split at h
      · split at h
        · cases h
          exact (s.sends_sendNew ..).trans (State.sends_modPort ..)
        · cases h
      · cases h
    · split at h
      · cases h
      · split at h
        · cases h
        · split at h <;> cases h
          · exact (s.sends_modPort ..).trans (State.sends_sendNew ..)
          · exact (s.sends_modPort ..).trans (State.sends_sendNew ..)

theorem State.sends_flush (s : State) (a n : Nat) : s.Sends (s.flush a n) := by
  induction n generalizing s with
  | zero => exact .refl s
  | succ n ih =>
    unfold State.flush
    split
    · exact .refl s
    · split
      · exact s.sends_goDown a 2
      · split
        · exact .refl s
        · next h => exact (State.sends_send1 h).trans (ih _)

theorem State.sends_flushAll : s.Sends s.flushAll := by
  unfold State.flushAll
  refine State.Sends.trans (State.Sends.foldl (fun t p => ?reroute) (List.range 16) s)
    (State.Sends.foldl (fun t a => ?flush) (List.range 16) _)
  case reroute =>
    split
    · exact t.sends_reroute p
    · exact .refl t
  case flush =>
    dsimp only
    split
    · exact (t.sends_flush ..).trans (State.sends_modPort ..)
    · exact t.sends_flush ..

theorem State.sends_send (q : Packet) : s.Sends (s.send q) := by
  unfold State.send
  split
  · exact .refl s
  · split
    · exact .refl s
    · exact (s.sends_modPort ..).trans (State.sends_flushAll _)

/-- A demand raises the cumulative demand toward its peer, and is sent (R347). -/
theorem State.sends_demandMore (dev n : Nat) :
    (s.modPace dev fun c => { c with demand := (s.pace dev).demand + n }).Sends (s.demandMore dev n) := State.sends_send ..

end Steps

/-! ### The pace toward each peer -/

theorem State.pace_modPace_other (s : State) {d e : Nat} (h : e ≠ d) (f : Pace → Pace) : (s.modPace d f).pace e = s.pace e :=
  congrArg (·.getD Pace.zero) (Vector.getElem?_setIfInBounds_ne h.symm)

theorem State.pace_modPace_same (s : State) {d : Nat} (h : d < 16) (f : Pace → Pace) : (s.modPace d f).pace d = f (s.pace d) :=
  congrArg (·.getD Pace.zero) (Vector.getElem?_setIfInBounds_self_of_lt h)

/-! ### What translation reads -/

/-- The two states translate alike and are of the same device: the same memory, tables, keys, wiring and lost peers. -/
structure State.MapsAs (t s : State) : Prop where
  mem : t.mem = s.mem
  contexts : t.fw.contexts = s.fw.contexts
  keys : t.fw.keys = s.fw.keys
  device : t.fab.device = s.fab.device
  wiring : t.fab.wiring = s.fab.wiring
  lost : t.fab.lost = s.fab.lost

namespace State.MapsAs

variable {s t u : State}

theorem refl (s : State) : s.MapsAs s := ⟨rfl, rfl, rfl, rfl, rfl, rfl⟩

theorem trans (h : u.MapsAs t) (k : t.MapsAs s) : u.MapsAs s :=
  ⟨h.mem.trans k.mem, h.contexts.trans k.contexts, h.keys.trans k.keys, h.device.trans k.device, h.wiring.trans k.wiring,
    h.lost.trans k.lost⟩

theorem of_sends (h : s.Sends t) : t.MapsAs s := by
  obtain ⟨_, _, _, _, rfl⟩ := h
  exact ⟨rfl, rfl, rfl, rfl, rfl, rfl⟩

variable (h : t.MapsAs s)
include h

theorem modCmd (id : Nat) (f : Cmd → Cmd) : (t.modCmd id f).MapsAs s :=
  ⟨h.mem, h.contexts, h.keys, h.device, h.wiring, h.lost⟩

theorem modPace (d : Nat) (f : Pace → Pace) : (t.modPace d f).MapsAs s :=
  ⟨h.mem, h.contexts, h.keys, h.device, h.wiring, h.lost⟩

theorem keySerial (key : Nat) : t.keySerial key = s.keySerial key := by rw [State.keySerial, h.keys, State.keySerial]

theorem mapped (pa : Nat) : t.fab.mapped pa = s.fab.mapped pa := by
  unfold Fabric.mapped Fabric.present
  rw [h.wiring, h.device]

theorem leaf (c : Context) (pte sh va : Nat) : t.leaf c pte sh va = s.leaf c pte sh va := by
  unfold State.leaf State.keyOf
  simp only [h.mapped, h.keys]

theorem walkFrom (c : Context) (va n a : Nat) : t.walkFrom c va n a = s.walkFrom c va n a := by
  induction n generalizing a with
  | zero => rfl
  | succ n ih => simp only [State.walkFrom, h.mem, h.keySerial, h.leaf, ih]

theorem peerOf (ctx va : Nat) : t.peerOf ctx va = s.peerOf ctx va := by
  simp only [State.peerOf, State.context?, State.walk, h.contexts, h.walkFrom, h.device]

theorem boundFor (k : Cmd) (ts : List (Nat × Nat × Nat)) (d : Nat) : t.boundFor k ts d = s.boundFor k ts d := by
  simp only [State.boundFor, h.peerOf]

end State.MapsAs

/-! ### The start of a command (R235, R347) -/

theorem nodup_distinct (xs : List Nat) : (distinct xs).Nodup := by
  induction xs with
  | nil => exact List.nodup_nil
  | cons x xs ih => exact List.nodup_cons.2 ⟨by simp, ih.filter _⟩

/-- The command of a number after a change of it that keeps its number. -/
theorem State.cmd?_modCmd {s : State} {id : Nat} {k : Cmd} (h : s.cmd? id = some k) {f : Cmd → Cmd} (hf : (f k).id = id) :
    (s.modCmd id f).cmd? id = some (f k) := by
  have hk : k.id = id := by simpa using List.find?_some h
  have hfk : (if k.id = id then f k else k) = f k := if_pos hk
  refine (List.find?_map_of_first h (fun x hx => ?_) (by simp [hfk, hf])).trans (congrArg some hfk)
  rw [if_neg (by simpa using hx)]
  exact hx

/-- The bytes that a command finds unused of a peer's window, in whole elements. -/
def State.unusedFor (s : State) (k : Cmd) (d : Nat) : Nat :=
  (unsolWindow - (s.pace d).unsol) / (if k.w.op = opRedcopy then redBytes k.w.rfmt else 1)
    * (if k.w.op = opRedcopy then redBytes k.w.rfmt else 1)

/-- A command's share of a peer's window, with the demand before it asks. -/
def State.partFor (s : State) (k : Cmd) (d : Nat) : PeerPart :=
  ⟨d, min (s.boundFor k k.todo d) (s.unusedFor k d), (s.pace d).demand, 0⟩

/-- From s to t a command has started and begun to reach the peers ds. -/
structure State.Reaches (s : State) (k : Cmd) (ds : List Nat) (t : State) : Prop where
  maps : t.MapsAs s
  cmd : t.cmd? k.id = some { k with started := true, far := k.far ++ ds.map (s.partFor k) }
  others : ∀ d, d ∉ ds → t.pace d = s.pace d
  demand : ∀ d ∈ ds, d < 16 → d ∉ s.fab.lost →
    (t.pace d).demand = (s.pace d).demand + (s.boundFor k k.todo d - s.unusedFor k d)

section Start

variable {s t : State} {k : Cmd}

theorem State.reaches_nil (h : s.cmd? k.id = some k) :
    s.Reaches k [] (s.modCmd k.id fun q => { q with started := true }) where
  maps := ⟨rfl, rfl, rfl, rfl, rfl, rfl⟩
  cmd := (State.cmd?_modCmd h rfl).trans (by simp)
  others _ _ := rfl
  demand _ hd := absurd hd List.not_mem_nil

/-- Where the window holds all bytes, or the peer is lost, nothing is demanded. -/
theorem State.engage_eq (t : State) (k : Cmd) (ts : List (Nat × Nat × Nat)) (d : Nat) : t.engage k ts d =
    (let u := t.modCmd k.id fun q => { q with far := q.far ++
      [⟨d, min (t.boundFor k ts d) (t.unusedFor k d), (t.pace d).demand, 0⟩] }
    if t.boundFor k ts d ≤ t.unusedFor k d ∨ t.fab.lost.contains d then u
    else u.demandMore d (t.boundFor k ts d - t.unusedFor k d)) := rfl

/-- A command begins to reach one peer more. -/
theorem State.Reaches.engage {ds : List Nat} {d : Nat} (h : s.Reaches k ds t) (hd : d ∉ ds) :
    s.Reaches k (ds ++ [d]) (t.engage k k.todo d) := by
  have hpace := h.others d hd
  have hbound := h.maps.boundFor k k.todo d
  have hunused : t.unusedFor k d = s.unusedFor k d := by rw [State.unusedFor, hpace, State.unusedFor]
  rw [State.engage_eq, hbound, hunused, hpace, h.maps.lost]
  have hcmd : (t.modCmd k.id fun q => { q with far := q.far ++
      [⟨d, min (s.boundFor k k.todo d) (s.unusedFor k d), (s.pace d).demand, 0⟩] }).cmd? k.id
        = some { k with started := true, far := k.far ++ (ds ++ [d]).map (s.partFor k) } :=
    (State.cmd?_modCmd h.cmd rfl).trans (by simp [State.partFor])
  dsimp only
  split
  next hno =>
    refine ⟨h.maps.modCmd _ _, hcmd, fun e he => h.others e fun hm => he (List.mem_append_left _ hm), fun e he hlt hl => ?_⟩
    rcases List.mem_append.1 he with he | he
    · exact h.demand e he hlt hl
    · obtain rfl : e = d := List.mem_singleton.1 he
      have hle : s.boundFor k k.todo e ≤ s.unusedFor k e := hno.resolve_right (by simpa using hl)
      rw [show ((t.modCmd k.id _).pace e) = t.pace e from rfl, hpace, Nat.sub_eq_zero_of_le hle, Nat.add_zero]
  next hno =>
    have hsends := State.sends_demandMore (t.modCmd k.id fun q => { q with far := q.far ++
      [⟨d, min (s.boundFor k k.todo d) (s.unusedFor k d), (s.pace d).demand, 0⟩] }) d (s.boundFor k k.todo d - s.unusedFor k d)
    refine ⟨(State.MapsAs.of_sends hsends).trans ((h.maps.modCmd _ _).modPace _ _), ?_, fun e he => ?_, fun e he hlt hl => ?_⟩
    · rw [State.cmd?, hsends.cmds]
      exact hcmd
    · rw [hsends.pace, State.pace_modPace_other _ (by rintro rfl; exact he (by simp))]
      exact h.others e fun hm => he (List.mem_append_left _ hm)
    · rw [hsends.pace]
      by_cases hed : e = d
      · subst hed
        rw [State.pace_modPace_same _ hlt]
        exact congrArg (· + _) (congrArg Pace.demand hpace)
      · rw [State.pace_modPace_other _ hed]
        exact h.demand e ((List.mem_append.1 he).resolve_right (by simpa using hed)) hlt hl

/-- A command begins to reach peers one after another. -/
theorem State.Reaches.foldl {ds es : List Nat} (h : s.Reaches k ds t) (hn : (ds ++ es).Nodup) :
    s.Reaches k (ds ++ es) (es.foldl (fun (t : State) d => t.engage k k.todo d) t) := by
  induction es generalizing ds t with
  | nil => simpa using h
  | cons e es ih =>
    have hsplit : ds ++ e :: es = ds ++ [e] ++ es := by simp
    rw [hsplit] at hn ⊢
    exact ih (h.engage fun he => List.disjoint_of_nodup_append hn.of_append_left he (List.mem_singleton_self e)) hn

variable (hk : s.cmd? k.id = some k)
include hk

/-- A command that no earlier one of its queue holds back starts, and begins to reach its peers. -/
theorem exec_engineCommandStart_starts (hnew : k.started = false)
    (hearlier : ∀ q ∈ s.cmds, q.id < k.id → q.inQueue k.core k.queue = true → q.started = true ∧ k.w.fence = false) :
    exec (.engineCommandStart k.id) s = .next ((if k.queue ≠ 5 ∧ k.w.dspace = 0 then s.peersOf k k.todo else []).foldl
      (fun (t : State) d => t.engage k k.todo d) (s.modCmd k.id fun q => { q with started := true })) := by
  have hno : ¬ (k.started || ((s.cmds.filter fun q => decide (q.id < k.id) && q.inQueue k.core k.queue).any fun q => !q.started)
      || (k.w.fence && !(s.cmds.filter fun q => decide (q.id < k.id) && q.inQueue k.core k.queue).isEmpty)) = true := by
    intro h
    simp only [hnew, Bool.false_or, Bool.or_eq_true, List.any_eq_true, List.mem_filter, Bool.and_eq_true, decide_eq_true_eq,
      Bool.not_eq_true', List.isEmpty_eq_false_iff_exists_mem] at h
    rcases h with ⟨q, ⟨hq, hlt, hin⟩, hs⟩ | ⟨hf, q, hq, hlt, hin⟩
    · simp [(hearlier q hq hlt hin).1] at hs
    · simp [(hearlier q hq hlt hin).2] at hf
  rw [exec_engineCommandStart, execEngineCommandStart, hk]
  exact if_neg hno

/-- What a start leaves: the command has begun to reach each of its peers. -/
theorem exec_engineCommandStart_reaches (hnew : k.started = false)
    (hearlier : ∀ q ∈ s.cmds, q.id < k.id → q.inQueue k.core k.queue = true → q.started = true ∧ k.w.fence = false) :
    ∃ t, exec (.engineCommandStart k.id) s = .next t
      ∧ s.Reaches k (if k.queue ≠ 5 ∧ k.w.dspace = 0 then s.peersOf k k.todo else []) t := by
  have hnodup : (if k.queue ≠ 5 ∧ k.w.dspace = 0 then s.peersOf k k.todo else []).Nodup := by
    split
    · exact nodup_distinct _
    · exact List.nodup_nil
  exact ⟨_, exec_engineCommandStart_starts hk hnew hearlier, (State.reaches_nil hk).foldl hnodup⟩

end Start

end Sys2Proof.Machine
end

section
/-!
SUPPORT. The pieces of COPY, FILL and REDCOPY and the ids of INSERT, DELETE and MERGE (R235, R239, R262): what an engine
reaches, stores and puts on its way.
-/

namespace Sys2Proof.Machine

/-! ### Reaching memory (R239) -/

section Reach

variable {s t : State} {k : Cmd} {va n : Nat} {write : Bool} {x : Reach}

/-- Translating for an engine changes the translation cache and uses up free values, and nothing else. -/
theorem State.reach_frame (s : State) (k : Cmd) (va n : Nat) (write : Bool) : (s.reach k va n write).2 =
    { s with tlb := (s.reach k va n write).2.tlb, free := (s.reach k va n write).2.free } := by
  unfold State.reach
  cases s.context? k.ctx with
  | none => rfl
  | some c =>
    have hframe := s.translate_frame k.core c va
    dsimp only
    generalize s.translate k.core c va = p at hframe ⊢
    obtain ⟨y, u⟩ := p
    cases y with
    | invalid | malformed | unmapped => exact hframe
    | ok base key w xb =>
      dsimp only
      split
      · exact hframe
      · split
        · exact hframe
        · split
          · split
            · split <;> exact hframe
            · split <;> exact hframe
          · exact hframe

theorem State.eq_of_reach (h : s.reach k va n write = (x, t)) : t = { s with tlb := t.tlb, free := t.free } := by
  have hframe := s.reach_frame k va n write
  rw [h] at hframe
  exact hframe

end Reach

/-! ### The bytes of a piece at their destination (R235) -/

/-- A store to local memory at its home. -/
theorem State.writeHome_local {t : State} {pa : Nat} (ht : targetOf pa = .mem pa) (key : Nat) (bs : List Byte) :
    t.writeHome pa key bs = { t with mem := (t.mem.write (t.keySerial key) pa bs).unpoison pa bs.length } := by
  rw [State.writeHome, ht]

section Store

variable {s t : State} {k : Cmd} {row lo pa key : Nat} {bs : List Byte}
  (hreach : s.reach k (k.dstAt row lo) bs.length true = (.at pa key, t)) (ht : targetOf pa = .mem pa)
  (hreg : t.regionAt k.ctx (k.dstAt row lo) = none)
include hreach ht hreg

/-- Outside every region the bytes of a COPY or FILL are stored as they are. -/
theorem State.engineStore_stores (hop : k.w.op ≠ opRedcopy) : s.engineStore k row lo bs = t.writeHome pa key bs := by
  have hred : (k.w.op == opRedcopy) = false := beq_false_of_ne hop
  unfold State.engineStore
  simp only [hreach, ht, hreg, hred, Bool.not_false, if_true]

/-- Outside every region the elements of a REDCOPY are reduced into what memory holds. -/
theorem State.engineStore_reduces (hop : k.w.op = opRedcopy) (hp : t.mem.poisoned pa bs.length = false) :
    s.engineStore k row lo bs =
      t.writeHome pa key (redBytesInto k.w.rfmt k.w.rop (t.mem.read (t.keySerial key) pa bs.length) bs) := by
  have hred : (k.w.op == opRedcopy) = true := beq_iff_eq.2 hop
  unfold State.engineStore
  simp only [hreach, ht, hreg, hred, Bool.not_true, Bool.false_eq_true, if_false, State.readHome_local ht hp hreg]

end Store

/-! ### Moving a piece (R235) -/

section Move

variable {s : State} {k : Cmd} {row lo len : Nat}

/-- The bytes of a FILL: its pattern repeats every 8 bytes of a row. -/
def Cmd.fillBytes (k : Cmd) (lo len : Nat) : List Byte :=
  (List.range len).map fun i => BitVec.ofNat 8 (k.w.src >>> (8 * ((lo + i) % 8)))

theorem State.movePiece_fill (hop : k.w.op = opFill) : s.movePiece k row lo len =
    (s.modCmd k.id fun q => q.take row lo len).enginePut k row lo (k.fillBytes lo len) := if_pos hop

theorem State.movePiece_local (hop : k.w.op ≠ opFill) (hs : k.w.sspace ≠ 0) : s.movePiece k row lo len =
    (s.modCmd k.id fun q => q.take row lo len).enginePut k row lo (s.localSource k (k.srcAt row lo) len) :=
  (if_neg hop).trans (if_pos hs)

/-- A piece whose source lies at this device's homes. -/
theorem State.movePiece_global {spa skey : Nat} {s1 s2 : State} {bs : List Byte} (hop : k.w.op ≠ opFill)
    (hs : k.w.sspace = 0) (hreach : s.reach k (k.srcAt row lo) len false = (.at spa skey, s1))
    (hread : s.engineRead k (k.srcAt row lo) len = .ok (bs, s2)) :
    s.movePiece k row lo len = (s2.modCmd k.id fun q => q.take row lo len).enginePut k row lo bs := by
  refine (if_neg hop).trans ((if_neg (not_not.2 hs)).trans ?_)
  dsimp only
  rw [hreach, hread]

theorem State.enginePut_global (hd : k.w.dspace = 0) (bs : List Byte) :
    s.enginePut k row lo bs = s.engineStore k row lo bs := if_pos hd

theorem State.enginePut_local (hd : k.w.dspace ≠ 0) (bs : List Byte) : s.enginePut k row lo bs =
    s.fresh.modCmd k.id fun q => { q with flight := q.flight ++ [(s.nextId, row, lo, bs.length, bs)] } := if_neg hd

theorem State.localSource_scratch {b : Block} (hs : k.w.sspace = 1) (hb : s.block? k.blk = some b) (a n : Nat) :
    s.localSource k a n = b.scratch.read a n := by
  unfold State.localSource
  rw [hb]
  exact if_pos hs

variable (hk : s.cmd? k.id = some k) (hmove : s.mayMove k row lo len = true)
include hk hmove

theorem exec_copyCommand_moves (hop : k.w.op = 1) :
    exec (.copyCommand k.id row lo len) s = .next (s.movePiece k row lo len) := by
  rw [exec_copyCommand, execCopyCommand, hk]
  exact if_pos (by simp [hop, hmove, opCopy])

theorem exec_fill_moves (hop : k.w.op = 2) : exec (.fill k.id row lo len) s = .next (s.movePiece k row lo len) := by
  rw [exec_fill, execFill, hk]
  exact if_pos (by simp [hop, hmove, opFill])

theorem exec_redcopy_moves (hop : k.w.op = 3) (hone : s.peerOf k.ctx (k.dstAt row lo) = none) :
    exec (.redcopy k.id row lo len) s = .next (s.movePiece k row lo len) := by
  rw [exec_redcopy, execRedcopy, hk]
  exact if_pos (by simp [hop, hmove, hone, opRedcopy])

end Move

/-! ### Retrieval commands (R262) -/

section Retrieval

variable {s : State} {k : Cmd} {num v : Nat} {r r2 : Region} {w : Lines}

/-- Lines that the pool can supply records for are put in place. -/
theorem State.hxLand_charged (hw : w.r.charge r = some r2) (stats : List Nat) : s.hxLand k r w stats =
    (s.modRegion r.launch r.num fun q => { q with recs := r2.recs, free := r2.free }).hxNext k stats := by
  rw [State.hxLand, hw]

variable (hk : s.cmd? k.id = some k) (hregs : k.regs = [(num, v)]) (hr : s.region? k.launch num = some r)
  (hw : w.r.charge r = some r2)
include hk hregs hr hw

section Ids

variable {fs : List FamImg} {t u : State} {ib cb : List Byte} (hfams : k.fams = some fs)
  (hids : s.engineRead k (k.w.src + 4 * k.next) 4 = .ok (ib, t)) (hmax : ∀ f ∈ fs, ofLe ib < f.maxid)
include hfams hids hmax

omit hk in
/-- The next id of a DELETE or an INSERT that every family has room for: its lines are put in place. -/
theorem State.hxOne_lands {insert : Bool} {codes : Option (List Nat)}
    (hcodes : (if insert then t.engineRead k (k.w.dst + 8 * k.next * (fs.map FamImg.tables).foldl (· + ·) 0)
      (8 * (fs.map FamImg.tables).foldl (· + ·) 0) else .ok ([], t)) = .ok (cb, u))
    (hc : codes = if insert then some ((List.range ((fs.map FamImg.tables).foldl (· + ·) 0)).map fun i =>
      ofLe ((cb.drop (8 * i)).take 4)) else none)
    (hres : Lines.reserve ⟨u, r, v⟩ fs (ofLe ib) codes = .ok w) :
    s.hxOne k insert = (u.modRegion r.launch r.num fun q => { q with recs := r2.recs, free := r2.free }).hxNext k [] := by
  have hid : ¬ (fs.any fun f => decide (f.maxid ≤ ofLe ib)) = true := by simpa using hmax
  subst hc
  rw [State.hxOne, hfams, hregs]
  dsimp only [List.head?_cons]
  rw [hr]
  dsimp only
  rw [hids]
  dsimp only
  rw [hcodes]
  dsimp only
  rw [if_neg hid, hres]
  exact State.hxLand_charged hw []

theorem exec_delete_next (hready : k.hxReady 0x11 = true) (hres : Lines.reserve ⟨t, r, v⟩ fs (ofLe ib) none = .ok w) :
    exec (.delete k.id) s = .next ((t.modRegion r.launch r.num fun q =>
      { q with recs := r2.recs, free := r2.free }).hxNext k []) := by
  rw [exec_delete, execDelete, hk]
  exact (if_pos hready).trans (congrArg Host.Outcome.next
    (State.hxOne_lands hregs hr hw hfams hids hmax (insert := false) (cb := []) rfl rfl hres))

theorem exec_insert_next (hready : k.hxReady 0x10 = true)
    (hcodes : t.engineRead k (k.w.dst + 8 * k.next * (fs.map FamImg.tables).foldl (· + ·) 0)
      (8 * (fs.map FamImg.tables).foldl (· + ·) 0) = .ok (cb, u))
    (hres : Lines.reserve ⟨u, r, v⟩ fs (ofLe ib) (some ((List.range ((fs.map FamImg.tables).foldl (· + ·) 0)).map fun i =>
      ofLe ((cb.drop (8 * i)).take 4))) = .ok w) :
    exec (.insert k.id) s = .next ((u.modRegion r.launch r.num fun q =>
      { q with recs := r2.recs, free := r2.free }).hxNext k []) := by
  rw [exec_insert, execInsert, hk]
  exact (if_pos hready).trans (congrArg Host.Outcome.next
    (State.hxOne_lands hregs hr hw hfams hids hmax (insert := true) hcodes rfl hres))

end Ids

theorem exec_merge_next {f : FamImg} {d ev : Nat} {why : List (Cause × Nat)} (hready : k.hxReady 0x12 = true)
    (hf : k.hf[0] = f) (hpoison : Lines.mergePoison ⟨s, r, v⟩ f = none)
    (hmerge : Lines.merge ⟨s, r, v⟩ f = some (w, d, why, ev)) :
    exec (.merge k.id) s = .next ((s.modRegion r.launch r.num fun q =>
      { q with recs := r2.recs, free := r2.free }).hxNext k [0, 0, 0, 0, 0, 0, ev, why.length, 0]) := by
  have hgo : ¬ (!k.hxReady opMerge) = true := by simp [opMerge, hready]
  rw [exec_merge, execMerge, hk]
  refine (if_neg hgo).trans ?_
  rw [hregs]
  dsimp only [List.head?_cons]
  rw [hr]
  dsimp only
  rw [hf, hpoison, hmerge]
  exact congrArg Host.Outcome.next (State.hxLand_charged hw _)

end Retrieval

end Sys2Proof.Machine
end

section
/-!
SUPPORT. The end of engine commands (R236, R239): what a command leaves when it is gone, its completion action, and the cause
of one that stops; O44 is assembled from these.
-/

namespace Sys2Proof.Machine

section Endings

variable {s : State} {k : Cmd}

/-! ### A command leaves (R236) -/

/-- What a launch that is being killed has left to end leaves the commands, the blocks and memory alone. -/
@[simp] theorem State.endKill_cmds (s : State) (launch : Nat) : (s.endKill launch).cmds = s.cmds := by
  unfold State.endKill
  split
  · rfl
  · split
    · rfl
    · split
      · rfl
      · next l _ _ e code _ _ =>
        have hpost : (((s.resetRegions launch).modLaunch launch fun l => { l with stopping := none }).post l.fn e).cmds
            = s.cmds := (State.sends_post _ l.fn e).cmds
        dsimp only
        split
        · rw [State.bindIcs]
          exact hpost
        · exact hpost

@[simp] theorem State.endKill_mem (s : State) (launch : Nat) : (s.endKill launch).mem = s.mem :=
  (s.spares_endKill (blk := 0) (launch := 0) launch).mem

/-- A launch that is not being killed has no kill to end. -/
theorem State.endKill_of_settled {launch : Nat} (h : ∀ l, s.launch? launch = some l → l.stopping = none) :
    s.endKill launch = s := by
  unfold State.endKill
  split
  · rfl
  · next l hl => rw [h l hl]

/-- The machine without a command and its registrations. -/
def State.withoutCmd (s : State) (k : Cmd) : State :=
  k.regs.foldl (fun (t : State) (r : Nat × Nat) => t.unregister k.launch r.1 r.2)
    { s with cmds := s.cmds.filter fun q => q.id != k.id }

theorem State.withoutCmd_frame (s : State) (k : Cmd) : s.withoutCmd k =
    { s with cmds := s.cmds.filter fun q => q.id != k.id, regions := (s.withoutCmd k).regions } := by
  have key : ∀ (rs : List (Nat × Nat)) (t : State),
      rs.foldl (fun (t : State) (r : Nat × Nat) => t.unregister k.launch r.1 r.2) t
        = { t with regions := (rs.foldl (fun (t : State) (r : Nat × Nat) => t.unregister k.launch r.1 r.2) t).regions } := by
    intro rs
    induction rs with
    | nil => exact fun _ => rfl
    | cons r rs ih => exact fun t => ih _
  exact key k.regs _

@[simp] theorem State.withoutCmd_mem (s : State) (k : Cmd) : (s.withoutCmd k).mem = s.mem := by rw [State.withoutCmd_frame]
@[simp] theorem State.withoutCmd_blocks (s : State) (k : Cmd) : (s.withoutCmd k).blocks = s.blocks := by rw [State.withoutCmd_frame]
@[simp] theorem State.withoutCmd_fw (s : State) (k : Cmd) : (s.withoutCmd k).fw = s.fw := by rw [State.withoutCmd_frame]
@[simp] theorem State.withoutCmd_cmds (s : State) (k : Cmd) : (s.withoutCmd k).cmds = s.cmds.filter fun q => q.id != k.id := by
  rw [State.withoutCmd_frame]

/-- engines[v] of the one registration falls by 1. -/
theorem State.withoutCmd_region {num v : Nat} {r : Region} (hk : k.regs = [(num, v)]) (hr : s.region? k.launch num = some r) :
    (s.withoutCmd k).region? k.launch num = some { r with engines := assocPut r.engines v (assocGet r.engines v - 1) } := by
  obtain ⟨hl, hn⟩ := State.region?_spec hr
  rw [State.withoutCmd, hk]
  exact State.region?_modRegion (s := { s with cmds := s.cmds.filter fun q => q.id != k.id }) hr hl hn

/-- EC after a command of a group has ended. -/
def Cmd.ecAfter (k : Cmd) (g : Group) : Nat := if k.w.track = true then g.ec - 1 else g.ec

/-- The machine without a command that has ended: a TRACK lowers its group's EC. -/
def State.ended (s : State) (k : Cmd) : State :=
  if k.w.track then (s.withoutCmd k).modGroup k.blk k.grp fun g => { g with ec := g.ec - 1 } else s.withoutCmd k

theorem State.ended_frame (s : State) (k : Cmd) : s.ended k =
    { s.withoutCmd k with blocks := (s.ended k).blocks } := by
  unfold State.ended
  split <;> rfl

@[simp] theorem State.ended_mem (s : State) (k : Cmd) : (s.ended k).mem = s.mem := by
  rw [State.ended_frame, State.withoutCmd_mem]

@[simp] theorem State.ended_fw (s : State) (k : Cmd) : (s.ended k).fw = s.fw := by
  rw [State.ended_frame, State.withoutCmd_fw]

theorem State.ended_cmds {q : Cmd} (h : q ∈ (s.ended k).cmds) : q.id ≠ k.id := by
  rw [State.ended_frame, State.withoutCmd_cmds] at h
  simpa using (List.mem_filter.1 h).2

theorem State.ended_region {num v : Nat} {r : Region} (hk : k.regs = [(num, v)]) (hr : s.region? k.launch num = some r) :
    (s.ended k).region? k.launch num = some { r with engines := assocPut r.engines v (assocGet r.engines v - 1) } := by
  rw [State.ended_frame]
  exact State.withoutCmd_region hk hr

theorem State.ended_group {g : Group} (h : s.group? k.blk k.grp = some g) :
    (s.ended k).group? k.blk k.grp = some { g with ec := k.ecAfter g } := by
  have hg : (s.withoutCmd k).group? k.blk k.grp = some g := by
    rw [State.group?, State.block?, State.withoutCmd_blocks]
    exact h
  unfold State.ended Cmd.ecAfter
  split
  · rw [State.group?_modGroup_same, hg]
    rfl
  · exact hg

/-- The block of a command keeps its scratchpad. -/
theorem State.ended_scratch {b : Block} (h : s.block? k.blk = some b) :
    ∃ b', (s.ended k).block? k.blk = some b' ∧ b'.scratch = b.scratch := by
  have hb : (s.withoutCmd k).block? k.blk = some b := by
    rw [State.block?, State.withoutCmd_blocks]
    exact h
  unfold State.ended
  split
  · rw [State.block?_modGroup, hb]
    exact ⟨_, rfl, by dsimp only; split <;> rfl⟩
  · exact ⟨b, hb, rfl⟩

theorem State.lowerEc_frame (s : State) (k : Cmd) :
    s.lowerEc k = { s.modGroup k.blk k.grp fun g => { g with ec := g.ec - 1 } with mem := (s.lowerEc k).mem } := by
  unfold State.lowerEc
  dsimp only
  split
  · rfl
  · split <;> rfl

/-- Whatever becomes of its launch, the command has left and its group's EC has fallen. -/
theorem State.endCmd_lists (s : State) (k : Cmd) :
    (s.endCmd k).cmds = (s.ended k).cmds ∧ (s.endCmd k).blocks = (s.ended k).blocks := by
  unfold State.endCmd State.ended
  rw [State.endKill_cmds, State.endKill_blocks]
  split
  · rw [State.lowerEc_frame]
    exact ⟨rfl, rfl⟩
  · exact ⟨rfl, rfl⟩

/-- A command whose block is not saved and whose launch is not being killed ends with no other effect. -/
theorem State.endCmd_eq_ended (hb : ∀ b, s.block? k.blk = some b → b.st ≠ .saved)
    (hl : ∀ l, s.launch? k.launch = some l → l.stopping = none) : s.endCmd k = s.ended k := by
  have hlower : (s.withoutCmd k).lowerEc k = (s.withoutCmd k).modGroup k.blk k.grp fun g => { g with ec := g.ec - 1 } := by
    have hblk : (s.withoutCmd k).block? k.blk = s.block? k.blk := by rw [State.block?, State.withoutCmd_blocks, State.block?]
    unfold State.lowerEc
    dsimp only
    rw [State.block?_modGroup, hblk]
    cases h : s.block? k.blk with
    | none => rfl
    | some b =>
      dsimp only [Option.map_some]
      refine if_neg ?_
      split <;> exact hb b h
  have hend : s.endCmd k = (s.ended k).endKill k.launch := by
    rw [State.ended, ← hlower]
    rfl
  rw [hend]
  refine State.endKill_of_settled fun l => ?_
  rw [State.launch?, State.ended_fw]
  exact hl l

end Endings

/-! ### Completion (R236) -/

/-- The store of a WORD completion to the scratchpad of the command's block. -/
def Cmd.storeWord (k : Cmd) (b : Block) : Block :=
  b.setScratch (barTouched (b.scratch.write k.w.ctarget (leBytes 8 (k.w.n 6))) k.w.ctarget 8)

section Completion

variable {s : State} {k : Cmd} (hk : s.cmd? k.id = some k) (hfin : k.finished = true)
include hk hfin

theorem exec_engineCommandCompletion_ends (hm : k.w.mode ≠ 3) :
    exec (.engineCommandCompletion k.id) s = .next (s.endCmd k) := by
  have hopen : ¬ (!k.finished) = true := by simp [hfin]
  rw [exec_engineCommandCompletion, execEngineCommandCompletion, hk]
  exact (if_neg hopen).trans (if_pos (.inl hm))

variable (hm : k.w.mode = 3) (hw : k.wordWait = false)
include hm hw

theorem exec_engineCommandCompletion_scratch (hs : k.w.wspace = 1) :
    exec (.engineCommandCompletion k.id) s = .next ((s.modBlock k.blk k.storeWord).endCmd k) := by
  have hopen : ¬ (!k.finished) = true := by simp [hfin]
  have hword : ¬ (k.w.mode ≠ modeWord ∨ k.wordWait = true) := by simp [hm, hw, modeWord]
  rw [exec_engineCommandCompletion, execEngineCommandCompletion, hk]
  exact (if_neg hopen).trans ((if_neg hword).trans (if_pos hs))

/-- The store of a WORD completion to local memory outside every region. -/
theorem exec_engineCommandCompletion_global {pa key : Nat} {u : State} (hs : k.w.wspace ≠ 1)
    (hreach : s.reach k k.w.ctarget 8 true = (.at pa key, u)) (hin : u.inRegion k.ctx k.w.ctarget pa = false) :
    exec (.engineCommandCompletion k.id) s = .next ((u.writeHome pa key (leBytes 8 (k.w.n 6))).endCmd k) := by
  have hopen : ¬ (!k.finished) = true := by simp [hfin]
  have hword : ¬ (k.w.mode ≠ modeWord ∨ k.wordWait = true) := by simp [hm, hw, modeWord]
  rw [exec_engineCommandCompletion, execEngineCommandCompletion, hk]
  refine (if_neg hopen).trans ((if_neg hword).trans ((if_neg hs).trans ?_))
  rw [hreach]
  exact if_neg (by simp [hin])

end Completion

/-! ### A stop (R239) -/

theorem inMask_and (m n : Mask) (l : Nat) : inMask (m &&& n) l = (inMask m l && inMask n l) := BitVec.getLsbD_and

theorem inMask_or (m n : Mask) (l : Nat) : inMask (m ||| n) l = (inMask m l || inMask n l) := BitVec.getLsbD_or

/-- The lanes of a mask that take causes. -/
theorem maskOf_mayTake (m : Mask) (g : Group) :
    (maskOf fun l => inMask m l && inMask g.live l && !(g.lane l).helper) = m &&& g.mayTake :=
  mask_ext fun l hl => by simp [inMask_and, Group.mayTake, hl, Bool.and_assoc]

theorem Group.live_and_mayTake (g : Group) : g.live &&& g.mayTake = g.mayTake :=
  mask_ext fun l hl => by simp [inMask_and, Group.mayTake, Group.live, hl, ← Bool.and_assoc]

theorem Cmd.takers_eq (k : Cmd) (g : Group) {free : Mask → Mask}
    (h : free = fun m => maskOf fun l => inMask m l && inMask g.live l && !(g.lane l).helper) :
    (if free k.threads ≠ 0 then free k.threads else free g.live) = k.takers g := by
  subst h
  simp only [maskOf_mayTake, Group.live_and_mayTake]
  rfl

/-- Only lanes that take causes take a command's. -/
theorem Cmd.mayTake_of_takers {k : Cmd} {g : Group} {l : Nat} (h : inMask (k.takers g) l = true) : inMask g.mayTake l = true := by
  unfold Cmd.takers at h
  split at h
  · exact (Bool.and_eq_true_iff.1 (inMask_and .. ▸ h)).2
  · exact h

/-- A cause that some lanes may take waits in their group, with those of its code from the same instruction. -/
theorem Group.mem_addAfter {g : Group} {a : After} {l : Nat} (hl : inMask a.lanes l = true) (htake : inMask g.mayTake l = true) :
    ∃ b ∈ (g.addAfter a).after, b.cause = a.cause ∧ inMask b.lanes l = true := by
  have hin : inMask (a.lanes &&& maskOf fun l => !(g.lane l).exited && !(g.lane l).helper) l = true := by
    have hlt := inMask_lt hl
    simp only [Group.mayTake, Group.live, inMask_maskOf, hlt, decide_true, Bool.true_and] at htake
    rw [inMask_and, hl, inMask_maskOf]
    simpa [hlt] using htake
  have hsome : a.lanes &&& (maskOf fun l => !(g.lane l).exited && !(g.lane l).helper) ≠ 0 := by
    intro h0
    rw [h0] at hin
    simp at hin
  unfold Group.addAfter
  dsimp only
  rw [if_neg hsome]
  cases hb : g.after.find? fun b => b.insn == a.insn && decide (b.cause = a.cause) with
  | none => exact ⟨_, List.mem_append_right _ (List.mem_singleton_self _), rfl, hin⟩
  | some b =>
    have hmem := List.mem_of_find?_eq_some hb
    have heq : b.insn = a.insn ∧ b.cause = a.cause := by simpa using List.find?_some hb
    refine ⟨_, List.mem_map_of_mem hmem, ?_⟩
    rw [if_pos heq]
    split
    · exact ⟨rfl, by rw [inMask_or, hin, Bool.true_or]⟩
    · exact ⟨heq.2, by rw [inMask_or, hin, Bool.true_or]⟩

theorem Group.addAfter_ec (g : Group) (a : After) : (g.addAfter a).ec = g.ec := by
  unfold Group.addAfter
  dsimp only
  split
  · rfl
  · split <;> rfl

section Stop

variable {s : State} {k : Cmd} {c : Cause} {va : Nat} {kind : W64} {g : Group} (hk : s.cmd? k.id = some k)
  (hfail : k.fail = some (c, va, kind)) (hg : s.group? k.blk k.grp = some g)
include hk hfail hg

/-- With no lane of its own group left to take it, the cause goes to the launch's completion status. -/
theorem exec_engineCommandStop_status (h : k.takers g = 0 ∨ g.epoch ≠ k.epoch) : exec (.engineCommandStop k.id) s =
    .next ((s.endCmd k).modLaunch k.launch fun l => { l with engErr := some (l.engErr.getD c.code) }) := by
  rw [exec_engineCommandStop, execEngineCommandStop, hk]
  dsimp only
  rw [hfail]
  dsimp only
  rw [hg]
  exact if_pos h

/-- The cause goes to lanes of the command's group. -/
theorem exec_engineCommandStop_lanes (h : ¬ (k.takers g = 0 ∨ g.epoch ≠ k.epoch)) : exec (.engineCommandStop k.id) s =
    .next ((s.endCmd k).fresh.modGroup k.blk k.grp fun g =>
      g.addAfter ⟨(s.endCmd k).nextId, c, k.takers g, true, BitVec.ofNat 64 va, kind, k.fpc⟩) := by
  rw [exec_engineCommandStop, execEngineCommandStop, hk]
  dsimp only
  rw [hfail]
  dsimp only
  rw [hg]
  exact if_neg h

end Stop

/-- The launch of a number after a change of it that keeps its number. -/
theorem State.launch?_modLaunch {s : State} {id : Nat} {l : Launch} (h : s.launch? id = some l) {f : Launch → Launch}
    (hf : (f l).id = id) : (s.modLaunch id f).launch? id = some (f l) := by
  have hl : l.id = id := by simpa using List.find?_some h
  have hfl : (if l.id = id then f l else l) = f l := if_pos hl
  refine (List.find?_map_of_first h (fun x hx => ?_) (by simp [hfl, hf])).trans (congrArg some hfl)
  rw [if_neg (by simpa using hx)]
  exact hx

/-! ### What each event leaves -/

section Events

variable {s : State} {k : Cmd} (hk : s.cmd? k.id = some k)
include hk

/-- A piece of a COPY or a REDCOPY from global memory to global memory. -/
theorem exec_globalPiece {row lo len pa spa key skey : Nat} {bs : List Byte} {s1 s2 t : State} (hs : k.w.sspace = 0)
    (hd : k.w.dspace = 0) (hmove : s.mayMove k row lo len = true)
    (hsrc : s.reach k (k.srcAt row lo) len false = (.at spa skey, s1))
    (hread : s.engineRead k (k.srcAt row lo) len = .ok (bs, s2))
    (hdst : (s2.modCmd k.id fun q => q.take row lo len).reach k (k.dstAt row lo) len true = (.at pa key, t))
    (ht : targetOf pa = .mem pa) (hreg : t.regionAt k.ctx (k.dstAt row lo) = none) (hlen : bs.length = len) :
    (k.w.op = 1 → exec (.copyCommand k.id row lo len) s = .next (t.writeHome pa key bs))
      ∧ (k.w.op = 3 → s.peerOf k.ctx (k.dstAt row lo) = none → t.mem.poisoned pa len = false →
        exec (.redcopy k.id row lo len) s = .next
          (t.writeHome pa key (redBytesInto k.w.rfmt k.w.rop (t.mem.read (t.keySerial key) pa len) bs))) := by
  subst hlen
  refine ⟨fun hop => ?_, fun hop hone hp => ?_⟩
  · rw [exec_copyCommand_moves hk hmove hop, State.movePiece_global (by simp [hop, opFill]) hs hsrc hread,
      State.enginePut_global hd, State.engineStore_stores hdst ht hreg (by simp [hop, opRedcopy])]
  · rw [exec_redcopy_moves hk hmove hop hone, State.movePiece_global (by simp [hop, opFill]) hs hsrc hread,
      State.enginePut_global hd, State.engineStore_reduces hdst ht hreg hop hp]

theorem exec_fill_stores {row lo len pa key : Nat} {t : State} (hop : k.w.op = 2) (hmove : s.mayMove k row lo len = true)
    (hd : k.w.dspace = 0)
    (hdst : (s.modCmd k.id fun q => q.take row lo len).reach k (k.dstAt row lo) len true = (.at pa key, t))
    (ht : targetOf pa = .mem pa) (hreg : t.regionAt k.ctx (k.dstAt row lo) = none) :
    exec (.fill k.id row lo len) s = .next (t.writeHome pa key (k.fillBytes lo len)) := by
  have hlen : (k.fillBytes lo len).length = len := by simp [Cmd.fillBytes]
  rw [exec_fill_moves hk hmove hop, State.movePiece_fill hop, State.enginePut_global hd,
    State.engineStore_stores (by rw [hlen]; exact hdst) ht hreg (by simp [hop, opRedcopy])]

/-- A piece that goes from the scratchpad to a local buffer is on its way. -/
theorem State.movePiece_flies {row lo len : Nat} {b : Block} (hop : k.w.op ≠ opFill) (hs : k.w.sspace = 1)
    (hd : k.w.dspace ≠ 0) (hb : s.block? k.blk = some b) :
    ∃ q ∈ (s.movePiece k row lo len).cmds, q.id = k.id
      ∧ q.flight = k.flight ++ [(s.nextId, row, lo, len, b.scratch.read (k.srcAt row lo) len)]
      ∧ (s.movePiece k row lo len).mem = s.mem := by
  have hlen : (b.scratch.read (k.srcAt row lo) len).length = len := by simp [Memory.read]
  have htaken : (s.modCmd k.id fun q => q.take row lo len).cmd? k.id = some (k.take row lo len) := State.cmd?_modCmd hk rfl
  rw [State.movePiece_local hop (by simp [hs]), State.localSource_scratch hs hb, State.enginePut_local hd, hlen]
  exact ⟨_, List.mem_of_find?_eq_some (State.cmd?_modCmd (s := (s.modCmd k.id fun q => q.take row lo len).fresh) htaken rfl),
    rfl, rfl, rfl⟩

omit hk in
/-- A command's completion action leaves the machine without it, its registration and its part of EC. -/
theorem State.endCmd_spec (hb : ∀ b, s.block? k.blk = some b → b.st ≠ .saved)
    (hl : ∀ l, s.launch? k.launch = some l → l.stopping = none) :
    (∀ q ∈ (s.endCmd k).cmds, q.id ≠ k.id) ∧ (s.endCmd k).mem = s.mem
      ∧ (∀ num v r, k.regs = [(num, v)] → s.region? k.launch num = some r → (s.endCmd k).region? k.launch num
        = some { r with engines := assocPut r.engines v (assocGet r.engines v - 1) }) := by
  rw [State.endCmd_eq_ended hb hl]
  exact ⟨fun q => State.ended_cmds, State.ended_mem s k, fun num v r => State.ended_region⟩

/-- Whatever becomes of its launch, a WORD completion in the scratchpad is stored there. -/
theorem exec_engineCommandCompletion_word {b : Block} (hfin : k.finished = true) (hm : k.w.mode = 3) (hs : k.w.wspace = 1)
    (hw : k.wordWait = false) (hb : s.block? k.blk = some b) :
    ∃ t b', exec (.engineCommandCompletion k.id) s = .next t ∧ (∀ q ∈ t.cmds, q.id ≠ k.id) ∧ t.block? k.blk = some b'
      ∧ b'.scratch = barTouched (b.scratch.write k.w.ctarget (leBytes 8 (k.w.n 6))) k.w.ctarget 8 := by
  have hstored : (s.modBlock k.blk k.storeWord).block? k.blk = some (k.storeWord b) := by
    rw [State.block?_modBlock s k.blk k.blk k.storeWord fun _ => rfl, hb, Option.map_some, if_pos (State.block?_id hb)]
  obtain ⟨hcmds, hblocks⟩ := State.endCmd_lists (s.modBlock k.blk k.storeWord) k
  obtain ⟨b', hb', hscratch⟩ := State.ended_scratch hstored
  refine ⟨_, b', exec_engineCommandCompletion_scratch hk hfin hm hw hs, fun q hq => ?_, ?_, hscratch⟩
  · exact State.ended_cmds (hcmds ▸ hq)
  · rw [State.block?, hblocks]
    exact hb'

/-- A stop leaves the machine without the command, and its cause with lanes of its group. -/
theorem exec_engineCommandStop_spec {c : Cause} {va : Nat} {kind : W64} {g : Group} (hfail : k.fail = some (c, va, kind))
    (hg : s.group? k.blk k.grp = some g) (hb : ∀ b, s.block? k.blk = some b → b.st ≠ .saved)
    (hl : ∀ l, s.launch? k.launch = some l → l.stopping = none) :
    ∃ t, exec (.engineCommandStop k.id) s = .next t ∧ t.cmds = (s.endCmd k).cmds ∧ t.mem = (s.endCmd k).mem
      ∧ t.regions = (s.endCmd k).regions
      ∧ (∃ g', t.group? k.blk k.grp = some g' ∧ g'.ec = k.ecAfter g
        ∧ (k.takers g ≠ 0 → g.epoch = k.epoch → ∀ n, n < 32 → inMask (k.takers g) n = true →
          ∃ a ∈ g'.after, a.cause = c ∧ inMask a.lanes n = true))
      ∧ (k.takers g = 0 ∨ g.epoch ≠ k.epoch → ∀ l, s.launch? k.launch = some l → l.engErr = none →
        ∃ l', t.launch? k.launch = some l' ∧ l'.engErr = some c.code) := by
  have hended := State.endCmd_eq_ended hb hl
  have hgroup := State.ended_group hg
  by_cases h : k.takers g = 0 ∨ g.epoch ≠ k.epoch
  case pos =>
    refine ⟨_, exec_engineCommandStop_status hk hfail hg h, rfl, rfl, rfl, ⟨_, hended ▸ hgroup, rfl, fun h0 he => ?_⟩,
      fun _ l hlaunch hnone => ?_⟩
    · exact absurd h (not_or.2 ⟨h0, not_not.2 he⟩)
    · have hlaunch' : (s.endCmd k).launch? k.launch = some l := by
        rw [hended, State.launch?, State.ended_fw]
        exact hlaunch
      exact ⟨_, State.launch?_modLaunch hlaunch' (by simpa using List.find?_some hlaunch), by simp [hnone]⟩
  case neg =>
    have hfresh : (s.endCmd k).fresh.group? k.blk k.grp = some { g with ec := k.ecAfter g } := hended ▸ hgroup
    refine ⟨_, exec_engineCommandStop_lanes hk hfail hg h, rfl, rfl, rfl, ⟨_,
      (State.group?_modGroup_same ..).trans (congrArg (Option.map _) hfresh), Group.addAfter_ec _ _, fun _ _ n _ hn => ?_⟩,
      fun h' => absurd h' h⟩
    exact Group.mem_addAfter hn (Cmd.mayTake_of_takers hn)

end Events

/-- Settles O44: the start, the pieces, the ids, the completion actions and the stop of an engine command. -/
theorem engineCommandsRun : Obligations.EngineCommandsRun := by
  refine fun s k hk => ⟨?start, ?pieces, ?fill, ?flies, ?delete, ?insert, ?merge, ?ends, ?scratch, ?word, ?stop⟩
  case start =>
    intro hnew hearlier
    obtain ⟨t, hexec, hmaps, hcmd, -, hdemand⟩ := exec_engineCommandStart_reaches hk hnew hearlier
    refine ⟨t, _, hexec, List.mem_of_find?_eq_some hcmd, rfl, rfl, rfl, hmaps.mem, fun h => ?_, fun hq hd => ?_⟩
    · have hnone : (if k.queue ≠ 5 ∧ k.w.dspace = 0 then s.peersOf k k.todo else []) = [] := by
        split
        next hpeers => exact (h.resolve_left hpeers.1).resolve_left (not_not.2 hpeers.2)
        next => rfl
      rw [hnone]
      simp
    · have hpeers : (if k.queue ≠ 5 ∧ k.w.dspace = 0 then s.peersOf k k.todo else []) = s.peersOf k k.todo :=
        if_pos ⟨hq, hd⟩
      rw [hpeers] at hdemand ⊢
      exact ⟨rfl, hdemand⟩
  case pieces =>
    intro row lo len pa spa key skey bs s1 s2 t hs hd hmove va src hsrc hread hdst ht hreg hlen put
    obtain ⟨hcopy, hred⟩ := exec_globalPiece hk hs hd hmove hsrc hread hdst ht hreg hlen
    refine ⟨fun hop => ⟨_, hcopy hop, ?_⟩, fun hop hone hp => ⟨_, hred hop hone hp, ?_⟩⟩
    · rw [State.writeHome_local ht]
    · rw [State.writeHome_local ht]
  case fill =>
    intro row lo len pa key t hop hmove hd va u hdst ht hreg hmem hregions
    have hreg' : t.regionAt k.ctx va = none := by
      rw [State.regionAt, hregions]
      exact hreg
    refine ⟨_, exec_fill_stores hk hop hmove hd hdst ht hreg', ?_⟩
    rw [State.writeHome_local ht, hmem, Cmd.fillBytes, List.length_map, List.length_range]
  case flies =>
    intro row lo len b hmove hs hd hb piece fetches
    refine ⟨fun hop => ?_, fun hop hone => ?_⟩
    · obtain ⟨q, hq, hid, hflight, hmem⟩ := State.movePiece_flies (row := row) (lo := lo) (len := len) hk
        (by simp [hop, opFill]) hs hd hb
      exact ⟨_, q, exec_copyCommand_moves hk hmove hop, hq, hid, hflight, hmem⟩
    · obtain ⟨q, hq, hid, hflight, hmem⟩ := State.movePiece_flies (row := row) (lo := lo) (len := len) hk
        (by simp [hop, opFill]) hs hd hb
      exact ⟨_, q, exec_redcopy_moves hk hmove hop hone, hq, hid, hflight, hmem⟩
  case delete =>
    exact fun fs num v r r2 t ib w hready hfams hregs hr hids hmax hres hw =>
      exec_delete_next hk hregs hr hw hfams hids hmax hready hres
  case insert =>
    exact fun fs num v r r2 t u ib cb w hready hfams hregs hr hids hcodes hmax hres hw =>
      exec_insert_next hk hregs hr hw hfams hids hmax hready hcodes hres
  case merge =>
    exact fun f num v d ev r r2 w why hready hf hregs hr hpoison hmerge hw =>
      exec_merge_next hk hregs hr hw hready hf hpoison hmerge
  case ends =>
    intro hfin hm hb hl
    obtain ⟨hcmds, hmem, hregion⟩ := State.endCmd_spec hb hl
    refine ⟨_, exec_engineCommandCompletion_ends hk hfin hm, hcmds, hmem, hregion, fun b g hblk hg => ?_⟩
    have hgroup : s.group? k.blk k.grp = some g := by rw [State.group?, hblk]; exact hg
    rw [State.endCmd_eq_ended hb hl]
    exact ⟨_, State.ended_group hgroup, rfl⟩
  case scratch =>
    exact fun hfin hm hs hw b hb => exec_engineCommandCompletion_word hk hfin hm hs hw hb
  case word =>
    intro pa key u hfin hm hs hw hreach ht hin hb hl
    have hu := State.eq_of_reach hreach
    have hended : (u.writeHome pa key (leBytes 8 (k.w.n 6))).endCmd k = (u.writeHome pa key (leBytes 8 (k.w.n 6))).ended k := by
      rw [State.writeHome_local ht]
      refine State.endCmd_eq_ended ?_ ?_
      · rw [hu]
        exact hb
      · rw [hu]
        exact hl
    refine ⟨_, exec_engineCommandCompletion_global hk hfin hm hw hs hreach hin, fun q hq => ?_, ?_⟩
    · rw [hended] at hq
      exact State.ended_cmds hq
    · rw [hended, State.ended_mem, State.writeHome_local ht]
      rfl
  case stop =>
    intro c va kind g hfail hg hb hl free take
    obtain ⟨hcmds, hmem, hregion⟩ := State.endCmd_spec hb hl
    obtain ⟨t, hexec, htcmds, htmem, htregions, hgroup, hstatus⟩ := exec_engineCommandStop_spec hk hfail hg hb hl
    have htake : take = k.takers g := Cmd.takers_eq k g rfl
    rw [htake]
    refine ⟨t, hexec, htcmds ▸ hcmds, htmem.trans hmem, fun num v r hregs hr => ?_, hgroup, hstatus⟩
    rw [State.region?, htregions]
    exact hregion num v r hregs hr

end Sys2Proof.Machine
end

section
/-!
SUPPORT. The values right after reset, and those of a group as its block is admitted (R317, R352, R355, R365); O59.
-/

namespace Sys2Proof.Machine

/-- A table whose entries are all the default reads as the default at every place. -/
theorem getD_replicate {α : Type} (n i : Nat) (a : α) : (Vector.replicate n a)[i]?.getD a = a := by
  by_cases h : i < n <;> simp [h]

@[simp] theorem State.reset_port (p : Nat) : State.reset.port p = Port.zero := getD_replicate 16 p _

/-- PF0 is in RUN, every VF CONFIG_UNLOCKED (R355). -/
theorem State.reset_fn (f : Nat) : State.reset.fn f = { Fn.zero with tdisp := if f = 0 then 2 else 0 } := by
  by_cases h0 : f = 0
  · subst h0
    rfl
  · have hset : State.reset.fn f = (Vector.replicate 65 Fn.zero)[f]?.getD Fn.zero :=
      congrArg (·.getD Fn.zero) (Vector.getElem?_set_ne (by decide) (Ne.symm h0))
    rw [hset, getD_replicate, if_neg h0]
    rfl

theorem State.reset_core {k : Nat} (h : k < 144) : State.reset.cores[k]?.getD CoreSt.zero = CoreSt.first k := by
  simp [State.reset, h]

theorem Group.fresh_sreg (entry : W32) (slot quad now r : Nat) : (Group.fresh entry slot quad now).sreg r = 0 :=
  getD_replicate 64 r _

theorem Group.fresh_preg (entry : W32) (slot quad now r : Nat) : (Group.fresh entry slot quad now).preg r = 0 ∨ r = 0 := by
  by_cases h : r = 0
  · exact .inr h
  · exact .inl ((if_neg h).trans (getD_replicate 8 r _))

theorem Group.fresh_lane (entry : W32) (slot quad now : Nat) {l : Nat} (h : l < 32) :
    (Group.fresh entry slot quad now).lane l = { Lane.zero with pc := entry, tag := tagOf slot l 0 } := by
  unfold Group.fresh Group.lane
  rw [tab_getElem?, if_pos h]
  rfl

@[simp] theorem ringOn_zero : ringOn 0 = false := by decide

theorem State.reset_sparestat : State.reset.sparestat = 0x924 := by decide

end Sys2Proof.Machine

namespace Sys2Proof
open Machine

/-- Settles O59: reset's values field by field, and the lanes of a group as it is admitted. -/
theorem resetLeavesTheMachineEmpty : Obligations.ResetLeavesTheMachineEmpty := by
  refine ⟨⟨by decide, by decide, fun k h => by cases h⟩, rfl, rfl, rfl, rfl, rfl, rfl, rfl, rfl, rfl, rfl, fun i hi => ?incumbents,
    fun f _ => ?functions, fun p _ => ?ports, fun k hk => ?cores, State.reset_sparestat, fun entry slot quad now => ?group⟩
  case incumbents => exact ⟨Incumbent.zero, by simp [State.reset, hi], rfl, rfl⟩
  case functions =>
    rw [State.reset_fn]
    exact ⟨ringOn_zero, ringOn_zero, rfl, rfl, rfl, rfl, fun h => if_neg (Nat.ne_of_gt h)⟩
  case ports =>
    rw [State.reset_port]
    rfl
  case cores =>
    rw [State.coreOpen, State.reset_core hk]
    exact ⟨rfl, rfl⟩
  case group =>
    refine ⟨Group.fresh_sreg entry slot quad now, Group.fresh_preg entry slot quad now, rfl, rfl, rfl, rfl, rfl, rfl, rfl, rfl, rfl,
      rfl, rfl, rfl, rfl, rfl, rfl, fun l hl => ?_⟩
    rw [Group.fresh_lane entry slot quad now hl]
    exact ⟨rfl, rfl, rfl, rfl, rfl, rfl, rfl, fun r => getD_replicate 128 r _⟩

end Sys2Proof
end

section
/-!
SUPPORT. Every instruction and event answers a next state (log 3); O57.
-/

namespace Sys2Proof.Machine

theorem State.issue_next (s : State) (f : Ctx → State → Res) : ∃ t, s.issue f = .next t := s.issueN_next 1 _ f

/-- A command is answered, gone on with, or left in its ring (R354). -/
theorem State.serve_next (s : State) (c : HostCmd) (op : Nat) (w : Issuer) (f : State → State) :
    ∃ t, s.serve c op w f = .next t := by
  unfold State.serve
  dsimp only
  repeat' split
  all_goals exact ⟨_, rfl⟩

/-- Every row of the opcode table answers a next state: an instruction word by the course that all of them share, an event because
each branch of its meaning does. -/
theorem exec_next (i : Instr) (s : State) : ∃ t, exec i s = .next t := by
  unfold exec
  cases i <;> dsimp only
  -- Instruction words.
  case nop | bra | brc | bri | call | calli | ret | setmt | getmt | demote | exit | yield | sadd | ssub | smul |
    sdiv | slog | ssh | smnx | scmp | ssel | smovk | srdl | sbit | sget | viadd | visub | vimul | vimad | vidiv |
    vlog | vsh | vmnx | vbit | vbfx | vbfi | vicmp | vsel | vmov | vmovk | vlea | viadd64 | vimul64 | viext | vpack |
    vfadd | vfsub | vfmul | vfma | vfmnx | vfcmp | vfclass | vfdiv | vfsqrt | vfapx | vfscl | vfrnd | vcvtf |
    vcvtfi | vcvtif | vqnt | vdqnt | vshfl | vvote | vprfx | vred | vmatch | vbcst | fenceg | ld | st | lds | sts |
    ldu | stu | lda | sta | ldds | pref | cctl | ldk | stk | atom | cas | red | atoms | cass | reds | barinit |
    bararr | barexp | bartst | fence | gangset | acommit | adiscard | thget | vnst | hcode | hstat | bndset |
    bndget | icupd | icrd | tqstat | qstat | trap | rft | csrr | csrw | bkpt =>
    exact State.issue_next s _
  -- Instruction words that a SHIELD window may forbid, and those of several words.
  case brpk | sleep | waitc | barwait | mma | mmas | accld | accz | tld | tst | thset | vnld | vnpub | vnfloor |
    vnwait | vnstat | vnopen | hfset | hprobe | hins | hdel | hrehash | hmerge | spawn | shield | push =>
    exact State.issueN_next s _ _ _
  -- Issue cycles and groups.
  case issueCycle | laneOverdue | meetingRelease | meetingDeadlock | repacking | sleepExpiry | activeSetSwap |
    activeIdleTimeout | resultLand =>
    dsimp only [execIssueCycle, execLaneOverdue, execMeetingRelease, execMeetingDeadlock, execRepacking,
      execSleepExpiry, execActiveSetSwap, execActiveIdleTimeout, execResultLand]
    repeat' split
    all_goals exact ⟨_, rfl⟩
  -- Blocks, launches and handlers.
  case queueAging | blockAdmission | preemptionForRoom | idleSave | blockSave | saveTimeout | blockRestoration |
    blockCompletion | launchCompletion | launchKill | trapEntry | rftRejoin =>
    dsimp only [execQueueAging, execBlockAdmission, execPreemptionForRoom, execIdleSave, execBlockSave,
      execSaveTimeout, execBlockRestoration, execBlockCompletion, execLaunchCompletion, execLaunchKill,
      execTrapEntry, execRftRejoin]
    repeat' split
    all_goals exact ⟨_, rfl⟩
  -- Requests and their replies.
  case sifterAccept | sifterEntrySend | sifterWindowExpiry | homeRequest | loadSectorReply | storeAcknowledgement |
    bytesLand | barwaitResume | mirrorStoreLand =>
    dsimp only [execSifterAccept, execSifterEntrySend, execSifterWindowExpiry, execHomeRequest, execLoadSectorReply,
      execStoreAcknowledgement, execBytesLand, execBarwaitResume, execMirrorStoreLand]
    repeat' split
    all_goals exact ⟨_, rfl⟩
  -- Versions, matrix operations and probes.
  case vnstApply | vnldHome | vnldWake | vnldRetry | publicationPoint | reclamation | poolRetry | registration |
    matrixAccept | gangRendezvous | gangMemberExited | matrixRetire | probeVersionWake =>
    dsimp only [execVnstApply, execVnldHome, execVnldWake, execVnldRetry, execPublicationPoint, execReclamation,
      execPoolRetry, execRegistration, execMatrixAccept, execGangRendezvous, execGangMemberExited, execMatrixRetire,
      execProbeVersionWake]
    repeat' split
    all_goals exact ⟨_, rfl⟩
  -- Engine commands.
  case engineCommandStart | copyCommand | fill | redcopy | insert | delete | merge | engineCommandCompletion |
    engineCommandStop =>
    dsimp only [execEngineCommandStart, execCopyCommand, execFill, execRedcopy, execInsert, execDelete, execMerge,
      execEngineCommandCompletion, execEngineCommandStop]
    repeat' split
    all_goals exact ⟨_, rfl⟩
  -- Task queues.
  case offerAtRoot | copyUpdate | recordPruning | threadCancellation | recordWaitExpiry | taskGroupFormation |
    taskGroupStart | ringReadback =>
    dsimp only [execOfferAtRoot, execCopyUpdate, execRecordPruning, execThreadCancellation, execRecordWaitExpiry,
      execTaskGroupFormation, execTaskGroupStart, execRingReadback]
    repeat' split
    all_goals exact ⟨_, rfl⟩
  -- Beats and packets.
  case beatReceive | read | write | atomPacket | rdata | adata | doneReply | refused | demand | grant | mirror | oack =>
    dsimp only [execBeatReceive, execRead, execWrite, execAtomPacket, execRdata, execAdata, execDoneReply,
      execRefused, execDemand, execGrant, execMirror, execOack]
    repeat' split
    all_goals exact ⟨_, rfl⟩
  -- Links.
  case ack | nak | training | key | ackTimer | replayTimeout | origReplayTimeout | laneFailure | trainingComplete |
    retrainingTimeout | peerLossTimeout | fencePeerTimeout =>
    dsimp only [execAck, execNak, execTraining, execKey, execAckTimer, execReplayTimeout, execOrigReplayTimeout,
      execLaneFailure, execTrainingComplete, execRetrainingTimeout, execPeerLossTimeout, execFencePeerTimeout]
    repeat' split
    all_goals exact ⟨_, rfl⟩
  -- Host registers.
  case sqtail | cqhead | registerWrite =>
    dsimp only [execSqtail, execCqhead, execRegisterWrite]
    repeat' split
    all_goals exact ⟨_, rfl⟩
  -- The device.
  case lockInterface | startInterface | stopInterface | interfaceError | spdmRequest | energyWindowStart |
    thermalEmergency | thermalRecovery | powerUp | powerFail | coreLost | uncorrectableError | correctedError |
    memoryLaneFailure | wearThreshold =>
    dsimp only [execLockInterface, execStartInterface, execStopInterface, execInterfaceError, execSpdmRequest,
      execEnergyWindowStart, execThermalEmergency, execThermalRecovery, execPowerUp, execPowerFail, execCoreLost,
      execUncorrectableError, execCorrectedError, execMemoryLaneFailure, execWearThreshold]
    repeat' split
    all_goals exact ⟨_, rfl⟩
  -- Host commands: served by way of State.serve, or gone on with as a job.
  case identify | ctxCreate | ctxDestroy | tlbInval | copy | launch | preempt | faultResolve | energySet | keyAlloc |
    keyFree | linkKey | fabricWindow | linkQuery | peerLost | maint | checkpoint | restore =>
    dsimp only [execIdentify, execCtxCreate, execCtxDestroy, execTlbInval, execCopy, execLaunch, execPreempt,
      execFaultResolve, execEnergySet, execKeyAlloc, execKeyFree, execLinkKey, execFabricWindow, execLinkQuery,
      execPeerLost, execMaint, execCheckpoint, execRestore]
    repeat' split
    all_goals simp [State.serve_next]

/-- The word that a lane set fetches runs, or the fetch itself leads on; with no lane set chosen an event comes. -/
theorem step_next (s : State) : ∃ t, step s = .next t := by
  unfold step
  split
  case h_1 =>
    split
    next i t _ => exact exec_next i t
    next t _ => exact ⟨t, rfl⟩
  case h_2 =>
    split
    · exact exec_next _ _
    · exact exec_next _ _
    · exact exec_next _ _

end Sys2Proof.Machine

namespace Sys2Proof
open Machine

/-- Settles O57: the meaning of whatever comes next answers a state. -/
theorem everyStepAnswersANextState : Obligations.EveryStepAnswersANextState := step_next

end Sys2Proof
end

section
/-!
SUPPORT. Taking a trap (R304 to R310): what the handler finds when its group enters it, and what comes of a cause that no
handler takes; O31 and O32.
-/

namespace Sys2Proof.Machine

/-! ### Entering the handler (R306) -/

/-- A lane at the handler's first word, with what it is to come back to in its shadow (R306). -/
def Lane.enter (x : Lane) (tvec : W32) : Lane :=
  { x with smt := x.mt, mt := noneWord, wins := [], shield := 0, yielded := false, inTrap := true, pc := tvec, hdr := none, st := .run }

/-- The registers of a group that enters its handler (R306). -/
def Group.trapped (g : Group) (cause tmask tepc tstat : W64) (fault : Option (W64 × W64 × W32)) : Group :=
  let g := { g with cause := cause, tmask := tmask, tepc := tepc, tstat := tstat, trapChk := true }
  match fault with
  | none => g
  | some f => { g with faddr := f.1, fkind := f.2.1, fpc := f.2.2.setWidth 64 }

section Trapped
variable (g : Group) (cause tmask tepc tstat : W64) (fault : Option (W64 × W64 × W32))

theorem Group.trapped_eq : g.trapped cause tmask tepc tstat fault =
    { g with
      cause := cause, tmask := tmask, tepc := tepc, tstat := tstat, trapChk := true
      faddr := (fault.map (·.1)).getD g.faddr
      fkind := (fault.map (·.2.1)).getD g.fkind
      fpc := (fault.map (·.2.2.setWidth 64)).getD g.fpc } := by
  cases fault <;> rfl

@[simp] theorem Group.trapped_tvec : (g.trapped cause tmask tepc tstat fault).tvec = g.tvec := by
  rw [Group.trapped_eq]

@[simp] theorem Group.lane_trapped (l : Nat) : (g.trapped cause tmask tepc tstat fault).lane l = g.lane l := by
  rw [Group.trapped_eq]
  rfl

end Trapped

section Enter
variable (g : Group) (k : Cause) (m : Mask) (r : Raise)

/-- What R306 puts into the registers, under one name. -/
def Group.trappedBy : Group :=
  g.trapped (causeWord k r.arg) (m.setWidth 64) (BitVec.ofNat 64 (r.tepc.toNat + r.hdr.toNat * 2 ^ 32))
    (if r.after then 3#64 else 1#64) r.fault

theorem Group.enter_eq : g.enter k m r = (g.trappedBy k m r).modLanes m fun _ x => x.enter ((g.trappedBy k m r).tvec.extractLsb' 0 32) := rfl

theorem Group.lane_enter {l : Nat} (hl : l < 32) :
    (g.enter k m r).lane l = if inMask m l then (g.lane l).enter (g.tvec.extractLsb' 0 32) else g.lane l := by
  rw [Group.enter_eq, Group.lane_modLanes _ m _ l hl, Group.trappedBy, Group.lane_trapped, Group.trapped_tvec]

/-- Only the lanes differ from those registers. -/
theorem Group.enter_frame : g.enter k m r = { g.trappedBy k m r with lanes := (g.enter k m r).lanes } := rfl

@[simp] theorem Group.enter_cause : (g.enter k m r).cause = causeWord k r.arg := by
  rw [Group.enter_frame, Group.trappedBy, Group.trapped_eq]
@[simp] theorem Group.enter_tmask : (g.enter k m r).tmask = m.setWidth 64 := by
  rw [Group.enter_frame, Group.trappedBy, Group.trapped_eq]
@[simp] theorem Group.enter_tepc : (g.enter k m r).tepc = BitVec.ofNat 64 (r.tepc.toNat + r.hdr.toNat * 2 ^ 32) := by
  rw [Group.enter_frame, Group.trappedBy, Group.trapped_eq]
@[simp] theorem Group.enter_tstat : (g.enter k m r).tstat = if r.after then 3#64 else 1#64 := by
  rw [Group.enter_frame, Group.trappedBy, Group.trapped_eq]
@[simp] theorem Group.enter_faddr : (g.enter k m r).faddr = (r.fault.map (·.1)).getD g.faddr := by
  rw [Group.enter_frame, Group.trappedBy, Group.trapped_eq]
@[simp] theorem Group.enter_fkind : (g.enter k m r).fkind = (r.fault.map (·.2.1)).getD g.fkind := by
  rw [Group.enter_frame, Group.trappedBy, Group.trapped_eq]
@[simp] theorem Group.enter_fpc : (g.enter k m r).fpc = (r.fault.map (·.2.2.setWidth 64)).getD g.fpc := by
  rw [Group.enter_frame, Group.trappedBy, Group.trapped_eq]
@[simp] theorem Group.enter_tvec : (g.enter k m r).tvec = g.tvec := by rw [Group.enter_frame, Group.trappedBy, Group.trapped_eq]
@[simp] theorem Group.enter_tscratch : (g.enter k m r).tscratch = g.tscratch := by rw [Group.enter_frame, Group.trappedBy, Group.trapped_eq]
@[simp] theorem Group.enter_fstat : (g.enter k m r).fstat = g.fstat := by rw [Group.enter_frame, Group.trappedBy, Group.trapped_eq]
@[simp] theorem Group.enter_p : (g.enter k m r).p = g.p := by rw [Group.enter_frame, Group.trappedBy, Group.trapped_eq]
@[simp] theorem Group.enter_s : (g.enter k m r).s = g.s := by rw [Group.enter_frame, Group.trappedBy, Group.trapped_eq]
@[simp] theorem Group.enter_lc : (g.enter k m r).lc = g.lc := by rw [Group.enter_frame, Group.trappedBy, Group.trapped_eq]
@[simp] theorem Group.enter_sc : (g.enter k m r).sc = g.sc := by rw [Group.enter_frame, Group.trappedBy, Group.trapped_eq]
@[simp] theorem Group.enter_mc : (g.enter k m r).mc = g.mc := by rw [Group.enter_frame, Group.trappedBy, Group.trapped_eq]
@[simp] theorem Group.enter_ec : (g.enter k m r).ec = g.ec := by rw [Group.enter_frame, Group.trappedBy, Group.trapped_eq]

end Enter

theorem pickCause_one {k : Cause} {m : Mask} (h : m ≠ 0#32) : pickCause [(k, m)] = some (k, m) := by
  simp [pickCause, leastBy, h]

section Trap

variable {s : State} {blk grp : Nat} {b : Block} {g : Group} {l : Launch} {r : Raise} {k : Cause} {m : Mask}
  (hb : s.block? blk = some b) (hp : pickCause r.causes = some (k, m))

include hb in
theorem State.group?_setBlock_setGroup (hg : b.groups[grp]? = some g) (g' : Group) :
    (s.setBlock (b.setGroup grp g')).group? blk grp = some g' := by
  obtain ⟨hlt, -⟩ := List.getElem?_eq_some_iff.1 hg
  have hid := State.block?_id hb
  subst hid
  rw [State.group?, State.block?_setBlock_same s (b' := b.setGroup grp g') hb rfl, Option.bind_some]
  simp [Block.setGroup, hlt]

include hb hp

/-- A trap outside the handler of a group whose TVEC passes its checks. -/
theorem State.trap_enters (hl : s.launch? b.launch = some l) (hin : (b.group grp).inTrap = false)
    (hv : (b.group grp).tvec.extractLsb' 0 32 ≠ noneWord) (hok : l.offsetOk ((b.group grp).tvec.extractLsb' 0 32).toNat = true) :
    s.trap blk grp r = s.setBlock (b.setGroup grp ((b.group grp).enter k m r)) := by
  rw [State.trap, hb, hp]
  dsimp only
  rw [if_neg (by rw [hin]; exact Bool.false_ne_true), hl]
  dsimp only
  rw [if_pos (by rw [decide_eq_true hv, hok]; rfl)]

/-- A trap that no handler takes: TVEC is none or fails its checks (R309). -/
theorem State.trap_unhandled (hl : s.launch? b.launch = some l) (hin : (b.group grp).inTrap = false)
    (hbad : (b.group grp).tvec.extractLsb' 0 32 = noneWord ∨ l.offsetOk ((b.group grp).tvec.extractLsb' 0 32).toNat = false) :
    s.trap blk grp r = (s.setBlock (b.setGroup grp ((b.group grp).enter k m r))).kill b.launch blk grp codeUnhandled := by
  have hno : ((decide ((b.group grp).tvec.extractLsb' 0 32 ≠ noneWord))
      && l.offsetOk ((b.group grp).tvec.extractLsb' 0 32).toNat) = false := by
    rcases hbad with h | h <;> rw [h]
    · rfl
    · exact Bool.and_false _
  rw [State.trap, hb, hp]
  dsimp only
  rw [if_neg (by rw [hin]; exact Bool.false_ne_true), hl]
  dsimp only
  rw [if_neg (by rw [hno]; exact Bool.false_ne_true)]

/-- A cause of a lane of the handler is a double fault (R309). -/
theorem State.trap_doubleFault (hin : (b.group grp).inTrap = true) (hm : m &&& (b.group grp).tmaskLanes ≠ 0) :
    s.trap blk grp r = s.kill b.launch blk grp codeDoubleFault := by
  rw [State.trap, hb, hp]
  dsimp only
  rw [if_pos hin, if_pos hm]

/-- While a handler runs, a lane set outside TMASK waits before its instruction (R308). -/
theorem State.trap_holds (hin : (b.group grp).inTrap = true) (hm : m &&& (b.group grp).tmaskLanes = 0) :
    s.trap blk grp r =
      s.setBlock (b.setGroup grp ((b.group grp).modLanes (m ||| r.set) fun _ x => { x with st := .trapHeld })) := by
  rw [State.trap, hb, hp]
  dsimp only
  rw [if_pos hin, if_neg (not_not.2 hm)]

end Trap

/-- Lanes that wait for the handler to end are what HELD reports (R300). -/
theorem Group.tstatNow_held {g : Group} {m : Mask} (hin : g.inTrap = true) (hm : m ≠ 0) :
    (g.modLanes m fun _ x => { x with st := .trapHeld }).tstatNow = g.tstat ||| 4#64 := by
  obtain ⟨l, hl⟩ : ∃ l, inMask m l = true := by
    by_contra h
    exact hm (mask_ext fun l _ => by simpa using fun hl => h ⟨l, hl⟩)
  have hlt := inMask_lt hl
  have hheld : ((List.range 32).any fun l =>
      decide (((g.modLanes m fun _ x => { x with st := .trapHeld }).lane l).st = .trapHeld)) = true :=
    List.any_eq_true.2 ⟨l, List.mem_range.2 hlt, by rw [Group.lane_modLanes g m _ l hlt, if_pos hl]; rfl⟩
  have hheld' : (g.modLanes m fun _ x => { x with st := .trapHeld }).held = true := by
    rw [Group.held, hheld]
    rw [Bool.true_or, Bool.and_true]
    exact hin
  rw [Group.tstatNow, hheld']
  rfl

end Sys2Proof.Machine

namespace Sys2Proof
open Machine

/-- Settles O32: each of the three ways of a trap that no handler takes. -/
theorem trapsWithoutAHandler : Obligations.TrapsWithoutAHandler := by
  intro s b l grp r k m hb hl hp g tvec
  refine ⟨fun hin hm => State.trap_doubleFault hb hp hin hm,
    fun hin hm => ⟨State.trap_holds hb hp hin hm, fun h0 => Group.tstatNow_held hin ?held⟩, fun hin hbad => ?unhandled⟩
  case held =>
    intro h
    exact h0 (BitVec.or_eq_zero_iff.1 h).1
  case unhandled =>
    refine ⟨_, State.trap_unhandled hb hp hl hin (hbad.imp id fun h => ?_), rfl, rfl⟩
    rw [Launch.offsetOk, decide_eq_false_iff_not, not_and_or, Nat.not_lt]
    exact h

end Sys2Proof

/-! ### TRAP and BKPT (R304) -/

namespace Sys2Proof.Machine

section Raise

variable {s : State} {c : Ctx} (hc : s.ctx? = some c)
include hc

/-- The issuing block afterwards. -/
theorem State.after_block (n : Nat) (own : Mask) (f : Group → Group) :
    ∃ b, (s.after c n own f).block? c.iss.blk = some b ∧ b.launch = c.b.launch
      ∧ b.groups[c.iss.grp]? = some (c.move n own (f (c.start c.g))) := by
  have h : (s.after c n own f).block? c.iss.blk =
      (s.modGroup c.iss.blk c.iss.grp fun g => c.move n own (f (c.start g))).block? c.iss.blk := rfl
  obtain ⟨i, rest, -, hi, -, hgrp, -, -⟩ := State.ctx?_some hc
  refine ⟨{ c.b with groups := c.b.groups.modify c.iss.grp fun g => c.move n own (f (c.start g)) }, ?_, rfl, ?_⟩
  · rw [h, State.block?_modGroup, State.ctx?_block hc, Option.map_some, if_pos (State.block?_id (State.ctx?_block hc))]
  · rw [hi, List.getElem?_modify_eq, hgrp]
    rfl

/-- An instruction that raises one cause once it is complete, outside a handler: the lanes that raise it are placed by the trap,
which returns to the instruction after it; the others pass. -/
theorem State.issue_raiseAfter {f : Ctx → State → Res} {k : Cause} {m : Mask} {arg : W32}
    (hf : f c (s.begin_ c) = .raise [(k, m)] arg true) (hin : c.g.inTrap = false) :
    s.issue f = .next ((s.after c 1 m id).trap c.iss.blk c.iss.grp
      { causes := [(k, m)], set := c.iss.lanes, tepc := c.iss.after 1
        hdr := if c.iss.after 1 = c.iss.nextHdr then c.iss.after 1 else c.iss.hdr, after := true, arg := arg }) := by
  unfold State.issue State.issueN
  simp [hc, hf, hin, State.finish_begin]

end Raise

/-- A lane of the set as it starts the instruction. -/
theorem Ctx.lane_start (c : Ctx) (g : Group) {l : Nat} (hl : l < 32) :
    (c.start g).lane l =
      if inMask c.iss.lanes l then { (g.lane l).tick with pc := c.iss.pc, hdr := some c.iss.hdr } else g.lane l :=
  Group.lane_modLanes g _ _ l hl

theorem Ctx.lane_move (c : Ctx) (n : Nat) (own : Mask) (g : Group) {l : Nat} (hl : l < 32) :
    (c.move n own g).lane l =
      if inMask c.iss.lanes l then (if inMask own l then g.lane l else (g.lane l).pass c.iss n) else g.lane l :=
  Group.lane_modLanes _ _ _ l hl

/-- The registers of a group that has started an instruction and moved on. -/
theorem Ctx.move_start_frame (c : Ctx) (n : Nat) (own : Mask) (g : Group) : c.move n own (c.start g) =
    { g with lanes := (c.move n own (c.start g)).lanes, trapChk := (c.move n own (c.start g)).trapChk } := rfl

/-- What a trap taken after the instruction needs to know (R304, R306). -/
def Ctx.raiseAfter (c : Ctx) (k : Cause) (m : Mask) (arg : W32) : Raise :=
  { causes := [(k, m)], set := c.iss.lanes, tepc := c.iss.after 1
    hdr := if c.iss.after 1 = c.iss.nextHdr then c.iss.after 1 else c.iss.hdr, after := true, arg := arg }

/-- The group of such an instruction in its handler. -/
def Ctx.entered (c : Ctx) (k : Cause) (m : Mask) (arg : W32) : Group :=
  (c.move 1 m (c.start c.g)).enter k m (c.raiseAfter k m arg)

section Entered

variable (c : Ctx) (k : Cause) (m : Mask) (arg : W32)

theorem Ctx.lane_entered_of_raised {l : Nat} (hl : l < 32) (hset : inMask c.iss.lanes l = true) (hm : inMask m l = true) :
    (c.entered k m arg).lane l =
      ({ (c.g.lane l).tick with pc := c.iss.pc, hdr := some c.iss.hdr } : Lane).enter (c.g.tvec.extractLsb' 0 32) := by
  rw [Ctx.entered, Group.lane_enter _ _ _ _ hl, if_pos hm, Ctx.lane_move c 1 m _ hl, if_pos hset, if_pos hm,
    Ctx.lane_start c _ hl, if_pos hset, Ctx.move_start_frame]

theorem Ctx.lane_entered_of_passed {l : Nat} (hl : l < 32) (hset : inMask c.iss.lanes l = true) (hm : inMask m l = false) :
    (c.entered k m arg).lane l = ({ (c.g.lane l).tick with pc := c.iss.pc, hdr := some c.iss.hdr } : Lane).pass c.iss 1 := by
  rw [Ctx.entered, Group.lane_enter _ _ _ _ hl, if_neg (by simp [hm]), Ctx.lane_move c 1 m _ hl, if_pos hset, if_neg (by simp [hm]),
    Ctx.lane_start c _ hl, if_pos hset]

theorem Ctx.lane_entered_of_outside {l : Nat} (hl : l < 32) (hset : inMask c.iss.lanes l = false) (hm : inMask m l = false) :
    (c.entered k m arg).lane l = c.g.lane l := by
  rw [Ctx.entered, Group.lane_enter _ _ _ _ hl, if_neg (by simp [hm]), Ctx.lane_move c 1 m _ hl, if_neg (by simp [hset]),
    Ctx.lane_start c _ hl, if_neg (by simp [hset])]

theorem Ctx.entered_registers :
    (c.entered k m arg).cause = BitVec.ofNat 64 (k.code + k.rank * 2 ^ 16 + arg.toNat * 2 ^ 32)
      ∧ (c.entered k m arg).tepc = BitVec.ofNat 64 ((c.iss.pc + 8).toNat
        + (if c.iss.pc + 8 = c.iss.nextHdr then (c.iss.pc + 8).toNat else c.iss.hdr.toNat) * 2 ^ 32)
      ∧ (c.entered k m arg).tmask = m.setWidth 64 ∧ (c.entered k m arg).tstat = 3 := by
  refine ⟨Group.enter_cause .., (Group.enter_tepc ..).trans ?_, Group.enter_tmask .., Group.enter_tstat ..⟩
  rw [← apply_ite BitVec.toNat]
  rfl

/-- The registers that R306 leaves. -/
theorem Ctx.entered_frame : c.entered k m arg =
    { c.g with
      lanes := (c.entered k m arg).lanes
      cause := (c.entered k m arg).cause
      tepc := (c.entered k m arg).tepc
      tmask := (c.entered k m arg).tmask
      tstat := (c.entered k m arg).tstat
      trapChk := true } := by
  rw [Ctx.entered, Group.enter_eq, Group.trappedBy, Group.trapped_eq, Ctx.move_start_frame]
  rfl

end Entered

/-- TRAP and BKPT enter a handler whose TVEC passes its checks. -/
theorem State.issue_enters {s : State} {c : Ctx} (hc : s.ctx? = some c) {f : Ctx → State → Res} {k : Cause} {m : Mask} {arg : W32}
    (hf : f c (s.begin_ c) = .raise [(k, m)] arg true) (hm : m ≠ 0#32) (hin : c.g.inTrap = false)
    (hv : c.g.tvec.extractLsb' 0 32 ≠ noneWord) (hok : c.l.offsetOk (c.g.tvec.extractLsb' 0 32).toNat = true) :
    ∃ t, s.issue f = .next t ∧ t.group? c.iss.blk c.iss.grp = some (c.entered k m arg) := by
  obtain ⟨b, hb, hlaunch, hg⟩ := State.after_block hc 1 m id
  have hl : (s.after c 1 m id).launch? b.launch = some c.l := (congrArg s.launch? hlaunch).trans (State.ctx?_launch hc)
  have hgroup := Block.group_of_getElem? hg
  refine ⟨_, (State.issue_raiseAfter hc hf hin).trans (congrArg _ (State.trap_enters hb (pickCause_one hm) hl ?_ ?_ ?_)), ?_⟩
  all_goals rw [hgroup]
  · exact hin
  · exact hv
  · exact hok
  · exact State.group?_setBlock_setGroup hb hg _

end Sys2Proof.Machine

namespace Sys2Proof
open Machine

/-- Settles O31: the registers and the lanes of the group that the trap leaves in its handler. -/
theorem trapAndBkptEnterTheHandler : Obligations.TrapAndBkptEnterTheHandler := by
  intro s c x hc m next last tvec enters
  have hsub {l : Nat} (h : inMask m l = true) : inMask c.iss.lanes l = true := Ctx.on_subset h
  have hentered {t : State} {k : Cause} (h : t.group? c.iss.blk c.iss.grp = some (c.entered k m x.imm)) : enters t k := by
    obtain ⟨hcause, htepc, htmask, htstat⟩ := c.entered_registers k m x.imm
    refine ⟨_, h, hcause, htepc, htmask, htstat, ?_, ?_, ?_, ?_, ?_, ?_, ?_, ?_, ?_, ?_, ?_, ?_,
      fun l hl hm => ?raised, fun l hl hset hm => Ctx.lane_entered_of_passed c k m x.imm hl hset hm,
      fun l hl hset hm => Ctx.lane_entered_of_outside c k m x.imm hl hset hm⟩
    case raised =>
      rw [Ctx.lane_entered_of_raised c k m x.imm hl (hsub hm) hm]
      exact ⟨rfl, rfl, rfl, rfl, rfl, rfl, rfl, rfl, rfl, rfl⟩
    all_goals rw [Ctx.entered_frame]
  refine ⟨fun hm hin hv h8 hsize => ?enters, fun hm => ⟨?_, ?_⟩⟩
  case enters =>
    have hok : c.l.offsetOk tvec.toNat = true := decide_eq_true ⟨h8, hsize⟩
    obtain ⟨t, ht, hgt⟩ := State.issue_enters (f := fun c s =>
      if c.on x.g = 0 then .done s 0 else .raise [(.trap (x.imm.extractLsb' 0 6), c.on x.g)] x.imm true) hc (if_neg hm) hm hin hv hok
    obtain ⟨u, hu, hgu⟩ := State.issue_enters (f := fun c s =>
      if c.on x.g = 0 then .done s 0 else .raise [(.breakpoint, c.on x.g)] x.imm true) hc (if_neg hm) hm hin hv hok
    exact ⟨⟨t, (exec_trap x s).trans ht, hentered hgt⟩, by simp [Cause.code], u, (exec_bkpt x s).trans hu, hentered hgu⟩
  · exact (exec_trap x s).trans (State.issue_nothing hc (if_pos hm))
  · exact (exec_bkpt x s).trans (State.issue_nothing hc (if_pos hm))

end Sys2Proof
end

section
/-!
SUPPORT. The events of the Praline root, the spawn queues and cancellation (R269, R274, R275, R281 to R287; 07_memory.md R148):
O45.
-/

namespace Sys2Proof.Machine

/-! ### A cancelled thread stays cancelled (R148, R285) -/

/-- A thread of a block has been cancelled, and the block has counted n cancellations. -/
def Block.Cancelled (b : Block) (grp lane : Nat) (n : W64) : Prop :=
  ((b.group grp).lane lane).st = .exited true ∧ b.q.cancelled = n

/-- The block of that number has cancelled that thread. -/
def State.Cancelled (s : State) (blk grp lane : Nat) (n : W64) : Prop :=
  ∃ b, s.block? blk = some b ∧ b.Cancelled grp lane n

/-- A change of a group that leaves every cancelled thread cancelled. -/
def Group.KeepsCancelled (f : Group → Group) : Prop :=
  ∀ (g : Group) (l : Nat), l < 32 → (g.lane l).st = .exited true → ((f g).lane l).st = .exited true

theorem Group.keepsCancelled_of_lanes {f : Group → Group} (h : ∀ g, (f g).lanes = g.lanes) : Group.KeepsCancelled f :=
  fun g l _ hx => by
    rw [Group.lane, h]
    exact hx

theorem Group.keepsCancelled_modLanes (m : Group → Mask) (f : Group → Nat → Lane → Lane)
    (h : ∀ g l, (g.lane l).st = .exited true → inMask (m g) l = true → (f g l (g.lane l)).st = .exited true) :
    Group.KeepsCancelled fun g => g.modLanes (m g) (f g) := fun g l hl hx => by
  rw [Group.lane_modLanes g _ _ l hl]
  split
  · next hm => exact h g l hx hm
  · exact hx

theorem Group.KeepsCancelled.comp {f h : Group → Group} (hh : Group.KeepsCancelled h) (hf : Group.KeepsCancelled f) :
    Group.KeepsCancelled fun g => h (f g) := fun g l hl hx => hh _ l hl (hf g l hl hx)

theorem Group.addAfter_lanes (g : Group) (a : After) : (g.addAfter a).lanes = g.lanes := by
  unfold Group.addAfter
  dsimp only
  split
  · rfl
  · split <;> rfl

theorem Group.keepsCancelled_land (w : Dest × W64) : Group.KeepsCancelled fun g => g.land w := by
  intro g l hl hx
  unfold Group.land
  dsimp only
  split
  · split
    · exact hx
    · rw [Group.lane_modLanes g _ _ l hl]
      split
      · exact (Lane.setV_st _ _ _).trans hx
      · exact hx
  · exact (congrArg Lane.st (Group.lane_setS _ _ _ l)).trans hx

theorem Group.keepsCancelled_complete (id : Nat) : Group.KeepsCancelled fun g => g.complete id := by
  intro g l hl hx
  have hland : ∀ (ws : List (Dest × W64)) (g : Group), (g.lane l).st = .exited true → ((ws.foldl Group.land g).lane l).st = .exited true := by
    intro ws
    induction ws with
    | nil => exact fun _ h => h
    | cons w ws ih => exact fun g h => ih _ (Group.keepsCancelled_land w g l hl h)
  unfold Group.complete
  dsimp only
  split
  · exact hx
  · next i _ =>
    have h := hland i.writes g hx
    rw [Group.lane] at h ⊢
    rw [← h, Group.lower_lanes]

/-- The groups of a block after one of them has changed. -/
theorem Block.group_modify {b b' : Block} {i : Nat} {f : Group → Group} (h : b'.groups = b.groups.modify i f) (j : Nat) :
    b'.group j = if i = j ∧ j < b.groups.length then f (b.group j) else b.group j := by
  simp only [Block.group, List.getD_eq_getElem?_getD, h, List.getElem?_modify]
  by_cases hij : i = j
  · by_cases hj : j < b.groups.length
    · simp [hij, hj]
    · simp [hij, hj]
  · simp [hij]

namespace State.Cancelled

variable {s t : State} {blk grp lane : Nat} {n : W64}

theorem of_blocks (h : s.Cancelled blk grp lane n) (e : t.blocks = s.blocks) : t.Cancelled blk grp lane n := by
  obtain ⟨b, hb, hc⟩ := h
  exact ⟨b, (State.block?_congr e blk).trans hb, hc⟩

/-- It stays so when a block changes that keeps its groups and its count. -/
theorem modBlock (h : s.Cancelled blk grp lane n) (k : Nat) {f : Block → Block} (hid : ∀ b, (f b).id = b.id)
    (hg : ∀ b, (f b).groups = b.groups) (hq : ∀ b, (f b).q = b.q) : (s.modBlock k f).Cancelled blk grp lane n := by
  obtain ⟨b, hb, hx, hn⟩ := h
  refine ⟨_, (State.block?_modBlock s k blk f hid).trans (congrArg _ hb), ?_⟩
  dsimp only
  split
  · exact ⟨by rw [Block.group, hg]; exact hx, by rw [hq]; exact hn⟩
  · exact ⟨hx, hn⟩

theorem modGroup (h : s.Cancelled blk grp lane n) (hl : lane < 32) (k i : Nat) {f : Group → Group} (hf : Group.KeepsCancelled f) :
    (s.modGroup k i f).Cancelled blk grp lane n := by
  obtain ⟨b, hb, hx, hn⟩ := h
  refine ⟨_, (State.block?_modGroup s k i blk f).trans (congrArg _ hb), ?_⟩
  dsimp only
  split
  · refine ⟨?_, hn⟩
    rw [Block.group_modify (b := b) rfl]
    split
    · exact hf _ lane hl hx
    · exact hx
  · exact ⟨hx, hn⟩

theorem withdrawHome (h : s.Cancelled blk grp lane n) (r : HomeReq) : (s.withdrawHome r).Cancelled blk grp lane n := by
  unfold State.withdrawHome
  dsimp only
  split
  · exact h.of_blocks rfl
  · exact h.of_blocks rfl

theorem homeEffect (h : s.Cancelled blk grp lane n) (hl : lane < 32) (r : HomeReq) : (s.homeEffect r).Cancelled blk grp lane n := by
  unfold State.homeEffect
  dsimp only
  split
  · exact h.of_blocks rfl
  · exact h.of_blocks rfl
  · exact h.of_blocks rfl
  · split
    · exact h.of_blocks rfl
    · refine modGroup (modBlock (of_blocks h rfl) _ ?_ ?_ ?_) hl _ _ (Group.keepsCancelled_of_lanes fun g => ?_)
      · exact fun _ => rfl
      · exact fun _ => rfl
      · exact fun _ => rfl
      · split <;> split <;> simp [Group.addAfter_lanes]

theorem homeIssue (h : s.Cancelled blk grp lane n) (hl : lane < 32) (r : HomeReq) : (s.homeIssue r).Cancelled blk grp lane n := by
  refine (h.homeEffect hl r).modGroup hl _ _ fun g l hl hx => ?_
  have hrun : inMask (maskOf fun l => inMask r.lanes l && (g.lane l).isRun
      && ((g.lane l).pc == r.pc || ((g.lane l).hdr.isNone && (g.lane l).pc + 8 == r.pc))) l = false := by
    simp [Lane.isRun, hx]
  dsimp only
  rw [Group.lane_modLanes _ _ _ l hl, if_neg (by rw [hrun]; decide)]
  split
  · rw [Group.unflag, Group.lane_modLanes _ _ _ l hl]
    split <;> exact hx
  · exact hx

theorem tidyPre (h : s.Cancelled blk grp lane n) (id : Nat) : (s.tidyPre id).Cancelled blk grp lane n := by
  have hdrop : ∀ (t : State) (i : Nat), t.Cancelled blk grp lane n → (t.dropPre i).Cancelled blk grp lane n :=
    fun t i ht => ht.of_blocks (State.dropPre_blocks t i)
  unfold State.tidyPre
  split
  · split
    · unfold State.orphanPre
      dsimp only
      split
      · refine hdrop _ _ ?_
        unfold State.setFamily
        dsimp only
        split
        · exact h.modBlock _ (fun _ => rfl) (fun _ => rfl) fun _ => rfl
        · exact h
      · split
        · exact hdrop _ _ h
        · exact h
      · exact hdrop _ _ h
    · exact h
  · exact h

theorem settle (h : s.Cancelled blk grp lane n) (hl : lane < 32) (k i id : Nat) : (s.settle k i id).Cancelled blk grp lane n := by
  unfold State.settle
  split
  · exact h
  · refine modGroup ?_ hl _ _ (Group.keepsCancelled_complete id)
    split
    · exact h
    · next p _ =>
      exact of_blocks (h.modBlock k (f := fun b => b.addStats p.hf p.stats) (fun _ => rfl) (fun _ => rfl) fun _ => rfl) rfl

theorem foldl {α : Type} {f : State → α → State} (h : s.Cancelled blk grp lane n)
    (hf : ∀ (s : State) (x : α), s.Cancelled blk grp lane n → (f s x).Cancelled blk grp lane n) (xs : List α) :
    (xs.foldl f s).Cancelled blk grp lane n :=
  State.foldl_of_step (keeps := fun s t => s.Cancelled blk grp lane n → t.Cancelled blk grp lane n) (fun _ h => h)
    (fun h k hs => k (h hs)) hf xs s h

theorem tidyHome (h : s.Cancelled blk grp lane n) (hl : lane < 32) (b : Block) (i : Nat) (g : Group) :
    (s.tidyHome b i g).Cancelled blk grp lane n := by
  refine h.foldl (fun t r ht => ?_) _
  split
  · exact ht.homeIssue hl r
  · split
    · exact ht
    · exact ht.withdrawHome r

end State.Cancelled

/-- The block that a change acted on, when it keeps its number. -/
theorem State.block?_modBlock_same {s : State} {b : Block} (hb : s.block? b.id = some b) {f : Block → Block}
    (hid : ∀ b, (f b).id = b.id) : (s.modBlock b.id f).block? b.id = some (f b) := by
  rw [State.block?_modBlock s _ _ f hid, hb, Option.map_some, if_pos rfl]

/-- What the removal of a cancelled thread's records leaves of its block (R286). -/
theorem State.orphan_block {s : State} {b : Block} (hb : s.block? b.id = some b) (l : Launch) (tag : W32) :
    ∃ b', (s.orphan b l tag).block? b.id = some b' ∧ b'.groups = b.groups ∧ b'.q.cancelled = b.q.cancelled
      ∧ b'.q.share = b.q.share.filter fun r => r.parent != tag := by
  unfold State.orphan
  dsimp only
  refine ⟨_, State.block?_modBlock_same ((State.block?_congr ?_ _).trans hb) fun _ => rfl, rfl, rfl, rfl⟩
  exact State.foldl_blocks (fun t _ => State.ringStore_blocks t _ _ _) _ _

/-- Cancelling a thread leaves it cancelled and counted, and none of its records on chip (R148, R285, R286). -/
theorem State.cancel_block {s : State} {b : Block} (hb : s.block? b.id = some b) (l : Launch) {grp lane : Nat}
    (hg : grp < b.groups.length) (hl : lane < 32) :
    ∃ b', (s.cancel b l grp lane).block? b.id = some b' ∧ b'.Cancelled grp lane (b.q.cancelled + 1)
      ∧ ∀ r ∈ b'.q.share, r.parent ≠ ((b.group grp).lane lane).tag := by
  have hset : (s.modGroup b.id grp fun _ => (b.group grp).modLanes (maskOf (· == lane)) fun _ y => { y with st := .exited true }).Cancelled
      b.id grp lane b.q.cancelled := by
    refine ⟨_, (State.block?_modGroup s b.id grp b.id _).trans (congrArg _ hb), ?_⟩
    dsimp only
    rw [if_pos rfl]
    refine ⟨?_, rfl⟩
    rw [Block.group_modify (b := b) rfl, if_pos ⟨rfl, hg⟩, Group.lane_modLanes _ _ _ lane hl, if_pos (by simp [hl])]
  unfold State.cancel
  dsimp only
  generalize hu : List.foldl _ (State.tidyHome _ b grp _) _ = u
  have hcan : u.Cancelled b.id grp lane b.q.cancelled := by
    rw [← hu]
    refine State.Cancelled.foldl (State.Cancelled.tidyHome ?_ hl _ _ _) (fun t i ht => ht.settle hl _ _ i) _
    refine State.Cancelled.of_blocks (s := State.tidyPres _ _ _) (State.Cancelled.foldl ?_ (fun t p ht => ht.tidyPre p.id) _) rfl
    exact hset.of_blocks rfl
  obtain ⟨b₁, hb₁, hx, hn⟩ := hcan
  have hid := State.block?_id hb₁
  have hb₂ : (u.modBlock b.id fun b => { b with q := { b.q with cancelled := b.q.cancelled + 1 } }).block? b.id
      = some { b₁ with q := { b₁.q with cancelled := b₁.q.cancelled + 1 } } := by
    rw [← hid] at hb₁ ⊢
    exact State.block?_modBlock_same hb₁ fun _ => rfl
  rw [hb₂]
  obtain ⟨b', hb', hgroups, hcancelled, hshare⟩ := State.orphan_block (b := { b₁ with q := { b₁.q with cancelled := b₁.q.cancelled + 1 } })
    (by rw [← hid] at hb₂; exact hb₂) l ((b.group grp).lane lane).tag
  refine ⟨b', by rw [← hid]; exact hb', ⟨by rw [Block.group, hgroups]; exact hx, hcancelled.trans (congrArg (· + 1) hn)⟩, fun r hr => ?_⟩
  rw [hshare, List.mem_filter] at hr
  exact bne_iff_ne.1 hr.2

/-! ### Offers and copies (R281, R283) -/

theorem State.ics_getElem? (s : State) {i : Nat} (hi : i < 16) : s.ics[i]? = some (s.ics[i]?.getD Incumbent.zero) := by
  simp [hi]

/-- Taking an offer at the root, when nothing is mirrored (R281). -/
theorem State.acceptOffer_local {s : State} {o : Offer} (hic : o.ic < 16) {m m' : Incumbent} (hm : m.mirror = false ∨ o.mirror = true)
    (hm' : m' = { m with value := o.value, seq := m.seq + 1 }) :
    (s.acceptOffer o m).ics[o.ic]? = some m' ∧ (s.acceptOffer o m).blocks = s.blocks
      ∧ ∀ k, k < 144 → ∃ c, (s.acceptOffer o m).cores[k]? = some c ∧
          c.pending = (s.cores[k]?.getD CoreSt.zero).pending ++ [(o.ic, m', o.since)] := by
  have hsend : (m.mirror && !o.mirror) = false := by rcases hm with h | h <;> simp [h]
  unfold State.acceptOffer
  dsimp only
  rw [hsend, if_neg Bool.false_ne_true, ← hm']
  refine ⟨?_, rfl, fun k hk => ⟨_, (tab_getElem? _ _ k).trans (if_pos hk), rfl⟩⟩
  simp [hic]

/-- The change of a copy dooms records, and leaves every core alone. -/
theorem State.doom_icCopy (s before : State) (core ic k i : Nat) : (s.doom before core ic).icCopy k i = s.icCopy k i := rfl

/-! ### Records (R274, R284) -/

/-- The oldest record of a set that has waited is noted as ready, or has been (R274). -/
theorem exec_recordWaitExpiry_notes {s : State} {b : Block} {l : Launch} {entry : W32} {t : TaskRec} {ts : List TaskRec}
    (hb : s.block? b.id = some b) (hl : s.launch? b.launch = some l)
    (hset : (s.liveRecords b l).filter (fun r => r.entry == entry) = t :: ts) (hw : t.time + 512 ≤ s.cc) :
    ∃ u b', exec (.recordWaitExpiry b.id entry) s = .next u ∧ u.block? b.id = some b' ∧ t.index ∈ b'.q.due := by
  have hoff : exec (.recordWaitExpiry b.id entry) s =
      match (s.unnoted b l).filter fun r => r.entry == entry with
      | r :: _ => .next (s.modBlock b.id fun b => { b with q := { b.q with due := r.index :: b.q.due } })
      | [] => .next s := by
    unfold exec execRecordWaitExpiry
    dsimp only
    rw [hb]
    dsimp only
    rw [hl, Option.map_some]
    cases (s.unnoted b l).filter fun r => r.entry == entry <;> rfl
  have holdest : ∀ r ∈ (s.unnoted b l).filter (fun r => r.entry == entry), r.index = t.index := by
    intro r hr
    obtain ⟨hr, he⟩ := List.mem_filter.1 hr
    obtain ⟨-, hr⟩ := List.mem_filter.1 hr
    have hes : entrySet (s.liveRecords b l) r.entry = t :: ts := by rw [entrySet, beq_iff_eq.1 he, hset]
    rw [hes] at hr
    simp only [List.head?_cons, Option.any_some, Bool.and_eq_true, beq_iff_eq] at hr
    exact hr.1.1.symm
  rw [hoff]
  cases h : (s.unnoted b l).filter fun r => r.entry == entry with
  | cons r rs =>
    refine ⟨_, _, rfl, State.block?_modBlock_same hb fun _ => rfl, ?_⟩
    rw [← holdest r (by rw [h]; exact List.mem_cons_self)]
    exact List.mem_cons_self
  | nil =>
    refine ⟨s, b, rfl, hb, ?_⟩
    have ht : t ∈ (s.liveRecords b l).filter (fun r => r.entry == entry) := by rw [hset]; exact List.mem_cons_self
    obtain ⟨hlive, he⟩ := List.mem_filter.1 ht
    have hes : entrySet (s.liveRecords b l) t.entry = t :: ts := by rw [entrySet, beq_iff_eq.1 he, hset]
    by_contra hno
    refine List.not_mem_nil (a := t) (h ▸ List.mem_filter.2 ⟨List.mem_filter.2 ⟨hlive, ?_⟩, he⟩)
    simp [hes, TaskRec.waited, hw, hno]

/-! ### Forming a group (R274, R275) -/

/-- A thread of the group that some records form. -/
theorem Group.form_lane (g : Group) (ts : List TaskRec) (slot now : Nat) (btvec : W64) {k : Nat} (hk : k < 32) :
    (g.form ts slot now btvec).lane k =
      ((ts[k]?).map fun t => t.thread slot k (g.epoch + 1)).getD { Lane.zero with st := .exited false } := by
  rw [Group.form, Group.lane, tab_getElem?, if_pos hk, Option.getD_some]

theorem TaskRec.thread_vreg (t : TaskRec) (slot lane : Nat) (epoch : BitVec 23) {r : Nat} (hr : r < 10) :
    (t.thread slot lane epoch).vreg r = BitVec.ofNat 32 ((t.dws[2 + r / 2]?.getD 0).toNat / 2 ^ (32 * (r % 2))) := by
  simp only [TaskRec.thread, Lane.vreg]
  rw [tab_getElem?, if_pos (by omega), if_pos hr]
  rfl

/-- A group is formed of the first 32 records of a set when all stand on chip and none is dominated. -/
theorem State.formGroup_block {s : State} {b : Block} {l : Launch} {slot : Nat} {ts : List TaskRec} (hb : s.block? b.id = some b)
    (hslot : slot < b.groups.length) (hring : b.q.ring = []) (hdom : ∀ t ∈ ts, s.recordDominated b.core t = false) (hts : ts ≠ []) :
    ∃ b', (s.formGroup b l slot ts).block? b.id = some b'
      ∧ b'.group slot = (b.group slot).form (ts.take 32) slot s.cc b.btvec
      ∧ b'.q.tasks = b.q.tasks + BitVec.ofNat 64 (min ts.length 32) ∧ b'.q.groups = b.q.groups + 1 := by
  have htook : (ts.filter fun t => !(s.recordDominated b.core t && s.leaves b t)) = ts :=
    List.filter_eq_self.2 fun t ht => by simp [hdom t ht]
  have hbad : ((ts.take 32).filter fun t => !t.whole l.lr.codeSize && b.q.ring.any fun e => e.1 == t.index) = [] := by
    simp [hring]
  have hno : ((ts.take 32).filter fun t => !([] : List TaskRec).contains t && s.recordDominated b.core t) = [] :=
    List.filter_eq_nil_iff.2 fun t ht => by simp [hdom t (List.mem_of_mem_take ht)]
  have hrun : ((ts.take 32).filter fun t => !([] : List TaskRec).contains t && !([] : List TaskRec).contains t) = ts.take 32 :=
    List.filter_eq_self.2 fun t _ => rfl
  have hne : (ts.take 32).isEmpty = false := by
    cases ts with
    | nil => exact absurd rfl hts
    | cons t ts => rfl
  unfold State.formGroup
  dsimp only
  rw [htook, hbad, hno, hrun, hne]
  simp only [Bool.false_eq_true, if_false]
  refine ⟨_, State.block?_modBlock_same (b := b) hb fun _ => rfl, ?_, ?_, rfl⟩
  · rw [Block.group_modify (b := b) rfl, if_pos ⟨rfl, hslot⟩]
  · dsimp only
    rw [List.length_take, Nat.min_comm]

/-- When the queue forms a group of a ready set. -/
theorem State.forming_some {s : State} {b : Block} {l : Launch} {slot : Nat} {ts : List TaskRec}
    (hslot : ((List.range b.groups.length).find? fun i => (b.group i).isFree) = some slot) (hres : b.st = .resident)
    (hrefill : b.q.refill = false) (htasks : l.lr.tasks = true) (hready : readySet b.q (s.liveRecords b l) = some ts)
    (hformed : b.q.formed ≠ some s.cc) (hnoted : ∀ t ∈ s.liveRecords b l, t.time + 512 ≤ s.cc → t.index ∈ b.q.due) :
    s.forming b l = some (slot, ts) := by
  have hun : s.unnoted b l = [] := List.filter_eq_nil_iff.2 fun t ht => by
    simp only [Bool.and_eq_true, Bool.not_eq_true', not_and, Bool.not_eq_false, TaskRec.waited, decide_eq_true_eq, List.contains_iff_mem]
    exact fun h => hnoted t ht h.2
  unfold State.forming
  simp [Block.running, hres, hrefill, htasks, hformed, hun, hslot, hready]

end Sys2Proof.Machine

namespace Sys2Proof
open Machine

/-- Settles O45, event by event. -/
theorem taskQueueEvents : Obligations.TaskQueueEvents := by
  intro s
  refine ⟨fun o ho hic => ⟨fun hbound himp hmir => ?_, fun hno => ?_⟩, fun core ic q hcore hic hq => ?_, fun b hb => ?_,
    fun b l e rest hb hl hring hshare hres => ?_, fun b l entry t ts hb hl hset hw => exec_recordWaitExpiry_notes hb hl hset hw,
    fun b l slot ts hb hl hslot hres hrefill htasks hready hring hformed hnoted hdom hts => ?_,
    fun b l grp lane hb hl hcur hres hg hlane hben hex hsh hdom => ?_⟩
  case refine_1 =>
    have h : exec (.offerAtRoot o.id) s =
        .next (State.acceptOffer { s with offers := s.offers.filter fun q => q.id != o.id } o (s.ics[o.ic]?.getD Incumbent.zero)) := by
      unfold exec execOfferAtRoot
      dsimp only
      rw [ho]
      dsimp only
      rw [hbound, himp]
      rfl
    obtain ⟨hics, hblocks, hcores⟩ := State.acceptOffer_local (s := { s with offers := s.offers.filter fun q => q.id != o.id }) hic hmir rfl
    exact ⟨_, _, h, hics, rfl, rfl, rfl, hcores, hblocks⟩
  case refine_2 =>
    unfold exec execOfferAtRoot
    dsimp only
    rw [ho]
    dsimp only
    rw [if_neg (by rcases hno with h | h <;> simp [h])]
  case refine_3 =>
    have h : exec (.copyUpdate core ic) s = execCopyUpdate core ic s := rfl
    unfold execCopyUpdate at h
    dsimp only at h
    rw [hq] at h
    refine ⟨_, h, ?_⟩
    have hcopy := State.doom_icCopy
    simp only [hcopy]
    simp [State.icCopy, hcore, hic, State.doom]
  case refine_4 =>
    refine ⟨_, _, rfl, State.block?_modBlock_same hb fun _ => rfl, rfl, fun d => ?_, rfl, rfl, rfl⟩
    simp [TaskQ.prune]
  case refine_5 =>
    have h : exec (.ringReadback b.id) s = execRingReadback b.id s := rfl
    unfold execRingReadback at h
    rw [hb] at h
    dsimp only at h
    rw [hl, hring] at h
    dsimp only at h
    rw [if_neg (by simp [Block.running, hres, hshare])] at h
    refine ⟨_, _, h, State.block?_modBlock_same hb fun _ => rfl, ?_, fun hw hp => ?_, fun hw => ?_⟩
    · dsimp only
      split
      · rfl
      · split <;> rfl
    · simp [hw, hp]
    · simp [hw]
  case refine_6 =>
    have hfree : slot < b.groups.length := List.mem_range.1 (List.mem_of_find?_eq_some hslot)
    have h : exec (.taskGroupFormation b.id) s = .next (s.formGroup b l slot ts) := by
      unfold exec execTaskGroupFormation
      dsimp only
      rw [hb]
      dsimp only
      rw [hl]
      dsimp only
      rw [State.forming_some hslot hres hrefill htasks hready hformed hnoted]
    obtain ⟨b', hb', hgroup, htk, hgr⟩ := State.formGroup_block (l := l) hb hfree hring hdom hts
    refine ⟨_, b', h, hb', by rw [hgroup]; rfl, by rw [hgroup]; rfl, htk, hgr, fun k hk => ?_⟩
    dsimp only
    rw [hgroup, Group.form_lane _ _ _ _ _ hk, List.getElem?_take_of_lt hk]
    cases ts[k]? with
    | none => rfl
    | some t => exact ⟨rfl, rfl, rfl, rfl, rfl, fun r hr => TaskRec.thread_vreg t slot k _ hr⟩
  case refine_7 =>
    have h : exec (.threadCancellation b.id grp lane) s = .next (s.cancel b l grp lane) := by
      unfold exec execThreadCancellation
      dsimp only
      rw [hb]
      dsimp only
      rw [hl]
      dsimp only
      rw [if_pos (by simp [hcur, Block.running, hres, hg, hlane, State.toCancel, State.threadDominated, hben, hex, hsh, hdom])]
    obtain ⟨b', hb', ⟨hx, hn⟩, hgone⟩ := State.cancel_block hb l hg hlane
    exact ⟨_, b', h, hb', hx, hn, hgone⟩

end Sys2Proof
end

section
/-!
SUPPORT. The ports of the Stobuvin fabric: what a beat that arrives does to its port (R327, R328, R330, R331, R340), and what
training and lane failures do (R333); O46.
-/

namespace Sys2Proof.Machine

/-! ### Ports -/

theorem State.port_modPort_same (s : State) {p : Nat} (hp : p < 16) (f : Port → Port) : (s.modPort p f).port p = f (s.port p) :=
  congrArg (·.getD Port.zero) (Vector.getElem?_setIfInBounds_self_of_lt hp)

theorem State.port_modPort_other (s : State) {p n : Nat} (h : n ≠ p) (f : Port → Port) : (s.modPort p f).port n = s.port n :=
  congrArg (·.getD Port.zero) (Vector.getElem?_setIfInBounds_ne h.symm)

/-- Two changes of one port are one. -/
theorem State.modPort_modPort (s : State) {p : Nat} (hp : p < 16) (f g : Port → Port) :
    (s.modPort p f).modPort p g = s.modPort p fun _ => g (f (s.port p)) := by
  have h : (s.modPort p f).modPort p g = (s.modPort p f).modPort p fun _ => g (f (s.port p)) := by
    rw [← State.port_modPort_same s hp f]
    rfl
  rw [h]
  simp [State.modPort]

theorem State.port_congr {s t : State} (h : t.fab = s.fab) (p : Nat) : t.port p = s.port p := by rw [State.port, h, State.port]

theorem State.port_post (s : State) (f : Nat) (e : CEntry) (p : Nat) : (s.post f e).port p = s.port p :=
  State.port_congr (State.post_fab s f e) p

/-! ### Beats that arrive (R327, R328, R330) -/

theorem Port.lostBeat_eq (x : Port) (content : List Byte) :
    x.lostBeat content = { x with beats := (x.lostBeat content).beats, frame := (x.lostBeat content).frame } := by
  unfold Port.lostBeat
  dsimp only
  split
  · rfl
  · split <;> rfl

/-- STOP concerns what a port sends alone (R331). -/
theorem Port.stops_eq (x : Port) : x.stops = { x with stopOut := x.stops.stopOut, wire := x.stops.wire } := by
  have hidle : ∀ y : Port, y.idle = { y with wire := y.idle.wire } := fun y => by
    unfold Port.idle
    dsimp only
    split <;> rfl
  unfold Port.stops
  extract_lets free stop y
  split
  · rw [hidle y]
  · rfl

section Arrivals

variable {s : State} {p : Nat} {content : List Byte} {trailer : W32}

/-- A beat whose CRC fails is discarded. -/
theorem exec_beatReceive_badCrc (hlive : 1 ≤ (s.port p).state ∧ (s.port p).state ≤ 4)
    (hcrc : Config.crc24 content (trailer.extractLsb' 0 8) ≠ trailer.extractLsb' 8 24) :
    exec (.beatReceive p content trailer) s =
      .next (s.modPort p fun _ => { (s.port p).lostBeat content with crcErrs := (s.port p).crcErrs + 1 }) := by
  unfold exec execBeatReceive
  dsimp only
  rw [if_neg (by omega), if_pos hcrc]
  rfl

/-- The state once a beat's STOP has been heard (R331). -/
def State.hears (s : State) (p : Nat) (trailer : W32) : State := s.modPort p fun x => { x with stopIn := trailer.getLsbD 2 }

variable (hlive : 1 ≤ (s.port p).state ∧ (s.port p).state ≤ 4)
  (hcrc : Config.crc24 content (trailer.extractLsb' 0 8) = trailer.extractLsb' 8 24) (hres : trailer.extractLsb' 3 5 = 0)
include hlive hcrc hres

theorem exec_beatReceive_idle (hk : trailer.extractLsb' 0 2 = 0) :
    exec (.beatReceive p content trailer) s =
      .next ((s.hears p trailer).modPort p fun x => { x with frame := if x.frame = 2 then 0 else x.frame }).flushAll := by
  unfold exec execBeatReceive
  dsimp only
  rw [hk, if_neg (by omega), if_neg (not_not.2 hcrc), if_neg (by simp [hres])]
  rfl

theorem exec_beatReceive_data (hk : trailer.extractLsb' 0 2 = 1) :
    exec (.beatReceive p content trailer) s = .next ((s.hears p trailer).dataBeat p content).flushAll := by
  unfold exec execBeatReceive
  dsimp only
  rw [hk, if_neg (by omega), if_neg (not_not.2 hcrc), if_neg (by simp [hres])]
  rfl

theorem exec_beatReceive_control (hk : trailer.extractLsb' 0 2 = 2) :
    exec (.beatReceive p content trailer) s = .next ((s.hears p trailer).controlBeat p content).flushAll := by
  unfold exec execBeatReceive
  dsimp only
  rw [hk, if_neg (by omega), if_neg (not_not.2 hcrc), if_neg (by simp [hres])]
  rfl

end Arrivals

/-! ### A packet of one beat (R328, R340) -/

/-- What an accepted packet leaves of a port before it is passed on: it counts, and a new key's first packet retires the old
key (R330, R341). -/
def Port.accepts (x : Port) (cc k : Nat) : Port :=
  { x with
    rxseq := x.rxseq + 1
    unackRx := x.unackRx + 1
    rxAt := if x.unackRx = 0 then cc else x.rxAt
    recvNew := if x.recvNew = some k then none else x.recvNew
    recv := if x.recvNew = some k then x.recv.setIfInBounds (1 - k) { x.recvKey (1 - k) with valid := false } else x.recv }

/-- A packet for this device that is not carried for another space goes into the receive buffer (R328). -/
theorem State.passOn_local (s : State) (p : Nat) {q : Packet} (hdev : q.ddev = s.fab.device) (hlost : s.fab.lost.contains q.sdev = false)
    (horig : q.orig = false) : s.passOn p q = s.modPort p fun x => { x with inbox := x.inbox ++ [q] }.stops := by
  unfold State.passOn
  rw [if_neg (not_not.2 hdev), hlost, horig]
  rfl

/-- A packet that authenticates, is next in sequence and has no other device or space to go to is put into the receive buffer
of the port that it came by. -/
theorem State.takePacket_delivers {s : State} {p : Nat} (hp : p < 16) {bs plain : List Byte} {h : Packet} (hh : Packet.ofHeader bs = h)
    {key : KeySlot} (hkey : (s.port p).recvKey (if h.kidx then 1 else 0) = key) (htype : h.type < 11) (hlen : h.len ≤ 2048)
    (hvalid : key.valid = true)
    (hopen : gcmOpen key.key key.salt h.ctr (bs.take 32) ((bs.drop 32).take (if h.type = typeRead then 0 else h.len))
      (BitVec.ofNat 128 (ofLe ((bs.drop (32 + if h.type = typeRead then 0 else h.len)).take 16))) = some plain)
    (hseq : h.seq = (s.port p).rxseq) (hdev : h.ddev = s.fab.device) (hlost : s.fab.lost.contains h.sdev = false)
    (horig : h.orig = false) (hun : (s.port p).unackRx < 15) :
    s.takePacket p bs = s.modPort p fun x =>
      { x.accepts s.cc (if h.kidx then 1 else 0) with inbox := x.inbox ++ [{ h with payload := plain }] }.stops := by
  subst hh hkey
  unfold State.takePacket
  dsimp only
  rw [if_neg (by omega), if_pos hvalid, hopen]
  dsimp only
  rw [if_pos hseq, if_neg (by omega)]
  refine Eq.trans (State.passOn_local _ p ?dev ?lost ?orig) (State.modPort_modPort s hp _ _)
  case dev => exact hdev
  case lost => exact hlost
  case orig => exact horig

/-- A data beat that holds a whole packet, on a port in frame. -/
theorem State.dataBeat_whole {s : State} {p : Nat} {content : List Byte} (hup : (s.port p).up = true) (hframe : (s.port p).frame = 0)
    (hbeats : (s.port p).beats = []) (hwhole : wholeBytes content ≤ content.length) :
    s.dataBeat p content = (s.modPort p fun x => { x with beats := [], frame := 0 }).takePacket p content := by
  unfold State.dataBeat
  dsimp only
  rw [hup, hframe, hbeats, List.nil_append, if_neg (by decide), if_neg (by omega), if_neg (by decide)]

theorem Port.up_congr {x y : Port} (h : y.state = x.state) : y.up = x.up := by rw [Port.up, h, Port.up]

/-- A packet of one beat that is next in sequence goes into the receive buffer (R328, R330). -/
theorem State.dataBeat_delivers {s : State} {p : Nat} (hp : p < 16) {content plain : List Byte} (hup : (s.port p).up = true)
    (hframe : (s.port p).frame = 0) (hbeats : (s.port p).beats = []) (hcontent : content.length = 64) {h : Packet}
    (hh : Packet.ofHeader content = h) {n : Nat} (hn : n = if h.type = 0 then 0 else h.len) {key : KeySlot}
    (hkey : (s.port p).recvKey (if h.kidx then 1 else 0) = key) (htype : h.type < 11) (hn16 : n ≤ 16) (hlen : h.len ≤ 2048)
    (hvalid : key.valid = true)
    (hopen : gcmOpen key.key key.salt h.ctr (content.take 32) ((content.drop 32).take n)
      (BitVec.ofNat 128 (ofLe ((content.drop (32 + n)).take 16))) = some plain)
    (hseq : h.seq = (s.port p).rxseq) (hdev : h.ddev = s.fab.device) (hlost : s.fab.lost.contains h.sdev = false)
    (horig : h.orig = false) (hun : (s.port p).unackRx < 15) :
    s.dataBeat p content = s.modPort p fun x =>
      { Port.accepts { x with beats := [], frame := 0 } s.cc (if h.kidx then 1 else 0) with
        inbox := x.inbox ++ [{ h with payload := plain }] }.stops := by
  have hport := State.port_modPort_same s hp fun x => { x with beats := [], frame := 0 }
  have hwhole : wholeBytes content ≤ content.length := by
    have hr : typeRead = 0 := rfl
    unfold wholeBytes
    dsimp only
    rw [hh, hr, ← hn, hcontent]
    omega
  rw [State.dataBeat_whole hup hframe hbeats hwhole,
    State.takePacket_delivers (s := s.modPort p fun x => { x with beats := [], frame := 0 }) hp hh (by rw [hport]; exact hkey) htype hlen hvalid (by rw [hn] at hopen; exact hopen)
      (by rw [hport]; exact hseq) hdev hlost horig (by rw [hport]; exact hun)]
  exact State.modPort_modPort s hp _ _

/-! ### Control beats (R330, R340) -/

/-- A control beat that authenticates and carries the code of ACK is to act next. -/
theorem State.controlBeat_ack {s : State} {p : Nat} {c : List Byte} {key : KeySlot}
    (hkey : (s.port p).recvKey (ofLe ((c.drop 10).take 1) % 2) = key) (hvalid : key.valid = true)
    (hopen : (gcmOpen key.key key.salt (BitVec.ofNat 64 (ofLe ((c.drop 2).take 8))) (c.take 48) []
      (BitVec.ofNat 128 (ofLe ((c.drop 48).take 16)))).isSome = true) (hcode : ofLe (c.take 2) = 1) :
    s.controlBeat p c = { s.modPort p fun x => { x with frame := if x.frame = 2 then 0 else x.frame } with
      agenda := s.agenda ++ [.ack p (BitVec.ofNat 32 (ofLe ((c.drop 11).take 4)))] } := by
  subst hkey
  unfold State.controlBeat
  dsimp only
  rw [hvalid, hopen, List.drop_zero, hcode]
  rfl

/-! ### Training and lanes (R333, R343) -/

/-- The sending side of a port once it has put a control beat on the link under a slot (R330). -/
def Port.controlled (x : Port) (k code : Nat) (v : W32) : Port :=
  let ks := x.sendKey k
  let first := leBytes 2 code ++ leBytes 8 ks.ctr.toNat ++ leBytes 1 k ++ leBytes 4 v.toNat ++ List.replicate 33 0
  let tag := (gcmSeal ks.key ks.salt ks.ctr first []).2
  { x with
    slot := k
    send := x.send.setIfInBounds k { ks with ctr := ks.ctr + 1 }
    wire := x.wire ++ [beatOf 2 x.stopOut (first ++ leBytes 16 tag.toNat)] }

theorem State.control_some {s : State} {p k : Nat} (hk : (s.port p).pickSlot = some k) (code : Nat) (v : W32) :
    s.control p code v = s.modPort p fun x => x.controlled k code v := by
  unfold State.control
  rw [hk]
  rfl

/-- Without a key nothing is sent, and a port in training stays so. -/
theorem State.control_none {s : State} {p : Nat} (hk : (s.port p).pickSlot = none) (hup : (s.port p).up = false) (code : Nat) (v : W32) :
    s.control p code v = s := by
  unfold State.control
  rw [hk, hup]
  rfl

/-- What sending leaves of a port's training: its state and its lanes. -/
structure Port.SameLanes (x y : Port) : Prop where
  state : y.state = x.state
  failed : y.failed = x.failed
  retrains : y.retrains = x.retrains

theorem Port.SameLanes.trans {x y z : Port} (h : x.SameLanes y) (k : y.SameLanes z) : x.SameLanes z :=
  ⟨k.state.trans h.state, k.failed.trans h.failed, k.retrains.trans h.retrains⟩

theorem Port.SameLanes.up {x y : Port} (h : x.SameLanes y) : y.up = x.up := by rw [Port.up, h.state, Port.up]

/-- A port in training shows its lanes and its slot by control beats alone (R333). -/
theorem State.control_training {s : State} {p : Nat} (hp : p < 16) (hup : (s.port p).up = false) (code : Nat) (v : W32) :
    s.Sends (s.control p code v) ∧ (s.port p).SameLanes ((s.control p code v).port p) := by
  cases hk : (s.port p).pickSlot with
  | none =>
    rw [State.control_none hk hup]
    exact ⟨.refl s, rfl, rfl, rfl⟩
  | some k =>
    rw [State.control_some hk, State.port_modPort_same s hp]
    exact ⟨s.sends_modPort .., rfl, rfl, rfl⟩

theorem State.showTraining_keeps {s : State} {p : Nat} (hp : p < 16) (hup : (s.port p).up = false) :
    s.Sends (s.showTraining p) ∧ (s.port p).SameLanes ((s.showTraining p).port p) := by
  obtain ⟨hsends, hsame⟩ := State.control_training hp hup codeTraining ((~~~(s.port p).failed).setWidth 32)
  obtain ⟨hsends', hsame'⟩ := State.control_training hp (hsame.up.trans hup) codeKey
    (BitVec.ofNat 32 ((s.control p codeTraining ((~~~(s.port p).failed).setWidth 32)).port p).slot)
  exact ⟨hsends.trans hsends', hsame.trans hsame'⟩

theorem State.Sends.blocks {s t : State} (h : s.Sends t) : t.blocks = s.blocks := by
  obtain ⟨_, _, _, _, rfl⟩ := h
  rfl

theorem State.Sends.mem {s t : State} (h : s.Sends t) : t.mem = s.mem := by
  obtain ⟨_, _, _, _, rfl⟩ := h
  rfl

/-- A port that retrains is in TRAINING, and counts it (R333). -/
theorem State.retrain_keeps {s : State} {p : Nat} (hp : p < 16) :
    s.Sends (s.retrain p) ∧ ((s.retrain p).port p).state = 1 ∧ ((s.retrain p).port p).failed = (s.port p).failed
      ∧ ((s.retrain p).port p).retrains = (s.port p).retrains + 1 := by
  have hport := State.port_modPort_same s hp fun x =>
    { x with state := 1, since := s.time, retrain := true, retrains := x.retrains + 1, beats := [], frame := 0, keysOk := false }
  obtain ⟨hsends, hsame⟩ := State.showTraining_keeps (s := s.modPort p fun x =>
    { x with state := 1, since := s.time, retrain := true, retrains := x.retrains + 1, beats := [], frame := 0, keysOk := false }) hp
    (by rw [hport]; rfl)
  rw [hport] at hsame
  have hpost : (s.retrain p).port p = (State.showTraining _ p).port p := State.port_post _ _ _ p
  refine ⟨((s.sends_modPort ..).trans hsends).trans (State.sends_post _ 0 _), ?_⟩
  rw [hpost]
  exact ⟨hsame.state, hsame.failed, hsame.retrains⟩

theorem State.wearEvent_fab (s : State) (old : Nat) : (s.wearEvent old).fab = s.fab := by
  unfold State.wearEvent
  split
  · rfl
  · exact State.post_fab ..

/-- The port's failed lanes once some more are noted. -/
theorem State.laneLoss_spec {s : State} {p : Nat} (hp : p < 16) (lost : BitVec 18) :
    ((s.laneLoss p lost).port p).failed = (s.port p).failed ||| lost ∧ (s.laneLoss p lost).blocks = s.blocks
      ∧ (s.laneLoss p lost).mem = s.mem
      ∧ ((s.port p).up = true → (∃ l ∈ (s.port p).activeLanes,
          Port.laneGood { s.port p with failed := (s.port p).failed ||| lost } l = false) →
        ((s.laneLoss p lost).port p).state = 1 ∧ ((s.laneLoss p lost).port p).retrains = (s.port p).retrains + 1) := by
  unfold State.laneLoss
  extract_lets t₁ x warn fw t₂ t₃
  have hx : x = { s.port p with failed := (s.port p).failed ||| lost } := State.port_modPort_same s hp _
  have h₂ : t₂.fab = t₁.fab ∧ t₂.blocks = s.blocks ∧ t₂.mem = s.mem := by
    dsimp only [t₂]
    split
    · exact ⟨rfl, rfl, rfl⟩
    · exact ⟨rfl, rfl, rfl⟩
  obtain ⟨hfab, hblocks, hmem⟩ := h₂
  have hport : t₃.port p = x := State.port_congr ((State.wearEvent_fab t₂ _).trans hfab) p
  have hblocks₃ : t₃.blocks = s.blocks := (State.wearEvent_blocks t₂ _).trans hblocks
  have hmem₃ : t₃.mem = s.mem := (State.wearEvent_mem t₂ _).trans hmem
  obtain ⟨hsends, hstate, hfailed, hretrains⟩ := State.retrain_keeps (s := t₃) hp
  rw [hport, hx] at hfailed hretrains
  split
  · exact ⟨hfailed, hsends.blocks.trans hblocks₃, hsends.mem.trans hmem₃, fun _ _ => ⟨hstate, hretrains⟩⟩
  · next hno =>
    refine ⟨by rw [hport, hx], hblocks₃, hmem₃, fun hup hbad => absurd ?_ hno⟩
    obtain ⟨l, hl, hg⟩ := hbad
    rw [hx, Bool.and_eq_true, List.any_eq_true]
    exact ⟨hup, l, hl, by rw [hg]; rfl⟩

end Sys2Proof.Machine

namespace Sys2Proof
open Machine

/-- Settles O46, kind of beat by kind of beat. -/
theorem beatsAreReceived : Obligations.BeatsAreReceived := by
  intro s p content trailer hp h1 h4
  have hhears : (s.hears p trailer).port p = { s.port p with stopIn := trailer.getLsbD 2 } := State.port_modPort_same s hp _
  refine ⟨fun hcrc => ?_, fun hcrc hres => ⟨fun hk => ?_, fun plain hk hup hframe hbeats hlen => ?_, fun hk hvalid hopen hcode => ?_⟩,
    fun l hl => ?_⟩
  · exact ⟨_, exec_beatReceive_badCrc ⟨h1, h4⟩ hcrc, rfl, by rw [Port.lostBeat_eq], by rw [Port.lostBeat_eq], by rw [Port.lostBeat_eq],
      by rw [Port.lostBeat_eq]⟩
  · have h := exec_beatReceive_idle ⟨h1, h4⟩ hcrc hres hk
    rw [State.hears, State.modPort_modPort s hp] at h
    exact ⟨_, h, rfl, rfl, rfl⟩
  · intro h n key htype hn16 hhlen hvalid hopen hseq hdev hlost horig hun
    have hd := State.dataBeat_delivers (s := s.hears p trailer) hp (by rw [hhears]; exact hup) (by rw [hhears]; exact hframe)
      (by rw [hhears]; exact hbeats) hlen rfl rfl (by rw [hhears]; rfl) htype hn16 hhlen hvalid hopen (by rw [hhears]; exact hseq)
      hdev hlost horig (by rw [hhears]; exact hun)
    have h' := exec_beatReceive_data ⟨h1, h4⟩ hcrc hres hk
    rw [hd, State.hears, State.modPort_modPort s hp, Port.stops_eq] at h'
    exact ⟨_, h', rfl, rfl, rfl, rfl, rfl⟩
  · have h := exec_beatReceive_control ⟨h1, h4⟩ hcrc hres hk
    rw [State.controlBeat_ack (by rw [hhears]; rfl) hvalid hopen hcode, State.hears, State.modPort_modPort s hp] at h
    exact ⟨_, h⟩
  · have h : exec (.laneFailure p l) s = .next (s.laneLoss p (BitVec.ofNat 18 (2 ^ l))) := by
      unfold exec execLaneFailure
      dsimp only
      rw [if_pos ⟨hl, hp⟩]
    obtain ⟨hfailed, hblocks, hmem, hretrain⟩ := State.laneLoss_spec (s := s) hp (BitVec.ofNat 18 (2 ^ l))
    refine ⟨_, h, hfailed, hblocks, hmem, fun hup hactive hspare => hretrain hup ⟨l, hactive, ?_⟩⟩
    have hbit : (BitVec.ofNat 18 (2 ^ l)).getLsbD l = true := by rw [BitVec.getLsbD_ofNat, Nat.testBit_two_pow_self]; simp [hl]
    rw [Port.laneGood, BitVec.getLsbD_or, hbit, Bool.or_true, hspare]
    rfl

end Sys2Proof
end

section
/-!
SUPPORT. The sending side of the Stobuvin fabric (R330, R333, R334, R339, R343, R349; 08_sync.md R174): acknowledgements, replays,
training, ports that go DOWN and peers that are lost; O47.
-/

namespace Sys2Proof.Machine

/-! ### Acknowledgements and replays (R330) -/

theorem exec_ack_new {s : State} {p : Nat} {seq : W32} (h : (s.port p).newAck seq = true) :
    exec (.ack p seq) s = .next (s.modPort p fun x => { x.acked seq with sinceAck := s.time }).flushAll := by
  unfold exec execAck
  dsimp only
  rw [if_pos h]

/-- A port in service with something unacknowledged owes it again (R330). -/
theorem State.replay_owes {s : State} {p : Nat} (hup : (s.port p).up = true) (hr : (s.port p).replayB ≠ []) :
    s.replay p = s.modPort p fun x => { x.owe with sinceAck := s.time } := by
  have he : (s.port p).replayB.isEmpty = false := by simpa using hr
  unfold State.replay
  rw [hup, he]
  rfl

theorem exec_replayTimeout_due {s : State} {p : Nat} (h : (s.port p).sinceAck + micros 2 ≤ s.time) :
    exec (.replayTimeout p) s = .next (s.replay p).flushAll := by
  unfold exec execReplayTimeout
  dsimp only
  rw [if_pos h]

/-- The beats of a packet on the link (R328): there is one, and each has 64 bytes. -/
theorem dataBeats_ne_nil (stop : Bool) {bs : List Byte} (h : bs ≠ []) : dataBeats stop bs ≠ [] := by
  have hlen : 0 < bs.length := List.length_pos_iff.2 h
  intro hnil
  have hmap := List.map_eq_nil_iff.1 hnil
  rw [List.range_eq_nil] at hmap
  omega

theorem length_content_of_mem_dataBeats {stop : Bool} {bs : List Byte} {b : Beat} (h : b ∈ dataBeats stop bs) : b.content.length = 64 := by
  obtain ⟨i, -, rfl⟩ := List.mem_map.1 h
  simp only [beatOf, List.length_take, List.length_append, List.length_replicate]
  omega

/-- What transmission changes of a port: the slot's counter, and what the link carries (R328, R340). -/
theorem Port.transmit_spec (x : Port) (k : Nat) (q : Packet) :
    ∃ bs, bs ≠ [] ∧ (∀ b ∈ bs, b.content.length = 64)
      ∧ x.transmit k q = { x with slot := k, send := (x.transmit k q).send, wire := x.wire ++ bs } := by
  refine ⟨_, dataBeats_ne_nil x.stopOut fun h => ?_, fun b hb => length_content_of_mem_dataBeats hb, rfl⟩
  have hlen := congrArg List.length h
  rw [List.length_append, length_leBytes] at hlen
  exact absurd hlen (by simp)

theorem exec_ackTimer_due {s : State} {p k : Nat} (hp : p < 16) (hup : (s.port p).up = true) (hun : 0 < (s.port p).unackRx)
    (hat : (s.port p).rxAt + 256 ≤ s.cc) (horig : (s.port p).origUn = 0) (hk : (s.port p).pickSlot = some k) :
    exec (.ackTimer p) s =
      .next (s.modPort p fun _ => { (s.port p).controlled k codeAck ((s.port p).rxseq - 1) with unackRx := 0 }) := by
  unfold exec execAckTimer
  dsimp only
  rw [hup, decide_eq_true (And.intro hun hat), horig, if_neg (by omega), State.sendAck, State.control_some hk,
    State.modPort_modPort s hp]
  rfl

/-- The low bits of a beat's trailer stand below its CRC. -/
theorem extractLsb'_crc_append (c : BitVec 24) (b : BitVec 8) : (c ++ b).extractLsb' 0 8 = b ∧ (c ++ b).extractLsb' 8 24 = c
    ∧ (c ++ b).extractLsb' 0 2 = b.extractLsb' 0 2 ∧ (c ++ b).getLsbD 2 = b.getLsbD 2 := by
  refine ⟨BitVec.extractLsb'_append_eq_right, BitVec.extractLsb'_append_eq_left, BitVec.eq_of_getLsbD_eq fun i hi => ?_, ?_⟩
  · rw [BitVec.getLsbD_extractLsb', BitVec.getLsbD_extractLsb', BitVec.getLsbD_append, if_pos (by omega)]
  · rw [BitVec.getLsbD_append, if_pos (by decide)]

/-- The trailer of a control beat (R327, R331). -/
theorem beatOf_control_trailer (stop : Bool) (content : List Byte) :
    (beatOf 2 stop content).trailer.extractLsb' 0 2 = 2
      ∧ (beatOf 2 stop content).trailer.getLsbD 2 = stop
      ∧ (beatOf 2 stop content).trailer.extractLsb' 8 24
          = Config.crc24 content ((beatOf 2 stop content).trailer.extractLsb' 0 8) := by
  unfold beatOf
  dsimp only
  obtain ⟨h8, h24, h2, hb⟩ := extractLsb'_crc_append (Config.crc24 content (BitVec.ofNat 8 (2 + if stop then 4 else 0)))
    (BitVec.ofNat 8 (2 + if stop then 4 else 0))
  refine ⟨h2.trans ?_, hb.trans ?_, by rw [h24, h8]⟩
  · cases stop <;> rfl
  · cases stop <;> rfl

theorem List.take_drop_append_append {α : Type} {a v r : List α} {i n : Nat} (ha : a.length = i) (hv : v.length = n) :
    ((a ++ (v ++ r)).drop i).take n = v := by rw [List.drop_left' ha, List.take_left' hv]

/-- The ACK beat's code and value (log 22). -/
theorem Port.controlled_wire (x : Port) (k code : Nat) (v : W32) :
    ∃ b : Beat, (x.controlled k code v).wire = x.wire ++ [b] ∧ b = beatOf 2 x.stopOut b.content
      ∧ b.content.take 2 = leBytes 2 code ∧ (b.content.drop 11).take 4 = leBytes 4 v.toNat := by
  refine ⟨_, rfl, rfl, ?_, ?_⟩
  · simp only [beatOf, List.append_assoc]
    exact List.take_left' (length_leBytes 2 code)
  · unfold beatOf
    dsimp only
    rw [List.append_assoc, List.append_assoc]
    exact List.take_drop_append_append (by simp) (length_leBytes ..)

/-! ### Training (R333) -/

theorem exec_training_notes {s : State} {p : Nat} (good : W32) (h : (s.port p).state = 1 ∨ (s.port p).up = true) :
    exec (.training p good) s = .next (s.laneLoss p (~~~(good.setWidth 18))) := by
  unfold exec execTraining
  dsimp only
  rw [if_pos h]

theorem exec_key_confirms {s : State} {p slot : Nat} (h : (s.port p).state = 1) (hk : (s.port p).pickSlot.isSome = true)
    (hv : ((s.port p).recvKey slot).valid = true) :
    exec (.key p slot) s = .next (s.modPort p fun x => { x with keysOk := true }) := by
  unfold exec execKey
  dsimp only
  rw [if_pos ⟨h, hk, hv⟩]

/-- A port comes up at the best width that its lanes allow, and replays (R333). -/
theorem exec_trainingComplete_up {s : State} {p w : Nat} (h : (s.port p).state = 1)
    (ht : (s.port p).retrain = false ∨ s.time < (s.port p).since + micros 8) (hw : (s.port p).width = some w)
    (hk : (s.port p).keysOk = true) :
    exec (.trainingComplete p) s =
      let t := s.modPort p fun x => { x with state := w, since := s.time, sinceAck := s.time, retrain := false }
      .next ((State.replay (if (s.port p).retrain then t.linkEvent p w 0 else t) p).flushAll.noteRoutes) := by
  have hin : ¬((s.port p).state ≠ 1 ∨ (s.port p).retrain = true ∧ (s.port p).since + micros 8 ≤ s.time) := by
    rcases ht with ht | ht
    · simp [h, ht]
    · rintro (hs | ⟨-, hs⟩)
      · exact hs h
      · omega
  unfold exec execTrainingComplete
  dsimp only
  rw [if_neg hin, hw]
  dsimp only
  rw [if_pos hk]

/-- What a replay leaves of a port's state. -/
theorem State.replay_keeps (s : State) {p : Nat} (hp : p < 16) :
    s.Sends (s.replay p) ∧ ((s.replay p).port p).state = (s.port p).state ∧ ((s.replay p).port p).stopIn = (s.port p).stopIn := by
  unfold State.replay
  split
  · rw [State.port_modPort_same s hp]
    exact ⟨s.sends_modPort .., rfl, rfl⟩
  · exact ⟨.refl s, rfl, rfl⟩

/-! ### Going DOWN, and the routes of a DOWN port (R334) -/

/-- Choosing a relay changes a port's relay alone, or owes a replay from now on. -/
theorem State.reroute_port (s : State) (p : Nat) :
    ∃ r, s.reroute p = s ∨ s.reroute p = s.modPort p (fun x => { x with relay := r })
      ∨ s.reroute p = s.modPort p fun x => { x.owe with relay := r, origAt := s.time } := by
  unfold State.reroute
  dsimp only
  split_ifs
  · exact ⟨none, .inr (.inl rfl)⟩
  · exact ⟨none, .inl rfl⟩
  · exact ⟨none, .inl rfl⟩
  · exact ⟨_, .inr (.inr rfl)⟩

/-- Choosing a relay leaves the port's state and space as they are, and what it owes is at most owed anew. -/
theorem State.reroute_keeps (s : State) {p : Nat} (hp : p < 16) :
    ((s.reroute p).port p).state = (s.port p).state ∧ ((s.reroute p).port p).replayB = (s.port p).replayB
      ∧ ((s.reroute p).port p).txseq = (s.port p).txseq
      ∧ ((s.port p).owed = (s.port p).replayB → ((s.reroute p).port p).owed = (s.port p).replayB)
      ∧ ((s.port p).owedNew = true → ((s.reroute p).port p).owedNew = true)
      ∧ ((s.port p).origAt = s.time → ((s.reroute p).port p).origAt = s.time) := by
  obtain ⟨r, h | h | h⟩ := s.reroute_port p
  · rw [h]
    exact ⟨rfl, rfl, rfl, id, id, id⟩
  · rw [h, State.port_modPort_same s hp]
    exact ⟨rfl, rfl, rfl, id, id, id⟩
  · rw [h, State.port_modPort_same s hp]
    exact ⟨rfl, rfl, rfl, fun _ => rfl, fun _ => rfl, fun _ => rfl⟩

theorem State.goDown_state (s : State) {p : Nat} (hp : p < 16) (reason : Nat) : ((s.goDown p reason).port p).state = 5 := by
  unfold State.goDown
  extract_lets t
  have ht : (t.port p).state = 5 := congrArg Port.state (State.port_modPort_same s hp _)
  calc ((((t.reroute p).linkEvent p 5 reason).noteRoutes).port p).state
      = (((t.reroute p).linkEvent p 5 reason).port p).state := rfl
    _ = ((t.reroute p).port p).state := congrArg Port.state (State.port_post _ _ _ p)
    _ = 5 := (t.reroute_keeps hp).1.trans ht

theorem exec_retrainingTimeout_down {s : State} {p : Nat} (h : (s.port p).state = 1) (hr : (s.port p).retrain = true)
    (ht : (s.port p).since + micros 8 ≤ s.time) : exec (.retrainingTimeout p) s = .next (s.goDown p 0).flushAll := by
  unfold exec execRetrainingTimeout
  dsimp only
  rw [if_pos ⟨h, hr, ht⟩]

theorem exec_origReplayTimeout_owes {s : State} {p : Nat} (h : (s.port p).state = 5) (hr : (s.port p).replayB ≠ [])
    (ht : (s.port p).origAt + micros 4 ≤ s.time) :
    exec (.origReplayTimeout p) s =
      .next ((s.modPort p fun x => { x.owe with relay := s.relayFor (s.peerDev p), origAt := s.time }).reroute p).flushAll.noteRoutes := by
  unfold exec execOrigReplayTimeout
  dsimp only
  rw [if_pos ⟨h, hr, ht⟩]

/-! ### One packet sent (R330, R334, R343) -/

/-- A port first sends again what it owes. -/
theorem State.send1_owed {s : State} {p : Nat} {q : Packet} {qs : List Packet} (ho : (s.port p).owed = q :: qs) (k : Nat) :
    s.send1 p k = some (s.modPort p fun x => { (x.transmit k q).replayed1 with sinceAck := s.time }) := by
  unfold State.send1
  dsimp only
  rw [ho]

/-- It then sends what a DOWN port owes of which it is the alternative route. -/
theorem State.send1_lent {s : State} {a p : Nat} {q : Packet} {qs : List Packet} (hown : (s.port a).owed = [])
    (hlend : (s.lenders a).find? (fun r => !(s.port r).owed.isEmpty) = some p) (ho : (s.port p).owed = q :: qs)
    (hroom : (s.port a).hasRoom q = true) (k : Nat) :
    s.send1 a k = some ((s.sendNew a k (q.lend p)).modPort p fun y => { y.replayed1 with origAt := s.time }) := by
  unfold State.send1
  dsimp only
  rw [hown]
  dsimp only
  rw [hlend]
  dsimp only
  rw [ho]
  dsimp only
  rw [if_pos hroom]

/-! ### Peers without a route (R339) -/

/-- A fold that changes each port of a list once. -/
theorem State.port_foldl {F : State → Nat → State} {f : Port → Port}
    (hF : ∀ t m n, m < 16 → (F t m).port n = if n = m then f (t.port m) else t.port n) (xs : List Nat) (hx : ∀ m ∈ xs, m < 16)
    (hnd : xs.Nodup) (s : State) (n : Nat) : (xs.foldl F s).port n = if n ∈ xs then f (s.port n) else s.port n := by
  induction xs generalizing s with
  | nil => simp
  | cons m xs ih =>
    obtain ⟨hm, hnd⟩ := List.nodup_cons.1 hnd
    rw [List.foldl_cons, ih (fun m' h => hx m' (List.mem_cons_of_mem _ h)) hnd, hF s m n (hx m List.mem_cons_self)]
    by_cases hn : n = m
    · simp [hn, hm]
    · simp [hn]

theorem State.port_modPort (s : State) {m : Nat} (hm : m < 16) (f : Port → Port) (n : Nat) :
    (s.modPort m f).port n = if n = m then f (s.port m) else s.port n := by
  by_cases hn : n = m
  · rw [if_pos hn, hn, State.port_modPort_same s hm]
  · rw [if_neg hn, State.port_modPort_other s hn]

/-- What sending leaves of the ports: their receive buffers and their peers, and the LOST ones are LOST. -/
def State.KeepsLost (s t : State) : Prop :=
  ∀ n, n < 16 → (t.port n).inbox = (s.port n).inbox ∧ ((s.port n).state = 6 → (t.port n).state = 6)

namespace State.KeepsLost

variable {s t u : State}

theorem refl (s : State) : s.KeepsLost s := fun _ _ => ⟨rfl, id⟩

theorem trans (h : s.KeepsLost t) (k : t.KeepsLost u) : s.KeepsLost u := fun n hn =>
  ⟨(k n hn).1.trans (h n hn).1, fun h6 => (k n hn).2 ((h n hn).2 h6)⟩

theorem of_ports (h : ∀ n, t.port n = s.port n) : s.KeepsLost t := fun n _ => by rw [h n]; exact ⟨rfl, id⟩

theorem modPort (s : State) (p : Nat) {f : Port → Port} (hi : (f (s.port p)).inbox = (s.port p).inbox)
    (h6 : (s.port p).state = 6 → (f (s.port p)).state = 6) : s.KeepsLost (s.modPort p f) := fun n hn => by
  by_cases hp : n = p
  · subst hp
    rw [State.port_modPort_same s hn]
    exact ⟨hi, h6⟩
  · rw [State.port_modPort_other s hp]
    exact ⟨rfl, id⟩

theorem post (s : State) (f : Nat) (e : CEntry) : s.KeepsLost (s.post f e) := of_ports (State.port_post s f e)

theorem reroute (s : State) (p : Nat) : s.KeepsLost (s.reroute p) := by
  obtain ⟨r, h | h | h⟩ := s.reroute_port p
  · rw [h]
    exact refl s
  · rw [h]
    exact modPort s p rfl id
  · rw [h]
    exact modPort s p rfl id

theorem goDown (s : State) {p : Nat} (h : (s.port p).state ≠ 6) (reason : Nat) : s.KeepsLost (s.goDown p reason) :=
  ((modPort s p rfl fun h6 => absurd h6 h).trans (reroute _ p)).trans (post _ _ _)

theorem sendNew (s : State) (a k : Nat) (q : Packet) : s.KeepsLost (s.sendNew a k q) := modPort s a rfl id

theorem send1 {a k : Nat} (h : s.send1 a k = some t) : s.KeepsLost t := by
  unfold State.send1 at h
  dsimp only at h
  split at h
  · cases h
    exact modPort s a rfl id
  · split at h
    · split at h
      · split at h
        · cases h
          exact (sendNew s _ _ _).trans (modPort _ _ rfl id)
        · cases h
      · cases h
    · split at h
      · cases h
      · split at h
        · cases h
        · split at h <;> cases h
          · exact (modPort s _ rfl id).trans (sendNew _ _ _ _)
          · exact (modPort s _ rfl id).trans (sendNew _ _ _ _)

theorem flush (s : State) (a n : Nat) : s.KeepsLost (s.flush a n) := by
  induction n generalizing s with
  | zero => exact refl s
  | succ n ih =>
    unfold State.flush
    split
    · exact refl s
    · next hsend =>
      have hup : (s.port a).state ≠ 6 := fun h6 => hsend (by simp [Port.canSend, Port.up, h6])
      split
      · exact goDown s hup 2
      · split
        · exact refl s
        · next h => exact (send1 h).trans (ih _)

theorem foldl {α : Type} {f : State → α → State} (h : ∀ (s : State) (x : α), s.KeepsLost (f s x)) (xs : List α) (s : State) :
    s.KeepsLost (xs.foldl f s) := State.foldl_of_step refl trans h xs s

theorem idle (x : Port) : x.idle.inbox = x.inbox ∧ x.idle.state = x.state := by
  unfold Port.idle
  dsimp only
  split <;> exact ⟨rfl, rfl⟩

theorem flushAll (s : State) : s.KeepsLost s.flushAll := by
  unfold State.flushAll
  refine trans (foldl (fun t p => ?reroute) (List.range 16) s) (foldl (fun t a => ?flush) (List.range 16) _)
  case reroute =>
    split
    · exact reroute t p
    · exact refl t
  case flush =>
    dsimp only
    split
    · exact (flush t _ _).trans (modPort _ a (idle _).1 fun h6 => (idle _).2.trans h6)
    · exact flush t _ _

theorem send (s : State) (q : Packet) : s.KeepsLost (s.send q) := by
  unfold State.send
  split
  · exact refl s
  · split
    · exact refl s
    · refine trans ?_ (flushAll _)
      unfold State.enqueue
      refine modPort s _ ?_ ?_
      · split <;> rfl
      · split <;> exact id

theorem regrant (s : State) : s.KeepsLost s.regrant := by
  unfold State.regrant
  split
  · exact refl s
  · dsimp only
    refine trans (of_ports fun _ => rfl) (foldl (fun t d => ?_) _ _)
    split
    · exact trans (of_ports fun _ => rfl) (send _ _)
    · exact refl t

end State.KeepsLost

theorem State.lost_foldl {α : Type} {f : State → α → State} (h : ∀ s x, (f s x).fab.lost = s.fab.lost) (xs : List α) (s : State) :
    (xs.foldl f s).fab.lost = s.fab.lost :=
  State.foldl_of_step (keeps := fun s t => t.fab.lost = s.fab.lost) (fun _ => rfl) (fun h k => k.trans h) h xs s

theorem State.lost_regrant (s : State) : s.regrant.fab.lost = s.fab.lost := by
  have hstep : ∀ (t : State) (d n : Nat), (t.modPace d fun c => { c with grantOut := n }).fab.lost = t.fab.lost := fun _ _ _ => rfl
  unfold State.regrant
  split
  · rfl
  · dsimp only
    refine Eq.trans (State.lost_foldl (fun t d => ?_) _ _) rfl
    split
    · exact (State.MapsAs.of_sends (State.sends_send _ _)).lost
    · rfl

/-- A port to a lost peer (R339). -/
def Port.lose (x : Port) (now : Nat) : Port :=
  { x with
    state := 6
    since := now
    txq := []
    replayB := []
    owed := []
    beats := []
    frame := 0
    relay := none }

/-- A port without what has come from a peer, and without what waits to be sent to it. -/
def Port.forget (x : Port) (dev : Nat) : Port :=
  { x with
    inbox := x.inbox.filter fun q => q.sdev != dev
    txq := x.txq.filter fun q => q.ddev != dev }.stops

theorem Port.forget_eq (x : Port) (dev : Nat) :
    x.forget dev = { x with
      inbox := x.inbox.filter fun q => q.sdev != dev
      txq := x.txq.filter fun q => q.ddev != dev
      stopOut := (x.forget dev).stopOut
      wire := (x.forget dev).wire } := Port.stops_eq _

theorem State.stopCmds_fab (s : State) (dev : Nat) : (s.stopCmds dev).fab = s.fab := by
  unfold State.stopCmds
  refine State.foldl_of_step (keeps := fun s t => t.fab = s.fab) (fun _ => rfl) (fun h k => k.trans h) (fun t k => ?_) _ _
  split
  · split <;> rfl
  · rfl

/-- What is left of a peer that is declared lost and that no transaction is open with (R339). -/
theorem State.declareLost_spec {s : State} {dev : Nat} (hno : ∀ t ∈ s.fab.txns, t.dev ≠ dev) (hself : dev ≠ s.fab.device)
    (hpres : s.fab.present dev = true) (hlost : s.fab.lost.contains dev = false) :
    ∃ t : State, s.declareLost dev = t.flushAll.noteRoutes ∧ dev ∈ t.fab.lost
      ∧ (∀ n, n < 16 → (t.port n).inbox = (s.port n).inbox.filter fun r => r.sdev != dev)
      ∧ ∀ n, n < 16 → (s.port n).peer.map (·.1) = some dev → (t.port n).state = 6 := by
  have hgone : (s.fab.txns.filter fun x => x.dev == dev) = [] :=
    List.filter_eq_nil_iff.2 fun t ht => by simpa using hno t ht
  have hcond : (s.fab.lost.contains dev || dev == s.fab.device || !s.fab.present dev) = false := by
    rw [hlost, hpres, beq_eq_false_iff_ne.2 hself]
    rfl
  unfold State.declareLost
  rw [hcond, hgone, if_neg Bool.false_ne_true]
  extract_lets gone f t₁ t₂ t₃ ports t₄ t₅
  have h₃ : ∀ n, t₃.port n = if n ∈ List.range 16 then (s.port n).forget dev else s.port n := fun n =>
    State.port_foldl (f := fun x => x.forget dev) (fun t m n hm => State.port_modPort t hm _ n) (List.range 16)
      (fun m hm => List.mem_range.1 hm) List.nodup_range t₂ n
  have h₃' : ∀ n, n < 16 → t₃.port n = (s.port n).forget dev := fun n hn => (h₃ n).trans (if_pos (List.mem_range.2 hn))
  have h₄ : ∀ n, t₄.port n = if n ∈ ports then (t₃.port n).lose s.time else t₃.port n := fun n =>
    State.port_foldl (f := fun x => x.lose s.time)
      (fun t m n hm => (State.port_post _ 0 _ n).trans (State.port_modPort t hm _ n)) ports
      (fun m hm => List.mem_range.1 (List.mem_of_mem_filter hm)) (List.nodup_range.filter _) t₃ n
  have h₅ : ∀ n, t₅.port n = t₄.port n := State.port_congr (State.stopCmds_fab t₄ dev)
  have hregrant := State.KeepsLost.regrant t₅
  refine ⟨t₅.regrant, rfl, ?_, fun n hn => ?_, fun n hn hpeer => (hregrant n hn).2 ?_⟩
  · have hmem : t₅.fab.lost = dev :: s.fab.lost := by
      have h₃l : t₃.fab.lost = t₂.fab.lost := State.lost_foldl (fun _ _ => rfl) (List.range 16) t₂
      have h₄l : t₄.fab.lost = t₃.fab.lost := 
        State.lost_foldl (fun t n => by exact Eq.trans (congrArg Fabric.lost (State.post_fab _ 0 _)) rfl) ports t₃
      have h₅l : t₅.fab.lost = t₄.fab.lost := congrArg Fabric.lost (State.stopCmds_fab t₄ dev)
      rw [h₅l, h₄l, h₃l]
      rfl
    rw [State.lost_regrant, hmem]
    exact List.mem_cons_self
  · rw [(hregrant n hn).1, h₅, h₄, h₃' n hn, Port.forget_eq]
    split <;> rfl
  · have hin : n ∈ ports :=
      List.mem_filter.2 ⟨List.mem_range.2 hn, decide_eq_true hpeer⟩
    rw [h₅, h₄, if_pos hin]
    rfl

/-- A peer that has had no route for 10 µs is declared lost. -/
theorem exec_peerLossTimeout_due {s : State} {q : Nat × Nat} (h : s.noteRoutes.fab.noRoute.find? (fun r => r.1 == q.1) = some q)
    (ht : q.2 + micros 10 ≤ s.time) : exec (.peerLossTimeout q.1) s = .next (s.noteRoutes.declareLost q.1) := by
  unfold exec execPeerLossTimeout
  dsimp only
  rw [h]
  dsimp only
  rw [if_pos ht]

/-- What a fence waits on at a lost peer is resolved (R174). -/
theorem exec_fencePeerTimeout_one {s : State} {blk grp : Nat} {w : Req × Nat} (h : s.lostWaits blk grp = [w]) :
    exec (.fencePeerTimeout blk grp) s = .next (s.peerLostFate w.1 w.2).pruneEntries := by
  unfold exec execFencePeerTimeout
  dsimp only
  rw [h]
  rfl

/-- A store or a reduction that a lost peer leaves open is reported lost (R174). -/
theorem State.peerLostFate_stores (s : State) {r : Req} (dev : Nat) (hk : r.kind ≠ .cctl) (hf : r.fetches = false) :
    s.peerLostFate r dev = (s.modGroup r.blk r.grp fun g => g.flags (lostBits dev)).endZero r := by
  unfold State.peerLostFate
  rw [if_neg hk, hf]
  rfl

end Sys2Proof.Machine

namespace Sys2Proof
open Machine

/-- Settles O47, clause by clause. -/
theorem linksAcknowledgeReplayAndTrain : Obligations.LinksAcknowledgeReplayAndTrain := by
  intro s p hp
  refine ⟨fun seq hnew => ⟨_, exec_ack_new hnew, rfl, rfl, rfl, rfl, rfl⟩, fun hup hr => ?replays, fun k q qs ho => ⟨?again, ?lent⟩,
    fun good h => ?lanes, fun slot h hk hv => exec_key_confirms h hk hv, fun hup hun hat horig hk => ?acks,
    fun w h ht hw hk _ => ?up, fun h hr ht => ?down, fun h hr ht => ?orig, fun q hq ht => ⟨exec_peerLossTimeout_due hq ht, ?lost⟩,
    fun blk grp w hw => ⟨exec_fencePeerTimeout_one hw, fun hf hk _ _ => State.peerLostFate_stores s w.2 hk hf⟩⟩
  case replays =>
    refine ⟨{ (s.port p).owe with sinceAck := s.time }, fun n => ?_, fun ht => (exec_replayTimeout_due ht).trans ?_, rfl, rfl, rfl, rfl, rfl⟩
    · exact congrArg (fun t : State => Host.Outcome.next t.flushAll) (State.replay_owes hup hr)
    · exact congrArg (fun t : State => Host.Outcome.next t.flushAll) (State.replay_owes hup hr)
  case again =>
    obtain ⟨bs, hne, hlen, ht⟩ := (s.port p).transmit_spec k q
    refine ⟨_, State.send1_owed ho k, ?_⟩
    rw [State.port_modPort_same s hp, ht]
    refine ⟨by simp [Port.replayed1, ho], rfl, ?_, rfl, rfl, rfl, bs, rfl, hne, hlen⟩
    dsimp only [Port.replayed1]
    split <;> simp
  case lent =>
    intro a ha hap hown hroom hlend
    refine ⟨_, State.send1_lent hown hlend ho hroom k, ?_⟩
    have hother : (s.sendNew a k (q.lend p)).port p = s.port p := State.port_modPort_other s hap.symm _
    have hsame : (s.sendNew a k (q.lend p)).port a = _ := State.port_modPort_same s ha _
    rw [State.port_modPort_same _ hp, State.port_modPort_other _ hap, hother, hsame]
    refine ⟨by simp [Port.replayed1, ho], ?_, rfl, rfl, rfl⟩
    dsimp only [Port.replayed1]
    split <;> simp
  case lanes =>
    obtain ⟨hfailed, hblocks, hmem, -⟩ := State.laneLoss_spec (s := s) hp (~~~(good.setWidth 18))
    exact ⟨_, exec_training_notes good h, hfailed, hblocks, hmem⟩
  case acks =>
    obtain ⟨k, hk⟩ := Option.isSome_iff_exists.1 hk
    obtain ⟨b, hwire, hb, hcode, hval⟩ := (s.port p).controlled_wire k codeAck ((s.port p).rxseq - 1)
    have htr := beatOf_control_trailer (s.port p).stopOut b.content
    rw [← hb] at htr
    exact ⟨_, b, exec_ackTimer_due hp hup hun hat horig hk, rfl, hwire, htr.1, htr.2.1, htr.2.2, hcode, hval, rfl⟩
  case up =>
    refine ⟨_, exec_trainingComplete_up h ht hw hk, ?_⟩
    generalize hu : (if (s.port p).retrain = true then _ else _ : State) = u
    have hport : u.port p = { s.port p with state := w, since := s.time, sinceAck := s.time, retrain := false } := by
      rw [← hu, ← State.port_modPort_same s hp fun x => { x with state := w, since := s.time, sinceAck := s.time, retrain := false }]
      split
      · exact State.port_post _ 0 _ p
      · rfl
    have hs : s.Sends u := by
      rw [← hu]
      split
      · exact (s.sends_modPort ..).trans (State.sends_post _ 0 _)
      · exact s.sends_modPort ..
    obtain ⟨hr, hstate, hstop⟩ := u.replay_keeps hp
    rw [hport] at hstate hstop
    exact ⟨hstate, hstop, (hs.trans hr).blocks, (hs.trans hr).mem⟩
  case down =>
    exact ⟨_, exec_retrainingTimeout_down h hr ht, s.goDown_state hp 0, (s.sends_goDown p 0).blocks, (s.sends_goDown p 0).mem⟩
  case orig =>
    refine ⟨_, exec_origReplayTimeout_owes h hr ht, ?_⟩
    have hk := State.reroute_keeps (s.modPort p fun x => { x.owe with relay := s.relayFor (s.peerDev p), origAt := s.time }) hp
    rw [State.port_modPort_same s hp] at hk
    obtain ⟨-, hbuf, hseq, howed, hnew, hat⟩ := hk
    exact ⟨howed rfl, hnew rfl, hat rfl, hbuf, hseq⟩
  case lost =>
    intro hno hself hpres hlost
    exact State.declareLost_spec (s := s.noteRoutes) hno hself hpres hlost

end Sys2Proof
end

section
/-!
SUPPORT. Device memory byte by byte under its keys (R208, R357), and the packets that a port's receive buffer holds (R328, R329,
R332, R335 to R338, R344, R348); O48.
-/

namespace Sys2Proof.Machine

/-! ### Association lists -/

theorem assocGet_cons_below {c : Nat × Nat} {m : List (Nat × Nat)} {a : Nat} (h : a < c.1) : assocGet (c :: m) a = 0 := by
  rw [assocGet, if_neg (by omega), if_pos h]

theorem assocGet_below {m : List (Nat × Nat)} {a : Nat} (h : ∀ d ∈ m, a < d.1) : assocGet m a = 0 := by
  cases m with
  | nil => rfl
  | cons c m => exact assocGet_cons_below (h c List.mem_cons_self)

theorem assocGet_assocPut_same {m : List (Nat × Nat)} (a v : Nat) (h : assocWf m = true) : assocGet (assocPut m a v) a = v := by
  induction m with
  | nil => by_cases hv : v = 0 <;> simp [assocPut, assocGet, hv]
  | cons c m ih =>
    obtain ⟨-, hm, hwf⟩ := (assocWf_cons c m).1 h
    unfold assocPut
    split
    next hlt =>
      split
      next hv => rw [assocGet_cons_below hlt, hv]
      next => simp [assocGet]
    next hlt =>
      split
      next he =>
        split
        next hv => rw [assocGet_below (fun d hd => he ▸ hm d hd), hv]
        next => simp [assocGet]
      next hne => rw [assocGet, if_neg (by omega), if_neg hlt, ih hwf]

theorem assocGet_assocPut_other {m : List (Nat × Nat)} {a b : Nat} (v : Nat) (h : assocWf m = true) (hab : b ≠ a) :
    assocGet (assocPut m a v) b = assocGet m b := by
  induction m with
  | nil => by_cases hv : v = 0 <;> simp [assocPut, assocGet, hv, hab.symm]
  | cons c m ih =>
    obtain ⟨-, hm, hwf⟩ := (assocWf_cons c m).1 h
    unfold assocPut
    split
    next hlt =>
      split
      next => rfl
      next =>
        by_cases hb : b < c.1
        · rw [assocGet, if_neg (Ne.symm hab), assocGet_cons_below hb]
          exact ite_self 0
        · rw [assocGet, if_neg (Ne.symm hab), if_neg (by omega)]
    next hlt =>
      split
      next he =>
        have hbc : c.1 ≠ b := fun e => hab (e ▸ he.symm)
        split
        next =>
          rw [assocGet, if_neg hbc]
          split
          next hb => exact assocGet_below fun d hd => Nat.lt_trans hb (hm d hd)
          next => rfl
        next => rw [assocGet, if_neg (Ne.symm hab), assocGet, if_neg hbc, he]
      next => rw [assocGet, assocGet, ih hwf]

/-! ### Device memory under its keys (R357) -/

namespace Store

variable {m : Store} {k pa : Nat}

/-- A byte under a key is its place in its block of 16 bytes under that key. -/
theorem get_eq_block (m : Store) (k pa : Nat) : m.get k pa = (m.block k (pa / 16)).getD (pa % 16) 0 := by
  have hlt : pa % 16 < 16 := Nat.mod_lt _ (by decide)
  unfold Store.get
  split
  next h =>
    unfold Store.block Memory.read
    rw [if_pos h, List.getD_eq_getElem?_getD, List.getElem?_map, List.getElem?_range hlt, Option.map_some, Option.getD_some,
      Nat.div_add_mod]
  next => rfl

theorem length_block (m : Store) (k b : Nat) : (m.block k b).length = 16 := by
  unfold Store.block
  split
  · exact Memory.length_read ..
  · exact length_leBytes ..

/-- A block depends on its own bytes and its own key. -/
theorem block_congr {m n : Store} {b : Nat} (hkey : assocGet m.keys b = assocGet n.keys b)
    (hcells : ∀ i, i < 16 → m.cells.get (16 * b + i) = n.cells.get (16 * b + i)) (k : Nat) : m.block k b = n.block k b := by
  unfold Store.block
  rw [hkey, Memory.read_congr hcells]

theorem keys_put (h : m.wf = true) (v : Byte) (b : Nat) :
    assocGet (m.put k pa v).keys b = if b = pa / 16 then k else assocGet m.keys b := by
  obtain ⟨-, hkeys⟩ := wf_iff.1 h
  unfold Store.put
  split
  next hk =>
    split
    next hb => rw [hb, hk]
    next => rfl
  next =>
    split
    next hb => rw [hb, assocGet_assocPut_same _ _ hkeys]
    next hb => exact assocGet_assocPut_other _ hkeys hb

theorem cells_put (h : m.wf = true) (v : Byte) (a : Nat) :
    (m.put k pa v).cells.get a = if a = pa then v else if a / 16 = pa / 16 then m.get k a else m.cells.get a := by
  obtain ⟨hcells, -⟩ := wf_iff.1 h
  unfold Store.put
  split
  next hk =>
    split
    next ha => rw [ha, Memory.get_put_same _ _ _ hcells]
    next ha =>
      rw [Memory.get_put_other _ _ _ _ hcells ha]
      split
      next hb => rw [Store.get, if_pos (by rw [hb, hk])]
      next => rfl
  next hk =>
    have hwf := Memory.wf_write m.cells (16 * (pa / 16)) (m.block k (pa / 16)) hcells
    split
    next ha => rw [ha, Memory.get_put_same _ _ _ hwf]
    next ha =>
      rw [Memory.get_put_other _ _ _ _ hwf ha, Memory.get_write _ _ _ _ hcells, length_block]
      have hiff : (16 * (pa / 16) ≤ a ∧ a < 16 * (pa / 16) + 16) ↔ a / 16 = pa / 16 := by omega
      simp only [hiff]
      split
      next hb =>
        rw [get_eq_block, hb]
        congr 1
        omega
      next => rfl

/-- A byte that is written reads back under its key. -/
theorem get_put_same (h : m.wf = true) (v : Byte) : (m.put k pa v).get k pa = v := by
  rw [Store.get, keys_put h, if_pos rfl, if_pos rfl, cells_put h, if_pos rfl]

/-- Every other byte reads as before under that key. -/
theorem get_put_other (h : m.wf = true) (v : Byte) {a : Nat} (ha : a ≠ pa) : (m.put k pa v).get k a = m.get k a := by
  by_cases hb : a / 16 = pa / 16
  · rw [Store.get, keys_put h, if_pos hb, if_pos rfl, cells_put h, if_neg ha, if_pos hb]
  · rw [get_eq_block, get_eq_block, block_congr (n := m)]
    · rw [keys_put h, if_neg hb]
    · intro i hi
      rw [cells_put h, if_neg (by omega), if_neg (by omega)]

/-- Every byte of another block reads as before under any key. -/
theorem get_put_block (h : m.wf = true) (v : Byte) {a : Nat} (hb : a / 16 ≠ pa / 16) (j : Nat) : (m.put k pa v).get j a = m.get j a := by
  rw [get_eq_block, get_eq_block, block_congr (n := m)]
  · rw [keys_put h, if_neg hb]
  · intro i hi
    rw [cells_put h, if_neg (by omega), if_neg (by omega)]

/-- What a write leaves at an address under its key: the byte written there, or what was there. -/
theorem get_write (h : m.wf = true) (bs : List Byte) (a : Nat) :
    (m.write k pa bs).get k a = if pa ≤ a ∧ a < pa + bs.length then bs.getD (a - pa) 0 else m.get k a := by
  induction bs generalizing m pa with
  | nil => rw [if_neg (by simp)]; rfl
  | cons b bs ih =>
    rw [Store.write, ih (put_keeps_wf h), List.length_cons]
    by_cases ha : a = pa
    · rw [if_neg (by omega), ha, get_put_same h, if_pos (by omega), Nat.sub_self]
      rfl
    · rw [get_put_other h b ha]
      by_cases hin : pa + 1 ≤ a ∧ a < pa + 1 + bs.length
      · rw [if_pos hin, if_pos (by omega), show a - pa = a - (pa + 1) + 1 by omega]
        rfl
      · rw [if_neg hin, if_neg (by omega)]

/-- A write leaves the blocks that it does not meet as they are, under any key. -/
theorem get_write_block (h : m.wf = true) (bs : List Byte) {a : Nat}
    (ha : a < pa / 16 * 16 ∨ (pa + bs.length + 15) / 16 * 16 ≤ a) (j : Nat) : (m.write k pa bs).get j a = m.get j a := by
  induction bs generalizing m pa with
  | nil => rfl
  | cons b bs ih =>
    rw [List.length_cons] at ha
    rw [Store.write, ih (put_keeps_wf h) (by omega), get_put_block h b (by omega)]

end Store

/-! ### Packets at the head of a receive buffer (R335, R367) -/

/-- The state once the packet at the head of a port's receive buffer has been taken from it. -/
def State.taken (s : State) (p : Nat) (rest : List Packet) : State := s.modPort p fun x => { x with inbox := rest }.stops

theorem State.arrived_head {s : State} {p ty : Nat} {q : Packet} {rest : List Packet} (hin : (s.port p).inbox = q :: rest)
    (hholds : s.holdsInbound = false) (hfirst : s.notFirst p q = false) (hty : q.type = ty) :
    s.arrived p ty q = some (s.taken p rest) := by
  unfold State.arrived
  rw [hin]
  dsimp only
  rw [if_pos ⟨rfl, hty, hholds, hfirst⟩]
  rfl

section Performed

variable {s : State} {p : Nat} {q : Packet} {t : State}

theorem exec_read_refuses (ha : s.arrived p typeRead q = some t) (hw : t.windowFor q q.len false = none) :
    exec (.read p q) s = .next (t.refusePacket q 4 q.len) := by
  unfold exec execRead
  dsimp only
  rw [ha]
  dsimp only
  rw [hw]

theorem exec_read_reads (ha : s.arrived p typeRead q = some t) {w : Window} (hw : t.windowFor q q.len false = some w)
    (hp : t.mem.poisoned q.addr q.len = false) :
    exec (.read p q) s = .next (t.reply q 3 (t.mem.read (t.keySerial w.key) q.addr q.len)) := by
  unfold exec execRead
  dsimp only
  rw [ha]
  dsimp only
  rw [hw]
  dsimp only
  rw [hp]
  rfl

theorem exec_write_refuses (ha : s.arrived p typeWrite q = some t) (hm : q.masked = false)
    (hw : t.windowFor q q.payload.length true = none) :
    exec (.write p q) s = .next ((t.refusePacket q 4 q.payload.length).ingressFreed q.sdev q.payload.length) := by
  unfold exec execWrite
  dsimp only
  rw [ha]
  dsimp only
  rw [hm, if_neg Bool.false_ne_true, hw]

theorem exec_write_writes (ha : s.arrived p typeWrite q = some t) (hm : q.masked = false) {w : Window}
    (hw : t.windowFor q q.payload.length true = some w) :
    exec (.write p q) s = .next ((State.reply { t with
      mem := (t.mem.write (t.keySerial w.key) q.addr q.payload).unpoison q.addr q.payload.length } q 5 []).ingressDone
        q.sdev q.payload.length) := by
  unfold exec execWrite
  dsimp only
  rw [ha]
  dsimp only
  rw [hm, if_neg Bool.false_ne_true, hw]
  rfl

theorem exec_atomPacket_refuses (ha : s.arrived p typeAtom q = some t) (hw : t.windowFor q q.atomSize true = none) :
    exec (.atomPacket p q) s = .next ((t.refusePacket q 4 q.atomSize).ingressFreed q.sdev q.payload.length) := by
  unfold exec execAtomPacket
  dsimp only
  rw [ha]
  dsimp only
  rw [hw]

/-- An ATOM of one operand performs its operation on what memory holds (R336). -/
theorem exec_atomPacket_one (ha : s.arrived p typeAtom q = some t) {w : Window} (hw : t.windowFor q q.atomSize true = some w)
    (hp : t.mem.poisoned q.addr q.atomSize = false) {o : Option Nat × Nat} (ho : q.operands q.atomSize = [o]) :
    let key := t.keySerial w.key
    let old := ofLe (t.mem.read key q.addr q.atomSize)
    let v : State := { t with mem := t.mem.write key q.addr (leBytes q.atomSize (q.apply q.atomSize old o)) }
    exec (.atomPacket p q) s = .next (State.ingressDone
      (if q.masked then v.reply q 5 [] else v.reply q 4 (leBytes q.atomSize old)) q.sdev q.payload.length) := by
  intro key old v
  unfold exec execAtomPacket
  dsimp only
  rw [ha]
  dsimp only
  rw [hw]
  dsimp only
  rw [hp, ho]
  simp only [Bool.false_eq_true, if_false, List.foldl_cons, List.foldl_nil, List.nil_append, List.map_cons, List.map_nil,
    List.flatten_cons, List.flatten_nil, List.append_nil]
  rfl

theorem exec_demand_raises (ha : s.arrived p typeDemand q = some t) :
    exec (.demand p q) s =
      .next (t.modPace q.sdev fun c => { c with demandIn := max c.demandIn (ofLe (q.payload.take 8)) }).regrant := by
  unfold exec execDemand
  dsimp only
  rw [ha]

theorem exec_grant_raises (ha : s.arrived p typeGrant q = some t) :
    exec (.grant p q) s =
      let u := t.modPace q.sdev fun c => { c with grantIn := max c.grantIn (ofLe (q.payload.take 8)) }
      .next (u.drain q.sdev ((u.pace q.sdev).queue.length + 1)) := by
  unfold exec execGrant
  dsimp only
  rw [ha]

theorem exec_mirror_offers (ha : s.arrived p typeMirror q = some t) {i : Nat} (hi : (q.payload.getD 0 0).toNat % 16 = i) {c : Incumbent}
    (hc : t.ics[i]?.getD Incumbent.zero = c) (hb : c.bound = true) (hm : c.mirror = true) (hcfg : c.cfg = q.payload.getD 1 0) :
    exec (.mirror p q) s = .next { t.fresh with
      offers := t.offers ++ [⟨t.nextId, i, BitVec.ofNat 64 (ofLe ((q.payload.drop 8).take 8)), 144, true, t.cc⟩] } := by
  subst hi hc
  unfold exec execMirror
  dsimp only
  rw [ha]
  dsimp only
  rw [if_pos (by rw [hb, hm, hcfg]; simp)]

theorem exec_mirror_drops (ha : s.arrived p typeMirror q = some t)
    (hb : (t.ics[(q.payload.getD 0 0).toNat % 16]?.getD Incumbent.zero).bound = false) : exec (.mirror p q) s = .next t := by
  unfold exec execMirror
  dsimp only
  rw [ha]
  dsimp only
  rw [hb]
  rfl

theorem exec_oack_frees (ha : s.arrived p typeOack q = some t) {n : Nat} (hn : ofLe (q.payload.take 4) % 16 = n) {seq : W32}
    (hseq : BitVec.ofNat 32 (ofLe ((q.payload.drop 4).take 4)) = seq) (hnew : (t.port n).newAck seq = true) :
    exec (.oack p q) s = .next (t.modPort n fun x => { x.acked seq with origAt := s.time }).flushAll := by
  subst hn hseq
  unfold exec execOack
  dsimp only
  rw [ha]
  dsimp only
  rw [if_pos hnew]

end Performed

/-- Taking a packet leaves what another port has sent and what this one has. -/
theorem State.taken_replayB {s : State} {p : Nat} (hp : p < 16) (rest : List Packet) (n : Nat) :
    ((s.taken p rest).port n).replayB = (s.port n).replayB := by
  unfold State.taken
  rw [State.port_modPort s hp]
  split
  next hn => rw [Port.stops_eq, hn]
  next => rfl

/-! ### Replies (R329, R336, R338) -/

section Replies

variable {s : State} {p : Nat} {q : Packet} {t : State} {x : Txn} {e : Entry} {r : Req}
  (hx : t.txnOf q = some x) (hwait : x.waiter = .entry e.id) (hr : (t.endTxn x).awaiting e.id x.tag = [r])
include hx hwait hr

theorem exec_rdata_one (ha : s.arrived p typeRdata q = some t) (he : ((t.endTxn x).entries.find? fun f => f.id == e.id) = some e) :
    exec (.rdata p q) s = .next ((t.endTxn x).gotBytes r ((q.payload.drop (e.offsetIn x r)).take r.size)).pruneEntries := by
  unfold exec execRdata
  dsimp only
  rw [ha]
  dsimp only
  rw [hx]
  dsimp only
  rw [hwait]
  dsimp only
  rw [he]
  dsimp only
  rw [hr]
  rfl

theorem exec_adata_one (ha : s.arrived p typeAdata q = some t) :
    exec (.adata p q) s =
      let out := r.combine (ofLe (q.payload.take r.size))
      .next (((t.endTxn x).modReq r.id fun f => { f with parts := out.2.1, phase := .done }).atomicFlags r out.2.2).pruneEntries := by
  unfold exec execAdata
  dsimp only
  rw [ha]
  dsimp only
  rw [hx]
  dsimp only
  rw [hwait]
  dsimp only
  rw [hr]
  rfl

theorem exec_doneReply_one (ha : s.arrived p typeDone q = some t) :
    exec (.doneReply p q) s = .next ((t.endTxn x).performed r).pruneEntries := by
  unfold exec execDoneReply
  dsimp only
  rw [ha]
  dsimp only
  rw [hx]
  dsimp only
  rw [hwait]
  dsimp only
  rw [hr]
  rfl

theorem exec_refused_one (ha : s.arrived p typeRefused q = some t) (he : ((t.endTxn x).entries.find? fun f => f.id == e.id) = some e)
    (h6 : q.payload.getD 0 0 ≠ 6) :
    exec (.refused p q) s = .next ((t.endTxn x).lateRefuse r .fabricAccessDenied 4).pruneEntries := by
  unfold exec execRefused
  dsimp only
  rw [ha]
  dsimp only
  rw [hx]
  dsimp only
  rw [hwait]
  dsimp only
  rw [he]
  dsimp only
  rw [hr, beq_eq_false_iff_ne.2 h6]
  rfl

end Replies

end Sys2Proof.Machine

namespace Sys2Proof
open Machine

/-- Settles O48: type by type of what arrives. -/
theorem packetsArePerformed : Obligations.PacketsArePerformed := by
  refine ⟨fun s p q rest hp hsrc hin hholds hfirst => ?_, fun s p q rest x e r hp hin hholds hfirst => ?_⟩
  · intro t
    have ha : ∀ {ty : Nat}, q.type = ty → s.arrived p ty q = some t := State.arrived_head hin hholds hfirst
    refine ⟨fun h => ⟨exec_read_refuses (ha h), fun w hw hpoi => exec_read_reads (ha h) hw hpoi⟩,
      fun h hm => ⟨exec_write_refuses (ha h) hm, fun w hw hwf => ?write⟩, fun h => exec_atomPacket_refuses (ha h),
      fun h w o hw hpoi ho => exec_atomPacket_one (ha h) hw hpoi ho, fun h => ?demand, fun h => ?grant,
      fun h => ⟨fun hb hm hcfg => exec_mirror_offers (ha h) rfl rfl hb hm hcfg, exec_mirror_drops (ha h)⟩, fun h => ?oack⟩
    case write =>
      refine ⟨_, exec_write_writes (ha h) hm hw, fun i hi => ?_, fun a hout => ?_, fun a k hout => ?_⟩
      · refine (Store.get_write hwf q.payload (q.addr + i)).trans ?_
        rw [if_pos ⟨by omega, by omega⟩, Nat.add_sub_cancel_left]
      · refine (Store.get_write hwf q.payload a).trans ?_
        rw [if_neg (by omega)]
      · exact Store.get_write_block hwf q.payload hout k
    case demand =>
      refine ⟨_, exec_demand_raises (ha h), ?_, rfl⟩
      rw [State.pace_modPace_same _ hsrc]
      rfl
    case grant =>
      refine ⟨t.modPace q.sdev fun c => { c with grantIn := max c.grantIn (ofLe (q.payload.take 8)) }, ?_, ?_, rfl⟩
      · rw [exec_grant_raises (ha h)]
        dsimp only
        rw [State.pace_modPace_same _ hsrc]
        rfl
      · rw [State.pace_modPace_same _ hsrc]
        rfl
    case oack =>
      intro n seq hnew
      refine ⟨_, exec_oack_frees (ha h) rfl rfl hnew, ?_, rfl, rfl⟩
      exact congrArg (List.filter fun r : Packet => seqBefore seq r.seq) (State.taken_replayB hp rest n)
  · intro t u hx hwait he hr
    have ha : ∀ {ty : Nat}, q.type = ty → s.arrived p ty q = some t := State.arrived_head hin hholds hfirst
    exact ⟨fun h => exec_rdata_one hx hwait hr (ha h) he, fun h => exec_adata_one hx hwait hr (ha h),
      fun h => exec_doneReply_one hx hwait hr (ha h), fun h => exec_refused_one hx hwait hr (ha h) he⟩

end Sys2Proof
end

section
/-!
SUPPORT. The BAR0 registers of a function (R352, R353): what a write to one leaves; O49.
-/

namespace Sys2Proof.Machine

/-! ### A function's registers -/

theorem State.fn_setFn_same (s : State) {f : Nat} (hf : f < 65) (x : Fn) : (s.setFn f x).fn f = x :=
  congrArg (·.getD Fn.zero) (Vector.getElem?_setIfInBounds_self_of_lt hf)

/-- With no event waiting nothing is written to the ring. -/
theorem State.drainEvents_nil {s : State} {f : Nat} (h : (s.fn f).events = []) (n : Nat) : s.drainEvents f n = s := by
  cases n with
  | zero => rfl
  | succ n =>
    unfold State.drainEvents
    rw [h]

/-- The bits of a queue's configuration that a register keeps are its enable and its size (R352). -/
theorem ringOn_and_mask (val : W64) : ringOn (val &&& 0x3F#64) = ringOn val := by
  unfold ringOn
  rw [BitVec.getLsbD_and]
  exact Bool.and_true _

theorem ringLen_and_mask (val : W64) : ringLen (val &&& 0x3F#64) = 2 ^ (val.extractLsb' 0 5).toNat := by
  have h : (val &&& 0x3F#64).extractLsb' 0 5 = val.extractLsb' 0 5 := by
    rw [BitVec.extractLsb'_and]
    exact BitVec.and_allOnes
  rw [ringLen, h]

namespace Fn

variable (x : Fn) (val : W64)

theorem write_events (off : Nat) : (x.write off val).events = x.events := by
  unfold Fn.write
  extract_lets addr y
  have hy : y.events = x.events := by
    dsimp only [y]
    split
    · split <;> rfl
    · split <;> rfl
    · split <;> rfl
    · split <;> rfl
    · rfl
    · rfl
  split
  · exact hy
  · exact hy

theorem write_sqbase : (x.write 0x008 val).sqbase = if ringOn x.sqcfg then x.sqbase else val &&& 0xFFFF_FFFF_FFFF_F000#64 := by
  unfold Fn.write
  simp only [Nat.reduceEqDiff, or_self, false_and, if_false]
  split <;> rfl

theorem write_cqbase : (x.write 0x020 val).cqbase = if ringOn x.cqcfg then x.cqbase else val &&& 0xFFFF_FFFF_FFFF_F000#64 := by
  unfold Fn.write
  simp only [Nat.reduceEqDiff, or_self, false_and, if_false]
  split <;> rfl

theorem write_irq : (x.write 0x038 val).irq = val &&& 1#64 ∧ (x.write 0x038 val).sqcfg = x.sqcfg
    ∧ (x.write 0x038 val).cqcfg = x.cqcfg := by
  unfold Fn.write
  simp only [Nat.reduceEqDiff, or_self, false_and, if_false, and_self]

/-- Enabling a submission ring of an allowed size (R353). -/
theorem write_sqcfg (hoff : ringOn x.sqcfg = false) (hok : cfgOk val = true) :
    ∃ failed, x.write 0x010 val = { x with sqcfg := val &&& 0x3F#64, sqhead := 0, sqtail := 0, failed := failed } := by
  unfold Fn.write
  simp only [hoff, hok, Bool.not_true, Bool.or_self, Bool.false_eq_true, if_false]
  split
  · exact ⟨false, rfl⟩
  · exact ⟨x.failed, rfl⟩

/-- Enabling a completion ring of an allowed size (R353). -/
theorem write_cqcfg (hoff : ringOn x.cqcfg = false) (hok : cfgOk val = true) :
    ∃ failed, x.write 0x028 val = { x with cqcfg := val &&& 0x3F#64, cqtail := 0, phase := true, failed := failed } := by
  unfold Fn.write
  simp only [hoff, hok, Bool.not_true, Bool.or_self, Bool.false_eq_true, if_false]
  split
  · exact ⟨false, rfl⟩
  · exact ⟨x.failed, rfl⟩

end Fn

theorem cfgOk_of_size {val : W64} (h4 : 4 ≤ (val.extractLsb' 0 5).toNat) (h16 : (val.extractLsb' 0 5).toNat ≤ 16) : cfgOk val = true := by
  rw [cfgOk, decide_eq_true (And.intro h4 h16), Bool.or_true]

end Sys2Proof.Machine

namespace Sys2Proof
open Machine

/-- Settles O49: by what a write leaves of a function's registers, and no event waits. -/
theorem hostRegistersAct : Obligations.HostRegistersAct := by
  intro s fn hfn
  have hno : ¬65 ≤ fn := by omega
  refine ⟨fun tail dma => ?tail, fun hev => ⟨fun head => ?head, fun off val => ⟨(s.fn fn).write off val, ?write, ?_, ?_, ?_, ?_, ?_⟩⟩⟩
  case tail =>
    unfold exec execSqtail
    dsimp only
    rw [if_neg hno]
    rfl
  case head =>
    unfold exec execCqhead
    dsimp only
    rw [if_neg hno, State.drainEvents_nil]
    rw [State.fn_setFn_same _ hfn]
    exact hev
  case write =>
    unfold exec execRegisterWrite
    dsimp only
    rw [if_neg hno, State.drainEvents_nil]
    rw [State.fn_setFn_same _ hfn, Fn.write_events]
    exact hev
  · rintro rfl
    exact Fn.write_sqbase _ val
  · rintro rfl
    exact Fn.write_cqbase _ val
  · rintro rfl hoff hon h4 h16
    obtain ⟨failed, h⟩ := Fn.write_sqcfg (s.fn fn) val hoff (cfgOk_of_size h4 h16)
    rw [h]
    exact ⟨(ringOn_and_mask val).trans hon, ringLen_and_mask val, rfl, rfl⟩
  · rintro rfl hoff hon h4 h16
    obtain ⟨failed, h⟩ := Fn.write_cqcfg (s.fn fn) val hoff (cfgOk_of_size h4 h16)
    rw [h]
    exact ⟨(ringOn_and_mask val).trans hon, ringLen_and_mask val, rfl, rfl, rfl⟩
  · rintro rfl
    exact Fn.write_irq _ val

end Sys2Proof
end

section
/-!
SUPPORT. The commands of a function's submission ring (R353, R354): what is turned away, and how each command of a context is
answered (R355 to R357); O50.
-/

namespace Sys2Proof.Machine

/-! ### Commands that are turned away (R354) -/

theorem State.serve_of_denied {s : State} {c : HostCmd} {op e : Nat} {w : Issuer} (hs : s.serves c op = true)
    (hd : (s.passCmd c.fn).deny c w = some e) (f : State → State) : s.serve c op w f = .next ((s.passCmd c.fn).answer c e 0 []) := by
  unfold State.serve
  rw [if_pos hs]
  dsimp only
  rw [hd]

theorem State.op_of_serves {s : State} {c : HostCmd} {op : Nat} (hs : s.serves c op = true) : c.op = op := by
  simp only [State.serves, Bool.and_eq_true, beq_iff_eq] at hs
  exact hs.1.1.1.1

theorem State.quiesce_of_serves {s : State} {c : HostCmd} {op : Nat} (hs : s.serves c op = true) : s.fw.quiesce = false := by
  simp only [State.serves, Bool.and_eq_true, Bool.not_eq_true'] at hs
  exact hs.1.2

section Starts

variable {s : State} {c : HostCmd} (hnew : ∀ j ∈ s.fw.jobs, j.cmd ≠ c)
include hnew

theorem State.find?_job_new (g : HostJob → Bool) : (s.fw.jobs.find? fun j => decide (j.cmd = c) && g j) = none :=
  List.find?_eq_none.2 fun j hj => by simp [hnew j hj]

theorem State.launching_new : s.launching c = none := by
  unfold State.launching
  cases hf : s.fw.jobs.find? fun j => j.cmd.op == 6 with
  | none => rfl
  | some j => exact if_neg (hnew j (List.mem_of_find?_eq_some hf))

/-! A command that has no job yet is served out of its ring. -/

theorem exec_tlbInval_new : exec (.tlbInval c) s = s.serve c 4 .owner fun t =>
    if t.copying c.fn t.nextId then (t.dropTlb c.ctx c.a0.toNat c.a1.toNat).addJob c
    else (t.dropTlb c.ctx c.a0.toNat c.a1.toNat).answer c 0 0 [] := by
  have h := State.find?_job_new hnew fun j => c.op == 4 && !s.copying c.fn j.id
  simp only [← Bool.and_assoc] at h
  rw [exec_tlbInval, execTlbInval, h]

theorem exec_copy_new : exec (.copy c) s = s.serve c 5 .owner fun t =>
    if c.a2.toNat % 4 ≠ 0 then t.answer c 6 0 []
    else if c.a2 = 0 then t.answer c 0 0 []
    else t.addJob c := by
  have h := State.find?_job_new hnew fun j => c.op == 5 && !j.wait
  simp only [← Bool.and_assoc] at h
  rw [exec_copy, execCopy, h]

theorem exec_launch_denied {e : Nat} (hs : s.serves c 6 = true) (hd : (s.passCmd c.fn).deny c .owner = some e) :
    exec (.launch c) s = .next ((s.passCmd c.fn).answer c e 0 []) := by
  rw [exec_launch, execLaunch, State.launching_new hnew, ite_self]
  exact State.serve_of_denied hs hd _

theorem exec_maint_new (hq : s.fw.quiesce = false) : exec (.maint c) s = s.serve c 0x10 .pf0 fun t =>
    if t.fw.launches.isEmpty && t.fw.jobs.all (·.cmd.op != 6) then t.addJob c else t.answer c 9 0 [] := by
  rw [exec_maint, execMaint, State.find?_job_new hnew, hq]
  rfl

end Starts

theorem exec_checkpoint_new {s : State} {c : HostCmd} (hc : s.fw.ckptBy ≠ some (c.fn, c.cid)) :
    exec (.checkpoint c) s = s.serve c 0x11 .pf0 fun t => t.quiesceAll (some (c.fn, c.cid)) := by
  rw [exec_checkpoint, execCheckpoint, if_neg hc]

theorem exec_identify_known {s : State} {c : HostCmd} (hs : s.serves c 1 = true) : exec (.identify c) s = s.serve c 1 .any fun t =>
    t.answer c 0 0 [BitVec.ofNat 64 t.archid, BitVec.ofNat 64 t.sparestat, Config.serialNumber] := by
  rw [exec_identify, execIdentify, if_neg (by rw [State.op_of_serves hs]; omega)]

@[simp] theorem State.passCmd_mem (s : State) (f : Nat) : (s.passCmd f).mem = s.mem := rfl

@[simp] theorem State.passCmd_blocks (s : State) (f : Nat) : (s.passCmd f).blocks = s.blocks := rfl

@[simp] theorem State.passCmd_tlb (s : State) (f : Nat) : (s.passCmd f).tlb = s.tlb := rfl

@[simp] theorem State.context?_passCmd (s : State) (f k : Nat) : (s.passCmd f).context? k = s.context? k := rfl

theorem State.archid_passCmd (s : State) (f : Nat) : (s.passCmd f).archid = s.archid := rfl

theorem State.sparestat_passCmd (s : State) (f : Nat) : (s.passCmd f).sparestat = s.sparestat := rfl

theorem exec_identify_answers {s : State} {c : HostCmd} (hs : s.serves c 1 = true) (hd : (s.passCmd c.fn).deny c .any = none) :
    exec (.identify c) s =
      .next ((s.passCmd c.fn).answer c 0 0 [BitVec.ofNat 64 s.archid, BitVec.ofNat 64 s.sparestat, Config.serialNumber]) := by
  rw [exec_identify_known hs, State.serve_of_serves hs hd, State.archid_passCmd, State.sparestat_passCmd]

/-! ### Contexts (R354, R357, R362) -/

/-- The lowest context number that is free. -/
theorem State.find?_free_context {s : State} {id : Nat} (hid : id < 256) (hfree : s.context? id = none)
    (hlow : ∀ j, j < id → (s.context? j).isSome = true) : ((List.range 256).find? fun n => (s.context? n).isNone) = some id := by
  rw [List.find?_range_eq_some]
  refine ⟨by rw [hfree]; rfl, List.mem_range.2 hid, fun j hj => ?_⟩
  rw [← Option.not_isSome, hlow j hj]
  rfl

theorem exec_ctxCreate_new {s : State} {c : HostCmd} {id : Nat} (hs : s.serves c 2 = true)
    (hd : (s.passCmd c.fn).deny c .any = none) (hid : id < 256) (hfree : s.context? id = none)
    (hlow : ∀ j, j < id → (s.context? j).isSome = true) (hlen : (HostCtx c id).imageLen ≠ 0)
    (hpages : (HostCtx c id).imageLen % 2 ^ 16 = 0) (hkey : s.mayName c.fn (HostCtx c id).key = true)
    (hroot : (HostCtx c id).root % 4096 = 0) (hlocal : isLocal (HostCtx c id).root 4096 = true)
    (hstores : ∀ e ∈ (HostCtx c id).stores, e.1 % 2 ^ 16 = 0 ∧ isLocal e.1 e.2 = true ∧ ∀ q ∈ s.fw.contexts, ∀ f ∈ q.stores,
      e.1 + e.2 ≤ f.1 ∨ f.1 + f.2 ≤ e.1)
    (hbudget : s.budgets 256 + (HostCtx c id).budget ≤ budgetLimit) :
    exec (.ctxCreate c) s = .next (State.answer { s.passCmd c.fn with
      fw := { (s.passCmd c.fn).fw with contexts := s.fw.contexts ++ [HostCtx c id], created := true } } c 0 0 [BitVec.ofNat 64 id]) := by
  have hctx : ((List.range 256).find? fun n => ((s.passCmd c.fn).context? n).isNone) = some id :=
    State.find?_free_context hid hfree hlow
  have hno : ((HostCtx c id).stores.any fun e => e.1 % 2 ^ 16 != 0 || !isLocal e.1 e.2
      || ((s.passCmd c.fn).fw.contexts.map Context.stores).flatten.any fun f => decide (e.1 < f.1 + f.2 ∧ f.1 < e.1 + e.2)) = false := by
    rw [List.any_eq_false]
    intro e he
    obtain ⟨hal, hloc, hapart⟩ := hstores e he
    have hmeets : (((s.passCmd c.fn).fw.contexts.map Context.stores).flatten.any fun f =>
        decide (e.1 < f.1 + f.2 ∧ f.1 < e.1 + e.2)) = false := by
      rw [List.any_eq_false]
      intro f hf
      obtain ⟨_, hmem, hf⟩ := List.mem_flatten.1 hf
      obtain ⟨q, hq, rfl⟩ := List.mem_map.1 hmem
      have := hapart q hq f hf
      rw [decide_eq_true_eq]
      omega
    rw [hmeets, hal, hloc]
    decide
  have hid' : ¬((HostCtx c id).id = 256 ∨ budgetLimit < (s.passCmd c.fn).budgets 256 + (HostCtx c id).budget) := by
    rintro (h | h)
    · exact absurd (show id = 256 from h) (by omega)
    · exact absurd h (Nat.not_lt.2 hbudget)
  rw [exec_ctxCreate, execCtxCreate, State.serve_of_serves hs hd]
  dsimp only
  rw [hctx, Option.getD_some, if_neg (not_or.2 ⟨hlen, not_not.2 hpages⟩), show (s.passCmd c.fn).mayName c.fn (HostCtx c id).key = true from hkey,
    if_neg (by decide), if_neg (not_or.2 ⟨not_not.2 hroot, by rw [hlocal]; decide⟩), hno, if_neg (by decide), if_neg hid']
  rfl

@[simp] theorem State.dropContext_mem (s : State) (id : Nat) : (s.dropContext id).mem = s.mem := rfl

@[simp] theorem State.dropContext_blocks (s : State) (id : Nat) : (s.dropContext id).blocks = s.blocks := rfl

@[simp] theorem State.dropTlb_mem (s : State) (ctx va n : Nat) : (s.dropTlb ctx va n).mem = s.mem := rfl

@[simp] theorem State.dropTlb_blocks (s : State) (ctx va n : Nat) : (s.dropTlb ctx va n).blocks = s.blocks := rfl

theorem State.context?_dropContext (s : State) (id k : Nat) :
    (s.dropContext id).context? k = if k = id then none else s.context? k := by
  have h : (s.dropContext id).context? k = (s.fw.contexts.filter fun x => x.id != id).find? fun x => x.id == k := rfl
  rw [h, List.find?_filter]
  split
  next hk =>
    rw [List.find?_eq_none]
    intro x _
    simp [hk]
  next hk =>
    refine List.find?_congr fun x _ => ?_
    by_cases hx : x.id = k
    · simp [hx, hk]
    · simp [hx]

theorem exec_ctxDestroy_busy {s : State} {c : HostCmd} (hs : s.serves c 3 = true) (hd : (s.passCmd c.fn).deny c .owner = none)
    (h : ∃ l ∈ s.fw.launches, l.ctx = c.ctx) : exec (.ctxDestroy c) s = .next ((s.passCmd c.fn).answer c 9 0 []) := by
  have hbusy : ((s.passCmd c.fn).fw.launches.any fun l => l.ctx == c.ctx) = true := by
    obtain ⟨l, hl, hc⟩ := h
    exact List.any_eq_true.2 ⟨l, hl, beq_iff_eq.2 hc⟩
  rw [exec_ctxDestroy, execCtxDestroy, State.serve_of_serves hs hd, hbusy, Bool.true_or, if_pos rfl]

theorem exec_ctxDestroy_drops {s : State} {c : HostCmd} (hs : s.serves c 3 = true) (hd : (s.passCmd c.fn).deny c .owner = none)
    (hl : ∀ l ∈ s.fw.launches, l.ctx ≠ c.ctx) (hj : ∀ j ∈ s.fw.jobs, j.cmd.op = 6 → j.cmd.ctx ≠ c.ctx) :
    exec (.ctxDestroy c) s = .next (((s.passCmd c.fn).dropContext c.ctx).answer c 0 0 []) := by
  have hno : ((s.passCmd c.fn).fw.launches.any fun l => l.ctx == c.ctx) = false :=
    List.any_eq_false.2 fun l h => by simpa using hl l h
  have hno' : ((s.passCmd c.fn).fw.jobs.any fun j => j.cmd.op == 6 && j.cmd.ctx == c.ctx) = false :=
    List.any_eq_false.2 fun j h => by simpa using hj j h
  rw [exec_ctxDestroy, execCtxDestroy, State.serve_of_serves hs hd, hno, hno', Bool.or_false, if_neg Bool.false_ne_true]

section Energy

variable {s : State} {c : HostCmd} {k : Context} (hs : s.serves c 9 = true) (hd : (s.passCmd c.fn).deny c .pf0 = none)
  (hk : s.context? c.ctx = some k) (hfn : k.fn = 0)
include hs hd hk hfn

theorem exec_energySet_over (h : budgetLimit < s.budgets c.ctx + bitsOf c.a0.toNat 31 0) :
    exec (.energySet c) s = .next ((s.passCmd c.fn).answer c 8 0 []) := by
  have hk' : (s.passCmd c.fn).context? c.ctx = some k := hk
  rw [exec_energySet, execEnergySet, State.serve_of_serves hs hd]
  dsimp only
  rw [hk']
  dsimp only
  rw [if_neg (not_not.2 hfn)]
  exact congrArg _ (if_pos h)

theorem exec_energySet_sets (h : s.budgets c.ctx + bitsOf c.a0.toNat 31 0 ≤ budgetLimit) :
    exec (.energySet c) s =
      .next (((s.passCmd c.fn).modContext c.ctx fun k => { k with nextBud := some (bitsOf c.a0.toNat 31 0) }).answer c 0 0 []) := by
  have hk' : (s.passCmd c.fn).context? c.ctx = some k := hk
  rw [exec_energySet, execEnergySet, State.serve_of_serves hs hd]
  dsimp only
  rw [hk']
  dsimp only
  rw [if_neg (not_not.2 hfn)]
  exact congrArg _ (if_neg (Nat.not_lt.2 h))

end Energy

theorem State.context?_modContext {s : State} {id : Nat} {k : Context} (hk : s.context? id = some k) {f : Context → Context}
    (hf : ∀ c, (f c).id = c.id) : (s.modContext id f).context? id = some (f k) := by
  have hid : k.id = id := by simpa using List.find?_some hk
  unfold State.modContext State.context?
  rw [List.find?_map_id _ _ _ fun x => by split <;> simp [hf]]
  rw [State.context?] at hk
  rw [hk, Option.map_some, if_pos hid]

/-! ### COPY (R354) -/

section Copy

variable {s : State} {j : HostJob} {k : Context} {base key : Nat} {w x : Bool}

theorem exec_copy_goesOn (hj : s.job? j.id = some j) (hop : j.cmd.op = 5) (hwait : j.wait = false)
    (huniq : ∀ i ∈ s.fw.jobs, i.cmd = j.cmd → i = j) : exec (.copy j.cmd) s = .next (s.copyPiece j) := by
  have hmem : j ∈ s.fw.jobs := List.mem_of_find?_eq_some hj
  have hfind : (s.fw.jobs.find? fun i => decide (i.cmd = j.cmd) && j.cmd.op == 5 && !i.wait) = some j := by
    cases hf : s.fw.jobs.find? fun i => decide (i.cmd = j.cmd) && j.cmd.op == 5 && !i.wait with
    | none =>
      have := List.find?_eq_none.1 hf j hmem
      simp [hop, hwait] at this
    | some i =>
      have hi := List.find?_some hf
      simp only [Bool.and_eq_true, decide_eq_true_eq] at hi
      rw [huniq i (List.mem_of_find?_eq_some hf) hi.1.1]
  rw [exec_copy, execCopy, hfind]

theorem State.reachSlice_outside {s : State} {ctx va pa : Nat} (h : s.regionAt ctx va = none) : s.reachSlice ctx va pa = s := by
  unfold State.reachSlice
  split
  next hr => rw [h] at hr; cases hr
  next => rfl

variable (hk : s.context? j.cmd.ctx = some k) (hva : j.cmd.a1.toNat + j.done + min (j.cmd.a2.toNat - j.done)
    (128 - (j.cmd.a1.toNat + j.done) % 128) ≤ 2 ^ 52)
  (hwalk : s.walk k (j.cmd.a1.toNat + j.done) = .ok base key w x) {pa : Nat} (hpa : Xlat.addr base (j.cmd.a1.toNat + j.done) = pa)
  (ht : targetOf pa = .mem pa) (hreg : s.regionAt k.id (j.cmd.a1.toNat + j.done) = none)
  {n : Nat} (hn : min (j.cmd.a2.toNat - j.done) (128 - (j.cmd.a1.toNat + j.done) % 128) = n)
include hk hva hwalk hpa ht hreg hn

/-- A piece that COPY moves from local memory to the host's (R354). -/
theorem State.copyPiece_out (hdir : bitOf j.cmd.a3.toNat 0 = true) (hpoi : s.mem.poisoned pa n = false) :
    s.copyPiece j = State.copied { s with
      host := s.host.write ((j.cmd.a0.toNat + j.done) % 2 ^ 46) (s.mem.read (s.keySerial key) pa n) } j n := by
  subst hpa hn
  unfold State.copyPiece
  dsimp only
  rw [hk]
  dsimp only
  rw [if_neg (Nat.not_lt.2 hva), hwalk]
  dsimp only
  rw [hdir, ht]
  dsimp only
  rw [State.reachSlice_outside hreg]
  unfold State.readHome
  rw [ht]
  dsimp only
  rw [hpoi, hreg]
  rfl

/-- A piece that COPY moves from the host's memory to local memory (R354). -/
theorem State.copyPiece_in (hdir : bitOf j.cmd.a3.toNat 0 = false) (hw : w = true) (hin : s.inRegion k.id (j.cmd.a1.toNat + j.done) pa = false) :
    s.copyPiece j = State.copied { s with
      mem := (s.mem.write (s.keySerial key) pa (s.host.read ((j.cmd.a0.toNat + j.done) % 2 ^ 46) n)).unpoison pa n } j n := by
  subst hpa hn
  unfold State.copyPiece
  dsimp only
  rw [hk]
  dsimp only
  rw [if_neg (Nat.not_lt.2 hva), hwalk]
  dsimp only
  rw [hdir, hw, ht]
  dsimp only
  rw [State.reachSlice_outside hreg, hin, State.writeHome_local ht, Memory.length_read]
  rfl

end Copy

end Sys2Proof.Machine

namespace Sys2Proof
open Machine

/-- Settles O50: what is turned away, command by command, and each command's course. -/
theorem contextCommandsAct : Obligations.ContextCommandsAct := by
  refine ⟨fun s c hnew hck => ?_, fun s j k base key w x hj hop hwait huniq hk => ?_⟩
  · intro t denied
    refine ⟨fun e hs hd => (exec_identify_known hs).trans (State.serve_of_denied hs hd _),
      fun e hs hd => (exec_ctxCreate c s).trans (State.serve_of_denied hs hd _),
      fun e hs hd => (exec_ctxDestroy c s).trans (State.serve_of_denied hs hd _),
      fun e hs hd => (exec_tlbInval_new hnew).trans (State.serve_of_denied hs hd _),
      fun e hs hd => (exec_copy_new hnew).trans (State.serve_of_denied hs hd _),
      fun e hs hd => exec_launch_denied hnew hs hd,
      fun e hs hd => (exec_preempt c s).trans (State.serve_of_denied hs hd _),
      fun e hs hd => (exec_faultResolve c s).trans (State.serve_of_denied hs hd _),
      fun e hs hd => (exec_energySet c s).trans (State.serve_of_denied hs hd _),
      fun e hs hd => (exec_keyAlloc c s).trans (State.serve_of_denied hs hd _),
      fun e hs hd => (exec_keyFree c s).trans (State.serve_of_denied hs hd _),
      fun e hs hd => (exec_linkKey c s).trans (State.serve_of_denied hs hd _),
      fun e hs hd => (exec_fabricWindow c s).trans (State.serve_of_denied hs hd _),
      fun e hs hd => (exec_linkQuery c s).trans (State.serve_of_denied hs hd _),
      fun e hs hd => (exec_peerLost c s).trans (State.serve_of_denied hs hd _),
      fun e hs hd => (exec_maint_new hnew (State.quiesce_of_serves hs)).trans (State.serve_of_denied hs hd _),
      fun e hs hd => (exec_checkpoint_new hck).trans (State.serve_of_denied hs hd _),
      fun e hs hd => (exec_restore c s).trans (State.serve_of_denied hs hd _),
      fun hop hs => ?unknown, fun hs hd => exec_identify_answers hs hd,
      fun id hs hd hid hfree hlow hlen hpages hkey hroot hlocal hstores hbudget => ?create,
      fun hs hd => ⟨exec_ctxDestroy_busy hs hd, fun hl hj => ?destroy⟩,
      fun k hs hd hk hfn => ⟨exec_energySet_over hs hd hk hfn, fun h => ?energy⟩,
      fun hs hd => ?inval, fun hs hd hmul hne => ?copy⟩
    case unknown =>
      rw [exec_identify, execIdentify, if_pos ⟨hop, hs⟩]
    case create =>
      exact ⟨_, exec_ctxCreate_new hs hd hid hfree hlow hlen hpages hkey hroot hlocal hstores hbudget, rfl, rfl, rfl, rfl⟩
    case destroy =>
      refine ⟨_, exec_ctxDestroy_drops hs hd hl hj, ?_, fun k hk => ?_, by simp, by simp⟩
      · rw [State.context?_dropContext, if_pos rfl]
      · rw [State.context?_dropContext, if_neg hk, State.context?_passCmd]
    case energy =>
      refine ⟨_, exec_energySet_sets hs hd hk hfn h, ?_, by simp, by simp⟩
      refine (State.context?_modContext ((s.context?_passCmd c.fn c.ctx).trans hk) ?_).trans ?_
      · exact fun _ => rfl
      · rfl
    case inval =>
      refine ⟨(s.passCmd c.fn).dropTlb c.ctx c.a0.toNat c.a1.toNat, rfl, by simp, by simp, ?_⟩
      exact (exec_tlbInval_new hnew).trans (State.serve_of_serves hs hd _)
    case copy =>
      refine ⟨⟨s.nextId, c, 0, false, none⟩, rfl, rfl, rfl, ?_⟩
      rw [exec_copy_new hnew, State.serve_of_serves hs hd, if_neg (not_not.2 hmul), if_neg hne]
      rfl
  · intro va n ha pa hva hwalk ht hin hreg
    have hgo := exec_copy_goesOn hj hop hwait huniq
    refine ⟨fun hdir hpoi => hgo.trans (congrArg Host.Outcome.next ?out), fun hdir hw => hgo.trans (congrArg Host.Outcome.next ?into),
      fun u hu => ⟨fun hle => if_pos hle, fun hlt => ?_⟩⟩
    case out => exact State.copyPiece_out hk hva hwalk rfl ht hreg rfl hdir hpoi
    case into => exact State.copyPiece_in hk hva hwalk rfl ht hreg rfl hdir hw hin
    rw [State.copied, if_neg (Nat.not_le.2 hlt), ← hu]
    rfl

end Sys2Proof
end

section
/-!
SUPPORT. The device commands of PF0 (R336, R339 to R341, R343, R357, R366, R367): each command's course, and what a checkpoint
keeps; O52.
-/

namespace Sys2Proof.Machine

@[simp] theorem State.port_passCmd (s : State) (f p : Nat) : (s.passCmd f).port p = s.port p := rfl

theorem bitsOf_lt (x hi lo : Nat) : bitsOf x hi lo < 2 ^ (hi + 1 - lo) := Nat.mod_lt _ (Nat.two_pow_pos _)

/-! ### Keys and windows (R336, R340, R341, R357) -/

/-- The lowest identifier that no function holds. -/
theorem find?_free_key {keys : List Key} {k : Nat} (h1 : 1 ≤ k) (hk : k < 1024) (hfree : ∀ q ∈ keys, q.id ≠ k)
    (hlow : ∀ i, 1 ≤ i → i < k → ∃ q ∈ keys, q.id = i) :
    (((List.range 1023).map (· + 1)).find? fun k => !keys.any fun q => q.id == k) = some k := by
  have hfind : ((List.range 1023).find? ((fun k => !keys.any fun q => q.id == k) ∘ (· + 1))) = some (k - 1) := by
    rw [List.find?_range_eq_some]
    refine ⟨?_, List.mem_range.2 (by omega), fun j hj => ?_⟩
    · rw [Function.comp_apply, Nat.sub_add_cancel h1, Bool.not_eq_true', List.any_eq_false]
      exact fun q hq => by simpa using hfree q hq
    · obtain ⟨q, hq, hid⟩ := hlow (j + 1) (by omega) (by omega)
      rw [Function.comp_apply, Bool.not_not]
      exact List.any_eq_true.2 ⟨q, hq, beq_iff_eq.2 hid⟩
  rw [List.find?_map, hfind, Option.map_some, Nat.sub_add_cancel h1]

/-- The key that a LINK_KEY brings. -/
def linkSlotOf (c : HostCmd) : KeySlot := ⟨c.a4 ++ c.a3 ++ c.a2 ++ c.a1, c.a5.setWidth 32, 0, true⟩

/-- The window that a FABRIC_WINDOW sets. -/
def windowOf (c : HostCmd) : Window :=
  ⟨bitOf c.a0.toNat 11, bitsOf c.a0.toNat 9 6, bitOf c.a0.toNat 10, bitsOf c.a0.toNat 25 16, c.a1.toNat, c.a2.toNat⟩

section Keys

variable {s : State} {c : HostCmd} (hd : (s.passCmd c.fn).deny c .pf0 = none)
include hd

theorem exec_keyAlloc_gives (hs : s.serves c 10 = true) (ha : c.a0.toNat ≤ 64) {k : Nat} (h1 : 1 ≤ k) (hk : k < 1024)
    (hfree : ∀ q ∈ s.fw.keys, q.id ≠ k) (hlow : ∀ i, 1 ≤ i → i < k → ∃ q ∈ s.fw.keys, q.id = i) :
    exec (.keyAlloc c) s = .next (State.answer { (s.passCmd c.fn).fresh with
      fw := { (s.passCmd c.fn).fw with keys := s.fw.keys ++ [⟨k, c.a0.toNat, s.nextId + 2⟩] } } c 0 0 [BitVec.ofNat 64 k]) := by
  have hfind : (((List.range 1023).map (· + 1)).find? fun k => !(s.passCmd c.fn).fw.keys.any fun q => q.id == k) = some k :=
    find?_free_key h1 hk hfree hlow
  rw [exec_keyAlloc, execKeyAlloc, State.serve_of_serves hs hd]
  dsimp only
  rw [if_neg (Nat.not_lt.2 ha), hfind]
  rfl

theorem exec_keyFree_used {q : Key} (hq : q ∈ s.fw.keys) (hs : s.serves c 11 = true) (hid : q.id = c.a0.toNat)
    (h : ∃ x ∈ s.fw.contexts, x.key = q.id) : exec (.keyFree c) s = .next ((s.passCmd c.fn).answer c 9 0 []) := by
  have hheld : ((s.passCmd c.fn).fw.keys.any fun q => q.id == c.a0.toNat) = true := List.any_eq_true.2 ⟨q, hq, beq_iff_eq.2 hid⟩
  have hused : ((s.passCmd c.fn).fw.contexts.any fun x => x.key == c.a0.toNat) = true := by
    obtain ⟨x, hx, hk⟩ := h
    exact List.any_eq_true.2 ⟨x, hx, beq_iff_eq.2 (hk.trans hid)⟩
  rw [exec_keyFree, execKeyFree, State.serve_of_serves hs hd]
  dsimp only
  rw [hheld, hused]
  rfl

theorem exec_keyFree_erases {q : Key} (hq : q ∈ s.fw.keys) (hs : s.serves c 11 = true) (hid : q.id = c.a0.toNat)
    (h : ∀ x ∈ s.fw.contexts, x.key ≠ q.id) :
    exec (.keyFree c) s = .next (State.answer { s.passCmd c.fn with
      fw := { (s.passCmd c.fn).fw with keys := s.fw.keys.filter fun x => x.id != q.id } } c 0 0 []) := by
  have hheld : ((s.passCmd c.fn).fw.keys.any fun q => q.id == c.a0.toNat) = true := List.any_eq_true.2 ⟨q, hq, beq_iff_eq.2 hid⟩
  have hfree : ((s.passCmd c.fn).fw.contexts.any fun x => x.key == c.a0.toNat) = false :=
    List.any_eq_false.2 fun x hx => by simpa [← hid] using h x hx
  rw [exec_keyFree, execKeyFree, State.serve_of_serves hs hd]
  dsimp only
  rw [hheld, hfree, hid]
  rfl

theorem exec_linkKey_held (hs : s.serves c 12 = true) (hdir : bitOf c.a0.toNat 4 = false)
    (hslot : (s.port (bitsOf c.a0.toNat 3 0)).slot = bitsOf c.a0.toNat 5 5)
    (hvalid : ((s.port (bitsOf c.a0.toNat 3 0)).sendKey (bitsOf c.a0.toNat 5 5)).valid = true) :
    exec (.linkKey c) s = .next ((s.passCmd c.fn).answer c 9 0 []) := by
  rw [exec_linkKey, execLinkKey, State.serve_of_serves hs hd]
  dsimp only
  rw [State.port_passCmd, hdir, hslot, hvalid, beq_self_eq_true]
  rfl

/-- A LINK_KEY for receiving, or for the slot that is not sent under, installs its key (R340, R341). -/
theorem exec_linkKey_installs (hs : s.serves c 12 = true) (hstate : (s.port (bitsOf c.a0.toNat 3 0)).state ≠ 1)
    (hfree : bitOf c.a0.toNat 4 = true ∨ (s.port (bitsOf c.a0.toNat 3 0)).slot ≠ bitsOf c.a0.toNat 5 5
      ∨ ((s.port (bitsOf c.a0.toNat 3 0)).sendKey (bitsOf c.a0.toNat 5 5)).valid = false) :
    exec (.linkKey c) s = .next (((s.passCmd c.fn).modPort (bitsOf c.a0.toNat 3 0) fun x =>
      x.install (bitOf c.a0.toNat 4) (bitsOf c.a0.toNat 5 5) (linkSlotOf c)).answer c 0 0 []) := by
  have hno : (!bitOf c.a0.toNat 4 && (s.port (bitsOf c.a0.toNat 3 0)).slot == bitsOf c.a0.toNat 5 5
      && ((s.port (bitsOf c.a0.toNat 3 0)).sendKey (bitsOf c.a0.toNat 5 5)).valid) = false := by
    rcases hfree with h | h | h
    · rw [h]; rfl
    · rw [beq_eq_false_iff_ne.2 h, Bool.and_false, Bool.false_and]
    · rw [h, Bool.and_false]
  rw [exec_linkKey, execLinkKey, State.serve_of_serves hs hd]
  dsimp only
  rw [State.port_passCmd, hno, if_neg Bool.false_ne_true, if_neg hstate]
  rfl

theorem exec_fabricWindow_sets (hs : s.serves c 13 = true) (hbase : c.a1.toNat % 2 ^ 16 = 0) (hlimit : c.a2.toNat % 2 ^ 16 = 0)
    (hle : c.a1.toNat ≤ c.a2.toNat) (hkey : bitsOf c.a0.toNat 25 16 = 0 ∨ ∃ q ∈ s.fw.keys, q.id = bitsOf c.a0.toNat 25 16) :
    exec (.fabricWindow c) s = .next (State.answer { s.passCmd c.fn with
      fab := { s.fab with windows := s.fab.windows.setIfInBounds (bitsOf c.a0.toNat 5 0) (windowOf c) } } c 0 0 []) := by
  have hheld : ¬(bitsOf c.a0.toNat 25 16 ≠ 0 ∧ ((s.passCmd c.fn).fw.keys.any fun q => q.id == bitsOf c.a0.toNat 25 16) = false) := by
    rintro ⟨hne, hno⟩
    obtain h | ⟨q, hq, hid⟩ := hkey
    · exact hne h
    · exact absurd (beq_iff_eq.2 hid) (List.any_eq_false.1 hno q hq)
  rw [exec_fabricWindow, execFabricWindow, State.serve_of_serves hs hd]
  dsimp only
  rw [if_neg (by omega), if_neg hheld]
  rfl

theorem exec_linkQuery_writes (hs : s.serves c 14 = true) (ha : c.a0.toNat < 16) :
    exec (.linkQuery c) s = .next (State.answer { s.passCmd c.fn with
      host := s.host.write (c.a1.toNat % 2 ^ 46) (s.port c.a0.toNat).record } c 0 0 []) := by
  rw [exec_linkQuery, execLinkQuery, State.serve_of_serves hs hd]
  dsimp only
  rw [if_neg (Nat.not_le.2 ha)]
  rfl

theorem exec_peerLost_declares (hs : s.serves c 15 = true) (hself : c.a0.toNat ≠ s.fab.device)
    (hpres : s.fab.present c.a0.toNat = true) :
    exec (.peerLost c) s = .next (((s.passCmd c.fn).declareLost c.a0.toNat).answer c 0 0 []) := by
  have hno : ¬(c.a0.toNat = (s.passCmd c.fn).fab.device ∨ (s.passCmd c.fn).fab.present c.a0.toNat = false) := by
    rintro (h | h)
    · exact hself h
    · exact Bool.false_ne_true (h.symm.trans hpres)
  rw [exec_peerLost, execPeerLost, State.serve_of_serves hs hd]
  dsimp only
  rw [if_neg hno]

/-! ### Maintenance (R366) -/

variable (hnew : ∀ j ∈ s.fw.jobs, j.cmd ≠ c) (hs : s.serves c 16 = true)
include hnew hs

theorem exec_maint_refused (h : s.fw.launches ≠ [] ∨ ∃ j ∈ s.fw.jobs, j.cmd.op = 6) :
    exec (.maint c) s = .next ((s.passCmd c.fn).answer c 9 0 []) := by
  have hno : ((s.passCmd c.fn).fw.launches.isEmpty && (s.passCmd c.fn).fw.jobs.all (·.cmd.op != 6)) = false := by
    rw [Bool.and_eq_false_iff]
    obtain h | ⟨j, hj, hop⟩ := h
    · exact .inl (List.isEmpty_eq_false_iff.2 h)
    · exact .inr (List.all_eq_false.2 ⟨j, hj, by simp [hop]⟩)
  rw [exec_maint_new hnew (State.quiesce_of_serves hs), State.serve_of_serves hs hd, hno, if_neg Bool.false_ne_true]

theorem exec_maint_starts (hl : s.fw.launches = []) (hj : ∀ j ∈ s.fw.jobs, j.cmd.op ≠ 6) :
    exec (.maint c) s = .next ((s.passCmd c.fn).addJob c) := by
  have hyes : ((s.passCmd c.fn).fw.launches.isEmpty && (s.passCmd c.fn).fw.jobs.all (·.cmd.op != 6)) = true := by
    rw [Bool.and_eq_true]
    exact ⟨List.isEmpty_iff.2 hl, List.all_eq_true.2 fun j h => by simpa using hj j h⟩
  rw [exec_maint_new hnew (State.quiesce_of_serves hs), State.serve_of_serves hs hd, hyes, if_pos rfl]

end Keys

/-! ### What a new key leaves of a port (R341) -/

theorem Port.install_recv (x : Port) {slot : Nat} (hslot : slot < 2) (ks : KeySlot) :
    (x.install true slot ks).recvKey slot = ks ∧ (x.install true slot ks).send = x.send := by
  refine ⟨?_, rfl⟩
  simp [Port.install, Port.recvKey, hslot]

theorem Port.install_send (x : Port) {slot : Nat} (hslot : slot < 2) (ks : KeySlot) :
    (x.install false slot ks).slot = slot ∧ (x.install false slot ks).sendKey slot = ks
      ∧ ((x.install false slot ks).sendKey (1 - slot)).valid = false ∧ (x.install false slot ks).recv = x.recv := by
  have hne : 1 - slot ≠ slot := by omega
  have hlt : 1 - slot < 2 := by omega
  refine ⟨rfl, ?_, ?_, rfl⟩
  · simp only [Port.install, Port.sendKey, Bool.false_eq_true, if_false]
    rw [Vector.getElem?_setIfInBounds_ne hne, Vector.getElem?_setIfInBounds_self_of_lt hslot]
    rfl
  · simp only [Port.install, Port.sendKey, Bool.false_eq_true, if_false]
    rw [Vector.getElem?_setIfInBounds_self_of_lt hlt]
    rfl

/-! ### Checkpoints (R367) -/

theorem exec_restore_late {s : State} {c : HostCmd} (hd : (s.passCmd c.fn).deny c .pf0 = none) (hs : s.serves c 18 = true) {k : Ckpt}
    (hk : s.ckpt = some k) (hc : s.fw.created = true) : exec (.restore c) s = .next ((s.passCmd c.fn).answer c 7 0 []) := by
  have hk' : (s.passCmd c.fn).ckpt = some k := hk
  have hc' : (s.passCmd c.fn).fw.created = true := hc
  rw [exec_restore, execRestore, State.serve_of_serves hs hd, hk']
  dsimp only
  rw [if_pos hc']

theorem exec_restore_brings {s : State} {c : HostCmd} (hd : (s.passCmd c.fn).deny c .pf0 = none) (hs : s.serves c 18 = true) {k : Ckpt}
    (hk : s.ckpt = some k) (hc : s.fw.created = false) :
    exec (.restore c) s = .next (((s.passCmd c.fn).bringBack k).answer c 0 0 []) := by
  have hk' : (s.passCmd c.fn).ckpt = some k := hk
  have hc' : (s.passCmd c.fn).fw.created = false := hc
  rw [exec_restore, execRestore, State.serve_of_serves hs hd, hk']
  dsimp only
  rw [hc', if_neg Bool.false_ne_true]

theorem State.sends_wearEvent (s : State) (old : Nat) : s.Sends (s.wearEvent old) := by
  unfold State.wearEvent
  split
  · exact .refl s
  · exact s.sends_post ..

theorem State.Sends.ckpt {s t : State} (h : s.Sends t) : t.ckpt = s.ckpt ∧ t.fw.quiesce = s.fw.quiesce := by
  obtain ⟨_, _, _, _, rfl⟩ := h
  exact ⟨rfl, rfl⟩

/-- A checkpoint that has been written out holds memory and the sealed state. -/
theorem State.writeOut_spec (s : State) : ∃ k : Ckpt, s.writeOut.ckpt = some k ∧ k.mem = s.mem ∧ k.blocks = s.blocks
    ∧ k.contexts = s.fw.contexts ∧ k.keys = s.fw.keys ∧ k.launches = s.fw.launches ∧ k.regions = s.regions
    ∧ s.writeOut.fw.quiesce = false ∧ s.writeOut.mem = s.mem := by
  unfold State.writeOut
  extract_lets old ck
  dsimp only [State.freeVal]
  obtain ⟨hckpt, hq⟩ := (State.sends_wearEvent { s with
    free := s.free + 1
    ckpt := some ck
    fw := { s.fw with quiesce := false, ckptBy := none, flash := max s.fw.flash ((Config.freeWord s.free).toNat % 101) } } old).ckpt
  exact ⟨ck, hckpt, rfl, rfl, rfl, rfl, rfl, rfl, hq, (State.sends_wearEvent _ old).mem⟩

theorem exec_checkpoint_writes {s : State} {c : HostCmd} (hc : s.fw.ckptBy = some (c.fn, c.cid)) (hr : s.atRest = true) :
    exec (.checkpoint c) s = .next (s.writeOut.answer c 0 0 []) := by
  rw [exec_checkpoint, execCheckpoint, if_pos hc, if_pos hr]

end Sys2Proof.Machine

namespace Sys2Proof
open Machine

/-- Settles O52, command by command. -/
theorem deviceCommandsAct : Obligations.DeviceCommandsAct := by
  intro s c hnew
  refine ⟨fun hd hck => ⟨fun k hs ha h1 hk hfree hlow =>
      ⟨_, _, exec_keyAlloc_gives hd hs ha h1 hk hfree hlow, rfl, rfl, rfl, rfl, s.passCmd_mem c.fn⟩,
    fun q hq hs hid => ⟨exec_keyFree_used hd hq hs hid, fun h =>
      ⟨_, exec_keyFree_erases hd hq hs hid h, rfl, s.passCmd_mem c.fn⟩⟩,
    fun hs => ?links, fun hs => ?windows, fun hs ha => exec_linkQuery_writes hd hs ha,
    fun hs hself hpres => exec_peerLost_declares hd hs hself hpres,
    fun hs => ⟨exec_maint_refused hd hnew hs, fun hl hj => ⟨⟨s.nextId, c, 0, false, none⟩, rfl, exec_maint_starts hd hnew hs hl hj⟩⟩,
    fun hs => (exec_checkpoint_new hck).trans (State.serve_of_serves hs hd _),
    fun k hs hk => ⟨exec_restore_late hd hs hk, fun hc =>
      ⟨_, exec_restore_brings hd hs hk hc, rfl, rfl, rfl, rfl, rfl, rfl, rfl, rfl, rfl, rfl⟩⟩⟩, fun hc hr => ?writes⟩
  case links =>
    intro p slot ks hstate
    have hp : p < 16 := bitsOf_lt _ 3 0
    have hslot : slot < 2 := bitsOf_lt _ 5 5
    refine ⟨fun hdir => ⟨_, exec_linkKey_installs hd hs hstate (.inl hdir), ?_⟩,
      fun hdir hfree => ⟨_, exec_linkKey_installs hd hs hstate (.inr hfree), ?_⟩, exec_linkKey_held hd hs⟩
    · obtain ⟨hkey, hsend⟩ := (s.port p).install_recv hslot (linkSlotOf c)
      rw [State.port_modPort_same _ hp, hdir]
      exact ⟨hkey, hsend, s.passCmd_mem c.fn⟩
    · obtain ⟨hnow, hkey, hold, hrecv⟩ := (s.port p).install_send hslot (linkSlotOf c)
      rw [State.port_modPort_same _ hp, hdir]
      exact ⟨hnow, hkey, hold, hrecv, s.passCmd_mem c.fn⟩
  case windows =>
    intro key hbase hlimit hle hkey
    refine ⟨_, exec_fabricWindow_sets hd hs hbase hlimit hle hkey, ?_, fun i hi => ?_, s.passCmd_mem c.fn⟩
    · exact Vector.getElem?_setIfInBounds_self_of_lt (bitsOf_lt _ 5 0)
    · exact Vector.getElem?_setIfInBounds_ne hi.symm
  case writes =>
    obtain ⟨k, hk, h⟩ := s.writeOut_spec
    exact ⟨_, k, exec_checkpoint_writes hc hr, hk, h⟩

end Sys2Proof
end

section
/-!
SUPPORT. The return from a handler to code in a peer's memory (R305, R131); O35. A meeting value whose word has still to be
fetched from a peer passes the check of R64 as the statement reads it, but RFT_REJOIN first asks for its line, and returns
nothing.
-/

namespace Sys2Proof
open Machine

/-- A group whose handler has come to its end: lane 0 waits at the rejoin, to return to the header at 0 with the meeting
value 128, which is in the next line of code; every other lane has exited. -/
def endedFarMeeting : Group :=
  { Group.zero with
    lanes := tab 32 fun l => if l = 0 then { Lane.zero with pc := 64, st := .rejoin 128, inTrap := true } else
      { Lane.zero with st := .exited false }
    active := some 0
    tstat := 1
    tmask := 1 }

/-- The block of that group, and its launch, whose code is one clause of 136 bytes at 0. -/
def blockOfFarMeeting : Block := { Block.zero with id := 2, launch := 1, groups := [endedFarMeeting] }
def launchOfFarMeeting : Launch := ⟨1, 0, 0, 7, placedRecord, 1, 1, 0, false, none, none, [], none⟩

/-- The tables, from 0x1000, that map virtual addresses from 0 to the memory of device 3. -/
def tablesToDevice3 : Memory := [(0x1000, 0x01), (0x1001, 0x20), (0x2000, 0x0F), (0x2005, 0x4C)]

/-- That group in a device wired to fifteen others: of the code's two lines, the core has fetched the first, whose header
is of class GEN with 16 words. -/
def farCode : State :=
  { State.reset with
    nextId := 10
    mem := ⟨tablesToDevice3, [], []⟩
    blocks := [blockOfFarMeeting]
    codebuf := [⟨0, 7, 0, [0, 0, 0, 0, 0, 0, 0x0F, 0xFF]⟩]
    fab := { Fabric.zero with wiring := 16 }
    fw := { State.reset.fw with
      contexts := [⟨7, 0, 0x1000, 0, 0, 0, 0, 0, none, 0, 0⟩]
      launches := [launchOfFarMeeting] } }

theorem checkret_farCode : farCode.checkret 0 launchOfFarMeeting 0 0 = true := by decide

theorem targetOk_farCode : farCode.targetOk 0 launchOfFarMeeting 128 = true := by decide

theorem lanes_endedFarMeeting :
    ∀ k, k < 32 → inMask endedFarMeeting.tmaskLanes k = true →
      (endedFarMeeting.lane k).exited = true ∨ (endedFarMeeting.lane k).st = .rejoin 128 := by decide

/-- TSTAT of that group after an event. -/
def tstatAfter (i : Instr) (s : State) : Option W64 :=
  match exec i s with
  | .next t => (t.group? 2 0).map (·.tstat)
  | _ => none

theorem tstatAfter_of_next {i : Instr} {s t : State} {g : Group} (h : exec i s = .next t) (hg : t.group? 2 0 = some g) :
    tstatAfter i s = some g.tstat := by
  rw [tstatAfter, h]
  exact congrArg (Option.map (·.tstat)) hg

/-- RFT_REJOIN asks for the line of the meeting value, so that the group stays in its handler. -/
theorem tstatAfter_rftRejoin_farCode : tstatAfter (.rftRejoin 2 0) farCode = some 1 := by decide

/-- Refutes O35: every premise of the return holds, as the meeting value's word, which stands in a peer's memory and has not
been fetched, is left to the fetch at the target; RFT_REJOIN asks for its line first, and TSTAT stays 1. -/
theorem not_trapEntryAndRejoin : ¬ Obligations.TrapEntryAndRejoin := by
  unfold Obligations.TrapEntryAndRejoin
  intro h
  obtain ⟨-, hrejoin⟩ := h farCode 2 0 blockOfFarMeeting endedFarMeeting launchOfFarMeeting rfl rfl rfl rfl
  obtain ⟨u, g, hnext, hgroup, -, -, hstat, -⟩ := hrejoin (by decide) (fun r hr => absurd hr List.not_mem_nil)
    ⟨0, by decide, by decide, 128, by decide⟩
    (fun k hk hm => (lanes_endedFarMeeting k hk hm).imp_right fun hst => ⟨128, hst, .inr targetOk_farCode⟩) checkret_farCode
  have hafter := tstatAfter_of_next hnext hgroup
  rw [tstatAfter_rftRejoin_farCode, hstat] at hafter
  exact absurd hafter (by decide)

end Sys2Proof
end

section
/-!
SUPPORT. The updates of a family (R256, R257, R259, R260): what the home's checks pass, what a registration leaves at the home,
and what an update that has been carried out leaves when it issues; O28.
-/

namespace Sys2Proof.Machine

/-! ### The request at the home -/

theorem State.homeReq_place {s : State} {c : Ctx} {h : HomeReq} (hh : s.homeReq c = some h) :
    h.blk = c.iss.blk ∧ h.grp = c.iss.grp := by
  have hfound := List.find?_some hh
  simp only [Bool.and_eq_true, beq_iff_eq] at hfound
  exact ⟨hfound.1.1.1, hfound.1.1.2⟩

theorem Ctx.askHome_begin (c : Ctx) (s : State) (m : Mask) (region ver : Nat) (op : HomeOp) (done : Bool) (waits : List Nat)
    (dst : Option Nat) (hf : Nat) : c.askHome (s.begin_ c) m region ver op done waits dst hf =
      (c.askHome s m region ver op done waits dst hf).begin_ c := rfl

/-- What a merge or rehash that has been carried out does to its group when it issues: d is written, and the cause waits. -/
def HomeReq.answerIn (h : HomeReq) (a : Merged) (g : Group) : Group :=
  let g := match h.dst with
    | some d => g.setS d (BitVec.ofNat 64 a.d)
    | none => g
  match a.cause with
  | none => g
  | some k => g.addAfter ⟨h.id, k.1, h.takers, true, BitVec.ofNat 64 k.2,
      if k.1 = .mcDataPoison then fkindOf 8 6 4 else hashFkind 9, h.pc⟩

/-- And to the machine: its request is gone, and the counters of its family register have risen. -/
def State.countAnswer (s : State) (h : HomeReq) (a : Merged) : State :=
  ({ s with home := s.home.filter fun q => q.id != h.id } : State).modBlock h.blk fun b =>
    b.addStats h.hf [0, 0, 0, 0, 0, 0, a.evicted, a.refused, 0]

/-- A merge or rehash that the home has carried out, with no cause that it raises itself. -/
structure HomeReq.CarriedOut (h : HomeReq) (a : Merged) : Prop where
  op : (∃ f, h.op = .merge f) ∨ ∃ old new rows, h.op = .rehash old new rows
  ans : h.ans = some a
  precise : a.precise = none

theorem HomeReq.CarriedOut.answered {h : HomeReq} {a : Merged} (hh : h.CarriedOut a) : h.answered = true := by
  obtain ⟨⟨f, ho⟩ | ⟨old, new, rows, ho⟩, ha, hp⟩ := hh <;> simp [HomeReq.answered, ho, ha, hp]

theorem State.homeEffect_carriedOut {h : HomeReq} {a : Merged} (s : State) (hh : h.CarriedOut a) :
    s.homeEffect h = (s.countAnswer h a).modGroup h.blk h.grp (h.answerIn a) := by
  have hprecise : ¬ a.precise.isSome = true := by simp [hh.precise]
  unfold State.homeEffect
  obtain ⟨⟨f, ho⟩ | ⟨old, new, rows, ho⟩, ha, -⟩ := hh
  · rw [ho, ha]
    exact if_neg hprecise
  · rw [ho, ha]
    exact if_neg hprecise

theorem State.countAnswer_begin {s : State} {c : Ctx} {h : HomeReq} (a : Merged) (hb : h.blk = c.iss.blk) :
    (s.begin_ c).countAnswer h a = (s.countAnswer h a).begin_ c := by
  unfold State.countAnswer
  rw [hb]
  exact State.modBlock_comm ({ s with home := s.home.filter fun q => q.id != h.id } : State) c.iss.blk
    (f := fun b => b.modGroup c.iss.grp c.start) (g := fun b => b.addStats h.hf [0, 0, 0, 0, 0, 0, a.evicted, a.refused, 0])
    (fun _ => rfl) (fun _ => rfl) fun _ => rfl

/-- An update that the home has carried out issues for the lanes of its request; those that have come since stay. -/
theorem State.issue_carriedOut {s : State} {c : Ctx} {f : Ctx → State → Res} {go : HomeReq → Res} {k : Res} {h : HomeReq}
    {a : Merged} (hc : s.ctx? = some c) (hf : f c (s.begin_ c) = c.answerOr (s.begin_ c) go k) (hh : s.homeReq c = some h)
    (ho : h.CarriedOut a) :
    s.issue f = .next ((s.countAnswer h a).after c 1 (c.iss.lanes &&& ~~~h.lanes)
      fun g => c.stayOf (c.iss.lanes &&& ~~~h.lanes) (h.answerIn a g)) := by
  obtain ⟨hb, hg⟩ := State.homeReq_place hh
  refine State.issue_leaves hc (hf.trans ?_)
  rw [Ctx.answerOr, State.homeReq_begin, hh]
  dsimp only
  rw [if_pos ho.answered, State.homeEffect_carriedOut _ ho, Ctx.issuesFor_done, State.countAnswer_begin a hb, hb, hg,
    State.modGroup_modGroup]

/-! ### The home's checks -/

/-- The families that a register names begin with its own. -/
theorem Block.head_fams {b : Block} {i : Nat} {fs : List FamImg} (h : b.fams i = some fs) :
    fs.head?.getD (Vector.replicate 8 0) = b.fam i := by
  unfold Block.fams famsOf at h
  split at h
  · cases h
  · split at h
    · cases h
      rfl
    · split at h
      · cases h
      · cases h
        rfl

/-- The home passes an update of version P + 1 that is not above top(F) and has no other cause. -/
theorem Ctx.anyCause_updateCauses {s : State} {c : Ctx} {m : Mask} {num v : Nat} {r : Region} {late : List (Cause × Mask)}
    (hreg : s.region? c.b.launch num = some r) (hv : v = r.pub + 1) (htop : v ≤ r.top) (hlate : anyCause late = false) :
    anyCause (Ctx.updateCauses s c m num v false late) = false := by
  unfold Ctx.updateCauses
  rw [hreg]
  dsimp only
  rw [if_neg (by omega), if_neg (by simp [Nat.not_lt.2 htop]), if_pos hv]
  unfold anyCause at hlate ⊢
  rw [List.any_append, hlate]
  rfl

section Update

variable {s : State} {c : Ctx} {x : VForm} {v : Nat} {f : FamImg} {r : Region}
  (hreg : s.region? c.b.launch f.region = some r) (hq : s.quiet c.iss.blk c.iss.grp (c.on x.g) 4 = true)
  (hv : v = r.pub + 1) (htop : v ≤ r.top)
include hreg hq hv htop

/-- An update that the home will pass, whose set's accesses are performed, sends its registration. -/
theorem Ctx.update_sends {late : List (Cause × Mask)} (hlate : anyCause late = false) (send : State → Res) :
    c.update (s.begin_ c) x v false f late send = send (s.begin_ c) := by
  have hreg' : (s.begin_ c).region? c.b.launch f.region = some r := hreg
  have hq' : (s.begin_ c).quiet c.iss.blk c.iss.grp (c.on x.g) 4 = true := hq
  unfold Ctx.update
  dsimp only
  rw [Ctx.anyCause_updateCauses hreg' hv htop hlate, hreg', hq']
  rfl

end Update

/-! ### HINS and HDEL (R257) -/

theorem sideRun_hins (fs : List FamImg) : sideRun .hins fs = famWords fs := if_pos rfl

theorem sideRun_hdel (fs : List FamImg) : sideRun .hdel fs = 0 := if_neg (by decide)

theorem Ctx.anyCause_sideCauses {c : Ctx} {x : VForm} {kind : RetKind} {fs : List FamImg} {m rl : Mask}
    (hrun : x.d.vnum + sideRun kind fs ≤ 128) (hid : ∀ l, inMask rl l = true → ∀ q ∈ fs, c.sideId x l < q.maxid) :
    anyCause (c.sideCauses x kind fs m rl) = false := by
  have hids : (maskOf fun l => inMask rl l && fs.any fun f => decide (f.maxid ≤ c.sideId x l)) = 0#32 :=
    (votes_eq_zero_iff _ _).2 fun l hl => List.any_eq_false.2 fun q hq => by simpa using hid l hl q hq
  unfold Ctx.sideCauses
  rw [hids, if_neg (Nat.not_lt.2 hrun)]
  rfl

/-- The record that an HINS or HDEL leaves behind when it issues. -/
def Ctx.sideProbe (c : Ctx) (s : State) (x : VForm) (n : Nat) (kind : RetKind) (fam : Vector FamImg 2) (w : Nat) (h : HomeReq)
    (m : Mask) : Probe :=
  ⟨s.nextId, c.iss.blk, c.iss.grp, m, kind, x.d.vnum, n, BitVec.ofNat 64 h.ver,
    (lanesOf m).map (fun l => (l, c.sideId x l, (List.range w).map fun i => (c.r.lane l).vreg (x.d.vnum + 2 * i))),
    fam, true, false, []⟩

section Side

variable {s : State} {c : Ctx} {x : VForm} {n : Fin 8} (hc : s.ctx? = some c) (hb : x.b = .hf n)
include hb

include hc in
/-- What an HINS or HDEL that nothing holds back sends to the home. -/
theorem State.issue_side_asks {kind : RetKind} {fs : List FamImg} {r : Region} {v : Nat} (hr : c.real x.g ≠ 0)
    (hh : s.homeReq c = none) (hfs : c.b.fams n = some fs) (hsc : c.g.sc < 255)
    (hreg : s.region? c.b.launch (c.b.fam n).region = some r) (hq : s.quiet c.iss.blk c.iss.grp (c.on x.g) 4 = true)
    (hp : (c.sval x.c).toNat < 2 ^ 32) (hver : bitsOf (c.sval x.c).toNat 31 0 = v) (hv : v = r.pub + 1) (htop : v ≤ r.top)
    (hrun : x.d.vnum + sideRun kind fs ≤ 128)
    (hid : ∀ l, inMask (c.real x.g) l = true → ∀ q ∈ fs, c.sideId x l < q.maxid) :
    s.issue (fun c s => c.sideUpdate s x kind) =
      .next ((c.askHome s (c.on x.g) (c.b.fam n).region v (.side (tab 2 fun i => c.b.fam (n + i)))).waits c id) := by
  refine State.issue_waits hc ?_
  have hfull : c.full .sc = false := Ctx.full_of_lt hsc
  have hlow : decide (2 ^ 32 ≤ (c.sval x.c).toNat) = false := decide_eq_false (Nat.not_le.2 hp)
  have hnum : Opnd.hfnum x.b = n := by rw [hb]; rfl
  unfold Ctx.sideUpdate
  rw [Ctx.answerOr_none hh, hnum, hfs]
  dsimp only
  rw [if_neg hr, hfull, Block.head_fams hfs, hlow, hver, if_neg Bool.false_ne_true,
    Ctx.update_sends hreg hq hv htop (Ctx.anyCause_sideCauses hrun hid), Ctx.askHome_begin]

/-- A registered HINS or HDEL that nothing holds back issues for the lanes it was registered for, with the families it was
registered with. -/
theorem Ctx.sideIssue_leaves {kind : RetKind} {fam : Vector FamImg 2} {gs : List FamImg} {h : HomeReq} (t : State)
    (hgs : famsOf fam[0] fam[1] = some gs) (hsc : c.g.sc < 255) (hrun : x.d.vnum + sideRun kind gs ≤ 128)
    (hid : ∀ l, inMask (c.askedOn h) l = true → ∀ q ∈ gs, c.sideId x l < q.maxid) :
    let m := maskOf fun l => inMask (c.askedOn h) l && !(c.r.lane l).helper
    c.sideIssue t x kind fam h = c.leave (t.dropHome h.id) (c.insn .sc m [] []) 0
      (c.sideProbe t x n kind fam (sideRun kind gs / 2) h m) := by
  intro m
  have hlanes : ∀ l, inMask m l = true → ∀ q ∈ gs, c.sideId x l < q.maxid := fun l hl => by
    simp only [m, inMask_maskOf, Bool.and_eq_true] at hl
    exact hid l hl.2.1
  have hnum : Opnd.hfnum x.b = n := by rw [hb]; rfl
  have hnone : anyCause (c.sideCauses x kind gs (c.askedOn h) m) = false := Ctx.anyCause_sideCauses hrun hlanes
  have hfull : c.full .sc = false := Ctx.full_of_lt hsc
  unfold Ctx.sideIssue
  rw [hgs]
  dsimp only [Option.getD_some]
  rw [if_neg (ne_true_of_eq_false hnone), if_neg (ne_true_of_eq_false hfull), Ctx.sideProbe, ← hnum]
  rfl

include hc in
/-- A registered HINS or HDEL leaves its record and raises SC. -/
theorem State.issue_side_leaves {kind : RetKind} {fam : Vector FamImg 2} {gs : List FamImg} {h : HomeReq} {w : Nat}
    (hh : s.homeReq c = some h) (ho : h.op = .side fam) (hd : h.done = true) (hgs : famsOf fam[0] fam[1] = some gs)
    (hsc : c.g.sc < 255) (hrun : x.d.vnum + sideRun kind gs ≤ 128)
    (hid : ∀ l, inMask (c.askedOn h) l = true → ∀ q ∈ gs, c.sideId x l < q.maxid) (hw : sideRun kind gs / 2 = w) :
    let m := maskOf fun l => inMask (c.askedOn h) l && !(c.r.lane l).helper
    s.issue (fun c s => c.sideUpdate s x kind) =
      .next (({ s with
        nextId := s.nextId + 1
        home := s.home.filter fun q => q.id != h.id
        probes := s.probes ++ [c.sideProbe s x n kind fam w h m] } : State).after c 1
          (c.iss.lanes &&& ~~~h.lanes) fun g => c.stayOf (c.iss.lanes &&& ~~~h.lanes) { g with
            insns := g.insns ++ [(⟨s.nextId, .sc, c.iss.pc, m, [], [], [], false⟩ : Insn)]
            sc := g.sc + 1 }) := by
  intro m
  refine State.issue_leaves hc ?_
  have hopen : h.answered = false := by simp [HomeReq.answered, ho]
  unfold Ctx.sideUpdate
  rw [Ctx.answerOr_open hh hopen, ho]
  dsimp only
  rw [if_pos hd, Ctx.sideIssue_leaves hb _ hgs hsc hrun hid, hw, Ctx.leave, Ctx.issuesFor_done, State.modGroup_modGroup]
  rfl

end Side

/-! ### HMERGE (R259) -/

section Merge

variable {s : State} {c : Ctx} {x : VForm} {n : Fin 8} (hc : s.ctx? = some c) (hu : c.unshielded) (hb : x.b = .hf n)
include hc hu hb

theorem exec_hmerge_asks {r : Region} {v : Nat} (hr : c.real x.g ≠ 0) (hh : s.homeReq c = none)
    (hset : (c.b.fam n).unset = false) (hreg : s.region? c.b.launch (c.b.fam n).region = some r)
    (hq : s.quiet c.iss.blk c.iss.grp (c.on x.g) 4 = true) (hp : (c.sval x.c).toNat < 2 ^ 32)
    (hver : bitsOf (c.sval x.c).toNat 31 0 = v) (hv : v = r.pub + 1) (htop : v ≤ r.top) :
    exec (.hmerge x) s = .next ((c.askHome s (c.on x.g) (c.b.fam n).region v (.merge (c.b.fam n)) false [] x.d.sdst? n).waits
      c id) := by
  refine ((exec_hmerge x s).trans (State.issueN_on hc hu x.g)).trans (State.issue_waits hc ?_)
  have hlow : decide (2 ^ 32 ≤ (c.sval x.c).toNat) = false := decide_eq_false (Nat.not_le.2 hp)
  have hnum : Opnd.hfnum x.b = n := by rw [hb]; rfl
  dsimp only
  rw [Ctx.answerOr_none hh, if_neg hr, hnum, if_neg (ne_true_of_eq_false hset), hlow, hver,
    Ctx.update_sends hreg hq hv htop rfl, Ctx.askHome_begin]

omit hb in
theorem exec_hmerge_issues {h : HomeReq} {a : Merged} (hh : s.homeReq c = some h) (ho : h.CarriedOut a) :
    exec (.hmerge x) s = .next ((s.countAnswer h a).after c 1 (c.iss.lanes &&& ~~~h.lanes)
      fun g => c.stayOf (c.iss.lanes &&& ~~~h.lanes) (h.answerIn a g)) :=
  ((exec_hmerge x s).trans (State.issueN_on hc hu x.g)).trans (State.issue_carriedOut hc rfl hh ho)

end Merge

/-! ### HREHASH (R260) -/

/-- The cursor of a family lies in memory, which the set's lanes do not change as they begin an instruction. -/
theorem Lines.cursor_begin (s : State) (c : Ctx) (r : Region) (v : Nat) (f : FamImg) :
    Lines.cursor ⟨s.begin_ c, r, v⟩ f = Lines.cursor ⟨s, r, v⟩ f := rfl

/-- The rows that the bytes of an HREHASH's array hold: a word for each table. -/
def rehashRows (rows tables : Nat) (bs : List Byte) : List (List Nat) :=
  (List.range rows).map fun q => (List.range tables).map fun j => ofLe ((bs.drop (4 * (q * tables + j))).take 4)

/-- What an HREHASH sends to the home once its array has been read. -/
def Ctx.rehashing (c : Ctx) (x : VForm) (n v rows : Nat) (old new : FamImg) (bs : List Byte) (t : State) : Res :=
  .wait (c.askHome t (c.on x.g) old.region v (.rehash old new (rehashRows rows new.tables bs)) false [] x.d.sdst? n)

section Rehash

variable {s : State} {c : Ctx} {x : VForm} {n : Fin 8} (hc : s.ctx? = some c) (hu : c.unshielded)
include hc hu

theorem exec_hrehash_issues {h : HomeReq} {a : Merged} (hh : s.homeReq c = some h) (ho : h.CarriedOut a) :
    exec (.hrehash x) s = .next ((s.countAnswer h a).after c 1 (c.iss.lanes &&& ~~~h.lanes)
      fun g => c.stayOf (c.iss.lanes &&& ~~~h.lanes) (h.answerIn a g)) :=
  ((exec_hrehash x s).trans (State.issueN_on hc hu x.g)).trans (State.issue_carriedOut hc rfl hh ho)

section Reads

variable {r : Region} {new : FamImg} {v rows a : Nat} (hb : x.b = .hf n) (hr : c.real x.g ≠ 0) (hh : s.homeReq c = none)
  (hset : (c.b.fam n).unset = false) (heven : n.val % 2 = 0) (hpair : (c.b.fam n).pair = true)
  (hfs : c.b.fams n = some [c.b.fam n, new]) (hreg : s.region? c.b.launch (c.b.fam n).region = some r)
  (hq : s.quiet c.iss.blk c.iss.grp (c.on x.g) 4 = true) (hver : bitsOf (c.sval x.c).toNat 31 0 = v) (hv : v = r.pub + 1)
  (htop : v ≤ r.top) (hhigh : bitsOf (c.sval x.c).toNat 63 48 = 0) (hrows : bitsOf (c.sval x.c).toNat 47 32 = rows)
  (hrows1 : 1 ≤ rows) (hrows2 : rows ≤ 4096) (hcur : Lines.cursor ⟨s, r, v⟩ (c.b.fam n) + rows ≤ (c.b.fam n).maxid)
  (ha : (c.sval x.a).toNat = a) (halign : a % 4 = 0) (hend : a + 4 * rows * new.tables ≤ 2 ^ 52)
include hb hr hh hset heven hpair hfs hreg hq hver hv htop hhigh hrows hrows1 hrows2 hcur ha halign hend

/-- Under the home's checks, after the set's accesses, HREHASH reads its array. -/
theorem exec_hrehash_reads : ∃ f, exec (.hrehash x) s = s.issue f ∧ f c (s.begin_ c) =
    c.reading (s.begin_ c) (c.on x.g) a (4 * rows * new.tables) 8 id (c.rehashing x n v rows (c.b.fam n) new) := by
  refine ⟨_, (exec_hrehash x s).trans (State.issueN_on hc hu x.g), ?_⟩
  have hnum : Opnd.hfnum x.b = n := by rw [hb]; rfl
  have hreg' : (s.begin_ c).region? c.b.launch (c.b.fam n).region = some r := hreg
  have hunpaired : ¬(n.val % 2 = 1 ∨ (!(c.b.fam n).pair) = true) := by simp [heven, hpair]
  have hlate : anyCause (causesOf (c.on x.g)
      [(bitsOf (c.sval x.c).toNat 63 48 != 0 || rows == 0 || decide (4096 < rows), .hashParam),
       (decide ((c.b.fam n).maxid < Lines.cursor ⟨s.begin_ c, r, v⟩ (c.b.fam n) + rows), .hashRehashState),
       (a % 4 != 0, .misaligned), (decide (2 ^ 52 < a + 4 * rows * new.tables), .addressNoncanonical)]) = false := by
    refine anyCause_causesOf (fun q hmem => ?_) _
    simp only [List.mem_cons, List.not_mem_nil, or_false] at hmem
    rcases hmem with rfl | rfl | rfl | rfl
    · simp only [Bool.or_eq_false_iff, bne_eq_false_iff_eq, beq_eq_false_iff_ne, decide_eq_false_iff_not]
      omega
    · rw [Lines.cursor_begin]
      exact decide_eq_false (Nat.not_lt.2 hcur)
    · simp [halign]
    · exact decide_eq_false (Nat.not_lt.2 hend)
  dsimp only
  rw [Ctx.answerOr_none hh, if_neg hr, hnum, if_neg (ne_true_of_eq_false hset), if_neg hunpaired, hfs]
  dsimp only
  rw [hver, hrows, ha, hreg']
  exact Ctx.update_sends hreg hq hv htop hlate _

theorem exec_hrehash_begins (hp : s.preAt c = none) : exec (.hrehash x) s = .next ((s.beginPre
    ⟨0, c.iss.blk, c.iss.grp, c.on x.g, c.iss.pc, false, a, 4 * rows * new.tables, [], none, none⟩ c.b.core (c.on x.g)).waits
      c id) := by
  obtain ⟨f, hexec, hf⟩ := exec_hrehash_reads hc hu hb hr hh hset heven hpair hfs hreg hq hver hv htop hhigh hrows hrows1
    hrows2 hcur ha halign hend
  exact hexec.trans (State.issue_waits hc (hf.trans (Ctx.reading_begins hp _ _ _ _ _ _)))

theorem exec_hrehash_asks {y : PreRead} {bs : List Byte} (hp : s.preAt c = some y) (hy : y.addr = a)
    (hsize : y.size = 4 * rows * new.tables) (hfail : y.fail = none) (hbs : y.bytes? = some bs) :
    exec (.hrehash x) s = .next ((c.askHome (s.dropPre y.id) (c.on x.g) (c.b.fam n).region v
      (.rehash (c.b.fam n) new (rehashRows rows new.tables bs)) false [] x.d.sdst? n).waits c id) := by
  obtain ⟨f, hexec, hf⟩ := exec_hrehash_reads hc hu hb hr hh hset heven hpair hfs hreg hq hver hv htop hhigh hrows hrows1
    hrows2 hcur ha halign hend
  rw [← hy, ← hsize, Ctx.reading_goesOn hp hfail hbs, Ctx.rehashing, Ctx.askHome_begin] at hf
  exact hexec.trans (State.issue_waits hc hf)

end Reads

end Rehash

end Sys2Proof.Machine

namespace Sys2Proof
open Machine

/-- Settles O28: each update's registration, and its course once it is registered or carried out. -/
theorem updatesRegisterAndAct : Obligations.UpdatesRegisterAndAct := by
  intro s c x n r hc hu hb hr hreg p v f m asks next late issued
  have hquiet : next → s.quiet c.iss.blk c.iss.grp (c.on x.g) 4 = true := fun hn => hn.1.elim id fun hidle => hidle.quiet _ _
  have hissued : ∀ h a, s.homeReq c = some h → (s.countAnswer h a).after c 1 (c.iss.lanes &&& ~~~h.lanes)
      (fun g => c.stayOf (c.iss.lanes &&& ~~~h.lanes) (h.answerIn a g)) = issued h a := fun h a hh => by
    rw [State.countAnswer, (State.homeReq_place hh).1]
    rfl
  have hside : ∀ kind, s.issueN 1 (·.on x.g) (fun c s => c.sideUpdate s x kind) = s.issue fun c s => c.sideUpdate s x kind :=
    fun _ => State.issueN_on hc hu x.g
  refine ⟨fun fs hfs hsc => ⟨fun hid hp hn => ?side, fun h fam gs hh ho hd hgs hid => ?registered⟩,
    fun hset => ⟨fun hp hn => ?merge, fun h a q hh ho ha hpr => ?merged⟩,
    fun new hset heven hpair hfs => ⟨fun hn hhigh h1 h2 hcur halign hend => ?rehash,
      fun h a old fresh rs hh ho ha hpr => ?rehashed⟩⟩
  case side =>
    obtain ⟨-, hv, htop, hh⟩ := id hn
    have hasks : ∀ kind, x.d.vnum + sideRun kind fs ≤ 128 → s.issueN 1 (·.on x.g) (fun c s => c.sideUpdate s x kind) =
        .next (asks s (.side (tab 2 fun i => c.b.fam (n + i))) none 0) := fun kind hrun =>
      (hside kind).trans (State.issue_side_asks hc hb hr hh hfs hsc hreg (hquiet hn) hp rfl hv htop hrun hid)
    exact ⟨fun hrun => (exec_hins x s).trans (hasks .hins (sideRun_hins fs ▸ hrun)),
      fun hrun => (exec_hdel x s).trans (hasks .hdel (sideRun_hdel fs ▸ hrun))⟩
  case registered =>
    exact ⟨fun hrun => ((exec_hins x s).trans (hside .hins)).trans
        (State.issue_side_leaves hc hb hh ho hd hgs hsc (sideRun_hins gs ▸ hrun) hid (by rw [sideRun_hins])),
      fun hrun => ((exec_hdel x s).trans (hside .hdel)).trans
        (State.issue_side_leaves hc hb hh ho hd hgs hsc (sideRun_hdel gs ▸ hrun) hid (by rw [sideRun_hdel]))⟩
  case merge =>
    obtain ⟨-, hv, htop, hh⟩ := id hn
    exact exec_hmerge_asks hc hu hb hr hh hset hreg (hquiet hn) hp rfl hv htop
  case merged => exact hissued h a hh ▸ exec_hmerge_issues hc hu hh ⟨.inl ⟨q, ho⟩, ha, hpr⟩
  case rehash =>
    obtain ⟨-, hv, htop, hh⟩ := id hn
    exact ⟨fun hreads => exec_hrehash_begins hc hu hb hr hh hset heven hpair hfs hreg (hquiet hn) rfl hv htop hhigh rfl h1 h2
        hcur rfl halign hend hreads,
      fun y bs hreads hy hsize hfail hbs => exec_hrehash_asks hc hu hb hr hh hset heven hpair hfs hreg (hquiet hn) rfl hv htop
        hhigh rfl h1 h2 hcur rfl halign hend hreads hy hsize hfail hbs⟩
  case rehashed => exact hissued h a hh ▸ exec_hrehash_issues hc hu hh ⟨.inr ⟨old, fresh, rs, ho⟩, ha, hpr⟩

end Sys2Proof
end
